-- ==== Sys2Proof/Word.lean ====
section
/-! DEFINITION. The word types of the model: the 128-bit operation word and the byte. -/

namespace Sys2Proof

/-- An operation word, 128 bits (R119). -/
abbrev OpWord := BitVec 128

/-- A byte of any memory of the module. -/
abbrev Byte := BitVec 8

end Sys2Proof
end

