-- ==== Sys2Proof/Syntax.lean ====
section
/-! DEFINITION. The commands of the block, one constructor a row of the opcode table, with the operands that come from outside:
the unit a row names, the value a driver writes, the message a link delivers, what a physical test or sensor shows. -/

namespace Sys2Proof

/-- The way by which an access reaches the dictionary (R427). -/
inductive Path where
  | portA
  | portB
  | can
  deriving DecidableEq, Repr

/-- What a link's training shows from outside (R292 to R295). -/
structure LinkEnv where
  /-- the step that fails, by its FAIL reason; 0 when training ends up -/
  fail : Nat
  farAddr : Nat
  farValid : Bool
  farLink : Nat
  farVersions : Nat
  /-- probe round trips less turnaround, in ns -/
  probes : List Nat
  deriving DecidableEq, Repr

/-- What cast-on meets on the pins and in the module's tests (Table 18-1, R521). -/
structure CastEnv where
  pos : Nat
  boot : Nat
  tenMv : Nat
  refclk : Bool
  maLock : Bool
  mbLock : Bool
  deadBridges : List Nat
  /-- physical slots 17 g + k that fail their tests -/
  deadSlots : List Nat
  deadClusters : List Nat
  deadChannels : List Nat
  deadStacks : List Nat
  /-- media engines that fail their memory test -/
  deadEngines : List Nat
  /-- rows that fail the quick pass: (stack, row) -/
  badRows : List (Nat × Nat)
  links : List LinkEnv
  portA : Bool
  portB : Bool
  /-- supervisors that do not boot: 0 A, 1 B -/
  deadSup : List Nat
  deriving DecidableEq, Repr

/-- Why a PCIe port is reset (R440). -/
inductive PortCause where
  | perst
  | flr
  | linkDown
  deriving DecidableEq, Repr

/-- A HELLO control flit (R292). -/
structure Hello where
  addr : Nat
  valid : Bool
  link : Nat
  lane : Nat
  versions : Nat
  deriving DecidableEq, Repr

/-- A message: the header of Table 10-8 field by field, whether a reserved field is not 0, and the data (R299). -/
structure Msg where
  op : Nat
  mv : Nat
  fmken : Bool
  dfa : Nat
  sfa : Nat
  dpart : Nat
  spart : Nat
  tag : Nat
  genr : Nat
  pidx : Nat
  srcu : Nat
  fbuf : Nat
  foff : Nat
  lenq : Nat
  fmk : Nat
  arg : Nat
  mid : Nat
  resv : Bool
  data : List Byte
  deriving DecidableEq, Repr

/-- What error detection shows on a read (R326 to R328). -/
inductive EccSeen where
  | clean
  | linkCorrected
  | retried (n : Nat)
  | corrected
  | uncorrectable
  /-- the unit's tag does not match its address -/
  | wrongTag
  deriving DecidableEq, Repr

/-- A request to memory (R318, R323). -/
structure MemReq where
  write : Bool
  addr : Nat
  cls : Nat
  data : List Byte
  seen : EccSeen
  deriving DecidableEq, Repr

/-- What a swatch run meets (R335). -/
structure SwatchSeen where
  bursts : Nat
  errBursts : Nat
  errBits : Nat
  first : List Byte
  deriving DecidableEq, Repr

/-- A mailbox command as the driver left it in the mailbox (R437). -/
structure MbReq where
  cmd : Nat
  idx : Nat
  sub : Nat
  seg : Nat
  len : Nat
  data : List Byte
  /-- SEQ as written to MB_DOORBELL -/
  seq : Nat
  deriving DecidableEq, Repr

/-- A USDO request frame, by what it asks (R429; the bytes of the frames are CiA 1301's): an upload; an expedited download; the start of a
segmented download of `size` bytes; its next segment, with the mark of the last; the next segment of an upload, of at most `n` bytes; an abort;
any other command specifier. -/
inductive UsdoReq where
  | read (idx sub : Nat)
  | write (idx sub : Nat) (data : List Byte)
  | start (idx sub size : Nat)
  | segment (data : List Byte) (last : Bool)
  | more (n : Nat)
  | abort
  | other
  deriving DecidableEq, Repr

/-- A host access through BAR2 (R438); `ep` is the poison mark of a write. -/
structure BarAcc where
  write : Bool
  ep : Bool
  off : Nat
  len : Nat
  data : List Byte
  deriving DecidableEq, Repr

/-- What a loop-back has met when it ends: bit errors or failed test flits, the lanes with failed bits (Tables 10-14 and 18-11), and whether the
far partner has entered it (R311, R528). -/
structure LoopSeen where
  errors : Nat
  lanes : Nat
  entered : Bool
  deriving DecidableEq, Repr

/-- The EMCY conditions (R433). -/
inductive EmcyCond where
  | vin
  | junction
  | trip
  | hw
  | supLost
  | replacement
  | takeover
  deriving DecidableEq, Repr

/-- What the limiter reads: measured input power, and by partition its estimates at OP0 to OP7, all in mW (R468). -/
structure LimitEnv where
  power : Nat
  est : List (List Nat)
  deriving DecidableEq, Repr

/-- The unit a hardware fault names, and whether its test fails; a stack row by number, and whether soft repair can mend it (R496). -/
inductive HwCause where
  | slot (g k : Nat) (testFails : Bool)
  | cluster (g : Nat) (testFails : Bool)
  | row (stack row : Nat) (mends : Bool)
  | link (l : Nat) (testFails : Bool)
  | engine (e : Nat) (testFails : Bool)
  deriving DecidableEq, Repr

/-- What the health sampling reads (R443). -/
structure HealthEnv where
  temps : List Int
  tenMv : Nat
  watts : Nat
  tenMa : Nat
  deriving DecidableEq, Repr

/-- The commands: one constructor a row of the opcode table. -/
inductive Instr where
  /-- CAST_ON (R521). -/
  | castOn (env : CastEnv)
  /-- REFCLK_QUALIFY (R448). -/
  | refclkQualify (env : CastEnv)
  /-- LINK_TRAIN (R292). -/
  | linkTrain (link : Nat) (env : LinkEnv)
  /-- SHUTDOWN (R514). -/
  | shutdown
  /-- VIN_OUT_OF_RANGE (R515). -/
  | vinOutOfRange (tenMv : Nat)
  /-- VIN_RETURN (R515). -/
  | vinReturn (tenMv : Nat) (env : CastEnv)
  /-- MOD_RST_ASSERT (R516). -/
  | modRstAssert
  /-- PERST_DEASSERT (R517). -/
  | perstDeassert (port : Nat) (trained : Bool)
  /-- PORT_RESET (R440). -/
  | portReset (port : Nat) (cause : PortCause)
  /-- NOP (R121). -/
  | nop (core : Nat)
  /-- HALT (R121). -/
  | halt (core : Nat)
  /-- FAULT (R151). -/
  | fault (core : Nat)
  /-- SET (R121). -/
  | set (core : Nat)
  /-- ADD (R121). -/
  | add (core : Nat)
  /-- DBNZ (R121). -/
  | dbnz (core : Nat)
  /-- BCMP (R121). -/
  | bcmp (core : Nat)
  /-- RCTX (R123). -/
  | rctx (core : Nat)
  /-- STREAM_END (R151). -/
  | streamEnd (core : Nat)
  /-- STREAM_FETCH_RETURN (R122). -/
  | streamFetchReturn (core : Nat) (lost : Option Nat)
  /-- MSIG (R142). -/
  | msig (core : Nat)
  /-- MWAIT (R140). -/
  | mwait (core : Nat)
  /-- MRST (R140). -/
  | mrst (core : Nat)
  /-- MARKER_UPDATE (R141). -/
  | markerUpdate (g n : Nat)
  /-- WAIT_TIMEOUT (R148). -/
  | waitTimeout (core : Nat)
  /-- AX (R125). -/
  | ax (core : Nat)
  /-- AR (R126). -/
  | ar (core : Nat)
  /-- TILE_START (R81). -/
  | tileStart (core wait : Nat)
  /-- TILE_COMPLETE (R90). -/
  | tileComplete (core : Nat)
  /-- DRAIN_ROW_WRITE (R83). -/
  | drainRowWrite (core : Nat)
  /-- ARRAY_ECC (R107). -/
  | arrayEcc (core half : Nat)
  /-- ARRAY_PARITY (R107). -/
  | arrayParity (core : Nat)
  /-- RAMP_DOWN (R92). -/
  | rampDown (core : Nat)
  /-- RAMP_COLUMN_STEP (R92). -/
  | rampColumnStep (core : Nat)
  /-- RAMP_UP (R93). -/
  | rampUp (core late : Nat)
  /-- VOP_ADD (R129). -/
  | vopAdd (core : Nat)
  /-- VOP_SUB (R129). -/
  | vopSub (core : Nat)
  /-- VOP_MUL (R129). -/
  | vopMul (core : Nat)
  /-- VOP_FMA (R129). -/
  | vopFma (core : Nat)
  /-- VOP_MAX (R129). -/
  | vopMax (core : Nat)
  /-- VOP_MIN (R129). -/
  | vopMin (core : Nat)
  /-- VOP_ABS (R129). -/
  | vopAbs (core : Nat)
  /-- VOP_NEG (R129). -/
  | vopNeg (core : Nat)
  /-- VOP_CVT (R129). -/
  | vopCvt (core : Nat)
  /-- VOP_RSUM (R130). -/
  | vopRsum (core : Nat)
  /-- VOP_RMAX (R130). -/
  | vopRmax (core : Nat)
  /-- VOP_RMIN (R130). -/
  | vopRmin (core : Nat)
  /-- VOP_RSSQ (R130). -/
  | vopRssq (core : Nat)
  /-- SFN_EXP2 (R160). -/
  | sfnExp2 (core : Nat)
  /-- SFN_LOG2 (R160). -/
  | sfnLog2 (core : Nat)
  /-- SFN_RECIPROCAL (R160). -/
  | sfnReciprocal (core : Nat)
  /-- SFN_RSQRT (R160). -/
  | sfnRsqrt (core : Nat)
  /-- SFN_TANH (R160). -/
  | sfnTanh (core : Nat)
  /-- SFN_SIGMOID (R160). -/
  | sfnSigmoid (core : Nat)
  /-- SFN_ERF (R160). -/
  | sfnErf (core : Nat)
  /-- SFN_GELU_ERF (R161). -/
  | sfnGeluErf (core : Nat)
  /-- SFN_GELU_TANH (R161). -/
  | sfnGeluTanh (core : Nat)
  /-- SFN_USER_FUNCTION (R155). -/
  | sfnUserFunction (core : Nat)
  /-- LDMA (R134). -/
  | ldma (core : Nat)
  /-- CDMA_LINEAR (R213). -/
  | cdmaLinear (core : Nat)
  /-- CDMA_COPY2D (R214). -/
  | cdmaCopy2d (core : Nat)
  /-- CDMA_WINDOW (R183). -/
  | cdmaWindow (core : Nat)
  /-- CDMA_POOL (R193). -/
  | cdmaPool (core : Nat)
  /-- CDMA_COMBINE (R169). -/
  | cdmaCombine (core : Nat)
  /-- CDMA_ZPACK (R188). -/
  | cdmaZpack (core : Nat)
  /-- CDMA_ZUNPACK (R188). -/
  | cdmaZunpack (core : Nat)
  /-- RDMA_REMOTE_WRITE (R136). -/
  | rdmaRemoteWrite (core : Nat)
  /-- RDMA_REDUCE_ADD_FP32 (R257). -/
  | rdmaReduceAddFp32 (core : Nat)
  /-- RDMA_REDUCE_ADD_BF16 (R257). -/
  | rdmaReduceAddBf16 (core : Nat)
  /-- PTLD (R240). -/
  | ptld (core : Nat)
  /-- FWPOST (R138). -/
  | fwpost (core : Nat)
  /-- FW_POST_ACCEPT (R98). -/
  | fwPostAccept (part win : Nat)
  /-- FW_DEADLINE (R99). -/
  | fwDeadline (part win : Nat)
  /-- FW_BUFFER_FREE (R102). -/
  | fwBufferFree (part win buf : Nat)
  /-- DMA_COMPLETE (R133). -/
  | dmaComplete (core n : Nat)
  /-- DMA_ECC (R139). -/
  | dmaEcc (core n unit : Nat)
  /-- JOB_STOP_COMPLETE (R152). -/
  | jobStopComplete (part : Nat)
  /-- SQ_TAIL (R393). -/
  | sqTail (client v : Nat)
  /-- CQ_HEAD (R392). -/
  | cqHead (client v : Nat)
  /-- CANCEL (R402). -/
  | cancel (client v : Nat)
  /-- COMPLETION_RECORD (R400). -/
  | completionRecord (client : Nat)
  /-- RUN (R399). -/
  | run (part : Nat)
  /-- LOAD (R216). -/
  | load (part : Nat) (hw : Bool)
  /-- UNLOAD (R225). -/
  | unload (part : Nat)
  /-- MEDIA (R344). -/
  | media (part : Nat)
  /-- INPUT (R364). -/
  | input (part : Nat)
  /-- GUEST_LOAD (R409). -/
  | guestLoad (part : Nat) (hw : Bool)
  /-- GUEST_UNLOAD (R395). -/
  | guestUnload (part : Nat)
  /-- GUEST_RUN (R410). -/
  | guestRun (part : Nat)
  /-- GUEST_SWITCH (R410). -/
  | guestSwitch (core : Nat)
  /-- GUEST_RETURN (R411). -/
  | guestReturn (core : Nat)
  /-- GUEST_JOB_END (R412). -/
  | guestJobEnd (part : Nat)
  /-- FORM (R387). -/
  | form (part v : Nat)
  /-- FORMATION_DONE (R387). -/
  | formationDone (part : Nat)
  /-- DISSOLVE (R389). -/
  | dissolve (part v : Nat)
  /-- PREEMPT (R403). -/
  | preempt (part v : Nat)
  /-- SAVE (R404). -/
  | save (part : Nat) (cuts : List Nat)
  /-- SAVE_COMPLETE (R404). -/
  | saveComplete (part : Nat)
  /-- RESTORE (R404). -/
  | restore (part : Nat)
  /-- CLIENT_BINDING_WRITE (R390). -/
  | clientBindingWrite (path : Path) (client sub v : Nat)
  /-- APPEND_ROUND (R244). -/
  | appendRound (part cix : Nat)
  /-- APPEND (R246). -/
  | append (part cix : Nat)
  /-- REFILL (R246). -/
  | refill (part cix : Nat)
  /-- ENGINE_STALL_RETRY (R250). -/
  | engineStallRetry (part cix : Nat)
  /-- RELEASE (R253). -/
  | release (part v : Nat)
  /-- PIN (R253). -/
  | pin (part v : Nat)
  /-- UNPIN (R253). -/
  | unpin (part v : Nat)
  /-- CONTRIBUTION_ADD (R259). -/
  | contributionAdd (part rid tile : Nat)
  /-- CREDIT_GRANT (R260). -/
  | creditGrant (link : Nat) (msg : Msg)
  /-- STATE_READ_COMPLETE (R262). -/
  | stateReadComplete (part rid tile : Nat)
  /-- SWEEP_START (R264). -/
  | sweepStart (part : Nat)
  /-- TILE_UPDATE (R265). -/
  | tileUpdate (part rid tile : Nat)
  /-- ROUND_CLOSE (R266). -/
  | roundClose (part : Nat)
  /-- FORMAT_COMMAND (R280). -/
  | formatCommand (part v : Nat)
  /-- DATA_FLIT_RECEIVE (R289). -/
  | dataFlitReceive (link : Nat) (flit : List Byte) (fec : Option Nat)
  /-- RETRY (R289). -/
  | retry (link seq : Nat)
  /-- RETRY_REPEAT (R289). -/
  | retryRepeat (link : Nat)
  /-- HELLO (R292). -/
  | hello (link lane : Nat) (hello : Hello)
  /-- ECHO_REQ (R294). -/
  | echoReq (link probe : Nat)
  /-- ECHO_RSP (R294). -/
  | echoRsp (link probe turnNs rttNs : Nat)
  /-- LOOP_REQ (R312). -/
  | loopReq (link : Nat) (enter : Bool)
  /-- LOOP_ACK (R312). -/
  | loopAck (link : Nat) (accepted : Bool)
  /-- FAR_LOOP_TIMEOUT (R312). -/
  | farLoopTimeout (link : Nat)
  /-- LINK_RETRAIN (R290). -/
  | linkRetrain (link : Nat)
  /-- RETRAIN_TIMEOUT (R290). -/
  | retrainTimeout (link : Nat)
  /-- WRITE (R306). -/
  | write (link : Nat) (msg : Msg)
  /-- RADD32 (R306). -/
  | radd32 (link : Nat) (msg : Msg)
  /-- RADD16 (R306). -/
  | radd16 (link : Nat) (msg : Msg)
  /-- SIGNAL (R145). -/
  | signal (link : Nat) (msg : Msg)
  /-- RESP (R307). -/
  | resp (link : Nat) (msg : Msg)
  /-- PING (R299). -/
  | ping (link : Nat) (msg : Msg)
  /-- PING_REPLY (R299). -/
  | pingReply (link : Nat) (msg : Msg)
  /-- MESSAGE_FORWARD (R303). -/
  | messageForward (link : Nat) (msg : Msg)
  /-- RESPONSE_TIMEOUT (R307). -/
  | responseTimeout (core n : Nat)
  /-- LINK_RETRAIN_COMMAND (R292). -/
  | linkRetrainCommand (path : Path) (link v : Nat)
  /-- LINK_ENABLE (R292). -/
  | linkEnable (path : Path) (link v : Nat)
  /-- LINK_LOOP_BACK (R311). -/
  | linkLoopBack (path : Path) (link v : Nat) (seen : LoopSeen)
  /-- FABRIC_ADDRESS_WRITE (R293). -/
  | fabricAddressWrite (path : Path) (v : Nat)
  /-- LIFELINE_DATA (R494). -/
  | lifelineData (link : Nat) (msg : Msg)
  /-- COMMIT (R494). -/
  | commit (link : Nat) (msg : Msg)
  /-- ACKNOWLEDGE (R494). -/
  | acknowledge (link : Nat) (msg : Msg)
  /-- RESTORE_REQUEST (R501). -/
  | restoreRequest (link : Nat) (msg : Msg)
  /-- RESTORE_DATA (R501). -/
  | restoreData (link : Nat) (msg : Msg)
  /-- LIFELINE_STREAM (R494). -/
  | lifelineStream (part : Nat)
  /-- LIFELINE_INTERVAL_EXPIRY (R489). -/
  | lifelineIntervalExpiry (part : Nat)
  /-- MEMORY_ACCESS (R318). -/
  | memoryAccess (chan : Nat) (reqs : List MemReq)
  /-- CHANNEL_RETRAIN (R327). -/
  | channelRetrain (chan : Nat) (ok : Bool)
  /-- SCRUB_READ (R329). -/
  | scrubRead (addr : Nat) (err : EccSeen)
  /-- PER_BANK_REFRESH (R325). -/
  | perBankRefresh (chan bank : Nat) (class1 : Bool) (rate : Nat)
  /-- SELF_REFRESH_ENTRY (R334). -/
  | selfRefreshEntry (stack : Nat)
  /-- SELF_REFRESH_EXIT (R334). -/
  | selfRefreshExit (stack : Nat)
  /-- SWATCH_START (R336). -/
  | swatchStart (path : Path) (chan v : Nat)
  /-- SWATCH_STOP (R335). -/
  | swatchStop (path : Path) (chan v : Nat)
  /-- SWATCH_DONE (R335). -/
  | swatchDone (chan : Nat) (seen : SwatchSeen)
  /-- MEDIA_OPEN (R345). -/
  | mediaOpen (engine : Nat)
  /-- MEDIA_CLOSE (R345). -/
  | mediaClose (engine : Nat)
  /-- DECODE (R348). -/
  | decode (engine : Nat) (fault : Bool)
  /-- ENCODE (R351). -/
  | encode (engine : Nat) (fault : Bool)
  /-- JPEG (R353). -/
  | jpeg (engine : Nat) (fault : Bool)
  /-- VOXEL (R355). -/
  | voxel (engine : Nat) (fault : Bool)
  /-- MEDIA_SCHEDULE (R346). -/
  | mediaSchedule (engine : Nat)
  /-- MEDIA_WATCHDOG (R356). -/
  | mediaWatchdog (engine : Nat)
  /-- MEDIA_COMPLETE (R359). -/
  | mediaComplete (engine : Nat)
  /-- INPUT_OPEN (R371). -/
  | inputOpen (part : Nat)
  /-- SUBMIT (R373). -/
  | submit (part : Nat)
  /-- INPUT_CLOSE (R371). -/
  | inputClose (part : Nat)
  /-- BATCH_PUBLISH (R376). -/
  | batchPublish (part : Nat)
  /-- CONSUMED_POLL (R376). -/
  | consumedPoll (part : Nat)
  /-- MAILBOX_READ (R437). -/
  | mailboxRead (port : Nat) (req : MbReq)
  /-- MAILBOX_WRITE (R437). -/
  | mailboxWrite (port : Nat) (req : MbReq)
  /-- OBJECT_WRITE (R418). -/
  | objectWrite (path : Path) (idx sub : Nat) (data : List Byte)
  /-- RWP_WRITE (R421). -/
  | rwpWrite (path : Path) (idx sub : Nat) (data : List Byte) (commits : Bool)
  /-- RESTORE_DEFAULTS (R421). -/
  | restoreDefaults (path : Path) (v : Nat)
  /-- ERROR_HISTORY_CLEAR (R442). -/
  | errorHistoryClear (path : Path) (v : Nat)
  /-- USDO (R429). -/
  | usdo (req : UsdoReq)
  /-- USDO_TIMEOUT (R419). -/
  | usdoTimeout
  /-- NMT_START (R431). -/
  | nmtStart (node : Nat)
  /-- NMT_STOP (R431). -/
  | nmtStop (node : Nat)
  /-- NMT_ENTER_PRE_OPERATIONAL (R431). -/
  | nmtEnterPreOperational (node : Nat)
  /-- NMT_RESET_COMMUNICATION (R431). -/
  | nmtResetCommunication (node : Nat)
  /-- NMT_RESET_NODE (R431). -/
  | nmtResetNode (node : Nat)
  /-- HEARTBEAT (R432). -/
  | heartbeat
  /-- EMCY (R433). -/
  | emcy (cond : EmcyCond) (active : Bool) (detail : Nat)
  /-- TPDO (R434). -/
  | tpdo (n : Nat)
  /-- BUS_OFF_RECOVERY (R428). -/
  | busOffRecovery
  /-- BAR2_ACCESS (R438). -/
  | bar2Access (port : Nat) (acc : BarAcc)
  /-- VECTOR_UNMASK (R439). -/
  | vectorUnmask (port vec : Nat)
  /-- REFCLK_LOSS (R449). -/
  | refclkLoss
  /-- REFCLK_RETURN (R449). -/
  | refclkReturn
  /-- MASTER_LOCK_LOSS (R450). -/
  | masterLockLoss (master : Nat)
  /-- SOURCE_SWITCH (R455). -/
  | sourceSwitch (path : Path) (island v : Nat)
  /-- PENDING_SWITCH_START (R455). -/
  | pendingSwitchStart (island : Nat)
  /-- SWITCH_TIMEOUT (R455). -/
  | switchTimeout (island : Nat)
  /-- SYNTH_LOCK_LOSS (R457). -/
  | synthLockLoss (island : Nat)
  /-- CLOCK_GATE (R458). -/
  | clockGate (island : Nat)
  /-- G1_ENTRY (R459). -/
  | g1Entry (g : Nat)
  /-- G2_ENTRY (R459). -/
  | g2Entry (g : Nat)
  /-- G3_ENTRY (R461). -/
  | g3Entry (g : Nat)
  /-- IDLE_WAKE (R461). -/
  | idleWake (island : Nat)
  /-- OP_MOVE (R465). -/
  | opMove (island : Nat) (slack : Int)
  /-- LIMITER_COMPUTE (R468). -/
  | limiterCompute (env : LimitEnv)
  /-- FAST_SHED (R469). -/
  | fastShed (watts : Nat)
  /-- THERMAL_CAP (R470). -/
  | thermalCap (temps : List Int)
  /-- THERMAL_TRIP (R470). -/
  | thermalTrip (temps : List Int)
  /-- THERMAL_TRIP_RELEASE (R470). -/
  | thermalTripRelease (temps : List Int)
  /-- ENERGY_WINDOW (R471). -/
  | energyWindow (mJ : Nat)
  /-- GAUGE_SAMPLE (R479): the slack in ps; the MHz of the island's ring oscillator, which count only while it is the island's clock (R453). -/
  | gaugeSample (island : Nat) (slack : Int) (ring : Nat)
  /-- REPLAN (R484). -/
  | replan
  /-- REPLAN_NOW (R483). -/
  | replanNow (path : Path) (v : Nat)
  /-- HARDWARE_FAULT (R496). -/
  | hardwareFault (cause : HwCause) (code : Nat)
  /-- BRIDGE_FAILURE (R27). -/
  | bridgeFailure (bridge : Nat)
  /-- LINK_LOSS (R290). -/
  | linkLoss (link : Nat)
  /-- FROG (R500). -/
  | frog (part v : Nat)
  /-- AUTO_FROG (R499). -/
  | autoFrog (part : Nat)
  /-- SUPERVISOR_HEARTBEAT (R505). -/
  | supervisorHeartbeat (sup : Nat)
  /-- TAKEOVER (R505). -/
  | takeover
  /-- FIRMWARE_WRITE (R510). -/
  | firmwareWrite (path : Path) (sup v : Nat)
  /-- TRIAL (R510). -/
  | trial (path : Path) (sup v : Nat)
  /-- REBOOT (R510). -/
  | reboot (path : Path) (sup v : Nat)
  /-- CONFIRM (R510). -/
  | confirm (path : Path) (sup v : Nat)
  /-- HANDOVER (R510). -/
  | handover (path : Path) (sup v : Nat)
  /-- CENSUS_DUMP (R71). -/
  | censusDump (part v : Nat)
  /-- CENSUS_CLEAR (R71). -/
  | censusClear (part v : Nat)
  /-- CENSUS_DUMP_CLEAR (R71). -/
  | censusDumpClear (part v : Nat)
  /-- CENSUS_COMMAND_DONE (R71). -/
  | censusCommandDone (part : Nat)
  /-- SELECTED_SLOT_RECORD_READ (R71). -/
  | selectedSlotRecordRead (part : Nat)
  /-- PCIE_LOOP_BACK (R528). -/
  | pcieLoopBack (path : Path) (port v : Nat) (seen : LoopSeen)
  /-- LOOP_BACK_TIMEOUT (R528). -/
  | loopBackTimeout (which : Nat) (seen : LoopSeen)
  /-- CAN_LOOP_BACK (R529). -/
  | canLoopBack (path : Path) (v : Nat)
  /-- CAN_TEST_FRAME (R529). -/
  | canTestFrame (intact : Bool)
  /-- TAP_RESET (R530). -/
  | tapReset
  /-- IDCODE (R531). -/
  | idcode
  /-- SAMPLE_PRELOAD (R531). -/
  | samplePreload (data : Nat)
  /-- EXTEST (R532). -/
  | extest (data : Nat)
  /-- CLAMP (R532). -/
  | clamp (data : Nat)
  /-- HIGHZ (R532). -/
  | highz (data : Nat)
  /-- EXTEST_PULSE (R532). -/
  | extestPulse (data : Nat)
  /-- EXTEST_TRAIN (R532). -/
  | extestTrain (data : Nat)
  /-- BYPASS (R531). -/
  | bypass (data : Nat)
  /-- HEALTH_SAMPLE (R443). -/
  | healthSample (env : HealthEnv)
  /-- EMCY_INHIBIT_EXPIRY (R433). -/
  | emcyInhibitExpiry
  /-- SUPERVISOR_LOST (R505). -/
  | supervisorLost
  /-- BAR2_WINDOW_BASE_WRITE (R437). -/
  | bar2WindowBaseWrite (port v : Nat)
  deriving DecidableEq, Repr

end Sys2Proof
end

