-- ==== Sys2Proof/Decode.lean ====
section
/-! DEFINITION. Commands as words: the opcode table gives no row bits. -/

namespace Sys2Proof

/-- The command that a word of `nbits` bits spells: none, since no row of the opcode table gives bits. -/
def decodeTableWord (_nbits _w : Nat) : Option Instr := none

end Sys2Proof
end

