-- ==== Sys2Proof/Config.lean ====
section
/-! DEFINITION. The values the spec leaves open: constants without a body, so that no proof can see one. Each is named in the
assumption log. -/

namespace Sys2Proof.Config

/-- The n-th free number: a value the spec names but does not state. -/
opaque freeNat : Nat → Nat → Nat

/-- What a media standard cited by Table 12-2 makes of an input, given the inputs of the stream before it: field `f` of the outcome,
entry `i` (R343). -/
opaque codec : (kind : Nat) → (hist : List (List Byte)) → (input : List Byte) → (f i : Nat) → Nat

/-- The random word of output `out` of a pooling entry with stochastic rounding, which the spec gives no generator: a function of the entry and
the output's inputs alone (R193, log entry 17). -/
opaque poolWord : (entry : List Byte) → (inputs : List Nat) → (out : Nat) → Nat

end Sys2Proof.Config
end

