-- ==== Sys2Proof/Machine/Bits.lean ====
section
/-! DEFINITION. Bit fields, two's complement, byte order and the checks of strings of bytes: the helpers every unit uses. -/

namespace Sys2Proof.Machine

/-- Bits [hi:lo] of `w` (R12). -/
def fld (w hi lo : Nat) : Nat := (w >>> lo) % 2 ^ (hi + 1 - lo)

/-- Bit `i` of `w`. -/
def bit (w i : Nat) : Bool := (w >>> i) % 2 = 1

/-- A Boolean as a bit. -/
def b2n (b : Bool) : Nat := if b then 1 else 0

/-- `w` with bits [hi:lo] replaced by `v`. -/
def setFld (w hi lo v : Nat) : Nat :=
  (w >>> (hi + 1)) <<< (hi + 1) + (v % 2 ^ (hi + 1 - lo)) <<< lo + w % 2 ^ lo

/-- `w` with bit `i` set to `b`. -/
def setBit (w i : Nat) (b : Bool) : Nat := setFld w i i (b2n b)

/-- The value of the low `n` bits read as two's complement. -/
def toSigned (n v : Nat) : Int :=
  if v % 2 ^ n < 2 ^ (n - 1) then ((v % 2 ^ n : Nat) : Int) else ((v % 2 ^ n : Nat) : Int) - (2 ^ n : Nat)

/-- The low `n` bits of an integer in two's complement. -/
def ofSigned (n : Nat) (v : Int) : Nat := (v % (2 ^ n : Nat)).toNat

/-- `a` rounded up to a multiple of `m`. -/
def alignUp (a m : Nat) : Nat := (a + m - 1) / m * m

/-- `a` divided by `m`, rounded up. -/
def cdiv (a m : Nat) : Nat := (a + m - 1) / m

/-- Integer logarithm, base two, of a non-zero number (0 for 0). -/
def log2 (n : Nat) : Nat := Nat.log2 n

/-- The position of the lowest set bit among bits 0 to `n - 1`. -/
def lowestBit (n w : Nat) : Option Nat := (List.range n).find? (bit w)

/-- The number of set bits among bits 0 to `n - 1`. -/
def popcount (n w : Nat) : Nat := (List.range n).countP (bit w)

/-- The numbers of the set bits among bits 0 to `n - 1`, ascending. -/
def bitsOf (n w : Nat) : List Nat := (List.range n).filter (bit w)

/-- `x` in its place of a list in order, before what it does not come after. -/
def putInOrder {α : Type} (le : α → α → Bool) (x : α) : List α → List α
  | [] => [x]
  | y :: t => if le x y then x :: y :: t else y :: putInOrder le x t

/-- A list in order; equals keep theirs. -/
def inOrder {α : Type} (le : α → α → Bool) : List α → List α
  | [] => []
  | x :: t => putInOrder le x (inOrder le t)

/-- The `n` low bytes of `v`, least significant first (R12). -/
def leBytes : Nat → Nat → List Byte
  | 0, _ => []
  | n + 1, v => BitVec.ofNat 8 v :: leBytes n (v / 256)

/-- The number a little-endian string of bytes spells (R12). -/
def leNat : List Byte → Nat
  | [] => 0
  | b :: t => b.toNat + 256 * leNat t

/-- The `n` bytes at offset `o` of a string of bytes, as a little-endian number; missing bytes read 0. -/
def leAt (bs : List Byte) (o n : Nat) : Nat := leNat ((bs.drop o).take n)

/-- `n` bytes of 0. -/
def zeros (n : Nat) : List Byte := List.replicate n 0

/-- A string of bytes cut or padded with 0 to `n` bytes. -/
def padTo (n : Nat) (bs : List Byte) : List Byte := bs.take n ++ zeros (n - bs.length)

/-- `bs` with the bytes at offset `o` replaced by `v`. -/
def putAt (bs : List Byte) (o : Nat) (v : List Byte) : List Byte :=
  padTo o (bs.take o) ++ v ++ bs.drop (o + v.length)

/-- A list cut into pieces of `n` elements; `fuel` bounds the number of pieces. -/
def chunks {α : Type} (n : Nat) : Nat → List α → List (List α)
  | 0, _ => []
  | fuel + 1, l => if l.isEmpty then [] else l.take n :: chunks n fuel (l.drop n)

/-- Any byte of `bs` from `o` on, `n` of them, is not 0. -/
def nonzero (bs : List Byte) (o n : Nat) : Bool := ((bs.drop o).take n).any (· ≠ 0)

/-- Replace element `i` of a list by `f` of it. -/
def modAt {α : Type} (l : List α) (i : Nat) (f : α → α) : List α :=
  match l[i]? with
  | some x => l.set i (f x)
  | none => l

/-- One step of the reflected CRC-32C register on a bit. -/
def crc32cBit (r : Nat) : Nat := if r % 2 = 1 then (r >>> 1) ^^^ 0x82F63B78 else r >>> 1

/-- CRC-32C register after one byte (Table 4-1: polynomial 1EDC6F41h, reflected). -/
def crc32cByte (r : Nat) (b : Byte) : Nat :=
  (List.range 8).foldl (fun x _ => crc32cBit x) (r ^^^ b.toNat)

/-- CRC-32C of a string of bytes, initial value and final XOR FFFFFFFFh (Table 4-1). -/
def crc32c (bs : List Byte) : Nat := (bs.foldl crc32cByte 0xFFFFFFFF) ^^^ 0xFFFFFFFF

end Sys2Proof.Machine
end

