-- ==== Sys2Proof/Machine/Maps.lean ====
section
/-! DEFINITION. Tables by number: a list of (key, entry) pairs, and what an unlisted key reads. -/

namespace Sys2Proof.Machine

/-- A table of entries by number; the first pair of a key counts. -/
abbrev AMap (α : Type) := List (Nat × α)

/-- Entry `k`, or `d` where the table lists none. -/
def AMap.get {α : Type} (d : α) (k : Nat) : AMap α → α
  | [] => d
  | (a, x) :: t => if a = k then x else AMap.get d k t

/-- Entry `k` where the table lists one. -/
def AMap.get? {α : Type} (k : Nat) : AMap α → Option α
  | [] => none
  | (a, x) :: t => if a = k then some x else AMap.get? k t

/-- Set entry `k`. -/
def AMap.put {α : Type} (k : Nat) (v : α) : AMap α → AMap α
  | [] => [(k, v)]
  | (a, x) :: t => if a = k then (k, v) :: t else (a, x) :: AMap.put k v t

/-- Take entry `k` out. -/
def AMap.del {α : Type} (k : Nat) (m : AMap α) : AMap α := m.filter (fun e => e.1 ≠ k)

/-- Take out every entry whose key meets `p`. -/
def AMap.delIf {α : Type} (p : Nat → Bool) (m : AMap α) : AMap α := m.filter (fun e => !p e.1)

end Sys2Proof.Machine
end

