-- ==== Sys2Proof/Machine/Dict.lean ====
section
/-! DEFINITION. The object dictionary as a table: every object of the spec's object tables with its index rule, sub-index, type,
size, access class, reset value and range (R417, and the object table of each chapter). -/

namespace Sys2Proof.Machine

/-- The kinds of value (R416). -/
inductive ObjTy where
  | num
  | int
  | octets
  | domain
  | text
  deriving DecidableEq, Repr

/-- The access classes (R417). -/
inductive ObjAcc where
  | const
  | ro
  | rw
  | rwi
  | rwp
  | wo
  deriving DecidableEq, Repr

/-- One row of an object table: the object of unit u = n2 x a + b lies at index base + s1 x a + b, a below n1 and b below n2. -/
structure ObjRow where
  base : Nat
  s1 : Nat
  n1 : Nat
  n2 : Nat
  sub : Nat
  ty : ObjTy
  size : Nat
  acc : ObjAcc
  dflt : Nat
  lo : Nat
  hi : Nat
  deriving DecidableEq, Repr

/-- Objects of chapter 02, part 0. -/
def objsFormats0 : List ObjRow := [
  ⟨0x6000, 0, 1, 1, 0x01, .num, 4, .const, 65535, 0, 0⟩,
  ⟨0x6000, 0, 1, 1, 0x02, .num, 1, .const, 1, 0, 0⟩,
  ⟨0x6000, 0, 1, 1, 0x03, .num, 1, .const, 1, 0, 0⟩,
  ⟨0x6080, 1, 64, 1, 0x01, .num, 8, .rwi, 0, 0, 18446744073709551615⟩,
  ⟨0x6080, 1, 64, 1, 0x02, .num, 4, .rw, 0, 0, 4294967295⟩,
  ⟨0x6100, 1, 64, 1, 0x01, .num, 4, .rw, 0, 0, 4294967295⟩,
  ⟨0x6100, 1, 64, 1, 0x02, .num, 8, .rw, 0, 0, 18446744073709551615⟩,
  ⟨0x6100, 1, 64, 1, 0x03, .num, 4, .wo, 0, 0, 4294967295⟩,
  ⟨0x6100, 1, 64, 1, 0x04, .num, 4, .ro, 0, 0, 0⟩,
  ⟨0x6100, 1, 64, 1, 0x05, .octets, 32, .ro, 0, 0, 0⟩,
  ⟨0x6100, 1, 64, 1, 0x06, .num, 4, .ro, 0, 0, 0⟩,
  ⟨0x6100, 1, 64, 1, 0x07, .num, 1, .rw, 0, 0, 255⟩,
  ⟨0x6100, 1, 64, 1, 0x08, .domain, 128, .ro, 0, 0, 0⟩]

/-- Objects of chapter 03, part 0. -/
def objsArray0 : List ObjRow := [
  ⟨0x6040, 0, 1, 1, 0x01, .num, 8, .ro, 0, 0, 0⟩,
  ⟨0x6040, 0, 1, 1, 0x02, .num, 8, .ro, 0, 0, 0⟩,
  ⟨0x6040, 0, 1, 1, 0x03, .num, 8, .ro, 0, 0, 0⟩,
  ⟨0x6180, 1, 64, 1, 0x01, .num, 4, .rw, 16385, 0, 4294967295⟩,
  ⟨0x6180, 1, 64, 1, 0x02, .num, 4, .rw, 200, 0, 10000⟩,
  ⟨0x6180, 1, 64, 1, 0x03, .num, 8, .ro, 0, 0, 0⟩,
  ⟨0x6180, 1, 64, 1, 0x04, .num, 8, .ro, 0, 0, 0⟩,
  ⟨0x6180, 1, 64, 1, 0x05, .num, 8, .ro, 0, 0, 0⟩]

/-- Objects of chapter 04, part 0. -/
def objsProgram0 : List ObjRow := [
  ⟨0x6010, 0, 1, 1, 0x01, .num, 1, .const, 1, 0, 0⟩,
  ⟨0x6010, 0, 1, 1, 0x02, .num, 1, .const, 1, 0, 0⟩,
  ⟨0x6010, 0, 1, 1, 0x03, .num, 1, .const, 8, 0, 0⟩,
  ⟨0x6200, 1, 64, 1, 0x01, .num, 4, .rw, 1000000, 0, 60000000⟩,
  ⟨0x6200, 1, 64, 1, 0x02, .num, 4, .rw, 0, 0, 4294967295⟩,
  ⟨0x6200, 1, 64, 1, 0x03, .num, 2, .ro, 0, 0, 0⟩,
  ⟨0x6200, 1, 64, 1, 0x04, .num, 2, .rw, 0, 0, 65535⟩,
  ⟨0x6200, 1, 64, 1, 0x05, .num, 4, .ro, 0, 0, 0⟩,
  ⟨0x6200, 1, 64, 1, 0x06, .num, 2, .ro, 0, 0, 0⟩,
  ⟨0x6280, 1, 64, 1, 0x01, .domain, 32, .ro, 0, 0, 0⟩,
  ⟨0x6280, 1, 64, 1, 0x02, .num, 4, .ro, 0, 0, 0⟩,
  ⟨0x6280, 1, 64, 1, 0x03, .num, 8, .ro, 0, 0, 0⟩]

/-- Objects of chapter 05, part 0. -/
def objsFunctions0 : List ObjRow := [
  ⟨0x6020, 0, 1, 1, 0x01, .num, 1, .const, 1, 0, 0⟩,
  ⟨0x6020, 0, 1, 1, 0x02, .num, 1, .const, 1, 0, 0⟩,
  ⟨0x6020, 0, 1, 1, 0x03, .num, 1, .const, 16, 0, 0⟩,
  ⟨0x6020, 0, 1, 1, 0x04, .num, 1, .const, 16, 0, 0⟩,
  ⟨0x6300, 1, 64, 1, 0x01, .num, 2, .ro, 0, 0, 0⟩,
  ⟨0x6300, 1, 64, 1, 0x02, .num, 4, .ro, 0, 0, 0⟩,
  ⟨0x6300, 1, 64, 1, 0x03, .num, 2, .ro, 0, 0, 0⟩,
  ⟨0x6300, 1, 64, 1, 0x04, .num, 4, .ro, 0, 0, 0⟩,
  ⟨0x6300, 1, 64, 1, 0x05, .num, 1, .rw, 0, 0, 255⟩,
  ⟨0x6300, 1, 64, 1, 0x06, .num, 4, .ro, 0, 0, 0⟩]

/-- Objects of chapter 06, part 0. -/
def objsConv0 : List ObjRow := [
  ⟨0x6030, 0, 1, 1, 0x01, .num, 1, .const, 1, 0, 0⟩,
  ⟨0x6030, 0, 1, 1, 0x02, .num, 1, .const, 11, 0, 0⟩,
  ⟨0x6030, 0, 1, 1, 0x03, .num, 1, .const, 8, 0, 0⟩,
  ⟨0x6380, 1, 64, 1, 0x01, .num, 8, .ro, 0, 0, 0⟩,
  ⟨0x6380, 1, 64, 1, 0x02, .num, 8, .ro, 0, 0, 0⟩,
  ⟨0x6380, 1, 64, 1, 0x03, .num, 8, .ro, 0, 0, 0⟩,
  ⟨0x6380, 1, 64, 1, 0x04, .num, 8, .ro, 0, 0, 0⟩]

/-- Objects of chapter 07, part 0. -/
def objsLoader0 : List ObjRow := [
  ⟨0x6050, 0, 1, 1, 0x01, .num, 1, .const, 1, 0, 0⟩,
  ⟨0x6050, 0, 1, 1, 0x02, .num, 1, .const, 1, 0, 0⟩,
  ⟨0x6050, 0, 1, 1, 0x03, .num, 1, .const, 1, 0, 0⟩,
  ⟨0x6050, 0, 1, 1, 0x04, .num, 2, .const, 4096, 0, 0⟩,
  ⟨0x6050, 0, 1, 1, 0x05, .num, 2, .const, 1024, 0, 0⟩,
  ⟨0x6400, 1, 64, 1, 0x01, .num, 4, .ro, 0, 0, 0⟩,
  ⟨0x6400, 1, 64, 1, 0x02, .num, 4, .ro, 0, 0, 0⟩,
  ⟨0x6400, 1, 64, 1, 0x03, .num, 4, .ro, 0, 0, 0⟩,
  ⟨0x6400, 1, 64, 1, 0x04, .num, 2, .ro, 0, 0, 0⟩]

/-- Objects of chapter 08, part 0. -/
def objsCache0 : List ObjRow := [
  ⟨0x6060, 0, 1, 1, 0x01, .num, 1, .const, 1, 0, 0⟩,
  ⟨0x6060, 0, 1, 1, 0x02, .num, 1, .const, 1, 0, 0⟩,
  ⟨0x6060, 0, 1, 1, 0x03, .num, 1, .const, 16, 0, 0⟩,
  ⟨0x6060, 0, 1, 1, 0x04, .num, 1, .const, 16, 0, 0⟩,
  ⟨0x6440, 1, 64, 1, 0x01, .num, 1, .rw, 0, 0, 63⟩,
  ⟨0x6440, 1, 64, 1, 0x02, .num, 2, .rw, 0, 0, 4095⟩,
  ⟨0x6440, 1, 64, 1, 0x03, .num, 4, .wo, 0, 0, 4294967295⟩,
  ⟨0x6440, 1, 64, 1, 0x04, .num, 4, .ro, 0, 0, 0⟩,
  ⟨0x6440, 1, 64, 1, 0x05, .domain, 32, .ro, 0, 0, 0⟩,
  ⟨0x6440, 1, 64, 1, 0x06, .num, 4, .ro, 0, 0, 0⟩,
  ⟨0x6440, 1, 64, 1, 0x07, .num, 8, .ro, 0, 0, 0⟩,
  ⟨0x6440, 1, 64, 1, 0x08, .num, 8, .ro, 0, 0, 0⟩,
  ⟨0x6440, 1, 64, 1, 0x09, .num, 8, .ro, 0, 0, 0⟩,
  ⟨0x6440, 1, 64, 1, 0x0A, .num, 4, .ro, 0, 0, 0⟩,
  ⟨0x6440, 1, 64, 1, 0x0B, .num, 8, .ro, 0, 0, 0⟩,
  ⟨0x6440, 1, 64, 1, 0x0C, .num, 4, .ro, 0, 0, 0⟩]

/-- Objects of chapter 09, part 0. -/
def objsTraining0 : List ObjRow := [
  ⟨0x6070, 0, 1, 1, 0x01, .num, 1, .const, 1, 0, 0⟩,
  ⟨0x6070, 0, 1, 1, 0x02, .num, 1, .const, 64, 0, 0⟩,
  ⟨0x6070, 0, 1, 1, 0x03, .num, 1, .const, 1, 0, 0⟩,
  ⟨0x6480, 1, 64, 1, 0x01, .num, 1, .rwi, 0, 0, 1⟩,
  ⟨0x6480, 1, 64, 1, 0x02, .num, 8, .rwi, 0, 0, 18446744073709551615⟩,
  ⟨0x6480, 1, 64, 1, 0x03, .num, 4, .rw, 0, 0, 65535⟩,
  ⟨0x6480, 1, 64, 1, 0x04, .num, 1, .rw, 0, 0, 15⟩,
  ⟨0x6480, 1, 64, 1, 0x05, .domain, 16, .rwi, 0, 0, 340282366920938463463374607431768211455⟩,
  ⟨0x6480, 1, 64, 1, 0x06, .domain, 16, .ro, 0, 0, 0⟩,
  ⟨0x6480, 1, 64, 1, 0x07, .num, 1, .rw, 0, 0, 15⟩,
  ⟨0x6480, 1, 64, 1, 0x08, .domain, 16, .ro, 0, 0, 0⟩,
  ⟨0x6480, 1, 64, 1, 0x09, .num, 8, .ro, 0, 0, 0⟩,
  ⟨0x6480, 1, 64, 1, 0x0A, .num, 8, .ro, 0, 0, 0⟩,
  ⟨0x6480, 1, 64, 1, 0x0B, .num, 8, .ro, 0, 0, 0⟩,
  ⟨0x6480, 1, 64, 1, 0x0C, .num, 2, .ro, 0, 0, 0⟩,
  ⟨0x6480, 1, 64, 1, 0x0D, .num, 2, .ro, 0, 0, 0⟩]

/-- Objects of chapter 09, part 1. -/
def objsTraining1 : List ObjRow := [
  ⟨0x6480, 1, 64, 1, 0x0E, .num, 8, .wo, 0, 0, 18446744073709551615⟩,
  ⟨0x6480, 1, 64, 1, 0x0F, .num, 4, .ro, 0, 0, 0⟩]

/-- Objects of chapter 10, part 0. -/
def objsLinks0 : List ObjRow := [
  ⟨0x4800, 0, 1, 1, 0x01, .num, 1, .ro, 3, 0, 0⟩,
  ⟨0x4800, 0, 1, 1, 0x02, .num, 2, .rwi, 0, 0, 65535⟩,
  ⟨0x4800, 0, 1, 1, 0x03, .num, 8, .ro, 0, 0, 0⟩,
  ⟨0x4800, 0, 1, 1, 0x04, .num, 8, .ro, 0, 0, 0⟩,
  ⟨0x4800, 0, 1, 1, 0x05, .num, 1, .rw, 10, 0, 10⟩,
  ⟨0x4800, 0, 1, 1, 0x06, .num, 4, .rw, 100, 1, 10000⟩,
  ⟨0x4800, 0, 1, 1, 0x07, .num, 8, .ro, 0, 0, 0⟩,
  ⟨0x4800, 0, 1, 1, 0x08, .num, 8, .ro, 0, 0, 0⟩,
  ⟨0x4800, 0, 1, 1, 0x09, .num, 8, .ro, 0, 0, 0⟩,
  ⟨0x4800, 0, 1, 1, 0x0A, .num, 8, .ro, 0, 0, 0⟩,
  ⟨0x4810, 0, 1, 1, 0x01, .num, 2, .rw, 0, 0, 4095⟩,
  ⟨0x4810, 0, 1, 1, 0x02, .num, 1, .rw, 255, 0, 255⟩,
  ⟨0x4820, 1, 32, 1, 0x01, .num, 8, .rw, 0, 0, 18446744073709551615⟩,
  ⟨0x4840, 1, 64, 1, 0x01, .num, 4, .rw, 33, 0, 4294967295⟩,
  ⟨0x4840, 1, 64, 1, 0x02, .num, 4, .ro, 0, 0, 0⟩,
  ⟨0x4840, 1, 64, 1, 0x03, .num, 2, .ro, 0, 0, 0⟩]

/-- Objects of chapter 10, part 1. -/
def objsLinks1 : List ObjRow := [
  ⟨0x4840, 1, 64, 1, 0x04, .num, 4, .ro, 0, 0, 0⟩,
  ⟨0x4840, 1, 64, 1, 0x05, .num, 8, .ro, 0, 0, 0⟩,
  ⟨0x4840, 1, 64, 1, 0x06, .num, 8, .ro, 0, 0, 0⟩,
  ⟨0x4840, 1, 64, 1, 0x07, .num, 8, .ro, 0, 0, 0⟩,
  ⟨0x4840, 1, 64, 1, 0x08, .num, 8, .ro, 0, 0, 0⟩,
  ⟨0x4840, 1, 64, 1, 0x09, .num, 8, .ro, 0, 0, 0⟩,
  ⟨0x4840, 1, 64, 1, 0x0A, .num, 4, .ro, 0, 0, 0⟩,
  ⟨0x4840, 1, 64, 1, 0x0B, .num, 8, .ro, 0, 0, 0⟩,
  ⟨0x4880, 1, 64, 1, 0x01, .num, 1, .rwi, 2, 1, 255⟩,
  ⟨0x4880, 1, 64, 1, 0x02, .num, 1, .ro, 0, 0, 0⟩,
  ⟨0x4880, 1, 64, 1, 0x03, .num, 8, .ro, 0, 0, 0⟩,
  ⟨0x4880, 1, 64, 1, 0x04, .num, 8, .ro, 0, 0, 0⟩]

/-- Objects of chapter 11, part 0. -/
def objsMemory0 : List ObjRow := [
  ⟨0x4000, 0, 1, 1, 0x01, .text, 10, .const, 317379490476970667623754, 0, 0⟩,
  ⟨0x4000, 0, 1, 1, 0x02, .num, 2, .rwp, 10667, 0, 65535⟩,
  ⟨0x4000, 0, 1, 1, 0x03, .num, 8, .ro, 281474976710655, 0, 0⟩,
  ⟨0x4000, 0, 1, 1, 0x04, .num, 2, .rw, 24, 1, 168⟩,
  ⟨0x4000, 0, 1, 1, 0x05, .num, 4, .rw, 20, 0, 100000⟩,
  ⟨0x4000, 0, 1, 1, 0x06, .num, 1, .rw, 4, 1, 255⟩,
  ⟨0x4000, 0, 1, 1, 0x07, .num, 1, .const, 40, 0, 0⟩,
  ⟨0x4000, 0, 1, 1, 0x08, .num, 4, .rw, 66568, 0, 4294967295⟩,
  ⟨0x4100, 1, 48, 1, 0x01, .num, 4, .rwp, 3, 0, 4294967295⟩,
  ⟨0x4100, 1, 48, 1, 0x02, .num, 4, .ro, 0, 0, 0⟩,
  ⟨0x4100, 1, 48, 1, 0x03, .num, 8, .ro, 0, 0, 0⟩,
  ⟨0x4100, 1, 48, 1, 0x04, .num, 8, .ro, 0, 0, 0⟩,
  ⟨0x4100, 1, 48, 1, 0x05, .num, 8, .ro, 0, 0, 0⟩,
  ⟨0x4100, 1, 48, 1, 0x06, .num, 8, .ro, 0, 0, 0⟩,
  ⟨0x4100, 1, 48, 1, 0x07, .num, 8, .ro, 0, 0, 0⟩,
  ⟨0x4100, 1, 48, 1, 0x08, .num, 2, .ro, 0, 0, 0⟩]

/-- Objects of chapter 11, part 1. -/
def objsMemory1 : List ObjRow := [
  ⟨0x4100, 1, 48, 1, 0x09, .num, 2, .ro, 0, 0, 0⟩,
  ⟨0x4100, 1, 48, 1, 0x0A, .num, 2, .ro, 0, 0, 0⟩,
  ⟨0x4100, 1, 48, 1, 0x0B, .domain, 32, .ro, 0, 0, 0⟩,
  ⟨0x4100, 1, 48, 1, 0x0C, .num, 1, .ro, 1, 0, 0⟩,
  ⟨0x4400, 1, 192, 1, 0x01, .num, 4, .rw, 0, 0, 4294967295⟩,
  ⟨0x4400, 1, 192, 1, 0x02, .num, 4, .rw, 0, 0, 4194303⟩,
  ⟨0x4400, 1, 192, 1, 0x03, .num, 4, .rw, 1, 1, 4194304⟩,
  ⟨0x4400, 1, 192, 1, 0x04, .num, 4, .rw, 1, 1, 4294967295⟩,
  ⟨0x4400, 1, 192, 1, 0x05, .num, 4, .ro, 0, 0, 0⟩,
  ⟨0x4400, 1, 192, 1, 0x06, .num, 8, .ro, 0, 0, 0⟩,
  ⟨0x4400, 1, 192, 1, 0x07, .num, 8, .ro, 0, 0, 0⟩,
  ⟨0x4400, 1, 192, 1, 0x08, .num, 8, .ro, 0, 0, 0⟩,
  ⟨0x4400, 1, 192, 1, 0x09, .domain, 16, .ro, 0, 0, 0⟩]

/-- Objects of chapter 12, part 0. -/
def objsMedia0 : List ObjRow := [
  ⟨0x5000, 0, 1, 1, 0x01, .num, 2, .const, 1023, 0, 0⟩,
  ⟨0x5000, 0, 1, 1, 0x02, .num, 1, .const, 1, 0, 0⟩,
  ⟨0x5000, 0, 1, 1, 0x03, .num, 1, .rw, 0, 0, 50⟩,
  ⟨0x5000, 0, 1, 1, 0x04, .num, 1, .const, 10, 0, 0⟩,
  ⟨0x5000, 0, 1, 1, 0x05, .num, 2, .const, 256, 0, 0⟩,
  ⟨0x5100, 1, 10, 1, 0x01, .num, 4, .ro, 0, 0, 0⟩,
  ⟨0x5100, 1, 10, 1, 0x02, .num, 8, .ro, 0, 0, 0⟩,
  ⟨0x5100, 1, 10, 1, 0x03, .num, 8, .ro, 0, 0, 0⟩,
  ⟨0x5100, 1, 10, 1, 0x04, .num, 4, .ro, 0, 0, 0⟩,
  ⟨0x5100, 1, 10, 1, 0x05, .num, 8, .ro, 0, 0, 0⟩,
  ⟨0x5100, 1, 10, 1, 0x06, .num, 4, .ro, 0, 0, 0⟩,
  ⟨0x5100, 1, 10, 1, 0x07, .num, 8, .ro, 0, 0, 0⟩,
  ⟨0x5100, 1, 10, 1, 0x08, .num, 8, .ro, 0, 0, 0⟩]

/-- Objects of chapter 13, part 0. -/
def objsInput0 : List ObjRow := [
  ⟨0x5200, 0, 1, 1, 0x01, .num, 1, .const, 1, 0, 0⟩,
  ⟨0x5200, 0, 1, 1, 0x02, .num, 1, .const, 1, 0, 0⟩,
  ⟨0x5200, 0, 1, 1, 0x03, .num, 1, .const, 1, 0, 0⟩,
  ⟨0x5280, 1, 64, 1, 0x01, .num, 4, .ro, 0, 0, 0⟩,
  ⟨0x5280, 1, 64, 1, 0x02, .num, 8, .ro, 0, 0, 0⟩,
  ⟨0x5280, 1, 64, 1, 0x03, .num, 8, .ro, 0, 0, 0⟩,
  ⟨0x5280, 1, 64, 1, 0x04, .num, 8, .ro, 0, 0, 0⟩,
  ⟨0x5280, 1, 64, 1, 0x05, .num, 8, .ro, 0, 0, 0⟩,
  ⟨0x5280, 1, 64, 1, 0x06, .domain, 32, .ro, 0, 0, 0⟩]

/-- Objects of chapter 14, part 0. -/
def objsParts0 : List ObjRow := [
  ⟨0x3000, 64, 64, 1, 0x01, .num, 4, .wo, 0, 0, 4294967295⟩,
  ⟨0x3000, 64, 64, 1, 0x02, .num, 4, .ro, 0, 0, 0⟩,
  ⟨0x3000, 64, 64, 1, 0x03, .octets, 16, .rwi, 0, 0, 340282366920938463463374607431768211455⟩,
  ⟨0x3000, 64, 64, 1, 0x04, .num, 8, .rwi, 0, 0, 281474976710655⟩,
  ⟨0x3000, 64, 64, 1, 0x05, .num, 8, .rwi, 0, 0, 18446744073709551615⟩,
  ⟨0x3000, 64, 64, 1, 0x06, .num, 4, .rwi, 0, 0, 262144⟩,
  ⟨0x3000, 64, 64, 1, 0x07, .num, 4, .rwi, 0, 0, 4194304⟩,
  ⟨0x3000, 64, 64, 1, 0x08, .num, 2, .rwi, 0, 0, 256⟩,
  ⟨0x3000, 64, 64, 1, 0x09, .num, 8, .rwi, 0, 0, 281474976710655⟩,
  ⟨0x3000, 64, 64, 1, 0x0A, .num, 1, .rwi, 0, 0, 4⟩,
  ⟨0x3000, 64, 64, 1, 0x0B, .num, 8, .ro, 0, 0, 0⟩,
  ⟨0x3000, 64, 64, 1, 0x0C, .num, 8, .ro, 0, 0, 0⟩,
  ⟨0x3000, 64, 64, 1, 0x10, .num, 4, .rw, 2000, 0, 1000000⟩,
  ⟨0x3000, 64, 64, 1, 0x11, .octets, 64, .ro, 0, 0, 0⟩,
  ⟨0x3000, 64, 64, 1, 0x12, .num, 8, .ro, 0, 0, 0⟩,
  ⟨0x3000, 64, 64, 1, 0x13, .domain, 32, .ro, 0, 0, 0⟩]

/-- Objects of chapter 14, part 1. -/
def objsParts1 : List ObjRow := [
  ⟨0x3000, 64, 64, 1, 0x18, .domain, 32, .ro, 0, 0, 0⟩,
  ⟨0x3000, 64, 64, 1, 0x19, .num, 8, .ro, 0, 0, 0⟩,
  ⟨0x3000, 64, 64, 1, 0x1A, .num, 8, .ro, 0, 0, 0⟩,
  ⟨0x3000, 64, 64, 1, 0x1B, .num, 8, .ro, 0, 0, 0⟩,
  ⟨0x3000, 64, 64, 1, 0x1C, .num, 8, .ro, 0, 0, 0⟩,
  ⟨0x3020, 64, 64, 8, 0x01, .num, 2, .rwi, 0, 0, 65535⟩,
  ⟨0x3020, 64, 64, 8, 0x02, .num, 8, .rwi, 0, 0, 18446744073709551615⟩,
  ⟨0x3020, 64, 64, 8, 0x03, .num, 8, .rwi, 0, 0, 18446744073709551615⟩,
  ⟨0x3020, 64, 64, 8, 0x04, .num, 4, .ro, 0, 0, 0⟩,
  ⟨0x3020, 64, 64, 8, 0x05, .num, 8, .ro, 0, 0, 0⟩,
  ⟨0x3020, 64, 64, 8, 0x06, .num, 8, .ro, 0, 0, 0⟩,
  ⟨0x3020, 64, 64, 8, 0x07, .num, 8, .ro, 0, 0, 0⟩,
  ⟨0x3020, 64, 64, 8, 0x08, .num, 8, .ro, 0, 0, 0⟩]

/-- Objects of chapter 15, part 0. -/
def objsDict0 : List ObjRow := [
  ⟨0x1000, 0, 1, 1, 0x00, .num, 4, .const, 0, 0, 0⟩,
  ⟨0x1001, 0, 1, 1, 0x00, .num, 1, .ro, 0, 0, 0⟩,
  ⟨0x1003, 0, 1, 1, 0x00, .num, 1, .rw, 0, 0, 0⟩,
  ⟨0x1003, 0, 1, 1, 0x01, .num, 4, .ro, 0, 0, 0⟩,
  ⟨0x1003, 0, 1, 1, 0x02, .num, 4, .ro, 0, 0, 0⟩,
  ⟨0x1003, 0, 1, 1, 0x03, .num, 4, .ro, 0, 0, 0⟩,
  ⟨0x1003, 0, 1, 1, 0x04, .num, 4, .ro, 0, 0, 0⟩,
  ⟨0x1003, 0, 1, 1, 0x05, .num, 4, .ro, 0, 0, 0⟩,
  ⟨0x1003, 0, 1, 1, 0x06, .num, 4, .ro, 0, 0, 0⟩,
  ⟨0x1003, 0, 1, 1, 0x07, .num, 4, .ro, 0, 0, 0⟩,
  ⟨0x1003, 0, 1, 1, 0x08, .num, 4, .ro, 0, 0, 0⟩,
  ⟨0x1008, 0, 1, 1, 0x00, .text, 16, .const, 20827587415730013951248193604, 0, 0⟩,
  ⟨0x1009, 0, 1, 1, 0x00, .text, 4, .const, 50, 0, 0⟩,
  ⟨0x100A, 0, 1, 1, 0x00, .text, 16, .ro, 0, 0, 0⟩,
  ⟨0x1011, 0, 1, 1, 0x01, .num, 4, .rw, 1, 0, 4294967295⟩,
  ⟨0x1014, 0, 1, 1, 0x00, .num, 4, .const, 129, 0, 0⟩]

/-- Objects of chapter 15, part 1. -/
def objsDict1 : List ObjRow := [
  ⟨0x1015, 0, 1, 1, 0x00, .num, 2, .rwp, 100, 0, 65535⟩,
  ⟨0x1017, 0, 1, 1, 0x00, .num, 2, .rwp, 100, 10, 10000⟩,
  ⟨0x1018, 0, 1, 1, 0x01, .num, 4, .const, 1324, 0, 0⟩,
  ⟨0x1018, 0, 1, 1, 0x02, .num, 4, .const, 1146631732, 0, 0⟩,
  ⟨0x1018, 0, 1, 1, 0x03, .num, 4, .const, 131072, 0, 0⟩,
  ⟨0x1018, 0, 1, 1, 0x04, .num, 4, .const, 0, 0, 0⟩,
  ⟨0x1800, 1, 4, 1, 0x01, .num, 4, .const, 0, 0, 0⟩,
  ⟨0x1800, 1, 4, 1, 0x02, .num, 1, .const, 254, 0, 0⟩,
  ⟨0x1800, 1, 4, 1, 0x03, .num, 2, .rwp, 0, 0, 65535⟩,
  ⟨0x1800, 1, 4, 1, 0x05, .num, 2, .rwp, 1000, 0, 60000⟩,
  ⟨0x2000, 0, 1, 1, 0x00, .num, 1, .ro, 0, 0, 0⟩,
  ⟨0x2001, 0, 1, 1, 0x00, .int, 2, .ro, 0, 0, 0⟩,
  ⟨0x2002, 0, 1, 1, 0x00, .num, 2, .ro, 0, 0, 0⟩,
  ⟨0x2003, 0, 1, 1, 0x00, .num, 2, .ro, 0, 0, 0⟩,
  ⟨0x2004, 0, 1, 1, 0x00, .num, 2, .ro, 0, 0, 0⟩,
  ⟨0x2005, 0, 1, 1, 0x01, .int, 2, .ro, 0, 0, 0⟩]

/-- Objects of chapter 15, part 2. -/
def objsDict2 : List ObjRow := [
  ⟨0x2005, 0, 1, 1, 0x02, .int, 2, .ro, 0, 0, 0⟩,
  ⟨0x2005, 0, 1, 1, 0x03, .int, 2, .ro, 0, 0, 0⟩,
  ⟨0x2005, 0, 1, 1, 0x04, .int, 2, .ro, 0, 0, 0⟩,
  ⟨0x2005, 0, 1, 1, 0x05, .int, 2, .ro, 0, 0, 0⟩,
  ⟨0x2005, 0, 1, 1, 0x06, .int, 2, .ro, 0, 0, 0⟩,
  ⟨0x2005, 0, 1, 1, 0x07, .int, 2, .ro, 0, 0, 0⟩,
  ⟨0x2005, 0, 1, 1, 0x08, .int, 2, .ro, 0, 0, 0⟩,
  ⟨0x2005, 0, 1, 1, 0x09, .int, 2, .ro, 0, 0, 0⟩,
  ⟨0x2005, 0, 1, 1, 0x0A, .int, 2, .ro, 0, 0, 0⟩,
  ⟨0x2006, 0, 1, 1, 0x01, .int, 2, .rwp, 1000, 600, 1040⟩,
  ⟨0x2006, 0, 1, 1, 0x02, .int, 2, .const, 1050, 0, 0⟩,
  ⟨0x2007, 0, 1, 1, 0x00, .num, 4, .rw, 0, 0, 4294967295⟩,
  ⟨0x2008, 0, 1, 1, 0x00, .num, 4, .ro, 0, 0, 0⟩,
  ⟨0x2009, 0, 1, 1, 0x00, .num, 4, .ro, 0, 0, 0⟩,
  ⟨0x200A, 0, 1, 1, 0x00, .num, 4, .ro, 0, 0, 0⟩,
  ⟨0x200B, 0, 1, 1, 0x00, .num, 4, .ro, 0, 0, 0⟩]

/-- Objects of chapter 15, part 3. -/
def objsDict3 : List ObjRow := [
  ⟨0x200C, 0, 1, 1, 0x00, .num, 1, .ro, 0, 0, 0⟩,
  ⟨0x200D, 0, 1, 1, 0x00, .num, 8, .ro, 0, 0, 0⟩,
  ⟨0x200F, 0, 1, 1, 0x00, .num, 4, .ro, 0, 0, 0⟩,
  ⟨0x2010, 0, 1, 1, 0x01, .num, 2, .const, 256, 0, 0⟩,
  ⟨0x2010, 0, 1, 1, 0x02, .num, 1, .const, 1, 0, 0⟩,
  ⟨0x2100, 0, 1, 1, 0x01, .num, 2, .rwp, 500, 0, 65535⟩,
  ⟨0x2100, 0, 1, 1, 0x02, .num, 2, .rwp, 2000, 0, 65535⟩,
  ⟨0x2100, 0, 1, 1, 0x03, .num, 1, .rwp, 1, 0, 1⟩,
  ⟨0x2101, 0, 1, 1, 0x01, .num, 1, .ro, 0, 0, 0⟩,
  ⟨0x2101, 0, 1, 1, 0x02, .num, 4, .ro, 0, 0, 0⟩,
  ⟨0x2101, 0, 1, 1, 0x03, .num, 1, .ro, 0, 0, 0⟩,
  ⟨0x2101, 0, 1, 1, 0x04, .num, 1, .ro, 0, 0, 0⟩,
  ⟨0x2101, 0, 1, 1, 0x05, .num, 4, .ro, 0, 0, 0⟩,
  ⟨0x2101, 0, 1, 1, 0x06, .num, 4, .ro, 0, 0, 0⟩]

/-- Objects of chapter 16, part 0. -/
def objsClocks0 : List ObjRow := [
  ⟨0x2200, 0, 1, 1, 0x01, .num, 4, .ro, 26214970, 0, 0⟩,
  ⟨0x2200, 0, 1, 1, 0x02, .num, 4, .ro, 39322220, 0, 0⟩,
  ⟨0x2200, 0, 1, 1, 0x03, .num, 4, .ro, 52429470, 0, 0⟩,
  ⟨0x2200, 0, 1, 1, 0x04, .num, 4, .ro, 58983100, 0, 0⟩,
  ⟨0x2200, 0, 1, 1, 0x05, .num, 4, .ro, 68813530, 0, 0⟩,
  ⟨0x2200, 0, 1, 1, 0x06, .num, 4, .ro, 78643970, 0, 0⟩,
  ⟨0x2200, 0, 1, 1, 0x07, .num, 4, .ro, 88474440, 0, 0⟩,
  ⟨0x2200, 0, 1, 1, 0x08, .num, 4, .ro, 98304920, 0, 0⟩,
  ⟨0x2201, 0, 1, 1, 0x01, .num, 4, .const, 26214950, 0, 0⟩,
  ⟨0x2201, 0, 1, 1, 0x02, .num, 4, .const, 39322200, 0, 0⟩,
  ⟨0x2201, 0, 1, 1, 0x03, .num, 4, .const, 52429450, 0, 0⟩,
  ⟨0x2201, 0, 1, 1, 0x04, .num, 4, .const, 58983080, 0, 0⟩,
  ⟨0x2201, 0, 1, 1, 0x05, .num, 4, .const, 68813510, 0, 0⟩,
  ⟨0x2201, 0, 1, 1, 0x06, .num, 4, .const, 78643950, 0, 0⟩,
  ⟨0x2201, 0, 1, 1, 0x07, .num, 4, .const, 88474420, 0, 0⟩,
  ⟨0x2201, 0, 1, 1, 0x08, .num, 4, .const, 98304900, 0, 0⟩]

/-- Objects of chapter 16, part 1. -/
def objsClocks1 : List ObjRow := [
  ⟨0x2210, 0, 1, 1, 0x01, .num, 4, .ro, 0, 0, 0⟩,
  ⟨0x2210, 0, 1, 1, 0x02, .num, 1, .rwp, 0, 0, 1⟩,
  ⟨0x2210, 0, 1, 1, 0x03, .num, 2, .ro, 0, 0, 0⟩,
  ⟨0x2210, 0, 1, 1, 0x04, .num, 4, .ro, 0, 0, 0⟩,
  ⟨0x2280, 0, 1, 1, 0x01, .num, 2, .rwp, 2500, 500, 2500⟩,
  ⟨0x2280, 0, 1, 1, 0x02, .num, 4, .ro, 0, 0, 0⟩,
  ⟨0x2280, 0, 1, 1, 0x03, .num, 4, .ro, 0, 0, 0⟩,
  ⟨0x2280, 0, 1, 1, 0x04, .num, 2, .ro, 0, 0, 0⟩,
  ⟨0x2300, 0, 1, 1, 0x01, .num, 4, .rw, 1000, 100, 60000⟩,
  ⟨0x2300, 0, 1, 1, 0x02, .num, 8, .ro, 0, 0, 0⟩,
  ⟨0x2300, 0, 1, 1, 0x03, .num, 8, .ro, 0, 0, 0⟩,
  ⟨0x2300, 0, 1, 1, 0x04, .num, 4, .ro, 0, 0, 0⟩,
  ⟨0x2300, 0, 1, 1, 0x05, .num, 4, .ro, 0, 0, 0⟩,
  ⟨0x2300, 0, 1, 1, 0x06, .num, 1, .ro, 0, 0, 0⟩,
  ⟨0x2400, 1, 180, 1, 0x01, .num, 4, .rw, 0, 0, 4294967295⟩,
  ⟨0x2400, 1, 180, 1, 0x02, .num, 4, .ro, 0, 0, 0⟩]

/-- Objects of chapter 16, part 2. -/
def objsClocks2 : List ObjRow := [
  ⟨0x2400, 1, 180, 1, 0x03, .num, 2, .ro, 0, 0, 0⟩,
  ⟨0x2400, 1, 180, 1, 0x04, .num, 2, .ro, 0, 0, 0⟩,
  ⟨0x2400, 1, 180, 1, 0x05, .num, 4, .ro, 0, 0, 0⟩,
  ⟨0x2500, 1, 64, 1, 0x01, .num, 1, .rw, 5, 0, 7⟩,
  ⟨0x2500, 1, 64, 1, 0x02, .num, 1, .ro, 5, 0, 0⟩,
  ⟨0x2500, 1, 64, 1, 0x03, .num, 1, .rw, 16, 1, 255⟩,
  ⟨0x2500, 1, 64, 1, 0x04, .num, 4, .rw, 10, 10, 800000⟩,
  ⟨0x2500, 1, 64, 1, 0x05, .num, 4, .rw, 50000, 10, 800000⟩,
  ⟨0x2500, 1, 64, 1, 0x06, .num, 1, .ro, 0, 0, 0⟩,
  ⟨0x2500, 1, 64, 1, 0x07, .num, 4, .ro, 0, 0, 0⟩,
  ⟨0x2600, 0, 1, 1, 0x01, .num, 4, .rwp, 149, 0, 4294967295⟩]

/-- Objects of chapter 17, part 0. -/
def objsReliab0 : List ObjRow := [
  ⟨0x7000, 0, 1, 1, 0x01, .num, 1, .ro, 0, 0, 0⟩,
  ⟨0x7000, 0, 1, 1, 0x02, .num, 2, .ro, 0, 0, 0⟩,
  ⟨0x7000, 0, 1, 1, 0x03, .num, 4, .ro, 0, 0, 0⟩,
  ⟨0x7000, 0, 1, 1, 0x04, .num, 4, .ro, 0, 0, 0⟩,
  ⟨0x7001, 0, 1, 1, 0x00, .domain, 16, .ro, 0, 0, 0⟩,
  ⟨0x7010, 0, 1, 1, 0x01, .num, 2, .ro, 0, 0, 0⟩,
  ⟨0x7010, 0, 1, 1, 0x02, .num, 2, .rw, 0, 0, 1023⟩,
  ⟨0x7010, 0, 1, 1, 0x03, .domain, 16, .ro, 0, 0, 0⟩,
  ⟨0x7011, 0, 1, 1, 0x01, .num, 4, .ro, 0, 0, 0⟩,
  ⟨0x7011, 0, 1, 1, 0x02, .num, 1, .rw, 0, 0, 255⟩,
  ⟨0x7011, 0, 1, 1, 0x03, .domain, 32, .ro, 0, 0, 0⟩,
  ⟨0x7020, 0, 1, 1, 0x01, .num, 2, .rw, 600, 60, 3600⟩,
  ⟨0x7020, 0, 1, 1, 0x02, .num, 1, .const, 20, 0, 0⟩,
  ⟨0x7020, 0, 1, 1, 0x03, .num, 1, .const, 30, 0, 0⟩,
  ⟨0x7020, 0, 1, 1, 0x04, .num, 2, .ro, 0, 0, 0⟩,
  ⟨0x7020, 0, 1, 1, 0x05, .num, 4, .ro, 0, 0, 0⟩]

/-- Objects of chapter 17, part 1. -/
def objsReliab1 : List ObjRow := [
  ⟨0x7020, 0, 1, 1, 0x06, .num, 1, .wo, 0, 0, 255⟩,
  ⟨0x7100, 1, 180, 1, 0x01, .int, 2, .ro, 0, 0, 0⟩,
  ⟨0x7100, 1, 180, 1, 0x02, .num, 4, .ro, 0, 0, 0⟩,
  ⟨0x7100, 1, 180, 1, 0x03, .int, 2, .ro, 32767, 0, 0⟩,
  ⟨0x7100, 1, 180, 1, 0x04, .int, 2, .ro, 32767, 0, 0⟩,
  ⟨0x7100, 1, 180, 1, 0x05, .int, 2, .ro, 32767, 0, 0⟩,
  ⟨0x7100, 1, 180, 1, 0x06, .num, 1, .ro, 0, 0, 0⟩,
  ⟨0x7100, 1, 180, 1, 0x07, .num, 1, .ro, 1, 0, 0⟩,
  ⟨0x7200, 1, 64, 1, 0x01, .num, 2, .rw, 30, 2, 600⟩,
  ⟨0x7200, 1, 64, 1, 0x02, .num, 2, .rwi, 0, 0, 65535⟩,
  ⟨0x7200, 1, 64, 1, 0x03, .num, 8, .rwi, 0, 0, 281474976710655⟩,
  ⟨0x7200, 1, 64, 1, 0x04, .num, 8, .rwi, 0, 0, 18446744073709551615⟩,
  ⟨0x7200, 1, 64, 1, 0x05, .num, 4, .rwi, 0, 0, 4294967295⟩,
  ⟨0x7200, 1, 64, 1, 0x06, .num, 8, .ro, 0, 0, 0⟩,
  ⟨0x7200, 1, 64, 1, 0x07, .num, 4, .ro, 0, 0, 0⟩,
  ⟨0x7200, 1, 64, 1, 0x08, .num, 8, .ro, 0, 0, 0⟩]

/-- Objects of chapter 17, part 2. -/
def objsReliab2 : List ObjRow := [
  ⟨0x7200, 1, 64, 1, 0x09, .num, 8, .ro, 0, 0, 0⟩,
  ⟨0x7200, 1, 64, 1, 0x0A, .num, 8, .ro, 0, 0, 0⟩,
  ⟨0x7200, 1, 64, 1, 0x0B, .num, 4, .ro, 0, 0, 0⟩,
  ⟨0x7200, 1, 64, 1, 0x0C, .num, 4, .ro, 0, 0, 0⟩,
  ⟨0x7200, 1, 64, 1, 0x0D, .num, 8, .ro, 0, 0, 0⟩,
  ⟨0x7200, 1, 64, 1, 0x0E, .num, 8, .ro, 0, 0, 0⟩,
  ⟨0x7200, 1, 64, 1, 0x0F, .num, 8, .wo, 0, 0, 18446744073709551615⟩,
  ⟨0x7200, 1, 64, 1, 0x10, .num, 4, .ro, 0, 0, 0⟩,
  ⟨0x7200, 1, 64, 1, 0x12, .num, 1, .rw, 1, 0, 1⟩,
  ⟨0x7300, 1, 2, 1, 0x01, .num, 1, .ro, 0, 0, 0⟩,
  ⟨0x7300, 1, 2, 1, 0x02, .text, 16, .ro, 0, 0, 0⟩,
  ⟨0x7300, 1, 2, 1, 0x03, .text, 16, .ro, 0, 0, 0⟩,
  ⟨0x7300, 1, 2, 1, 0x04, .num, 2, .ro, 0, 0, 0⟩,
  ⟨0x7300, 1, 2, 1, 0x05, .num, 1, .ro, 0, 0, 0⟩,
  ⟨0x7300, 1, 2, 1, 0x06, .num, 8, .rw, 0, 0, 18446744073709551615⟩,
  ⟨0x7300, 1, 2, 1, 0x07, .num, 4, .wo, 0, 0, 4294967295⟩]

/-- Objects of chapter 17, part 3. -/
def objsReliab3 : List ObjRow := [
  ⟨0x7300, 1, 2, 1, 0x08, .num, 4, .ro, 0, 0, 0⟩]

/-- Objects of chapter 18, part 0. -/
def objsTest0 : List ObjRow := [
  ⟨0xA000, 0, 1, 1, 0x01, .num, 4, .ro, 0, 0, 0⟩,
  ⟨0xA000, 0, 1, 1, 0x02, .num, 4, .ro, 0, 0, 0⟩,
  ⟨0xA100, 1, 2, 1, 0x01, .num, 4, .rw, 0, 0, 4294967295⟩,
  ⟨0xA100, 1, 2, 1, 0x02, .num, 4, .ro, 0, 0, 0⟩,
  ⟨0xA100, 1, 2, 1, 0x03, .num, 8, .ro, 0, 0, 0⟩,
  ⟨0xA200, 0, 1, 1, 0x01, .num, 1, .rw, 0, 0, 255⟩,
  ⟨0xA200, 0, 1, 1, 0x02, .num, 4, .ro, 0, 0, 0⟩,
  ⟨0xA200, 0, 1, 1, 0x03, .num, 4, .ro, 0, 0, 0⟩]

/-- Every object of the dictionary. -/
def objTable : List ObjRow :=
  objsFormats0 ++ objsArray0 ++ objsProgram0 ++ objsFunctions0 ++ objsConv0 ++ objsLoader0 ++ objsCache0 ++ objsTraining0 ++ objsTraining1 ++ objsLinks0 ++ objsLinks1 ++ objsMemory0 ++ objsMemory1 ++ objsMedia0 ++ objsInput0 ++ objsParts0 ++ objsParts1 ++ objsDict0 ++ objsDict1 ++ objsDict2 ++ objsDict3 ++ objsClocks0 ++ objsClocks1 ++ objsClocks2 ++ objsReliab0 ++ objsReliab1 ++ objsReliab2 ++ objsReliab3 ++ objsTest0

/-- The key under which the register file holds sub-index `sub` of object `idx`. -/
def okey (idx sub : Nat) : Nat := idx * 256 + sub

/-- The unit a row has at index `idx`, where it has one. -/
def ObjRow.unitAt (r : ObjRow) (idx : Nat) : Option Nat :=
  if idx < r.base then none
  else
    let d := idx - r.base
    let a := if r.s1 = 0 then 0 else d / r.s1
    let b := d - r.s1 * a
    if a < r.n1 ∧ b < r.n2 then some (r.n2 * a + b) else none

/-- The row of an object, with its unit. -/
def findObj (idx sub : Nat) : Option (ObjRow × Nat) :=
  objTable.findSome? (fun r => if r.sub = sub then (r.unitAt idx).map (fun u => (r, u)) else none)

/-- What the register file reads where nothing is listed: the reset value of the object tables. -/
def objReset (key : Nat) : Nat :=
  match findObj (key / 256) (key % 256) with
  | some (r, _) => r.dflt
  | none => 0

end Sys2Proof.Machine
end

