-- ==== Sys2Proof/Machine/Mem.lean ====
section
/-! DEFINITION. The bytes of every memory of the module in one canonical list: device memory (R30), core local memory and
cluster memory (R6), and the set of 32-byte halves that hold an uncorrectable error (R319, R535). -/

namespace Sys2Proof.Machine

/-- Key of byte `off` of the local memory of logical core `c` (512 KiB each). -/
def localKey (c off : Nat) : Nat := 2 ^ 53 + c * 2 ^ 19 + off

/-- Key of byte `off` of the memory of cluster `g` (8 MiB each). -/
def clusterKey (g off : Nat) : Nat := 2 ^ 54 + g * 2 ^ 23 + off

/-- A byte that no entry lists reads 0: stacks after the quick pass (R337), a partition's memories after formation (R387). -/
def Mem.read1 : List Host.Cell → Nat → Byte
  | [], _ => 0
  | (k, v) :: t, a => if k = a then v else Mem.read1 t a

/-- The canonical form: keys rise strictly and no entry holds 0. -/
def Mem.wf : List Host.Cell → Bool
  | [] => true
  | [(_, v)] => v != 0
  | (k, v) :: (k', v') :: t => v != 0 && decide (k < k') && Mem.wf ((k', v') :: t)

/-- `n` bytes from key `a` of a list whose keys all lie at or above `a`. -/
def Mem.readFrom : Nat → List Host.Cell → Nat → List Byte
  | 0, _, _ => []
  | n + 1, [], a => 0 :: Mem.readFrom n [] (a + 1)
  | n + 1, (k, v) :: t, a =>
    if k = a then v :: Mem.readFrom n t (a + 1) else 0 :: Mem.readFrom n ((k, v) :: t) (a + 1)

/-- The `n` bytes from key `a`. -/
def Mem.read (m : List Host.Cell) (a n : Nat) : List Byte :=
  Mem.readFrom n (m.dropWhile (fun c => c.1 < a)) a

/-- The entries that hold the bytes `bs` from key `a` on: the bytes that differ from 0. -/
def Mem.cells : Nat → List Byte → List Host.Cell
  | _, [] => []
  | a, b :: t => if b = 0 then Mem.cells (a + 1) t else (a, b) :: Mem.cells (a + 1) t

/-- Write the bytes `bs` at key `a`; the canonical form is kept. -/
def Mem.write (m : List Host.Cell) (a : Nat) (bs : List Byte) : List Host.Cell :=
  m.takeWhile (fun c => c.1 < a) ++ Mem.cells a bs ++ m.dropWhile (fun c => c.1 < a + bs.length)

/-- Write 0 to the `n` bytes from key `a`. -/
def Mem.zero (m : List Host.Cell) (a n : Nat) : List Host.Cell :=
  m.takeWhile (fun c => c.1 < a) ++ m.dropWhile (fun c => c.1 < a + n)

/-- Copy the `n` bytes from key `s` to key `d`; the canonical form is kept. -/
def Mem.copy (m : List Host.Cell) (s d n : Nat) : List Host.Cell :=
  let cs := (m.filter (fun c => s ≤ c.1 && c.1 < s + n)).map (fun c => (c.1 - s + d, c.2))
  m.takeWhile (fun c => c.1 < d) ++ cs ++ m.dropWhile (fun c => c.1 < d + n)

/-- The little-endian number in the `n` bytes at key `a`. -/
def Mem.readNat (m : List Host.Cell) (a n : Nat) : Nat := leNat (Mem.read m a n)

/-- Half `h` shares a byte with the `n` bytes from key `a`. -/
def halfIn (a n h : Nat) : Bool := a < h * 32 + 32 && h * 32 < a + n

/-- The lowest half with an uncorrectable error among the `n` bytes from key `a`, as the key of its first byte (R535). -/
def firstBad (bad : List Nat) (a n : Nat) : Option Nat := ((bad.filter (halfIn a n)).min?).map (· * 32)

/-- The lowest half that a write of `n` bytes at `a` covers only in part and whose read is uncorrectable: the write faults and
nothing is written (R535). -/
def firstBadPart (bad : List Nat) (a n : Nat) : Option Nat :=
  ((bad.filter (fun h => halfIn a n h && (h * 32 < a || a + n < h * 32 + 32))).min?).map (· * 32)

/-- A write of a whole half makes it good again (R535). -/
def goodAfter (bad : List Nat) (a n : Nat) : List Nat :=
  bad.filter (fun h => !(a ≤ h * 32 && h * 32 + 32 ≤ a + n))

/-- The halves that are uncorrectable after `n` bytes are copied from `s` to `d`, all three multiples of 32. -/
def badAfterCopy (bad : List Nat) (s d n : Nat) : List Nat :=
  bad.filter (fun h => !(d ≤ h * 32 && h * 32 < d + n)) ++
    ((bad.filter (fun h => s ≤ h * 32 && h * 32 < s + n)).map (fun h => h - s / 32 + d / 32))

end Sys2Proof.Machine
end

