-- ==== Sys2Proof/Machine/Routes.lean ====
section
/-! DEFINITION. Die bridges and the routes between dies (R24, R25, R27, R28). -/

namespace Sys2Proof.Machine

/-- An entry of the route table set at cast-on: traffic from one end to another (0 to 7: D0 to D7; 8: IA; 9: IB) and the bridges it crosses in
order (0 to 9 in R24 order; 10 to 13: IA-D0, IA-D4, IB-D3, IB-D7); R25, R27. -/
structure DieRoute where
  src : Nat
  dst : Nat
  bridges : List Nat
  deriving DecidableEq, Repr

/-- The ends of a bridge (R24). -/
def bridgeEnds (b : Nat) : Nat × Nat :=
  if b < 3 then (b, b + 1) else if b < 6 then (b + 1, b + 2) else if b < 10 then (b - 6, b - 2)
  else if b < 12 then (8, 4 * (b - 10)) else (9, 4 * (b - 12) + 3)

/-- The bridges of row `row` from column `a` to column `c`, in the order they are crossed. -/
def rowBridges (row a c : Nat) : List Nat :=
  if a ≤ c then (List.range (c - a)).map (fun i => 3 * row + a + i) else (List.range (a - c)).map (fun i => 3 * row + a - 1 - i)

/-- The column an I/O die is bridged to. -/
def ioCol (x : Nat) : Nat := if x = 8 then 0 else 3

/-- The bridge of an I/O die in a row. -/
def ioBridge (x row : Nat) : Nat := 10 + 2 * (x - 8) + row

/-- The two orders of a route (R25, R27): between dies along the source row and then across, or across and then along the row; from an I/O die by
its bridge in the destination row, or by the other row and then across; to an I/O die by its bridge in the source row, or across and by the other. -/
def orders (s d : Nat) : List (List Nat) :=
  let cross (col : Nat) : List Nat := if s / 4 = d / 4 then [] else [6 + col]
  if s ≥ 8 then
    [ioBridge s (d / 4) :: rowBridges (d / 4) (ioCol s) (d % 4),
     (ioBridge s (1 - d / 4) :: rowBridges (1 - d / 4) (ioCol s) (d % 4)) ++ [6 + d % 4]]
  else if d ≥ 8 then
    [rowBridges (s / 4) (s % 4) (ioCol d) ++ [ioBridge d (s / 4)],
     (6 + s % 4) :: rowBridges (1 - s / 4) (s % 4) (ioCol d) ++ [ioBridge d (1 - s / 4)]]
  else [rowBridges (s / 4) (s % 4) (d % 4) ++ cross (d % 4), cross (s % 4) ++ rowBridges (d / 4) (s % 4) (d % 4)]

/-- The first order that crosses no faulty bridge and no die that is bound off. -/
def routeOf (dead off : List Nat) (s d : Nat) : Option (List Nat) :=
  (orders s d).find? (fun r => r.all (fun b =>
    !dead.contains b && !off.contains (bridgeEnds b).1 && !off.contains (bridgeEnds b).2))

/-- The route table of a cast-on: every pair of ends that some order joins (R25, R27, R28). -/
def routeTable (dead off : List Nat) : List DieRoute :=
  (List.range 10).flatMap (fun s => (List.range 10).filterMap (fun d =>
    if s = d || (s ≥ 8 && d ≥ 8) then none else (routeOf dead off s d).map (fun r => ⟨s, d, r⟩)))

end Sys2Proof.Machine
end

