-- ==== Sys2Proof/Machine/State.lean ====
section
/-! DEFINITION. The state of the module as plain data, and the state after reset. -/

namespace Sys2Proof.Machine

/-- What stops the model with a fault. -/
inductive Fault where
  /-- Raised by no command: the spec gives every command an effect in every state (safe). -/
  | none
  deriving DecidableEq, Repr

/-- What the model refuses. -/
inductive Refusal where
  /-- A command whose meaning is not written yet, named by its row's mnemonic (safe). -/
  | notModelled (mnemonic : String)
  deriving DecidableEq, Repr

/-! ## Cores -/

/-- What a context's sequencer does (R121, R140, R152). -/
inductive RunSt where
  /-- no stream: counts as halted (R113) -/
  | noStream
  | running
  /-- at an MWAIT: absolute marker, N, rc of its issue, rc counted before a save (R148) -/
  | waiting (mk n t0 counted : Nat)
  | halted
  /-- stopped by a fault or with its job -/
  | stopped
  /-- stopped with its job in rc `t0`, in which it could still issue: a fault of its word in that rc is one of the same ic (R153) -/
  | cut (t0 : Nat)
  deriving DecidableEq, Repr

/-- What an outstanding data-movement operation moves (R133 to R138). -/
inductive DmaPlan where
  /-- rows of bytes from key to key, with the two pitches -/
  | copy (src dst spitch dpitch rows rlen : Nat)
  | window (src dst : Nat) (shape : List Byte) (p0 grp k0 : Nat)
  | pool (src dst : Nat) (shape : List Byte) (p0 c0 : Nat)
  | combine (src dst : Nat) (shape : List Byte)
  | zpack (src dst fmt ng : Nat)
  | zunpack (src dst fmt ng : Nat)
  /-- the pages of a snapshot into `n` bytes from `dst`: source key, destination key, bytes; a source of none is written 0 -/
  | gather (dst n : Nat) (segs : List (Option Nat × Nat × Nat))
  | post (win src len ret tag mk : Nat)
  /-- an RDMA that waits for its response: peer, message number, first-hop link (64 for none), rc at which its last packet left -/
  | remote (peer mid link t0 : Nat)
  deriving DecidableEq, Repr

structure DmaEntry where
  word : OpWord
  pc : Nat
  plan : DmaPlan
  /-- completion marker, absolute -/
  marker : Option Nat
  deriving DecidableEq, Repr

/-- A sequencer context (R121); a core has a host and a guest context (R410). -/
structure Ctx where
  c : List Nat
  ix : List Nat
  pc : Nat
  stream : Nat
  ebase : Nat
  auto : Bool
  ax : Option OpWord
  run : RunSt
  /-- the next word waits for a stream fetch (R122) -/
  fetch : Bool
  /-- rc counted at the MWAIT at PC before a save (R148) -/
  carry : Nat
  dma : List DmaEntry
  deriving DecidableEq, Repr

/-- A real row of a fill-window batch: poster, return key, tag, marker (R98, R101). -/
structure FwRow where
  core : Nat
  ret : Nat
  tag : Nat
  marker : Nat
  deriving DecidableEq, Repr

/-- The batch an array operation streams (R100): window, buffer and its real rows. -/
structure Batch where
  win : Nat
  buf : Nat
  rows : List FwRow
  deriving DecidableEq, Repr

/-- An array operation as issued: its words, rounding context, index registers and position (R123, R126). -/
structure ArOp where
  ax : OpWord
  ar : OpWord
  pc : Nat
  guest : Bool
  stream : Nat
  ebase : Nat
  /-- keys of the A operand, the B operand, the drain and the tag list -/
  akey : Nat
  bkey : Nat
  dkey : Option Nat
  tkey : Nat
  rbuf : Option Nat
  batch : Option Batch
  /-- next tile to start or in flight, and the K-steps of it already accumulated -/
  tile : Nat
  kdone : Nat
  deriving DecidableEq, Repr

/-- An accumulator bank of 64 x 64 cells (R80, R87): raw values (bits), CMPS indices, and K-steps since the accumulation began. -/
structure Bank where
  vals : List Nat
  idx : List Nat
  held : Bool
  mode : Nat
  isInt : Bool
  kpos : Nat
  deriving DecidableEq, Repr

/-- A drain under way: the operation, its tile, the bank, the rows still to write. -/
structure Drain where
  op : ArOp
  tile : Nat
  bank : Nat
  left : Nat
  deriving DecidableEq, Repr

/-- Where the array stands between tiles (R92, R93). -/
inductive Ramp where
  | hold
  | down (cols : Nat)
  | quiet
  | up (cols : Nat)
  deriving DecidableEq, Repr

structure Arr where
  queue : List ArOp
  /-- a tile of the first operation streams -/
  busy : Bool
  banks : List Bank
  drains : List Drain
  ramp : Ramp
  /-- ic since the last tile's stream end, and that tile's drain length -/
  gap : Nat
  ddr : Nat
  /-- 6180h + p.01 as it stood when the gap began (R108) -/
  ctl : Nat
  /-- the last 64 beats: A bytes, then B bytes (R91) -/
  beats : List Byte
  deriving DecidableEq, Repr

structure Core where
  slot : Nat
  host : Ctx
  guest : Ctx
  inGuest : Bool
  /-- the host's wait is satisfied while the core is in its guest context (R411) -/
  back : Bool
  arr : Arr
  /-- batches consumed, by window (R100) -/
  fwUsed : AMap Nat
  /-- rc at which the guest context took over (3000h + 40h·p.1B), and at which the array last finished a tile (R106) -/
  tGuest : Nat
  tArr : Nat
  deriving DecidableEq, Repr

/-! ## Markers -/

/-- A message on its way to a marker block (R143). -/
inductive MkMsg where
  /-- from die 0 to 7, or aggregator 8 or 9 -/
  | signal (src marker n : Nat)
  | reset (src marker : Nat)
  | wait (src marker n core : Nat) (guest : Bool)
  deriving DecidableEq, Repr

/-- A wait that a marker block lists (R140, R141). -/
structure Wait where
  marker : Nat
  n : Nat
  core : Nat
  guest : Bool
  deriving DecidableEq, Repr

/-! ## Prickings, jobs, partitions -/

/-- A pricking as installed: header fields, resource records, streams by relative core, shape table, KIND 0 placement. -/
structure Pricking where
  prkver : Nat
  nclus : Nat
  ncore : Nat
  minlink : Nat
  recs : List (List Byte)
  streams : List (List OpWord)
  /-- the streams as the image holds them, for the limits of bound values (Table 8-6) -/
  image : List (List OpWord)
  nshape : Nat
  /-- device address of each KIND 0 buffer by ID (R218) -/
  place : AMap Nat
  /-- function-table headers by U (R166) -/
  funcs : AMap (List Byte)
  /-- user-function table slots: the highest U and one (R388) -/
  nu : Nat
  /-- KEEP buffers admitted and not admitted (R274) -/
  keep : List Nat
  left : List Nat
  /-- the image in device memory, and its region (R500) -/
  addr : Nat
  region : Nat
  deriving DecidableEq, Repr

inductive JobSt where
  /-- fetched, behind a fence (R399) -/
  | fenced
  /-- ready -/
  | queued
  | running
  /-- its cores are stopping; the status and detail it will complete with -/
  | stopping (status detail : Nat)
  /-- in a save slot, with its place in save order -/
  | saved (slot order : Nat)
  /-- ended; the completion record is not written yet -/
  | done (status detail seq : Nat)
  deriving DecidableEq, Repr

/-- A job between fetch and its completion record (R395). -/
structure Job where
  client : Nat
  part : Nat
  sqidx : Nat
  kind : Nat
  tag : Nat
  genr : Nat
  pri : Nat
  flags : Nat
  ctr : Nat
  arg0 : Nat
  arg1 : Nat
  arg2 : Nat
  user : Nat
  desc : List Byte
  /-- peer, genr, tag of each peer entry (R398) -/
  peers : List (Nat × Nat × Nat)
  seq : Nat
  saves : Nat
  st : JobSt
  /-- commands of a MEDIA or INPUT job still without a result, and whether one had status 14h (R400) -/
  left : Nat
  hard : Bool
  /-- commands of its list already in their queues (R344) -/
  fed : Nat
  /-- sequences its length table pins (R235) -/
  pins : List Nat
  /-- its first fault has been recorded (R153) -/
  faulted : Bool
  deriving DecidableEq, Repr

inductive FwSt where
  | free
  /-- open, with the rc at which its deadline expires -/
  | opened (deadline : Nat)
  | ready (order : Nat)
  deriving DecidableEq, Repr

structure FwBuf where
  st : FwSt
  rows : List FwRow
  /-- consumers that have finished their drain -/
  used : List Nat
  deriving DecidableEq, Repr

/-- A declared fill window (R97). -/
structure FillWin where
  fmt : Nat
  home : Nat
  cons : Nat
  k : Nat
  base : Nat
  bufs : List FwBuf
  /-- batches made ready so far -/
  made : Nat
  /-- the cores whose posts wait to be accepted, in issue order -/
  posts : List Nat
  deriving DecidableEq, Repr

/-! ## Reduction buffers, recipes (chapter 9) -/

/-- A staged contribution: its number j in its contributor's stream, its staging tile, its bytes so far, and whether it has been counted
as waiting for a slot (R258, R260). -/
structure Staged where
  j : Nat
  place : Nat
  got : Nat
  waited : Bool
  deriving DecidableEq, Repr

/-- A tile that holds a slot (R261): its round in this job, slot, state area, contributions added, whether its state image has arrived
and whether its sum is complete. -/
structure TileSt where
  round : Nat
  slot : Nat
  area : Option Nat
  added : Nat
  loaded : Bool
  full : Bool
  deriving DecidableEq, Repr

/-- A tile a FWD engine sends: its number, the next target, whether its contribution there has been counted as waiting for a credit (R260, R263). -/
structure FwdTile where
  tile : Nat
  next : Nat
  waited : Bool
  deriving DecidableEq, Repr

/-- A reduction buffer in use (R255 to R263): contributions sent and credits by contributor, staged contributions by contributor, tiles in
slots, rounds completed by tile, tile CRCs of the open round, and what a FWD engine still sends, and messages that wait for their
responses: (message number, tile, first-hop link). -/
structure RBuf where
  sent : List Nat
  credits : List Nat
  starved : List Bool
  staged : List (List Staged)
  tiles : AMap TileSt
  rounds : AMap Nat
  crcs : AMap Nat
  fwd : List FwdTile
  unanswered : List (Nat × Nat × Nat)
  deriving DecidableEq, Repr

/-- A recipe's state and values (R269). -/
structure RecipeSt where
  step : Nat
  p1 : Nat
  p2 : Nat
  lr : Nat
  c1 : Nat
  c2 : Nat
  deriving DecidableEq, Repr

/-! ## Cache engines (chapter 8) -/

/-- A cache engine (R244): its round in this job, its place in the append list while a round is under way with the entries of it, the page
it stalled at, whether a cache command has completed since (R250), and the counts of the cache. -/
structure CacheSt where
  round : Nat
  entry : Option Nat
  count : Nat
  stall : Option Nat
  retry : Bool
  rounds : Nat
  dropped : Nat
  blocks : Nat
  deriving DecidableEq, Repr

/-! ## Links (chapter 10) -/

/-- A link's protocol state (R287 to R294). -/
structure LinkRt where
  /-- SEQ expected, and whether a RETRY for it is outstanding -/
  rx : Nat
  await : Bool
  /-- next SEQ to send, the replay buffer: channel and BODY of the DATA flits unacknowledged, the oldest first (R289), credits by virtual
  channel -/
  tx : Nat
  replay : List (Nat × List Byte)
  credits : List Nat
  /-- messages that wait to be sent, and the flits VC2 and VC3 have taken while both had data (R291) -/
  queue : List Msg
  share : Nat × Nat
  /-- rc and flits of the lifeline messages lately sent, newest first (R291) -/
  lifeSent : List (Nat × Nat)
  /-- by virtual channel: the bytes so far of the message that arrives, and the flits received whose credits no message that has arrived
  returns (R291, R299) -/
  rxPart : AMap (List Byte × Nat)
  /-- messages that have arrived and have not been taken, with their channel and the credits their taking returns -/
  arrived : List (Nat × Msg × Nat)
  /-- SEQ of the last RETRY received and how many named it (R290) -/
  again : Nat × Nat
  /-- rc of the last retrains, newest first; rc at which the training, retrain or loop-back began -/
  retrains : List Nat
  t0 : Nat
  /-- the training is a retrain that keeps the replay buffer; the loop-back serves the far end; a far-end loop-back
  has been asked for; the loss has been reported -/
  keep : Bool
  farLoop : Bool
  loopAsk : Bool
  reported : Bool
  /-- probe latencies of this training, and the far identity of the previous one -/
  probes : List Nat
  ident : Option Nat
  /-- HELLOs received by lane, newest first -/
  hellos : AMap (List Hello)
  deriving DecidableEq, Repr

/-- A remote write or reduce-add being received (R300): its sender, its next packet, the link it arrives on, and the destination of a
remote write, key and bytes. -/
structure Flow where
  sfa : Nat
  spart : Nat
  srcu : Nat
  mid : Nat
  next : Nat
  link : Nat
  dst : Nat
  len : Nat
  deriving DecidableEq, Repr

/-- Credits granted by a far reduction buffer (R260): the granting module, partition and job, the buffer, the unit, the count, and the
contributions sent before the first grant, which it still has to cover. -/
structure Grant where
  fa : Nat
  fp : Nat
  tag : Nat
  genr : Nat
  fbuf : Nat
  unit : Nat
  n : Nat
  owed : Nat
  deriving DecidableEq, Repr

/-- Contributions of one reduce-add that wait for credits, each as its packets (R260). -/
structure RaddWait where
  peer : Nat
  fbuf : Nat
  unit : Nat
  core : Option Nat
  mid : Nat
  left : List (List Msg)
  waited : Bool
  deriving DecidableEq, Repr

/-- What a save keeps of a core beside its memory image (Table 14-10, sequencer and engine state, beats). -/
structure SavedCore where
  core : Nat
  ctx : Ctx
  arr : Arr
  fwUsed : AMap Nat
  deriving DecidableEq, Repr

/-- A filled save slot: what the image holds in areas whose inner layout the spec does not give (log entry 128, DESIGN CHOICE). -/
structure SaveSlot where
  cores : List SavedCore
  wins : AMap FillWin
  rbufs : AMap RBuf
  closed : Nat
  sweep : Bool
  radds : List RaddWait
  caches : AMap CacheSt
  /-- rc at which the save began -/
  at' : Nat
  deriving DecidableEq, Repr

/-! ## Media and input engines (chapters 12 and 13) -/

/-- A media command in an engine's queue: its partition, the job it belongs to and its 64 bytes. -/
structure MedCmd where
  part : Nat
  client : Nat
  seq : Nat
  bytes : List Byte
  deriving DecidableEq, Repr

/-- The command an engine runs: rc of its start, and its result record once the picture is finished. -/
structure MedRun where
  cmd : MedCmd
  t0 : Nat
  result : Option (List Byte)
  deriving DecidableEq, Repr

/-- A picture of a decode stream that later pictures may refer to: its size and depth, its surface (R349) and its error map (R358). -/
structure MedPic where
  w : Nat
  h : Nat
  depth : Nat
  surface : List Byte
  map : List Byte
  deriving DecidableEq, Repr

/-- An open stream: its partition, open block, the inputs of its earlier commands (of an encoder, since its last IDR or key frame), the encoder's
budget B in bits (R351), a decoder's pictures, the newest first, whether the stream started with a CRA whose RASL pictures are not output (R348),
and the encoder's pictures so far. -/
structure MedStr where
  part : Nat
  block : List Byte
  hist : List (List Byte)
  budget : Nat
  pics : List MedPic
  rasl : Bool
  count : Nat
  deriving DecidableEq, Repr

/-- A media engine: queue, command in hand, FAILED, when it lately worked: start, end, for batch (R346), and the stream whose context it holds. -/
structure MedEng where
  queue : List MedCmd
  run : Option MedRun
  failed : Bool
  spans : List (Nat × Nat × Bool)
  ctx : Option Nat
  deriving DecidableEq, Repr

/-- An input command in its stream's queue. -/
structure InCmd where
  client : Nat
  seq : Nat
  bytes : List Byte
  deriving DecidableEq, Repr

/-- A SUBMIT under way (R375 to R381): its command, its first batch, batches written and published, samples real, corrupt and concealed,
truncations, error records written and not written. -/
structure InBuild where
  cmd : InCmd
  first : Nat
  made : Nat
  published : Nat
  real : Nat
  corrupt : Nat
  concealed : Nat
  trunc : Nat
  errs : Nat
  missed : Nat
  deriving DecidableEq, Repr

/-- An open input stream: half, batch specification and voxel blocks as copied, media streams it opened, next batch number, and the
SUBMIT under way. -/
structure InStream where
  half : Nat
  spec : List Byte
  vox : List (List Byte)
  keys : List Nat
  next : Nat
  build : Option InBuild
  deriving DecidableEq, Repr

/-! ## Lifelines and frogs (chapter 17) -/

/-- A frog under way that waits for its partner: ROUND asked for, the local slot it fills, when it last heard of the partner, the bytes
received, and the recovery state before it. -/
structure FrogSt where
  round : Nat
  slot : Nat
  t0 : Nat
  got : Nat
  prior : Nat
  deriving DecidableEq, Repr

/-- Lifelines of a partition: rc at which the last take began, whether one is due, the local slot taken that has not been sent, the local
slot that streams to the partner and its first-hop link (64 for none), the partner slot that the partner's stream fills, and a frog under
way. -/
structure Life where
  t0 : Nat
  due : Bool
  ready : Option Nat
  stream : Option Nat
  hop : Nat
  filling : Option Nat
  frog : Option FrogSt
  deriving DecidableEq, Repr

structure Part where
  life : Life
  /-- the save slot that holds the memories of a partition in G3 (R461) -/
  g3 : Option Nat
  inQueue : List InCmd
  inStream : Option InStream
  /-- a save of the running job has been asked for (R403) -/
  wantSave : Bool
  /-- rc at which the save under way began: deadlines of fill windows stand still from then on (R103, R404) -/
  saveT0 : Nat
  /-- rc at which its last job ended, and the rc its cores have spent in guest contexts (R459, Table 14-11) -/
  jobT0 : Nat
  guestRc : Nat
  saves : AMap SaveSlot
  caches : AMap CacheSt
  rbufs : AMap RBuf
  /-- update rounds closed since the job was dispatched; sweep updates under way (R264) -/
  closed : Nat
  sweep : Bool
  flows : List Flow
  grants : List Grant
  radds : List RaddWait
  /-- messages held for a pre-empted job (Table 10-12) -/
  heldMsgs : List Msg
  resident : Option Pricking
  guest : Option Pricking
  wins : AMap FillWin
  /-- remote signals held while the job is pre-empted, in arrival order (R146) -/
  held : List Msg
  deriving DecidableEq, Repr

/-- What the module sends (the model's own record of it). -/
inductive Out where
  /-- an MSI-X message of a port -/
  | msix (port vec : Nat)
  | can (bytes : List Byte)
  /-- a USDO response: its abort code, the size of the value and the bytes it carries -/
  | usdo (abort size : Nat) (data : List Byte)
  | msg (link : Nat) (m : Msg)
  /-- a DATA flit sent again: its SEQ, channel and BODY (R289) -/
  | data (link seq vc : Nat) (body : List Byte)
  /-- what another flit says: kind 0 returns credits (CVC + 4 CCNT), kind 1 is HELLO, 3 ECHO_RSP, 4 RETRY, 5 LOOP_REQ, 6 LOOP_ACK -/
  | flit (link kind arg : Nat)
  | tap (bits : Nat)
  deriving DecidableEq, Repr

/-- What the last access was answered: an abort code (0 for success) and data read (the model's own record). -/
structure Answer where
  abort : Nat
  data : List Byte
  deriving DecidableEq, Repr

/-- Where the module stands between power and service (R514 to R516, R521). -/
inductive Phase where
  /-- MOD_EN low -/
  | off
  /-- MOD_EN high and VIN_48 out of range -/
  | lowVin
  /-- MOD_RST_N held low -/
  | held
  /-- cast-on waits for REFCLK (R448) -/
  | waiting
  /-- cast-on halted at a step (Table 18-4) -/
  | halted (step : Nat)
  | running
  deriving DecidableEq, Repr

/-! ## Memory controllers (chapter 11) -/

/-- A channel: the credit of class 1 and the shares of classes 2 to 4 (R324), rc of the last exhausted retries, newest first (R327),
refresh intervals postponed by bank (R325), and of its swatch the control at the last START and whether it is to stop (R335, R336). -/
structure Chan where
  k1 : Nat
  cur : List Int
  fails : List Nat
  late : AMap Nat
  swatch : Nat
  stopping : Bool
  deriving DecidableEq, Repr

/-- A row's corrections in a scrub period (R330). -/
structure RowFix where
  row : Nat
  window : Nat
  n : Nat
  deriving DecidableEq, Repr

/-- What a stack keeps while powered: corrections by row, and rows softly repaired (R330, R332); rc of its last request (R334) and the refresh rate
that each die reported last, by channel + 4 x rank (4100h + s.0C). -/
structure StackRt where
  fixes : List RowFix
  soft : List Nat
  last : Nat
  rates : AMap Nat
  deriving DecidableEq, Repr

/-! ## Islands and gauges (chapters 16 and 17) -/

/-- A clock island: source (1 MA, 2 MB, 3 ring oscillator), a pending target with the rc of its request, SWERR, GAUGE_FAIL, idle state,
operating point, powered, gated, and the highest operating point a failed gauge leaves (R455 to R466). -/
structure Island where
  src : Nat
  pend : Option (Nat × Nat)
  swerr : Bool
  gaugeFail : Bool
  gst : Nat
  op : Nat
  on : Bool
  gated : Bool
  cap : Nat
  /-- source switches since cast-on -/
  switches : Nat
  /-- over the last 10 ms (R480): array beats by the rc of their tile's end, and the spans in which the clock was gated; rc at which it was gated -/
  beats : List (Nat × Nat)
  gates : List (Nat × Nat)
  gateT0 : Nat
  deriving DecidableEq, Repr

/-- A gauge sample (R479). -/
structure Sample where
  slack : Int
  op : Nat
  t : Nat
  cls : Nat
  deriving DecidableEq, Repr

/-- A gauge: the samples of 24 h, whether an H sample came since cast-on, and the margins of the last replan: a(i, k) by OP, and whether
the provisional margin applied. -/
structure Gauge where
  samples : List Sample
  hot : Bool
  margin : List Nat
  prov : Bool
  deriving DecidableEq, Repr

/-! ## CAN and host ports (chapter 15) -/

/-- A segmented USDO transfer: object, direction, latched or collected bytes, bytes moved, size, rc of its last segment. -/
structure Usdo where
  idx : Nat
  sub : Nat
  write : Bool
  data : List Byte
  moved : Nat
  total : Nat
  t0 : Nat
  deriving DecidableEq, Repr

/-- The CAN port: NMT state, listen-only, bus-off, EMCY frames that wait, rc of the last EMCY frame, active conditions, transfer, rc
at which a loop-back began. -/
structure Can where
  nmt : Nat
  listen : Bool
  busOff : Bool
  queue : List (Nat × Nat)
  lastEmcy : Option Nat
  active : List EmcyCond
  usdo : Option Usdo
  loopT0 : Nat
  deriving DecidableEq, Repr

/-- A mailbox response (Table 15-12). -/
structure MbResp where
  abort : Nat
  total : Nat
  seq : Nat
  data : List Byte
  deriving DecidableEq, Repr

/-- An error a port reports through AER (R441): an unsupported request, a received poisoned write, a poisoned completion it has sent. -/
inductive Aer where
  | unsupported
  | poisonedWrite
  | poisonedRead
  deriving DecidableEq, Repr

/-- The identification a host port shows in its configuration space (R2, R435). -/
structure PcieIds where
  vendor : Nat
  device : Nat
  revision : Nat
  classCode : Nat
  deriving DecidableEq, Repr

/-- A host port: its identification, link up, PERST asserted, unmasked vectors, pending vectors, BAR2 window base and size, mailbox DONE_SEQ, BUSY,
OVERRUN, response, read latch and partial write, rc at which a loop-back began. -/
structure Port where
  ids : PcieIds
  up : Bool
  perst : Bool
  unmasked : List Nat
  pend : List Nat
  wbase : Nat
  bar2 : Nat
  doneSeq : Nat
  busy : Bool
  overrun : Bool
  resp : MbResp
  latch : Option (Nat × Nat × List Byte)
  part : Option (Nat × Nat × List Byte)
  loopT0 : Nat
  /-- the kinds of AER error reported since cast-on, the oldest first (R441) -/
  aer : List Aer
  deriving DecidableEq, Repr

/-! ## What survives a cast-on (R526) -/

/-- A repair-map entry (Table 17-10). -/
structure RepEntry where
  level : Nat
  die : Nat
  clus : Nat
  unit : Nat
  castOn : Nat
  code : Nat
  deriving DecidableEq, Repr

/-- A stack's pending rows, OVERFLOW, and the bank resources its hard repairs have used (R330, R331). -/
structure RowStore where
  pending : List Nat
  full : Bool
  hard : List Nat
  deriving DecidableEq, Repr

/-- A firmware bank (R507). -/
structure FwBank where
  valid : Bool
  version : List Byte
  links : Nat
  schema : Nat
  lowest : Nat
  deriving DecidableEq, Repr

/-- A supervisor's flash: banks, default bank, TRIAL bank, whether the last boot was of a TRIAL bank that is not confirmed, fallback reason. -/
structure SupFlash where
  banks : List FwBank
  dflt : Nat
  trial : Option Nat
  tried : Bool
  fallback : Nat
  deriving DecidableEq, Repr

/-- The settings store of one supervisor: record sets of RWP values by schema, restore mark, and its history area: its copies of the repair map, the
rows, the fault log with its count and the cast-on count (R33, R43, R508). -/
structure Store where
  sets : AMap (AMap Nat)
  restore : Bool
  repair : List RepEntry
  rows : AMap RowStore
  log : List (List Byte)
  logged : Nat
  castOns : Nat
  deriving DecidableEq, Repr

/-- The QSPI flash of both supervisors: their settings stores and their firmware. -/
structure Flash where
  stores : AMap Store
  sups : AMap SupFlash
  deriving DecidableEq, Repr

/-- The test access port: instruction code, boundary data, whether it holds the pins (R530 to R532). -/
structure Tap where
  instr : Nat
  data : Nat
  pins : Bool
  deriving DecidableEq, Repr

structure Mach where
  flash : Flash
  tap : Tap
  chans : AMap Chan
  stackRt : AMap StackRt
  islands : AMap Island
  gauges : AMap Gauge
  /-- per die twice the highest OP it is allowed, plus 1 while its temperature holds it down; absent: OP7 (R470) -/
  dieCap : AMap Nat
  hosts : AMap Port
  can : Can
  /-- supervisors lost, the active one, running banks, and rc of the last heartbeat of each (R505) -/
  supLost : List Nat
  active : Nat
  banks : AMap Nat
  beats : AMap Nat
  /-- a replan is asked for (R483) -/
  wantReplan : Bool
  /-- the energy window in force: the rc it began at, its length in ms and the work counted when it began; mJ since cast-on (R471) -/
  winT0 : Nat
  winLen : Nat
  winWork : Nat
  energy : Nat
  /-- by kind, the rc at which a timed event last took place; by cluster, the rc of its cores' last activity (R459) -/
  timers : AMap Nat
  acts : AMap Nat
  phase : Phase
  rc : Nat
  free : Nat
  answer : Answer
  outbox : List Out
  /-- the data rate of the stacks, which 4000h.02 set at cast-on (R316) -/
  dataRate : Nat
  /-- clusters, stacks and links bound off at present (R35, R28) -/
  offClusters : List Nat
  offStacks : List Nat
  offLinks : List Nat
  /-- the route table between dies, set at cast-on (R27) -/
  dieRoutes : List DieRoute
  /-- hardware faults that wait for the recovery path: code, partition, core (R152) -/
  hwWait : List (Nat × Nat × Nat)
  objs : AMap Nat
  mem : List Host.Cell
  bad : List Nat
  cores : AMap Core
  markers : AMap Nat
  ports : AMap (List MkMsg)
  waits : AMap (List Wait)
  census : AMap Nat
  work : AMap Nat
  parts : AMap Part
  jobs : List Job
  /-- the next place in fetch order, and by client the completion records written since its binding (R399, R400) -/
  jobSeq : Nat
  cqCount : AMap Nat
  /-- media engines by number, and open streams by 4096 e + stream -/
  media : AMap MedEng
  streams : AMap MedStr
  recipes : AMap RecipeSt
  digests : AMap (Nat × Nat)
  linkRt : AMap LinkRt
  routes : AMap Nat
  mid : Nat
  localMsgs : List Msg
  deriving DecidableEq, Repr

/-- The block: its queue of waiting commands and the module. -/
structure State where
  pending : List Instr
  mach : Mach
  deriving DecidableEq, Repr

/-! ## Before cast-on, and after -/

/-- A module in which nothing has been set up: what a cast-on starts from, with what survives it (R526). -/
def Mach.blank (f : Flash) (t : Tap) (hosts : AMap Port) (free : Nat) : Mach :=
  { flash := f, tap := t, chans := [], stackRt := [], islands := [], gauges := [], dieCap := [], hosts := hosts,
    can := { nmt := 0, listen := false, busOff := false, queue := [], lastEmcy := none, active := [], usdo := none, loopT0 := 0 },
    supLost := [], active := 0, banks := [], beats := [], wantReplan := false, winT0 := 0, winLen := 1000, winWork := 0, energy := 0, timers := [], acts := [],
    phase := .off, rc := 0, free := free, answer := { abort := 0, data := [] }, outbox := [],
    dataRate := 10667, offClusters := [], offStacks := [], offLinks := [], dieRoutes := [], hwWait := [], objs := [], mem := [], bad := [], cores := [],
    markers := [], ports := [], waits := [], census := [], work := [], parts := [], jobs := [], jobSeq := 0, cqCount := [], media := [], streams := [], recipes := [],
    digests := [], linkRt := [], routes := [], mid := 0, localMsgs := [] }

/-- A settings store as it left the factory, after one cast-on. -/
def Store.init : Store := { sets := [], restore := false, repair := [], rows := [], log := [], logged := 0, castOns := 1 }

/-- The flash of a module that has cast on once, as it left the factory (R32). -/
def Flash.init : Flash := { stores := [(0, Store.init), (1, Store.init)], sups := [] }

/-- The test access port after its reset: IDCODE selected (R530). -/
def Tap.init : Tap := { instr := 1, data := 0, pins := false }

/-- The objects whose values after cast-on are not their defaults: stacks in service, links failed with NO_SIGNAL, both masters locked, POS 1,
the first replan. -/
def resetObjs : AMap Nat :=
  (List.range 48).map (fun s => (okey (0x4100 + s) 2, 1)) ++ (List.range 64).map (fun l => (okey (0x4840 + l) 2, 0x1040)) ++
  [(okey 0x2210 1, 0x0D), (okey 0x2101 1, 1), (okey 0x7020 4, 67), (okey 0x7020 5, 1)]

/-- The module after reset: a cast-on of a module from the factory, with POS 1, BOOT 00b, both ports trained and no far end on any link (R525; the
surroundings are the model's, log entry 6, DESIGN CHOICE). -/
def State.reset : State :=
  { pending := [],
    mach := { Mach.blank Flash.init Tap.init [] 0 with
      phase := .running, objs := resetObjs, dieRoutes := routeTable [] [],
      can := { nmt := 5, listen := false, busOff := false, queue := [], lastEmcy := none, active := [], usdo := none, loopT0 := 0 } } }

end Sys2Proof.Machine
end

