-- ==== Sys2Proof/Machine/Ops.lean ====
section
/-! DEFINITION. The named operations over the state: the register file, memories, cores, partitions, jobs, markers and core faults. -/

namespace Sys2Proof.Machine

/-! ## The register file -/

/-- The stored value of an object; where nothing is listed, its reset value (Tables of each chapter). -/
def Mach.obj (m : Mach) (idx sub : Nat) : Nat :=
  match m.objs.get? (okey idx sub) with
  | some v => v
  | none => objReset (okey idx sub)

def Mach.setObj (m : Mach) (idx sub v : Nat) : Mach := { m with objs := m.objs.put (okey idx sub) v }

/-- Count up, saturating at 2^64 - 1: no counter of the dictionary is said to wrap (log entry 11, DESIGN CHOICE). -/
def Mach.addObj (m : Mach) (idx sub n : Nat) : Mach := m.setObj idx sub (min (m.obj idx sub + n) (2 ^ 64 - 1))

/-- Count up a 32-bit counter. -/
def Mach.addObj32 (m : Mach) (idx sub n : Nat) : Mach := m.setObj idx sub (min (m.obj idx sub + n) (2 ^ 32 - 1))

/-- A field of an object. -/
def Mach.field (m : Mach) (idx sub hi lo : Nat) : Nat := fld (m.obj idx sub) hi lo

def Mach.setField (m : Mach) (idx sub hi lo v : Nat) : Mach := m.setObj idx sub (setFld (m.obj idx sub) hi lo v)

def Mach.setBit (m : Mach) (idx sub i : Nat) (b : Bool) : Mach := m.setField idx sub i i (b2n b)

def Mach.objBit (m : Mach) (idx sub i : Nat) : Bool := bit (m.obj idx sub) i

/-- Take a fresh free number: a value the spec names and does not state. -/
def Mach.fresh (m : Mach) : Nat × Mach := (Config.freeNat m.free 0, { m with free := m.free + 1 })

/-- Free bytes at the counter as it stands. -/
def Mach.freeBytes (m : Mach) (n : Nat) : List Byte := (List.range n).map (fun i => BitVec.ofNat 8 (Config.freeNat m.free i))

/-- A supervisor lives (R505). -/
def Mach.alive (m : Mach) (s : Nat) : Bool := !m.supLost.contains s

/-- The settings store of a supervisor (R33, R43). -/
def Flash.store (f : Flash) (s : Nat) : Store := f.stores.get Store.init s

/-- The store that is read: the active supervisor's. -/
def Mach.store (m : Mach) : Store := m.flash.store m.active

/-- Every supervisor that lives writes its own store, each from its own copy (R33). -/
def Mach.eachStore (m : Mach) (f : Nat → Store → Store) : Mach :=
  { m with flash := { m.flash with
      stores := ([0, 1].filter m.alive).foldl (fun (a : AMap Store) s => a.put s (f s (m.flash.store s))) m.flash.stores } }

/-- Answer a request with an abort code of Table 15-3, 0 for success. -/
def Mach.reply (m : Mach) (abort : Nat) : Mach := { m with answer := { abort := abort, data := [] } }

/-- The abort codes of Table 15-3. -/
def abortSpecifier : Nat := 0x05040001
def abortTimeout : Nat := 0x05040000
def abortNoObject : Nat := 0x06020000
def abortNoSub : Nat := 0x06090011
def abortWriteOnly : Nat := 0x06010001
def abortReadOnly : Nat := 0x06010002
def abortLength : Nat := 0x06070010
def abortRange : Nat := 0x06090030
def abortState : Nat := 0x08000022
def abortStore : Nat := 0x08000020

/-- Record what the module sends. -/
def Mach.emit (m : Mach) (o : Out) : Mach := { m with outbox := m.outbox ++ [o] }

/-- Set DONE or ERROR in a command status object whose bits 0 to 2 are BUSY, DONE and ERROR. -/
def Mach.cmdDone (m : Mach) (idx sub : Nat) (ok : Bool) : Mach := m.setField idx sub 2 0 (if ok then 2 else 4)

/-! ## Memory -/

def Mach.rd (m : Mach) (key n : Nat) : List Byte := Mem.read m.mem key n

def Mach.rdNat (m : Mach) (key n : Nat) : Nat := Mem.readNat m.mem key n

/-- Write bytes; whole halves become good (R535). -/
def Mach.wr (m : Mach) (key : Nat) (bs : List Byte) : Mach :=
  { m with mem := Mem.write m.mem key bs, bad := goodAfter m.bad key bs.length }

def Mach.wrNat (m : Mach) (key n v : Nat) : Mach := m.wr key (leBytes n v)

/-- Write 0 to a range; whole halves become good. -/
def Mach.wipe (m : Mach) (key n : Nat) : Mach :=
  { m with mem := Mem.zero m.mem key n, bad := goodAfter m.bad key n }

/-- Copy a range of bytes, with its uncorrectable halves. -/
def Mach.copyMem (m : Mach) (s d n : Nat) : Mach :=
  { m with mem := Mem.copy m.mem s d n, bad := badAfterCopy m.bad s d n }

/-- Mark the half that holds `key` uncorrectable. -/
def Mach.spoil (m : Mach) (key : Nat) : Mach :=
  { m with bad := if m.bad.contains (key / 32) then m.bad else m.bad ++ [key / 32] }

/-- Write a list of (key, bytes) pieces in order. -/
def Mach.wrAll (m : Mach) (ws : List (Nat × List Byte)) : Mach := ws.foldl (fun x w => x.wr w.1 w.2) m

/-- The first byte of a range of device memory that lies in a stack out of service: every access to it is uncorrectable (R333). -/
def Mach.lostAt (m : Mach) (a n : Nat) : Option Nat :=
  if n = 0 || a ≥ 2 ^ 52 then none
  else (m.offStacks.filterMap (fun s =>
    if a < (s + 1) * 2 ^ 35 ∧ s * 2 ^ 35 < a + n then some (max a (s * 2 ^ 35)) else none)).min?

/-- The lowest uncorrectable half of a read, as the key of its first byte (R535, R333). -/
def Mach.firstBad (m : Mach) (a n : Nat) : Option Nat :=
  match Machine.firstBad m.bad a n, m.lostAt a n with
  | some x, some y => some (min x y)
  | some x, none => some x
  | none, y => y

/-- The first uncorrectable half of reads, in order. -/
def Mach.badRead (m : Mach) (rs : List (Nat × Nat)) : Option Nat := rs.findSome? (fun r => m.firstBad r.1 r.2)

/-- The first uncorrectable half that writes would read-modify-write, in order (R535), or that lies in a stack out of service. -/
def Mach.badWrite (m : Mach) (ws : List (Nat × List Byte)) : Option Nat :=
  ws.findSome? (fun w => (firstBadPart m.bad w.1 w.2.length).or (m.lostAt w.1 w.2.length))

/-- The on-chip offset a key has in its memory. -/
def chipOff (key : Nat) : Nat := if key ≥ 2 ^ 54 then (key - 2 ^ 54) % 2 ^ 23 else if key ≥ 2 ^ 53 then (key - 2 ^ 53) % 2 ^ 19 else key

/-! ## Cores -/

def Ctx.init : Ctx :=
  { c := List.replicate 16 0, ix := List.replicate 16 0, pc := 0, stream := 0, ebase := 0, auto := false, ax := none,
    run := .noStream, fetch := false, carry := 0, dma := [] }

def Bank.idle : Bank := { vals := [], idx := [], held := false, mode := 0, isInt := false, kpos := 0 }

/-- Value `n` of a bank; a bank with no list holds 0 (R109). -/
def Bank.val (b : Bank) (n : Nat) : Nat := b.vals.getD n 0

/-- The array after cast-on: quiescent, banks idle, A5h in every beat byte (R109). -/
def Arr.init : Arr :=
  { queue := [], busy := false, banks := [Bank.idle, Bank.idle], drains := [], ramp := .quiet, gap := 0, ddr := 0, ctl := 0x4001,
    beats := List.replicate 8192 0xA5 }

def Core.init (slot : Nat) : Core :=
  { slot := slot, host := Ctx.init, guest := Ctx.init, inGuest := false, back := false, arr := Arr.init, fwUsed := [], tGuest := 0, tArr := 0 }

def Mach.core (m : Mach) (c : Nat) : Core := m.cores.get (Core.init (c % 16)) c

def Mach.setCore (m : Mach) (c : Nat) (x : Core) : Mach := { m with cores := m.cores.put c x, acts := m.acts.put (c / 16) m.rc }

def Core.ctx (x : Core) : Bool → Ctx
  | true => x.guest
  | false => x.host

def Core.setCtx (x : Core) (guest : Bool) (y : Ctx) : Core :=
  if guest then { x with guest := y } else { x with host := y }

def Mach.modCtx (m : Mach) (c : Nat) (guest : Bool) (f : Ctx → Ctx) : Mach :=
  m.setCore c ((m.core c).setCtx guest (f ((m.core c).ctx guest)))

def Mach.modArr (m : Mach) (c : Nat) (f : Arr → Arr) : Mach :=
  m.setCore c { m.core c with arr := f (m.core c).arr }

/-- A logical core exists unless its cluster is bound off (R34, R39). -/
def Mach.coreExists (m : Mach) (c : Nat) : Bool := c < 2048 && !m.offClusters.contains (c / 16)

/-! ## Islands -/

/-- The default source of an island (Table 16-1): 1 MA, 2 MB. -/
def islandSource (i : Nat) : Nat :=
  if i < 128 then (if i / 16 < 4 then 1 else 2)
  else if i < 136 then (if i - 128 < 4 then 1 else 2)
  else if i < 152 then (if (i - 136) / 2 < 4 then 1 else 2)
  else if i < 164 then (if i - 152 ≤ 5 then 1 else 2)
  else if i < 174 then (if [0, 1, 4, 6, 8].contains (i - 164) then 1 else 2)
  else if i = 174 || i = 176 || i = 177 then 1 else 2

/-- An island after cast-on: on its default source; clusters off, die fabrics at OP3 (R478). -/
def Island.init (i : Nat) : Island :=
  { src := islandSource i, pend := none, swerr := false, gaugeFail := false, gst := 0, op := if i < 128 then 0 else if i < 136 then 3 else 15,
    on := decide (i ≥ 128), gated := false, cap := 7, switches := 0, beats := [], gates := [], gateT0 := 0 }

def Mach.island (m : Mach) (i : Nat) : Island := m.islands.get (Island.init i) i

def Mach.setIsland (m : Mach) (i : Nat) (x : Island) : Mach := { m with islands := m.islands.put i x }

/-- The span over which a gauge looks for activity: 10 ms in rc (R480). -/
def loadSpan : Nat := 250000

/-- The clock of an island runs again; how long it was gated is kept for the load class (R458, R480). -/
def Island.ungate (x : Island) (rc : Nat) : Island :=
  if x.gated then { x with gated := false, gates := (x.gateT0, rc) :: x.gates.filter (fun g => rc ≤ g.2 + loadSpan) } else x

/-- Beats of real work that a core's array has made, kept by its cluster's island for the load class; they count at the rc of their stream's end
(R480, log entry 243, DESIGN CHOICE). -/
def Mach.countBeats (m : Mach) (core n : Nat) : Mach :=
  let x := m.island (core / 16)
  m.setIsland (core / 16) { x with beats := (m.rc, n) :: x.beats.filter (fun b => m.rc ≤ b.1 + loadSpan) }

/-! ## Partitions -/

/-- Index of the block of partition `p` (R13). -/
def pix (p : Nat) : Nat := 0x3000 + 0x40 * p

/-- Index of the objects of client `n` (R390). -/
def cix (n : Nat) : Nat := 0x3020 + 0x40 * (n / 8) + n % 8

def Life.init : Life := { t0 := 0, due := false, ready := none, stream := none, hop := 64, filling := none, frog := none }

def Part.empty : Part :=
  { life := Life.init, g3 := none, inQueue := [], inStream := none, wantSave := false, saveT0 := 0, jobT0 := 0, guestRc := 0, saves := [],
    caches := [], rbufs := [], closed := 0, sweep := false, flows := [], grants := [], radds := [], heldMsgs := [], resident := none,
    guest := none, wins := [], held := [] }

def Mach.part (m : Mach) (p : Nat) : Part := m.parts.get Part.empty p

def Mach.setPart (m : Mach) (p : Nat) (x : Part) : Mach := { m with parts := m.parts.put p x }

def Mach.modPart (m : Mach) (p : Nat) (f : Part → Part) : Mach := m.setPart p (f (m.part p))

/-- STATE of partition `p`: 0 free, 1 forming, 2 formed, 3 dissolving (Table 14-14). -/
def Mach.pstate (m : Mach) (p : Nat) : Nat := m.field (pix p) 2 4 3

def Mach.formed (m : Mach) (p : Nat) : Bool := p < 64 && m.pstate p = 2

def Mach.switching (m : Mach) (p : Nat) : Bool := m.objBit (pix p) 2 6

/-- The partition's clusters in ascending order: rank ρ binds to element ρ (R112). -/
def Mach.clusters (m : Mach) (p : Nat) : List Nat := bitsOf 128 (m.obj (pix p) 3)

def Mach.stacks (m : Mach) (p : Nat) : List Nat := bitsOf 48 (m.obj (pix p) 4)

def Mach.links (m : Mach) (p : Nat) : List Nat := bitsOf 64 (m.obj (pix p) 5)

/-- The partition that holds cluster `g` (R385). -/
def Mach.partOf (m : Mach) (g : Nat) : Option Nat :=
  (List.range 64).find? (fun p => m.pstate p ≠ 0 && bit (m.obj (pix p) 3) g)

/-- The logical cores of partition `p`, in relative order (R112). -/
def Mach.coresOf (m : Mach) (p : Nat) : List Nat :=
  (m.clusters p).flatMap (fun g => (List.range 16).map (16 * g + ·))

/-- Guest shares of a partition (R388). -/
def Mach.gl (m : Mach) (p : Nat) : Nat := m.obj (pix p) 6
def Mach.gc (m : Mach) (p : Nat) : Nat := m.obj (pix p) 7
def Mach.gmk (m : Mach) (p : Nat) : Nat := m.obj (pix p) 8

/-- GLB: where the guest local share begins (R388). -/
def Mach.glb (m : Mach) (p : Nat) : Nat :=
  524288 - 4096 * (match (m.part p).resident with | some k => k.nu | none => 0) - m.gl p

/-- The pricking of the partition, or of its guest. -/
def Part.pk (x : Part) (guest : Bool) : Option Pricking := if guest then x.guest else x.resident

/-! ## Resource records of a pricking (R114 to R118) -/

def recType (r : List Byte) : Nat := leAt r 0 1

def Pricking.recsOf (k : Pricking) (t : Nat) : List (List Byte) := k.recs.filter (fun r => recType r = t)

def Pricking.partRec (k : Pricking) : List Byte := ((k.recsOf 1).head?).getD []

/-- LOCAL and CSHARE of the PARTITION record (Table 4-4). -/
def Pricking.localBytes (k : Pricking) : Nat := leAt k.partRec 4 4
def Pricking.cshare (k : Pricking) : Nat := leAt k.partRec 8 4

def Pricking.bufRec (k : Pricking) (id : Nat) : Option (List Byte) := (k.recsOf 2).find? (fun r => leAt r 4 2 = id)
def Pricking.winRec (k : Pricking) (w : Nat) : Option (List Byte) := (k.recsOf 3).find? (fun r => leAt r 4 1 = w)
def Pricking.peerRec (k : Pricking) (n : Nat) : Option (List Byte) := (k.recsOf 4).find? (fun r => leAt r 4 1 = n)

/-- A buffer as the words address it: its KIND, size in bytes and the key of its first byte (Table 4-5, R112, R218). -/
structure BufAt where
  kind : Nat
  owner : Nat
  size : Nat
  key : Nat
  deriving DecidableEq, Repr

/-- Where buffer `id` of a pricking lies in partition `p`; a guest's KIND 1 and KIND 2 buffers lie in its shares (R408). -/
def Mach.buf (m : Mach) (p : Nat) (guest : Bool) (k : Pricking) (id : Nat) : Option BufAt :=
  (k.bufRec id).map (fun r =>
    let kind := leAt r 6 1
    let owner := leAt r 8 2
    let base := leAt r 24 8
    let key :=
      if kind = 0 then k.place.get 0 id
      else if kind = 1 then clusterKey ((m.clusters p).getD owner 0) (base + if guest then 8388608 - m.gc p else 0)
      else localKey (16 * (m.clusters p).getD (owner / 16) 0 + owner % 16) (base + if guest then m.glb p else 0)
    { kind := kind, owner := owner, size := leAt r 16 8, key := key })

/-- Key of a byte offset of a resident buffer. -/
def Mach.bufKey (m : Mach) (p id off : Nat) : Nat :=
  match (m.part p).resident with
  | some k => (match m.buf p false k id with | some b => b.key + off | none => off)
  | none => off

/-- Some supervisor lives and serves the dictionary (R427, R506). -/
def Mach.online (m : Mach) : Bool := m.supLost.length < 2

/-- A source is ready: a master that is locked or holds, or a ring oscillator (R454). -/
def Mach.srcReady (m : Mach) (src : Nat) : Bool :=
  if src = 1 then m.objBit 0x2210 1 2 || m.objBit 0x2210 1 4
  else if src = 2 then m.objBit 0x2210 1 3 || m.objBit 0x2210 1 5
  else src = 3

/-- Both masters have lost lock: every partition is held stopped (R450). -/
def Mach.noMaster (m : Mach) : Bool := !m.srcReady 1 && !m.srcReady 2

/-- A timed event of kind `k` takes place: not before `period` rc have passed since the last one, or since cast-on. -/
def Mach.every (m : Mach) (k period : Nat) (f : Mach → Mach) : Mach :=
  if m.rc < m.timers.get 0 k + period then m else f { m with timers := m.timers.put k m.rc }

/-! ## Jobs -/

def Job.live (j : Job) : Bool := match j.st with
  | .running => true
  | .stopping _ _ => true
  | _ => false

/-- The resident-slot job of partition `p` that is dispatched (R399). -/
def Mach.resJob (m : Mach) (p : Nat) : Option Job :=
  m.jobs.find? (fun j => j.part = p && (j.kind = 1 || j.kind = 2 || j.kind = 3) && j.live)

/-- The guest-slot job of partition `p` that is dispatched. -/
def Mach.guestJob (m : Mach) (p : Nat) : Option Job :=
  m.jobs.find? (fun j => j.part = p && (j.kind = 6 || j.kind = 7 || j.kind = 8) && j.live)

def Mach.jobOf (m : Mach) (p : Nat) (guest : Bool) : Option Job := if guest then m.guestJob p else m.resJob p

/-- The job still runs: it is dispatched and not stopping. -/
def Mach.jobRuns (m : Mach) (p : Nat) (guest : Bool) : Bool :=
  match m.jobOf p guest with
  | some j => j.st = .running
  | none => false

def Job.same (a b : Job) : Bool := a.client = b.client && a.seq = b.seq

def Mach.modJob (m : Mach) (j : Job) (f : Job → Job) : Mach :=
  { m with jobs := m.jobs.map (fun x => if x.same j then f x else x) }

/-- The next place in the order in which jobs end. -/
def Mach.doneSeq (m : Mach) : Nat :=
  m.jobs.foldl (fun a j => match j.st with | .done _ _ s => max a (s + 1) | _ => a) 0

/-- A job of a partition has left its slot: from now on the partition may run none (R459). -/
def Mach.jobLeft (m : Mach) (p : Nat) : Mach := m.modPart p (fun q => { q with jobT0 := m.rc })

/-- A job ends with a status and detail (Table 14-8); its record waits to be written. -/
def Mach.endJob (m : Mach) (j : Job) (status detail : Nat) : Mach :=
  (m.modJob j (fun x => { x with st := .done status detail m.doneSeq })).jobLeft j.part

/-! ## Markers -/

/-- The die or aggregator a message comes from. -/
def MkMsg.src : MkMsg → Nat
  | .signal s _ _ => s
  | .reset s _ => s
  | .wait s _ _ _ _ => s

/-- Merge a signal of source `s` to marker `k` into the newest message of that source, in a queue read from its newest end, when that message
is a signal to the same marker (R143). -/
def mergeNewest (s k n : Nat) : List MkMsg → Option (List MkMsg)
  | [] => none
  | .signal s' k' n' :: t =>
    if s' ≠ s then (mergeNewest s k n t).map (.signal s' k' n' :: ·)
    else if k' = k then some (.signal s k (min (n + n') 0xFFFFFFFF) :: t) else none
  | .reset s' k' :: t => if s' = s then none else (mergeNewest s k n t).map (.reset s' k' :: ·)
  | .wait s' k' n' c g :: t => if s' = s then none else (mergeNewest s k n t).map (.wait s' k' n' c g :: ·)

/-- Send a message to the block of a marker: a signal merges into the newest waiting message from the same die or aggregator
when that is a signal to the same marker (R143). -/
def sendTo (q : List MkMsg) (x : MkMsg) : List MkMsg :=
  match x with
  | .signal s k n => ((mergeNewest s k n q.reverse).map List.reverse).getD (q ++ [x])
  | _ => q ++ [x]

def Mach.send (m : Mach) (g : Nat) (x : MkMsg) : Mach :=
  { m with ports := m.ports.put g (sendTo (m.ports.get [] g) x) }

/-- Signal an absolute marker by `n` from die `d`. -/
def Mach.signal (m : Mach) (d mk n : Nat) : Mach := m.send (mk / 512) (.signal d mk n)

/-- The absolute marker of relative marker `r` of partition `p` (R112). -/
def Mach.absMk (m : Mach) (p r : Nat) : Nat := (m.clusters p).getD (r / 512) 0 * 512 + r % 512

/-! ## Vectors and core faults -/

/-- The configuration-space identification of a DX64 at revision B0 (Table 0-1, R2, R435). -/
def PcieIds.dx64 : PcieIds := { vendor := 0x1F4A, device := 0x6402, revision := 2, classCode := 0x120000 }

/-- A host port after cast-on: every vector masked, WBASE 0, BAR2 at its default size of 64 GiB (R446, R436). -/
def Port.init (up : Bool) : Port :=
  { ids := PcieIds.dx64, up := up, perst := !up, unmasked := [], pend := [], wbase := 0, bar2 := 2 ^ 36, doneSeq := 0, busy := false, overrun := false,
    resp := { abort := 0, total := 0, seq := 0, data := [] }, latch := none, part := none, loopT0 := 0, aer := [] }

def Mach.host (m : Mach) (x : Nat) : Port := m.hosts.get (Port.init true) x

def Mach.setHost (m : Mach) (x : Nat) (p : Port) : Mach := { m with hosts := m.hosts.put x p }

/-- Raise an MSI-X vector at both ports (R394, R439): each port that has the vector unmasked sends it, else it pends there. -/
def Mach.raiseAt (m : Mach) (port vec : Nat) : Mach :=
  let x := m.host port
  if !x.up then m
  else if x.unmasked.contains vec then m.emit (.msix port vec)
  else m.setHost port { x with pend := if x.pend.contains vec then x.pend else x.pend ++ [vec] }

def Mach.raise (m : Mach) (vec : Nat) : Mach := (m.raiseAt 0 vec).raiseAt 1 vec

/-- A health event: the health vector is raised and the event counted (R443, 200Ah). -/
def Mach.health (m : Mach) : Mach := (m.addObj32 0x200A 0 1).raise 640

/-- Drop the waits of a core's context from every marker block. -/
def Mach.dropWaits (m : Mach) (core : Nat) (guest : Bool) : Mach :=
  { m with
    waits := m.waits.map (fun e => (e.1, e.2.filter (fun w => !(w.core = core && w.guest == guest)))),
    ports := m.ports.map (fun e => (e.1, e.2.filter (fun x => match x with
      | .wait _ _ _ c g => !(c = core && g == guest)
      | _ => true))) }

/-- The array stops: no further beat, the tile in flight and held tiles are discarded, banks idle, drains under way go on (R107). A stream that
ends so begins a gap, which takes the array control `ctl` in force (R108); a ramp-up whose tile is gone ramps down again from the columns it
has reached (log entry 222, DESIGN CHOICE). -/
def Arr.stop (a : Arr) (ctl : Nat) : Arr :=
  { a with queue := [], busy := false, gap := if a.busy then 0 else a.gap, ddr := if a.busy then 0 else a.ddr,
           ctl := if a.busy then ctl else a.ctl,
           ramp := (if a.busy then .hold else match a.ramp with
             | .up c => .down c
             | r => r),
           banks := (List.range 2).map (fun i =>
             if a.drains.any (fun d => d.bank = i) then { a.banks.getD i Bank.idle with held := false } else Bank.idle) }

/-- A context stops issuing words (R152). -/
def Ctx.stop (x : Ctx) : Ctx :=
  { x with fetch := false,
           run := (match x.run with
             | .noStream => .noStream
             | .halted => .halted
             | _ => .stopped) }

/-- A context stops with its job in rc `rc` (R152): one that could issue in that rc may still fault in the same ic (R153). -/
def Ctx.cut (x : Ctx) (rc : Nat) : Ctx :=
  { x.stop with run := if x.run = .running && !x.fetch then .cut rc else x.stop.run }

/-- A context issues no further word (Table 4-10, R113, R152). -/
def RunSt.over : RunSt → Bool
  | .noStream => true
  | .halted => true
  | .stopped => true
  | .cut _ => true
  | _ => false

/-- Array control of the partition of a core: 6180h + p.01 (R108). -/
def Mach.arrCtl (m : Mach) (core : Nat) : Nat := m.obj (0x6180 + (m.partOf (core / 16)).getD 0) 1

/-- Every core of partition `p` stops its host or guest context, and its array with it (R152, R412). -/
def Mach.stopCores (m : Mach) (p : Nat) (guest : Bool) : Mach :=
  (m.coresOf p).foldl (fun x c =>
    let k := x.core c
    let x := x.dropWaits c guest
    let arr := if k.arr.queue.any (fun o => o.guest == guest) || k.inGuest == guest then k.arr.stop (x.obj (0x6180 + p) 1) else k.arr
    x.setCore c { (k.setCtx guest ((k.ctx guest).cut x.rc)) with arr := arr }) m

/-- The hardware faults (R152). -/
def hwCode (code : Nat) : Bool := code = 0x11 || code = 0x32 || code = 0x45 || code = 0x46

/-- The 32-byte fault record (Table 4-27). -/
def faultRecord (m : Mach) (core code opc pc tag genr info : Nat) : List Byte :=
  let hw := hwCode code
  leBytes 1 code ++ leBytes 1 opc ++ leBytes 2 core ++ leBytes 4 pc ++ leBytes 2 tag ++ leBytes 1 genr ++
  leBytes 1 (b2n hw) ++ leBytes 1 (if hw then core / 256 else 0) ++ leBytes 1 (if hw then core / 16 % 16 else 0) ++
  leBytes 1 (if hw then (m.core core).slot else 0) ++ leBytes 1 0 ++ leBytes 8 info ++ leBytes 8 m.rc

/-! ### Reduction-buffer records (Tables 9-1 and 9-2) -/

def rbMode (r : List Byte) : Nat := leAt r 5 1
def rbId (r : List Byte) : Nat := leAt r 6 2
def rbHome (r : List Byte) : Nat := leAt r 8 1
def rbNcon (r : List Byte) : Nat := leAt r 9 1
def rbNtgt (r : List Byte) : Nat := leAt r 10 1
def rbSlow (r : List Byte) : Nat := leAt r 11 1
def rbSlots (r : List Byte) : Nat := leAt r 12 2
def rbTiles (r : List Byte) : Nat := leAt r 14 2
def rbBase (r : List Byte) : Nat := leAt r 16 4
/-- Contributor `c`: its 16 bytes. -/
def rbCon (r : List Byte) (c : Nat) : List Byte := (r.drop (48 + 16 * c)).take 16
/-- Forward target `t`: its 8 bytes. -/
def rbTgt (r : List Byte) (t : Nat) : List Byte := (r.drop (48 + 16 * rbNcon r + 8 * t)).take 8
def conKind (c : List Byte) : Nat := leAt c 0 1
def conPeer (c : List Byte) : Nat := leAt c 1 1
def conSrc (c : List Byte) : Nat := leAt c 2 2
def conFirst (c : List Byte) : Nat := leAt c 4 2
def conLast (c : List Byte) : Nat := leAt c 6 2
def conN (c : List Byte) : Nat := leAt c 8 1
def conCred (c : List Byte) : Nat := leAt c 9 1
def conSpan (c : List Byte) : Nat := conLast c - conFirst c + 1

/-- Credits of the first `n` contributors. -/
def rbCreds (r : List Byte) (n : Nat) : Nat := (List.range n).foldl (fun a c => a + conCred (rbCon r c)) 0

/-- Where the state areas and the tile table of a region begin, and its bytes (R256). -/
def rbAreaOff (r : List Byte) : Nat := 16384 * (rbSlots r + rbCreds r (rbNcon r))
def rbTableOff (r : List Byte) : Nat := rbAreaOff r + 49152 * rbSlow r
def rbBytes (r : List Byte) : Nat := rbTableOff r + 64 * cdiv (rbTiles r) 2

/-- The reduction-buffer records of a pricking, in ascending ID. -/
def Pricking.rbufs (k : Pricking) : List (List Byte) :=
  inOrder (fun a b => rbId a ≤ rbId b) ((k.recsOf 5).filter (fun r => leAt r 4 1 = 1))

def Pricking.rbuf (k : Pricking) (id : Nat) : Option (List Byte) := k.rbufs.find? (fun r => rbId r = id)

/-- The reduction-buffer regions in the share of a rank, as byte offset and length (R256). -/
def Pricking.rbRegions (k : Pricking) (rank : Nat) : List (Nat × Nat) :=
  (k.rbufs.filter (fun r => rbHome r = rank)).map (fun r => (rbBase r, rbBytes r))

/-- The UPDATE buffers of a pricking. -/
def Pricking.updates (k : Pricking) : List (List Byte) := k.rbufs.filter (fun r => rbMode r = 2)

/-- Reduction buffers are inside an update round: some contribution of the round after `closed` has been sent to an UPDATE buffer (Table
9-8, Table 9-11; the model's reading, log entry 38, DEDUCED). -/
def roundOpen (k : Pricking) (rbufs : AMap RBuf) (closed : Nat) : Bool :=
  k.updates.any (fun r =>
    match rbufs.get? (rbId r) with
    | none => false
    | some b => b.sent.zipIdx.any (fun e =>
        let c := rbCon r e.2
        closed * conN c * conSpan c < e.1))

/-- The partition is inside an update round. -/
def Mach.inRound (m : Mach) (p : Nat) : Bool :=
  match (m.part p).resident with
  | none => false
  | some k => roundOpen k (m.part p).rbufs (m.part p).closed

/-- A resident job stops: no further tile is updated, and an open round stays open (Table 9-8); what its cores have outstanding goes on (R152). -/
def Mach.stopRounds (m : Mach) (p : Nat) : Mach :=
  let m' := if m.inRound p then m.setBit (0x6480 + p) 0xF 8 true else m
  m'.modPart p (fun x => { x with rbufs := [], sweep := false })

/-- A job that runs stops with its cores, and will complete with a status and detail (R152, R402). -/
def Mach.stopJob (m : Mach) (j : Job) (guest : Bool) (status detail : Nat) : Mach :=
  let m := (m.modJob j (fun x => { x with st := .stopping status detail })).stopCores j.part guest
  if guest then m else m.stopRounds j.part

/-- The object that keeps the fault record of a partition's resident or guest job (R153, R412). -/
def faultIdx (p : Nat) (guest : Bool) : Nat × Nat := if guest then (pix p, 0x18) else (0x6280 + p, 1)

/-- A later fault of the same rc whose core is lower than the recorded one: it takes the record's place (R153). -/
def Mach.faultTie (m : Mach) (p : Nat) (guest : Bool) (rec' : List Byte) : Bool :=
  let old := leBytes 32 (m.obj (faultIdx p guest).1 (faultIdx p guest).2)
  leAt old 24 8 = m.rc && leAt rec' 2 2 < leAt old 2 2

/-- The first fault of a dispatched job is recorded and raises the fault vector; it stops the job where the job still runs; later ones are
counted, and one of a lower core in the same rc takes the record (R152, R153, R412). -/
def Mach.jobFault (m : Mach) (p : Nat) (guest : Bool) (code : Nat) (record : Job → List Byte) : Mach :=
  match m.jobOf p guest with
  | none => m
  | some j =>
    let runs := j.st = .running
    let first := runs || !j.faulted
    let i := faultIdx p guest
    let m := if guest then m else m.addObj (0x6280 + p) 3 1
    if first then
      let m := (m.setObj i.1 i.2 (leNat (record j))).modJob j (fun x => { x with faulted := true })
      (if runs then m.stopJob j guest 1 code else m).raise (512 + p)
    else
      let m := if guest then m else m.addObj32 (0x6280 + p) 2 1
      if m.faultTie p guest (record j) then m.setObj i.1 i.2 (leNat (record j)) else m

/-- A core's context faults (R151 to R153, R412): it stops with its array at once; a hardware fault also enters the recovery path. -/
def Mach.fault (m : Mach) (p core : Nat) (guest : Bool) (code opc pc info : Nat) : Mach :=
  let k := m.core core
  let m := m.setCore core { (k.setCtx guest (k.ctx guest).stop) with arr := k.arr.stop (m.arrCtl core) }
  let m := m.dropWaits core guest
  let m := if hwCode code then { m with hwWait := m.hwWait ++ [(code, p, core)] } else m
  m.jobFault p guest code (fun j => faultRecord m core code opc pc j.tag j.genr info)

/-- Every stream of the job has halted and every operation it issued is complete (Table 4-10, R113). -/
def Mach.streamsDone (m : Mach) (p : Nat) (guest : Bool) : Bool :=
  (m.coresOf p).all (fun c =>
    let k := m.core c
    let x := k.ctx guest
    x.run.over && x.dma.isEmpty &&
    k.arr.drains.all (fun d => d.op.guest != guest) && k.arr.queue.all (fun o => o.guest != guest))

end Sys2Proof.Machine
end

