-- ==== Sys2Proof/Machine/Ecc.lean ====
section
/-! DEFINITION. The stacks, their address map (R318), the requests that reach them (R334), and what a memory controller reports of an uncorrectable
read: the error record (Table 11-10) and the row candidates (R330). -/

namespace Sys2Proof.Machine

/-! ## Stacks -/

/-- STATE of stack `s` (Table 11-9). -/
def Mach.stackState (m : Mach) (s : Nat) : Nat := m.field (0x4100 + s) 2 3 0

def Mach.setStackState (m : Mach) (s st : Nat) : Mach := m.setField (0x4100 + s) 2 3 0 st

/-- A stack is in service: in service proper or in self-refresh, which survives with its contents (Table 11-9, R334, log entry 125, DEDUCED). -/
def Mach.inService (m : Mach) (s : Nat) : Bool := s < 48 && (m.stackState s = 1 || m.stackState s = 2)

def StackRt.init : StackRt := { fixes := [], soft := [], last := 0, rates := [] }

def Mach.srt (m : Mach) (s : Nat) : StackRt := m.stackRt.get StackRt.init s

def Mach.setSrt (m : Mach) (s : Nat) (x : StackRt) : Mach := { m with stackRt := m.stackRt.put s x }

/-- A request reaches a stack: its idle time starts anew, and from self-refresh it goes back into service (R334). -/
def Mach.touchStack (m : Mach) (s : Nat) : Mach :=
  let m := m.setSrt s { m.srt s with last := m.rc }
  if m.stackState s = 2 then m.setStackState s 1 else m

/-- Requests to ranges, as key and bytes: those of device memory reach its stacks. -/
def Mach.touch (m : Mach) (rs : List (Nat × Nat)) : Mach :=
  (((rs.filter (fun r => r.2 ≠ 0 && r.1 < 48 * 2 ^ 35)).map (fun r => r.1 / 2 ^ 35)).dedup).foldl Mach.touchStack m

/-- Write bytes, as a request to the stack they lie in where they lie in device memory. -/
def Mach.put (m : Mach) (key : Nat) (bs : List Byte) : Mach := (m.touch [(key, bs.length)]).wr key bs

/-! ## Addresses (R318) -/

/-- Where a device address lies: stack, channel, page, unit, bank group, bank, rank, row. -/
structure DramAt where
  stack : Nat
  chan : Nat
  page : Nat
  unit : Nat
  bg : Nat
  bank : Nat
  rank : Nat
  row : Nat
  deriving DecidableEq, Repr

def dramAt (addr : Nat) : DramAt :=
  let o := addr % 2 ^ 35
  let c := o / 1024 * 256 + o % 256
  let p := c / 1920
  { stack := addr / 2 ^ 35, chan := o / 256 % 4, page := p, unit := c % 1920 / 64, bg := p % 4, bank := p / 4 % 4, rank := p / 16 % 2,
    row := p / 32 }

/-- Device address of unit `u` of page `p` of a channel. -/
def unitAddr (s ch p u : Nat) : Nat :=
  let c := p * 1920 + 64 * u
  s * 2 ^ 35 + c / 256 * 1024 + ch * 256 + c % 256

/-- Number of the bank resource a row belongs to: channel, rank and bank (R331). -/
def DramAt.res (d : DramAt) : Nat := d.chan + 4 * (d.bg * 4 + d.bank) + 64 * d.rank

/-- Number of a row of a stack: its bank resource and its row. -/
def DramAt.rowId (d : DramAt) : Nat := d.row * 128 + d.res

/-- The device addresses of the 30 units of a row, by its number. -/
def rowUnits (s row : Nat) : List Nat :=
  let res := row % 128
  let bank := res / 4 % 16
  let page := row / 128 * 32 + res / 64 * 16 + bank % 4 * 4 + bank / 4
  (List.range 30).map (unitAddr s (res % 4) page)

/-! ## Uncorrectable reads (R328, R330) -/

def RowStore.init : RowStore := { pending := [], full := false, hard := [] }

def Store.rowsOf (f : Store) (s : Nat) : RowStore := f.rows.get RowStore.init s

/-- The rows of a stack, written into each store (R330, R331). -/
def Mach.setRows (m : Mach) (s : Nat) (r : RowStore) : Mach := m.eachStore (fun _ x => { x with rows := x.rows.put s r })

/-- A row becomes a repair candidate (R330). -/
def Mach.candidate (m : Mach) (s row : Nat) : Mach :=
  let r := m.store.rowsOf s
  if r.pending.contains row then m
  else if r.pending.length ≥ 64 then m.setRows s { r with full := true }
  else m.setRows s { r with pending := r.pending ++ [row] }

/-- The halves of the units of a range that are uncorrectable, one for each unit: the lowest (R328). -/
def Mach.badUnits (m : Mach) (key n : Nat) : List Nat :=
  (List.range (if n = 0 then 0 else (key + n - 1) / 64 - key / 64 + 1)).filterMap (fun i =>
    let lo := max key ((key / 64 + i) * 64)
    m.firstBad lo (min (key + n) ((key / 64 + i + 1) * 64) - lo))

/-- The bits of HALF: the half of the access, and with `both` every uncorrectable half of its unit. -/
def Mach.halfBits (m : Mach) (addr : Nat) (both : Bool) : Nat :=
  let u := addr / 64 * 2
  (if addr % 64 < 32 || (both && m.bad.contains u) then 1 else 0) + (if addr % 64 ≥ 32 || (both && m.bad.contains (u + 1)) then 2 else 0)

/-- The error record of a stack (Table 11-10). -/
def Mach.errorRecord (m : Mach) (kind addr cls : Nat) : Mach :=
  let d := dramAt addr
  m.setObj (0x4100 + d.stack) 0xB (leNat (leBytes 1 kind ++ leBytes 1 (d.chan + 4 * d.rank) ++ leBytes 1 (4 * d.bg + d.bank) ++
    leBytes 1 (m.halfBits addr (kind = 1 || kind = 3 || kind = 5)) ++ leBytes 4 d.row ++ leBytes 8 (addr / 64 * 64) ++ leBytes 8 m.rc ++ leBytes 1 cls ++
    zeros 7))

/-- An uncorrectable half: counted, recorded, a health event, its row a candidate (R328, R330). -/
def Mach.eccLost (m : Mach) (kind addr cls : Nat) : Mach :=
  let d := dramAt addr
  (((m.spoil addr).addObj (0x4100 + d.stack) 4 1).errorRecord kind addr cls).health.candidate d.stack d.rowId

/-- An uncorrectable read of the byte with key `key` in class `cls`, as its controller reports it: in device memory of a stack in service
it is counted and recorded and its row becomes a candidate (R328, R330); on-chip memory has no controller. -/
def Mach.lostRead (m : Mach) (cls key : Nat) : Mach :=
  if key < 2 ^ 52 && !m.offStacks.contains (key / 2 ^ 35) then m.eccLost 3 (key / 32 * 32) cls else m

/-- The same for a read that may have met none. -/
def Mach.lostAny (m : Mach) (cls : Nat) (key : Option Nat) : Mach :=
  match key with
  | some k => m.lostRead cls k
  | none => m

end Sys2Proof.Machine
end

