-- ==== Sys2Proof/Machine/Float.lean ====
section
/-! DEFINITION. Number formats (R49 to R58), the stochastic rounding generator (R59), and exact arithmetic on the values the
formats hold. A finite value is (-1)^neg x man x 2^exp, exact. -/

namespace Sys2Proof.Machine

/-- The value of an element: NaN, an infinity, or a finite number kept exactly. -/
inductive Val where
  | nan
  | inf (neg : Bool)
  | fin (neg : Bool) (man : Nat) (exp : Int)
  deriving DecidableEq, Repr

/-- Zero with a sign. -/
def Val.zero (neg : Bool) : Val := .fin neg 0 0

/-- The exact value of an integer; 0 is +0. -/
def Val.ofInt (i : Int) : Val := .fin (i < 0) i.natAbs 0

/-- Layout of a floating format (Table 2-2): exponent bits, mantissa bits, bias, whether it has infinities, whether its top
exponent holds NaN only in its last code (E4M3), whether it has NaN. -/
structure FFmt where
  ew : Nat
  mw : Nat
  bias : Nat
  hasInf : Bool
  hasNan : Bool
  deriving DecidableEq, Repr

def fFP32 : FFmt := ⟨8, 23, 127, true, true⟩
def fFP16 : FFmt := ⟨5, 10, 15, true, true⟩
def fBF16 : FFmt := ⟨8, 7, 127, true, true⟩
def fE4M3 : FFmt := ⟨4, 3, 7, false, true⟩
def fE5M2 : FFmt := ⟨5, 2, 15, true, true⟩
def fE3M2 : FFmt := ⟨3, 2, 3, false, false⟩
def fE2M3 : FFmt := ⟨2, 3, 1, false, false⟩
def fE2M1 : FFmt := ⟨2, 1, 1, false, false⟩
/-- binary64, the format of the voxel grid's arithmetic (R355). -/
def fFP64 : FFmt := ⟨11, 52, 1023, true, true⟩

/-- The elements of a format code: a floating layout, an integer of a width and sign, or one bit. -/
inductive Elem where
  | flt (f : FFmt)
  | int (bits : Nat) (signed : Bool)
  deriving DecidableEq, Repr

/-- The element type of a format code (Table 2-1); codes 10h to 1Fh are reserved (R49) and read as FP32 where no check has
refused them before. -/
def elemOf : Nat → Elem
  | 0x00 => .flt fFP32
  | 0x01 => .flt fFP16
  | 0x02 => .flt fBF16
  | 0x03 => .flt fE4M3
  | 0x04 => .flt fE5M2
  | 0x05 => .flt fE2M1
  | 0x06 => .flt fE4M3
  | 0x07 => .flt fE5M2
  | 0x08 => .flt fE3M2
  | 0x09 => .flt fE2M3
  | 0x0A => .flt fE2M1
  | 0x0B => .int 8 true
  | 0x0C => .int 8 false
  | 0x0D => .int 4 true
  | 0x0E => .int 1 false
  | 0x0F => .int 32 true
  | _ => .flt fFP32

/-- The MX codes: elements with one E8M0 scale byte a block of 32 (R54). -/
def isMx (c : Nat) : Bool := 6 ≤ c && c ≤ 10

/-- Element width in bits (Table 7-1). -/
def widthOf : Nat → Nat
  | 0x00 => 32
  | 0x01 => 16
  | 0x02 => 16
  | 0x03 => 8
  | 0x04 => 8
  | 0x05 => 4
  | 0x06 => 8
  | 0x07 => 8
  | 0x08 => 6
  | 0x09 => 6
  | 0x0A => 4
  | 0x0B => 8
  | 0x0C => 8
  | 0x0D => 4
  | 0x0E => 1
  | 0x0F => 32
  | _ => 32

/-- The unbiased exponent of the largest normal number of an MX element format (R55). -/
def emaxOf : Nat → Int
  | 0x06 => 8
  | 0x07 => 15
  | 0x08 => 4
  | _ => 2

/-- The value of an encoding of a floating format (R50, Table 2-2). -/
def decodeF (f : FFmt) (w : Nat) : Val :=
  let neg := bit w (f.ew + f.mw)
  let e := fld w (f.ew + f.mw - 1) f.mw
  let m := w % 2 ^ f.mw
  let top := 2 ^ f.ew - 1
  if e = top && f.hasInf then (if m = 0 then .inf neg else .nan)
  else if e = top && f.hasNan && m = 2 ^ f.mw - 1 then .nan
  else if e = 0 then .fin neg m (1 - (f.bias : Int) - f.mw)
  else .fin neg (2 ^ f.mw + m) ((e : Int) - f.bias - f.mw)

/-- The value of an element's bits in a format code, without any block scale. -/
def decodeE (c w : Nat) : Val :=
  match elemOf c with
  | .flt f => decodeF f w
  | .int n true => .ofInt (toSigned n w)
  | .int n false => .ofInt ((w % 2 ^ n : Nat) : Int)

/-- Multiply a value by 2^k, exactly. -/
def Val.scale (k : Int) : Val → Val
  | .fin n m e => .fin n m (e + k)
  | v => v

/-- The value of an element in a block with scale byte `s` (R54): FFh makes every element NaN. -/
def scaled (s : Nat) (v : Val) : Val := if s = 255 then .nan else v.scale ((s : Int) - 127)

def Val.isNan : Val → Bool
  | .nan => true
  | _ => false

def Val.isInf : Val → Bool
  | .inf _ => true
  | _ => false

/-- Finite and zero. -/
def Val.isZero : Val → Bool
  | .fin _ m _ => m = 0
  | _ => false

def Val.neg? : Val → Bool
  | .nan => false
  | .inf n => n
  | .fin n _ _ => n

/-- Sign change; a NaN stays. -/
def Val.negate : Val → Val
  | .nan => .nan
  | .inf n => .inf (!n)
  | .fin n m e => .fin (!n) m e

def Val.abs : Val → Val
  | .nan => .nan
  | .inf _ => .inf false
  | .fin _ m e => .fin false m e

/-- The signed mantissa of a finite value written with exponent `e`, at most its own. -/
def Val.intAt (v : Val) (e : Int) : Int :=
  match v with
  | .fin n m x => (if n then -1 else 1) * ((m * 2 ^ (x - e).toNat : Nat) : Int)
  | _ => 0

def Val.expo : Val → Int
  | .fin _ _ e => e
  | _ => 0

/-- Order of two finite values: -1, 0 or 1; +0 equals -0. -/
def cmpFin (a b : Val) : Int :=
  let e := min a.expo b.expo
  let d := a.intAt e - b.intAt e
  if d < 0 then -1 else if d = 0 then 0 else 1

/-- Order of two values that are not NaN: -1, 0 or 1; +0 equals -0. -/
def cmpVal (a b : Val) : Int :=
  match a, b with
  | .inf x, .inf y => if x = y then 0 else if x then -1 else 1
  | .inf x, _ => if x then -1 else 1
  | _, .inf y => if y then 1 else -1
  | _, _ => cmpFin a b

/-- Exact sum with the sign of zero of IEEE 754 under RNE; an infinity meeting its opposite gives NaN. -/
def addV (a b : Val) : Val :=
  match a, b with
  | .nan, _ => .nan
  | _, .nan => .nan
  | .inf x, .inf y => if x = y then .inf x else .nan
  | .inf x, _ => .inf x
  | _, .inf y => .inf y
  | .fin n m e, .fin n' m' e' =>
    if m = 0 && m' = 0 then .fin (n && n') 0 0
    else
      let x := min e e'
      let d := (Val.fin n m e).intAt x + (Val.fin n' m' e').intAt x
      .fin (d < 0) d.natAbs x

/-- Exact product; 0 times an infinity gives NaN. -/
def mulV (a b : Val) : Val :=
  match a, b with
  | .nan, _ => .nan
  | _, .nan => .nan
  | .inf x, .inf y => .inf (x != y)
  | .inf x, .fin n m _ => if m = 0 then .nan else .inf (x != n)
  | .fin n m _, .inf y => if m = 0 then .nan else .inf (n != y)
  | .fin n m e, .fin n' m' e' => .fin (n != n') (m * m') (e + e')

/-- The rule of VOP MAX (R129): NaN when either is NaN, +0 above -0. -/
def maxV (a b : Val) : Val :=
  if a.isNan || b.isNan then .nan
  else
    let c := cmpVal a b
    if c = 0 then (if a.neg? then b else a) else if c < 0 then b else a

/-- The rule of VOP MIN (R129). -/
def minV (a b : Val) : Val :=
  if a.isNan || b.isNan then .nan
  else
    let c := cmpVal a b
    if c = 0 then (if a.neg? then a else b) else if c < 0 then a else b

/-- Number of bits of a number. -/
def bitLen (n : Nat) : Nat := if n = 0 then 0 else Nat.log2 n + 1

/-- The exponent of the last place of format `f` at magnitude m x 2^e: the binade's spacing, never below the subnormal one (R57). -/
def ulpExp (f : FFmt) (m : Nat) (e : Int) : Int :=
  max (e + bitLen m - 1 - f.mw) (1 - (f.bias : Int) - f.mw)

/-- Rounding of the magnitude m x 2^e to a whole number of 2^q: the floor and the discarded fraction as numerator over 2^d. -/
def splitAt (m : Nat) (e q : Int) : Nat × Nat × Nat :=
  if q ≤ e then (m * 2 ^ (e - q).toNat, 0, 0)
  else
    let d := (q - e).toNat
    (m / 2 ^ d, m % 2 ^ d, d)

/-- How a word rounds (R56): 0 RNE, 1 toward zero, 2 stochastic with the u32 word of R59. -/
structure Rnd where
  mode : Nat
  sat : Bool
  u : Nat
  deriving DecidableEq, Repr

def rne : Rnd := ⟨0, false, 0⟩

/-- Whether the floor `t` with fraction n / 2^d goes up (R57). -/
def roundsUp (r : Rnd) (t n d : Nat) : Bool :=
  if r.mode = 0 then (2 * n > 2 ^ d && d ≠ 0) || (2 * n = 2 ^ d && d ≠ 0 && t % 2 = 1)
  else if r.mode = 1 then false
  else r.u < n * 2 ^ 32 / 2 ^ d

/-- The bits of the magnitude t x 2^q in format `f`: t x 2^q is representable. -/
def encodeMag (f : FFmt) (t : Nat) (q : Int) : Nat :=
  if t = 0 then 0
  else
    let qmin : Int := 1 - (f.bias : Int) - f.mw
    let l := bitLen t
    if l ≤ f.mw && q = qmin then t
    else
      let sh : Int := (l : Int) - 1 - f.mw
      let man := if sh ≥ 0 then t / 2 ^ sh.toNat else t * 2 ^ (-sh).toNat
      let ex : Int := q + sh + f.mw + f.bias
      ex.toNat * 2 ^ f.mw + (man - 2 ^ f.mw)

/-- The magnitude bits of the largest finite number of `f`. -/
def maxFinBits (f : FFmt) : Nat :=
  if f.hasInf then (2 ^ f.ew - 1) * 2 ^ f.mw - 1
  else if f.hasNan then 2 ^ (f.ew + f.mw) - 2
  else 2 ^ (f.ew + f.mw) - 1

/-- The bits of the canonical NaN of `f` (Table 2-3); a format without NaN has 0 there (Table 2-4). -/
def nanBits (f : FFmt) : Nat :=
  if f.hasInf then (2 ^ f.ew - 1) * 2 ^ f.mw + 2 ^ (f.mw - 1)
  else if f.hasNan then 2 ^ (f.ew + f.mw) - 1
  else 0

def infBits (f : FFmt) : Nat := (2 ^ f.ew - 1) * 2 ^ f.mw

/-- Bits of the arithmetic flags (Table 2-8). -/
def flUnderflow : Nat := 1
def flOverflow : Nat := 2
def flInvalid : Nat := 4
def flIntSat : Nat := 8
def flCensusSat : Nat := 16

/-- A result's bits with the arithmetic flags it raises. -/
abbrev Res := Nat × Nat

/-- Conversion into a floating format (R57, R58). -/
def convertF (f : FFmt) (r : Rnd) (v : Val) : Res :=
  let sgn (n : Bool) : Nat := b2n n * 2 ^ (f.ew + f.mw)
  match v with
  | .nan => if f.hasNan then (nanBits f, 0) else (0, flInvalid)
  | .inf n =>
    if f.hasInf then (sgn n + infBits f, 0)
    else if f.hasNan && !r.sat then (nanBits f, flOverflow)
    else (sgn n + maxFinBits f, flOverflow)
  | .fin n m e =>
    if m = 0 then (sgn n, 0)
    else
      let q := ulpExp f m e
      let (t, num, d) := splitAt m e q
      let t' := if roundsUp r t num d then t + 1 else t
      let big := t' ≠ 0 && encodeMag f t' q > maxFinBits f
      if big then
        if r.mode = 1 || r.sat then (sgn n + maxFinBits f, flOverflow)
        else if f.hasInf then (sgn n + infBits f, flOverflow)
        else if f.hasNan then (nanBits f, flOverflow)
        else (sgn n + maxFinBits f, flOverflow)
      else (sgn n + encodeMag f t' q, if t' = 0 then flUnderflow else 0)

/-- The largest and smallest numbers of an integer format. -/
def intMax (bits : Nat) (signed : Bool) : Int := if signed then 2 ^ (bits - 1) - 1 else 2 ^ bits - 1
def intMin (bits : Nat) (signed : Bool) : Int := if signed then -(2 ^ (bits - 1)) else 0

/-- Conversion into an integer format (Table 2-4): round with a spacing of 1, then clamp. -/
def convertI (bits : Nat) (signed : Bool) (r : Rnd) (v : Val) : Res :=
  match v with
  | .nan => (0, flInvalid)
  | .inf n => (ofSigned bits (if n then intMin bits signed else intMax bits signed), flOverflow)
  | .fin n m e =>
    let (t, num, d) := splitAt m e 0
    let t' : Nat := if roundsUp r t num d then t + 1 else t
    let i : Int := if n then -(t' : Int) else t'
    if i > intMax bits signed then (ofSigned bits (intMax bits signed), flOverflow)
    else if i < intMin bits signed then
      (ofSigned bits (intMin bits signed), if intMin bits signed = 0 && m ≠ 0 then flOverflow ||| flUnderflow else flOverflow)
    else (ofSigned bits i, if m ≠ 0 && i = 0 then flUnderflow else 0)

/-- Conversion into the element type of a format code, without block scaling. -/
def convertE (c : Nat) (r : Rnd) (v : Val) : Res :=
  match elemOf c with
  | .flt f => convertF f r v
  | .int n s => convertI n s r v

/-- A value rounded once to FP32 by RNE, as its bits (no flag: R64, R129). -/
def rne32 (v : Val) : Nat := (convertF fFP32 rne v).1

/-- The value of FP32 bits. -/
def val32 (w : Nat) : Val := decodeF fFP32 w

/-- A value rounded once to FP32 by RNE, as a value. -/
def round32 (v : Val) : Val := val32 (rne32 v)

/-- A value rounded once to binary64 by RNE, as a value. -/
def round64 (v : Val) : Val := decodeF fFP64 (convertF fFP64 rne v).1

/-- floor(log2) of a finite non-zero magnitude. -/
def Val.logFloor : Val → Int
  | .fin _ m e => e + bitLen m - 1
  | _ => 0

/-- The scale exponent X of a block: floor(log2 amax) - emax, between -127 and 127 (R55). -/
def blockX (c : Nat) (amax : Val) : Int := max (-127) (min 127 (amax.logFloor - emaxOf c))

/-- The largest magnitude among the finite values of a block. -/
def amaxOf (vs : List Val) : Val :=
  vs.foldl (fun a v => match v with
    | .fin _ _ _ => if cmpFin a v.abs < 0 then v.abs else a
    | _ => a) (.zero false)

/-- A block converted to an MX format (R55): its scale byte, its elements' bits, the flags. `rs` gives each element's rounding. -/
def convertMx (c : Nat) (rs : List Rnd) (vs : List Val) : Nat × List Nat × Nat :=
  if vs.any Val.isNan || vs.any Val.isInf then
    (255, vs.map (fun _ => 0), if vs.any Val.isInf then flOverflow else 0)
  else
    let amax := amaxOf vs
    if amax.isZero then (0, vs.map (fun v => (convertE c rne v).1), 0)
    else
      let x := blockX c amax
      let es := (vs.zip rs).map (fun p => convertE c { p.2 with sat := true } (p.1.scale (-x)))
      ((x + 127).toNat, es.map Prod.fst, es.foldl (fun a e => a ||| e.2) 0)

/-- 64-bit wrap-around. -/
def w64 (n : Nat) : Nat := n % 2 ^ 64

/-- mix64 of R59. -/
def mix64 (z : Nat) : Nat :=
  let a := w64 ((z ^^^ (z >>> 30)) * 0xBF58476D1CE4E5B9)
  let b := w64 ((a ^^^ (a >>> 27)) * 0x94D049BB133111EB)
  b ^^^ (b >>> 31)

/-- The key of a job's generator (R59). -/
def srKey (seed ctr : Nat) : Nat := mix64 (w64 (seed + ctr))

/-- u32(stream, e) of R59. -/
def u32 (key stream e : Nat) : Nat := mix64 (key ^^^ w64 (stream <<< 40) ^^^ e) >>> 32

/-- Bytes of the smallest whole group of elements of `w` bits: three for 6-bit elements, else the element or one byte (R51). -/
def groupBytes (w : Nat) : Nat := if w = 6 then 3 else if w < 8 then 1 else w / 8

/-- Pack elements of `w` bits, the first at bit 0 (R51). -/
def packElems (w : Nat) (es : List Nat) : List Byte :=
  (chunks (groupBytes w * 8 / w) (es.length + 1) es).flatMap (fun c =>
    leBytes (groupBytes w) (c.foldr (fun e acc => e % 2 ^ w + acc * 2 ^ w) 0))

/-- Unpack `n` elements of `w` bits (R51). -/
def unpackElems (w n : Nat) (bs : List Byte) : List Nat :=
  ((chunks (groupBytes w) (n + 1) bs).flatMap (fun c =>
    let v := leNat c
    (List.range (groupBytes w * 8 / w)).map (fun i => (v >>> (w * i)) % 2 ^ w))).take n

end Sys2Proof.Machine
end

