-- ==== Sys2Proof/Machine/Operands.lean ====
section
/-! DEFINITION. The operand forms of the operation words: the word a core issues next, memory references (R120), index registers,
operand layouts (R197 to R199), the extents an operation reads and writes, and the interlocks at issue (R86, R124, R133). -/

namespace Sys2Proof.Machine

/-- The word a core's context in control issues next, with what it is bound to. -/
structure Wx where
  p : Nat
  core : Nat
  g : Nat
  rank : Nat
  guest : Bool
  pk : Pricking
  ctx : Ctx
  words : Nat
  w : Nat

/-- The context in control of a core, with its word at PC, when the core exists, its partition has the pricking, and `ok` holds. -/
def Mach.seatIf (m : Mach) (core : Nat) (ok : Nat → Core → Bool) : Option Wx :=
  if !m.coreExists core then none
  else
    match m.partOf (core / 16) with
    | none => none
    | some p =>
      let k := m.core core
      match (m.part p).pk k.inGuest with
      | none => none
      | some pk =>
        let x := k.ctx k.inGuest
        let rank := (m.clusters p).idxOf (core / 16)
        let s := pk.streams.getD (16 * rank + core % 16) []
        if ok p k then
          some { p := p, core := core, g := core / 16, rank := rank, guest := k.inGuest, pk := pk, ctx := x,
                 words := s.length, w := (s.getD x.pc 0).toNat }
        else none

/-- The context in control of a core, when its sequencer may issue: the core exists, its partition is formed and its job runs, the
context runs, its stream is fetched; a host context not during a save or restore (R404), a guest context not once the host's wait is
satisfied (R411); its island is in no idle state (R459). -/
def Mach.seat (m : Mach) (core : Nat) : Option Wx := m.seatIf core (fun p k =>
  m.formed p && m.jobRuns p k.inGuest && (k.inGuest || !m.switching p) && !(k.inGuest && k.back) &&
    (k.ctx k.inGuest).run = .running && !(k.ctx k.inGuest).fetch && (m.island (core / 16)).gst = 0)

/-- The context in control of a core that its job's fault has stopped in this rc: its word may still fault in the same ic (R153). -/
def Mach.lateSeat (m : Mach) (core : Nat) : Option Wx := m.seatIf core (fun p k =>
  (k.ctx k.inGuest).run = .cut m.rc && (match m.jobOf p k.inGuest with | some j => j.faulted | none => false))

/-- The same, with a word at PC. -/
def Mach.wx (m : Mach) (core : Nat) : Option Wx := (m.seat core).filter (fun x => x.ctx.pc < x.words)

def Wx.f (x : Wx) (hi lo : Nat) : Nat := fld x.w hi lo

/-- OPC of a word (R119). -/
def opcOf (w : Nat) : Nat := fld w 125 120

/-- The value of index register `i` as a signed number; 0 names none (R120). -/
def Wx.ix (x : Wx) (i : Nat) : Int := if i = 0 then 0 else toSigned 32 (x.ctx.ix.getD i 0)

/-- The raw value of index register `i`; 0 names none. -/
def Wx.ixRaw (x : Wx) (i : Nat) : Nat := if i = 0 then 0 else x.ctx.ix.getD i 0

/-- Advance the context past its word. -/
def Mach.advance (m : Mach) (x : Wx) : Mach := m.modCtx x.core x.guest (fun c => { c with pc := c.pc + 1 })

/-! ## References (R120) -/

/-- Two byte ranges, each a start and a length, share a byte. -/
def overlap (a b : Nat × Nat) : Bool := a.1 < b.1 + b.2 && b.1 < a.1 + a.2

def overlaps (xs ys : List (Nat × Nat)) : Bool := xs.any (fun a => ys.any (overlap a))

/-- A memory reference resolved: its effective offset in 64-byte units, the memory's bytes it may reach, the regions in them that it may not
(R256), the key of its unit 0. -/
structure RefAt where
  eff : Int
  limit : Nat
  shut : List (Nat × Nat)
  base : Nat

/-- Resolve a LOCAL or CLUSTER reference of a word's context (R120, R408). -/
def Wx.ref (x : Wx) (m : Mach) (r : Nat) : RefAt :=
  let eff := (fld r 17 0 : Int) + x.ix (fld r 21 18)
  if fld r 23 22 = 0 then
    { eff := eff, limit := x.pk.localBytes, shut := [], base := localKey x.core (if x.guest then m.glb x.p else 0) }
  else
    { eff := eff, limit := x.pk.cshare, shut := x.pk.rbRegions x.rank, base := clusterKey x.g (if x.guest then 8388608 - m.gc x.p else 0) }

/-- A reference of `n` bytes lies in its memory and reaches no reduction buffer's region: one that does is taken as a range fault of its word
(R120, R256, log entry 226, DEDUCED). -/
def RefAt.inside (r : RefAt) (n : Nat) : Bool :=
  0 ≤ r.eff && r.eff.toNat * 64 + n ≤ r.limit && !overlaps [(r.eff.toNat * 64, n)] r.shut

def RefAt.key (r : RefAt) : Nat := r.base + r.eff.toNat * 64

/-- Checks of a reference at bit `lsb` of its word: SP = 11b, the bits of a SPECIAL reference (04h), a SPECIAL reference in a place
that does not take its kind (05h). `allow` lists the kinds the place takes: 0 fill window, 1 reduction buffer, 2 NONE. -/
def refFaults (r lsb : Nat) (allow : List Nat) : List (Nat × Nat) :=
  let sp := fld r 23 22
  if sp = 3 then [(4, lsb + 22)]
  else if sp ≠ 2 then []
  else
    let kind := fld r 17 14
    let spare := if kind = 0 then fld r 13 3 * 8 else if kind = 1 then fld r 13 12 * 4096 else if kind = 2 then fld r 13 0 else 0
    (if fld r 21 18 ≠ 0 then [(4, lsb + 18 + (lowestBit 4 (fld r 21 18)).getD 0)] else []) ++
    (if kind > 2 then [(4, lsb + 14 + (lowestBit 4 kind).getD 0)] else []) ++
    (if spare ≠ 0 then [(4, lsb + (lowestBit 14 spare).getD 0)] else []) ++
    (if kind ≤ 2 && !allow.contains kind then [(5, lsb)] else [])

/-- The kind of a SPECIAL reference. -/
def refKind (r : Nat) : Option Nat := if fld r 23 22 = 2 then some (fld r 17 14) else none

/-! ## Checks every word meets (R151) -/

/-- The lowest set bit of `w` outside the named fields, below OPC (R14, R119). -/
def reservedBit (w : Nat) (named : List (Nat × Nat)) : List (Nat × Nat) :=
  match (List.range 120).find? (fun i => bit w i && !named.any (fun n => n.2 ≤ i && i ≤ n.1)) with
  | some i => [(4, i)]
  | none => []

/-- GEN and the reserved bits of a word whose layout names the fields `named`. -/
def genFaults (w : Nat) (named : List (Nat × Nat)) : List (Nat × Nat) :=
  (if fld w 127 126 = 0 then [(1, w >>> 64)] else if fld w 127 126 ≥ 2 then [(2, w >>> 64)] else []) ++ reservedBit w named

/-- A field that must be 0 here (04h with its lowest set bit). -/
def mustZero (w hi lo : Nat) (cond : Bool) : List (Nat × Nat) :=
  if cond then (match lowestBit (hi + 1 - lo) (fld w hi lo) with
    | some i => [(4, lo + i)]
    | none => []) else []

/-- A field whose value is reserved or illegal. -/
def badField (code lo : Nat) (cond : Bool) : List (Nat × Nat) := if cond then [(code, lo)] else []

/-- A relative marker beyond the partition or in the wrong guest range (20h, R140). -/
def mkFaults (m : Mach) (x : Wx) (mk : Nat) : List (Nat × Nat) :=
  let inGuest := mk % 512 ≥ 512 - m.gmk x.p
  if mk ≥ 512 * x.pk.nclus || (x.guest != inGuest) then [(0x20, mk)] else []

/-- The fault a word raises: of several the lowest code, and of several positions of 04h and 05h the lowest (R151). -/
def pickFault : List (Nat × Nat) → Option (Nat × Nat)
  | [] => none
  | f :: t =>
    match pickFault t with
    | none => some f
    | some b =>
      if b.1 < f.1 || (b.1 = f.1 && (f.1 = 4 || f.1 = 5) && b.2 < f.2) then some b else some f

/-- A 64-bit two's complement offset for INFO. -/
def info64 (v : Int) : Nat := ofSigned 64 v

/-- INFO of a 10h fault: the failing side and its effective start offset (Table 4-26). -/
def info10 (side : Nat) (eff : Int) : Nat := side * 2 ^ 63 + ofSigned 48 eff

/-! ## Operand layouts -/

/-- Bytes of an A or B block of K steps (R197, R198). -/
def blockBytes (fmt k : Nat) : Nat := 8 * k * widthOf fmt + if isMx fmt then 2 * k else 0

/-- Bytes of a drained tile (R199). -/
def tileBytes (fd : Nat) (cmps : Bool) : Nat :=
  512 * widthOf fd + (if isMx fd then 128 else 0) + if cmps then 16384 else 0

/-- Bytes of a vector operand of `n` elements: packed elements, and for an MX format the scales from the next 64-byte boundary
(R129). -/
def vecBytes (fmt n : Nat) : Nat :=
  let e := cdiv (n * widthOf fmt) 8
  if isMx fmt then alignUp e 64 + cdiv n 32 else e

/-- Slot bytes of a zero-compressed group (Table 6-3), by element bytes. -/
def slotBytes (e : Nat) : Nat := if e = 1 then 96 else if e = 2 then 160 else 288

/-- Whether a mode and A format accumulate in INT32 (Table 2-5). -/
def accInt (fa : Nat) : Bool := 0x0B ≤ fa && fa ≤ 0x0E

/-- The words of an AX and AR by name. -/
def axMode (ax : Nat) : Nat := fld ax 119 117
def axFA (ax : Nat) : Nat := fld ax 116 112
def axFB (ax : Nat) : Nat := fld ax 111 107
def axFD (ax : Nat) : Nat := fld ax 106 102
def arK (ar : Nat) : Nat := 64 * (fld ar 119 104 + 1)
def arT (ar : Nat) : Nat := fld ar 103 92 + 1

def ArOp.k (o : ArOp) : Nat := arK o.ar.toNat
def ArOp.t (o : ArOp) : Nat := arT o.ar.toNat
def ArOp.drainBit (o : ArOp) : Bool := bit o.ar.toNat 89
def ArOp.accBit (o : ArOp) : Bool := bit o.ar.toNat 90
def ArOp.mode (o : ArOp) : Nat := axMode o.ax.toNat
def ArOp.cmps (o : ArOp) : Bool := o.mode = 6

/-- Bytes of a return row of a fill-window batch: COLOFF + 64 T elements, and for an MX drain format their scales behind them, as in any vector
(R101; where the scales lie is the model's choice, log entry 221, DESIGN CHOICE). -/
def retBytes (ax t : Nat) : Nat :=
  let n := fld ax 88 77 + 64 * t
  if isMx (axFD ax) then alignUp (n * widthOf (axFD ax) / 8) 64 + n / 32 else n * widthOf (axFD ax) / 8

/-- The bank of tile `t`: the banks alternate from the BANK field (R80). -/
def ArOp.bankOf (o : ArOp) (t : Nat) : Nat := (fld o.ar.toNat 91 91 + t) % 2

/-- Whether tile `t` drains to a place: not the held last tile, nor to NONE (R87, R83). -/
def ArOp.drains (o : ArOp) (t : Nat) : Bool :=
  (o.drainBit || t + 1 < o.t) && (o.dkey.isSome || o.rbuf.isSome || o.batch.isSome)

/-! ## Extents and interlocks -/

/-- The place that stands for reduction buffer `id` as a drain destination among the ranges that words of a core wait for (R86): no byte has
a key there. -/
def rbufKey (id : Nat) : Nat := 2 ^ 60 + id

/-- Ranges the operation still writes when tiles from `t0` on have not drained: the tag list and the return rows of a batch, a reduction
buffer, or the tiles' place in memory. -/
def ArOp.writes (o : ArOp) (t0 : Nat) : List (Nat × Nat) :=
  let sd := tileBytes (axFD o.ax.toNat) o.cmps
  let n := if o.drainBit then o.t else o.t - 1
  match o.batch with
  | some b => (o.tkey, 128) :: b.rows.map (fun r => (r.ret, retBytes o.ax.toNat o.t))
  | none => match o.dkey, o.rbuf with
    | some d, _ => [(d + t0 * sd, (n - t0) * sd)]
    | none, some id => if t0 < n then [(rbufKey id, 1)] else []
    | none, none => []

/-- Ranges the operation still reads: its A block, which may lie in a window's buffer, and its B blocks from the tile in hand on. -/
def ArOp.reads (o : ArOp) : List (Nat × Nat) :=
  let ax := o.ax.toNat
  let sb := blockBytes (axFB ax) o.k
  [(o.bkey + o.tile * sb, (o.t - o.tile) * sb), (o.akey, blockBytes (axFA ax) o.k)]

/-- Bytes of a block of `k` steps from step `k0` on: elements, and scales (R197, R198). -/
def blockFrom (key fmt k k0 : Nat) : List (Nat × Nat) :=
  (key + 8 * k0 * widthOf fmt, 8 * (k - k0) * widthOf fmt) ::
    (if isMx fmt then [(key + 8 * k * widthOf fmt + 2 * k0, 2 * (k - k0))] else [])

/-- Ranges the tile in flight reads from its resumed K-step on: its B block, and the real rows of its A block (R100, R107). -/
def ArOp.tileReads (o : ArOp) : List (Nat × Nat) :=
  let ax := o.ax.toNat
  let fa := axFA ax
  (match o.batch with
    | none => blockFrom o.akey fa o.k o.kdone
    | some b => (List.range (o.k / 64)).flatMap (fun p =>
        if 64 * p < o.kdone then []
        else (o.akey + 64 * p * 8 * widthOf fa, b.rows.length * 8 * widthOf fa) ::
          (if isMx fa then [(o.akey + 8 * o.k * widthOf fa + 128 * p, 2 * b.rows.length)] else []))) ++
  blockFrom (o.bkey + o.tile * blockBytes (axFB ax) o.k) (axFB ax) o.k o.kdone

/-- Element bits of a map's format and its bytes when dense (R179). -/
def mapBytes (fmt h w c : Nat) : Nat := vecBytes fmt (h * w * c)

/-- Byte extents a data-movement operation reads, and those it writes. -/
def DmaPlan.reads : DmaPlan → List (Nat × Nat)
  | .copy s _ sp _ rows rlen => [(s, (rows - 1) * sp + rlen)]
  | .window s _ sh _ _ _ =>
    let n := leAt sh 4 2 * leAt sh 6 2 * leAt sh 8 4
    [(s, if leAt sh 2 1 = 1 then n / 64 * slotBytes (widthOf (leAt sh 1 1) / 8) else vecBytes (leAt sh 1 1) n)]
  | .pool s _ sh _ _ =>
    let n := leAt sh 4 2 * leAt sh 6 2 * leAt sh 8 4
    [(s, if leAt sh 2 1 = 1 then n / 64 * slotBytes (widthOf (leAt sh 1 1) / 8) else vecBytes (leAt sh 1 1) n)]
  | .combine s _ sh => [(s, ((leAt sh 5 1 - 1) * leAt sh 8 4 + leAt sh 6 1) * 64)]
  | .zpack s _ f ng => [(s, ng * 8 * widthOf f)]
  | .zunpack s _ f ng => [(s, ng * slotBytes (widthOf f / 8))]
  | .gather _ _ segs => segs.filterMap (fun t => t.1.map (fun s => (s, t.2.2)))
  | .post _ src len _ _ _ => [(src, len)]
  | .remote _ _ _ _ => []

def DmaPlan.writes : DmaPlan → List (Nat × Nat)
  | .copy _ d _ dp rows rlen => [(d, (rows - 1) * dp + rlen)]
  | .window _ d sh _ _ _ => [(d, blockBytes (leAt sh 1 1) (64 * (leAt sh 30 2 + 1)))]
  | .pool _ d sh _ _ => [(d, 64 * vecBytes (leAt sh 3 1) (64 * (leAt sh 30 2 + 1)))]
  | .combine _ d sh => [(d, leAt sh 6 1 * 64)]
  | .zpack _ d f ng => [(d, ng * slotBytes (widthOf f / 8))]
  | .zunpack _ d f ng => [(d, ng * 8 * widthOf f)]
  | .gather d n _ => [(d, n)]
  | .post _ _ _ _ _ _ => []
  | .remote _ _ _ _ => []

/-- What earlier words of the context still have to write, and what they still have to read. -/
def Mach.pendingWrites (m : Mach) (core : Nat) (guest : Bool) : List (Nat × Nat) :=
  let k := m.core core
  (k.arr.queue.filter (fun o => o.guest == guest)).flatMap (fun o => o.writes o.tile) ++
  (k.arr.drains.filter (fun d => d.op.guest == guest)).flatMap (fun d => d.op.writes d.tile) ++
  (k.ctx guest).dma.flatMap (fun e => e.plan.writes)

def Mach.pendingReads (m : Mach) (core : Nat) (guest : Bool) : List (Nat × Nat) :=
  let k := m.core core
  (k.arr.queue.filter (fun o => o.guest == guest)).flatMap ArOp.reads ++ (k.ctx guest).dma.flatMap (fun e => e.plan.reads)

/-- The word stalls: it touches what an earlier word still has to write, or writes what one still has to read (R86, R124, R133). -/
def Wx.stalls (x : Wx) (m : Mach) (reads writes : List (Nat × Nat)) : Bool :=
  overlaps (reads ++ writes) (m.pendingWrites x.core x.guest) || overlaps writes (m.pendingReads x.core x.guest)

/-- Faults found by reading memory: 11h, 14h and 32h. A word that waits for an earlier write has not read yet (R124). -/
def readCode (code : Nat) : Bool := code = 0x11 || code = 0x14 || code = 0x32

/-- A word's fault is taken (the checks give an uncorrectable read, 11h, by its key). -/
def Mach.takeFault (m : Mach) (x : Wx) (f : Nat × Nat) : Mach :=
  if f.1 = 0x11 then (m.lostRead (if opcOf x.w = 0x2B then 1 else 2) f.2).fault x.p x.core x.guest 0x11 (opcOf x.w) x.ctx.pc (chipOff f.2)
  else m.fault x.p x.core x.guest f.1 (opcOf x.w) x.ctx.pc f.2

/-- The faults a word shows: those found by a read only once nothing holds the word back (R124, R151). -/
def shown (stalled : Bool) (fs : List (Nat × Nat)) : List (Nat × Nat) := if stalled then fs.filter (fun f => !readCode f.1) else fs

/-- A word of a core that its job's fault has stopped in the same rc: it does not execute, but a fault of its own is of the same ic and is
taken (R153). -/
def Mach.lateFault (m : Mach) (core : Nat) (sel : Mach → Wx → Bool) (checks : Mach → Wx → List (Nat × Nat)) : Mach :=
  match (m.lateSeat core).filter (fun x => x.ctx.pc < x.words) with
  | none => m
  | some x =>
    if !sel m x then m
    else match pickFault (checks m x) with
      | some f => m.takeFault x f
      | none => m

/-- The common course of a word: the command takes the word at PC only when it is the row's; a fault the word shows is taken; a stalled word
does not issue; else the word has its effect. -/
def issue (m : Mach) (core : Nat) (sel : Mach → Wx → Bool) (checks : Mach → Wx → List (Nat × Nat)) (stall : Mach → Wx → Bool)
    (act : Mach → Wx → Mach) : Mach :=
  match m.wx core with
  | none => m.lateFault core sel checks
  | some x =>
    if !sel m x then m
    else match pickFault (shown (stall m x) (checks m x)) with
      | some f => m.takeFault x f
      | none => if stall m x then m else act m x

/-- A word that never stalls. -/
def noStall (_ : Mach) (_ : Wx) : Bool := false

/-- The row takes words of opcode `o`. -/
def selOpc (o : Nat) (_ : Mach) (x : Wx) : Bool := opcOf x.w = o

end Sys2Proof.Machine
end

