-- ==== Sys2Proof/Machine/Flags.lean ====
section
/-! DEFINITION. The sticky arithmetic flags of a partition (R66), the format census (R67 to R69), and the rounding of an element in
a word's context (R60, R123). -/

namespace Sys2Proof.Machine

/-- Set the arithmetic flags a result calls for (R66). -/
def Mach.setFlags (m : Mach) (p fl : Nat) : Mach :=
  if fl = 0 then m else m.setObj (0x6080 + p) 2 (m.obj (0x6080 + p) 2 ||| fl)

/-- Counts a value adds for a candidate format without block scaling: OVERFLOW, VANISH (Table 2-9). -/
def candPlain (c : Nat) (v : Val) : Nat × Nat :=
  match v with
  | .nan => (0, 0)
  | .inf _ => (b2n (c = 3), 0)
  | .fin _ _ _ =>
    let fl := (convertE c rne v).2
    (b2n (fl &&& flOverflow ≠ 0), b2n (fl &&& flUnderflow ≠ 0))

/-- Counts a value adds for a candidate under MX scaling with the block's largest finite magnitude (R67). -/
def candMx (c : Nat) (amax : Val) (v : Val) : Nat × Nat :=
  match v with
  | .nan => (0, 0)
  | .inf _ => (1, 0)
  | .fin _ _ _ =>
    if amax.isZero then (0, 0)
    else
      let fl := (convertE c rne (v.scale (-(blockX c amax)))).2
      (b2n (fl &&& flOverflow ≠ 0), b2n (fl &&& flUnderflow ≠ 0))

/-- The sixteen counts of one block: WRITTEN, NAN, and for each candidate OVERFLOW and VANISH (Table 2-14). -/
def blockCounts (vs : List Val) : List Nat :=
  let amax := amaxOf vs
  let sum (f : Val → Nat × Nat) : List Nat :=
    [vs.foldl (fun a v => a + (f v).1) 0, vs.foldl (fun a v => a + (f v).2) 0]
  [vs.length, vs.countP Val.isNan] ++ sum (candPlain 2) ++ sum (candPlain 1) ++ sum (candPlain 3) ++ sum (candPlain 4) ++
    sum (candMx 8 amax) ++ sum (candMx 9 amax) ++ sum (candMx 10 amax)

/-- The largest count of a census counter (R68). -/
def censusMax : Nat := 2 ^ 48 - 1

/-- Key of counter `i` of slot `t` of partition `p`. -/
def censusKey (p t i : Nat) : Nat := (p * 256 + t) * 16 + i

/-- Add to a slot's counters; one that reaches the top holds there and sets CENSUS_SAT (R68). -/
def Mach.addCensus (m : Mach) (p t : Nat) (ns : List Nat) : Mach :=
  (ns.zipIdx).foldl (fun x e =>
    let k := censusKey p t e.2
    let v := x.census.get 0 k
    if e.1 = 0 then x
    else
      let x' := { x with census := x.census.put k (min (v + e.1) censusMax) }
      if v + e.1 ≥ censusMax then x'.setFlags p flCensusSat else x') m

/-- Count a store in its census slot, block by block, when the word tags it and the census is on (R67, Table 2-11). -/
def Mach.countStore (m : Mach) (p : Nat) (cen : Bool) (tag : Nat) (blocks : List (List Val)) : Mach :=
  if cen && m.objBit (0x6100 + p) 1 0 then blocks.foldl (fun x b => x.addCensus p tag (blockCounts b)) m else m

/-- The rounding of element `e` of a stream under RND and SAT, with the generator of the job (R57, R59). -/
def rndAt (key mode : Nat) (sat : Bool) (stream e : Nat) : Rnd :=
  { mode := mode, sat := sat, u := if mode = 2 then u32 key stream (e % 2 ^ 40) else 0 }

/-- The generator key of partition `p`'s resident or guest job (R61). -/
def Mach.srKeyOf (m : Mach) (p : Nat) (guest : Bool) : Nat :=
  srKey (m.obj (0x6080 + p) 1) (match m.jobOf p guest with | some j => j.ctr | none => 0)

/-- EBASE moves on by the elements of the word when AUTO is set (R123). -/
def Ctx.bumpBase (c : Ctx) (n : Nat) : Ctx := if c.auto then { c with ebase := (c.ebase + n) % 2 ^ 40 } else c

/-- The encoded store of a row or vector of values in a format: bytes of the elements, bytes of the scales, flags. -/
def encodeStore (fo : Nat) (rs : List Rnd) (vs : List Val) : List Byte × List Byte × Nat :=
  if isMx fo then
    let bl := (chunks 32 (vs.length + 1) (vs.zip rs)).map (fun b => convertMx fo (b.map Prod.snd) (b.map Prod.fst))
    (packElems (widthOf fo) (bl.flatMap (fun b => b.2.1)), bl.flatMap (fun b => leBytes 1 b.1), bl.foldl (fun a b => a ||| b.2.2) 0)
  else
    let es := (vs.zip rs).map (fun e => convertE fo e.2 e.1)
    (packElems (widthOf fo) (es.map Prod.fst), [], es.foldl (fun a e => a ||| e.2) 0)

end Sys2Proof.Machine
end

