-- ==== Sys2Proof/Machine/Pins.lean ====
section
/-! DEFINITION. The caches a pricking declares and their page tables (R237 to R239), the pins of a job (R235), and the end of a RUN. -/

namespace Sys2Proof.Machine

/-! ## Caches as declared (Table 8-7) -/

def Pricking.caches (k : Pricking) : List (List Byte) := (k.recsOf 7).filter (fun r => leAt r 4 1 = 1)

def Pricking.cacheRec (k : Pricking) (cix : Nat) : Option (List Byte) := k.caches.find? (fun r => leAt r 5 1 = cix)

def ccD (r : List Byte) : Nat := 64 * (leAt r 8 2 + 1)
def ccNkv (r : List Byte) : Nat := leAt r 7 1
def ccW (r : List Byte) : Nat := widthOf (leAt r 6 1)
def ccNseq (r : List Byte) : Nat := leAt r 10 2
def ccMaxpg (r : List Byte) : Nat := leAt r 12 2
def ccNblk (r : List Byte) : Nat := leAt r 28 4

/-- Bytes of a token's D elements, of a group of a page, of a page and of a block (R238). -/
def ccTok (r : List Byte) : Nat := ccD r * ccW r / 8
def ccGrp (r : List Byte) : Nat := 16 * ccTok r
def ccPage (r : List Byte) : Nat := 2 * ccNkv r * ccGrp r
def ccBlock (r : List Byte) : Nat := 16 * ccPage r

/-- Offsets of the page entries and of the block map in PTBUF (R239). -/
def ccPE (r : List Byte) : Nat := 64 * cdiv (32 * ccNseq r) 64
def ccBM (r : List Byte) : Nat := ccPE r + 64 * cdiv (4 * ccNseq r * ccMaxpg r) 64

/-- A cache of a partition with the keys of its buffers. -/
structure CacheAt where
  r : List Byte
  cix : Nat
  pt : Nat
  pool : Nat
  g : Nat

def Mach.cacheAt (m : Mach) (p cix : Nat) : Option CacheAt :=
  match (m.part p).resident with
  | none => none
  | some k => (k.cacheRec cix).map (fun r =>
      let at' (id : Nat) : Nat := match m.buf p false k id with | some b => b.key | none => 0
      { r := r, cix := cix, pt := at' (leAt r 14 2), pool := at' (leAt r 16 2), g := (m.clusters p).getD (leAt r 18 1) 0 })

def CacheAt.recKey (c : CacheAt) (s : Nat) : Nat := c.pt + 32 * s
def CacheAt.entKey (c : CacheAt) (s g : Nat) : Nat := c.pt + ccPE c.r + 4 * (s * ccMaxpg c.r + g)
def CacheAt.blkKey (c : CacheAt) (b : Nat) : Nat := c.pt + ccBM c.r + 8 * b
def CacheAt.slotKey (c : CacheAt) (b q : Nat) : Nat := c.pool + b * ccBlock c.r + q * ccPage c.r

def CacheAt.clen (c : CacheAt) (m : Mach) (s : Nat) : Nat := m.rdNat (c.recKey s) 4
def CacheAt.npg (c : CacheAt) (m : Mach) (s : Nat) : Nat := m.rdNat (c.recKey s + 4) 4
def CacheAt.stamp (c : CacheAt) (m : Mach) (s : Nat) : Nat := m.rdNat (c.recKey s + 8) 8
def CacheAt.flags (c : CacheAt) (m : Mach) (s : Nat) : Nat := m.rdNat (c.recKey s + 16) 2
def CacheAt.ndrop (c : CacheAt) (m : Mach) (s : Nat) : Nat := m.rdNat (c.recKey s + 18) 2
def CacheAt.ent (c : CacheAt) (m : Mach) (s g : Nat) : Nat := m.rdNat (c.entKey s g) 4
def CacheAt.mask (c : CacheAt) (m : Mach) (b : Nat) : Nat := m.rdNat (c.blkKey b) 2
def CacheAt.sole (c : CacheAt) (m : Mach) (b : Nat) : Nat := m.rdNat (c.blkKey b + 2) 2

def entV (e : Nat) : Bool := bit e 31
def entDrop (e : Nat) : Bool := bit e 30
def entBlock (e : Nat) : Nat := fld e 23 4
def entSlot (e : Nat) : Nat := e % 16

def CacheAt.setFlag (c : CacheAt) (m : Mach) (s i : Nat) (b : Bool) : Mach :=
  m.wrNat (c.recKey s + 16) 2 (Machine.setBit (c.flags m s) i b)

/-! ## Pins, and the end of a job (R235) -/

/-- Set or clear JOBPIN of sequences in every cache, with STAMP := U when set (R235, R248). -/
def Mach.pinSeqs (m : Mach) (p : Nat) (seqs : List Nat) (on : Bool) : Mach :=
  match (m.part p).resident with
  | none => m
  | some k => k.caches.foldl (fun (a : Mach) r =>
      match a.cacheAt p (leAt r 5 1) with
      | none => a
      | some c => (seqs.filter (· < ccNseq r)).foldl (fun (b : Mach) s =>
          let b := c.setFlag b s 1 on
          if on then b.wrNat (c.recKey s + 8) 8 (b.obj (0x6440 + p) 7) else b) a) m

def Job.isDone (j : Job) : Bool := match j.st with
  | .done _ _ _ => true
  | _ => false

/-- Pins of a job go, but for sequences another job of the partition still pins. -/
def Mach.unpinJob (m : Mach) (j : Job) : Mach :=
  let others := (m.jobs.filter (fun x => x.part = j.part && !x.same j && !x.isDone)).flatMap (fun x => x.pins)
  if j.pins.isEmpty then m else m.pinSeqs j.part (j.pins.filter (fun s => !others.contains s)) false

/-- A job that has run ends: it completes, faults or is cancelled, and its pins are cleared (R235, Table 14-8). -/
def Mach.endRun (m : Mach) (j : Job) (status detail : Nat) : Mach := (m.unpinJob j).endJob j status detail

end Sys2Proof.Machine
end

