-- ==== Sys2Proof/Machine/Control.lean ====
section
/-! DEFINITION. The control words (Table 4-10), the stream fetch (R122) and the ends of a stream. -/

namespace Sys2Proof.Machine

/-- The outcome of a command: the next state of the block. -/
abbrev Result := Host.Outcome State Fault Refusal

/-- A command that leaves the module as `f` makes it. -/
def State.always (s : State) (f : Mach → Mach) : Result := .next { s with mach := f s.mach }

/-- A command of the module in service; before that it meets nothing that could act (R514, R516, R521). -/
def State.step (s : State) (f : Mach → Mach) : Result :=
  s.always (fun m => if m.phase = .running then f m else m)

/-- A running job whose every stream is complete ends DONE (Table 4-10, Table 14-8). -/
def Mach.settle (m : Mach) (p : Nat) : Mach :=
  match m.resJob p with
  | some j => if j.kind = 1 && j.st = .running && m.streamsDone p false then m.endRun j 0 0 else m
  | none => m

/-! ## Control words -/

def checksNop (_ : Mach) (x : Wx) : List (Nat × Nat) := genFaults x.w []

/-- NOP: nothing. -/
def doNop (m : Mach) (x : Wx) : Mach := m.advance x

/-- HALT: the core stops; its stream is complete once its operations are. -/
def doHalt (m : Mach) (x : Wx) : Mach :=
  (m.modCtx x.core x.guest (fun c => { c with run := .halted })).settle x.p

def checksFault (_ : Mach) (x : Wx) : List (Nat × Nat) :=
  genFaults x.w [(119, 112)] ++ badField 5 112 (x.f 119 112 < 0x80)

/-- FAULT: raises its CODE with word bits [127:64] (Table 4-26). -/
def doFault (m : Mach) (x : Wx) : Mach := m.fault x.p x.core x.guest (x.f 119 112) 2 x.ctx.pc (x.w >>> 64)

def checksSet (_ : Mach) (x : Wx) : List (Nat × Nat) :=
  genFaults x.w [(119, 115), (114, 83)] ++ badField 5 115 (x.f 119 115 = 16)

/-- Write a sequencer register: 0 to 15 counters, 17 to 31 index registers (Table 4-10). -/
def Ctx.putReg (c : Ctx) (r v : Nat) : Ctx :=
  if r < 16 then { c with c := c.c.set r (v % 2 ^ 32) } else { c with ix := c.ix.set (r - 16) (v % 2 ^ 32) }

def Ctx.getReg (c : Ctx) (r : Nat) : Nat := if r < 16 then c.c.getD r 0 else c.ix.getD (r - 16) 0

/-- SET: REG := IMM. -/
def doSet (m : Mach) (x : Wx) : Mach :=
  m.modCtx x.core x.guest (fun c => { c.putReg (x.f 119 115) (x.f 114 83) with pc := c.pc + 1 })

/-- ADD: REG := REG + IMM modulo 2^32. -/
def doAdd (m : Mach) (x : Wx) : Mach :=
  m.modCtx x.core x.guest (fun c =>
    { c.putReg (x.f 119 115) (c.getReg (x.f 119 115) + x.f 114 83) with pc := c.pc + 1 })

/-- The target of a taken branch lies among the 1024 words the stream buffer holds around PC (R122; which words these are is the
model's reading: 512 before PC and 511 after it, log entry 19, DEDUCED). -/
def inBuffer (pc target : Nat) : Bool := pc ≤ target + 512 && target < pc + 512

/-- A taken branch: PC := TARGET; a target outside the buffer waits for a refetch (R122). -/
def Ctx.branch (c : Ctx) (target : Nat) : Ctx := { c with pc := target, fetch := !inBuffer c.pc target }

def checksDbnz (_ : Mach) (x : Wx) : List (Nat × Nat) :=
  genFaults x.w [(119, 115), (114, 95)] ++ badField 5 115 (x.f 119 115 ≥ 16) ++
  (if x.f 114 95 ≥ x.words then [(6, x.f 114 95)] else [])

/-- DBNZ: the counter falls by one modulo 2^32; not zero branches. -/
def doDbnz (m : Mach) (x : Wx) : Mach :=
  m.modCtx x.core x.guest (fun c =>
    let r := x.f 119 115
    let v := (c.getReg r + (2 ^ 32 - 1)) % 2 ^ 32
    let c' := c.putReg r v
    if v ≠ 0 then c'.branch (x.f 114 95) else { c' with pc := c.pc + 1 })

def checksBcmp (_ : Mach) (x : Wx) : List (Nat × Nat) :=
  genFaults x.w [(119, 115), (114, 113), (112, 81), (80, 61)] ++ badField 5 115 (x.f 119 115 = 16) ++
  (if x.f 80 61 ≥ x.words then [(6, x.f 80 61)] else [])

/-- The comparison of BCMP: counters unsigned, index registers signed (Table 4-10). -/
def bcmpHolds (r v cond imm : Nat) : Bool :=
  let a : Int := if r < 16 then v else toSigned 32 v
  let b : Int := if r < 16 then imm else toSigned 32 imm
  if cond = 0 then a = b else if cond = 1 then a ≠ b else if cond = 2 then a < b else b ≤ a

/-- BCMP: branches when REG COND IMM. -/
def doBcmp (m : Mach) (x : Wx) : Mach :=
  m.modCtx x.core x.guest (fun c =>
    let r := x.f 119 115
    if bcmpHolds r (c.getReg r) (x.f 114 113) (x.f 112 81) then c.branch (x.f 80 61) else { c with pc := c.pc + 1 })

def checksRctx (_ : Mach) (x : Wx) : List (Nat × Nat) := genFaults x.w [(119, 100), (99, 60), (59, 59)]

/-- RCTX: sets the rounding context. -/
def doRctx (m : Mach) (x : Wx) : Mach :=
  m.modCtx x.core x.guest (fun c =>
    { c with stream := x.f 119 100, ebase := x.f 99 60, auto := bit x.w 59, pc := c.pc + 1 })

/-! ## Words that no other row names -/

/-- An opcode of Table 4-8. -/
def knownOpc (o : Nat) : Bool :=
  [0, 1, 2, 3, 4, 5, 6, 7, 8, 9, 10, 0x10, 0x11, 0x18, 0x20, 0x28, 0x29, 0x2A, 0x2B, 0x2C].contains o

/-- FUNC codes of Table 4-14 and Table 4-15. -/
def vopFunc (f : Nat) : Bool := f ≤ 8 || (0x10 ≤ f && f ≤ 0x13)
def sfnFunc (f : Nat) : Bool := f ≤ 8 || (0x10 ≤ f && f ≤ 0x1F)

/-- Key of entry `i` of the shape table in cluster `g` (R210, R408). -/
def Mach.shapeKey (m : Mach) (p g : Nat) (guest : Bool) (k : Pricking) (i : Nat) : Nat :=
  clusterKey g ((if guest then 8388608 else 8388608 - m.gc p) - 64 * k.nshape + 64 * i)

/-- The shape entry a CDMA word names (R210). -/
def Mach.shapeOf (m : Mach) (x : Wx) : List Byte := m.rd (m.shapeKey x.p x.g x.guest x.pk (x.f 31 20)) 64

/-- The STYPE a CDMA word reaches, when its entry is declared. -/
def Mach.stypeOf (m : Mach) (x : Wx) : Option Nat :=
  if x.f 31 20 < x.pk.nshape then some (leAt (m.shapeOf x) 0 1) else none

/-- The FAULT row also takes the words no other row names: reserved opcodes, functions and operations, and a CDMA whose shape is not
declared. -/
def selFault (m : Mach) (x : Wx) : Bool :=
  let o := opcOf x.w
  o = 2 || !knownOpc o || (o = 0x18 && !vopFunc (x.f 119 114)) || (o = 0x20 && !sfnFunc (x.f 119 115)) ||
  (o = 0x2A && x.f 111 110 = 3) ||
  (o = 0x29 && (match m.stypeOf x with | some t => t = 0 || t > 7 | none => true))

/-- What such words raise (Table 4-26). -/
def checksUnnamed (m : Mach) (x : Wx) : List (Nat × Nat) :=
  let o := opcOf x.w
  if o = 2 then checksFault m x
  else if !knownOpc o then genFaults x.w [(119, 0)] ++ [(3, x.w >>> 64)]
  else if o = 0x18 then
    genFaults x.w [(119, 7)] ++ badField 5 114 true ++ badField 4 102 (x.f 103 102 = 3) ++
    badField 4 109 (x.f 113 109 ≥ 16) ++ badField 4 104 (x.f 108 104 ≥ 16) ++ mustZero x.w 99 92 (!bit x.w 100) ++
    refFaults (x.f 78 55) 55 [] ++ refFaults (x.f 54 31) 31 [] ++ refFaults (x.f 30 7) 7 []
  else if o = 0x20 then
    genFaults x.w [(119, 33)] ++ badField 5 115 true ++ badField 4 103 (x.f 104 103 = 3) ++
    badField 4 110 (x.f 114 110 ≥ 16) ++ badField 4 105 (x.f 109 105 ≥ 16) ++ mustZero x.w 100 93 (!bit x.w 101) ++
    refFaults (x.f 80 57) 57 [] ++ refFaults (x.f 56 33) 33 []
  else if o = 0x2A then genFaults x.w [(119, 5)] ++ badField 4 110 true ++ mustZero x.w 20 5 (!bit x.w 21)
  else genFaults x.w [(119, 1)] ++ badField 4 1 (x.f 2 1 = 3) ++ mustZero x.w 18 3 (!bit x.w 19) ++ [(0x12, x.f 31 20)]

/-! ## Ends and fetches of a stream -/

/-- STREAM_END: PC reaches WORDS without HALT (07h, OPC 00h, INFO WORDS). -/
def doStreamEnd (m : Mach) (core : Nat) : Mach :=
  match m.seat core with
  | some x => if x.ctx.pc ≥ x.words then m.fault x.p core x.guest 7 0 x.words x.words else m
  | none => m

/-- STREAM_FETCH_RETURN: the fetch a waiting context is on returns (R122); `lost` is the device address of an uncorrectable half it met:
fault 11h with that address (Table 11-4). -/
def doFetchReturn (m : Mach) (core : Nat) (lost : Option Nat) : Mach :=
  let k := m.core core
  let x := k.ctx k.inGuest
  if !x.fetch then m
  else match lost, m.partOf (core / 16) with
    | some a, some p => (((m.touch [(a, 1)]).spoil a).lostRead 2 a).fault p core k.inGuest 0x11 0 x.pc a
    | _, _ => m.modCtx core k.inGuest (fun c => { c with fetch := false })

/-! ## The meanings -/

/-- NOP (Table 4-10). -/
def execNop (core : Nat) (s : State) : Result :=
  s.step (fun m => issue m core (selOpc 0) checksNop noStall doNop)

/-- HALT (Table 4-10). -/
def execHalt (core : Nat) (s : State) : Result :=
  s.step (fun m => issue m core (selOpc 1) checksNop noStall doHalt)

/-- FAULT (Table 4-10, R151), and the words no other row names. -/
def execFault (core : Nat) (s : State) : Result :=
  s.step (fun m => issue m core selFault checksUnnamed noStall doFault)

/-- SET (Table 4-10). -/
def execSet (core : Nat) (s : State) : Result :=
  s.step (fun m => issue m core (selOpc 3) checksSet noStall doSet)

/-- ADD (Table 4-10). -/
def execAdd (core : Nat) (s : State) : Result :=
  s.step (fun m => issue m core (selOpc 4) checksSet noStall doAdd)

/-- DBNZ (Table 4-10, R122). -/
def execDbnz (core : Nat) (s : State) : Result :=
  s.step (fun m => issue m core (selOpc 5) checksDbnz noStall doDbnz)

/-- BCMP (Table 4-10, R122). -/
def execBcmp (core : Nat) (s : State) : Result :=
  s.step (fun m => issue m core (selOpc 6) checksBcmp noStall doBcmp)

/-- RCTX (Table 4-10, R123). -/
def execRctx (core : Nat) (s : State) : Result :=
  s.step (fun m => issue m core (selOpc 7) checksRctx noStall doRctx)

/-- STREAM_END (Table 4-26, 07h). -/
def execStreamEnd (core : Nat) (s : State) : Result := s.step (fun m => doStreamEnd m core)

/-- STREAM_FETCH_RETURN (R122). -/
def execStreamFetchReturn (core : Nat) (lost : Option Nat) (s : State) : Result := s.step (fun m => doFetchReturn m core lost)

end Sys2Proof.Machine
end

