-- ==== Sys2Proof/Machine/Vector.lean ====
section
/-! DEFINITION. Vector words (R128 to R130). -/

namespace Sys2Proof.Machine

/-- Functions that take B, and reductions (Table 4-14). -/
def vopTakesB (f : Nat) : Bool := f ≤ 5
def vopReduces (f : Nat) : Bool := f ≥ 0x10

/-- Formats legal as FI and as FO (R129). -/
def vecFi (c : Nat) : Bool := c ≤ 5 || (0x0B ≤ c && c ≤ 0x0D)
def vecFo (c : Nat) : Bool := vecFi c || c = 0x0F

/-- The `n` values of a vector operand at a key; MX scales lie at the first 64-byte boundary after the elements (R129). -/
def Mach.vecVals (m : Mach) (key fmt n : Nat) : List Val :=
  let eb := cdiv (n * widthOf fmt) 8
  let es := (unpackElems (widthOf fmt) n (m.rd key eb)).map (decodeE fmt)
  if isMx fmt then
    let sc := (m.rd (key + alignUp eb 64) (cdiv n 32)).map BitVec.toNat
    es.zipIdx.map (fun e => scaled (sc.getD (e.2 / 32) 0) e.1)
  else es

def vopN (w : Nat) : Nat := 64 * (fld w 90 79 + 1)

/-- The (reference field, bytes) pairs a VOP reads, and the bytes it writes. -/
def vopReads (w : Nat) : List (Nat × Nat) :=
  let f := fld w 119 114
  let n := vopN w
  let fi := fld w 113 109
  (fld w 78 55, vecBytes fi n) ::
    ((if vopTakesB f then [(fld w 54 31, if bit w 91 then 64 else vecBytes fi n)] else []) ++
     (if f = 3 then [(fld w 30 7, vecBytes (fld w 108 104) n)] else []))

def vopOut (w : Nat) : Nat := if vopReduces (fld w 119 114) then 64 else vecBytes (fld w 108 104) (vopN w)

/-- Range and error checks a VOP or SFN shares: 31h for a reference outside the memory, 32h for an uncorrectable read (Table 4-26). -/
def vecFaults (m : Mach) (x : Wx) (reads : List (Nat × Nat)) (dref out : Nat) : List (Nat × Nat) :=
  let mem := reads.filter (fun r => (refKind r.1).isNone)
  (mem.filterMap (fun r => let a := x.ref m r.1; if a.inside r.2 then none else some (0x31, info64 a.eff))) ++
  (if (refKind dref).isNone then (let a := x.ref m dref; if a.inside out then [] else [(0x31, info64 a.eff)]) else []) ++
  (match m.badRead (mem.map (fun r => ((x.ref m r.1).key, r.2))) with
   | some b => [(0x32, if b ≥ 2 ^ 54 then (b - 2 ^ 54) % 2 ^ 23 else (b - 2 ^ 53) % 2 ^ 19)]
   | none => [])

def checksVop (m : Mach) (x : Wx) : List (Nat × Nat) :=
  let f := x.f 119 114
  let fi := x.f 113 109
  let fo := x.f 108 104
  genFaults x.w [(119, 7)] ++ badField 4 102 (x.f 103 102 = 3) ++ badField 4 109 (fi ≥ 16) ++ badField 4 104 (fo ≥ 16) ++
  mustZero x.w 99 92 (!bit x.w 100) ++ refFaults (x.f 78 55) 55 [] ++ refFaults (x.f 30 7) 7 [] ++
  (if vopTakesB f then refFaults (x.f 54 31) 31 [] else refFaults (x.f 54 31) 31 [] ++ mustZero x.w 54 31 true) ++
  (if (if f = 8 then (vecFi fi || fi = 0x0F || isMx fi) && (vecFo fo || isMx fo) else vecFi fi && vecFo fo) then []
   else [(0x30, fi + fo * 256)]) ++
  vecFaults m x (vopReads x.w) (x.f 30 7) (vopOut x.w)

def stallVop (m : Mach) (x : Wx) : Bool :=
  let d := ((x.ref m (x.f 30 7)).key, vopOut x.w)
  x.stalls m ((vopReads x.w).map (fun r => ((x.ref m r.1).key, r.2))) [d]

/-- An FP32 result with its flags: the exact value rounded once by RNE, INVALID when NaN comes from no NaN (R129, R66). -/
def fpRes (v : Val) (nanIn : Bool) : Val × Nat :=
  let r := convertF fFP32 rne v
  (val32 r.1, r.2 ||| if v.isNan && !nanIn then flInvalid else 0)

/-- One element of a vector function with its flags (Table 4-14); `d` is the old destination element of FMA. -/
def vopElem (f : Nat) (a b d : Val) : Val × Nat :=
  let nanIn := a.isNan || b.isNan
  if f = 0 then fpRes (addV a b) nanIn
  else if f = 1 then fpRes (addV a b.negate) nanIn
  else if f = 2 then fpRes (mulV a b) nanIn
  else if f = 3 then fpRes (addV (mulV a b) d) (nanIn || d.isNan)
  else if f = 4 then (maxV a b, 0)
  else if f = 5 then (minV a b, 0)
  else if f = 6 then (a.abs, 0)
  else if f = 7 then (a.negate, 0)
  else (a, 0)

/-- Two partial results of a reduction combined (R130). -/
def redJoin (f : Nat) (a b : Val × Nat) : Val × Nat :=
  let r := if f = 0x11 then (maxV a.1 b.1, 0) else if f = 0x12 then (minV a.1 b.1, 0)
    else fpRes (addV a.1 b.1) (a.1.isNan || b.1.isNan)
  (r.1, a.2 ||| b.2 ||| r.2)

/-- A lane's elements in ascending order (R130): sums and extremes start from the first element, RSSQ enters each fused. -/
def redLane (f : Nat) : List Val → Val × Nat
  | [] => (.zero false, 0)
  | a :: t =>
    if f = 0x13 then
      (a :: t).foldl (fun acc v =>
        let r := fpRes (addV (mulV v v) acc.1) (v.isNan || acc.1.isNan)
        (r.1, acc.2 ||| r.2)) (.zero false, 0)
    else t.foldl (fun acc v => redJoin f acc (v, 0)) (a, 0)

/-- One level of the lane tree: lane 2^v i takes lane 2^v i + 2^(v-1); written as neighbours joining. -/
def redLevel (f : Nat) : List (Val × Nat) → List (Val × Nat)
  | a :: b :: t => redJoin f a b :: redLevel f t
  | l => l

/-- A reduction in its fixed order (R130). -/
def reduceVals (f : Nat) (vs : List Val) : Val × Nat :=
  let cols := chunks 64 (vs.length + 1) vs
  let lanes := (List.range 64).map (fun l => redLane f (cols.filterMap (fun c => (c.drop l).head?)))
  ((List.range 6).foldl (fun ls _ => redLevel f ls) lanes).headD (.zero false, 0)

/-- The values a VOP stores before its output conversion, with flags. -/
def vopVals (m : Mach) (x : Wx) : List Val × Nat :=
  let f := x.f 119 114
  let n := vopN x.w
  let fi := x.f 113 109
  let a := m.vecVals (x.ref m (x.f 78 55)).key fi n
  if vopReduces f then
    let r := reduceVals f a
    ([r.1], r.2)
  else
    let b := if !vopTakesB f then a
      else if bit x.w 91 then
        (let e := (m.vecVals (x.ref m (x.f 54 31)).key fi 1).headD (.zero false)
         List.replicate n e)
      else m.vecVals (x.ref m (x.f 54 31)).key fi n
    let d := if f = 3 then m.vecVals (x.ref m (x.f 30 7)).key (x.f 108 104) n else a
    let rs := ((a.zip b).zip d).map (fun e => vopElem f e.1.1 e.1.2 e.2)
    (rs.map Prod.fst, rs.foldl (fun acc r => acc ||| r.2) 0)

/-- What a vector or special-function word stores at `dkey`, (key, bytes) pairs, and the flags of the conversion (R57, R66, R123, R129); `unit`
pads to one 64-byte unit. -/
def vecOut (m : Mach) (x : Wx) (vs : List Val) (fo mode : Nat) (sat : Bool) (dkey : Nat) (unit : Bool) : List (Nat × List Byte) × Nat :=
  let key := m.srKeyOf x.p x.guest
  let rs := vs.zipIdx.map (fun e => rndAt key mode sat x.ctx.stream (x.ctx.ebase + e.2))
  let (els, scales, fl) := encodeStore fo rs vs
  let els := if unit then padTo 64 els else els
  ((dkey, els) :: (if scales.isEmpty then [] else [(dkey + alignUp els.length 64, scales)]), fl)

/-- The store of a vector or special-function word: conversion, write, flags, census, EBASE (R57, R66, R67, R123); a partial write
over an uncorrectable half writes nothing and faults 32h (R535). -/
def vecStore (m : Mach) (x : Wx) (vs : List Val) (fl : Nat) (fo mode : Nat) (sat cen : Bool) (tag dkey : Nat) (unit : Bool) : Mach :=
  let (ws, f2) := vecOut m x vs fo mode sat dkey unit
  match m.badWrite ws with
  | some b =>
    m.fault x.p x.core x.guest 0x32 (opcOf x.w) x.ctx.pc (if b ≥ 2 ^ 54 then (b - 2 ^ 54) % 2 ^ 23 else (b - 2 ^ 53) % 2 ^ 19)
  | none =>
    (((m.wrAll ws).setFlags x.p (fl ||| f2)).countStore x.p cen tag (chunks 32 (vs.length + 1) vs)).modCtx x.core x.guest
      (fun c => { c.bumpBase vs.length with pc := x.ctx.pc + 1 })

/-- A vector word (R128 to R130). -/
def doVop (m : Mach) (x : Wx) : Mach :=
  let r := vopVals m x
  vecStore m x r.1 r.2 (x.f 108 104) (x.f 103 102) (bit x.w 101) (bit x.w 100) (x.f 99 92) (x.ref m (x.f 30 7)).key
    (vopReduces (x.f 119 114))

/-- The row takes VOP words of one FUNC. -/
def selVop (f : Nat) (_ : Mach) (x : Wx) : Bool := opcOf x.w = 0x18 && x.f 119 114 = f

/-- VOP words of function `f`. -/
def runVop (f core : Nat) (s : State) : Result := s.step (fun m => issue m core (selVop f) checksVop stallVop doVop)

/-- VOP ADD (Table 4-14): d := a + b. -/
def execVopAdd (core : Nat) (s : State) : Result := runVop 0x00 core s

/-- VOP SUB (Table 4-14): d := a - b. -/
def execVopSub (core : Nat) (s : State) : Result := runVop 0x01 core s

/-- VOP MUL (Table 4-14): d := a x b. -/
def execVopMul (core : Nat) (s : State) : Result := runVop 0x02 core s

/-- VOP FMA (Table 4-14): d := a x b + d, fused. -/
def execVopFma (core : Nat) (s : State) : Result := runVop 0x03 core s

/-- VOP MAX (Table 4-14): d := max(a, b). -/
def execVopMax (core : Nat) (s : State) : Result := runVop 0x04 core s

/-- VOP MIN (Table 4-14): d := min(a, b). -/
def execVopMin (core : Nat) (s : State) : Result := runVop 0x05 core s

/-- VOP ABS (Table 4-14): d := |a|. -/
def execVopAbs (core : Nat) (s : State) : Result := runVop 0x06 core s

/-- VOP NEG (Table 4-14): d := -a. -/
def execVopNeg (core : Nat) (s : State) : Result := runVop 0x07 core s

/-- VOP CVT (Table 4-14): a converted to FO. -/
def execVopCvt (core : Nat) (s : State) : Result := runVop 0x08 core s

/-- VOP RSUM (Table 4-14): the sum of a in lane order. -/
def execVopRsum (core : Nat) (s : State) : Result := runVop 0x10 core s

/-- VOP RMAX (Table 4-14): the maximum of a. -/
def execVopRmax (core : Nat) (s : State) : Result := runVop 0x11 core s

/-- VOP RMIN (Table 4-14): the minimum of a. -/
def execVopRmin (core : Nat) (s : State) : Result := runVop 0x12 core s

/-- VOP RSSQ (Table 4-14): the sum of squares of a. -/
def execVopRssq (core : Nat) (s : State) : Result := runVop 0x13 core s

end Sys2Proof.Machine
end

