-- ==== Sys2Proof/Machine/Sfu.lean ====
section
/-! DEFINITION. The special-function unit: the evaluator (R155 to R159), the built-in recipes and tables computed from the exact
functions in fixed point (R160), the GELU forms (R161), user functions (R166), and the SFN words (R131). -/

namespace Sys2Proof.Machine

/-! ## Exact functions in fixed point

A real is held as a multiple of 2^-fxP. Every series below leaves an error far under the half ulp of FP32 that separates a table
entry from its rounding boundary. -/

/-- Fraction bits of the fixed-point reals. -/
def fxP : Nat := 160

def fxOne : Int := ((2 ^ fxP : Nat) : Int)

def fxMul (a b : Int) : Int := a * b / fxOne

def fxDiv (a b : Int) : Int := if b = 0 then 0 else a * fxOne / b

/-- The value of a fixed-point real, exact. -/
def fxVal (a : Int) : Val := .fin (a < 0) a.natAbs (-(fxP : Int))

/-- Integer square root by Newton's steps from above; `fuel` steps suffice for numbers below 2^(2 fuel). -/
def isqrt : Nat → Nat → Nat → Nat
  | 0, _, x => x
  | fuel + 1, n, x =>
    let y := (x + n / x) / 2
    if y < x then isqrt fuel n y else x

def fxSqrt (a : Int) : Int := ((isqrt 400 (a.toNat * 2 ^ fxP) (2 ^ (fxP + 4)) : Nat) : Int)

/-- e^x for a fixed-point x: the Taylor sum of x / 2^8, squared eight times. -/
def fxExp (x : Int) : Int :=
  let r := x / 256
  let s := (List.range 40).foldl (fun (st : Int × Int) (i : Nat) =>
    let t := fxMul st.2 r / ((i : Int) + 1)
    (st.1 + t, t)) (fxOne, fxOne)
  (List.range 8).foldl (fun y _ => fxMul y y) s.1

/-- ln 2 = sum of 1 / (k 2^k). -/
def fxLn2 : Int := (List.range 170).foldl (fun s i => s + fxOne / (((i + 1) * 2 ^ (i + 1) : Nat) : Int)) 0

/-- ln x for 1 <= x <= 2: twice the series of artanh((x - 1) / (x + 1)). -/
def fxLn (x : Int) : Int :=
  let z := fxDiv (x - fxOne) (x + fxOne)
  let z2 := fxMul z z
  let s := (List.range 60).foldl (fun (st : Int × Int) i =>
    (st.1 + st.2 / ((2 * i + 1 : Nat) : Int), fxMul st.2 z2)) (0, z)
  2 * s.1

/-- 2^(i/256). -/
def fxExp2 (i : Nat) : Int := fxExp (fxLn2 * (i : Int) / 256)

/-- pi by Machin's formula, for the derivative of erf. -/
def fxAtanInv (n : Nat) : Int :=
  (List.range 130).foldl (fun s i =>
    let t : Int := fxOne / (((2 * i + 1) * n ^ (2 * i + 1) : Nat) : Int)
    if i % 2 = 0 then s + t else s - t) 0

def fxPi : Int := 4 * (4 * fxAtanInv 5 - fxAtanInv 239)

/-- tanh x for x >= 0. -/
def fxTanh (x : Int) : Int :=
  let e := fxExp (-(2 * x))
  fxDiv (fxOne - e) (fxOne + e)

/-- The logistic function for x >= 0. -/
def fxSigmoid (x : Int) : Int := fxDiv fxOne (fxOne + fxExp (-x))

/-- erf x for 0 <= x <= 4: (2 / sqrt pi) e^(-x^2) times the sum of 2^n x^(2n+1) / (2n+1)!!. -/
def fxErf (x : Int) : Int :=
  let x2 := fxMul x x
  let s := (List.range 160).foldl (fun (st : Int × Int) i =>
    (st.1 + st.2, 2 * fxMul st.2 x2 / ((2 * i + 3 : Nat) : Int))) (0, x)
  fxMul (fxDiv (2 * fxOne) (fxSqrt fxPi)) (fxMul (fxExp (-x2)) s.1)

/-- F and its derivative for the functions of the Hermite row (Table 5-5): 4 tanh, 5 sigmoid, 6 erf. -/
def fxF (f : Nat) (x : Int) : Int := if f = 4 then fxTanh x else if f = 5 then fxSigmoid x else fxErf x

def fxDF (f : Nat) (x : Int) : Int :=
  if f = 4 then (let t := fxTanh x
                 fxOne - fxMul t t)
  else if f = 5 then (let s := fxSigmoid x
                      fxMul s (fxOne - s))
  else fxMul (fxDiv (2 * fxOne) (fxSqrt fxPi)) (fxExp (-(fxMul x x)))

/-- RNE to FP32 of a ratio of integers: forty guard digits are enough to tell a tie, and an exact ratio stays exact. -/
def ratio32 (a b : Nat) (neg : Bool) : Nat :=
  let q := a * 2 ^ 400 / b
  let sticky := if a * 2 ^ 400 % b = 0 then 0 else 1
  rne32 (.fin neg (2 * q + sticky) (-401))

/-! ## Recipes -/

/-- A function's recipe (Table 5-4, Table 5-8). -/
structure Recipe where
  red : Nat
  sym : Nat
  s1 : Nat
  s2 : Nat
  rec' : Nat
  sc : Nat
  off : Nat
  below : Nat
  above : Nat
  rnan : Nat
  rninf : Nat
  rpinf : Nat
  rnz : Nat
  rpz : Nat
  deriving DecidableEq, Repr

def nan32 : Nat := 0x7FC00000

/-- The built-in recipes (Table 5-4); a result the table marks as never reached holds NaN. -/
def builtin : Nat → Recipe
  | 0 => ⟨3, 0, 0, 0, 1, 0, 0, 0, 0x7F800000, nan32, 0, 0x7F800000, 0x3F800000, 0x3F800000⟩
  | 1 => ⟨1, 0, 0, 0, 4, 0, 0, nan32, nan32, nan32, nan32, 0x7F800000, 0xFF800000, 0xFF800000⟩
  | 2 => ⟨1, 1, 1, 1, 2, 0, 0, nan32, nan32, nan32, 0x80000000, 0, 0xFF800000, 0x7F800000⟩
  | 3 => ⟨2, 0, 2, 2, 3, 0, 0, nan32, nan32, nan32, nan32, 0, 0xFF800000, 0x7F800000⟩
  | 4 => ⟨0, 1, 0, 0, 0, 0x41CCCCCD, 0, nan32, 0x3F800000, nan32, 0xBF800000, 0x3F800000, 0x80000000, 0⟩
  | 5 => ⟨0, 2, 0, 0, 0, 0x414CCCCD, 0, nan32, 0x3F800000, nan32, 0, 0x3F800000, 0x3F000000, 0x3F000000⟩
  | _ => ⟨0, 1, 0, 0, 0, 0x42800000, 0, nan32, 0x3F800000, nan32, 0xBF800000, 0x3F800000, 0x80000000, 0⟩

/-- Entry `i` of a built-in table as FP32 bits (Table 5-5). -/
def builtinEntry (f i : Nat) : List Nat :=
  let r (v : Int) : Nat := rne32 (fxVal v)
  if f = 0 then
    let a := fxExp2 i
    let d := fxLn2 / 256
    let a1 := fxMul a d
    let a2 := fxMul a1 d
    [r a, r a1, r (a2 / 2), r (fxMul a2 d / 6)]
  else if f = 1 then
    let c0 := fxDiv (fxLn (fxOne + fxOne * (i : Int) / 256)) fxLn2
    let q := fxOne / ((256 + i : Nat) : Int)
    let q2 := fxMul q q
    [r c0, r (fxDiv q fxLn2), r (-(fxDiv q2 (2 * fxLn2))), r (fxDiv (fxMul q2 q) (3 * fxLn2))]
  else if f = 2 then
    [ratio32 256 (256 + i) false, ratio32 256 ((256 + i) * (257 + i)) true, 0, 0]
  else if f = 3 then
    let w (n : Nat) : Int := if n = 256 then 4 * fxOne else 2 ^ (n / 128) * (fxOne + fxOne * ((n % 128 : Nat) : Int) / 128)
    let g (n : Nat) : Int := fxDiv fxOne (fxSqrt (w n))
    [r (g i), r (g (i + 1) - g i), 0, 0]
  else
    let sc := val32 (builtin f).sc
    let scFx := (sc.scale fxP).intAt 0
    let x (n : Nat) : Int := fxDiv ((n : Int) * fxOne) scFx
    let h := fxDiv fxOne scFx
    let f0 := fxF f (x i)
    let f1 := fxF f (x (i + 1))
    let d0 := fxDF f (x i)
    let d1 := fxDF f (x (i + 1))
    [r f0, r (fxMul h d0), r (3 * (f1 - f0) - fxMul h (2 * d0 + d1)), r (2 * (f0 - f1) + fxMul h (d0 + d1))]

/-! ## The evaluator -/

/-- fma, product and sum in FP32 with one RNE rounding. -/
def fma32 (a b c : Val) : Val := round32 (addV (mulV a b) c)
def mul32 (a b : Val) : Val := round32 (mulV a b)
def add32 (a b : Val) : Val := round32 (addV a b)

def one32 : Val := .fin false 1 0
def half32 : Val := .fin false 1 (-1)

/-- Exponent and the 24-bit significand of a finite non-zero FP32 value, normalised (R156). -/
def normParts (v : Val) : Int × Nat :=
  match v with
  | .fin _ m e => (e + bitLen m - 1, m * 2 ^ (24 - bitLen m))
  | _ => (0, 0)

/-- Floor of a finite value. -/
def floorV : Val → Int
  | .fin n m e =>
    let t : Int := if e ≥ 0 then (m * 2 ^ e.toNat : Nat) else (m / 2 ^ (-e).toNat : Nat)
    if n then (if e < 0 && m % 2 ^ (-e).toNat ≠ 0 then -t - 1 else -t) else t
  | _ => 0

/-- What an argument reduction gives (Table 5-1). -/
inductive Reduced where
  | below
  | above
  | at (i : Nat) (f r : Val) (k : Int)
  deriving DecidableEq, Repr

def reduceArg (rc : Recipe) (x : Val) : Reduced :=
  let neg := x.neg?
  if rc.red = 0 then
    let u := fma32 x (val32 rc.sc) (val32 rc.off)
    if u.neg? && !u.isZero then .below
    else if u.isInf || u.isNan || cmpVal u (.fin false 256 0) ≥ 0 then .above
    else
      let i := (floorV u).toNat
      .at i (addV u (Val.ofInt (i : Int)).negate) x 0
  else if rc.red = 1 then
    if neg then .below
    else
      let (e, m) := normParts x
      let fr := m % 2 ^ 23
      .at (fr / 2 ^ 15) (.fin false (fr % 2 ^ 15) (-15)) (.fin false m (-23)) e
  else if rc.red = 2 then
    if neg then .below
    else
      let (e, m) := normParts x
      let p := (e % 2).toNat
      let fr := m % 2 ^ 23
      .at (128 * p + fr / 2 ^ 16) (.fin false (fr % 2 ^ 16) (-16)) (.fin false m (-23 + (p : Int))) (e - p)
  else
    if cmpVal x (.fin true 150 0) < 0 then .below
    else if cmpVal x (.fin false 128 0) ≥ 0 then .above
    else
      let k := floorV x
      let g := addV x (Val.ofInt k).negate
      let g256 := g.scale 8
      let i := (floorV g256).toNat
      .at i (addV g256 (Val.ofInt (i : Int)).negate) x k

/-- A refinement step (Table 5-2). -/
def refineStep (code : Nat) (y r : Val) : Val :=
  if code = 1 then fma32 y (fma32 r.negate y one32) y
  else if code = 2 then
    let h := mul32 y y
    let e := fma32 r.negate h one32
    fma32 (mul32 half32 y) e y
  else y

/-- A rebuild (Table 5-3). -/
def rebuild (code : Nat) (y : Val) (k : Int) : Val :=
  if code = 1 then round32 (y.scale k)
  else if code = 2 then round32 (y.scale (-k))
  else if code = 3 then round32 (y.scale (-(k / 2)))
  else if code = 4 then add32 y (Val.ofInt k)
  else y

/-- The cubic seed of an entry at fraction `f` (R155). -/
def seedAt (e : List Nat) (f : Val) : Val :=
  let c (n : Nat) : Val := val32 (e.getD n 0)
  fma32 f (fma32 f (fma32 f (c 3) (c 2)) (c 1)) (c 0)

/-- sfu_eval of R155, with the table's entries as a function of the index. -/
def sfuEval (rc : Recipe) (entry : Nat → List Nat) (x : Val) : Val :=
  match x with
  | .nan => val32 rc.rnan
  | .inf true => val32 rc.rninf
  | .inf false => val32 rc.rpinf
  | .fin neg m e =>
    if m = 0 then val32 (if neg then rc.rnz else rc.rpz)
    else
      let x' : Val := if rc.sym ≠ 0 then .fin false m e else .fin neg m e
      let y := match reduceArg rc x' with
        | .below => val32 rc.below
        | .above => val32 rc.above
        | .at i f r k =>
          let y0 := seedAt (entry i) f
          rebuild rc.rec' (refineStep rc.s2 (refineStep rc.s1 y0 r) r) k
      if neg && rc.sym = 1 then y.negate
      else if neg && rc.sym = 2 then add32 one32 y.negate
      else y

/-- The table entry that an evaluation reads: none for a special input or an argument outside the domain (R155). -/
def sfuIndex (rc : Recipe) (x : Val) : Option Nat :=
  match x with
  | .fin neg m e =>
    if m = 0 then none
    else match reduceArg rc (if rc.sym ≠ 0 then .fin false m e else .fin neg m e) with
      | .at i _ _ _ => some i
      | _ => none
  | _ => none

/-- The built-in evaluation of FUNC 00h to 06h. -/
def sfuBuiltin (f : Nat) (x : Val) : Val := sfuEval (builtin f) (builtinEntry f) x

/-- The special inputs of the two GELU forms (R161). -/
def geluSpecial : Val → Option Val
  | .nan => some .nan
  | .inf true => some (.zero true)
  | .inf false => some (.inf false)
  | .fin n m _ => if m = 0 then some (.zero n) else none

/-- GELU, erf form (R161). -/
def geluErf (x : Val) : Val :=
  match geluSpecial x with
  | some v => v
  | none =>
    let t := mul32 x (val32 0x3F3504F3)
    mul32 x (fma32 half32 (sfuBuiltin 6 t) half32)

/-- GELU, tanh form (R161). -/
def geluTanh (x : Val) : Val :=
  match geluSpecial x with
  | some v => v
  | none =>
    let v := fma32 (mul32 x x) (val32 0x3D372713) one32
    let u := mul32 (mul32 x (val32 0x3F4C422A)) v
    mul32 x (fma32 half32 (sfuBuiltin 4 u) half32)

/-- The flags of a special function on one element (R159). -/
def sfuFlags (x y : Val) : Nat :=
  if x.isNan then 0
  else if y.isNan then flInvalid
  else if x.isInf || x.isZero then 0
  else if y.isInf then flOverflow
  else if y.isZero then flUnderflow
  else 0

/-! ## User functions -/

/-- The recipe in a function-table header (Table 5-8). -/
def recipeOf (h : List Byte) : Recipe :=
  ⟨leAt h 5 1, leAt h 6 1, leAt h 7 1 % 16, leAt h 7 1 / 16, leAt h 8 1, leAt h 12 4, leAt h 16 4, leAt h 20 4, leAt h 24 4,
   leAt h 28 4, leAt h 32 4, leAt h 36 4, leAt h 40 4, leAt h 44 4⟩

/-- Key of the entries of user function `u` in a core's local memory (R166, R408). -/
def Mach.funcKey (m : Mach) (p core : Nat) (guest : Bool) (u : Nat) : Nat :=
  localKey core ((if guest then m.glb p + m.gl p else 524288) - 4096 * (u + 1))

/-- Entry `i` of a user table as it lies in local memory (R164, R166). -/
def Mach.userEntry (m : Mach) (key i : Nat) : List Nat := (List.range 4).map (fun n => m.rdNat (key + 16 * i + 4 * n) 4)

/-! ## SFN words -/

def sfnN (w : Nat) : Nat := 64 * (fld w 92 81 + 1)

/-- The table reads of an SFN word of a user function, element by element (R155, R167). -/
def sfnReads (m : Mach) (x : Wx) : List (Nat × Nat) :=
  let u := x.f 119 115 - 0x10
  match x.pk.funcs.get? u with
  | none => []
  | some h => (m.vecVals (x.ref m (x.f 80 57)).key (x.f 114 110) (sfnN x.w)).filterMap (fun v =>
      (sfuIndex (recipeOf h) v).map (fun i => (m.funcKey x.p x.core x.guest u + 16 * i, 16)))

def checksSfn (m : Mach) (x : Wx) : List (Nat × Nat) :=
  let f := x.f 119 115
  let fi := x.f 114 110
  let fo := x.f 109 105
  let n := sfnN x.w
  genFaults x.w [(119, 33)] ++ badField 4 103 (x.f 104 103 = 3) ++ badField 4 110 (fi ≥ 16) ++ badField 4 105 (fo ≥ 16) ++
  mustZero x.w 100 93 (!bit x.w 101) ++ refFaults (x.f 80 57) 57 [] ++ refFaults (x.f 56 33) 33 [] ++
  (if fi ≤ 4 && vecFo fo then [] else [(0x30, fi + fo * 256)]) ++
  (if f ≥ 0x10 && (x.pk.funcs.get? (f - 0x10)).isNone then [(0x33, f)] else []) ++
  vecFaults m x [(x.f 80 57, vecBytes fi n)] (x.f 56 33) (vecBytes fo n) ++
  (if f ≥ 0x10 then
    (match m.badRead (sfnReads m x) with
     | some b => [(0x32, (b - 2 ^ 53) % 2 ^ 19)]
     | none => []) else [])

def stallSfn (m : Mach) (x : Wx) : Bool :=
  let n := sfnN x.w
  x.stalls m [((x.ref m (x.f 80 57)).key, vecBytes (x.f 114 110) n)] [((x.ref m (x.f 56 33)).key, vecBytes (x.f 109 105) n)]

/-- The value a FUNC gives an element. -/
def sfnElem (m : Mach) (x : Wx) (v : Val) : Val :=
  let f := x.f 119 115
  if f ≤ 6 then sfuBuiltin f v
  else if f = 7 then geluErf v
  else if f = 8 then geluTanh v
  else
    match x.pk.funcs.get? (f - 0x10) with
    | some h => sfuEval (recipeOf h) (m.userEntry (m.funcKey x.p x.core x.guest (f - 0x10))) v
    | none => .nan

/-- The values an SFN word stores before its output conversion, with flags (R155, R159). -/
def sfnVals (m : Mach) (x : Wx) : List Val × Nat :=
  let a := m.vecVals (x.ref m (x.f 80 57)).key (x.f 114 110) (sfnN x.w)
  let ys := a.map (sfnElem m x)
  (ys, (a.zip ys).foldl (fun acc e => acc ||| sfuFlags e.1 e.2) 0)

/-- A special-function word (R131, R155). -/
def doSfn (m : Mach) (x : Wx) : Mach :=
  let r := sfnVals m x
  vecStore m x r.1 r.2 (x.f 109 105) (x.f 104 103) (bit x.w 102) (bit x.w 101) (x.f 100 93) (x.ref m (x.f 56 33)).key false

/-- The row takes SFN words of one FUNC, or of a range. -/
def selSfn (lo hi : Nat) (_ : Mach) (x : Wx) : Bool := opcOf x.w = 0x20 && lo ≤ x.f 119 115 && x.f 119 115 ≤ hi

/-- SFN words whose FUNC lies from `lo` to `hi`. -/
def runSfn (lo hi core : Nat) (s : State) : Result := s.step (fun m => issue m core (selSfn lo hi) checksSfn stallSfn doSfn)

/-- SFN (Table 4-15): exp2. -/
def execSfnExp2 (core : Nat) (s : State) : Result := runSfn 0x00 0x00 core s

/-- SFN (Table 4-15): log2. -/
def execSfnLog2 (core : Nat) (s : State) : Result := runSfn 0x01 0x01 core s

/-- SFN (Table 4-15): reciprocal. -/
def execSfnReciprocal (core : Nat) (s : State) : Result := runSfn 0x02 0x02 core s

/-- SFN (Table 4-15): reciprocal square root. -/
def execSfnRsqrt (core : Nat) (s : State) : Result := runSfn 0x03 0x03 core s

/-- SFN (Table 4-15): tanh. -/
def execSfnTanh (core : Nat) (s : State) : Result := runSfn 0x04 0x04 core s

/-- SFN (Table 4-15): sigmoid. -/
def execSfnSigmoid (core : Nat) (s : State) : Result := runSfn 0x05 0x05 core s

/-- SFN (Table 4-15): erf. -/
def execSfnErf (core : Nat) (s : State) : Result := runSfn 0x06 0x06 core s

/-- SFN (Table 4-15): GELU, erf form (R161). -/
def execSfnGeluErf (core : Nat) (s : State) : Result := runSfn 0x07 0x07 core s

/-- SFN (Table 4-15): GELU, tanh form (R161). -/
def execSfnGeluTanh (core : Nat) (s : State) : Result := runSfn 0x08 0x08 core s

/-- SFN (Table 4-15): user functions U0 to U15 (R131, R166). -/
def execSfnUserFunction (core : Nat) (s : State) : Result := runSfn 0x10 0x1F core s

end Sys2Proof.Machine
end

