-- ==== Sys2Proof/Machine/Dma.lean ====
section
/-! DEFINITION. Data movement inside the module: LDMA (R134), the CDMA shapes (R135, R168 to R193, R213, R214), fill-window posts
(R98, R138, R200), and the ends of outstanding operations (R133, R139). -/

namespace Sys2Proof.Machine

/-! ## What an operation reads and writes, piece by piece -/

/-- One piece of an operation: what it reads, the bytes it writes at a key, and the arithmetic flags it sets. -/
structure Piece where
  reads : List (Nat × Nat)
  key : Nat
  bytes : List Byte
  fl : Nat

/-- An operation's pieces in the order it makes them. -/
structure Moved where
  pieces : List Piece

def Moved.reads (mv : Moved) : List (Nat × Nat) := mv.pieces.flatMap Piece.reads

def Moved.writes (mv : Moved) : List (Nat × List Byte) := mv.pieces.map (fun x => (x.key, x.bytes))

/-- Every range that the pieces read or write. -/
def Moved.spans (mv : Moved) : List (Nat × Nat) := mv.reads ++ mv.pieces.map (fun x => (x.key, x.bytes.length))

def Moved.flags (mv : Moved) : Nat := mv.pieces.foldl (fun a x => a ||| x.fl) 0

/-- The first `n` pieces. -/
def Moved.first (mv : Moved) (n : Nat) : Moved := { pieces := mv.pieces.take n }

/-- The uncorrectable half a piece meets: on its read, or on the read of a read-modify-write (R139, R535). -/
def Mach.badPiece (m : Mach) (x : Piece) : Option Nat := (m.badRead x.reads).or (m.badWrite [(x.key, x.bytes)])

/-- The first piece that meets an uncorrectable half, and that half's key. -/
def Mach.badPieceOf (m : Mach) (mv : Moved) : Option (Nat × Nat) :=
  mv.pieces.zipIdx.findSome? (fun x => (m.badPiece x.1).map (fun b => (x.2, b)))

/-- A copy descends when its regions overlap and the destination lies above (Table 7-10). -/
def copyDescends (s sp d dp rows rlen : Nat) : Bool :=
  overlap (s, (rows - 1) * sp + rlen) (d, (rows - 1) * dp + rlen) && s ≤ d && sp ≤ dp && !(d ≤ s && dp ≤ sp)

/-- A copy's 64-byte units as (source, destination) keys, in the order of Table 7-10. -/
def copyUnits (s sp d dp rows rlen : Nat) : List (Nat × Nat) :=
  let us := (List.range rows).flatMap (fun r => (List.range (rlen / 64)).map (fun u => (s + r * sp + 64 * u, d + r * dp + 64 * u)))
  if copyDescends s sp d dp rows rlen then us.reverse else us

def Moved.ofCopies (m : Mach) (cs : List (Nat × Nat × Nat)) : Moved :=
  { pieces := cs.map (fun c => { reads := [(c.1, c.2.2)], key := c.2.1, bytes := m.rd c.1 c.2.2, fl := 0 }) }

/-! ### Shape fields (Tables 7-7 and 7-8) -/

def shH (sh : List Byte) : Nat := leAt sh 4 2
def shW (sh : List Byte) : Nat := leAt sh 6 2
def shC (sh : List Byte) : Nat := leAt sh 8 4
def shG (sh : List Byte) : Nat := leAt sh 12 4
def shF (sh : List Byte) (n : Nat) : Nat := leAt sh (20 + n) 1
def shPad (sh : List Byte) (n : Nat) : Nat := leAt sh (26 + n) 1
def shZ (sh : List Byte) : Bool := bit (leAt sh 2 1) 0

/-- OH and OW (R180). -/
def outSide (n p0 p1 dil f str : Nat) : Nat :=
  if n + p0 + p1 < dil * (f - 1) + 1 then 0 else (n + p0 + p1 - dil * (f - 1) - 1) / str + 1

def shOH (sh : List Byte) : Nat := outSide (shH sh) (shPad sh 0) (shPad sh 1) (shF sh 4) (shF sh 0) (shF sh 2)
def shOW (sh : List Byte) : Nat := outSide (shW sh) (shPad sh 2) (shPad sh 3) (shF sh 5) (shF sh 1) (shF sh 3)

/-- The input position of a tap at an output pixel, when it is not padding (R180). -/
def tapAt (sh : List Byte) (y x fh fw : Nat) : Option (Nat × Nat) :=
  let r : Int := (y * shF sh 2 + fh * shF sh 4 : Nat) - (shPad sh 0 : Int)
  let c : Int := (x * shF sh 3 + fw * shF sh 5 : Nat) - (shPad sh 2 : Int)
  if 0 ≤ r ∧ r < shH sh ∧ 0 ≤ c ∧ c < shW sh then some (r.toNat, c.toNat) else none

/-- Bits of element `i` of a dense map, and the bytes that hold it (R179). -/
def denseElem (m : Mach) (base fmt i : Nat) : Nat × (Nat × Nat) :=
  let w := widthOf fmt
  let a := base + i * w / 8
  let n := cdiv (i * w % 8 + w) 8
  ((m.rdNat a n >>> (i * w % 8)) % 2 ^ w, (a, n))

/-- Mask of the compressed group in a slot, and the bytes fetched from it (R187). -/
def slotFetch (m : Mach) (slot e : Nat) : Nat × Nat :=
  let mask := m.rdNat slot 8
  (mask, 32 * cdiv (8 + e * popcount 64 mask) 32)

/-- Bits of element `i` of a zero-compressed map, and the bytes fetched for its group (R187, R189). -/
def packedElem (m : Mach) (base fmt i : Nat) : Nat × (Nat × Nat) :=
  let e := widthOf fmt / 8
  let slot := base + i / 64 * slotBytes e
  let f := slotFetch m slot e
  let j := i % 64
  (if bit f.1 j then m.rdNat (slot + 8 + e * popcount j f.1) e else 0, (slot, f.2))

def mapElem (m : Mach) (base fmt : Nat) (z : Bool) (i : Nat) : Nat × (Nat × Nat) :=
  if z then packedElem m base fmt i else denseElem m base fmt i

/-- The element index of A(P, k) of a group, when it is no padding (R180, R183). -/
def windowElem (sh : List Byte) (grp pix k : Nat) : Option Nat :=
  let cg := shC sh / shG sh
  let kg := shF sh 0 * shF sh 1 * cg
  if pix ≥ shOH sh * shOW sh || k ≥ kg then none
  else
    let tap := k / cg
    (tapAt sh (pix / shOW sh) (pix % shOW sh) (tap / shF sh 1) (tap % shF sh 1)).map
      (fun q => (q.1 * shW sh + q.2) * shC sh + grp * cg + k % cg)

/-- The window gather: one A block of 64 rows and KL steps (R183, R185). -/
def movedWindow (m : Mach) (src dst : Nat) (sh : List Byte) (p0 grp k0 : Nat) : Moved :=
  let fmt := leAt sh 1 1
  let w := widthOf fmt
  let kl := 64 * (leAt sh 30 2 + 1)
  let z := shZ sh
  let el (i j : Nat) : Option Nat := windowElem sh grp (p0 + i) (k0 + j)
  let rows := (List.range (kl / 64)).flatMap (fun p => (List.range 64).map (fun i => (p, i)))
  let scBase := src + alignUp (shH sh * shW sh * shC sh * w / 8) 64
  let els : List Piece := rows.map (fun r =>
    let es := (List.range 64).map (fun j => el r.2 (64 * r.1 + j))
    { reads := (es.filterMap (fun e => e.map (fun e => (mapElem m src fmt z e).2))).dedup,
      key := dst + (64 * r.1 + r.2) * 8 * w,
      bytes := packElems w (es.map (fun e => match e with
        | some e => (mapElem m src fmt z e).1
        | none => 0)), fl := 0 })
  let scs : List Piece := if isMx fmt then rows.map (fun r =>
      let es := (List.range 2).map (fun b => el r.2 (64 * r.1 + 32 * b))
      { reads := es.filterMap (fun e => e.map (fun e => (scBase + e / 32, 1))),
        key := dst + 8 * kl * w + 128 * r.1 + 2 * r.2,
        bytes := es.flatMap (fun e => match e with
          | some e => m.rd (scBase + e / 32) 1
          | none => zeros 1), fl := 0 }) else []
  { pieces := els ++ scs }

/-- One output of a pooling window with its flags (R193). -/
def poolOut (vs : List Val) (op taps : Nat) : Val × Nat :=
  if op = 0 then
    match vs with
    | [] => (.zero false, 0)
    | a :: t => (t.foldl maxV (if a.isNan then .nan else a), 0)
  else
    let s := vs.foldl (fun (acc : Val × Nat) v =>
      let r := fpRes (addV acc.1 v) (acc.1.isNan || v.isNan)
      (r.1, acc.2 ||| r.2)) (.zero false, 0)
    let n := if op = 1 then taps else vs.length
    let r := fpRes (mulV s.1 (val32 (ratio32 1 n false))) s.1.isNan
    (r.1, s.2 ||| r.2)

/-- The pooling block: up to 64 output pixels of CL channels, a piece a pixel, with its flags (R192, R193). An output conversion with RND = 10b
takes its random word from a free function of the entry and the output's inputs: the spec gives a CDMA word no stream (log entry 17,
DEDUCED). -/
def movedPool (m : Mach) (src dst : Nat) (sh : List Byte) (p0 c0 : Nat) : Moved :=
  let fi := leAt sh 1 1
  let fo := leAt sh 3 1
  let cl := 64 * (leAt sh 30 2 + 1)
  let z := shZ sh
  let taps := shF sh 0 * shF sh 1
  let pix := (List.range 64).filter (fun i => p0 + i < shOH sh * shOW sh)
  let idxOf (i c : Nat) : List Nat := (List.range taps).filterMap (fun t =>
    (tapAt sh ((p0 + i) / shOW sh) ((p0 + i) % shOW sh) (t / shF sh 1) (t % shF sh 1)).map
      (fun q => (q.1 * shW sh + q.2) * shC sh + c0 + c))
  let r (ins : List Nat) (n : Nat) : Rnd :=
    { mode := fld (leAt sh 36 1) 1 0, sat := bit (leAt sh 36 1) 2, u := Config.poolWord sh ins n % 2 ^ 32 }
  { pieces := pix.map (fun i =>
      let outs := (List.range cl).map (fun c =>
        let ins := (idxOf i c).map (fun e => (mapElem m src fi z e).1)
        let a := poolOut (ins.map (decodeE fi)) (leAt sh 35 1) taps
        let b := convertE fo (r ins ((p0 + i) * shC sh + c0 + c)) a.1
        (b.1, a.2 ||| b.2))
      { reads := ((List.range cl).flatMap (fun c => (idxOf i c).map (fun e => (mapElem m src fi z e).2))).dedup,
        key := dst + i * (cl * widthOf fo / 8), bytes := packElems (widthOf fo) (outs.map Prod.fst),
        fl := outs.foldl (fun a e => a ||| e.2) 0 }) }

/-- The combine of row statistics, a piece a row, with its flags (R168, R169). -/
def movedCombine (m : Mach) (src dst : Nat) (sh : List Byte) : Moved :=
  let c := leAt sh 5 1
  let nr := leAt sh 6 1
  let sstr := leAt sh 8 4
  let at' (k j : Nat) : Nat := src + (k * sstr + j) * 64
  { pieces := (List.range nr).map (fun j =>
    let v (k : Nat) : Val := val32 (m.rdNat (at' k j) 4)
    let r := (List.range (c - 1)).foldl (fun (acc : Val × Nat) k =>
      if leAt sh 4 1 = 0 then (maxV acc.1 (v (k + 1)), acc.2)
      else
        let s := fpRes (addV acc.1 (v (k + 1))) (acc.1.isNan || (v (k + 1)).isNan)
        (s.1, acc.2 ||| s.2)) (v 0, 0)
    { reads := (List.range c).map (fun k => (at' k j, 64)), key := dst + j * 64, bytes := padTo 64 (leBytes 4 (rne32 r.1)), fl := r.2 }) }

/-- One packed slot's bytes (R187). -/
def packSlot (e : Nat) (els : List Nat) : List Byte :=
  let mask := els.zipIdx.foldl (fun a x => if x.1 = 0 then a else a + 2 ^ x.2) 0
  let b := leBytes 8 mask ++ (els.filter (· ≠ 0)).flatMap (leBytes e)
  padTo (alignUp b.length 32) b

def movedZpack (m : Mach) (src dst fmt ng : Nat) : Moved :=
  let e := widthOf fmt / 8
  { pieces := (List.range ng).map (fun n =>
      { reads := [(src + n * 64 * e, 64 * e)], key := dst + n * slotBytes e,
        bytes := packSlot e (unpackElems (8 * e) 64 (m.rd (src + n * 64 * e) (64 * e))), fl := 0 }) }

def movedZunpack (m : Mach) (src dst fmt ng : Nat) : Moved :=
  let e := widthOf fmt / 8
  { pieces := (List.range ng).map (fun n =>
      { reads := [(src + n * slotBytes e, (slotFetch m (src + n * slotBytes e) e).2)], key := dst + n * 64 * e,
        bytes := packElems (8 * e) ((List.range 64).map (fun i => (packedElem m src fmt (64 * n + i)).1)), fl := 0 }) }

/-- The row of a post as it goes into slot `slot` of a window's buffer at `base`: the elements of 64 K-steps at a time, and their scale bytes
(R98, R200). -/
def movedPost (m : Mach) (fmt k base slot src : Nat) : Moved :=
  let wd := widthOf fmt
  { pieces := (List.range (k / 64)).flatMap (fun q =>
      ({ reads := [(src + q * 8 * wd, 8 * wd)], key := base + (64 * q + slot) * 8 * wd, bytes := m.rd (src + q * 8 * wd) (8 * wd), fl := 0 } : Piece) ::
        (if isMx fmt then
          let sc := src + alignUp (k * wd / 8) 64 + 2 * q
          [{ reads := [(sc, 2)], key := base + 8 * k * wd + 128 * q + 2 * slot, bytes := m.rd sc 2, fl := 0 }]
         else [])) }

/-- What an outstanding operation moves. A post moves when it is accepted (FW_POST_ACCEPT), an RDMA by its packets. -/
def DmaPlan.moved (m : Mach) : DmaPlan → Moved
  | .copy s d sp dp rows rlen => Moved.ofCopies m ((copyUnits s sp d dp rows rlen).map (fun u => (u.1, u.2, 64)))
  | .window s d sh p0 g k0 => movedWindow m s d sh p0 g k0
  | .pool s d sh p0 c0 => movedPool m s d sh p0 c0
  | .combine s d sh => movedCombine m s d sh
  | .zpack s d f n => movedZpack m s d f n
  | .zunpack s d f n => movedZunpack m s d f n
  | .gather _ _ segs =>
    { pieces := segs.map (fun t => match t.1 with
        | some s => { reads := [(s, t.2.2)], key := t.2.1, bytes := m.rd s t.2.2, fl := 0 }
        | none => { reads := [], key := t.2.1, bytes := zeros t.2.2, fl := 0 }) }
  | .post _ _ _ _ _ _ => { pieces := [] }
  | .remote _ _ _ _ => { pieces := [] }

/-- The counters of 6380h + p that pieces of an operation move on: groups written, and the bytes fetched of each compressed group once (R184,
R195). -/
def Mach.countMoved (m : Mach) (p : Nat) (pl : DmaPlan) (mv : Moved) : Mach :=
  let fetched := mv.reads.dedup.foldl (fun a r => a + r.2) 0
  match pl with
  | .zpack _ _ _ _ =>
    ((m.addObj (0x6380 + p) 1 mv.pieces.length).addObj (0x6380 + p) 2 (mv.writes.foldl (fun a w => a + w.2.length) 0)).addObj (0x6380 + p) 3
      (mv.writes.countP (fun w => leAt w.2 0 8 = 0))
  | .window _ _ sh _ _ _ => if shZ sh then m.addObj (0x6380 + p) 4 fetched else m
  | .pool _ _ sh _ _ => if shZ sh then m.addObj (0x6380 + p) 4 fetched else m
  | _ => m

/-! ## Issue -/

/-- Queue an outstanding operation and go on (R133). -/
def Mach.launch (m : Mach) (x : Wx) (plan : DmaPlan) (mk : Option Nat) : Mach :=
  m.modCtx x.core x.guest (fun c =>
    { c with dma := c.dma ++ [{ word := BitVec.ofNat 128 x.w, pc := x.ctx.pc, plan := plan, marker := mk }], pc := c.pc + 1 })

/-- A ninth outstanding operation stalls (R133). -/
def Wx.full (x : Wx) : Bool := x.ctx.dma.length ≥ 8

def stallPlan (m : Mach) (x : Wx) (plan : DmaPlan) : Bool := x.full || x.stalls m plan.reads plan.writes

def refRange (m : Mach) (x : Wx) (r n side : Nat) : List (Nat × Nat) :=
  if (refKind r).isSome then []
  else (let a := x.ref m r
        if a.inside n then [] else [(0x10, info10 side a.eff)])

/-- The completion marker of a word: MKEN and MK (R133). -/
def Wx.mkOf (x : Wx) (m : Mach) (en hi lo : Nat) : Option Nat := if bit x.w en then some (m.absMk x.p (x.f hi lo)) else none

def mkChecks (m : Mach) (x : Wx) (en hi lo : Nat) : List (Nat × Nat) :=
  if bit x.w en then mkFaults m x (x.f hi lo) else mustZero x.w hi lo true

/-! ### LDMA -/

def ldmaLen (w : Nat) : Nat := 64 * (fld w 71 56 + 1)

def checksLdma (m : Mach) (x : Wx) : List (Nat × Nat) :=
  genFaults x.w [(119, 39)] ++ refFaults (x.f 119 96) 96 [] ++ refFaults (x.f 95 72) 72 [] ++ mkChecks m x 55 54 39 ++
  refRange m x (x.f 119 96) (ldmaLen x.w) 0 ++ refRange m x (x.f 95 72) (ldmaLen x.w) 1

def planLdma (m : Mach) (x : Wx) : DmaPlan :=
  .copy (x.ref m (x.f 119 96)).key (x.ref m (x.f 95 72)).key 0 0 1 (ldmaLen x.w)

def doLdma (m : Mach) (x : Wx) : Mach := m.launch x (planLdma m x) (x.mkOf m 55 54 39)

/-! ### CDMA -/

/-- Effective offsets of a CDMA word, in 64-byte units (R135). -/
def cdmaS (x : Wx) : Int := (x.f 107 80 : Int) + x.ix (x.f 79 76)
def cdmaD (x : Wx) : Int := (x.f 63 36 : Int) + x.ix (x.f 35 32)

def Wx.sbuf (x : Wx) (m : Mach) : Option BufAt := m.buf x.p x.guest x.pk (x.f 119 108)
def Wx.dbuf (x : Wx) (m : Mach) : Option BufAt := m.buf x.p x.guest x.pk (x.f 75 64)

/-- Endpoint kinds a shape takes: source kinds, destination kinds (Table 7-6, R168, R182, R188, R192). -/
def cdmaKinds (st : Nat) (z : Bool) : List Nat × List Nat :=
  if st = 1 || st = 2 then ([0, 1], [0, 1])
  else if st = 3 || st = 4 then (if z then [0] else [0, 1], [1])
  else if st = 5 then ([1], [1])
  else if st = 6 then ([1], [0])
  else ([0], [1])

/-- Bytes a shape reaches in the source and in the destination (R135, R183). -/
def cdmaExtents (sh : List Byte) : Nat × Nat :=
  let st := leAt sh 0 1
  let pl : DmaPlan :=
    if st = 1 then .copy 0 0 0 0 1 (64 * leAt sh 4 4)
    else if st = 2 then .copy 0 0 (64 * leAt sh 12 4) (64 * leAt sh 16 4) (leAt sh 4 4) (64 * leAt sh 8 4)
    else if st = 3 then .window 0 0 sh 0 0 0
    else if st = 4 then .pool 0 0 sh 0 0
    else if st = 5 then .combine 0 0 sh
    else if st = 6 then .zpack 0 0 (leAt sh 1 1) (leAt sh 4 4)
    else .zunpack 0 0 (leAt sh 1 1) (leAt sh 4 4)
  ((pl.reads.headD (0, 0)).2, (pl.writes.headD (0, 0)).2)

/-- The register values a WINDOW or POOL entry takes at issue, and the first that is out of range (R183, R192). -/
def cdmaRegs (x : Wx) (sh : List Byte) : List (Nat × Nat) :=
  let st := leAt sh 0 1
  let p0 := x.ixRaw (leAt sh 32 1)
  let g := x.ixRaw (leAt sh 33 1)
  let k0 := x.ixRaw (leAt sh 34 1)
  if st = 3 then
    let kp := 64 * cdiv (shF sh 0 * shF sh 1 * (shC sh / shG sh)) 64
    (if g ≥ shG sh then [(0x10, g)] else []) ++ (if p0 ≥ shOH sh * shOW sh then [(0x10, p0)] else []) ++
    (if k0 ≥ kp || k0 % 64 ≠ 0 then [(0x10, k0)] else [])
  else if st = 4 then
    (if p0 ≥ shOH sh * shOW sh then [(0x10, p0)] else []) ++
    (if g + 64 * (leAt sh 30 2 + 1) > shC sh || g % 64 ≠ 0 then [(0x10, g)] else [])
  else []

/-- An extent that lies outside its buffer (R135), or an offset that is no multiple of a slot (R188). -/
def extentFault (side : Nat) (eff : Int) (n : Nat) (unit : Nat) (b : BufAt) : List (Nat × Nat) :=
  if 0 ≤ eff && eff.toNat * 64 + n ≤ b.size && eff.toNat * 64 % unit = 0 then [] else [(0x10, info10 side eff)]

def cdmaPlan (m : Mach) (x : Wx) : DmaPlan :=
  let sh := m.shapeOf x
  let st := leAt sh 0 1
  let s := (match x.sbuf m with | some b => b.key | none => 0) + (cdmaS x).toNat * 64
  let d := (match x.dbuf m with | some b => b.key | none => 0) + (cdmaD x).toNat * 64
  if st = 1 then .copy s d 0 0 1 (64 * leAt sh 4 4)
  else if st = 2 then .copy s d (64 * leAt sh 12 4) (64 * leAt sh 16 4) (leAt sh 4 4) (64 * leAt sh 8 4)
  else if st = 3 then .window s d sh (x.ixRaw (leAt sh 32 1)) (x.ixRaw (leAt sh 33 1)) (x.ixRaw (leAt sh 34 1))
  else if st = 4 then .pool s d sh (x.ixRaw (leAt sh 32 1)) (x.ixRaw (leAt sh 33 1))
  else if st = 5 then .combine s d sh
  else if st = 6 then .zpack s d (leAt sh 1 1) (leAt sh 4 4)
  else .zunpack s d (leAt sh 1 1) (leAt sh 4 4)

/-- A 2D copy that overlaps itself with no traversal order (Table 7-10). -/
def noOrder : DmaPlan → Bool
  | .copy s d sp dp rows rlen =>
    overlap (s, (rows - 1) * sp + rlen) (d, (rows - 1) * dp + rlen) && !(d ≤ s && dp ≤ sp) && !(s ≤ d && sp ≤ dp)
  | _ => false

/-- A pack or unpack whose source and destination extents overlap (R188). -/
def packsOver : DmaPlan → Bool
  | .zpack s d f n => overlaps (DmaPlan.zpack s d f n).reads (DmaPlan.zpack s d f n).writes
  | .zunpack s d f n => overlaps (DmaPlan.zunpack s d f n).reads (DmaPlan.zunpack s d f n).writes
  | _ => false

/-- What a CDMA word raises. INFO of overlapping pack extents is not stated: the model names the destination side (log entry 219, DESIGN CHOICE). -/
def checksCdma (m : Mach) (x : Wx) : List (Nat × Nat) :=
  let sh := m.shapeOf x
  let st := leAt sh 0 1
  let word := genFaults x.w [(119, 1)] ++ badField 4 1 (x.f 2 1 = 3) ++ mkChecks m x 19 18 3
  let kinds := cdmaKinds st (shZ sh)
  let ext := cdmaExtents sh
  let slot := slotBytes (widthOf (leAt sh 1 1) / 8)
  let bufs := (match x.sbuf m with
      | some b => if kinds.1.contains b.kind then [] else [(0x12, x.f 119 108)]
      | none => [(0x12, x.f 119 108)]) ++
    (match x.dbuf m with
      | some b => if kinds.2.contains b.kind then [] else [(0x12, x.f 75 64)]
      | none => [(0x12, x.f 75 64)])
  let ecc := match m.firstBad (m.shapeKey x.p x.g x.guest x.pk (x.f 31 20)) 64 with
    | some b => [(0x11, b)]
    | none => []
  let range := match x.sbuf m, x.dbuf m with
    | some s, some d =>
      cdmaRegs x sh ++ extentFault 0 (cdmaS x) ext.1 (if st = 7 then slot else 1) s ++
      extentFault 1 (cdmaD x) ext.2 (if st = 6 then slot else 1) d ++
      (if noOrder (cdmaPlan m x) then [(0x10, info64 (cdmaD x))] else []) ++
      (if packsOver (cdmaPlan m x) then [(0x10, info10 1 (cdmaD x))] else [])
    | _, _ => []
  word ++ bufs ++ ecc ++ range

def stallCdma (m : Mach) (x : Wx) : Bool := stallPlan m x (cdmaPlan m x)

/-- A CDMA word (R135): the operation starts; its pieces move until DMA_COMPLETE. -/
def doCdma (m : Mach) (x : Wx) : Mach := m.launch x (cdmaPlan m x) (x.mkOf m 19 18 3)

/-- The row takes CDMA words whose shape entry has one STYPE. -/
def selCdma (st : Nat) (m : Mach) (x : Wx) : Bool := opcOf x.w = 0x29 && m.stypeOf x = some st

def runCdma (st core : Nat) (s : State) : Result := s.step (fun m => issue m core (selCdma st) checksCdma stallCdma doCdma)

/-! ### Fill-window posts -/

def fwPosts (x : Wx) (m : Mach) : Option FillWin := if x.guest then none else (m.part x.p).wins.get? (x.f 119 117)

/-- What FWPOST raises. The return row's length is the consumer's: here its first byte has to lie inside the memory (R120). INFO of 48h is the tag
FFFFh, which the spec does not state (log entry 16, DESIGN CHOICE). -/
def checksFwpost (m : Mach) (x : Wx) : List (Nat × Nat) :=
  genFaults x.w [(119, 37)] ++ refFaults (x.f 116 93) 93 [] ++ refFaults (x.f 92 69) 69 [] ++
  (if x.f 68 53 = 0xFFFF then [(0x48, 0xFFFF)] else []) ++ mkFaults m x (x.f 52 37) ++
  (match fwPosts x m with
   | none => [(0x12, x.f 119 117)]
   | some f => refRange m x (x.f 116 93) (vecBytes f.fmt f.k) 0 ++ refRange m x (x.f 92 69) 1 1)

/-- Rows a window can still take before a post stalls (R98). -/
def FillWin.room (f : FillWin) : Nat :=
  f.bufs.foldl (fun a b => a + (match b.st with
    | .free => 64
    | .opened _ => 64 - b.rows.length
    | .ready _ => 0)) 0

def planFwpost (m : Mach) (x : Wx) : DmaPlan :=
  let len := match fwPosts x m with | some f => vecBytes f.fmt f.k | none => 0
  .post (x.f 119 117) (x.ref m (x.f 116 93)).key len (x.ref m (x.f 92 69)).key (x.f 68 53) (m.absMk x.p (x.f 52 37))

def stallFwpost (m : Mach) (x : Wx) : Bool :=
  stallPlan m x (planFwpost m x) ||
  (match fwPosts x m with | some f => f.room ≤ f.posts.length | none => false)

/-- FWPOST (R98, R138): the post is outstanding until its row is accepted. -/
def doFwpost (m : Mach) (x : Wx) : Mach :=
  (m.launch x (planFwpost m x) none).modPart x.p (fun q =>
    { q with wins := match q.wins.get? (x.f 119 117) with
      | some f => q.wins.put (x.f 119 117) { f with posts := f.posts ++ [x.core] }
      | none => q.wins })

def Mach.setWin (m : Mach) (p w : Nat) (f : FillWin) : Mach := m.modPart p (fun q => { q with wins := q.wins.put w f })

/-- Make buffer `b` of a window ready (R99). -/
def FillWin.makeReady (f : FillWin) (b : Nat) : FillWin :=
  { f with bufs := modAt f.bufs b (fun u => { u with st := .ready f.made }), made := f.made + 1 }

/-- The first post of a core to a window among its outstanding operations. -/
def findPost (dma : List DmaEntry) (w : Nat) : Option (Nat × DmaEntry) :=
  (dma.zipIdx.find? (fun e => match e.1.plan with | .post w' _ _ _ _ _ => w' = w | _ => false)).map (fun e => (e.2, e.1))

/-- The time by which deadlines of a partition's windows are measured: it stands still from a save's begin on (R103, R404). -/
def Mach.fwNow (m : Mach) (p : Nat) : Nat := if m.switching p then (m.part p).saveT0 else m.rc

/-- The open buffer whose deadline lies at least `late` rc back becomes ready with padding rows (R99). -/
def Mach.fwExpire (m : Mach) (p w late : Nat) : Mach :=
  match (m.part p).wins.get? w with
  | none => m
  | some f =>
    match f.bufs.zipIdx.find? (fun b => match b.1.st with | .opened t => t + late ≤ m.fwNow p | _ => false) with
    | some (b, bi) =>
      ((m.setWin p w (f.makeReady bi)).addObj (0x6180 + p) 4 1).addObj (0x6180 + p) 5 (64 - b.rows.length)
    | none => m

/-- The buffer that takes the next row: the open one, else a free one (R98). -/
def FillWin.target (f : FillWin) : Option (FwBuf × Nat) :=
  (f.bufs.zipIdx.find? (fun (b : FwBuf × Nat) => match b.1.st with | .opened _ => true | _ => false)).or
    (f.bufs.zipIdx.find? (fun (b : FwBuf × Nat) => b.1.st = FwSt.free))

/-- The post that a window takes next, and what it moves: its core, its place among the core's operations, the buffer and the pieces. -/
def Mach.nextPost (m : Mach) (p w : Nat) : Option (Nat × Nat × FwBuf × Nat × FwRow × Moved) :=
  match (m.part p).wins.get? w with
  | none => none
  | some f =>
    match f.posts with
    | [] => none
    | core :: _ =>
      match f.target, findPost (m.core core).host.dma w with
      | some (b, bi), some (ei, e) =>
        (match e.plan with
         | .post _ src _ ret tag mkr =>
           let base := clusterKey ((m.clusters p).getD f.home 0) (f.base + bi * blockBytes f.fmt f.k)
           some (core, ei, b, bi, { core := core, ret := ret, tag := tag, marker := mkr }, movedPost m f.fmt f.k base b.rows.length src)
         | _ => none)
      | _, _ => none

/-- A core's post leaves the window's waiting list and the core's operations. -/
def Mach.dropPost (m : Mach) (p w core ei : Nat) : Mach :=
  let m := match (m.part p).wins.get? w with
    | some f => m.setWin p w { f with posts := f.posts.erase core }
    | none => m
  m.modCtx core false (fun c => { c with dma := c.dma.eraseIdx ei })

/-- FW_POST_ACCEPT: a waiting post's row is copied into the next slot of the open buffer, a free buffer opening where none is open; the 64th row
makes it ready (R98, R99, R200). A buffer whose deadline has passed before becomes ready first. Posts of one window are accepted in the order of
their issue, of which R98 says nothing (log entry 223, DESIGN CHOICE). A post that finds no free buffer waits; in a job that stops, no buffer
becomes free for it any more and it is given up (R152, log entry 224, DEDUCED). -/
def doFwAccept (m : Mach) (p w : Nat) : Mach :=
  if (m.resJob p).isNone then m
  else
    let m := m.fwExpire p w 1
    match (m.part p).wins.get? w, m.nextPost p w with
    | some f, some (core, ei, b, bi, row, mv) =>
      if (m.badPieceOf mv).isSome then m
      else
        let st := match b.st with
          | .opened t => FwSt.opened t
          | _ => FwSt.opened (m.fwNow p + 25 * m.obj (0x6180 + p) 2)
        let f' : FillWin := { f with bufs := f.bufs.set bi { b with st := st, rows := b.rows ++ [row] } }
        let m := m.wrAll mv.writes
        let m := if b.rows.length + 1 = 64 then (m.setWin p w (f'.makeReady bi)).addObj (0x6180 + p) 3 1 else m.setWin p w f'
        (m.dropPost p w core ei).settle p
    | some f, none =>
      (match f.posts.head? with
       | some core =>
         (match findPost (m.core core).host.dma w with
          | some (ei, _) => if m.jobRuns p false then m else m.dropPost p w core ei
          | none => m)
       | none => m)
    | none, _ => m

/-- FW_DEADLINE: the open buffer's deadline has passed and it becomes ready with padding rows (R99); while the partition is pre-empted the
timer stands still (R103). -/
def doFwDeadline (m : Mach) (p w : Nat) : Mach := if m.switching p then m else m.fwExpire p w 0

/-- FW_BUFFER_FREE: every consumer has finished with the batch (R102). -/
def doFwFree (m : Mach) (p w bi : Nat) : Mach :=
  match (m.part p).wins.get? w with
  | none => m
  | some f =>
    let g := (m.clusters p).getD f.home 0
    match f.bufs[bi]? with
    | some { st := .ready _, used := used, .. } =>
      if (bitsOf 16 f.cons).all (fun j => used.contains (16 * g + j)) then
        m.setWin p w { f with bufs := f.bufs.set bi { st := .free, rows := [], used := [] } }
      else m
    | _ => m

/-! ## The ends of operations -/

/-- Outstanding operation `n` of a core: those of the host context first, then the guest's. -/
def Mach.dmaAt (m : Mach) (core n : Nat) : Option (Bool × Nat × DmaEntry) :=
  let h := (m.core core).host.dma
  if n < h.length then (h[n]?).map (fun e => (false, n, e))
  else ((m.core core).guest.dma[n - h.length]?).map (fun e => (true, n - h.length, e))

def Mach.dropDma (m : Mach) (core : Nat) (guest : Bool) (i : Nat) : Mach :=
  m.modCtx core guest (fun c => { c with dma := c.dma.eraseIdx i })

/-- DMA_COMPLETE: the operation's last byte is visible; its counters, flags and completion marker follow (R133). It needs every unit it
reads to be correctable (DMA_ECC takes the other case). -/
def doDmaComplete (m : Mach) (core n : Nat) : Mach :=
  match m.partOf (core / 16), m.dmaAt core n with
  | some p, some (guest, i, e) =>
    match e.plan with
    | .post _ _ _ _ _ _ => m
    | .remote _ _ _ _ => m
    | pl =>
      let mv := pl.moved m
      if (m.badPieceOf mv).isSome then m
      else
        let m := ((((m.touch mv.spans).wrAll mv.writes).countMoved p pl mv).setFlags p mv.flags).dropDma core guest i
        let m := match e.marker with | some k => m.signal (core / 256) k 1 | none => m
        m.settle p
  | _, _ => m

/-- The class an operation reads in (Table 11-2): CLASS of a CDMA, 1 for a PTLD, else 2. -/
def dmaClass (w : Nat) : Nat :=
  if opcOf w = 0x2B then 1 else if opcOf w = 0x29 then (if fld w 2 1 = 1 then 3 else if fld w 2 1 = 2 then 1 else 2) else 2

/-- What the operation moves as it stands: a post what it would move if it were accepted now. -/
def Mach.movedNow (m : Mach) (p : Nat) (core : Nat) : DmaPlan → Moved
  | .post w _ _ _ _ _ => match m.nextPost p w with
    | some (c, _, _, _, _, mv) => if c = core then mv else { pieces := [] }
    | none => { pieces := [] }
  | pl => pl.moved m

/-- Where a transfer meets an uncorrectable half: at its first piece that holds one, or at piece `unit` before that, whose first half turns out
uncorrectable now. -/
def Mach.eccPiece (m : Mach) (mv : Moved) (unit : Nat) : Option (Nat × Nat) :=
  let fresh := (mv.pieces[unit]?).bind (fun x => x.reads.head?.map (fun r => (unit, r.1 / 32 * 32)))
  match m.badPieceOf mv with
  | some b => if unit < b.1 then fresh else some b
  | none => fresh

/-- DMA_ECC: a piece of the operation reads, or would read-modify-write, an uncorrectable half: the pieces before it stay, with the flags and
counts they have earned, no further byte is written, MK is not signalled, and the core faults with 11h (R139, R195, R535). -/
def doDmaEcc (m : Mach) (core n unit : Nat) : Mach :=
  match m.partOf (core / 16), m.dmaAt core n with
  | some p, some (guest, i, e) =>
    let mv := m.movedNow p core e.plan
    match m.eccPiece mv unit with
    | none => m
    | some (k, b) =>
      let done := mv.first k
      let m := ((((m.touch ((b, 1) :: done.spans)).spoil b).wrAll done.writes).countMoved p e.plan done).setFlags p done.flags
      let m := match e.plan with
        | .post w _ _ _ _ _ => m.dropPost p w core i
        | _ => m.dropDma core guest i
      (m.lostRead (dmaClass e.word.toNat) b).fault p core guest 0x11 (opcOf e.word.toNat) e.pc (chipOff b)
  | _, _ => m

/-! ## The meanings -/

/-- LDMA (R134). -/
def execLdma (core : Nat) (s : State) : Result :=
  s.step (fun m => issue m core (selOpc 0x28) checksLdma (fun m x => stallPlan m x (planLdma m x)) doLdma)

/-- CDMA with a LINEAR shape (R213). -/
def execCdmaLinear (core : Nat) (s : State) : Result := runCdma 1 core s

/-- CDMA with a COPY2D shape (R213, R214). -/
def execCdmaCopy2d (core : Nat) (s : State) : Result := runCdma 2 core s

/-- CDMA with a WINDOW shape (R182, R183). -/
def execCdmaWindow (core : Nat) (s : State) : Result := runCdma 3 core s

/-- CDMA with a POOL shape (R192, R193). -/
def execCdmaPool (core : Nat) (s : State) : Result := runCdma 4 core s

/-- CDMA with a COMBINE shape (R168, R169). -/
def execCdmaCombine (core : Nat) (s : State) : Result := runCdma 5 core s

/-- CDMA with a ZPACK shape (R188). -/
def execCdmaZpack (core : Nat) (s : State) : Result := runCdma 6 core s

/-- CDMA with a ZUNPACK shape (R188). -/
def execCdmaZunpack (core : Nat) (s : State) : Result := runCdma 7 core s

/-- FWPOST (R138). -/
def execFwpost (core : Nat) (s : State) : Result :=
  s.step (fun m => issue m core (selOpc 0x2C) checksFwpost stallFwpost doFwpost)

/-- FW_POST_ACCEPT (R98). -/
def execFwPostAccept (p w : Nat) (s : State) : Result := s.step (fun m => doFwAccept m p w)

/-- FW_DEADLINE (R99). -/
def execFwDeadline (p w : Nat) (s : State) : Result := s.step (fun m => doFwDeadline m p w)

/-- FW_BUFFER_FREE (R102). -/
def execFwBufferFree (p w b : Nat) (s : State) : Result := s.step (fun m => doFwFree m p w b)

/-- DMA_COMPLETE (R133). -/
def execDmaComplete (core n : Nat) (s : State) : Result := s.step (fun m => doDmaComplete m core n)

/-- DMA_ECC (R139). -/
def execDmaEcc (core n unit : Nat) (s : State) : Result := s.step (fun m => doDmaEcc m core n unit)

end Sys2Proof.Machine
end

