-- ==== Sys2Proof/Machine/Fabric.lean ====
section
/-! DEFINITION. The links as a sender sees them: link states, routes and bundles (R302, R303), virtual channels, credits and the replay
buffer (R289, R291), and the sending of messages (R296, R299). -/

namespace Sys2Proof.Machine

/-! ## Link states (Table 10-16) -/

def LinkRt.init : LinkRt :=
  { rx := 0, await := false, tx := 0, replay := [], credits := [16, 16, 192, 32], queue := [], share := (0, 0), lifeSent := [], rxPart := [],
    arrived := [], again := (0, 0), retrains := [], t0 := 0, keep := false, farLoop := false, loopAsk := false, reported := true, probes := [], ident := none, hellos := [] }

def Mach.lrt (m : Mach) (l : Nat) : LinkRt := m.linkRt.get LinkRt.init l

def Mach.setLrt (m : Mach) (l : Nat) (r : LinkRt) : Mach := { m with linkRt := m.linkRt.put l r }

/-- STATE of a link: 0 down, 1 training, 2 up, 3 loop-back, 4 failed. -/
def Mach.linkState (m : Mach) (l : Nat) : Nat := m.field (0x4840 + l) 2 6 4

def Mach.setLinkState (m : Mach) (l st : Nat) : Mach := m.setField (0x4840 + l) 2 6 4 st

def Mach.linkVer (m : Mach) (l : Nat) : Nat := m.field (0x4840 + l) 2 9 8

def Mach.ownAddr (m : Mach) : Nat := m.field 0x4800 2 11 0

/-- A link carries messages: it is up and both ends hold a valid fabric address (R293). -/
def Mach.carries (m : Mach) (l : Nat) : Bool :=
  l < 64 && m.linkState l = 2 && m.objBit 0x4800 2 15 && m.objBit (0x4840 + l) 4 15

/-- A flow may stay on a link: it is up, or retrains with its replay buffer (R303). -/
def Mach.flowLink (m : Mach) (l : Nat) : Bool := m.linkState l = 2 || (m.linkState l = 1 && (m.lrt l).keep)

/-! ## Routes (R302, R303) -/

/-- The link by which a message for a fabric address leaves: 64 for local delivery, none when unreachable. -/
def Mach.hop (m : Mach) (dfa srcu : Nat) : Option Nat :=
  if dfa = m.ownAddr then some 64
  else
    let e := m.routes.get 0xFF dfa
    if e = 0xFE then some 64
    else if e > 0x1F then none
    else
      let ls := bitsOf 64 (m.obj (0x4820 + e) 1)
      let n := srcu % max ls.length 1
      (ls.drop n ++ ls.take n).find? (fun l => m.flowLink l)

/-! ## Virtual channels and flits -/

/-- The virtual channel of an operation (Table 10-9). -/
def vcOf (op : Nat) : Nat := if op ≤ 2 then 2 else if op = 3 then 1 else if op = 5 then 3 else 0

/-- Flits of a message: its slots of 16 bytes, 15 a flit, each message from a new flit on (the packing is the model's, log entry 44, DESIGN CHOICE). -/
def msgFlits (x : Msg) : Nat := cdiv (32 + alignUp x.data.length 16) 240

/-- The 32-byte header of a message (Table 10-8). -/
def msgHeader (x : Msg) : List Byte :=
  leBytes 1 x.op ++ leBytes 1 (x.mv + 16 * b2n x.fmken) ++ leBytes 2 x.dfa ++ leBytes 2 x.sfa ++ leBytes 1 x.dpart ++ leBytes 1 x.spart ++
  leBytes 2 x.tag ++ leBytes 1 x.genr ++ leBytes 1 x.pidx ++ leBytes 2 x.srcu ++ leBytes 2 x.fbuf ++ leBytes 4 x.foff ++ leBytes 2 x.lenq ++
  leBytes 2 x.fmk ++ leBytes 4 x.arg ++ leBytes 4 x.mid

/-- A message read from its header and its data; whether a reserved field is not 0 (Table 10-8). -/
def msgOf (h data : List Byte) : Msg :=
  { op := leAt h 0 1 % 16, mv := leAt h 1 1 % 4, fmken := bit (leAt h 1 1) 4, dfa := leAt h 2 2 % 4096, sfa := leAt h 4 2 % 4096,
    dpart := leAt h 6 1, spart := leAt h 7 1, tag := leAt h 8 2, genr := leAt h 10 1, pidx := leAt h 11 1, srcu := leAt h 12 2,
    fbuf := leAt h 14 2 % 4096, foff := leAt h 16 4 % 2 ^ 24, lenq := leAt h 20 2 % 4096, fmk := leAt h 22 2, arg := leAt h 24 4,
    mid := leAt h 28 4,
    resv := leAt h 0 1 ≥ 16 || leAt h 1 1 % 16 ≥ 4 || leAt h 1 1 ≥ 32 || leAt h 2 2 ≥ 4096 || leAt h 4 2 ≥ 4096 || leAt h 14 2 ≥ 4096 ||
      leAt h 16 4 ≥ 2 ^ 24 || leAt h 20 2 ≥ 4096,
    data := data }

/-- The BODYs of a message's DATA flits: header and data in whole slots, the last flit padded from a slot whose byte 0 is FFh (R299). -/
def msgBodies (x : Msg) : List (List Byte) :=
  (chunks 240 (msgFlits x) (padTo (32 + alignUp x.data.length 16) (msgHeader x ++ x.data))).map (fun c =>
    if c.length < 240 then padTo 240 (c ++ [0xFF#8]) else c)

/-- Data bytes of a packet (R300). -/
def packetBytes (mv : Nat) : Nat := if mv ≥ 2 then 4096 else 1024

/-- Data bytes a header calls for (R300, R493). -/
def msgDataLen (x : Msg) : Nat :=
  if x.op ≤ 2 then min (packetBytes x.mv) (64 * (x.lenq + 1) - x.pidx * packetBytes x.mv)
  else if x.op = 5 then (if x.fbuf ≤ 1 then 64 * (x.lenq + 1) else 16) else 0

/-- The lifeline messages of a link may take `n` flits now: of every 1024 flit times, 131 rc, they take at most the lifeline cap in percent; a message
longer than the share of one such window waits for as many windows as it needs (R291, log entry 225, DESIGN CHOICE). -/
def LinkRt.lifeRoom (r : LinkRt) (cap rc n : Nat) : Bool :=
  let q := 1024 * cap / 100
  let w := cdiv n (max q 1)
  q ≠ 0 && ((r.lifeSent.filter (fun e => rc - e.1 ≤ 131 * w)).map Prod.snd).sum + n ≤ w * q

/-- A message may leave: its channel has the credits and the replay buffer the room, a lifeline message its share (R289, R291). -/
def LinkRt.fits (r : LinkRt) (cap rc : Nat) (x : Msg) : Bool :=
  msgFlits x ≤ r.credits.getD (vcOf x.op) 0 && r.replay.length + msgFlits x ≤ 512 && (vcOf x.op ≠ 3 || r.lifeRoom cap rc (msgFlits x))

/-- The first message of a channel. -/
def LinkRt.head (r : LinkRt) (vc : Nat) : Option Msg := r.queue.find? (fun x => vcOf x.op = vc)

/-- The message that leaves next: VC0, then VC1, then VC2 and VC3 by the flits each has taken (R291). -/
def LinkRt.pick (r : LinkRt) (cap rc : Nat) : Option Msg :=
  let ok (vc : Nat) : Option Msg := (r.head vc).filter (r.fits cap rc)
  match ok 0, ok 1, ok 2, ok 3 with
  | some x, _, _, _ => some x
  | none, some x, _, _ => some x
  | none, none, some x, none => some x
  | none, none, none, some x => some x
  | none, none, some x, some y => if r.share.1 ≤ r.share.2 then some x else some y
  | none, none, none, none => none

/-- The protocol state after a message has left. -/
def LinkRt.sent (r : LinkRt) (rc : Nat) (x : Msg) : LinkRt :=
  let n := msgFlits x
  let vc := vcOf x.op
  let both := (r.head 2).isSome && (r.head 3).isSome
  { r with
    tx := (r.tx + n) % 4096, replay := r.replay ++ (msgBodies x).map (fun c => (vc, c)), credits := r.credits.set vc (r.credits.getD vc 0 - n),
    queue := r.queue.erase x, lifeSent := if vc = 3 then ((rc, n) :: r.lifeSent).take 128 else r.lifeSent,
    share := if !both then (0, 0) else if vc = 2 then (r.share.1 + n, r.share.2) else if vc = 3 then (r.share.1, r.share.2 + n) else r.share }

/-- Send what a link can send; `fuel` bounds the messages. -/
def Mach.pump (m : Mach) (l : Nat) : Nat → Mach
  | 0 => m
  | fuel + 1 =>
    if !m.carries l then m
    else match (m.lrt l).pick (m.obj 0x4800 5) m.rc with
      | none => m
      | some x =>
        let m' := (m.setLrt l ((m.lrt l).sent m.rc x)).addObj (0x4840 + l) 5 (msgFlits x)
        Mach.pump (m'.emit (.msg l x)) l fuel

def Mach.pumpLink (m : Mach) (l : Nat) : Mach := m.pump l (m.lrt l).queue.length

/-! ## Sending -/

/-- Put a message on its way: the code of Table 10-11 that stops it (0 for none), the first-hop link, and the module after. -/
def Mach.sendMsg (m : Mach) (x : Msg) : Nat × Nat × Mach :=
  match m.hop x.dfa x.srcu with
  | none => (0xFE, 64, m)
  | some 64 => (0, 64, { m with localMsgs := m.localMsgs ++ [x] })
  | some l =>
    if x.mv > m.linkVer l then (9, l, m)
    else (0, l, (m.setLrt l { m.lrt l with queue := (m.lrt l).queue ++ [x] }).pumpLink l)

/-- Send, and let a stopped message be lost (R307). -/
def Mach.sendOrLose (m : Mach) (x : Msg) : Mach := (m.sendMsg x).2.2

/-- Send messages of one unit in order; the first that is stopped stops the rest. -/
def Mach.sendAll (m : Mach) : List Msg → Nat × Nat × Mach
  | [] => (0, 64, m)
  | x :: t =>
    match m.sendMsg x with
    | (0, l, m') =>
      match Mach.sendAll m' t with
      | (c, l', m'') => (c, if t.isEmpty then l else l', m'')
    | (c, l, m') => (c, l, m')

/-- PV of a partition (R296). -/
def Mach.pv (m : Mach) (p : Nat) : Nat := m.obj (0x4880 + p) 2

/-- The lower of PCAP and the versions of the partition's links that are up (R296). -/
def Mach.computePv (m : Mach) (p : Nat) : Mach :=
  let vs := ((m.links p).filter (fun l => m.linkState l = 2)).map m.linkVer
  m.setObj (0x4880 + p) 2 (vs.foldl min (m.obj (0x4880 + p) 1))

/-- A fresh message number. -/
def Mach.newMid (m : Mach) : Nat × Mach := (m.mid % 2 ^ 32, { m with mid := m.mid + 1 })

/-- A message with nothing in it but its kind, its ends and its job. -/
def msgBlank (op mv dfa sfa dpart spart tag genr srcu mid : Nat) : Msg :=
  { op := op, mv := mv, fmken := false, dfa := dfa, sfa := sfa, dpart := dpart, spart := spart, tag := tag, genr := genr, pidx := 0,
    srcu := srcu, fbuf := 0, foff := 0, lenq := 0, fmk := 0, arg := 0, mid := mid, resv := false, data := [] }

/-- The packets of an RDMA (R300). -/
def msgPackets (x : Msg) (bs : List Byte) : List Msg :=
  (chunks (packetBytes x.mv) 256 bs).zipIdx.map (fun c => { x with pidx := c.2, data := c.1 })

/-- TAG and GENR of the job a partition runs; 0 without one. -/
def Mach.jobId (m : Mach) (p : Nat) : Nat × Nat := match m.resJob p with | some j => (j.tag, j.genr) | none => (0, 0)

/-- FADDR and FPART of a peer of the resident pricking (Table 4-7). -/
def peerAt (r : List Byte) : Nat × Nat := (leAt r 6 2 % 4096, leAt r 8 1)

/-- Some job of the module is dispatched (the RWI rule of objects whose target is any job). -/
def Mach.anyJob (m : Mach) : Bool := m.jobs.any Job.live

end Sys2Proof.Machine
end

