-- ==== Sys2Proof/Machine/Reduce.lean ====
section
/-! DEFINITION. Reduction buffers (R255 to R263): the region, the contributors' cursors and credits, staging, the fixed order of addition,
and what a completed tile does: OUT, FWD, or the update engine (chapter 9). -/

namespace Sys2Proof.Machine

/-! ## The region (R256) -/

/-- Key of the region of a reduction buffer. -/
def Mach.rbKey (m : Mach) (p : Nat) (r : List Byte) : Nat := clusterKey ((m.clusters p).getD (rbHome r) 0) (rbBase r)

def Mach.rbSlotKey (m : Mach) (p : Nat) (r : List Byte) (s : Nat) : Nat := m.rbKey p r + 16384 * s

def Mach.rbStageKey (m : Mach) (p : Nat) (r : List Byte) (c i : Nat) : Nat :=
  m.rbKey p r + 16384 * (rbSlots r + rbCreds r c + i)

def Mach.rbAreaKey (m : Mach) (p : Nat) (r : List Byte) (a : Nat) : Nat := m.rbKey p r + rbAreaOff r + 49152 * a

def Mach.rbEntryKey (m : Mach) (p : Nat) (r : List Byte) (t : Nat) : Nat := m.rbKey p r + rbTableOff r + 32 * t

/-- The tile-table entry of a tile (Table 9-4). -/
def Mach.rbEntry (m : Mach) (p : Nat) (r : List Byte) (t : Nat) : List Byte := m.rd (m.rbEntryKey p r t) 32

def teSbuf (e : List Byte) : Nat := leAt e 0 2
def teRid (e : List Byte) : Nat := leAt e 2 1
def teWfmt (e : List Byte) : Nat := leAt e 3 1
def teSoff (e : List Byte) : Nat := leAt e 4 4
def teWbuf (e : List Byte) : Nat := leAt e 8 2
def teFlags (e : List Byte) : Nat := leAt e 10 1
def teDgrp (e : List Byte) : Nat := leAt e 11 1
def teWoff (e : List Byte) : Nat := leAt e 12 4
def teUmk (e : List Byte) : Nat := leAt e 16 2

/-- A tile is slow tier when its SBUF is KIND 0 in an UPDATE buffer (R261). -/
def Mach.slowTile (m : Mach) (p : Nat) (r e : List Byte) : Bool :=
  rbMode r = 2 &&
  (match (m.part p).resident with
   | some k => (match k.bufRec (teSbuf e) with | some b => leAt b 6 1 = 0 | none => false)
   | none => false)

/-! ## The buffer in use -/

/-- A reduction buffer as a job finds it at dispatch: nothing staged, every credit home (Table 9-8). -/
def RBuf.init (r : List Byte) : RBuf :=
  let n := rbNcon r
  { sent := List.replicate n 0, credits := (List.range n).map (fun c => conCred (rbCon r c)), starved := List.replicate n false,
    staged := List.replicate n [], tiles := [], rounds := [], crcs := [], fwd := [], unanswered := [] }

def Mach.rb (m : Mach) (p id : Nat) : Option RBuf := (m.part p).rbufs.get? id

def Mach.setRb (m : Mach) (p id : Nat) (b : RBuf) : Mach := m.modPart p (fun x => { x with rbufs := x.rbufs.put id b })

/-- The record of a resident reduction buffer. -/
def Mach.rbRec (m : Mach) (p id : Nat) : Option (List Byte) := ((m.part p).resident).bind (fun k => k.rbuf id)

/-- A reduction or update engine reports a fault of its own (R282): CORE FFFFh, PC the tile, INFO the buffer. -/
def Mach.engineFault (m : Mach) (p id tile code : Nat) : Mach :=
  let m := if hwCode code then { m with hwWait := m.hwWait ++ [(code, p, 0xFFFF)] } else m
  m.jobFault p false code (fun j =>
    leBytes 1 code ++ leBytes 1 0 ++ leBytes 2 0xFFFF ++ leBytes 4 tile ++ leBytes 2 j.tag ++ leBytes 1 j.genr ++ zeros 5 ++
    leBytes 8 id ++ leBytes 8 m.rc)

/-! ## Contributors (R257, R258, R260) -/

/-- The contributor of a buffer that matches. -/
def rbFind (r : List Byte) (f : List Byte → Bool) : Option Nat := (List.range (rbNcon r)).find? (fun c => f (rbCon r c))

/-- The contributor that a local core is (KIND 0). -/
def Mach.rbLocal (m : Mach) (p : Nat) (r : List Byte) (core : Nat) : Option Nat :=
  let rel := 16 * (m.clusters p).idxOf (core / 16) + core % 16
  rbFind r (fun c => conKind c = 0 && conSrc c = rel)

/-- The faults of an AR that drains to a reduction buffer (R257). -/
def rbufArFaults (m : Mach) (x : Wx) (id fd : Nat) (isInt : Bool) : List (Nat × Nat) :=
  match (if x.guest then none else m.rbRec x.p id) with
  | none => [(0x12, id)]
  | some r =>
    (if fd = 0 && !isInt then [] else [(0x40, 102)]) ++ (if (m.rbLocal x.p r x.core).isNone then [(0x12, id)] else [])

/-- The tile and round a contribution belongs to, with its place among the N of its contributor (R258). -/
def cursorOf (con : List Byte) (j : Nat) : Nat × Nat × Nat :=
  let n := max (conN con) 1
  (conFirst con + j / n % conSpan con, j / (n * conSpan con), j % n)

/-- The lowest staging tile of a contributor that holds nothing. -/
def freePlace (st : List Staged) : Nat := ((List.range (st.length + 1)).find? (fun i => st.all (fun s => s.place ≠ i))).getD 0

/-- Begin a contribution: a credit is used and a staging tile taken (R260). -/
def RBuf.begin' (b : RBuf) (c : Nat) : RBuf :=
  let st := b.staged.getD c []
  let j := b.sent.getD c 0
  { b with sent := b.sent.set c (j + 1), credits := b.credits.set c (b.credits.getD c 0 - 1), starved := b.starved.set c false,
           staged := b.staged.set c (st ++ [{ j := j, place := freePlace st, got := 0, waited := false }]) }

/-- The contribution of a contributor that is still arriving. -/
def RBuf.open? (b : RBuf) (c : Nat) : Option Staged := (b.staged.getD c []).find? (fun s => s.got < 16384)

/-- Some bytes of a contribution land in its staging tile at `off` (R256). -/
def Mach.rbLand (m : Mach) (p id c off : Nat) (bs : List Byte) : Mach :=
  match m.rb p id, m.rbRec p id with
  | some b, some r =>
    match b.open? c with
    | none => m
    | some s =>
      (m.wr (m.rbStageKey p r c s.place + off) bs).setRb p id
        { b with staged := b.staged.set c ((b.staged.getD c []).map (fun t =>
            if t.j = s.j then { t with got := t.got + bs.length } else t)) }
  | _, _ => m

/-- A drain's row is taken: the contribution has begun, or its contributor holds a credit (R260); a buffer whose job has stopped takes
rows and drops them. -/
def Mach.rbufTakes (m : Mach) (p id core : Nat) : Bool :=
  match m.rb p id, m.rbRec p id with
  | some b, some r =>
    match m.rbLocal p r core with
    | some c => (b.open? c).isSome || b.credits.getD c 0 > 0
    | none => true
  | _, _ => true

/-- A drain that stalls for a credit is counted once (6480h + p.09). -/
def Mach.rbufStarve (m : Mach) (p id core : Nat) : Mach :=
  match m.rb p id, m.rbRec p id with
  | some b, some r =>
    match m.rbLocal p r core with
    | some c =>
      if b.starved.getD c false then m else (m.setRb p id { b with starved := b.starved.set c true }).addObj (0x6480 + p) 9 1
    | none => m
  | _, _ => m

/-- A row of 64 FP32 values of a drained tile reaches its staging tile. -/
def Mach.rbufRow (m : Mach) (p id core row : Nat) (els : List Byte) : Mach :=
  match m.rb p id, m.rbRec p id with
  | some b, some r =>
    match m.rbLocal p r core with
    | some c =>
      let b := if (b.open? c).isSome then b else b.begin' c
      (m.setRb p id b).rbLand p id c (256 * row) els
    | none => m
  | _, _ => m

/-! ## Forwarding and credits -/

/-- The contributor of a local buffer that a FWD buffer is (KIND 2). -/
def rbFwdCon (r : List Byte) (src : Nat) : Option Nat := rbFind r (fun c => conKind c = 2 && conSrc c = src)

/-- A whole tile lands as one contribution of contributor `c`. -/
def Mach.rbWhole (m : Mach) (p id c : Nat) (bs : List Byte) : Mach :=
  match m.rb p id with
  | some b => (m.setRb p id (b.begin' c)).rbLand p id c 0 bs
  | none => m

/-- The far job and buffer at which a unit of the partition's job holds credits, as a grant of none (R260, R398). -/
def Mach.grantKey (m : Mach) (p peer fbuf unit : Nat) : Option Grant :=
  match (m.part p).resident, m.resJob p with
  | some k, some j =>
    match k.peerRec peer, j.peers.find? (fun q => q.1 = peer) with
    | some r, some q => some { fa := (peerAt r).1, fp := (peerAt r).2, tag := q.2.2, genr := q.2.1, fbuf := fbuf, unit := unit, n := 0, owed := 0 }
    | _, _ => none
  | _, _ => none

/-- Two grants are of one job, buffer and unit. -/
def Grant.alike (a b : Grant) : Bool := { a with n := 0, owed := 0 } = { b with n := 0, owed := 0 }

/-- The module with one credit of a unit at a far buffer used; none where the unit has to wait. The credits that a contributor holds at the start of a
job reach it by grant messages; a unit that has had no message of the buffer yet takes one of them as held, so that a buffer that refuses
it (Table 9-5) can answer (R257, R260, log entry 229, DESIGN CHOICE). -/
def Mach.useCredit (m : Mach) (p peer fbuf unit : Nat) : Option Mach :=
  match m.grantKey p peer fbuf unit with
  | none => none
  | some k =>
    match (m.part p).grants.find? (fun g => g.alike k) with
    | none => some (m.modPart p (fun x => { x with grants := x.grants ++ [{ k with owed := 1 }] }))
    | some g =>
      if g.n = 0 then none
      else some (m.modPart p (fun x => { x with grants := x.grants.map (fun h => if h = g then { h with n := h.n - 1 } else h) }))

/-- Free a tile's slot and state area. -/
def Mach.rbFree (m : Mach) (p id t : Nat) : Mach :=
  match m.rb p id with
  | some b => m.setRb p id { b with tiles := b.tiles.del t }
  | none => m

/-- A FWD tile whose next target grants no credit waits, and its contribution is counted once (6480h + p.09). -/
def Mach.fwdWaits (m : Mach) (p id : Nat) (b : RBuf) (f : FwdTile) (rest : List FwdTile) : Mach :=
  if f.waited then m else (m.setRb p id { b with fwd := { f with waited := true } :: rest }).addObj (0x6480 + p) 9 1

/-- A FWD tile goes to a local buffer as one contribution. -/
def Mach.fwdLocal (m next : Mach) (p id tgt : Nat) (wait : Mach) (data : List Byte) : Bool × Mach :=
  match m.rb p tgt, m.rbRec p tgt with
  | some b, some r =>
    match rbFwdCon r id with
    | some c => if b.credits.getD c 0 > 0 then (true, next.rbWhole p tgt c data) else (false, wait)
    | none => (true, next)
  | _, _ => (true, next)

/-- A FWD tile goes to a far buffer as one contribution under a credit granted there; a lost route is fault 13h (R282). -/
def Mach.fwdFar (m next : Mach) (p id peer tgt t : Nat) (wait lost : Mach) (data : List Byte) : Bool × Mach :=
  match next.useCredit p peer tgt (0x1000 + id), ((m.part p).resident).bind (fun k => k.peerRec peer) with
  | some used, some pr =>
    let (mid, m1) := used.newMid
    let (tag, genr) := m.jobId p
    let x := { msgBlank 1 (m.pv p) (peerAt pr).1 m.ownAddr (peerAt pr).2 p tag genr (0x1000 + id) mid with fbuf := tgt, lenq := 255 }
    match m1.sendAll (msgPackets x data) with
    | (0, l, m2) =>
      (true, (match m2.rb p id with
        | some b => m2.setRb p id { b with unanswered := b.unanswered ++ [(mid, t, l)] }
        | none => m2))
    | (_, _, _) => (true, lost.engineFault p id t 0x13)
  | _, _ => (false, wait)

/-- One step of a FWD engine: the oldest tile goes to its next target when it holds a credit there (R260, R263); a slot that reads
uncorrectable is fault 11h (R282). Answers whether it moved. -/
def Mach.fwdStep (m : Mach) (p id : Nat) : Bool × Mach :=
  match m.rb p id, m.rbRec p id with
  | some b, some r =>
    match b.fwd with
    | [] => (false, m)
    | f :: rest =>
      let rested := m.setRb p id { b with fwd := rest }
      if f.next ≥ rbNtgt r then (true, if b.unanswered.any (fun u => u.2.1 = f.tile) then rested else rested.rbFree p id f.tile)
      else
        match b.tiles.get? f.tile with
        | none => (true, rested)
        | some ts =>
          let g := rbTgt r f.next
          let key := m.rbSlotKey p r ts.slot
          let next := m.setRb p id { b with fwd := { f with next := f.next + 1, waited := false } :: rest }
          let wait := m.fwdWaits p id b f rest
          match m.badRead [(key, 16384)] with
          | some k => (true, (rested.lostRead 2 k).engineFault p id f.tile 0x11)
          | none =>
            if leAt g 0 1 = 2 then m.fwdLocal next p id (leAt g 2 2) wait (m.rd key 16384)
            else m.fwdFar next p id (leAt g 1 1) (leAt g 2 2) f.tile wait rested (m.rd key 16384)
  | _, _ => (false, m)

/-- Let every FWD engine of the partition go on as far as credits allow; `fuel` bounds the steps. -/
def Mach.fwdPump (m : Mach) (p : Nat) : Nat → Mach
  | 0 => m
  | fuel + 1 =>
    match ((m.part p).rbufs.map Prod.fst).findSome? (fun id => (fun r => if r.1 then some r.2 else none) (m.fwdStep p id)) with
    | some m' => Mach.fwdPump m' p fuel
    | none => ((m.part p).rbufs.map Prod.fst).foldl (fun a id => (a.fwdStep p id).2) m

/-- Steps enough for every FWD tile of a partition to reach every target. -/
def Mach.fwdAll (m : Mach) (p : Nat) : Mach :=
  m.fwdPump p ((m.part p).rbufs.foldl (fun a e => a + 10 * e.2.fwd.length) 0)

/-- The unit that a far contributor's credits name: its core, or 1000h plus its buffer. -/
def conUnit (con : List Byte) : Nat := if conKind con = 3 then 0x1000 + conSrc con else conSrc con

/-- Grant `n` credits of a buffer to a far contributor by a management message (R260, Table 10-9); the layout of the argument, unit in
bits [23:8] and count in bits [31:24] of ARG, is the model's (log entry 47, DESIGN CHOICE). -/
def Mach.grantMsg (m : Mach) (p id : Nat) (con : List Byte) (n : Nat) : Mach :=
  match ((m.part p).resident).bind (fun k => k.peerRec (conPeer con)) with
  | some pr =>
    let (mid, m1) := m.newMid
    let (tag, genr) := m.jobId p
    m1.sendOrLose { msgBlank 6 (m.pv p) (peerAt pr).1 m.ownAddr (peerAt pr).2 p tag genr (0x1000 + id) mid with
      fbuf := id, arg := 3 + 256 * conUnit con + 2 ^ 24 * n }
  | none => m

/-- The credit of an added contribution returns to its contributor (R260). -/
def Mach.creditBack (m : Mach) (p id c : Nat) (con : List Byte) : Mach :=
  match m.rb p id with
  | none => m
  | some b =>
    let m := m.setRb p id { b with credits := b.credits.set c (b.credits.getD c 0 + 1) }
    if conKind con = 1 || conKind con = 3 then m.grantMsg p id con 1 else m

/-! ## Addition (R259, R261) -/

/-- The order in which a tile takes its contributions: (contributor, place) (R259). -/
def turnsOf (r : List Byte) (t : Nat) : List (Nat × Nat) :=
  (List.range (rbNcon r)).flatMap (fun c =>
    let con := rbCon r c
    if conFirst con ≤ t && t ≤ conLast con then (List.range (conN con)).map (fun k => (c, k)) else [])

def tileVals (bs : List Byte) : List Nat := unpackElems 32 4096 bs

/-- The sum of two tiles, one RNE rounding an element, with its flags (R259). -/
def addTiles (xs ys : List Nat) : List Nat × Nat :=
  let es := (xs.zip ys).map (fun e =>
    let a := val32 e.1
    let b := val32 e.2
    let r := convertF fFP32 rne (addV a b)
    (r.1, r.2 ||| if (addV a b).isNan && !(a.isNan || b.isNan) then flInvalid else 0))
  (es.map Prod.fst, es.foldl (fun a e => a ||| e.2) 0)

/-- A slot for a tile: of the SLOWRES slots with one state area for a slow-tier tile, else of the others (R261). Slots 0 to SLOWRES - 1
serve slow tiles, each with the area of its number (the model's numbering). -/
def slotFor (r : List Byte) (b : RBuf) (slow : Bool) : Option (Nat × Option Nat) :=
  let used := b.tiles.map (fun e => e.2.slot)
  if slow then ((List.range (rbSlow r)).find? (fun s => !used.contains s)).map (fun s => (s, some s))
  else ((List.range (rbSlots r)).find? (fun s => rbSlow r ≤ s && !used.contains s)).map (fun s => (s, none))

/-- The 64 rows of a tile as a layout stores them: rows, or columns for the B-block layout (R198, R199, R271). -/
def layRows {α : Type} (wlay : Bool) (d : α) (xs : List α) : List (List α) :=
  (List.range 64).map (fun i => (List.range 64).map (fun j => xs.getD (if wlay then 64 * j + i else 64 * i + j) d))

/-- A tile converted and laid out: its bytes and flags; `rs` gives the rounding of element 64 i + j (R271, R263). -/
def tileImage (fmt : Nat) (wlay : Bool) (rs : List Rnd) (vs : List Val) : List Byte × Nat :=
  let rows := ((layRows wlay Val.nan vs).zip (layRows wlay rne rs)).map (fun r => encodeStore fmt r.2 r.1)
  (rows.flatMap (fun r => r.1) ++ rows.flatMap (fun r => r.2.1), rows.foldl (fun a r => a ||| r.2.2) 0)

/-- Signal UMK when a tile-table entry enables it. -/
def Mach.signalUmk (m : Mach) (p : Nat) (r e : List Byte) : Mach :=
  if bit (teFlags e) 0 then m.signal (((m.clusters p).getD (rbHome r) 0) / 16) (m.absMk p (teUmk e)) 1 else m

/-- A tile's sum is complete (R263): it is counted in GCTAG, and goes out, forward, or to the update engine. An OUT rounding of 10b draws
free words: the spec gives an output tile no stream (log entry 17, DEDUCED); 11b, which the spec names no refusal for, rounds as 10b does (log
entry 227, DESIGN CHOICE). -/
def Mach.tileReduced (m : Mach) (p id t slot : Nat) (r : List Byte) : Mach :=
  let e := m.rbEntry p r t
  let vs := (tileVals (m.rd (m.rbSlotKey p r slot) 16384)).map val32
  let m := m.countStore p (bit (leAt r 26 1) 0) (leAt r 24 1) (chunks 32 129 vs)
  if rbMode r = 0 then
    let rs := (List.range 4096).map (fun i =>
      ({ mode := fld (teFlags e) 3 2, sat := bit (teFlags e) 4, u := Config.freeNat m.free i % 2 ^ 32 } : Rnd))
    let (bs, fl) := tileImage (teWfmt e) (bit (teFlags e) 1) rs vs
    let m := if fld (teFlags e) 3 2 = 2 then { m with free := m.free + 1 } else m
    (((m.put (m.bufKey p (teSbuf e) (64 * teSoff e)) bs).setFlags p fl).signalUmk p r e).rbFree p id t
  else if rbMode r = 1 then
    match m.rb p id with
    | some b => (m.setRb p id { b with fwd := b.fwd ++ [⟨t, 0, false⟩] }).fwdAll p
    | none => m
  else m

/-- CONTRIBUTION_ADD: the contribution whose turn has come at tile `t` is added; the first takes a slot; the credit returns (R259 to
R261). None is added while the job is pre-empted, so that no credit is granted then (Table 9-8). -/
def doContributionAdd (m : Mach) (p id t : Nat) : Mach :=
  match m.rb p id, m.rbRec p id with
  | some b, some r =>
    let round := b.rounds.get 0 t
    let e := m.rbEntry p r t
    let slow := m.slowTile p r e
    let cur := b.tiles.get? t
    match (turnsOf r t)[(match cur with | some s => s.added | none => 0)]? with
    | none => m
    | some (c, k) =>
      let con := rbCon r c
      let j := round * conN con * conSpan con + (t - conFirst con) * conN con + k
      match (b.staged.getD c []).find? (fun s => s.j = j && s.got ≥ 16384) with
      | none => m
      | some s =>
        let ready := !m.switching p && (cur.isSome || rbMode r ≠ 2 || (m.part p).closed ≥ round)
        if !ready then m
        else match (match cur with | some ts => some (ts.slot, ts.area) | none => slotFor r b slow) with
          | none =>
            if s.waited then m
            else (m.setRb p id { b with staged := b.staged.set c ((b.staged.getD c []).map (fun x =>
                if x.j = j then { x with waited := true } else x)) }).addObj (0x6480 + p) 0xA 1
          | some (slot, area) =>
            let sk := m.rbStageKey p r c s.place
            let dk := m.rbSlotKey p r slot
            match m.badRead ([(sk, 16384), (m.rbEntryKey p r t, 32)] ++ if cur.isSome then [(dk, 16384)] else []) with
            | some k => (m.lostRead 2 k).engineFault p id t 0x11
            | none =>
              let added := (match cur with | some ts => ts.added | none => 0) + 1
              let full : Bool := added = (turnsOf r t).length
              let sum := if cur.isSome then addTiles (tileVals (m.rd dk 16384)) (tileVals (m.rd sk 16384))
                else (tileVals (m.rd sk 16384), 0)
              let ts : TileSt := {
                round := round, slot := slot, area := area, added := added, full := full,
                loaded := (match cur with | some x => x.loaded | none => !slow) }
              let b' : RBuf := { b with
                staged := b.staged.set c ((b.staged.getD c []).filter (fun x => x.j ≠ j)), tiles := b.tiles.put t ts,
                rounds := if full then b.rounds.put t (round + 1) else b.rounds }
              let m := (((m.wr dk (packElems 32 sum.1)).setFlags p sum.2).setRb p id b').creditBack p id c con
              let m := if full then m.tileReduced p id t slot r else m
              m.fwdAll p
  | _, _ => m

/-- CONTRIBUTION_ADD (R259). -/
def execContributionAdd (part rid tile : Nat) (s : State) : Result := s.step (fun m => doContributionAdd m part rid tile)

end Sys2Proof.Machine
end

