-- ==== Sys2Proof/Machine/Remote.lean ====
section
/-! DEFINITION. Remote words and messages: RDMA (R136, R257, R300, R307), the far side (R145, R146, R306), responses, credits, pings and
forwarding (R299 to R303). -/

namespace Sys2Proof.Machine

/-! ## RDMA words -/

def rdLen (w : Nat) : Nat := 64 * (fld w 33 22 + 1)
def rdOp (w : Nat) : Nat := fld w 111 110

/-- Effective source offset, in 64-byte units. -/
def rdOff (x : Wx) : Int := (x.f 97 74 : Int) + x.ix (x.f 73 70)

def rdSrc (m : Mach) (x : Wx) : Nat := (match m.buf x.p x.guest x.pk (x.f 109 98) with | some b => b.key | none => 0) + (rdOff x).toNat * 64

def checksRdma (m : Mach) (x : Wx) : List (Nat × Nat) :=
  genFaults x.w [(119, 5)] ++ mustZero x.w 20 5 (!bit x.w 21) ++
  (if (if x.guest then none else x.pk.peerRec (x.f 119 112)).isNone then [(0x12, x.f 119 112)] else []) ++
  (match m.buf x.p x.guest x.pk (x.f 109 98) with
   | none => [(0x12, x.f 109 98)]
   | some b =>
     if b.kind = 2 then [(0x12, x.f 109 98)]
     else
       extentFault 0 (rdOff x) (rdLen x.w) 1 b ++
       (match m.firstBad (rdSrc m x) (rdLen x.w) with | some k => [(0x11, k)] | none => []))

def stallRdma (m : Mach) (x : Wx) : Bool := x.full || x.stalls m [(rdSrc m x, rdLen x.w)] []

/-- An RDMA of a core completes with fault 13h and a far code (R307). -/
def Mach.rdmaLost (m : Mach) (p core pc peer code : Nat) : Mach :=
  (m.fault p core false 0x13 0x2A pc (peer + 256 * code)).addObj (0x4880 + p) 3 1

/-- Wire bytes of a contribution (R257). -/
def contribBytes (op : Nat) : Nat := if op = 1 then 16384 else 8192

/-- The outstanding operation of message `mid` in a list. -/
def isRemote (mid : Nat) (e : DmaEntry) : Bool := match e.plan with | .remote _ m' _ _ => m' = mid | _ => false

/-- Drop the outstanding RDMA `mid` of a core, with the contributions of it that have not left. -/
def Mach.dropRemote (m : Mach) (core mid : Nat) : Mach :=
  (m.modCtx core false (fun c => { c with dma := c.dma.filter (fun e => !isRemote mid e) })).modPart ((m.partOf (core / 16)).getD 0)
    (fun q => { q with radds := q.radds.filter (fun w => !(w.core = some core && w.mid = mid)) })

/-- One reduce-add that waits sends its next contribution when its unit holds a credit (R260). Answers whether anything moved. -/
def Mach.raddStep (m : Mach) (p : Nat) (i : Nat) : Bool × Mach :=
  match (m.part p).radds[i]? with
  | none => (false, m)
  | some w =>
    let first := (m.part p).radds.findIdx (fun v => v.peer = w.peer && v.fbuf = w.fbuf && v.unit = w.unit) = i
    match w.left with
    | [] => (true, m.modPart p (fun x => { x with radds := x.radds.eraseIdx i }))
    | g :: rest =>
      if !first then (false, m)
      else match m.useCredit p w.peer w.fbuf w.unit with
        | none =>
          if w.waited then (false, m)
          else (false, (m.modPart p (fun x => { x with radds := x.radds.set i { w with waited := true } })).addObj (0x6480 + p) 9 1)
        | some used =>
          match used.sendAll g with
          | (0, l, m1) =>
            let m2 := m1.modPart p (fun x => { x with
              radds := if rest.isEmpty then x.radds.eraseIdx i else x.radds.set i { w with left := rest, waited := false } })
            (true, (match w.core with
              | some c => m2.modCtx c false (fun k => { k with dma := k.dma.map (fun e =>
                  match e.plan with
                  | .remote pe md _ _ => if md = w.mid then { e with plan := .remote pe md l m.rc } else e
                  | _ => e) })
              | none => m2))
          | (code, _, _) =>
            let m2 := m.modPart p (fun x => { x with radds := x.radds.eraseIdx i })
            (true, (match w.core with
              | some c => (m2.dropRemote c w.mid).rdmaLost p c
                  (match ((m.core c).host.dma.find? (isRemote w.mid)) with | some e => e.pc | none => 0) w.peer code
              | none => m2))

/-- Let waiting reduce-adds go on as far as credits allow. -/
def Mach.raddPump (m : Mach) (p : Nat) : Nat → Mach
  | 0 => m
  | fuel + 1 =>
    match (List.range (m.part p).radds.length).findSome? (fun i => (fun r => if r.1 then some r.2 else none) (m.raddStep p i)) with
    | some m' => Mach.raddPump m' p fuel
    | none => (List.range (m.part p).radds.length).foldl (fun a i => (a.raddStep p i).2) m

def Mach.raddAll (m : Mach) (p : Nat) : Mach :=
  m.raddPump p ((m.part p).radds.foldl (fun a w => a + w.left.length + 1) 0)

/-- An RDMA word: its source is read, its packets leave, or wait for credits; it stays outstanding until its response (R136, R257,
R300, R307). -/
def doRdma (m : Mach) (x : Wx) : Mach :=
  match x.pk.peerRec (x.f 119 112) with
  | none => m
  | some pr =>
    let m := m.touch [(rdSrc m x, rdLen x.w)]
    let op := rdOp x.w
    let pc := x.ctx.pc
    let (tag, genr) := m.jobId x.p
    let (mid, m1) := m.newMid
    let h := { msgBlank op (m.pv x.p) (peerAt pr).1 m.ownAddr (peerAt pr).2 x.p tag genr x.core mid with
      fbuf := x.f 69 58, foff := x.f 57 34, lenq := x.f 33 22, fmken := bit x.w 21, fmk := x.f 20 5 }
    let bs := m.rd (rdSrc m x) (rdLen x.w)
    let go (m : Mach) (l : Nat) : Mach := m.launch x (.remote (x.f 119 112) mid l m.rc) none
    if op = 2 && m.pv x.p < 2 then m.rdmaLost x.p x.core pc (x.f 119 112) 9
    else if op = 0 || rdLen x.w % contribBytes op ≠ 0 then
      match m1.sendAll (msgPackets h bs) with
      | (0, l, m2) => go m2 l
      | (code, _, _) => m.rdmaLost x.p x.core pc (x.f 119 112) code
    else
      match m.hop (peerAt pr).1 x.core with
      | none => m.rdmaLost x.p x.core pc (x.f 119 112) 0xFE
      | some l =>
        if l < 64 && h.mv > m.linkVer l then m.rdmaLost x.p x.core pc (x.f 119 112) 9
        else
          let n := contribBytes op / packetBytes h.mv
          let w : RaddWait := {
            peer := x.f 119 112, fbuf := x.f 69 58, unit := x.core, core := some x.core, mid := mid,
            left := chunks n 17 (msgPackets h bs), waited := false }
          ((go m1 l).modPart x.p (fun q => { q with radds := q.radds ++ [w] })).raddAll x.p

/-- The row takes RDMA words of one OP. -/
def selRdma (op : Nat) (_ : Mach) (x : Wx) : Bool := opcOf x.w = 0x2A && rdOp x.w = op

/-! ## Arriving messages -/

/-- The oldest message of some channel of a link that is `x`, with its channel and the credits its taking returns (R304). -/
def LinkRt.front (r : LinkRt) (x : Msg) : Option (Nat × Msg × Nat) :=
  (List.range 4).findSome? (fun vc => (r.arrived.find? (fun a => a.1 = vc)).filter (fun a => a.2.1 = x))

/-- A message is the next of its channel on a link, or of those delivered locally (link 64), in the order sent (R299, R304). -/
def Mach.nextIn (m : Mach) (l : Nat) (x : Msg) : Bool :=
  if l = 64 then m.localMsgs.head? == some x else l < 64 && ((m.lrt l).front x).isSome

/-- A message arrives here: it is the next of its channel, and addressed to this module. -/
def Mach.arrives (m : Mach) (l : Nat) (x : Msg) : Bool := m.nextIn l x && (l = 64 || x.dfa = m.ownAddr)

/-- The module once the message has been taken: the credits of its flits go back to the far sender (R291). -/
def Mach.taken (m : Mach) (l : Nat) (x : Msg) : Mach :=
  if l = 64 then { m with localMsgs := m.localMsgs.drop 1 }
  else match (m.lrt l).front x with
    | none => m
    | some a =>
      let m := m.setLrt l { m.lrt l with arrived := (m.lrt l).arrived.erase a }
      if a.2.2 = 0 then m else m.emit (.flit l 0 (a.1 + 4 * a.2.2))

/-- Malformed messages (R301). -/
def Mach.malformed (m : Mach) (l : Nat) (x : Msg) : Bool :=
  x.resv || x.op > 6 || x.mv = 0 || x.mv > 2 || (l < 64 && x.mv > m.linkVer l) || x.data.length ≠ msgDataLen x ||
  (x.op ≤ 2 && x.data.isEmpty) || (x.op = 6 && (x.arg % 256 = 0 || x.arg % 256 > 3))

/-- The version of an answer: the request's, and never above that of the link by which the answer leaves (R295, R301, log entry 46, DESIGN
CHOICE). -/
def Mach.answerMv (m : Mach) (x : Msg) : Nat :=
  max 1 (min x.mv (match m.hop x.sfa 0x3000 with
    | some l => if l < 64 then m.linkVer l else 2
    | none => 2))

/-- Answer a request (Table 10-9). The answering unit is taken as fabric management (log entry 46, DESIGN CHOICE). -/
def Mach.respond (m : Mach) (x : Msg) (code : Nat) : Mach :=
  m.sendOrLose { msgBlank 4 (m.answerMv x) x.sfa m.ownAddr x.spart x.dpart x.tag x.genr 0x3000 x.mid with arg := code }

/-- Refuse an RDMA: its packet 0 is answered once; the later packets of it are discarded (R300). -/
def Mach.refuse (m : Mach) (x : Msg) (code : Nat) : Mach := if x.pidx = 0 then m.respond x code else m

/-- A malformed message is discarded and counted; a request is answered 0Ah. -/
def Mach.discard (m : Mach) (x : Msg) : Mach :=
  let m := m.addObj 0x4800 0xA 1
  if x.op ≤ 2 then m.respond x 0xA else m

/-- A well-formed message of the row's operation that arrives is handled by `f`. -/
def onMsg (m : Mach) (l : Nat) (x : Msg) (sel : Bool) (f : Mach → Mach) : Mach :=
  if !m.arrives l x || !sel then m
  else if m.malformed l x then (m.taken l x).discard x
  else f m

/-- The job of partition `p`, running or pre-empted, that accepts messages of a peer (R145, R306). -/
def Mach.accepts (m : Mach) (j : Job) (x : Msg) : Bool :=
  match (m.part j.part).resident with
  | none => false
  | some k => j.kind = 1 && j.part = x.dpart && (k.recsOf 4).any (fun r =>
      peerAt r == (x.sfa, x.spart) && j.peers.any (fun q => q.1 = leAt r 4 1 && q.2.1 = x.genr && q.2.2 = x.tag))

/-- How a partition takes a message: a running job takes it, a pre-empted one holds it, none drops it. -/
inductive Taker where
  | run
  | hold
  | none
  deriving DecidableEq, Repr

def Mach.taker (m : Mach) (x : Msg) : Taker :=
  if m.jobs.any (fun j => m.accepts j x && j.st = .running) then (if m.switching x.dpart then .hold else .run)
  else if m.jobs.any (fun j => m.accepts j x && (match j.st with | .saved _ _ => true | _ => false)) then .hold
  else .none

/-- The aggregator of a link's die group (R143); local delivery takes the first (log entry 51, DESIGN CHOICE). -/
def aggOf (l : Nat) : Nat := if l < 64 && l / 8 ≥ 4 then 9 else 8

/-- A signal from a link reaches its marker block; one to a marker beyond the partition's clusters has no block, and is dropped without a report
(log entry 230, DESIGN CHOICE). -/
def Mach.farSignal (m : Mach) (p agg mk n : Nat) : Mach :=
  if mk < 512 * (m.clusters p).length then m.send (m.absMk p mk / 512) (.signal agg (m.absMk p mk) n) else m

/-! ### Writes and reduce-adds -/

/-- The contributor of a buffer that the sender of a message is (KIND 1 and 3; SRC is compared with the number SRCU carries, log entry 48,
UNVERIFIED). -/
def Mach.farCon (m : Mach) (p : Nat) (r : List Byte) (x : Msg) : Option Nat :=
  match (m.part p).resident with
  | none => none
  | some k => rbFind r (fun c =>
      (match k.peerRec (conPeer c) with | some pr => peerAt pr == (x.sfa, x.spart) | none => false) &&
      ((conKind c = 1 && conSrc c = x.srcu) || (conKind c = 3 && 0x1000 + conSrc c = x.srcu)))

/-- The refusal of a packet 0 (Tables 9-5 and 10-11), 0 for none. -/
def Mach.farCode (m : Mach) (p : Nat) (k : Pricking) (x : Msg) : Nat :=
  let len := 64 * (x.lenq + 1)
  if x.op = 0 then
    if (k.rbuf x.fbuf).isSome then 4
    else match m.buf p false k x.fbuf with
      | none => 5
      | some b => if b.kind = 2 || x.foff * 64 + len > b.size then 6 else 0
  else
    match k.rbuf x.fbuf with
    | none => 1
    | some r =>
      if x.foff ≠ 0 || len % contribBytes x.op ≠ 0 then 2
      else if (m.farCon p r x).isNone then 3 else 0

def Flow.of (x : Msg) (f : Flow) : Bool := f.sfa = x.sfa && f.spart = x.spart && f.srcu = x.srcu && f.mid = x.mid

/-- BF16 elements converted exactly to FP32 (R257). -/
def widen16 (bs : List Byte) : List Byte :=
  packElems 32 ((unpackElems 16 (bs.length / 2) bs).map (fun w => rne32 (decodeE 2 w)))

/-- The data of an accepted packet lands. -/
def Mach.landPacket (m : Mach) (p : Nat) (k : Pricking) (x : Msg) : Mach :=
  let o := x.pidx * packetBytes x.mv
  if x.op = 0 then
    match m.buf p false k x.fbuf with
    | some b => m.put (b.key + x.foff * 64 + o) x.data
    | none => m
  else
    match k.rbuf x.fbuf, m.rb p x.fbuf with
    | some r, some b =>
      match m.farCon p r x with
      | some c =>
        let at' := o % contribBytes x.op
        let m := if at' = 0 then m.setRb p x.fbuf (b.begin' c) else m
        if x.op = 1 then m.rbLand p x.fbuf c at' x.data else m.rbLand p x.fbuf c (2 * at') (widen16 x.data)
      | none => m
    | _, _ => m

/-- A sender beyond its credits: its contribution waits in front of the buffer (R260). -/
def Mach.noCredit (m : Mach) (p : Nat) (k : Pricking) (x : Msg) : Bool :=
  x.op ≠ 0 && x.pidx * packetBytes x.mv % contribBytes x.op = 0 &&
  (match k.rbuf x.fbuf, m.rb p x.fbuf with
   | some r, some b => (match m.farCon p r x with | some c => b.credits.getD c 0 = 0 | none => false)
   | _, _ => false)

/-- The destination of a flow that a lost route has cut is undefined: its bytes are free (R136). -/
def Mach.cutFlow (m : Mach) (p : Nat) (f : Flow) : Mach :=
  let m := m.modPart p (fun q => { q with flows := q.flows.filter (fun g => g ≠ f) })
  if f.len = 0 then m else ({ m with free := m.free + 1 }).wr f.dst (m.freeBytes f.len)

/-- A remote write of a unit that begins while one of the same unit is incomplete shows that the earlier one was cut: a unit's packets arrive in
the order sent (R300, R304, log entry 231, DEDUCED). -/
def Mach.cutOlder (m : Mach) (p : Nat) (x : Msg) : Mach :=
  ((m.part p).flows.filter (fun f => f.sfa = x.sfa && f.spart = x.spart && f.srcu = x.srcu && f.mid ≠ x.mid && f.len ≠ 0)).foldl
    (fun (a : Mach) f => a.cutFlow p f) m

/-- The flow that packet 0 of a request opens. -/
def Mach.flowOf (m : Mach) (p : Nat) (k : Pricking) (l : Nat) (x : Msg) : Flow :=
  { sfa := x.sfa, spart := x.spart, srcu := x.srcu, mid := x.mid, next := 0, link := l,
    dst := (match m.buf p false k x.fbuf with | some b => b.key + x.foff * 64 | none => 0),
    len := if x.op = 0 then 64 * (x.lenq + 1) else 0 }

/-- A write or reduce-add that its job accepts, from link `l` (R300, R306). -/
def Mach.applyPacket (m : Mach) (l : Nat) (x : Msg) : Mach :=
  let p := x.dpart
  match (m.part p).resident with
  | none => m.refuse x 5
  | some k =>
    let fresh := x.pidx = 0
    let code := if fresh then m.farCode p k x else 0
    if code ≠ 0 then m.respond x code
    else
      let m := if fresh && x.op = 0 then m.cutOlder p x else m
      let flows := if fresh then (m.part p).flows ++ [m.flowOf p k l x] else (m.part p).flows
      if !flows.any (fun f => f.of x && f.next = x.pidx) then m
      else
        let last := (x.pidx + 1) * packetBytes x.mv ≥ 64 * (x.lenq + 1)
        let m := (m.modPart p (fun q => { q with
          flows := if last then flows.filter (fun f => !f.of x) else flows.map (fun f => if f.of x then { f with next := x.pidx + 1 } else f)
          })).landPacket p k x
        if last then (if x.fmken then m.farSignal p (aggOf l) x.fmk 1 else m).respond x 0 else m

/-- Bytes a partition holds for a pre-empted job. -/
def Mach.heldBytes (m : Mach) (p : Nat) : Nat := (m.part p).heldMsgs.foldl (fun a x => a + x.data.length) 0

/-- WRITE, RADD32 and RADD16 (R306, R307, Table 10-12). -/
def doRequest (l : Nat) (x : Msg) (m : Mach) : Mach :=
  let p := x.dpart
  if x.op = 2 && x.mv < 2 then (m.taken l x).refuse x 9
  else if !m.formed p || !m.jobs.any (fun j => j.part = p && j.kind = 1 && (match j.st with
      | .running => true
      | .saved _ _ => true
      | _ => false)) then (m.taken l x).refuse x 8
  else match m.taker x with
    | .none => if x.pidx = 0 then ((m.taken l x).addObj (pix p) 0x1C 1).respond x 7 else m.taken l x
    | .hold =>
      if m.heldBytes p + x.data.length > 262144 then m
      else (m.taken l x).modPart p (fun q => { q with heldMsgs := q.heldMsgs ++ [x] })
    | .run =>
      match (m.part p).resident with
      | some k => if m.noCredit p k x then m else (m.taken l x).applyPacket l x
      | none => (m.taken l x).refuse x 5

/-- SIGNAL (R145, R146). -/
def doSignalMsg (l : Nat) (x : Msg) (m : Mach) : Mach :=
  let p := x.dpart
  match m.taker x with
  | .none => (m.taken l x).addObj (pix p) 0x1C 1
  | .hold =>
    if (m.part p).held.length ≥ 256 then m
    else (m.taken l x).modPart p (fun q => { q with held := q.held ++ [x] })
  | .run => (m.taken l x).farSignal p (aggOf l) x.fmk x.arg

/-! ### Responses -/

/-- The core whose RDMA a message number names. -/
def Mach.remoteCore (m : Mach) (mid : Nat) : Option (Nat × DmaEntry) :=
  m.cores.findSome? (fun e => (e.2.host.dma.find? (isRemote mid)).map (fun d => (e.1, d)))

/-- The FWD tile whose contribution a message number names: partition, buffer, tile. -/
def Mach.remoteTile (m : Mach) (mid : Nat) : Option (Nat × Nat × Nat) :=
  m.parts.findSome? (fun e => e.2.rbufs.findSome? (fun b => (b.2.unanswered.find? (fun u => u.1 = mid)).map (fun u => (e.1, b.1, u.2.1))))

/-- A saved job waits for the response to message `mid`. -/
def SaveSlot.asks (s : SaveSlot) (mid : Nat) : Bool :=
  s.cores.any (fun c => c.ctx.dma.any (isRemote mid)) || s.rbufs.any (fun b => b.2.unanswered.any (fun u => u.1 = mid))

/-- The partition whose saved job a message number names: the response waits for the job (Table 14-9). -/
def Mach.savedRemote (m : Mach) (mid : Nat) : Option Nat := (m.parts.find? (fun e => e.2.saves.any (fun s => s.2.asks mid))).map Prod.fst

/-- An RDMA's response: complete, or fault 13h with the far code (R307). -/
def Mach.answerRemote (m : Mach) (core : Nat) (e : DmaEntry) (mid code : Nat) : Mach :=
  let p := (m.partOf (core / 16)).getD 0
  let m := m.dropRemote core mid
  match e.plan with
  | .remote peer _ _ _ => if code = 0 then m.settle p else m.rdmaLost p core e.pc peer code
  | _ => m

/-- RESP (R307): it completes its RDMA or its FWD contribution; a stray one is counted. -/
def doResp (l : Nat) (x : Msg) (m : Mach) : Mach :=
  let code := x.arg % 256
  let t := m.taken l x
  match m.remoteCore x.mid with
  | some (core, e) => t.answerRemote core e x.mid code
  | none =>
    match m.remoteTile x.mid with
    | some (p, id, tile) =>
      match t.rb p id with
      | none => t
      | some b =>
        let u := b.unanswered.filter (fun u => u.1 ≠ x.mid)
        let t := t.setRb p id { b with unanswered := u }
        if code ≠ 0 then (t.engineFault p id tile 0x13).addObj (0x4880 + p) 3 1
        else if u.any (fun v => v.2.1 = tile) || b.fwd.any (fun v => v.tile = tile) then t
        else (t.rbFree p id tile).fwdAll p
    | none =>
      match m.savedRemote x.mid with
      | some p => t.modPart p (fun q => { q with heldMsgs := q.heldMsgs ++ [x] })
      | none => t.addObj 0x4800 9 1

/-- RESPONSE_TIMEOUT: RDMA `n` of a core has had no response within 4800h.06 ms (R307); the timer runs in a job that stops as well, whose operations
have to complete (R152), and covers there what waits for a credit (log entry 232, DESIGN CHOICE). -/
def doResponseTimeout (m : Mach) (core n : Nat) : Mach :=
  match m.partOf (core / 16), (m.core core).host.dma[n]? with
  | some p, some e =>
    match e.plan with
    | .remote peer mid _ t0 =>
      if (m.resJob p).isSome && !m.switching p && !(m.jobRuns p false && (m.part p).radds.any (fun w => w.mid = mid)) && m.rc - t0 ≥ 25000 * m.obj 0x4800 6 then
        (m.dropRemote core mid).rdmaLost p core e.pc peer 0xFC
      else m
    | _ => m
  | _, _ => m

/-! ### Management -/

/-- CREDIT_GRANT: credits of a far buffer reach the partition; what waited for them goes on (R260). -/
def doCreditGrant (l : Nat) (x : Msg) (m : Mach) : Mach :=
  let p := x.dpart
  let g : Grant := {
    fa := x.sfa, fp := x.spart, tag := x.tag, genr := x.genr, fbuf := x.srcu - 0x1000, unit := fld x.arg 23 8,
    n := fld x.arg 31 24, owed := 0 }
  let old := (m.part p).grants.find? (fun h => h.alike g)
  let m := (m.taken l x).modPart p (fun q => { q with
    grants := match old with
      | some o => q.grants.map (fun h => if h = o then { h with n := h.n + (g.n - h.owed), owed := h.owed - g.n } else h)
      | none => q.grants ++ [g] })
  if (m.resJob p).isSome && !m.switching p then (m.raddAll p).fwdAll p else m

/-- PING: answered with a ping reply (Table 10-9). -/
def doPing (l : Nat) (x : Msg) (m : Mach) : Mach :=
  let (mid, m1) := (m.taken l x).newMid
  m1.sendOrLose { msgBlank 6 x.mv x.sfa m.ownAddr x.spart x.dpart x.tag x.genr 0x3000 mid with arg := 2 + 256 * (x.arg / 256) }

/-- MESSAGE_FORWARD: a message for another module leaves by its route, or is dropped and counted; a request is answered FEh, or 09h when
the leaving link runs a lower version (R303, R307). -/
def doForward (m : Mach) (l : Nat) (x : Msg) : Mach :=
  if l ≥ 64 || !m.nextIn l x || x.dfa = m.ownAddr then m
  else if m.malformed l x then (m.taken l x).discard x
  else
    let m := m.taken l x
    let drop (code : Nat) : Mach :=
      let m := m.addObj 0x4800 8 1
      if x.op ≤ 2 then m.refuse x code else m
    match m.sendMsg x with
    | (0, _, m') => m'.addObj 0x4800 7 1
    | (code, _, _) => drop code

/-! ## The meanings -/

/-- RDMA with OP 00b (R136). -/
def execRdmaRemoteWrite (core : Nat) (s : State) : Result := s.step (fun m => issue m core (selRdma 0) checksRdma stallRdma doRdma)

/-- RDMA with OP 01b (R257). -/
def execRdmaReduceAddFp32 (core : Nat) (s : State) : Result := s.step (fun m => issue m core (selRdma 1) checksRdma stallRdma doRdma)

/-- RDMA with OP 10b (R257, R295). -/
def execRdmaReduceAddBf16 (core : Nat) (s : State) : Result := s.step (fun m => issue m core (selRdma 2) checksRdma stallRdma doRdma)

/-- WRITE (R306); this row also takes messages of the reserved operations, which are malformed. -/
def execWrite (link : Nat) (msg : Msg) (s : State) : Result := s.step (fun m => onMsg m link msg (msg.op = 0 || msg.op > 6) (doRequest link msg))

/-- RADD32 (R306, R257). -/
def execRadd32 (link : Nat) (msg : Msg) (s : State) : Result := s.step (fun m => onMsg m link msg (msg.op = 1) (doRequest link msg))

/-- RADD16 (R306, R257). -/
def execRadd16 (link : Nat) (msg : Msg) (s : State) : Result := s.step (fun m => onMsg m link msg (msg.op = 2) (doRequest link msg))

/-- SIGNAL (R145). -/
def execSignal (link : Nat) (msg : Msg) (s : State) : Result := s.step (fun m => onMsg m link msg (msg.op = 3) (doSignalMsg link msg))

/-- RESP (R307). -/
def execResp (link : Nat) (msg : Msg) (s : State) : Result := s.step (fun m => onMsg m link msg (msg.op = 4) (doResp link msg))

/-- PING (R299); this row also takes management messages of no known subtype, which are malformed. -/
def execPing (link : Nat) (msg : Msg) (s : State) : Result :=
  s.step (fun m => onMsg m link msg (msg.op = 6 && msg.arg % 256 ≠ 2 && msg.arg % 256 ≠ 3) (doPing link msg))

/-- PING_REPLY (R299): it is received, and asks for nothing more. -/
def execPingReply (link : Nat) (msg : Msg) (s : State) : Result :=
  s.step (fun m => onMsg m link msg (msg.op = 6 && msg.arg % 256 = 2) (fun m => m.taken link msg))

/-- CREDIT_GRANT (R260). -/
def execCreditGrant (link : Nat) (msg : Msg) (s : State) : Result :=
  s.step (fun m => onMsg m link msg (msg.op = 6 && msg.arg % 256 = 3) (doCreditGrant link msg))

/-- MESSAGE_FORWARD (R303). -/
def execMessageForward (link : Nat) (msg : Msg) (s : State) : Result := s.step (fun m => doForward m link msg)

/-- RESPONSE_TIMEOUT (R307). -/
def execResponseTimeout (core n : Nat) (s : State) : Result := s.step (fun m => doResponseTimeout m core n)

end Sys2Proof.Machine
end

