-- ==== Sys2Proof/Machine/Links.lean ====
section
/-! DEFINITION. The link layer's events: flits and link-level retry (R288, R289), retrains (R290), training (R292 to R295), loop-backs
(R311, R312), and the writes that command a link. -/

namespace Sys2Proof.Machine

/-! ## Link control -/

/-- A link bound off with its die stays down (R28). -/
def Mach.linkExists (m : Mach) (l : Nat) : Bool := l < 64 && !m.offLinks.contains l

/-- A link fails with a reason of Table 10-7, and its replay buffer and waiting messages are lost (R290). -/
def Mach.failLink (m : Mach) (l reason : Nat) : Mach :=
  ((m.setLinkState l 4).setField (0x4840 + l) 2 15 12 reason).setLrt l
    { m.lrt l with replay := [], queue := [], rxPart := [], keep := false, reported := false, farLoop := false, loopAsk := false }

/-- A link begins to train from the start (R292): sequence numbers, credits and replay buffer are new; messages that have arrived stay. -/
def Mach.trainLink (m : Mach) (l : Nat) : Mach :=
  let r := m.lrt l
  (m.setLinkState l 1).setLrt l { LinkRt.init with t0 := m.rc, retrains := r.retrains, ident := r.ident, arrived := r.arrived.map (fun a => (a.1, a.2.1, 0)) }

/-- The first of the last three retrains lies less than 60 s back. -/
def LinkRt.worn (r : LinkRt) (rc : Nat) : Bool :=
  match (r.retrains.drop 2).head? with
  | some t => decide (rc - t ≤ 1500000000)
  | none => false

/-- An up link retrains and keeps its replay buffer, sequence numbers and waiting messages; a fourth retrain within 60 s of the first of the
last three fails it (R290). -/
def Mach.retrainUp (m : Mach) (l : Nat) : Mach :=
  let r := m.lrt l
  let m := m.addObj32 (0x4840 + l) 0xA 1
  if r.worn m.rc then m.failLink l 8
  else (m.setLinkState l 1).setLrt l
    { r with keep := true, t0 := m.rc, retrains := (m.rc :: r.retrains).take 3, again := (0, 0), probes := [], hellos := [] }

/-- The versions a link's own end offers (R295): those its firmware speaks, up to MAXVER. -/
def Mach.offered (m : Mach) (l : Nat) : Nat :=
  let f := m.obj 0x4800 1
  if m.field (0x4840 + l) 1 5 4 = 1 then f % 2 else f % 4

/-- The highest common version of two masks of offered versions; 0 for none. -/
def commonVer (a b : Nat) : Nat := if bit a 1 && bit b 1 then 2 else if bit a 0 && bit b 0 then 1 else 0

/-- One-way latency: half the median of the sixteen round trips less turnaround, rounded up to the ns (R294; the median of an even number
is taken as the mean of the middle two, log entry 54, DEDUCED). -/
def latencyOf (probes : List Nat) : Nat :=
  let s := inOrder (fun a b => a ≤ b) probes
  cdiv (s.getD 7 0 + s.getD 8 0) 4

/-- Far identity as 4840h + l.04 holds it. -/
def identOf (addr : Nat) (valid : Bool) (link : Nat) : Nat := addr % 4096 + 2 ^ 15 * b2n valid + 2 ^ 16 * (link % 64)

/-- The sixteen probe latencies of a training: those the ECHO_RSPs have brought, where all have come, else those the training shows (R294). -/
def LinkRt.measured (r : LinkRt) (env : LinkEnv) : List Nat := if r.probes.length ≥ 16 then r.probes.take 16 else env.probes

/-- A message that a link of a lower version cannot send: an RDMA completes with 13h and code 09h, a FWD engine faults, a request in transit is
answered 09h, and a signal is lost (Table 10-12). -/
def Mach.stopMsg (m : Mach) (x : Msg) : Mach :=
  if x.op > 2 then m
  else if x.sfa ≠ m.ownAddr then m.refuse x 9
  else match m.remoteCore x.mid, m.remoteTile x.mid with
    | some (core, e), _ => (match e.plan with
        | .remote peer _ _ _ => (m.dropRemote core x.mid).rdmaLost ((m.partOf (core / 16)).getD 0) core e.pc peer 9
        | _ => m)
    | none, some (p, id, tile) => m.engineFault p id tile 0x13
    | none, none => m

/-- After a retrain: the flits unacknowledged go out again, in order, and messages above the link's version are stopped (R290, Table 10-12). -/
def Mach.resumeLink (m : Mach) (l : Nat) : Mach :=
  let r := m.lrt l
  let first := r.tx + 4096 - r.replay.length
  let m := r.replay.zipIdx.foldl (fun (a : Mach) c => a.emit (.data l ((first + c.2) % 4096) c.1.1 c.1.2)) m
  let above := r.queue.filter (fun x => x.mv > m.linkVer l)
  above.foldl (fun (a : Mach) x => a.stopMsg x) (m.setLrt l { r with queue := r.queue.filter (fun x => x.mv ≤ m.linkVer l) })

/-- A training ends: up with version, class, latency and far identity, or failed with a reason (R292, R294, R295). -/
def Mach.finishTraining (m : Mach) (l : Nat) (env : LinkEnv) : Mach :=
  let ver := commonVer (m.offered l) env.farVersions
  let lat := latencyOf ((m.lrt l).measured env)
  let ident := identOf env.farAddr env.farValid env.farLink
  if env.fail ≠ 0 then m.failLink l env.fail
  else if ver = 0 then m.failLink l 6
  else if lat > 1200 then m.failLink l 7
  else
    let r := m.lrt l
    let changed : Bool := match r.ident with
      | some i => i % 2 ^ 12 + 2 ^ 16 * (i / 2 ^ 16) ≠ ident % 2 ^ 12 + 2 ^ 16 * (ident / 2 ^ 16)
      | none => false
    let st := setFld (setFld (setFld (m.obj (0x4840 + l) 2) 6 4 2) 9 8 ver) 7 7 (b2n (lat > 150))
    let m := ((m.setObj (0x4840 + l) 2 st).setObj (0x4840 + l) 3 lat).setObj (0x4840 + l) 4 ident
    let m := ((m.setLrt l { r with keep := false, ident := some ident, probes := [], hellos := [] }).resumeLink l).pumpLink l
    if changed then m.health else m

/-- LINK_TRAIN: the training of a link that trains ends (R292). -/
def doLinkTrain (m : Mach) (l : Nat) (env : LinkEnv) : Mach :=
  if m.linkExists l && m.linkState l = 1 then m.finishTraining l env else m

/-! ## Flits (R288, R289) -/

/-- The BODY of a CTRL flit names no reserved byte or bit (Table 10-3); a CTYPE the table does not list is taken as reserved (log entry 233, DEDUCED).
-/
def ctrlBody (b : List Byte) : Bool :=
  match leAt b 0 1 with
  | 1 => leAt b 1 1 < 4 && fld (leAt b 2 2) 14 12 = 0 && leAt b 4 1 < 64 && leAt b 5 1 < 2 && !nonzero b 6 234
  | 2 => leAt b 1 1 = 0 && !nonzero b 4 236
  | 3 => leAt b 1 1 = 0 && !nonzero b 6 234
  | 4 => leAt b 1 1 = 0 && leAt b 2 2 < 4096 && !nonzero b 4 236
  | 5 => (leAt b 1 1 = 1 || leAt b 1 1 = 2) && !nonzero b 2 238
  | 6 => leAt b 1 1 < 2 && !nonzero b 2 238
  | _ => false

/-- The BODY of a flit fits its KIND: DATA carries slots, CTRL its fields, IDLE all 0 (Tables 10-2 and 10-3). -/
def goodBody (kind : Nat) (b : List Byte) : Bool := kind = 1 || (if kind = 2 then ctrlBody b else !nonzero b 0 240)

/-- A flit is good: 256 bytes, decoded by the FEC, with its CRC right and no reserved field or KIND (R288, Table 10-2): SEQ is 0 and no channel is named
outside DATA flits. -/
def goodFlit (f : List Byte) (fecOk : Bool) : Bool :=
  fecOk && f.length = 256 && leAt f 0 2 < 4096 && leAt f 2 2 / 4096 % 8 = 0 && leAt f 4 1 < 16 && leAt f 4 1 % 4 ≠ 3 &&
  leAt f 5 1 < 4 && leAt f 6 2 < 512 && goodBody (leAt f 4 1 % 4) ((f.drop 8).take 240) && leAt f 248 4 = 0 &&
  crc32c (f.take 252) = leAt f 252 4

/-! ### Messages from flits (R299) -/

/-- The bytes of the message that begins with header `h`: header, and data in whole slots. -/
def msgSpan (h : List Byte) : Nat := 32 + alignUp (msgDataLen (msgOf h [])) 16

/-- What the slots of a flit add: the bytes so far of the message that arrives, and the messages that have become complete, the oldest first; a slot
whose byte 0 is FFh at a message boundary ends the flit. -/
def takeSlots : List (List Byte) → List Byte → List Msg → List Byte × List Msg
  | [], acc, out => (acc, out)
  | s :: t, acc, out =>
    if acc.isEmpty && leAt s 0 1 = 0xFF then (acc, out)
    else
      let a := acc ++ s
      if a.length ≥ 32 && a.length ≥ msgSpan a then
        takeSlots t [] (out ++ [msgOf a ((a.drop 32).take (msgDataLen (msgOf a [])))])
      else takeSlots t a out

/-- The credits that the messages of a flit return: `open'` flits before it are the first message's, and the flit is the last one's when nothing of
it belongs to a message still to come (R291). -/
def flitCredits (vc open' : Nat) (whole : Bool) (ms : List Msg) : List (Nat × Msg × Nat) :=
  ms.zipIdx.map (fun x =>
    (vc, x.1, (if x.2 = 0 then open' else 0) + if whole && x.2 + 1 = ms.length then 1 else 0))

/-- A DATA flit's BODY is taken on a channel: the messages it completes arrive; a flit that is all padding returns its credit at once, which the
second component counts. -/
def LinkRt.slots (r : LinkRt) (vc : Nat) (body : List Byte) : LinkRt × Nat :=
  let old := r.rxPart.get ([], 0) vc
  let (acc, ms) := takeSlots (chunks 16 15 body) old.1 []
  let pad := ms.isEmpty && acc.isEmpty
  let open' := if ms.isEmpty then (if pad then 0 else old.2 + 1) else if acc.isEmpty then 0 else 1
  ({ r with rxPart := r.rxPart.put vc (acc, open'), arrived := r.arrived ++ flitCredits vc old.2 acc.isEmpty ms }, b2n pad)

/-- What any good flit carries back: the acknowledgement and the credits (R289, R291). -/
def LinkRt.acked (r : LinkRt) (f : List Byte) : LinkRt :=
  let left := (r.tx + 4096 - 1 - leAt f 2 2 % 4096) % 4096
  let n := r.replay.length
  let r := if bit (leAt f 2 2) 15 && left ≤ n then
      { r with replay := r.replay.drop (n - left), again := if left < n then (0, 0) else r.again } else r
  let vc := leAt f 5 1 % 4
  { r with credits := r.credits.set vc (min (r.credits.getD vc 0 + leAt f 6 2) ([16, 16, 192, 32].getD vc 0)) }

/-- A RETRY flit leaves, naming the SEQ expected; it is counted (4840h + l.07). -/
def Mach.sendRetry (m : Mach) (l : Nat) : Mach := (m.addObj (0x4840 + l) 7 1).emit (.flit l 4 (m.lrt l).rx)

/-- DATA_FLIT_RECEIVE: a bad flit is discarded, one of an uncorrectable codeword counted, corrected symbols counted; a good one acknowledges and
returns credits; a DATA flit with the SEQ expected is accepted, and its slots carry messages; any other is answered with a RETRY (R288, R289, R299).
What a CTRL flit says reaches the module by the rows of its CTYPE. -/
def doFlit (m : Mach) (l : Nat) (f : List Byte) (fec : Option Nat) : Mach :=
  if !m.linkExists l || m.linkState l ≠ 2 then m
  else
    let m := match fec with
      | some n => m.addObj (0x4840 + l) 8 n
      | none => m.addObj (0x4840 + l) 9 1
    if !goodFlit f fec.isSome then m
    else
    let m := (m.setLrt l ((m.lrt l).acked f)).pumpLink l
    if leAt f 4 1 % 4 ≠ 1 then m
    else
      let r := m.lrt l
      if leAt f 0 2 = r.rx then
        let vc := leAt f 4 1 / 4 % 4
        let (r', back) := { r with rx := (r.rx + 1) % 4096, await := false }.slots vc ((f.drop 8).take 240)
        let m := (m.setLrt l r').addObj (0x4840 + l) 6 1
        if back = 0 then m else m.emit (.flit l 0 (vc + 4 * back))
      else (m.setLrt l { r with await := true }).sendRetry l

/-- The last `n` flits of the replay buffer are sent again, in order (R289). -/
def Mach.resend (m : Mach) (l n : Nat) : Mach :=
  let r := m.lrt l
  ((r.replay.drop (r.replay.length - n)).zipIdx).foldl (fun (a : Mach) c =>
    a.emit (.data l ((r.tx + 4096 - n + c.2) % 4096) c.1.1 c.1.2)) (m.addObj (0x4840 + l) 5 n)

/-- RETRYs for one SEQ are counted. -/
def LinkRt.askedAgain (r : LinkRt) (seq : Nat) : Nat × Nat := if r.again.1 = seq ∧ r.again.2 ≠ 0 then (seq, r.again.2 + 1) else (seq, 1)

/-- RETRY: the sender sends again from the SEQ named; the eighth RETRY for one SEQ without progress retrains the link (R289, R290). -/
def doRetry (m : Mach) (l seq : Nat) : Mach :=
  let r := m.lrt l
  let n := (r.tx + 4096 - seq % 4096) % 4096
  if m.linkState l ≠ 2 || n > r.replay.length then m
  else if (r.askedAgain seq).2 ≥ 8 then m.retrainUp l
  else (m.setLrt l { r with again := r.askedAgain seq }).resend l n

/-- RETRY_REPEAT: the expected flit has not come, and the RETRY is sent again (R289). -/
def doRetryRepeat (m : Mach) (l : Nat) : Mach :=
  if m.linkState l = 2 && (m.lrt l).await then m.sendRetry l else m

/-! ## Training flits -/

/-- HELLO: a lane reports the far end; when both lanes have the same two HELLOs, on different lanes, the far identity is theirs, and in
training a disagreement fails the link (R292, R293). -/
def doHello (m : Mach) (l lane : Nat) (h : Hello) : Mach :=
  if !m.linkExists l || !(m.linkState l = 1 || m.linkState l = 2) || lane > 1 then m
  else
    let r := m.lrt l
    let hs := r.hellos.put lane ((h :: r.hellos.get [] lane).take 2)
    let m := m.setLrt l { r with hellos := hs }
    match hs.get [] 0, hs.get [] 1 with
    | [a, a'], [b, b'] =>
      if a ≠ a' ∨ b ≠ b' then m
      else if a.addr = b.addr && a.link = b.link && a.lane ≠ b.lane then
        (m.setObj (0x4840 + l) 4 (identOf a.addr a.valid a.link)).pumpLink l
      else if m.linkState l = 1 then m.failLink l 5 else m
    | _, _ => m

/-- ECHO_REQ: answered with the turnaround time, a free value: the spec gives it no number (R294). -/
def doEchoReq (m : Mach) (l probe : Nat) : Mach :=
  if m.linkExists l && (m.linkState l = 1 || m.linkState l = 2) then
    let (t, m) := m.fresh
    m.emit (.flit l 3 (probe % 65536 + 65536 * (t % 65536)))
  else m

/-- ECHO_RSP: a probe's round trip less turnaround; the sixteenth of a training sets latency and class, or fails the link with LATENCY (R294). -/
def doEchoRsp (m : Mach) (l turn rtt : Nat) : Mach :=
  if !m.linkExists l || m.linkState l ≠ 1 then m
  else
    let ps := (m.lrt l).probes ++ [rtt - turn]
    let m := m.setLrt l { m.lrt l with probes := ps }
    if ps.length = 16 && latencyOf ps > 1200 then m.failLink l 7
    else if ps.length = 16 then
      (m.setObj (0x4840 + l) 3 (latencyOf ps)).setField (0x4840 + l) 2 7 7 (b2n (latencyOf ps > 150))
    else m

/-! ## Retrains (R290) -/

/-- LINK_RETRAIN: eight fruitless RETRYs, or a lane that loses PMA lock, retrain an up link and keep its replay state; a fourth retrain
within 60 s of the first of the last three fails it. -/
def doLinkRetrain (m : Mach) (l : Nat) : Mach :=
  if !m.linkExists l || m.linkState l ≠ 2 then m else m.retrainUp l

/-- RETRAIN_TIMEOUT: a retrain is not complete within 1 s, and the link fails (R290). -/
def doRetrainTimeout (m : Mach) (l : Nat) : Mach :=
  if m.linkState l = 1 && (m.lrt l).keep && m.rc - (m.lrt l).t0 ≥ 25000000 then m.failLink l 8 else m

/-! ## Loop-backs (R311, R312) -/

/-- A link enters a loop-back and counts as down for routes (R311). -/
def Mach.enterLoop (m : Mach) (l : Nat) (far ask : Bool) : Mach :=
  (m.setLinkState l 3).setLrt l { m.lrt l with farLoop := far, loopAsk := ask, t0 := m.rc, queue := [], replay := [], rxPart := [] }

/-- LOOP_REQ: accepted only by a link that is up with FARLOOP_OK = 1; a leave request ends the loop-back with a training (R312). -/
def doLoopReq (m : Mach) (l : Nat) (enter : Bool) : Mach :=
  if !m.linkExists l then m
  else if enter then
    if m.linkState l = 2 && m.objBit (0x4840 + l) 1 2 then (m.enterLoop l true false).emit (.flit l 6 0) else m.emit (.flit l 6 1)
  else if m.linkState l = 3 && (m.lrt l).farLoop then (m.trainLink l).emit (.flit l 6 0) else m

/-- A far-end loop-back that was refused or not answered: FAR_REFUSED, and the link leaves the loop-back (R312). -/
def Mach.farRefused (m : Mach) (l : Nat) : Mach :=
  ((m.setField (0x4840 + l) 1 10 8 0).trainLink l).setField (0x4840 + l) 2 15 12 9

/-- LOOP_ACK (R312). -/
def doLoopAck (m : Mach) (l : Nat) (ok : Bool) : Mach :=
  if m.linkState l = 3 && (m.lrt l).loopAsk then
    if ok then m.setLrt l { m.lrt l with loopAsk := false } else m.farRefused l
  else m

/-- FAR_LOOP_TIMEOUT: 60 s at the far end, or 1 ms without an answer at the requesting end (R312). -/
def doFarLoopTimeout (m : Mach) (l : Nat) : Mach :=
  let r := m.lrt l
  if m.linkState l ≠ 3 then m
  else if r.farLoop && m.rc - r.t0 ≥ 1500000000 then m.trainLink l
  else if r.loopAsk && m.rc - r.t0 ≥ 25000 then m.farRefused l else m

/-! ## Writes of link objects -/

/-- Some bundle lists a link. -/
def Mach.inBundle (m : Mach) (l : Nat) : Bool := (List.range 32).any (fun b => bit (m.obj (0x4820 + b) 1) l)

/-- The value 4840h + l.01 keeps of a write: reserved bits are ignored, RETRAIN reads 0 (R14, Table 10-15). -/
def linkCtlKept (v : Nat) : Nat := fld v 10 8 * 256 + fld v 5 2 * 4 + v % 2

/-- A write to 4840h + l.01 (Table 10-15, R290, R292, R311): RETRAIN on an up link keeps its replay buffer. -/
def Mach.writeLinkCtl (m : Mach) (l v : Nat) : Mach :=
  let old := m.obj (0x4840 + l) 1
  let loop := fld v 10 8
  if loop > 4 || fld v 5 4 = 0 || fld v 5 4 = 3 then m.reply abortRange
  else if !m.linkExists l then m.reply abortState
  else if loop ≠ 0 && loop ≠ fld old 10 8 && m.inBundle l && m.anyJob then m.reply abortState
  else
    let m := (m.setObj (0x4840 + l) 1 (linkCtlKept v)).reply 0
    if !bit v 0 then
      if bit old 0 then (m.setLinkState l 0).setLrt l { m.lrt l with queue := [], replay := [], rxPart := [], keep := false, farLoop := false, loopAsk := false }
      else m
    else if loop ≠ 0 then
      if loop = fld old 10 8 && bit old 0 then m
      else if loop = 4 then (m.enterLoop l false true).emit (.flit l 5 1) else m.enterLoop l false false
    else if fld old 10 8 ≠ 0 then
      (if fld old 10 8 = 4 then m.emit (.flit l 5 2) else m).trainLink l
    else if bit v 1 then
      (if m.linkState l = 2 then m.retrainUp l
       else if m.linkState l = 1 && (m.lrt l).keep then m
       else (m.addObj32 (0x4840 + l) 0xA 1).trainLink l)
    else if !bit old 0 then m.trainLink l
    else m

/-- A write to 4800h.02 (R293): refused while any job runs; every up link repeats its HELLO. -/
def Mach.writeFabricAddress (m : Mach) (v : Nat) : Mach :=
  if m.anyJob then m.reply abortState
  else
    let m := (m.setObj 0x4800 2 (v % 4096 + 2 ^ 15 * fld v 15 15)).reply 0
    ((List.range 64).filter (fun l => m.linkState l = 2)).foldl (fun (a : Mach) l =>
      (a.setLrt l { a.lrt l with hellos := [] }).emit (.flit l 1 (v % 65536))) m

/-! ## The meanings -/

/-- LINK_TRAIN (R292). -/
def execLinkTrain (link : Nat) (env : LinkEnv) (s : State) : Result := s.step (fun m => doLinkTrain m link env)

/-- DATA_FLIT_RECEIVE (R289). -/
def execDataFlitReceive (link : Nat) (flit : List Byte) (fec : Option Nat) (s : State) : Result := s.step (fun m => doFlit m link flit fec)

/-- RETRY (R289). -/
def execRetry (link seq : Nat) (s : State) : Result := s.step (fun m => doRetry m link seq)

/-- RETRY_REPEAT (R289). -/
def execRetryRepeat (link : Nat) (s : State) : Result := s.step (fun m => doRetryRepeat m link)

/-- HELLO (R292). -/
def execHello (link lane : Nat) (hello : Hello) (s : State) : Result := s.step (fun m => doHello m link lane hello)

/-- ECHO_REQ (R294). -/
def execEchoReq (link probe : Nat) (s : State) : Result := s.step (fun m => doEchoReq m link probe)

/-- ECHO_RSP (R294). -/
def execEchoRsp (link _probe turnNs rttNs : Nat) (s : State) : Result := s.step (fun m => doEchoRsp m link turnNs rttNs)

/-- LOOP_REQ (R312). -/
def execLoopReq (link : Nat) (enter : Bool) (s : State) : Result := s.step (fun m => doLoopReq m link enter)

/-- LOOP_ACK (R312). -/
def execLoopAck (link : Nat) (accepted : Bool) (s : State) : Result := s.step (fun m => doLoopAck m link accepted)

/-- FAR_LOOP_TIMEOUT (R312). -/
def execFarLoopTimeout (link : Nat) (s : State) : Result := s.step (fun m => doFarLoopTimeout m link)

/-- LINK_RETRAIN (R290). -/
def execLinkRetrain (link : Nat) (s : State) : Result := s.step (fun m => doLinkRetrain m link)

/-- RETRAIN_TIMEOUT (R290). -/
def execRetrainTimeout (link : Nat) (s : State) : Result := s.step (fun m => doRetrainTimeout m link)

end Sys2Proof.Machine
end

