-- ==== Sys2Proof/Machine/ArrayMath.lean ====
section
/-! DEFINITION. What the cells of the systolic array compute: legal formats (Table 2-5, Table 2-7), beats (Table 3-1), operand
blocks (R197, R198) and the accumulation of a tile (R62, R64, R88). -/

namespace Sys2Proof.Machine

/-- The format pairs each mode takes (Table 2-5). Modes: 0 MAC, 1 ABSD, 2 SQD, 3 MINP, 4 MAXP, 5 XPOP, 6 CMPS. -/
def legalPair (mode fa fb : Nat) : Bool :=
  let ints := fun c => c = 0x0B || c = 0x0C || c = 0x0D
  if mode = 0 then
    (fa = fb && (fa = 0 || fa = 1 || fa = 2 || fa = 5)) || ((fa = 3 || fa = 4) && (fb = 3 || fb = 4)) ||
    (isMx fa && isMx fb) || (ints fa && ints fb)
  else if mode = 1 || mode = 2 then fa = fb && (ints fa || (1 ≤ fa && fa ≤ 4))
  else if mode = 3 || mode = 4 || mode = 6 then fa = fb && (fa = 0x0B || fa ≤ 2)
  else if mode = 5 then fa = 0x0E && fb = 0x0E
  else false

/-- The drain formats of an accumulator (Table 2-7). -/
def legalDrain (isInt cmps : Bool) (fd : Nat) : Bool :=
  if isInt then [0x0F, 0x0B, 0x0C, 0, 2].contains fd else fd ≤ 5 || (!cmps && isMx fd)

/-- Beats of K steps, bK (Table 3-1). -/
def beatsOf (mode fa fb k : Nat) : Nat :=
  if fa = 0x0E then k / 8
  else if mode = 0 && ((fa = 0x0A && fb = 0x0A) || fa = 5) then k / 2
  else if fa = 0 then 16 * k
  else if fa = 1 || fa = 2 then 2 * k
  else k

/-- Ddr (Table 3-1). -/
def ddrOf (mode : Nat) : Nat := if mode = 6 then 128 else 64

/-- The raw elements of row (or column) `i` of a block of `k` steps, in K order (R197). -/
def rowBits (m : Mach) (key fmt k i : Nat) : List Nat :=
  let w := widthOf fmt
  (List.range (k / 64)).flatMap (fun p => unpackElems w 64 (m.rd (key + (64 * p + i) * 8 * w) (8 * w)))

/-- The scale bytes of row `i` of an MX block, in K order (R197). -/
def rowScales (m : Mach) (key fmt k i : Nat) : List Nat :=
  (List.range (k / 64)).flatMap (fun p =>
    (m.rd (key + 8 * k * widthOf fmt + 128 * p + 2 * i) 2).map BitVec.toNat)

/-- The exact values of row `i`, block scales applied (R54). -/
def rowVals (m : Mach) (key fmt k i : Nat) : List Val :=
  let es := (rowBits m key fmt k i).map (decodeE fmt)
  if isMx fmt then
    let sc := rowScales m key fmt k i
    es.zipIdx.map (fun e => scaled (sc.getD (e.2 / 32) 0) e.1)
  else es

/-- The integers of row `i` of an integer or B1 block. -/
def rowInts (m : Mach) (key fmt k i : Nat) : List Int :=
  (rowBits m key fmt k i).map (fun b => match elemOf fmt with
    | .int n true => toSigned n b
    | _ => (b : Int))

/-- Accumulator of a cell: raw FP32 or INT32 bits, the CMPS index, and the flags raised. -/
structure Acc where
  v : Nat
  idx : Nat
  fl : Nat

/-- The reset value of a bank's cell (R64). -/
def resetVal (mode dir : Nat) (isInt : Bool) : Nat :=
  if mode = 3 || (mode = 6 && dir = 0) then (if isInt then 0x7FFFFFFF else 0x7F800000)
  else if mode = 4 || (mode = 6 && dir = 1) then (if isInt then 0x80000000 else 0xFF800000)
  else 0

/-- An INT32 sum saturates and sets INT_SAT (R62). -/
def satInt (v : Int) : Nat × Nat :=
  if v > 0x7FFFFFFF then (0x7FFFFFFF, flIntSat) else if v < -0x80000000 then (0x80000000, flIntSat) else (ofSigned 32 v, 0)

/-- Add an exact term to an FP32 accumulator with one RNE rounding; a NaN that comes from none raises INVALID (R64). -/
def addTerm (a : Acc) (t : Val) (nanIn : Bool) : Acc :=
  let old := val32 a.v
  let s := addV old t
  { a with v := rne32 s, fl := a.fl ||| if s.isNan && !nanIn && !old.isNan then flInvalid else 0 }

/-- One K-step of a floating mode without block scaling (Table 2-6). `k` is the index the step has in its accumulation. -/
def stepF (mode dir k : Nat) (acc : Acc) (a b : Val) : Acc :=
  let nanIn := a.isNan || b.isNan
  if mode = 0 then addTerm acc (mulV a b) nanIn
  else if mode = 1 then addTerm acc (addV a b.negate).abs nanIn
  else if mode = 2 then addTerm acc (mulV (addV a b.negate) (addV a b.negate)) nanIn
  else if mode = 3 then
    let s := if nanIn then Val.nan else if a = .inf false || b = .inf false then .inf false else round32 (addV a b)
    { acc with v := rne32 (minV (val32 acc.v) s) }
  else if mode = 4 then
    let s := if nanIn then Val.nan else if a = .inf true || b = .inf true then .inf true else round32 (addV a b)
    { acc with v := rne32 (maxV (val32 acc.v) s) }
  else
    let s := round32 (addV a b)
    if s.isNan then { acc with fl := acc.fl ||| if nanIn then 0 else flInvalid }
    else
      let c := cmpVal s (val32 acc.v)
      if acc.idx = 0xFFFFFFFF || (if dir = 0 then c < 0 else c > 0) then { acc with v := rne32 s, idx := k } else acc

/-- One K-step of an integer mode (Table 2-6); XPOP counts differing bits (R62). -/
def stepI (mode dir k : Nat) (acc : Acc) (a b : Int) : Acc :=
  let old := toSigned 32 acc.v
  let put (r : Nat × Nat) : Acc := { acc with v := r.1, fl := acc.fl ||| r.2 }
  if mode = 0 then put (satInt (old + a * b))
  else if mode = 1 then put (satInt (old + (a - b).natAbs))
  else if mode = 2 then put (satInt (old + (a - b) * (a - b)))
  else if mode = 3 then put (satInt (min old (a + b)))
  else if mode = 4 then put (satInt (max old (a + b)))
  else if mode = 5 then put (satInt (old + if a = b then 0 else 1))
  else
    let s := a + b
    if acc.idx = 0xFFFFFFFF || (if dir = 0 then s < old else s > old) then { acc with v := ofSigned 32 s, idx := k } else acc

/-- The exact sum of the element products of a block pair (R62, MX MAC): one term a block. -/
def blockTerm (ps : List (Val × Val)) : Val := ps.foldl (fun s p => addV s (mulV p.1 p.2)) (.zero true)

/-- A cell's accumulation over K-steps `k0` to the end of its operand rows (R62, R88); `kb` is the index of step 0. -/
def accumulate (mode dir : Nat) (mx isInt : Bool) (kb k0 : Nat) (acc : Acc) (as bs : List Val) (ai bi : List Int) : Acc :=
  if isInt then
    ((ai.zip bi).zipIdx.drop k0).foldl (fun x e => stepI mode dir (kb + e.2) x e.1.1 e.1.2) acc
  else if mx then
    (chunks 32 (as.length + 1) ((as.zip bs).drop k0)).foldl
      (fun x bl => addTerm x (blockTerm bl) (bl.any (fun p => p.1.isNan || p.2.isNan))) acc
  else
    ((as.zip bs).zipIdx.drop k0).foldl (fun x e => stepF mode dir (kb + e.2) x e.1.1 e.1.2) acc

/-- The last 64 beats of one edge as bytes, beat by beat, row by row (R91): for b below one a byte holds the K-steps of one beat;
for b above one, the bytes of an element follow one another through its copies (a reading, log entry 26, DEDUCED). -/
def beatBytes (rows : List (List Nat)) (w k bK : Nat) : List Byte :=
  let n := min 64 bK
  (List.range n).flatMap (fun q =>
    let mb := bK - n + q
    rows.map (fun r =>
      if bK ≤ k then
        let per := k / bK
        BitVec.ofNat 8 (((r.drop (mb * per)).take per).foldr (fun e a => e + a * 2 ^ w) 0)
      else
        let b := bK / k
        BitVec.ofNat 8 (r.getD (mb / b) 0 >>> (8 * (mb % b % (w / 8))))))

/-- Sixty-four rows of a tile's A operand: a fill-window batch presents padding rows of zeros (R100). -/
def ArOp.aRow {α : Type} (o : ArOp) (f : Nat → List α) (zero : α) (i : Nat) : List α :=
  match o.batch with
  | some b => if i < b.rows.length then f i else List.replicate o.k zero
  | none => f i

/-- The bank after tile `o.tile` has accumulated its steps from `o.kdone` up to `kend`, with the flags raised (R62, R87). -/
def tileBank (m : Mach) (o : ArOp) (old : Bank) (kend : Nat) : Bank × Nat :=
  let ax := o.ax.toNat
  let fa := axFA ax
  let fb := axFB ax
  let dir := fld ax 98 98
  let isInt := accInt fa
  let cont := o.kdone ≠ 0 || (o.accBit && o.tile = 0)
  let kb := if cont then old.kpos - o.kdone else 0
  let bkey := o.bkey + o.tile * blockBytes fb o.k
  let av := if isInt then [] else (List.range 64).map (o.aRow (fun i => (rowVals m o.akey fa o.k i).take kend) (.zero false))
  let bv := if isInt then [] else (List.range 64).map (fun j => (rowVals m bkey fb o.k j).take kend)
  let ai := if isInt then (List.range 64).map (o.aRow (fun i => (rowInts m o.akey fa o.k i).take kend) 0) else []
  let bi := if isInt then (List.range 64).map (fun j => (rowInts m bkey fb o.k j).take kend) else []
  let cells := (List.range 4096).map (fun n =>
    let i := n / 64
    let j := n % 64
    let acc : Acc :=
      if cont then { v := old.val n, idx := old.idx.getD n 0xFFFFFFFF, fl := 0 }
      else { v := resetVal o.mode dir isInt, idx := 0xFFFFFFFF, fl := 0 }
    accumulate o.mode dir (isMx fa) isInt kb o.kdone acc (av.getD i []) (bv.getD j []) (ai.getD i []) (bi.getD j []))
  ({ vals := cells.map Acc.v, idx := if o.cmps then cells.map Acc.idx else [], held := false, mode := o.mode, isInt := isInt,
     kpos := kb + kend },
   cells.foldl (fun a c => a ||| c.fl) 0)

end Sys2Proof.Machine
end

