-- ==== Sys2Proof/Machine/Array.lean ====
section
/-! DEFINITION. Array words and the array's events: AX, AR (R125 to R127), tiles (R78 to R90), drains (R83 to R87, R101), picot
cycles and ramps (R91 to R96), and the array's hardware faults (R107). -/

namespace Sys2Proof.Machine

/-! ## AX -/

/-- What AX raises. A reserved format code is reported with the lowest bit of its field, not with the lowest bit that makes it reserved: Table
4-26 asks for the lowest faulting bit position and does not say which bit of a reserved value that is (log entry 219, DESIGN CHOICE). -/
def checksAx (_ : Mach) (x : Wx) : List (Nat × Nat) :=
  genFaults x.w [(119, 53)] ++ badField 4 117 (x.f 119 117 = 7) ++ badField 4 112 (x.f 116 112 ≥ 16) ++
  badField 4 107 (x.f 111 107 ≥ 16) ++ badField 4 102 (x.f 106 102 ≥ 16) ++ badField 4 100 (x.f 101 100 = 3) ++
  badField 4 98 (bit x.w 98 && x.f 119 117 ≠ 6) ++ mustZero x.w 96 89 (!bit x.w 97) ++
  badField 5 77 (x.f 88 77 % 64 ≠ 0) ++ refFaults (x.f 76 53) 53 []

/-- AX: sets the array context (R125). -/
def doAx (m : Mach) (x : Wx) : Mach :=
  m.modCtx x.core x.guest (fun c => { c with ax := some (BitVec.ofNat 128 x.w), pc := c.pc + 1 })

/-! ## AR -/

/-- Which banks will hold a held tile once the operations queued so far have run: mode and accumulator type (R80, R87). -/
def Arr.predHeld (a : Arr) : List (Option (Nat × Bool)) :=
  a.queue.foldl (fun h o =>
    let h1 := (List.range (min o.t 2)).foldl (fun h t => h.set (o.bankOf t) none) h
    if o.drainBit then h1 else h1.set (o.bankOf (o.t - 1)) (some (o.mode, accInt (axFA o.ax.toNat))))
    (a.banks.map (fun b => if b.held then some (b.mode, b.isInt) else none))

/-- The batch of window `w` that core `core` consumes next, when it is ready (R100). -/
def Mach.nextBatch (m : Mach) (p w core : Nat) : Option Batch :=
  match (m.part p).wins.get? w with
  | none => none
  | some fw =>
    let n := (m.core core).fwUsed.get 0 w
    (fw.bufs.zipIdx.find? (fun b => b.1.st = .ready n)).map (fun b => { win := w, buf := b.2, rows := b.1.rows })

/-- Key of buffer `b` of a window (R97, R200). -/
def Mach.fwKey (m : Mach) (p : Nat) (fw : FillWin) (b : Nat) : Nat :=
  clusterKey ((m.clusters p).getD fw.home 0) (fw.base + b * blockBytes fw.fmt fw.k)

/-- A return row of `n` bytes lies inside the memory its poster's core has (R107, 44h), and outside a reduction buffer's region (R256). -/
def Mach.retInside (m : Mach) (p : Nat) (pk : Pricking) (ret n : Nat) : Bool :=
  chipOff ret + n ≤ (if ret ≥ 2 ^ 54 then pk.cshare else pk.localBytes) && m.pstate p = 2 &&
  !(ret ≥ 2 ^ 54 && overlaps [(chipOff ret, n)] (pk.rbRegions ((m.clusters p).idxOf ((ret - 2 ^ 54) / 2 ^ 23))))

def checksAr (m : Mach) (x : Wx) : List (Nat × Nat) :=
  let a := x.f 88 65
  let b := x.f 64 41
  let d := x.f 40 17
  let k := arK x.w
  let t := arT x.w
  let word := genFaults x.w [(119, 17)] ++ refFaults a 65 [0] ++ refFaults b 41 [] ++ refFaults d 17 [1, 2] ++
    badField 0x49 89 (x.guest && !bit x.w 89)
  match x.ctx.ax with
  | none => word ++ [(5, 120)]
  | some axw =>
    let ax := axw.toNat
    let isInt := accInt (axFA ax)
    let cmps := axMode ax = 6
    let fw := refKind a = some 0
    let win := fld a 2 0
    let held := (m.core x.core).arr.predHeld
    let bk := x.f 91 91
    let nd := if bit x.w 89 then t else t - 1
    let fwPart :=
      if fw then
        badField 5 17 (d ≠ 0) ++
        match (m.part x.p).wins.get? win with
        | none => [(0x47, win)]
        | some f =>
          (if x.guest || f.home ≠ x.rank || !bit f.cons (x.core % 16) then [(0x47, win)] else []) ++
          badField 5 104 (f.k ≠ k) ++
          (let r := x.ref m (fld ax 76 53)
           if r.inside 128 then [] else [(0x44, info64 r.eff)]) ++
          (match m.nextBatch x.p win x.core with
           | some bt =>
             match bt.rows.find? (fun r => !m.retInside x.p x.pk r.ret (retBytes ax t)) with
             | some r => [(0x44, chipOff r.ret / 64)]
             | none => []
           | none => [])
      else
        (match lowestBit 36 (fld ax 88 53) with | some i => [(4, 53 + i)] | none => []) ++
        (if refKind a = none then
          (let r := x.ref m a
           if r.inside (blockBytes (axFA ax) k) then [] else [(0x44, info64 r.eff)]) else [])
    word ++ fwPart ++
    (if !legalPair (axMode ax) (axFA ax) (axFB ax) then [(0x40, 112)]
     else if !legalDrain isInt cmps (axFD ax) then [(0x40, 102)] else []) ++
    (if bit x.w 90 then
       (match held.getD bk none with
        | none => [(0x42, 90)]
        | some h => if h = (axMode ax, isInt) then [] else [(0x43, 90)])
     else if (held.getD bk none).isSome then [(0x41, 91)] else []) ++
    badField 0x41 91 (t > 1 && (held.getD ((bk + 1) % 2) none).isSome) ++
    (if refKind b = none then
      (let r := x.ref m b
       if r.inside (t * blockBytes (axFB ax) k) then [] else [(0x44, info64 r.eff)]) else []) ++
    (if refKind d = none && !fw && nd ≠ 0 then
      (let r := x.ref m d
       if r.inside (nd * tileBytes (axFD ax) cmps) then [] else [(0x44, info64 r.eff)]) else []) ++
    (if refKind d = some 1 then rbufArFaults m x (fld d 11 0) (axFD ax) isInt else [])

/-- The operation an AR word starts, as the sequencer queues it. -/
def arOpOf (m : Mach) (x : Wx) : ArOp :=
  let a := x.f 88 65
  let d := x.f 40 17
  let ax := (x.ctx.ax.getD 0).toNat
  let batch := if refKind a = some 0 then m.nextBatch x.p (fld a 2 0) x.core else none
  { ax := BitVec.ofNat 128 ax, ar := BitVec.ofNat 128 x.w, pc := x.ctx.pc, guest := x.guest, stream := x.ctx.stream,
    ebase := x.ctx.ebase,
    akey := (match batch with
      | some b => (match (m.part x.p).wins.get? b.win with | some f => m.fwKey x.p f b.buf | none => 0)
      | none => (x.ref m a).key),
    bkey := (x.ref m (x.f 64 41)).key,
    dkey := if refKind d = none && batch.isNone then some (x.ref m d).key else none,
    tkey := (x.ref m (fld ax 76 53)).key,
    rbuf := if refKind d = some 1 then some (fld d 11 0) else none,
    batch := batch, tile := 0, kdone := 0 }

/-- An AR waits behind three operations (R86), for a ready batch (R100: with its rows, r of R123 is known), and for the ranges it
touches. -/
def stallAr (m : Mach) (x : Wx) : Bool :=
  let o := arOpOf m x
  (m.core x.core).arr.queue.length ≥ 3 || (refKind (x.f 88 65) = some 0 && o.batch.isNone) || x.stalls m o.reads (o.writes 0)

/-- AR: queues the operation and advances EBASE (R123, R126). -/
def doAr (m : Mach) (x : Wx) : Mach :=
  let o := arOpOf m x
  let n := o.t * (match o.batch with | some b => 64 * b.rows.length | none => 4096)
  let k := m.core x.core
  let used := match o.batch with
    | some b => k.fwUsed.put b.win (k.fwUsed.get 0 b.win + 1)
    | none => k.fwUsed
  let k := { k with arr := { k.arr with queue := k.arr.queue ++ [o] }, fwUsed := used }
  m.setCore x.core (k.setCtx x.guest { (k.ctx x.guest).bumpBase n with pc := x.ctx.pc + 1 })

/-! ## Tiles -/

/-- The operation's job is being saved: its array latches no new beat (R104, R404). -/
def Mach.arrCut (m : Mach) (core : Nat) (o : ArOp) : Bool := !o.guest && m.switching ((m.partOf (core / 16)).getD 0)

def holdOf (ctl : Nat) : Nat := fld ctl 14 8
def picotOn (ctl : Nat) : Bool := bit ctl 0

/-- TILE_START: the first beat of the next tile is latched, `wait` ic into the gap at which its operands were ready, or later as
R81 asks (R81, R92, R93, R96). -/
def doTileStart (m : Mach) (core wait : Nat) : Mach :=
  let a := (m.core core).arr
  match a.queue with
  | [] => m
  | o :: _ =>
    let ax := o.ax.toNat
    let free := a.drains.all (fun d => d.bank ≠ o.bankOf o.tile)
    let bk := beatsOf o.mode (axFA ax) (axFB ax) o.k
    let r81 := a.ddr - bk
    let go (gap picot bound : Nat) : Mach :=
      let m := (m.addObj 0x6040 1 (if picotOn a.ctl then picot else 0)).addObj 0x6040 3 bound
      m.modArr core (fun a => { a with busy := true, gap := gap, ramp := .hold })
    if a.busy || !free || m.arrCut core o then m
    else if !picotOn a.ctl then go (max wait r81) 0 (r81 - wait)
    else match a.ramp with
      | .hold => if wait ≤ holdOf a.ctl then go (max wait r81) (max wait r81) (r81 - wait) else m
      | .up c => if c ≥ 64 then go (max a.gap r81) (r81 - a.gap) (r81 - a.gap) else m
      | _ => m

/-- The work of a tile (R90). -/
def tileWork (o : ArOp) : Nat :=
  let r := match o.batch with | some b => b.rows.length | none => 64
  if o.mode = 5 then 64 * r * o.k / 8 else 64 * r * o.k

/-- The A and B bytes of the last beats of the tile in flight, from its resumed K-step up to `kend` (R91, R104). -/
def tileBeats (m : Mach) (o : ArOp) (kend : Nat) : List Byte × List Byte :=
  let ax := o.ax.toNat
  let bk := beatsOf o.mode (axFA ax) (axFB ax) kend
  let skip := 64 * (beatsOf o.mode (axFA ax) (axFB ax) o.kdone - (bk - min 64 bk))
  let ra := (List.range 64).map (fun i => (o.aRow (fun i => rowBits m o.akey (axFA ax) o.k i) 0 i).take kend)
  let rb := (List.range 64).map (fun j => (rowBits m (o.bkey + o.tile * blockBytes (axFB ax) o.k) (axFB ax) o.k j).take kend)
  ((beatBytes ra (widthOf (axFA ax)) kend bk).drop skip, (beatBytes rb (widthOf (axFB ax)) kend bk).drop skip)

/-- The beats of the tile in flight up to `kend` (R76), from its resumed K-step. -/
def ArOp.beatsTo (o : ArOp) (kend : Nat) : Nat :=
  let ax := o.ax.toNat
  beatsOf o.mode (axFA ax) (axFB ax) kend - beatsOf o.mode (axFA ax) (axFB ax) o.kdone

/-- An operand half at key `b` of the first operation is uncorrectable: 45h (R107, R535). -/
def Mach.arrayEcc (m : Mach) (core : Nat) (o : ArOp) (b : Nat) : Mach :=
  m.fault ((m.partOf (core / 16)).getD 0) core o.guest 0x45 0x11 o.pc (chipOff b)

/-- The operation of a batch has neither a tile to stream nor a drain to finish: its consumer is done with the batch (R102). -/
def Arr.offBatch (a : Arr) (b : Batch) : Bool :=
  let on (o : ArOp) : Bool := match o.batch with | some c => c.win = b.win && c.buf = b.buf | none => false
  !(a.queue.any on || a.drains.any (fun d => on d.op))

/-- The tag list of a batch: tag i at 2i, FFFFh for a padding row (R101). -/
def tagList (b : Batch) : List Byte :=
  (List.range 64).flatMap (fun i => leBytes 2 (match b.rows[i]? with | some r => r.tag | none => 0xFFFF))

/-- Once the operation of a batch has finished, its held last tile included (DRAIN = 0: no row of that tile drains, and its rows' markers are
not signalled; log entry 220, DEDUCED), the tag list is written and the consumer is done with the batch (R101, R102). -/
def Mach.endBatch (m : Mach) (p core : Nat) (o : ArOp) : Mach :=
  match o.batch with
  | none => m
  | some b =>
    if !(m.core core).arr.offBatch b then m
    else (m.wr o.tkey (tagList b)).modPart p (fun x =>
      { x with wins := match x.wins.get? b.win with
        | some f => x.wins.put b.win { f with bufs := modAt f.bufs b.buf (fun u => { u with used := u.used ++ [core] }) }
        | none => x.wins })

/-- TILE_COMPLETE: the accumulation of the tile in flight completes; its bank holds the sums, its work is counted, and it drains or is
held (R62, R78, R87, R90). A tile one of whose operand halves is uncorrectable faults 45h instead (R107, R535). -/
def doTileComplete (m : Mach) (core : Nat) : Mach :=
  let k := m.core core
  match k.arr.queue with
  | [] => m
  | o :: rest =>
    if !k.arr.busy then m
    else match m.badRead o.tileReads with
    | some b => m.arrayEcc core o b
    | none =>
      let p := (m.partOf (core / 16)).getD 0
      let b := o.bankOf o.tile
      let (bank, fl) := tileBank m o (k.arr.banks.getD b Bank.idle) o.k
      let last := o.tile + 1 = o.t
      let held := last && !o.drainBit
      let bank := { bank with held := held }
      let drains := if o.drains o.tile then k.arr.drains ++ [{ op := o, tile := o.tile, bank := b, left := 64 }] else k.arr.drains
      let bank := if held || o.drains o.tile then bank else Bank.idle
      let (ba, bb) := tileBeats m o o.k
      let oldA := k.arr.beats.take 4096
      let oldB := k.arr.beats.drop 4096
      let arr := { k.arr with
        queue := if last then rest else { o with tile := o.tile + 1, kdone := 0 } :: rest,
        busy := false, banks := k.arr.banks.set b bank, drains := drains, ramp := .hold, gap := 0, ddr := ddrOf o.mode,
        ctl := m.obj (0x6180 + p) 1,
        beats := oldA.drop ba.length ++ ba ++ (oldB.drop bb.length ++ bb) }
      let m := m.setCore core { k with arr := arr, tArr := m.rc }
      let m := { m with work := m.work.put (core / 16) (m.work.get 0 (core / 16) + tileWork o) }
      (((m.countBeats core (o.beatsTo o.k)).setFlags p fl).endBatch p core o).settle p

/-! ## Drains -/

/-- The values of row `i` of a bank, as the drain converts them; a CMPS cell without a candidate reads NaN (Table 2-6). -/
def drainVals (b : Bank) (cmps : Bool) (i : Nat) : List Val :=
  (List.range 64).map (fun j =>
    let v := b.val (64 * i + j)
    if b.isInt then .ofInt (toSigned 32 v)
    else if cmps && b.idx.getD (64 * i + j) 0xFFFFFFFF = 0xFFFFFFFF then .nan
    else val32 v)

/-- The element index of element (i, j) of tile `t` (R123). -/
def ArOp.elem (o : ArOp) (t i j : Nat) : Nat :=
  o.ebase + (match o.batch with | some b => 64 * b.rows.length * t | none => 4096 * t) + 64 * i + j

/-- Where a row's pieces go: (key, bytes) of elements, scales and CMPS indices (R199, R101). The scale bytes of a return row lie behind the
COLOFF + 64 T elements of the row, at the next 64-byte boundary, one for 32 columns; a return row of a CMPS tile carries no indices. Neither
place is stated (log entry 221, DESIGN CHOICE). -/
def rowWrites (o : ArOp) (tile i : Nat) (els scales idx : List Byte) : List (Nat × List Byte) :=
  let fd := axFD o.ax.toNat
  let wd := widthOf fd
  match o.batch with
  | some b =>
    match b.rows[i]? with
    | some r =>
      let col := fld o.ax.toNat 88 77 + 64 * tile
      let n := fld o.ax.toNat 88 77 + 64 * o.t
      (r.ret + col * wd / 8, els) ::
        (if scales.isEmpty then [] else [(r.ret + alignUp (n * wd / 8) 64 + col / 32, scales)])
    | none => []
  | none =>
    let base := o.dkey.getD 0 + tile * tileBytes fd o.cmps
    (base + 8 * i * wd, els) ::
      ((if scales.isEmpty then [] else [(base + 512 * wd + 2 * i, scales)]) ++
       (if idx.isEmpty then [] else [(base + 512 * wd + 256 * i, idx)]))

/-- Row `i` of an operation's tile is no padding row (R100). -/
def ArOp.realRow (o : ArOp) (i : Nat) : Bool := match o.batch with | some b => i < b.rows.length | none => true

/-- The blocks of a tile as the census examines them, row by row (R67). -/
def drainBlocks (b : Bank) (o : ArOp) : List (List Val) :=
  ((List.range 64).filter o.realRow).flatMap (fun i => chunks 32 3 (drainVals b o.cmps i))

/-- The census counts a drain whole, as its last row is written; one that a fault ends is not counted (R69). -/
def Mach.countDrain (m : Mach) (p : Nat) (b : Bank) (d : Drain) : Mach :=
  if d.left = 1 then m.countStore p (bit d.op.ax.toNat 97) (fld d.op.ax.toNat 96 89) (drainBlocks b d.op) else m

/-- DRAIN_ROW_WRITE: the next row of the oldest drain, rows 63 to 0, is converted, flagged and written when its destination
takes it; the drain is counted with its last row; a row of a batch signals its marker after the last tile (R83 to R85, R65 to R67, R101). -/
def doDrainRow (m : Mach) (core : Nat) : Mach :=
  let k := m.core core
  match k.arr.drains with
  | [] => m
  | d :: rest =>
    let o := d.op
    let p := (m.partOf (core / 16)).getD 0
    let i := d.left - 1
    let ax := o.ax.toNat
    let bank := k.arr.banks.getD d.bank Bank.idle
    let vs := drainVals bank o.cmps i
    let key := m.srKeyOf p o.guest
    let rs := (List.range 64).map (fun j => rndAt key (fld ax 101 100) (bit ax 99) o.stream (o.elem d.tile i j))
    let (els, scales, fl) := encodeStore (axFD ax) rs vs
    let idx := if o.cmps then (List.range 64).flatMap (fun j => leBytes 4 (bank.idx.getD (64 * i + j) 0xFFFFFFFF)) else []
    let next : Arr := { k.arr with
      drains := if i = 0 then rest else { d with left := i } :: rest,
      banks := if i = 0 then k.arr.banks.set d.bank { bank with held := false, vals := [], idx := [] } else k.arr.banks }
    let done (m : Mach) : Mach :=
      let lastTile := d.tile + 1 = o.t
      let m := match o.batch.bind (fun b => b.rows[i]?) with
        | some r => if lastTile then m.signal (core / 256) r.marker 1 else m
        | none => m
      (if i = 0 then m.endBatch p core o else m).settle p
    if !o.realRow i then done (m.modArr core (fun _ => next))
    else match o.rbuf with
      | some id =>
        if !m.rbufTakes p id core then m.rbufStarve p id core
        else
          done ((((m.modArr core (fun _ => next)).setFlags p fl).countDrain p bank d).rbufRow p id core i els)
      | none =>
        let ws := rowWrites o d.tile i els scales idx
        match m.badWrite ws with
        | some b => (m.modArr core (fun a => { a with drains := rest })).fault p core o.guest 0x45 0x11 o.pc (chipOff b)
        | none =>
          done ((((m.modArr core (fun _ => next)).wrAll ws).setFlags p fl).countDrain p bank d)

/-! ## Hardware faults of the array -/

/-- ARRAY_ECC: an operand half (by number) of the tile in flight is found uncorrectable as it streams: 45h (R107, R535). -/
def doArrayEcc (m : Mach) (core half : Nat) : Mach :=
  let a := (m.core core).arr
  match a.queue with
  | o :: _ =>
    if a.busy && overlaps o.tileReads [(half * 32, 32)] then (m.spoil (half * 32)).arrayEcc core o (half * 32) else m
  | [] => m

/-- ARRAY_PARITY: a beat fails its parity at the east or south edge: 46h; the spec states no INFO for it, a free value (R107). -/
def doArrayParity (m : Mach) (core : Nat) : Mach :=
  let a := (m.core core).arr
  match a.queue with
  | o :: _ =>
    if a.busy then
      let (v, m) := m.fresh
      m.fault ((m.partOf (core / 16)).getD 0) core o.guest 0x46 0x11 o.pc (v % 2 ^ 64)
    else m
  | [] => m

/-! ## Ramps -/

/-- RAMP_DOWN: the hold has passed without operands: column 63 stops at its end, and 63 columns run on (R92). -/
def doRampDown (m : Mach) (core : Nat) : Mach :=
  let a := (m.core core).arr
  if !a.busy && a.ramp = .hold && picotOn a.ctl then
    (m.addObj 0x6040 1 (holdOf a.ctl - a.gap)).modArr core (fun a => { a with ramp := .down 63, gap := max a.gap (holdOf a.ctl) })
  else m

/-- RAMP_COLUMN_STEP: 8 ic after the last one, a further column stops, or starts; the array is quiescent 8 ic after column 0 has stopped, 512 ic
after the ramp-down began (R92, R93, R96). -/
def doRampStep (m : Mach) (core : Nat) : Mach :=
  let a := (m.core core).arr
  match a.ramp with
  | .down c =>
    (m.addObj 0x6040 2 8).modArr core (fun a => { a with ramp := if c = 0 then .quiet else .down (c - 1), gap := a.gap + 8 })
  | .up c => if c < 64 then (m.addObj 0x6040 2 8).modArr core (fun a => { a with ramp := .up (c + 1), gap := a.gap + 8 }) else m
  | _ => m

/-- RAMP_UP: operands become ready `late` ic after the last column of a ramp-down was due to stop, at most the 8 ic to the next one, or in
quiescence. With `late` 0 the column due in that ic does not stop, so one more column runs (R93). -/
def doRampUp (m : Mach) (core late : Nat) : Mach :=
  let a := (m.core core).arr
  match a.queue with
  | [] => m
  | o :: _ =>
    if a.busy || m.arrCut core o then m
    else match a.ramp with
      | .down c =>
        (m.addObj 0x6040 2 (min late 8)).modArr core (fun a =>
          { a with ramp := .up (if late = 0 then c + 1 else c), gap := a.gap + min late 8 })
      | .quiet => m.modArr core (fun a => { a with ramp := .up 0, gap := a.gap + late })
      | _ => m

/-! ## The meanings -/

/-- AX (R125). -/
def execAx (core : Nat) (s : State) : Result := s.step (fun m => issue m core (selOpc 0x10) checksAx noStall doAx)

/-- AR (R126, R127, R107). -/
def execAr (core : Nat) (s : State) : Result := s.step (fun m => issue m core (selOpc 0x11) checksAr stallAr doAr)

/-- TILE_START (R81). -/
def execTileStart (core wait : Nat) (s : State) : Result := s.step (fun m => doTileStart m core wait)

/-- TILE_COMPLETE (R90). -/
def execTileComplete (core : Nat) (s : State) : Result := s.step (fun m => doTileComplete m core)

/-- DRAIN_ROW_WRITE (R83). -/
def execDrainRowWrite (core : Nat) (s : State) : Result := s.step (fun m => doDrainRow m core)

/-- ARRAY_ECC (R107). -/
def execArrayEcc (core half : Nat) (s : State) : Result := s.step (fun m => doArrayEcc m core half)

/-- ARRAY_PARITY (R107). -/
def execArrayParity (core : Nat) (s : State) : Result := s.step (fun m => doArrayParity m core)

/-- RAMP_DOWN (R92). -/
def execRampDown (core : Nat) (s : State) : Result := s.step (fun m => doRampDown m core)

/-- RAMP_COLUMN_STEP (R92, R93). -/
def execRampColumnStep (core : Nat) (s : State) : Result := s.step (fun m => doRampStep m core)

/-- RAMP_UP (R93). -/
def execRampUp (core late : Nat) (s : State) : Result := s.step (fun m => doRampUp m core late)

end Sys2Proof.Machine
end

