-- ==== Sys2Proof/Machine/Cache.lean ====
section
/-! DEFINITION. The paged key-value cache: PTLD (R137, R240 to R243), cache engines (R244 to R251), cache commands (R253), and the length
table's bindings and pins (R232 to R235). -/

namespace Sys2Proof.Machine

/-! ## PTLD -/

/-- The cache whose page table a PTBUF is. -/
def Mach.ptCache (m : Mach) (x : Wx) : Option CacheAt :=
  if x.guest then none
  else (x.pk.caches.find? (fun r => leAt r 14 2 = x.f 119 108)).bind (fun r => m.cacheAt x.p (leAt r 5 1))

/-- INFO of fault 14h (Table 8-11). -/
def info14 (seq page reason cix : Nat) : Nat := seq % 65536 + 65536 * (page % 65536) + 2 ^ 32 * reason + 2 ^ 40 * cix

def ptNp (w : Nat) : Nat := fld w 75 68 + 1

/-- Bytes a PTLD writes (R241). -/
def ptBytes (c : CacheAt) (np : Nat) : Nat := 16 * ccNkv c.r * cdiv (16 * np) 64 * ccTok c.r * 8

def checksPtld (m : Mach) (x : Wx) : List (Nat × Nat) :=
  genFaults x.w [(119, 27)] ++ refFaults (x.f 67 44) 44 [] ++ mkChecks m x 43 42 27 ++
  (match m.ptCache x with
   | none => [(0x12, x.f 119 108)]
   | some c =>
     let s := x.f 107 92
     let g0 := x.f 91 76
     let np := ptNp x.w
     refRange m x (x.f 67 44) (ptBytes c np) 1 ++
     (if s ≥ ccNseq c.r then [(0x14, info14 s g0 1 c.cix)]
      else if g0 + np > ccMaxpg c.r then [(0x14, info14 s (ccMaxpg c.r) 2 c.cix)]
      else
        (match m.badRead [(c.recKey s, 32), (c.entKey s g0, 4 * np)] with | some b => [(0x11, b)] | none => []) ++
        (match (List.range np).find? (fun i =>
            16 * (g0 + i) < c.clen m s && (!entV (c.ent m s (g0 + i)) || entDrop (c.ent m s (g0 + i)))) with
         | some i => [(0x14, info14 s (g0 + i) 3 c.cix)]
         | none => [])))

/-- Key of token `n` of the snapshot in group `i`, when it lies below CLEN (R238, R241). -/
def CacheAt.tokKey (c : CacheAt) (m : Mach) (s g0 np i n : Nat) : Option Nat :=
  if n < 16 * np && 16 * g0 + n < c.clen m s then
    let e := c.ent m s (g0 + n / 16)
    some (c.slotKey (entBlock e) (entSlot e) + i * ccGrp c.r + n % 16 * ccTok c.r)
  else none

/-- The pieces a PTLD gathers (R241). -/
def CacheAt.segs (c : CacheAt) (m : Mach) (s g0 np dst : Nat) : List (Option Nat × Nat × Nat) :=
  let d := ccD c.r
  let w := ccW c.r
  let nb := cdiv (16 * np) 64
  let region := nb * 8 * d * w
  (List.range (ccNkv c.r)).flatMap (fun h =>
    (List.range (64 * nb)).flatMap (fun n => (List.range (d / 64)).map (fun q =>
      ((c.tokKey m s g0 np (2 * h) n).map (· + q * 8 * w),
       dst + 2 * h * region + n / 64 * (8 * d * w) + (64 * q + n % 64) * 8 * w, 8 * w))) ++
    (List.range d).flatMap (fun j => (List.range (64 * nb)).map (fun n =>
      ((c.tokKey m s g0 np (2 * h + 1) n).map (· + j * w / 8),
       dst + (2 * h + 1) * region + j / 64 * (8 * 64 * nb * w) + (64 * (n / 64) + j % 64) * 8 * w + n % 64 * w / 8, w / 8))))

def planPtld (m : Mach) (x : Wx) : DmaPlan :=
  match m.ptCache x with
  | some c =>
    let np := ptNp x.w
    let dst := (x.ref m (x.f 67 44)).key
    .gather dst (ptBytes c np) (c.segs m (x.f 107 92) (x.f 91 76) np dst)
  | none => .gather 0 0 []

/-- PTLD: the checks and the snapshot are made at issue; the pages move until DMA_COMPLETE (R240, R241). -/
def doPtld (m : Mach) (x : Wx) : Mach := m.launch x (planPtld m x) (x.mkOf m 43 42 27)

/-! ## Allocation (R247, R249) -/

/-- The lowest free slot of a block. -/
def freeSlot (mask : Nat) : Option Nat := (List.range 16).find? (fun q => !bit mask q)

/-- Rules 1 to 3 of R247 for page `g` of sequence `s`. -/
def CacheAt.findSlot (c : CacheAt) (m : Mach) (s g : Nat) : Option (Nat × Nat) :=
  let at' (b : Nat) : Option (Nat × Nat) := (freeSlot (c.mask m b)).map (fun q => (b, q))
  let prev : Option (Nat × Nat) :=
    if g = 0 then none
    else (let e := c.ent m s (g - 1)
          if entV e then at' (entBlock e) else none)
  match prev with
  | some x => some x
  | none =>
    match (List.range (ccNblk c.r)).find? (fun b => c.mask m b = 0) with
    | some b => some (b, 0)
    | none => (List.range (ccNblk c.r)).findSome? at'

/-- Take a slot for a page: the entry, MASK, SOLE and NPG (R247). A page that a refill brings back keeps DROP until its tokens are written (R246). -/
def CacheAt.take (c : CacheAt) (m : Mach) (s g : Nat) (refill : Bool) (bq : Nat × Nat) : Mach :=
  let mask := c.mask m bq.1
  let sole := if mask = 0 then s else if c.sole m bq.1 ≠ s then 0xFFFF else s
  let drop := b2n (refill && entDrop (c.ent m s g))
  (((m.wrNat (c.entKey s g) 4 (2 ^ 31 + 2 ^ 30 * drop + 16 * bq.1 + bq.2)).wrNat (c.blkKey bq.1) 2 (mask ||| 2 ^ bq.2)).wrNat (c.blkKey bq.1 + 2) 2 sole).wrNat
    (c.recKey s + 4) 4 (c.npg m s + 1)

/-- The sequences that own a slot of a block. -/
def CacheAt.owners (c : CacheAt) (m : Mach) (b : Nat) : List Nat :=
  (List.range (ccNseq c.r)).filter (fun s => (List.range (ccMaxpg c.r)).any (fun g => entV (c.ent m s g) && entBlock (c.ent m s g) = b))

/-- Free the slot of a page whose entry was `e` and no longer stands: MASK, and SOLE as the one sequence that owns every slot still used (R239, R247;
where none is used it has no meaning and stays; log entry 61, DEDUCED). -/
def CacheAt.freeAt (c : CacheAt) (m : Mach) (e : Nat) : Mach :=
  let b := entBlock e
  (m.wrNat (c.blkKey b) 2 (Machine.setBit (c.mask m b) (entSlot e) false)).wrNat (c.blkKey b + 2) 2 (match c.owners m b with
    | [] => c.sole m b
    | [s] => s
    | _ => 0xFFFF)

/-- Drop page `g` of a victim (R249). -/
def CacheAt.dropPage (c : CacheAt) (m : Mach) (v g : Nat) : Mach :=
  let e := c.ent m v g
  let m := c.freeAt (m.wrNat (c.entKey v g) 4 (2 ^ 30 + e % 2 ^ 24)) e
  c.setFlag ((m.wrNat (c.recKey v + 4) 4 (c.npg m v - 1)).wrNat (c.recKey v + 18) 2 (c.ndrop m v + b2n (!entDrop e))) v 2 true

/-- The victim: the lowest stamp among the unpinned other sequences with pages, the lowest number on a tie (R249). -/
def CacheAt.victim (c : CacheAt) (m : Mach) (s : Nat) : Option Nat :=
  let vs := (List.range (ccNseq c.r)).filter (fun v => v ≠ s && c.npg m v > 0 && c.flags m v % 4 = 0)
  vs.foldl (fun a v => match a with
    | none => some v
    | some u => if c.stamp m v < c.stamp m u then some v else some u) none

def Mach.cacheSt (m : Mach) (p cix : Nat) : CacheSt :=
  (m.part p).caches.get { round := 0, entry := none, count := 0, stall := none, retry := false, rounds := 0, dropped := 0, blocks := 0 } cix

def Mach.setCache (m : Mach) (p cix : Nat) (s : CacheSt) : Mach := m.modPart p (fun x => { x with caches := x.caches.put cix s })

/-- Drop pages of the victim: its highest whole block, else its highest page (R249). -/
def CacheAt.dropFrom (c : CacheAt) (m : Mach) (p v : Nat) : Mach :=
  let pages := ((List.range (ccMaxpg c.r)).filter (fun g => entV (c.ent m v g))).reverse
  let st := m.cacheSt p c.cix
  match pages.find? (fun g => c.mask m (entBlock (c.ent m v g)) = 0xFFFF && c.sole m (entBlock (c.ent m v g)) = v) with
  | some g =>
    let b := entBlock (c.ent m v g)
    let ps := pages.filter (fun h => entBlock (c.ent m v h) = b)
    (ps.foldl (fun a h => c.dropPage a v h) m).setCache p c.cix { st with dropped := st.dropped + ps.length, blocks := st.blocks + 1 }
  | none =>
    match pages.head? with
    | some g => (c.dropPage m v g).setCache p c.cix { st with dropped := st.dropped + 1 }
    | none => m

/-- What rules 1 to 3 of R247 read of the page table for page `g` of sequence `s`: the entry before it, its block, and the block map up to the
block they take. -/
def CacheAt.slotReads (c : CacheAt) (m : Mach) (s g : Nat) : List (Nat × Nat) :=
  let prev := if g = 0 then [] else
    (c.entKey s (g - 1), 4) :: (if entV (c.ent m s (g - 1)) then [(c.blkKey (entBlock (c.ent m s (g - 1))), 8)] else [])
  let near := g ≠ 0 && entV (c.ent m s (g - 1)) && (freeSlot (c.mask m (entBlock (c.ent m s (g - 1))))).isSome
  prev ++ if near then [] else
    [(c.blkKey 0, 8 * match (List.range (ccNblk c.r)).find? (fun b => c.mask m b = 0) with
      | some b => b + 1
      | none => ccNblk c.r)]

/-- What a drop from sequence `v` reads: its page entries and their blocks (R249). -/
def CacheAt.dropReads (c : CacheAt) (m : Mach) (v : Nat) : List (Nat × Nat) :=
  (c.entKey v 0, 4 * ccMaxpg c.r) ::
    (((List.range (ccMaxpg c.r)).filter (fun g => entV (c.ent m v g))).map (fun g => (c.blkKey (entBlock (c.ent m v g)), 8)))

/-- What placing pages comes to: all are placed; the engine stalls at a page; a read of the page table meets an uncorrectable half. -/
inductive Placed where
  | all
  | stall (g : Nat)
  | lost (key : Nat)
  deriving DecidableEq, Repr

/-- Allocate a slot for a page: rules 1 to 3, then a drop and the rules again; a stall when there is no victim (R247, R250, R251). -/
def CacheAt.alloc (c : CacheAt) (m : Mach) (p s g : Nat) (refill : Bool) : Placed × Mach :=
  match m.badRead (c.slotReads m s g), c.findSlot m s g with
  | some h, _ => (.lost h, m)
  | none, some bq => (.all, c.take m s g refill bq)
  | none, none =>
    match m.badRead [(c.recKey 0, 32 * ccNseq c.r)], c.victim m s with
    | some h, _ => (.lost h, m)
    | none, none => (.stall g, m)
    | none, some v =>
      match m.badRead (c.dropReads m v) with
      | some h => (.lost h, m)
      | none =>
        let m' := c.dropFrom m p v
        match c.findSlot m' s g with
        | some bq => (.all, c.take m' s g refill bq)
        | none => (.stall g, m')

/-- Place pages in order, as far as that goes. -/
def CacheAt.place (c : CacheAt) (p s : Nat) (refill : Bool) : Mach → List Nat → Placed × Mach
  | m, [] => (.all, m)
  | m, g :: t =>
    if entV (c.ent m s g) then CacheAt.place c p s refill m t
    else match c.alloc m p s g refill with
      | (.all, m') => CacheAt.place c p s refill m' t
      | r => r

/-! ## Append entries (R245, R246) -/

/-- An append-list entry's fields. -/
structure Entry where
  seq : Nat
  mode : Nat
  ntok : Nat
  pg : Nat
  doff : Nat

def CacheAt.listKey (c : CacheAt) : Nat := clusterKey c.g (leAt c.r 24 4)

def CacheAt.entryAt (c : CacheAt) (m : Mach) (n : Nat) : Entry :=
  let e := m.rd (c.listKey + 64 + 16 * n) 16
  { seq := leAt e 0 2, mode := leAt e 2 1, ntok := leAt e 4 2, pg := leAt e 6 2, doff := leAt e 8 4 }

/-- First token and pages of an entry. -/
def CacheAt.firstTok (c : CacheAt) (m : Mach) (e : Entry) : Nat := if e.mode = 1 then 16 * e.pg else c.clen m e.seq

def CacheAt.pagesOf (c : CacheAt) (m : Mach) (e : Entry) : List Nat :=
  if e.mode = 1 then (List.range (cdiv e.ntok 16)).map (e.pg + ·)
  else
    let g0 := cdiv (c.clen m e.seq) 16
    (List.range (cdiv (c.clen m e.seq + e.ntok) 16 - g0)).map (g0 + ·)

/-- The reason and page an entry fails with (Table 8-11), the lowest reason first. -/
def CacheAt.entryFault (c : CacheAt) (m : Mach) (e : Entry) : Option (Nat × Nat) :=
  let clen := c.clen m e.seq
  if e.seq ≥ ccNseq c.r then some (1, 0)
  else if e.mode = 0 && clen + e.ntok > 16 * ccMaxpg c.r then some (2, ccMaxpg c.r)
  else if e.mode = 1 && e.pg + cdiv e.ntok 16 > ccMaxpg c.r then some (2, ccMaxpg c.r)
  else if e.mode > 1 || (e.mode = 0 && (e.ntok = 0 || e.ntok > 256)) ||
      (e.mode = 1 && (e.ntok = 0 || !(e.ntok % 16 = 0 || 16 * e.pg + e.ntok = clen))) then some (0x10, e.pg)
  else if e.mode = 0 && clen % 16 ≠ 0 && entDrop (c.ent m e.seq (clen / 16)) then some (0x11, clen / 16)
  else if e.mode = 1 then
    ((c.pagesOf m e).find? (fun g => g ≥ cdiv clen 16 || !entDrop (c.ent m e.seq g))).map (fun g => (0x12, g))
  else none

/-- A cache engine's fault: CORE FFFFh, PC the entry (R243, R251). -/
def Mach.cacheFault (m : Mach) (p pc code info : Nat) : Mach :=
  let m := if hwCode code then { m with hwWait := m.hwWait ++ [(code, p, 0xFFFF)] } else m
  m.jobFault p false code (fun j =>
    leBytes 1 code ++ leBytes 1 0 ++ leBytes 2 0xFFFF ++ leBytes 4 pc ++ leBytes 2 j.tag ++ leBytes 1 j.genr ++ zeros 5 ++
    leBytes 8 info ++ leBytes 8 m.rc)

/-- The token writes of an entry whose pages are placed: (key, bytes) (R238, R245). -/
def CacheAt.tokWrites (c : CacheAt) (m : Mach) (e : Entry) : List (Nat × List Byte) :=
  let t0 := c.firstTok m e
  let pitch := 64 * cdiv (e.ntok * ccD c.r * ccW c.r) 512
  (List.range (2 * ccNkv c.r)).flatMap (fun i => (List.range e.ntok).map (fun j =>
    let x := c.ent m e.seq ((t0 + j) / 16)
    (c.slotKey (entBlock x) (entSlot x) + i * ccGrp c.r + (t0 + j) % 16 * ccTok c.r,
     m.rd (clusterKey c.g (64 * e.doff + i * pitch + j * ccTok c.r)) (ccTok c.r))))

/-- The ranges of staged tokens an entry reads. -/
def CacheAt.staged (c : CacheAt) (e : Entry) : List (Nat × Nat) :=
  [(clusterKey c.g (64 * e.doff), (2 * ccNkv c.r) * (64 * cdiv (e.ntok * ccD c.r * ccW c.r) 512))]

/-- Ranges that outstanding PTLD words of a partition still read (R242). -/
def Mach.ptReads (m : Mach) (p : Nat) : List (Nat × Nat) :=
  (m.coresOf p).flatMap (fun k => (m.core k).host.dma.flatMap (fun d => match d.plan with
    | .gather _ _ _ => d.plan.reads
    | _ => []))

/-- An entry whose pages are placed writes its tokens and takes effect; its engine goes to the next entry (R246). -/
def CacheAt.finish (c : CacheAt) (m : Mach) (p n : Nat) (e : Entry) : Mach :=
  let ws := c.tokWrites m e
  let m := (m.touch (c.staged e ++ ws.map (fun w => (w.1, w.2.length)))).wrAll ws
  let m :=
    if e.mode = 0 then m.wrNat (c.recKey e.seq) 4 (c.clen m e.seq + e.ntok)
    else
      let m := (c.pagesOf m e).foldl (fun (a : Mach) g => a.wrNat (c.entKey e.seq g) 4 (Machine.setBit (c.ent a e.seq g) 30 false)) m
      let left := c.ndrop m e.seq - cdiv e.ntok 16
      c.setFlag (m.wrNat (c.recKey e.seq + 18) 2 left) e.seq 2 (bit (c.flags m e.seq) 2 && left ≠ 0)
  let m := m.wrNat (c.recKey e.seq + 8) 8 (m.obj (0x6440 + p) 7)
  m.setCache p c.cix { m.cacheSt p c.cix with entry := some (n + 1), retry := false }

/-- The page at which the engine stalled is placed: STALL and bit 31 of 6440h + p.06 are cleared (R250). -/
def CacheAt.unstall (c : CacheAt) (m : Mach) (p s : Nat) : Mach :=
  let st := m.cacheSt p c.cix
  if st.stall.isSome then ((c.setFlag m s 3 false).setField (0x6440 + p) 6 31 31 0).setCache p c.cix { st with stall := none } else m

/-- Place an entry's pages and finish it, or stall: a stall at another page than before is reported anew (R246, R250). A slot that an outstanding
PTLD still reads holds the engine, which then tries again (R242); an uncorrectable read of the page table is fault 11h (R251). -/
def CacheAt.apply (c : CacheAt) (m : Mach) (p n : Nat) (e : Entry) : Mach :=
  match c.place p e.seq (e.mode = 1) m (c.pagesOf m e) with
  | (.all, m') =>
    if overlaps ((c.tokWrites m' e).map (fun w => (w.1, w.2.length))) (m.ptReads p) then m else c.finish (c.unstall m' p e.seq) p n e
  | (.stall g, m') =>
    if (m'.cacheSt p c.cix).stall = some g then m'.setCache p c.cix { m'.cacheSt p c.cix with retry := false }
    else
      let m2 := c.unstall m' p e.seq
      ((((c.setFlag m2 e.seq 3 true).setCache p c.cix { m2.cacheSt p c.cix with stall := some g, retry := false })).setObj (0x6440 + p) 6
        (2 ^ 31 + 65536 * c.cix + e.seq)).raise (576 + p)
  | (.lost h, m') => (m'.lostRead 2 h).cacheFault p n 0x11 (chipOff h)

/-- The page entries that the checks of an entry read. -/
def CacheAt.entReads (c : CacheAt) (m : Mach) (e : Entry) : List (Nat × Nat) :=
  (if e.mode = 0 then [c.clen m e.seq / 16] else []) ++ c.pagesOf m e |>.filterMap (fun g =>
    if g < ccMaxpg c.r then some (c.entKey e.seq g, 4) else none)

/-- The engines of a partition act: its job runs and no save is under way (R251). -/
def Mach.enginesRun (m : Mach) (p : Nat) : Bool := m.jobRuns p false && !m.switching p

/-- APPEND and REFILL: the engine's next entry, when its MODE is the row's (APPEND also meets the reserved modes). -/
def doEntry (m : Mach) (p cix : Nat) (refill : Bool) : Mach :=
  match m.cacheAt p cix, (m.cacheSt p cix).entry with
  | some c, some n =>
    let st := m.cacheSt p cix
    let e := c.entryAt m n
    if !m.enginesRun p || n ≥ st.count || st.stall.isSome || (e.mode = 1) ≠ refill then m
    else
      let m := m.touch [(c.listKey + 64 + 16 * n, 16)]
      match m.badRead ((c.listKey + 64 + 16 * n, 16) :: if e.seq < ccNseq c.r then (c.recKey e.seq, 32) :: c.entReads m e else []) with
      | some b => (m.lostRead 2 b).cacheFault p n 0x11 (chipOff b)
      | none =>
        match c.entryFault m e with
        | some f => m.cacheFault p n 0x14 (info14 e.seq f.2 f.1 cix)
        | none =>
          match m.badRead (c.staged e) with
          | some b => (m.lostRead 2 b).cacheFault p n 0x11 (chipOff b)
          | none => c.apply m p n e
  | _, _ => m

/-- ENGINE_STALL_RETRY: after a cache command, the stalled engine goes on at its page (R250). -/
def doStallRetry (m : Mach) (p cix : Nat) : Mach :=
  match m.cacheAt p cix, (m.cacheSt p cix).entry with
  | some c, some n =>
    let st := m.cacheSt p cix
    if m.enginesRun p && st.stall.isSome && st.retry then c.apply m p n (c.entryAt m n) else m
  | _, _ => m

/-- APPEND_ROUND: with AMK at n + 1 the engine takes round n's list; at the end of the list it signals DMK and takes the next round (R244). -/
def doAppendRound (m : Mach) (p cix : Nat) : Mach :=
  match m.cacheAt p cix with
  | none => m
  | some c =>
    let st := m.cacheSt p cix
    if !m.enginesRun p then m
    else match st.entry with
      | none =>
        if m.markers.get 0 (m.absMk p (leAt c.r 20 2)) < st.round + 1 then m
        else
          let m := m.touch [(c.listKey, 64)]
          match m.badRead [(c.listKey, 64)] with
          | some b => (m.lostRead 2 b).cacheFault p 0 0x11 (chipOff b)
          | none =>
            let ne := m.rdNat c.listKey 2
            if ne > 256 then m.cacheFault p 0 0x14 (info14 0 0 0x13 cix)
            else m.setCache p cix { st with entry := some 0, count := ne }
      | some n =>
        if n < st.count then m
        else (m.setCache p cix { st with entry := none, round := st.round + 1, rounds := st.rounds + 1 }).signal (c.g / 16)
          (m.absMk p (leAt c.r 22 2)) 1

/-! ## Cache commands (R253) -/

/-- RELEASE: every slot of the sequence is free, its entries and record are 0. -/
def CacheAt.release (c : CacheAt) (m : Mach) (s : Nat) : Mach :=
  let es := ((List.range (ccMaxpg c.r)).map (c.ent m s)).filter entV
  es.foldl (fun a e => c.freeAt a e) ((m.wipe (c.entKey s 0) (4 * ccMaxpg c.r)).wipe (c.recKey s) 32)

/-- A write to 6440h + p.03 (Table 8-14, R253). -/
def Mach.cacheCommand (m : Mach) (p v : Nat) : Mach :=
  let op := fld v 18 16
  let s := fld v 15 0
  let cix := m.obj (0x6440 + p) 1
  if fld v 31 19 ≠ 0 then m.reply abortRange
  else if m.pstate p = 0 || m.objBit (0x6440 + p) 4 0 then m.reply abortState
  else
    let m := m.reply 0
    if op = 0 then m
    else match m.cacheAt p cix with
      | none => m.cmdDone (0x6440 + p) 4 false
      | some c =>
        if s ≥ ccNseq c.r || op > 3 || (op = 1 && bit (c.flags m s) 1) then m.cmdDone (0x6440 + p) 4 false
        else
          let m := if op = 1 then c.release m s else c.setFlag m s 0 (op = 2)
          let st := m.cacheSt p cix
          (m.setCache p cix { st with retry := st.stall.isSome }).cmdDone (0x6440 + p) 4 true

/-! ## Length bindings (R232 to R235) -/

def Pricking.lengths (k : Pricking) : Option (List Byte) := (k.recsOf 7).find? (fun r => leAt r 4 1 = 2)

/-- The length table as a dispatch reads it: key of LTBUF and N. -/
structure LenTab where
  key : Nat
  n : Nat

def LenTab.len (t : LenTab) (m : Mach) (e : Nat) : Nat := if e < t.n then m.rdNat (t.key + 64 + 8 * e) 4 else 0
def LenTab.seq (t : LenTab) (m : Mach) (e : Nat) : Nat := if e < t.n then m.rdNat (t.key + 68 + 8 * e) 2 else 0xFFFF

def rem64 (x : Nat) : Nat := if x = 0 then 0 else x - 64 * (cdiv x 64 - 1)

/-- CLEN of an entry's sequence; of a sequence the cache does not have, the spec states none: a free value. -/
def LenTab.clen (t : LenTab) (m : Mach) (p cix e : Nat) : Nat :=
  let s := t.seq m e
  if s = 0xFFFF then 0
  else match m.cacheAt p cix with
    | some c => if s < ccNseq c.r then c.clen m s else Config.freeNat m.free e % 2 ^ 32
    | none => Config.freeNat m.free e % 2 ^ 32

/-- The functions of Table 8-5. -/
def bindFn (m : Mach) (p : Nat) (t : LenTab) (fn ent cix s r : Nat) : Nat :=
  let len := t.len m ent
  let keys := t.clen m p cix ent + len
  let tk := cdiv keys 64
  if fn = 0 then len
  else if fn = 1 then cdiv len 64
  else if fn = 2 then (List.range ent).foldl (fun a e => a + cdiv (t.len m e) 64) 0
  else if fn = 3 then rem64 len
  else if fn = 4 then keys
  else if fn = 5 then tk
  else if fn = 6 then rem64 keys
  else if fn = 7 then tk / s + (if r < tk % s then 1 else 0)
  else if fn = 8 then r * (tk / s) + min r (tk % s)
  else m.rdNat t.key 2

/-- The field of a target (Table 8-6). -/
def bindField (tgt : Nat) : Nat × Nat :=
  if tgt = 0 then (114, 83) else if tgt = 1 then (107, 92) else if tgt = 2 then (91, 76) else if tgt = 3 then (75, 68)
  else if tgt = 4 then (119, 104) else if tgt = 5 then (103, 92) else if tgt = 6 then (90, 79) else (92, 81)

/-- The largest value of a target (Table 8-6). -/
def bindLimit (tgt image : Nat) : Nat :=
  if tgt = 0 then 2 ^ 32 - 1 else if tgt ≤ 2 then 65535 else fld image (bindField tgt).1 (bindField tgt).2

/-- Write a bound value into a word of a pricking's streams. -/
def Pricking.patch (k : Pricking) (core word tgt v : Nat) : Pricking :=
  { k with streams := modAt k.streams core (fun st => modAt st word (fun w =>
      BitVec.ofNat 128 (setFld w.toNat (bindField tgt).1 (bindField tgt).2 v))) }

/-- A binding whose value breaks its limit: relative core, word, value, cache index, binding index, opcode. -/
structure BadBind where
  core : Nat
  word : Nat
  v : Nat
  cix : Nat
  idx : Nat
  opc : Nat
  deriving DecidableEq, Repr

/-- Apply the bindings in order up to the first that breaks its limit. -/
def bindAll (m : Mach) (p : Nat) (t : LenTab) : List (List Byte × Nat) → Pricking → Option BadBind × Pricking
  | [], k => (none, k)
  | (b, i) :: rest, k =>
    let core := leAt b 0 2
    let word := leAt b 4 4
    let tgt := leAt b 9 1
    let image := ((k.image.getD core []).getD word 0).toNat
    let v := (bindFn m p t (leAt b 8 1) (leAt b 2 2) (leAt b 10 1) (leAt b 16 1) (leAt b 17 1) * leAt b 11 1 + leAt b 12 4) % 2 ^ 32
    if v > bindLimit tgt image then
      (some { core := core, word := word, v := v, cix := leAt b 10 1, idx := i, opc := opcOf image }, k)
    else bindAll m p t rest (k.patch core word tgt v)

/-- The length table of a pricking's dispatch. -/
def Mach.lenTab (m : Mach) (p : Nat) (r : List Byte) : LenTab :=
  let key := m.bufKey p (leAt r 6 2) 0
  { key := key, n := min (m.rdNat key 2) (leAt r 8 2) }

/-- The sequences of a length table. -/
def LenTab.seqs (t : LenTab) (m : Mach) : List Nat := ((List.range t.n).map (t.seq m)).dedup

/-- Clear every job pin of a partition (R235). -/
def Mach.unpinAll (m : Mach) (p : Nat) : Mach := m.pinSeqs p (List.range 4096) false

/-- The length bindings of a dispatch (R234): the binding that breaks its limit, if any, and the module after. -/
def Mach.bindLengths (m : Mach) (p : Nat) : Option BadBind × Mach :=
  match (m.part p).resident with
  | none => (none, m)
  | some k =>
    match k.lengths with
    | none => (none, m)
    | some r =>
      let t := m.lenTab p r
      let bs := (List.range (leAt r 10 2)).map (fun i => ((r.drop (16 + 24 * i)).take 24, i))
      let (bad, k') := bindAll m p t bs k
      let m := m.addObj32 (0x6440 + p) 0xC (m.rdNat t.key 2 - t.n)
      let m := { m with free := m.free + 1 }
      let m := m.modPart p (fun x => { x with resident := some k' })
      (bad, if bad.isSome then m else m.pinSeqs p (t.seqs m) true)

/-! ## The meanings -/

/-- PTLD (R137, R240). -/
def execPtld (core : Nat) (s : State) : Result :=
  s.step (fun m => issue m core (selOpc 0x2B) checksPtld (fun m x => stallPlan m x (planPtld m x)) doPtld)

/-- APPEND_ROUND (R244). -/
def execAppendRound (part cix : Nat) (s : State) : Result := s.step (fun m => doAppendRound m part cix)

/-- APPEND (R246). -/
def execAppend (part cix : Nat) (s : State) : Result := s.step (fun m => doEntry m part cix false)

/-- REFILL (R246). -/
def execRefill (part cix : Nat) (s : State) : Result := s.step (fun m => doEntry m part cix true)

/-- ENGINE_STALL_RETRY (R250). -/
def execEngineStallRetry (part cix : Nat) (s : State) : Result := s.step (fun m => doStallRetry m part cix)

/-- RELEASE (R253). -/
def execRelease (part v : Nat) (s : State) : Result := s.step (fun m => if part < 64 && m.online && fld v 18 16 = 1 then m.cacheCommand part v else m)

/-- PIN (R253). -/
def execPin (part v : Nat) (s : State) : Result := s.step (fun m => if part < 64 && m.online && fld v 18 16 = 2 then m.cacheCommand part v else m)

/-- UNPIN (R253). -/
def execUnpin (part v : Nat) (s : State) : Result := s.step (fun m => if part < 64 && m.online && fld v 18 16 = 3 then m.cacheCommand part v else m)

end Sys2Proof.Machine
end

