-- ==== Sys2Proof/Machine/Markers.lean ====
section
/-! DEFINITION. Stitch markers: the marker words (R140, R142, R147), the marker blocks (R141, R143, R149) and the wait limit (R148). -/

namespace Sys2Proof.Machine

/-! ## Words (Table 4-23) -/

/-- What MSIG raises. The marker of an MSIG to a peer is the peer's and is not range checked here (log entry 236, DESIGN CHOICE). -/
def checksMsig (m : Mach) (x : Wx) : List (Nat × Nat) :=
  genFaults x.w [(119, 63)] ++ badField 5 72 (x.f 103 72 = 0) ++ mustZero x.w 70 63 (!bit x.w 71) ++
  (if bit x.w 71 then
     (match (if x.guest then none else x.pk.peerRec (x.f 70 63)) with
      | some _ => []
      | none => [(0x12, x.f 70 63)])
   else mkFaults m x (x.f 119 104))

/-- MSIG waits for every earlier write of its context by array drains (R142). -/
def stallMsig (m : Mach) (x : Wx) : Bool :=
  let a := (m.core x.core).arr
  a.drains.any (fun d => d.op.guest == x.guest) ||
  a.queue.any (fun o => o.guest == x.guest && (List.range o.t).any (fun t => o.tile ≤ t && o.drains t))

/-- MSIG: adds N to a marker, here or at a peer (R140, R145). -/
def doMsig (m : Mach) (x : Wx) : Mach :=
  let m := m.advance x
  if bit x.w 71 then
    match x.pk.peerRec (x.f 70 63) with
    | some r =>
      let (mid, m) := m.newMid
      let (tag, genr) := m.jobId x.p
      m.sendOrLose { msgBlank 3 (m.pv x.p) (peerAt r).1 m.ownAddr (peerAt r).2 x.p tag genr x.core mid with
        fmk := x.f 119 104, arg := x.f 103 72 }
    | none => m
  else m.signal (x.core / 256) (m.absMk x.p (x.f 119 104)) (x.f 103 72)

def checksMwait (m : Mach) (x : Wx) : List (Nat × Nat) := genFaults x.w [(119, 72)] ++ mkFaults m x (x.f 119 104)

/-- MWAIT: the context waits; its wait goes to the marker's block (R140). PC stays at the MWAIT until it is satisfied (R147). -/
def doMwait (m : Mach) (x : Wx) : Mach :=
  let k := m.absMk x.p (x.f 119 104)
  (m.modCtx x.core x.guest (fun c => { c with run := .waiting k (x.f 103 72) m.rc c.carry, carry := 0 })).send (k / 512)
    (.wait (x.core / 256) k (x.f 103 72) x.core x.guest)

def checksMrst (m : Mach) (x : Wx) : List (Nat × Nat) := genFaults x.w [(119, 104)] ++ mkFaults m x (x.f 119 104)

/-- MRST: sets the counter to 0. -/
def doMrst (m : Mach) (x : Wx) : Mach :=
  let k := m.absMk x.p (x.f 119 104)
  (m.advance x).send (k / 512) (.reset (x.core / 256) k)

/-! ## Marker blocks -/

/-- The messages that reach a block in one ic, and those that go on waiting: the oldest message of each source, of at most `n` sources
(R143). -/
def takeIc : Nat → List Nat → List MkMsg → List MkMsg × List MkMsg
  | 0, _, q => ([], q)
  | _, _, [] => ([], [])
  | n + 1, seen, x :: t =>
    if seen.contains x.src then
      let r := takeIc (n + 1) seen t
      (r.1, x :: r.2)
    else
      let r := takeIc n (x.src :: seen) t
      (x :: r.1, r.2)

/-- The counter of a marker after the resets and signals of an ic, unsaturated (R141). -/
def counterAfter (old : Nat) (k : Nat) (xs : List MkMsg) : Nat :=
  let base := if xs.any (fun x => match x with | .reset _ k' => k' = k | _ => false) then 0 else old
  xs.foldl (fun a x => match x with | .signal _ k' n => if k' = k then a + n else a | _ => a) base

/-- The markers of a block that resets or signals of an ic name, ascending. -/
def touched (g : Nat) (xs : List MkMsg) : List Nat :=
  ((List.range 512).map (512 * g + ·)).filter (fun k => xs.any (fun x => match x with
    | .reset _ k' => k' = k
    | .signal _ k' _ => k' = k
    | .wait _ _ _ _ _ => false))

/-- A wait is satisfied: its context goes on behind its MWAIT; a host context on a core in its guest context calls it back (R144,
R411). -/
def Mach.wake (m : Mach) (w : Wait) : Mach :=
  let k := m.core w.core
  let c := k.ctx w.guest
  match c.run with
  | .waiting km _ _ _ =>
    if km ≠ w.marker then m
    else
      let k' := k.setCtx w.guest { c with run := .running, pc := c.pc + 1 }
      m.setCore w.core { k' with back := k'.back || (k.inGuest && !w.guest) }
  | _ => m

/-- A saturation sets bit 0 of 6200h + p.02, and records its marker when the bit rises (R149). -/
def Mach.saturate (m : Mach) (p k : Nat) : Mach :=
  if m.objBit (0x6200 + p) 2 0 then m
  else (m.setBit (0x6200 + p) 2 0 true).setObj (0x6200 + p) 3 (512 * (m.clusters p).idxOf (k / 512) + k % 512)

/-- The resets and signals that reach block `g` of partition `p` in one ic move its counters; of several that saturate the lowest is recorded
(R141, R149). -/
def Mach.applyIc (m : Mach) (p g : Nat) (xs : List MkMsg) : Mach :=
  (touched g xs).foldl (fun (a : Mach) k =>
    let v := counterAfter (a.markers.get 0 k) k xs
    let a' := { a with markers := a.markers.put k (min v 0xFFFFFFFF) }
    if v > 0xFFFFFFFF then a'.saturate p k else a') m

/-- MARKER_UPDATE: up to ten messages reach block `g` in one ic: resets, then signals, then every wait is evaluated (R141, R143,
R149). -/
def doMarkerUpdate (m : Mach) (g n : Nat) : Mach :=
  let r := takeIc (min n 10) [] (m.ports.get [] g)
  let xs := r.1
  let p := (m.partOf g).getD 0
  let m := { m with ports := m.ports.put g r.2 }
  let m := m.applyIc p g xs
  let ws := m.waits.get [] g ++ xs.filterMap (fun x => match x with
    | .wait _ k n c gu => some { marker := k, n := n, core := c, guest := gu }
    | _ => none)
  let sat (w : Wait) : Bool := w.n ≤ m.markers.get 0 w.marker
  (ws.filter sat).foldl Mach.wake { m with waits := m.waits.put g (ws.filter (fun w => !sat w)) }

/-! ## The wait limit -/

/-- The rc a waiting context has waited while its job ran (R148). -/
def Ctx.waitedRc (c : Ctx) (rc : Nat) : Nat :=
  match c.run with
  | .waiting _ _ t0 n => n + (rc - t0)
  | _ => 0

/-- A waiting context past the limit of 6200h + p.01: its marker. -/
def Mach.overdue (m : Mach) (p core : Nat) (guest : Bool) : Option Nat :=
  let c := (m.core core).ctx guest
  let lim := m.obj (0x6200 + p) 1
  match c.run with
  | .waiting k _ _ _ => if lim ≠ 0 && c.waitedRc m.rc > 25 * lim && m.jobRuns p guest && !(m.switching p && !guest) then some k else none
  | _ => none

/-- WAIT_TIMEOUT: a core waits at one MWAIT beyond the limit: 21h (R148). -/
def doWaitTimeout (m : Mach) (core : Nat) : Mach :=
  match m.partOf (core / 16) with
  | none => m
  | some p =>
    let go (guest : Bool) (k : Nat) : Mach :=
      m.fault p core guest 0x21 9 ((m.core core).ctx guest).pc
        (512 * (m.clusters p).idxOf (k / 512) + k % 512 + 65536 * m.markers.get 0 k)
    match m.overdue p core false, m.overdue p core true with
    | some k, _ => go false k
    | none, some k => go true k
    | none, none => m

/-! ## The meanings -/

/-- MSIG (R140, R142). -/
def execMsig (core : Nat) (s : State) : Result := s.step (fun m => issue m core (selOpc 8) checksMsig stallMsig doMsig)

/-- MWAIT (R140). -/
def execMwait (core : Nat) (s : State) : Result := s.step (fun m => issue m core (selOpc 9) checksMwait noStall doMwait)

/-- MRST (R140). -/
def execMrst (core : Nat) (s : State) : Result := s.step (fun m => issue m core (selOpc 10) checksMrst noStall doMrst)

/-- MARKER_UPDATE (R141). -/
def execMarkerUpdate (g n : Nat) (s : State) : Result := s.step (fun m => doMarkerUpdate m g n)

/-- WAIT_TIMEOUT (R148). -/
def execWaitTimeout (core : Nat) (s : State) : Result := s.step (fun m => doWaitTimeout m core)

end Sys2Proof.Machine
end

