-- ==== Sys2Proof/Machine/Training.lean ====
section
/-! DEFINITION. The update engine and its recipes (R264 to R272), replica digests (R276, R277), the close of an update round (R266) and the
format command (R280). -/

namespace Sys2Proof.Machine

/-! ## Recipes (R268, R269) -/

def Pricking.recipes (k : Pricking) : List (List Byte) := (k.recsOf 5).filter (fun r => leAt r 4 1 = 2)

def Pricking.recipe (k : Pricking) (rid : Nat) : Option (List Byte) := k.recipes.find? (fun r => leAt r 5 1 = rid)

def rcOpt (r : List Byte) : Nat := leAt r 6 1
def rcF (r : List Byte) (o : Nat) : Val := val32 (leAt r o 4)

/-- A recipe before its first update: STEP 0, P1 and P2 1.0. -/
def RecipeSt.init : RecipeSt := { step := 0, p1 := 0x3F800000, p2 := 0x3F800000, lr := 0, c1 := 0, c2 := 0 }

def Mach.recipeSt (m : Mach) (p rid : Nat) : RecipeSt := m.recipes.get RecipeSt.init (p * 16 + rid)

def Mach.setRecipe (m : Mach) (p rid : Nat) (s : RecipeSt) : Mach := { m with recipes := m.recipes.put (p * 16 + rid) s }

/-- fl(x): an integer rounded to FP32. -/
def fl32 (n : Nat) : Val := round32 (.ofInt n)

def recip32 (x : Val) : Val := sfuBuiltin 2 x

/-- The FP32 difference 1 - x. -/
def oneLess (x : Val) : Val := add32 one32 x.negate

/-- values(): the recipe's values for its next round (R269). -/
def recipeValues (r : List Byte) (s : RecipeSt) : RecipeSt :=
  let t := s.step + 1
  let warm := leAt r 16 4
  let f : Val :=
    if t ≤ warm then mul32 (fl32 t) (recip32 (fl32 warm))
    else
      let u := mul32 (fl32 (t - warm)) (recip32 (fl32 (leAt r 20 4)))
      if leAt r 7 1 = 0 then one32
      else if leAt r 7 1 = 1 then maxV (.zero false) (oneLess u)
      else if leAt r 7 1 = 2 then sfuBuiltin 3 (add32 one32 u)
      else sfuBuiltin 0 u.negate
  let lr := rne32 (maxV (rcF r 12) (mul32 (rcF r 8) f))
  if rcOpt r = 0 then { s with lr := lr }
  else
    let q1 := mul32 (val32 s.p1) (rcF r 24)
    let q2 := mul32 (val32 s.p2) (rcF r 28)
    { s with lr := lr, c1 := rne32 (recip32 (oneLess q1)), c2 := rne32 (recip32 (oneLess q2)) }

/-- advance() (R269). -/
def recipeAdvance (r : List Byte) (s : RecipeSt) : RecipeSt :=
  { s with step := (s.step + 1) % 2 ^ 64, p1 := rne32 (mul32 (val32 s.p1) (rcF r 24)), p2 := rne32 (mul32 (val32 s.p2) (rcF r 28)) }

/-- Run a routine on every declared recipe of a partition. -/
def Mach.eachRecipe (m : Mach) (p : Nat) (f : List Byte → RecipeSt → RecipeSt) : Mach :=
  match (m.part p).resident with
  | none => m
  | some k => k.recipes.foldl (fun x r => x.setRecipe p (leAt r 5 1) (f r (x.recipeSt p (leAt r 5 1)))) m

/-! ## The update of an element (R270) -/

/-- An FP32 operation's result, with the flags of it and of what came before. -/
def opF (v : Val) (ins : List Val) (fl : Nat) : Val × Nat :=
  let r := fpRes v (ins.any Val.isNan)
  (r.1, fl ||| r.2)

def fmaF (a b c : Val) (fl : Nat) : Val × Nat := opF (addV (mulV a b) c) [a, b, c] fl
def mulF (a b : Val) (fl : Nat) : Val × Nat := opF (mulV a b) [a, b] fl
def addF (a b : Val) (fl : Nat) : Val × Nat := opF (addV a b) [a, b] fl

/-- update(): the new w, m and v of an element, and its flags (R270). An infinite gradient element is not clipped, as the closing words of the rule say
(log entry 228, DEDUCED). -/
def updateElem (r : List Byte) (s : RecipeSt) (g w mo v : Val) : Val × Val × Val × Nat :=
  let b1 := rcF r 24
  let b2 := rcF r 28
  let wd := rcF r 36
  let clip := rcF r 44
  let nlr := (val32 s.lr).negate
  let inf := g.isInf
  let (g, fl) := mulF g (rcF r 40) 0
  let g := if clip.isZero || inf then g else minV (maxV g clip.negate) clip
  if rcOpt r = 0 then
    let (g, fl) := fmaF wd w g fl
    let (mo, fl) := fmaF b1 mo g fl
    let (w, fl) := fmaF nlr mo w fl
    (w, mo, v, fl)
  else
    let (g, fl) := if rcOpt r = 1 then fmaF wd w g fl else (g, fl)
    let (t, fl) := mulF (oneLess b1) g fl
    let (mo, fl) := fmaF b1 mo t fl
    let (gg, fl) := mulF g g fl
    let (t, fl) := mulF (oneLess b2) gg fl
    let (v, fl) := fmaF b2 v t fl
    let (mh, fl) := mulF mo (val32 s.c1) fl
    let (vh, fl) := mulF v (val32 s.c2) fl
    let (sq, fl) := if vh.isZero then (.zero false, fl) else mulF vh (sfuBuiltin 3 vh) fl
    let (den, fl) := addF sq (rcF r 32) fl
    let (d, fl) := mulF mh (recip32 den) fl
    let (d, fl) := if rcOpt r = 2 then fmaF wd w d fl else (d, fl)
    let (w, fl) := fmaF nlr d w fl
    (w, mo, v, fl)

/-! ## Digests (R276) -/

def crc64Bit (r : Nat) : Nat :=
  if r ≥ 2 ^ 63 then ((r * 2) % 2 ^ 64) ^^^ 0x42F0E1EBA9EA3693 else r * 2

def crc64Byte (r : Nat) (b : Byte) : Nat := (List.range 8).foldl (fun x _ => crc64Bit x) (r ^^^ (b.toNat <<< 56))

/-- CRC-64 of a string of bytes from a register value (R276: initial value 0). -/
def crc64 (r : Nat) (bs : List Byte) : Nat := bs.foldl crc64Byte r

/-- The CRC of a concatenation from the CRC of its front and the CRC of a tile of 16,384 bytes behind it. -/
def crc64Join (front tile : Nat) : Nat := crc64 front (zeros 16384) ^^^ tile

/-! ## Tiles -/

/-- Bytes of a state image (R256). -/
def imageBytes (opt : Nat) : Nat := if opt = 0 then 32768 else 49152

/-- OPT of the recipe of a tile-table entry. -/
def Mach.tileOpt (m : Mach) (p : Nat) (e : List Byte) : Nat :=
  match ((m.part p).resident).bind (fun k => k.recipe (teRid e)) with
  | some r => rcOpt r
  | none => 0

/-- STATE_READ_COMPLETE: a slow-tier tile's state image is in its state area (R262). -/
def doStateRead (m : Mach) (p id t : Nat) : Mach :=
  match m.rb p id, m.rbRec p id with
  | some b, some r =>
    match b.tiles.get? t with
    | none => m
    | some ts =>
      match ts.area with
      | none => m
      | some a =>
        if ts.loaded then m
        else
          let e := m.rbEntry p r t
          let n := imageBytes (m.tileOpt p e)
          let src := m.bufKey p (teSbuf e) (64 * teSoff e)
          let m := m.touch [(src, n)]
          match m.badRead [(m.rbEntryKey p r t, 32), (src, n)] with
          | some k => (m.lostRead (if k ≥ 2 ^ 53 then 2 else 1) k).engineFault p id t 0x11
          | none => (m.wr (m.rbAreaKey p r a) (m.rd src n)).setRb p id { b with tiles := b.tiles.put t { ts with loaded := true } }
  | _, _ => m

/-- Every UPDATE tile of the partition as (ID, tile), ascending. -/
def Pricking.updateTiles (k : Pricking) : List (Nat × Nat) :=
  k.updates.flatMap (fun r => (List.range (rbTiles r)).map (fun t => (rbId r, t)))

/-- A tile waits for its update: its sum is complete and its state is there (R264). -/
def Mach.tileReady (m : Mach) (p : Nat) (it : Nat × Nat) : Bool :=
  match m.rb p it.1 with
  | some b => (match b.tiles.get? it.2 with | some ts => ts.full && ts.loaded | none => false)
  | none => false

/-- A tile has been updated for the open round. -/
def Mach.tileDone (m : Mach) (p : Nat) (it : Nat × Nat) : Bool :=
  match m.rb p it.1 with
  | some b => (b.tiles.get? it.2).isNone && b.rounds.get 0 it.2 = (m.part p).closed + 1
  | none => false

/-- SWEEP_START: with sweep timing, every UPDATE tile has completed the round with its state, and the updates begin (R264). -/
def doSweepStart (m : Mach) (p : Nat) : Mach :=
  match (m.part p).resident with
  | none => m
  | some k =>
    if m.obj (0x6480 + p) 1 = 1 && !k.updates.isEmpty && !(m.part p).sweep && k.updateTiles.all (m.tileReady p) then
      m.modPart p (fun x => { x with sweep := true })
    else m

/-- The round number that the generator of a working copy takes (R271). -/
def wcRounds (id round t : Nat) (key rnd : Nat) : List Rnd :=
  (List.range 4096).map (fun i => rndAt key (fld rnd 1 0) (bit rnd 2) (0xF0000 + id) (2 ^ 26 * (round % 2 ^ 14) + 4096 * t + i))

/-- TILE_UPDATE: one tile is updated (R265): W and the moments, the working copy, the count, the digest's CRC, UMK, the write-back. -/
def doTileUpdate (m : Mach) (p id t : Nat) : Mach :=
  match m.rb p id, (m.part p).resident with
  | some b, some k =>
    match k.rbuf id, b.tiles.get? t with
    | some r, some ts =>
      let e := m.rbEntry p r t
      let turn := m.obj (0x6480 + p) 1 = 0 ||
        ((m.part p).sweep && (k.updateTiles.find? (fun it => m.tileReady p it)) == some (id, t))
      if rbMode r ≠ 2 || !ts.full || !ts.loaded || !turn || m.switching p then m
      else
        match k.recipe (teRid e) with
        | none => m
        | some rc =>
          let gk := m.rbSlotKey p r ts.slot
          let sb := m.bufKey p (teSbuf e) (64 * teSoff e)
          let sk := match ts.area with | some a => m.rbAreaKey p r a | none => sb
          let n := imageBytes (rcOpt rc)
          match m.badRead [(gk, 16384), (sk, n), (m.rbEntryKey p r t, 32)] with
          | some k => (m.lostRead 2 k).engineFault p id t 0x11
          | none =>
            let rs := m.recipeSt p (teRid e)
            let gs := (tileVals (m.rd gk 16384)).map val32
            let ws := (tileVals (m.rd sk 16384)).map val32
            let ms := (tileVals (m.rd (sk + 16384) 16384)).map val32
            let vs := if n = 49152 then (tileVals (m.rd (sk + 32768) 16384)).map val32 else gs.map (fun _ => Val.zero false)
            let new := ((gs.zip ws).zip (ms.zip vs)).map (fun q => updateElem rc rs q.1.1 q.1.2 q.2.1 q.2.2)
            let wv := new.map (fun q => q.1)
            let image := packElems 32 (wv.map rne32) ++ packElems 32 (new.map (fun q => rne32 q.2.1)) ++
              (if n = 49152 then packElems 32 (new.map (fun q => rne32 q.2.2.1)) else [])
            let round := m.obj (0x6480 + p) 2
            let m := (m.wr sk image).setFlags p (new.foldl (fun a q => a ||| q.2.2.2) 0)
            let m := if gs.any (fun v => v.isNan || v.isInf) then m.addObj (0x6480 + p) 0xB 1 else m
            let m :=
              if teWbuf e = 0xFFFF || teWfmt e = 0xFF then m
              else
                let (bs, fl) := tileImage (teWfmt e) (bit (teFlags e) 1) (wcRounds id round t (m.srKeyOf p false) (leAt rc 48 1)) wv
                (m.put (m.bufKey p (teWbuf e) (64 * teWoff e)) bs).setFlags p fl
            let m := m.countStore p (bit (leAt r 26 1) 1) (leAt r 25 1) (chunks 32 129 wv)
            let m := m.signalUmk p r e
            let m := if ts.area.isSome then m.put sb image else m
            m.setRb p id { b with tiles := b.tiles.del t, crcs := b.crcs.put t (crc64 0 (image.take 16384)) }
    | _, _ => m
  | _, _ => m

/-! ## The close of a round (R266, R277) -/

/-- The digest of a group over the tiles just updated, when it has any. -/
def Mach.digestOf (m : Mach) (p grp : Nat) (k : Pricking) : Option Nat :=
  let ts := k.updateTiles.filter (fun it =>
    match k.rbuf it.1 with | some r => teDgrp (m.rbEntry p r it.2) = grp | none => false)
  if ts.isEmpty then none
  else some (ts.foldl (fun a it =>
    crc64Join a (match m.rb p it.1 with | some b => b.crcs.get 0 it.2 | none => 0)) 0)

/-- The first tile whose table entry reads uncorrectable as the digests of a close are computed, and the half (R282). -/
def Mach.digestLost (m : Mach) (p : Nat) (k : Pricking) : Option ((Nat × Nat) × Nat) :=
  k.updateTiles.findSome? (fun it => match k.rbuf it.1 with
    | some r => (m.badRead [(m.rbEntryKey p r it.2, 32)]).map (fun h => (it, h))
    | none => none)

/-- A digest is due when the round counter reaches `n` (R277). -/
def Mach.digestDue (m : Mach) (p n : Nat) : Bool := m.obj (0x6480 + p) 3 ≠ 0 && n % m.obj (0x6480 + p) 3 = 0

/-- The round may close: every UPDATE tile has been updated for it. -/
def Mach.roundFull (m : Mach) (p : Nat) : Bool :=
  match (m.part p).resident with
  | some k => !k.updates.isEmpty && k.updateTiles.all (m.tileDone p)
  | none => false

/-- The close sequence: digests due, recipes advanced, the round counted, the event vector for digests published (R266, R277). -/
def Mach.closeRound (m : Mach) (p : Nat) : Mach :=
  match (m.part p).resident with
  | none => m
  | some k =>
    let n := m.obj (0x6480 + p) 2 + 1
    let ds : List (Nat × Nat × Nat) := if m.digestDue p n then
        (List.range 16).filterMap (fun g => (m.digestOf p g k).map (fun d => (p * 16 + g, (n, d)))) else []
    let m := { m with digests := ds.foldl (fun (a : AMap (Nat × Nat)) (d : Nat × Nat × Nat) => a.put d.1 d.2) m.digests }
    let m := (m.eachRecipe p (fun r s => recipeValues r (recipeAdvance r s))).setObj (0x6480 + p) 2 n
    let m := m.modPart p (fun x =>
      { x with closed := x.closed + 1, sweep := false, rbufs := x.rbufs.map (fun (e : Nat × RBuf) => (e.1, { e.2 with crcs := [] })) })
    if ds.isEmpty then m else m.raise (576 + p)

/-! ## The format command (R280) -/

/-- A write to 6480h + p.0E. -/
def Mach.formatCommand (m : Mach) (p v : Nat) : Mach :=
  let id := fld v 59 48
  let fmt := fld v 47 40
  let first := fld v 27 14
  let n := fld v 13 0 + 1
  if fld v 63 60 ≠ 0 || fld v 39 28 ≠ 0 then m.reply abortRange
  else if m.pstate p = 0 then m.reply abortState
  else
  let m := m.reply 0
  match ((m.part p).resident).bind (fun k => k.rbuf id) with
  | none => m.cmdDone (0x6480 + p) 0xF false
  | some r =>
    if (m.resJob p).isSome || (m.guestJob p).isSome || rbMode r ≠ 2 || first + n > rbTiles r ||
        !(fmt = 0xFF || legalDrain false false fmt) then m.cmdDone (0x6480 + p) 0xF false
    else
      ((List.range n).foldl (fun x i => x.wrNat (x.rbEntryKey p r (first + i) + 3) 1 fmt) m).cmdDone (0x6480 + p) 0xF true

/-! ## The meanings -/

/-- STATE_READ_COMPLETE (R262). -/
def execStateReadComplete (part rid tile : Nat) (s : State) : Result := s.step (fun m => doStateRead m part rid tile)

/-- SWEEP_START (R264). -/
def execSweepStart (part : Nat) (s : State) : Result := s.step (fun m => doSweepStart m part)

/-- TILE_UPDATE (R265, R270 to R272). -/
def execTileUpdate (part rid tile : Nat) (s : State) : Result := s.step (fun m => doTileUpdate m part rid tile)

/-- FORMAT_COMMAND (R280). -/
def execFormatCommand (part v : Nat) (s : State) : Result := s.step (fun m => if part < 64 && m.online then m.formatCommand part v else m)

end Sys2Proof.Machine
end

