-- ==== Sys2Proof/Machine/Image.lean ====
section
/-! DEFINITION. The pricking image as the loader reads it (R110 to R118) and the structural checks 01h to 10h of Table 7-9. A check
answers none, or FIRST and DETAIL of its refusal. -/

namespace Sys2Proof.Machine

/-- The refusal of a check: FIRST and DETAIL. -/
abbrev Bad := Option (Nat × Nat)

/-- The first listed condition that fails, by its label. -/
def failing (cs : List (Bool × Nat)) : Option Nat := (cs.find? Prod.fst).map Prod.snd

/-! ## Header (Table 4-1) -/

def imLen (b : List Byte) : Nat := leAt b 8 8
def imPrk (b : List Byte) : Nat := leAt b 20 4
def imClus (b : List Byte) : Nat := leAt b 24 2
def imCore (b : List Byte) : Nat := leAt b 26 2
def imSect (b : List Byte) : Nat := leAt b 28 2
def imDir (b : List Byte) : Nat := leAt b 32 8
def imMinlink (b : List Byte) : Nat := leAt b 40 1

/-- Check 01h, over the header and the bytes of the image region. -/
def check01 (b : List Byte) (region : Nat) : Bad :=
  (failing [
    (leAt b 0 4 ≠ 0x314B5250, 0), (leAt b 4 1 ≥ 4, 4), (leAt b 5 1 ≠ 1, 5), (leAt b 6 2 ≠ 128, 6),
    (imLen b < 128 || imLen b % 64 ≠ 0 || imLen b > region, 8), (imClus b = 0 || imClus b > 128, 24),
    (imCore b = 0 || imCore b > 16 * imClus b, 26), (imSect b = 0 || imSect b > 16, 28), (leAt b 30 2 ≠ 0, 30),
    (imDir b < 128 || imDir b + 16 * imSect b > imLen b, 32), (nonzero b 41 87, 41)]).map (fun o => (o, 0))

/-- Check 02h. -/
def check02 (b : List Byte) : Bad := if leAt b 4 1 % 4 ≠ 1 then some (leAt b 4 1 % 4, 0) else none

/-- Check 03h. -/
def check03 (b : List Byte) : Bad := if crc32c (putAt b 16 (zeros 4)) ≠ leAt b 16 4 then some (0, 0) else none

/-! ## Sections (R111, Table 4-2) -/

/-- Section directory entries: type, reserved field, length, offset. -/
def sections (b : List Byte) : List (Nat × Nat × Nat × Nat) :=
  (List.range (imSect b)).map (fun i =>
    let o := imDir b + 16 * i
    (leAt b o 2, leAt b (o + 2) 2, leAt b (o + 4) 4, leAt b (o + 8) 8))

/-- Check 04h. -/
def check04 (b : List Byte) : Bad :=
  let ss := sections b
  let bad (e : (Nat × Nat × Nat × Nat) × Nat) : Bool :=
    let (ty, rs, n, o) := e.1
    let prev := ss.take e.2
    ty = 0 || ty > 7 || rs ≠ 0 || o % 64 ≠ 0 || o + n > imLen b || prev.any (fun q => q.1 = ty || overlap (q.2.2.2, q.2.2.1) (o, n))
  match ss.zipIdx.find? bad with
  | some e => some (e.2, 0)
  | none => if [1, 2, 3].all (fun t => ss.any (fun q => q.1 = t)) then none else some (0xFFFF, 0)

/-- The bytes of a section; none when the image has none of the type. -/
def sectOf (b : List Byte) (ty : Nat) : List Byte :=
  match (sections b).find? (fun q => q.1 = ty) with
  | some (_, _, n, o) => (b.drop o).take n
  | none => []

/-! ## Records (R114) -/

/-- The records of the resource declaration, with their byte offsets, as far as their lengths can be followed. -/
def recordsFrom : Nat → Nat → List Byte → List (Nat × List Byte)
  | 0, _, _ => []
  | fuel + 1, o, bs =>
    if bs.isEmpty then []
    else
      let n := leAt bs 2 2
      (o, bs.take (max n 4)) :: (if n < 8 || bs.length < n then [] else recordsFrom fuel (o + n) (bs.drop n))

def records (b : List Byte) : List (Nat × List Byte) :=
  let s := sectOf b 3
  recordsFrom (s.length / 8 + 1) 0 s

/-- The length a record's type calls for; none where its own check settles it. -/
def recordLen (r : List Byte) : Option Nat :=
  let t := recType r
  if t = 1 || t = 4 || t = 6 || t = 8 then some 16
  else if t = 2 then some 40
  else if t = 3 then some 24
  else if t = 7 then
    (if leAt r 4 1 = 1 then some 48 else if leAt r 4 1 = 2 then some (16 + 24 * leAt r 10 2) else none)
  else none

/-- The most records of a kind in one image (Table 4-3, R237, R255). -/
def recordMost (r : List Byte) : Nat :=
  let t := recType r
  if t = 1 || t = 8 then 1 else if t = 2 then 4096 else if t = 3 then 8 else if t = 4 then 256 else if t = 6 then 16
  else if t = 7 then (if leAt r 4 1 = 1 then 64 else if leAt r 4 1 = 2 then 1 else 65536)
  else if leAt r 4 1 = 1 then 256 else if leAt r 4 1 = 2 then 16 else 65536

/-- Two records count together: same type, and same SUB for types 05h and 07h. -/
def sameKind (r s : List Byte) : Bool :=
  recType r = recType s && ((recType r ≠ 5 && recType r ≠ 7) || leAt r 4 1 = leAt s 4 1)

/-- Check 05h. -/
def check05 (b : List Byte) : Bad :=
  let rs := records b
  let secLen := (sectOf b 3).length
  let bad (e : (Nat × List Byte) × Nat) : Option (Nat × Nat) :=
    let (o, r) := e.1
    let n := leAt r 2 2
    (failing [
      (recType r = 0 || recType r > 8, o), (leAt r 1 1 ≠ 0, o + 1),
      (n % 8 ≠ 0 || n = 0 || (match recordLen r with | some k => n ≠ k | none => false) || o + n > secLen, o + 2),
      ((rs.take e.2).countP (fun q => sameKind q.2 r) ≥ recordMost r, o),
      (recType r = 1 && (leAt r 4 4 % 64 ≠ 0 || leAt r 4 4 > 524288), o + 4),
      (recType r = 1 && (leAt r 8 4 % 64 ≠ 0 || leAt r 8 4 > 8388608), o + 8),
      (recType r = 1 && leAt r 12 1 > 48, o + 12), (recType r = 1 && leAt r 13 1 > 64, o + 13),
      (recType r = 1 && leAt r 14 2 > 512, o + 14)]).map (fun d => (e.2, d))
  match rs.zipIdx.findSome? bad with
  | some x => some x
  | none => if rs.any (fun q => recType q.2 = 1) then none else some (0xFFFF, 0)

/-- The records alone. -/
def recsIn (b : List Byte) : List (List Byte) := (records b).map Prod.snd

def prOf (b : List Byte) : List Byte := ((recsIn b).find? (fun r => recType r = 1)).getD []
def prLocal (b : List Byte) : Nat := leAt (prOf b) 4 4
def prCshare (b : List Byte) : Nat := leAt (prOf b) 8 4
def prNstack (b : List Byte) : Nat := leAt (prOf b) 12 1
def prNlink (b : List Byte) : Nat := leAt (prOf b) 13 1
def prGuestmk (b : List Byte) : Nat := leAt (prOf b) 14 2

/-- Check 06h: clusters, stacks, links, link version and guest markers of the partition against the image. -/
def check06 (b : List Byte) (clus nst links pv gmk : Nat) : Bad :=
  (failing [
    (imClus b > clus, 24), (prNstack b > nst, 12), (prNlink b > links, 13), (imMinlink b > pv, 40),
    (prGuestmk b ≠ gmk, 14)]).map (fun o => (o, 0))

/-! ## Streams (R113) -/

/-- Entry of the stream directory: offset, words, reserved field. -/
def streamEntry (b : List Byte) (r : Nat) : Nat × Nat × Nat :=
  let d := sectOf b 1
  (leAt d (16 * r) 8, leAt d (16 * r + 8) 4, leAt d (16 * r + 12) 4)

/-- The words of a core's stream. -/
def streamOf (b : List Byte) (r : Nat) : List OpWord :=
  let (o, n, _) := streamEntry b r
  let s := (sectOf b 2).drop o
  (List.range n).map (fun i => BitVec.ofNat 128 (leAt s (16 * i) 16))

def streamsOf (b : List Byte) : List (List OpWord) := (List.range (imCore b)).map (streamOf b)

/-- Opcode of a word of a stream; none beyond it. -/
def wordOpc (b : List Byte) (core word : Nat) : Option Nat :=
  if core < imCore b && word < (streamEntry b core).2.1 then
    some (opcOf (leAt (sectOf b 2) ((streamEntry b core).1 + 16 * word) 16))
  else none

/-- Check 10h. -/
def check10 (b : List Byte) : Bad :=
  let d := (sectOf b 1).length
  let n := (sectOf b 2).length
  ((List.range (imCore b)).find? (fun r =>
    let (o, w, z) := streamEntry b r
    d < 16 * (r + 1) || z ≠ 0 || o % 16 ≠ 0 || w > 1048576 || o + 16 * w > n)).map (fun r => (r, 0))

/-! ## Buffers and windows -/

def bufsIn (b : List Byte) : List (List Byte) := (recsIn b).filter (fun r => recType r = 2)
def buId (r : List Byte) : Nat := leAt r 4 2
def buKind (r : List Byte) : Nat := leAt r 6 1
def buOwner (r : List Byte) : Nat := leAt r 8 2
def buSize (r : List Byte) : Nat := leAt r 16 8
def buBase (r : List Byte) : Nat := leAt r 24 8

def bufIn (b : List Byte) (id : Nat) : Option (List Byte) := (bufsIn b).find? (fun r => buId r = id)

/-- The buffer exists with one of the kinds and at least a size. -/
def bufFits (b : List Byte) (id : Nat) (kinds : List Nat) (size : Nat) : Bool :=
  match bufIn b id with
  | some r => kinds.contains (buKind r) && size ≤ buSize r
  | none => false

/-- Usable bytes of a stack (R320). -/
def stackUsable : Nat := 30 * 2 ^ 30

/-- Check 07h. -/
def check07 (b : List Byte) : Bad :=
  let rs := bufsIn b
  let bad (e : List Byte × Nat) : Bool :=
    let r := e.1
    let k := buKind r
    let prev := rs.take e.2
    leAt r 7 1 ≠ 0 || leAt r 10 2 ≠ 0 || buId r > 4095 || prev.any (fun q => buId q = buId r) || k > 2 ||
    buOwner r ≥ (if k = 0 then prNstack b else if k = 1 then imClus b else imCore b) ||
    buBase r % 64 ≠ 0 || buSize r % 64 ≠ 0 ||
    (k = 0 && (buBase r ≠ 0 || buSize r > stackUsable)) ||
    (k ≠ 0 && buBase r + buSize r > (if k = 1 then prCshare b else prLocal b)) ||
    (k ≠ 0 && prev.any (fun q => buKind q = k && buOwner q = buOwner r && overlap (buBase q, buSize q) (buBase r, buSize r))) ||
    leAt r 12 4 > buSize r || (leAt r 12 4 > 0 && leAt r 32 8 + leAt r 12 4 > (sectOf b 4).length)
  (rs.zipIdx.find? bad).map (fun e => (buId e.1, 0))

/-- A region of a rank's share overlaps a KIND 1 buffer of the rank. -/
def hitsBuf (b : List Byte) (rank : Nat) (x : Nat × Nat) : Bool :=
  (bufsIn b).any (fun q => buKind q = 1 && buOwner q = rank && overlap (buBase q, buSize q) x)

def winsIn (b : List Byte) : List (List Byte) := (recsIn b).filter (fun r => recType r = 3)
def wiK (r : List Byte) : Nat := 64 * (leAt r 12 4 + 1)
def wiHome (r : List Byte) : Nat := leAt r 6 1
/-- The region of a window's two buffers (R200). -/
def wiRegion (r : List Byte) : Nat × Nat := (leAt r 16 4, 2 * blockBytes (leAt r 5 1) (wiK r))

/-- A region of a rank's share overlaps a window of the rank. -/
def hitsWin (ws : List (List Byte)) (rank : Nat) (x : Nat × Nat) : Bool :=
  ws.any (fun q => wiHome q = rank && overlap (wiRegion q) x)

/-- A format that some mode takes as A (Table 2-5). -/
def legalA (f : Nat) : Bool := (List.range 7).any (fun mo => (List.range 16).any (fun g => legalPair mo f g))

/-- Check 08h. -/
def check08 (b : List Byte) : Bad :=
  let rs := winsIn b
  let bad (e : List Byte × Nat) : Bool :=
    let r := e.1
    let prev := rs.take e.2
    let x := wiRegion r
    leAt r 4 1 > 7 || leAt r 7 1 ≠ 0 || leAt r 10 2 ≠ 0 || leAt r 20 4 ≠ 0 || prev.any (fun q => leAt q 4 1 = leAt r 4 1) ||
    !legalA (leAt r 5 1) || leAt r 8 2 = 0 || (bitsOf 16 (leAt r 8 2)).any (fun j => 16 * wiHome r + j ≥ imCore b) ||
    wiHome r ≥ imClus b || x.1 % 64 ≠ 0 || x.1 + x.2 > prCshare b || hitsBuf b (wiHome r) x || hitsWin prev (wiHome r) x
  (rs.zipIdx.find? bad).map (fun e => (leAt e.1 4 1, 0))

def peersIn (b : List Byte) : List (List Byte) := (recsIn b).filter (fun r => recType r = 4)
def hasPeer (b : List Byte) (n : Nat) : Bool := (peersIn b).any (fun r => leAt r 4 1 = n)

/-- Check 09h. -/
def check09 (b : List Byte) : Bad :=
  let rs := peersIn b
  (rs.zipIdx.find? (fun (e : List Byte × Nat) =>
    (rs.take e.2).any (fun q => leAt q 4 1 = leAt e.1 4 1) || leAt e.1 6 2 ≥ 4096 || leAt e.1 5 1 ≠ 0 || leAt e.1 8 1 > 63 ||
    nonzero e.1 9 7)).map (fun e => (leAt e.1 4 1, 0))

/-! ## Training records (R283) -/

def rbufsIn (b : List Byte) : List (List Byte) := (recsIn b).filter (fun r => recType r = 5 && leAt r 4 1 = 1)
def rbufIn (b : List Byte) (id : Nat) : Option (List Byte) := (rbufsIn b).find? (fun r => rbId r = id)
def recipesIn (b : List Byte) : List (List Byte) := (recsIn b).filter (fun r => recType r = 5 && leAt r 4 1 = 2)
def cachesIn (b : List Byte) : List (List Byte) := (recsIn b).filter (fun r => recType r = 7 && leAt r 4 1 = 1)

/-- Local reduction buffers a FWD buffer sends to. -/
def fwdTo (r : List Byte) : List Nat :=
  if rbMode r = 1 then ((List.range (rbNtgt r)).map (rbTgt r)).filterMap (fun t => if leAt t 0 1 = 2 then some (leAt t 2 2) else none)
  else []

/-- The reduction buffers reached from those of a list in at most so many hops. -/
def fwdReach (b : List Byte) : Nat → List Nat → List Nat
  | 0, ids => ids
  | n + 1, ids => fwdReach b n (ids ++ ids.flatMap (fun i => match rbufIn b i with | some r => fwdTo r | none => [])).dedup

/-- FP32 fields of a recipe: finite, positive normal, at or above 0, below 1. -/
def f32Finite (w : Nat) : Bool := fld w 30 23 ≠ 255
def f32PosNormal (w : Nat) : Bool := f32Finite w && fld w 30 23 ≠ 0 && !bit w 31
def f32NonNeg (w : Nat) : Bool := f32Finite w && (!bit w 31 || w % 2 ^ 31 = 0)
def f32Pos (w : Nat) : Bool := f32NonNeg w && w % 2 ^ 31 ≠ 0
def f32Unit (w : Nat) : Bool := f32NonNeg w && w % 2 ^ 31 < 0x3F800000

/-- Tile-table entry `t` of a reduction buffer in the image. -/
def tileIn (b r : List Byte) (t : Nat) : List Byte := ((sectOf b 4).drop (leAt r 20 4 + 32 * t)).take 32

/-- A tile entry breaks condition 8 or 9 of R283, or holds a reserved bit. A buffer named where Table 9-4 has FFFFh (SBUF of FWD, WBUF of FWD and OUT)
is of the wrong KIND; a WBUF without a working-copy format holds 0 bytes (log entry 238, DEDUCED). The rounding of an OUT entry is not checked
(log entry 227, DESIGN CHOICE). -/
def tileBad (b r e : List Byte) : Bool :=
  let md := rbMode r
  let out (id off fmt : Nat) : Bool := bufFits b id [0, 1] (64 * off + tileBytes fmt false) && legalDrain false false fmt
  teFlags e ≥ 32 || nonzero e 18 6 ||
  (if md = 0 then !out (teSbuf e) (teSoff e) (teWfmt e) || teWbuf e ≠ 0xFFFF
   else if md = 1 then teSbuf e ≠ 0xFFFF || teWbuf e ≠ 0xFFFF || (teWfmt e ≠ 0xFF && !legalDrain false false (teWfmt e))
   else
     let opt := match (recipesIn b).find? (fun q => leAt q 5 1 = teRid e) with | some q => rcOpt q | none => 0
     !(recipesIn b).any (fun q => leAt q 5 1 = teRid e) || !bufFits b (teSbuf e) [0, 1] (64 * teSoff e + imageBytes opt) ||
     (teWfmt e ≠ 0xFF && !legalDrain false false (teWfmt e)) ||
     (teWbuf e ≠ 0xFFFF && !(if teWfmt e = 0xFF then bufFits b (teWbuf e) [0, 1] (64 * teWoff e) else out (teWbuf e) (teWoff e) (teWfmt e))) ||
     (teDgrp e > 15 && teDgrp e ≠ 0xFF) ||
     (bufFits b (teSbuf e) [0] 0 && rbSlow r = 0) || (bufFits b (teSbuf e) [1] 0 && rbSlow r = rbSlots r))

/-- A contributor entry breaks a condition of R283. -/
def conBad (b r c : List Byte) : Bool :=
  let k := conKind c
  k > 3 || (k % 2 = 0 && conPeer c ≠ 0) || nonzero c 10 6 || conFirst c > conLast c || conLast c ≥ rbTiles r || conN c = 0 ||
  conCred c = 0 || conCred c > 8 ||
  (k = 0 && conSrc c ≥ imCore b) || (k % 2 = 1 && !hasPeer b (conPeer c)) ||
  (k = 2 && (match rbufIn b (conSrc c) with | some q => rbMode q ≠ 1 | none => true))

def tgtBad (b t : List Byte) : Bool :=
  let k := leAt t 0 1
  (k ≠ 2 && k ≠ 3) || nonzero t 4 4 || (k = 2 && (leAt t 1 1 ≠ 0 || (rbufIn b (leAt t 2 2)).isNone)) || (k = 3 && !hasPeer b (leAt t 1 1))

/-- A reduction-buffer record that R283 refuses; `prev` are the records before it. -/
def rbufBad (b : List Byte) (sweep : Bool) (prev : List (List Byte)) (r : List Byte) : Bool :=
  let before := prev.filter (fun q => recType q = 5 && leAt q 4 1 = 1)
  let region := (rbBase r, rbBytes r)
  rbMode r > 2 || leAt r 2 2 ≠ 48 + 16 * rbNcon r + 8 * rbNtgt r ||
  rbId r > 4095 || (bufIn b (rbId r)).isSome || before.any (fun q => rbId q = rbId r) ||
  rbHome r ≥ imClus b || rbBase r % 64 ≠ 0 || region.1 + region.2 > prCshare b || hitsBuf b (rbHome r) region ||
  hitsWin (winsIn b) (rbHome r) region ||
  (cachesIn b).any (fun q => leAt q 18 1 = rbHome r && overlap (leAt q 24 4, 4160) region) ||
  before.any (fun q => rbHome q = rbHome r && overlap (rbBase q, rbBytes q) region) ||
  rbNcon r = 0 || rbNcon r > 64 || (if rbMode r = 1 then rbNtgt r = 0 || rbNtgt r > 8 else rbNtgt r ≠ 0) ||
  rbSlots r = 0 || rbSlots r > 511 || rbSlow r ≥ rbSlots r || (rbMode r ≠ 2 && rbSlow r ≠ 0) || rbTiles r = 0 || rbTiles r > 16384 ||
  leAt r 20 4 % 64 ≠ 0 || leAt r 20 4 + 32 * rbTiles r > (sectOf b 4).length || leAt r 26 1 ≥ 4 || nonzero r 27 21 ||
  (List.range (rbNcon r)).any (fun c => conBad b r (rbCon r c)) ||
  (List.range (rbTiles r)).any (fun t => (List.range (rbNcon r)).all (fun c => t < conFirst (rbCon r c) || conLast (rbCon r c) < t)) ||
  (fwdReach b 256 (fwdTo r)).contains (rbId r) ||
  (List.range (rbNtgt r)).any (fun t => tgtBad b (rbTgt r t)) ||
  (List.range (rbTiles r)).any (fun t => tileBad b r (tileIn b r t)) ||
  (sweep && rbMode r = 2 && rbSlots r < rbTiles r)

/-- A recipe record that R283 refuses. -/
def recipeBad (prev : List (List Byte)) (r : List Byte) : Bool :=
  let f (o : Nat) : Nat := leAt r o 4
  let sgd := rcOpt r = 0
  leAt r 2 2 ≠ 64 || leAt r 5 1 > 15 || prev.any (fun q => recType q = 5 && leAt q 4 1 = 2 && leAt q 5 1 = leAt r 5 1) ||
  rcOpt r > 2 || leAt r 7 1 > 3 || !f32PosNormal (f 8) || !f32NonNeg (f 12) || f 12 % 2 ^ 31 > f 8 ||
  (leAt r 7 1 ≠ 0 && f 20 = 0) || !f32Unit (f 24) || !f32Unit (f 28) || (sgd && f 28 % 2 ^ 31 ≠ 0) ||
  (if sgd then f 32 % 2 ^ 31 ≠ 0 else !f32Pos (f 32)) || !f32NonNeg (f 36) || !f32PosNormal (f 40) || !f32NonNeg (f 44) ||
  leAt r 48 1 ≥ 8 || leAt r 48 1 % 4 = 3 || nonzero r 49 15

/-- A KEEP record that R283 refuses. -/
def keepBad (b r : List Byte) : Bool :=
  let nb := leAt r 8 2
  leAt r 2 2 ≠ 16 + 8 * nb || leAt r 5 1 ≠ 0 || nb = 0 || nb > 256 || nonzero r 10 6 || !bufFits b (leAt r 6 2) [0, 1] 0 ||
  (List.range nb).any (fun i =>
    leAt r (22 + 8 * i) 2 ≠ 0 || wordOpc b (leAt r (16 + 8 * i) 2) (leAt r (18 + 8 * i) 4) ≠ some 3)

/-- Check 0Ah. -/
def check0A (b : List Byte) (guest sweep : Bool) : Bad :=
  let rs := recsIn b
  let bad (e : List Byte × Nat) : Bool :=
    let r := e.1
    recType r = 5 && (guest ||
      (if leAt r 4 1 = 1 then rbufBad b sweep (rs.take e.2) r
       else if leAt r 4 1 = 2 then recipeBad (rs.take e.2) r
       else if leAt r 4 1 = 3 then keepBad b r else true))
  (rs.zipIdx.find? bad).map (fun e => (e.2, 0))

/-! ## Cache and length records (R237) -/

/-- A CACHE record that is refused. -/
def cacheBad (b : List Byte) (prev : List (List Byte)) (r : List Byte) : Bool :=
  let before := prev.filter (fun q => recType q = 7 && leAt q 4 1 = 1)
  let home := leAt r 18 1
  let region := (leAt r 24 4, 4160)
  let mk (o : Nat) : Bool := leAt r o 2 / 512 ≠ home || leAt r o 2 % 512 ≥ 512 - prGuestmk b
  let bare (id : Nat) : Bool := match bufIn b id with | some q => leAt q 12 4 = 0 | none => false
  leAt r 5 1 > 63 || before.any (fun q => leAt q 5 1 = leAt r 5 1) || leAt r 6 1 = 0 || leAt r 6 1 > 4 || leAt r 7 1 = 0 ||
  leAt r 7 1 > 64 || leAt r 8 2 > 7 || ccNseq r = 0 || ccNseq r > 4096 || ccMaxpg r = 0 || ccMaxpg r > 16384 ||
  !bufFits b (leAt r 14 2) [0, 1] (ccBM r + 8 * ccNblk r) || !bufFits b (leAt r 16 2) [0] (ccNblk r * ccBlock r) ||
  !bare (leAt r 14 2) || !bare (leAt r 16 2) || home ≥ imClus b || leAt r 19 1 ≠ 0 || mk 20 || mk 22 || leAt r 20 2 = leAt r 22 2 ||
  region.1 % 64 ≠ 0 || region.1 + region.2 > prCshare b || hitsBuf b home region || hitsWin (winsIn b) home region ||
  ccNblk r = 0 || ccNblk r > 1048576 || nonzero r 32 16 ||
  before.any (fun q =>
    leAt q 14 2 = leAt r 14 2 || leAt q 16 2 = leAt r 16 2 || leAt q 14 2 = leAt r 16 2 || leAt q 16 2 = leAt r 14 2 ||
    [leAt q 20 2, leAt q 22 2].any (fun k => k = leAt r 20 2 || k = leAt r 22 2) ||
    (leAt q 18 1 = home && overlap (leAt q 24 4, 4160) region))

/-- The opcode a binding target names (Table 8-6). -/
def bindOpc (tgt : Nat) : Nat := if tgt = 0 then 3 else if tgt ≤ 3 then 0x2B else if tgt ≤ 5 then 0x11 else if tgt = 6 then 0x18 else 0x20

/-- A LENGTHS record that is refused. -/
def lengthsBad (b r : List Byte) : Bool :=
  let n := leAt r 10 2
  let at' (i : Nat) : List Byte := (r.drop (16 + 24 * i)).take 24
  let one (i : Nat) : Bool :=
    let x := at' i
    let fn := leAt x 8 1
    let tgt := leAt x 9 1
    leAt x 0 2 ≥ imCore b || leAt x 2 2 ≥ leAt r 8 2 || fn > 9 || tgt > 7 || wordOpc b (leAt x 0 2) (leAt x 4 4) ≠ some (bindOpc tgt) ||
    (if 4 ≤ fn && fn ≤ 8 then leAt x 10 1 > 63 else leAt x 10 1 ≠ 0) ||
    (if fn = 7 || fn = 8 then leAt x 16 1 = 0 || leAt x 16 1 > 64 || leAt x 17 1 ≥ leAt x 16 1
     else leAt x 16 1 ≠ 0 || leAt x 17 1 ≠ 0) ||
    nonzero x 18 6 ||
    (List.range i).any (fun j => leAt (at' j) 0 2 = leAt x 0 2 && leAt (at' j) 4 4 = leAt x 4 4 && leAt (at' j) 9 1 = tgt)
  leAt r 5 1 ≠ 0 || leAt r 8 2 = 0 || leAt r 8 2 > 4096 || n > 4096 || nonzero r 12 4 ||
  !bufFits b (leAt r 6 2) [0, 1] (64 + 8 * leAt r 8 2) || (List.range n).any one

/-- Check 0Bh. -/
def check0B (b : List Byte) (guest : Bool) : Bad :=
  let rs := recsIn b
  let bad (e : List Byte × Nat) : Bool :=
    let r := e.1
    recType r = 7 && (guest || (if leAt r 4 1 = 1 then cacheBad b (rs.take e.2) r else if leAt r 4 1 = 2 then lengthsBad b r else true))
  (rs.zipIdx.find? bad).map (fun e => (e.2, 0))

/-! ## Guest prickings (R408, R409) -/

/-- An AR of a guest stream above 2048 ic under the AX that last precedes it, or an MSIG with REM = 1 (R409). -/
def guestWordsBad : Option Nat → List OpWord → Bool
  | _, [] => false
  | ax, w :: t =>
    let v := w.toNat
    if opcOf v = 0x10 then guestWordsBad (some v) t
    else if opcOf v = 8 && bit v 71 then true
    else if opcOf v = 0x11 && (match ax with
      | some a => decide (arT v * beatsOf (axMode a) (axFA a) (axFB a) (arK v) > 2048)
      | none => false) then true
    else guestWordsBad ax t

/-- Check 0Ch. -/
def check0C (b : List Byte) (guest : Bool) : Bad :=
  let rs := recsIn b
  let gr (r : List Byte) : Bool := recType r = 8
  if !guest then (rs.findIdx? gr).map (fun i => (i, 0))
  else
    match rs.findIdx? gr with
    | none => some (0xFFFF, 0)
    | some i =>
      match rs.findIdx? (fun r => (gr r && (leAt r 4 1 ≠ 1 || nonzero r 5 11)) || [3, 4, 5, 7].contains (recType r)) with
      | some j => some (min i j, 0)
      | none => ((streamsOf b).findIdx? (guestWordsBad none)).map (fun c => (c, 0))

/-! ## Function tables (R163 to R165) -/

def funcsIn (b : List Byte) : List (List Byte) := (recsIn b).filter (fun r => recType r = 6)
def funcTable (b r : List Byte) : List Byte := ((sectOf b 7).drop (leAt r 8 4)).take 4160

/-- Table slots of an image: the highest U and one (R388). -/
def slotsIn (b : List Byte) : Nat := (funcsIn b).foldl (fun a r => max a (leAt r 4 1 + 1)) 0

/-- The largest f of a reduction (Table 5-1): of IFR that of the largest x below 0, -2^-149, whose g is 1 - 2^-149; of LIN that of the largest u
below 1. -/
def largestF (red : Nat) : Val :=
  if red = 1 then .fin false (2 ^ 15 - 1) (-15) else if red = 2 then .fin false (2 ^ 16 - 1) (-16)
  else if red = 3 then .fin false (2 ^ 141 - 1) (-141)
  else .fin false (2 ^ 24 - 1) (-24)

/-- The seeds of neighbouring entries differ by at most TOL ulp of the latter. -/
def seedsMeet (tol : Nat) (a c : Val) : Bool :=
  match a, c with
  | .fin _ _ _, .fin _ n e =>
    cmpVal (addV a c.negate).abs (.fin false tol (ulpExp fFP32 n e)) ≤ 0
  | _, _ => a = c

/-- The number of the first check of Table 5-9 a function fails, among 1 to 7. No check names a U above 15, a TOFF that is no multiple of 64 or a second
record of one U (R163): they fail check 2 here (log entry 239, DESIGN CHOICE). -/
def funcCheck (b : List Byte) (prev : List (List Byte)) (r : List Byte) : Option Nat :=
  let h := funcTable b r
  let f (o : Nat) : Nat := leAt h o 4
  let ent (i : Nat) : List Nat := (List.range 4).map (fun n => leAt h (64 + 16 * i + 4 * n) 4)
  let red := leAt h 5 1
  let steps := [leAt h 7 1 % 16, leAt h 7 1 / 16]
  failing [
    (leAt r 8 4 + 4160 > (sectOf b 7).length || prev.any (fun q => overlap (leAt q 8 4, 4160) (leAt r 8 4, 4160)), 1),
    (f 0 ≠ 0x55465442 || leAt h 4 1 ≠ 1 || leAt h 10 2 ≠ 0 || nonzero h 56 8 || nonzero r 5 3 || nonzero r 12 4 || leAt r 4 1 > 15 ||
      leAt r 8 4 % 64 ≠ 0 || prev.any (fun q => leAt q 4 1 = leAt r 4 1), 2),
    (red > 3 || leAt h 6 1 > 3 || steps.any (· > 2) || leAt h 8 1 > 4 || (steps.any (· ≠ 0) && red ≠ 1 && red ≠ 2) ||
      (leAt h 8 1 = 3 && red ≠ 2), 3),
    (crc32c (h.drop 64) ≠ f 52, 4), (f 48 ≠ imPrk b, 5),
    ((List.range 1024).any (fun i => !f32Finite (leAt h (64 + 4 * i) 4)) ||
      (if red = 0 then !f32PosNormal (f 12) || !f32Finite (f 16) else f 12 ≠ 0 || f 16 ≠ 0) ||
      [20, 24, 28, 32, 36, 40, 44].any (fun o => !f32Finite (f o) && f o % 2 ^ 31 ≠ 0x7F800000 && f o ≠ 0x7FC00000), 6),
    (leAt h 9 1 ≠ 255 && (List.range 255).any (fun i =>
      !seedsMeet (leAt h 9 1) (seedAt (ent i) (largestF red)) (seedAt (ent (i + 1)) (.zero false))), 7)]

/-- Check 0Dh but for its space check. -/
def check0D (b : List Byte) : Bad :=
  let rs := funcsIn b
  rs.zipIdx.findSome? (fun (e : List Byte × Nat) => (funcCheck b (rs.take e.2) e.1).map (fun n => (leAt e.1 4 1, n)))

/-- Check 8 of Table 5-9. -/
def check0D8 (b : List Byte) : Bad :=
  if slotsIn b ≠ 0 && prLocal b + 4096 * slotsIn b > 524288 then some (slotsIn b - 1, 8) else none

/-! ## Shapes (R181, R210 to R212) -/

/-- Formats a map may have when it is zero-compressed (R186) and when a group has any Cg (Table 6-1). -/
def plainFmt (f : Nat) : Bool := f ≤ 4 || f = 0x0B || f = 0x0C

/-- Formats of a map whose Cg is a multiple of 64 (Table 6-1). -/
def blockFmt (f : Nat) : Bool := f = 5 || f = 0x0D || isMx f

/-- The fields of a WINDOW or POOL entry that both share, from H to PR, with the largest filter, stride and dilation. -/
def mapFields (e : List Byte) (fmax smax dmax : Nat) : List (Bool × Nat) :=
  let side (o p q : Nat) : Bool := leAt e o 1 > shF e q * (shF e p - 1)
  [(shH e = 0 || shOH e = 0, 4), (shW e = 0 || shOW e = 0, 6), (shC e < 64 || shC e > 65536 || shC e % 64 ≠ 0, 8)] ++
  [0, 1].map (fun i => (shF e i = 0 || shF e i > fmax, 20 + i)) ++ [2, 3].map (fun i => (shF e i = 0 || shF e i > smax, 20 + i)) ++
  [4, 5].map (fun i => (shF e i = 0 || shF e i > dmax, 20 + i)) ++
  [(side 26 0 4, 26), (side 27 0 4, 27), (side 28 1 5, 28), (side 29 1 5, 29)]

/-- A byte of a range, as a reserved-byte condition for each of its bytes. -/
def mustBe0 (e : List Byte) (os : List Nat) : List (Bool × Nat) := os.map (fun o => (leAt e o 1 ≠ 0, o))

def span (a b : Nat) : List Nat := (List.range (b - a)).map (a + ·)

/-- The conditions on a shape entry with the offset of the field each is about. -/
def shapeConds (e : List Byte) : List (Bool × Nat) :=
  let st := leAt e 0 1
  let w (o lo hi : Nat) : Bool × Nat := (leAt e o 4 < lo || leAt e o 4 > hi, o)
  if st = 1 then [w 4 1 (2 ^ 29)] ++ mustBe0 e (span 1 4 ++ span 8 64)
  else if st = 2 then
    [w 4 1 (2 ^ 24), w 8 1 (2 ^ 24), w 12 (leAt e 8 4) (2 ^ 28), w 16 (leAt e 8 4) (2 ^ 28)] ++ mustBe0 e (span 1 4 ++ span 20 64)
  else if st = 3 then
    let cg := shC e / max (shG e) 1
    [(!(plainFmt (leAt e 1 1) || (blockFmt (leAt e 1 1) && cg % 64 = 0)) || (shZ e && !plainFmt (leAt e 1 1)), 1), (leAt e 2 1 > 1, 2),
     (shG e = 0 || shG e > shC e || shC e % max (shG e) 1 ≠ 0, 12), w 16 1 65536, (leAt e 30 2 > 4095, 30), (leAt e 32 1 > 15, 32),
     (leAt e 33 1 > 15, 33), (leAt e 34 1 > 15, 34)] ++ mapFields e 11 4 8 ++ mustBe0 e (3 :: span 35 64)
  else if st = 4 then
    [(!plainFmt (leAt e 1 1), 1), (leAt e 2 1 > 1, 2), (!vecFo (leAt e 3 1), 3), (leAt e 30 2 > 63, 30), (leAt e 32 1 > 15, 32),
     (leAt e 33 1 > 15, 33), (leAt e 35 1 > 2, 35), (leAt e 36 1 > 7 || leAt e 36 1 % 4 = 3, 36)] ++ mapFields e 8 8 1 ++
    mustBe0 e (span 12 20 ++ [34] ++ span 37 64)
  else if st = 5 then
    [(decide (leAt e 4 1 > 1), 4), (leAt e 5 1 < 2 || leAt e 5 1 > 64, 5), (leAt e 6 1 = 0 || leAt e 6 1 > 64, 6), w 8 (leAt e 6 1) (2 ^ 20)] ++
    mustBe0 e (span 1 4 ++ [7] ++ span 12 64)
  else if st = 6 || st = 7 then
    [(!plainFmt (leAt e 1 1), 1), w 4 1 (2 ^ 24)] ++ mustBe0 e (span 2 4 ++ span 8 64)
  else [(true, 0)]

def shapesIn (b : List Byte) : List (List Byte) := chunks 64 4097 (sectOf b 5)

/-- Check 0Eh: DETAIL is the lowest offset of a failing field. -/
def check0E (b : List Byte) : Bad :=
  let n := (sectOf b 5).length
  match (shapesIn b).zipIdx.findSome? (fun (e : List Byte × Nat) =>
      if e.2 ≥ 4096 || e.1.length < 64 then some (e.2, 0)
      else (((shapeConds e.1).filter Prod.fst).map Prod.snd).min?.map (fun o => (e.2, o))) with
  | some x => some x
  | none => if n % 64 ≠ 0 then some (n / 64, 0) else none

/-! ## Loop-order descriptors (R203 to R209) -/

def loopsIn (b : List Byte) : List (List Byte) := chunks 128 1025 (sectOf b 6)

def loMode (d : List Byte) : Nat := leAt d 2 1
def loSide (d : List Byte) (o : Nat) : Nat := 64 * (leAt d o 4 + 1)
def loNc (d : List Byte) : Nat := leAt d 6 1
def loRank0 (d : List Byte) : Nat := leAt d 8 2
def loNcl (d : List Byte) : Nat := leAt d 10 2
/-- Offset of the level record of a level. -/
def loLevel (lv : Nat) : Nat := if lv = 2 then 40 else if lv = 1 then 64 else 88
def loCrb (d : List Byte) (lv : Nat) : Bool := bit (leAt d (loLevel lv + 2) 1) 0
/-- TM, TN and TK of a level. -/
def loTile (d : List Byte) (lv : Nat) : Nat × Nat × Nat :=
  (loSide d (loLevel lv + 4), loSide d (loLevel lv + 8), loSide d (loLevel lv + 12))
/-- A, B and C buffers of a level. -/
def loBuf (d : List Byte) (lv i : Nat) : Nat := leAt d (loLevel lv + 16 + 2 * i) 2

/-- Bytes of the elements and scales of a tile of n elements. -/
def tileSize (fmt n : Nat) : Nat := n * widthOf fmt / 8 + if isMx fmt then n / 32 else 0

/-- SA, SB and SC of a level for given sides (R209). -/
def loSizes (d : List Byte) (lv tm tn tk : Nat) : Nat × Nat × Nat :=
  (if loBuf d lv 0 = 0xFFFF then 0 else tileSize (leAt d 3 1) (tm * tk),
   if loBuf d lv 1 = 0xFFFF then 0 else tileSize (leAt d 4 1) (tk * tn),
   if loBuf d lv 2 = 0xFFFF || loCrb d lv then 0
   else if loMode d = 6 then tm * tn * widthOf (leAt d 5 1) / 8 + 4 * tm * tn else tileSize (leAt d 5 1) (tm * tn))

/-- The footprint F of a level for given sides (R209). -/
def loFoot (d : List Byte) (lv tm tn tk : Nat) : Nat :=
  let s := loSizes d lv tm tn tk
  leAt d (loLevel lv + 1) 1 * (s.1 + s.2.1) + s.2.2

/-- The instances a level's buffers are numbered for: number, relative owner (R208). -/
def loOwners (d : List Byte) (lv : Nat) : List (Nat × Nat) :=
  if lv = 2 then (List.range (loNcl d)).map (fun c => (c, loRank0 d + c))
  else (List.range (loNcl d)).flatMap (fun c => (List.range (loNc d)).map (fun n => (c * loNc d + n, 16 * (loRank0 d + c) + n)))

/-- A numbered buffer of a level fails: it must exist with the level's KIND, the owner and the size. -/
def loBufBad (b d : List Byte) (lv i : Nat) : Bool :=
  let id := loBuf d lv i
  let t := loTile d lv
  let s := loSizes d lv t.1 t.2.1 t.2.2
  let need := if i = 2 then s.2.2 else leAt d (loLevel lv + 1) 1 * (if i = 0 then s.1 else s.2.1)
  if id = 0xFFFF then false
  else if i = 2 && loCrb d lv then (List.range (loNcl d)).any (fun c => (rbufIn b (id + c)).isNone)
  else (loOwners d lv).any (fun o => match bufIn b (id + o.1) with
    | some q => buKind q ≠ (if lv = 2 then 1 else 2) || buOwner q ≠ o.2 || buSize q < need
    | none => true)

/-- Conditions on a level record. -/
def levelConds (b d : List Byte) (lv : Nat) : List (Bool × Nat) :=
  let o := loLevel lv
  let t := loTile d lv
  let inner := loTile d (lv - 1)
  let ord := leAt d o 1
  let cnt := leAt d (o + 1) 1
  let nest (o x y : Nat) : Bool := lv ≠ 0 && (x % y ≠ 0 || loSide d o % y ≠ 0)
  [(if lv = 2 then ord > 5 || (ord ≥ 2 && !loCrb d 2) else if lv = 1 then ord > 1 else ord ≠ 0, o),
   (if lv = 0 then cnt ≠ 1 else cnt ≠ 1 && cnt ≠ 2, o + 1), (leAt d (o + 2) 1 > (if lv = 0 then 0 else 1), o + 2),
   (leAt d (o + 3) 1 ≠ 0, o + 3), ((lv = 0 && t.1 ≠ 64) || nest 16 t.1 inner.1, o + 4), ((lv = 0 && t.2.1 ≠ 64) || nest 20 t.2.1 inner.2.1, o + 8),
   ((lv = 0 && t.2.2 > 4194304) || nest 24 t.2.2 inner.2.2, o + 12)] ++
  [0, 1, 2].map (fun i => (if lv = 0 then decide (loBuf d 0 i ≠ 0xFFFF) else loBufBad b d lv i, o + 16 + 2 * i)) ++
  [(decide (leAt d (o + 22) 2 ≠ 0), o + 22)]

/-- Conditions on a descriptor (Table 7-3), in the order of their offsets. -/
def loopConds (b : List Byte) (prev : List (List Byte)) (d : List Byte) : List (Bool × Nat) :=
  let fa := leAt d 3 1
  let fb := leAt d 4 1
  let fd := leAt d 5 1
  let k := loSide d 24
  let big (o : Nat) : Bool := leAt d o 4 ≥ 2 ^ 26
  let blk (f side : Nat) : Nat := side / 64 * blockBytes f k
  [(leAt d 0 2 > 1023 || prev.any (fun q => leAt q 0 2 = leAt d 0 2), 0), (loMode d > 6, 2),
   (!((List.range 16).any (fun g => legalPair (loMode d) fa g)), 3), (!legalPair (loMode d) fa fb, 4),
   (!legalDrain (accInt fa) (loMode d = 6) fd, 5), (loNc d = 0 || loNc d > 16, 6), (leAt d 7 1 ≠ 0, 7), (loRank0 d ≥ imClus b, 8),
   (loNcl d = 0 || loNcl d > 128 || loRank0 d + loNcl d > imClus b, 10), (leAt d 12 4 ≠ 0, 12), (big 16, 16), (big 20, 20), (big 24, 24),
   (!bufFits b (leAt d 28 2) [0] (blk fa (loSide d 16)), 28), (!bufFits b (leAt d 30 2) [0] (blk fb (loSide d 20)), 30),
   (leAt d 32 2 ≠ 0xFFFF &&
      !bufFits b (leAt d 32 2) [0] (loSide d 16 / 64 * (loSide d 20 / 64) * tileBytes fd (loMode d = 6)), 32),
   (nonzero d 34 6, 34)] ++
  levelConds b d 2 ++ levelConds b d 1 ++ levelConds b d 0 ++ [(nonzero d 112 16, 112)]

/-- Check 0Fh. -/
def check0F (b : List Byte) : Bad :=
  let ds := loopsIn b
  ds.zipIdx.findSome? (fun (e : List Byte × Nat) =>
    if e.2 ≥ 1024 || e.1.length < 128 then some (leAt e.1 0 2, 0)
    else (failing (loopConds b (ds.take e.2) e.1)).map (fun o => (leAt e.1 0 2, o)))

end Sys2Proof.Machine
end

