-- ==== Sys2Proof/Machine/Loader.lean ====
section
/-! DEFINITION. The loader: the word scan (R217), the space checks and placement (R216, R218, R274, R388), the report (R219 to R222) and
the install (R223). -/

namespace Sys2Proof.Machine

/-! ## Memories of a partition (R388, R405, R491) -/

def Mach.saveCore (m : Mach) (p : Nat) : Nat := 602112 - m.gl p
def Mach.saveClus (m : Mach) (p : Nat) : Nat := 16 * m.saveCore p + (8396800 - m.gc p)
def Mach.saveImg (m : Mach) (p : Nat) : Nat := 65536 + (m.clusters p).length * m.saveClus p
def Mach.saveStacks (m : Mach) (p : Nat) : List Nat := bitsOf 48 (m.obj (pix p) 9)
def Mach.saveSlots (m : Mach) (p : Nat) : Nat := m.obj (pix p) 0xA

/-- Bytes of the save area in each save stack. -/
def Mach.saveArea (m : Mach) (p : Nat) : Nat :=
  if m.saveSlots p = 0 then 0 else 4096 * cdiv (m.saveSlots p * m.saveImg p) (4096 * max 1 (m.saveStacks p).length)

def Mach.lifeStacks (m : Mach) (p : Nat) : List Nat := bitsOf 48 (m.obj (0x7200 + p) 3)

/-- First byte of a stack (R30). -/
def stackBase (s : Nat) : Nat := s * 2 ^ 35

/-- The stack bytes available to a partition in one of its stacks. -/
def Mach.stackAvail (m : Mach) (p s : Nat) : Nat :=
  stackUsable - (if (m.saveStacks p).contains s then m.saveArea p else 0) -
    (if (m.lifeStacks p).contains s then m.obj (0x7200 + p) 4 else 0)

/-- The end of what the installed resident pricking has placed in a relative stack. -/
def Mach.stackUsed (m : Mach) (p s : Nat) : Nat :=
  match (m.part p).resident with
  | none => 0
  | some k => ((k.recsOf 2).filter (fun r => buKind r = 0 && buOwner r = s)).foldl (fun a r =>
      max a (k.place.get 0 (buId r) - stackBase ((m.stacks p).getD s 0) + buSize r)) 0

/-! ## The word scan (R217) -/

/-- What a word raises at issue. -/
def checksOf (m : Mach) (x : Wx) : List (Nat × Nat) :=
  let o := opcOf x.w
  if selFault m x then checksUnnamed m x
  else if o ≤ 1 then checksNop m x
  else if o = 3 || o = 4 then checksSet m x
  else if o = 5 then checksDbnz m x
  else if o = 6 then checksBcmp m x
  else if o = 7 then checksRctx m x
  else if o = 8 then checksMsig m x
  else if o = 9 then checksMwait m x
  else if o = 0xA then checksMrst m x
  else if o = 0x10 then checksAx m x
  else if o = 0x11 then checksAr m x
  else if o = 0x18 then checksVop m x
  else if o = 0x20 then checksSfn m x
  else if o = 0x28 then checksLdma m x
  else if o = 0x29 then checksCdma m x
  else if o = 0x2A then checksRdma m x
  else if o = 0x2B then checksPtld m x
  else checksFwpost m x

/-- The faults the scan looks for whatever the operands, and those it looks for where no index register is involved. -/
def scanned (c : Nat) : Bool := [1, 2, 3, 4, 5, 6, 0x12, 0x20, 0x30, 0x33, 0x40, 0x47, 0x48, 0x49].contains c
def scannedRange (c : Nat) : Bool := c = 0x10 || c = 0x31 || c = 0x44

/-- A word with its index registers all `v`. -/
def Wx.withIx (x : Wx) (v : Nat) : Wx := { x with ctx := { x.ctx with ix := List.replicate 16 v } }

/-- The faults of a word taken on its own: a range fault counts when it stays the same whatever the index registers hold. -/
def scanList (m : Mach) (x : Wx) : List (Nat × Nat) :=
  let l0 := checksOf m (x.withIx 0)
  let l1 := checksOf m (x.withIx (2 ^ 29))
  l0.filter (fun f => scanned f.1 || (scannedRange f.1 && l1.contains f))

/-- The same for an AR: 40h and 44h against the AX that precedes it, 44h over all its tiles, COLOFF and TAGREF left out without a fill
window. -/
def scanAr (m : Mach) (x : Wx) : List (Nat × Nat) :=
  let ax := match x.ctx.ax with
    | some a => if refKind (x.f 88 65) = some 0 then a else BitVec.ofNat 128 (setFld a.toNat 88 53 0)
    | none => 0
  let y : Wx := { x with ctx := { x.ctx with ax := some ax } }
  let full := (scanList m { y with w := Machine.setBit x.w 89 true }).filter (fun f => f.1 = 0x44)
  let l := (scanList m y).filter (fun f => f.1 ≠ 0x44) ++ full
  if x.ctx.ax.isSome then l else l.filter (fun f => f.1 ≠ 0x40 && f.1 ≠ 0x44)

/-- The first word of a stream with a fault: word index and fault code. -/
def scanStream (m : Mach) (x : Wx) : Nat → Option OpWord → List OpWord → Option (Nat × Nat)
  | _, _, [] => none
  | n, ax, w :: t =>
    let y : Wx := { x with w := w.toNat, ctx := { x.ctx with ax := ax, pc := n } }
    match ((if opcOf y.w = 0x11 then scanAr m y else scanList m y).map Prod.fst).min? with
    | some c => some (n, c)
    | none => scanStream m x (n + 1) (if opcOf y.w = 0x10 then some w else ax) t

/-! ## The installed pricking -/

/-- IDs of the buffers KEEP records name, in record order (R273). -/
def keepIds (b : List Byte) : List Nat := ((recsIn b).filter (fun r => recType r = 5 && leAt r 4 1 = 3)).map (fun r => leAt r 6 2)

/-- Placement of KIND 0 buffers: offsets by ID, and the end reached in each relative stack (R218). -/
def placeBufs (start : AMap Nat) (rs : List (List Byte)) : AMap Nat × AMap Nat :=
  (inOrder (fun a c => buId a ≤ buId c) rs).foldl (fun acc r =>
    let o := alignUp (acc.2.get 0 (buOwner r)) 4096
    (acc.1.put (buId r) o, acc.2.put (buOwner r) (o + buSize r))) ([], start)

def kind0 (b : List Byte) : List (List Byte) := (bufsIn b).filter (fun r => buKind r = 0)

/-- Where placement begins in each relative stack: at 0, and for a guest behind the resident's buffers. -/
def Mach.placeStart (m : Mach) (p : Nat) (guest : Bool) : AMap Nat :=
  if guest then (List.range (m.stacks p).length).map (fun s => (s, m.stackUsed p s)) else []

/-- The KEEP buffers admitted, in record order: while their SIZE still fits what the required and the admitted leave (R274). -/
def Mach.admitted (m : Mach) (p : Nat) (b : List Byte) : List Nat :=
  let keeps := keepIds b
  (keeps.dedup.foldl (fun (acc : List Nat × List (List Byte)) id =>
    match bufIn b id with
    | none => acc
    | some r =>
      let fits :=
        if buKind r = 0 then
          (placeBufs [] acc.2).2.get 0 (buOwner r) |> fun e =>
            decide (alignUp e 4096 + buSize r ≤ m.stackAvail p ((m.stacks p).getD (buOwner r) 0))
        else
          decide (((acc.2.filter (fun q => buKind q = 1 && buOwner q = buOwner r)).foldl (fun a q => a + buSize q) 0) + buSize r ≤
            prCshare b)
      if fits then (acc.1 ++ [id], acc.2 ++ [r]) else acc)
    ([], (bufsIn b).filter (fun r => !keeps.contains (buId r)))).1

/-- The streams with the KEEP bindings written (R274). -/
def keepStreams (b : List Byte) (admitted : List Nat) : List (List OpWord) :=
  ((recsIn b).filter (fun r => recType r = 5 && leAt r 4 1 = 3)).foldl (fun ss r =>
    (List.range (leAt r 8 2)).foldl (fun (ss : List (List OpWord)) i =>
      modAt ss (leAt r (16 + 8 * i) 2) (fun st => modAt st (leAt r (18 + 8 * i) 4) (fun w =>
        BitVec.ofNat 128 (setFld w.toNat 114 83 (b2n (admitted.contains (leAt r 6 2))))))) ss) (streamsOf b)

/-- The pricking an image makes, with the device addresses of its KIND 0 buffers. -/
def pkOf (b : List Byte) (place : AMap Nat) (admitted : List Nat) (addr region : Nat) : Pricking :=
  let out := (keepIds b).dedup.filter (fun i => !admitted.contains i)
  { prkver := imPrk b, nclus := imClus b, ncore := imCore b, minlink := imMinlink b,
    recs := (recsIn b).filter (fun r => !(recType r = 2 && out.contains (buId r))),
    streams := keepStreams b admitted, image := streamsOf b, nshape := (sectOf b 5).length / 64, place := place,
    funcs := (funcsIn b).map (fun r => (leAt r 4 1, (funcTable b r).take 64)), nu := slotsIn b, keep := admitted, left := out,
    addr := addr, region := region }

/-- The fill windows an image declares (R109). -/
def winsOf (b : List Byte) : AMap FillWin :=
  (winsIn b).map (fun r => (leAt r 4 1,
    { fmt := leAt r 5 1, home := wiHome r, cons := leAt r 8 2, k := wiK r, base := leAt r 16 4,
      bufs := List.replicate 2 { st := .free, rows := [], used := [] }, made := 0, posts := [] }))

/-- The module as the word scan takes it: the image's declarations bound to clusters of their own, and nothing else in the way. -/
def scanMach (m : Mach) (p : Nat) (guest : Bool) (b : List Byte) : Mach :=
  let k := pkOf b (placeBufs [] (((kind0 b).map (fun r => (putAt r 8 (leBytes 2 0)))))).1 (keepIds b) 0 0
  let m := ({ m with bad := [], offStacks := [] }).setObj (pix p) 3 (2 ^ imClus b - 1)
  let m := m.modPart p (fun q => if guest then { q with guest := some k } else { q with resident := some k, wins := winsOf b })
  m.wr (m.shapeKey p 0 guest k 0) (sectOf b 5)

/-- Check 11h: the word scan. -/
def check11 (m : Mach) (p : Nat) (guest : Bool) (b : List Byte) : Bad :=
  let s := scanMach m p guest b
  match (s.part p).pk guest with
  | none => none
  | some k =>
    (k.streams.zipIdx).findSome? (fun (e : List OpWord × Nat) =>
      let x : Wx := { p := p, core := e.2, g := 0, rank := e.2 / 16, guest := guest, pk := k, ctx := Ctx.init, words := e.1.length, w := 0 }
      (scanStream s x 0 none e.1).map (fun f => (e.2, f.1 + 2 ^ 24 * f.2)))

/-! ## Space checks (R216, R220) -/

/-- A shortfall entry (Table 7-12), with the check it comes from. -/
structure Short where
  code : Nat
  res : Nat
  index : Nat
  count : Nat
  need : Nat
  avail : Nat
  deriving DecidableEq, Repr

/-- The shortfall entry of instances given as (need, available): the largest, and the lowest of equals. -/
def shortOf (code res : Nat) (xs : List (Nat × Nat)) : Option Short :=
  let bad := (xs.zipIdx).filter (fun e => e.1.1 > e.1.2)
  let worst := bad.foldl (fun (a : Option ((Nat × Nat) × Nat)) e => match a with
    | some w => if e.1.1 - e.1.2 > w.1.1 - w.1.2 then some e else a
    | none => some e) none
  worst.map (fun w => { code := code, res := res, index := w.2, count := bad.length, need := w.1.1, avail := w.1.2 })

/-- The clusters, stacks or links of a partition fall short (check 06h). -/
def shortPart (m : Mach) (p : Nat) (b : List Byte) : List Short :=
  [shortOf 6 4 [(imClus b, (m.clusters p).length)], shortOf 6 5 [(prNstack b, (m.stacks p).length)],
   shortOf 6 6 [(prNlink b, (m.links p).length)]].filterMap id

/-- The space checks 12h to 14h over the instances that exist. -/
def Mach.spaceChecks (m : Mach) (p : Nat) (guest : Bool) (b : List Byte) : List Short :=
  let ncl := min (imClus b) (m.clusters p).length
  let loc := if guest then (prLocal b + 4096 * slotsIn b, m.gl p) else (prLocal b + m.gl p + 4096 * slotsIn b, 524288)
  let shp := (sectOf b 5).length / 64
  let clu := (prCshare b + 64 * shp, if guest then m.gc p else 8388608 - m.gc p)
  let req := (kind0 b).filter (fun r => !(keepIds b).contains (buId r))
  let start := m.placeStart p guest
  let ends := (placeBufs start req).2
  let stk := (List.range (min (prNstack b) (m.stacks p).length)).map (fun s =>
    (ends.get 0 s - start.get 0 s, m.stackAvail p ((m.stacks p).getD s 0) - start.get 0 s))
  [shortOf 0x12 1 (List.replicate (16 * ncl) loc), shortOf 0x13 2 (List.replicate ncl clu), shortOf 0x14 3 stk].filterMap id

/-! ## Tiling entries and advisories (R221, R222) -/

/-- The nearest tiling that fits; `fuel` bounds the steps. -/
def nearest (d : List Byte) (lv : Nat) (im inn ik : Nat) (room : Int) : Nat → Nat → Nat → Nat → Option (Nat × Nat × Nat)
  | 0, _, _, _ => none
  | fuel + 1, tm, tn, tk =>
    if (loFoot d lv tm tn tk : Int) ≤ room then some (tm, tn, tk)
    else
      let big := max (if tk > ik then tk else 0) (max (if tn > inn then tn else 0) (if tm > im then tm else 0))
      if big = 0 then none
      else if tk > ik && tk = big then nearest d lv im inn ik room fuel tm tn (tk - ik)
      else if tn > inn && tn = big then nearest d lv im inn ik room fuel tm (tn - inn) tk
      else nearest d lv im inn ik room fuel (tm - im) tn tk

/-- The buffers a descriptor names at a level in one instance: a rank or a relative core (R208). -/
def loNamed (d : List Byte) (lv inst : Nat) : List Nat :=
  match (loOwners d lv).find? (fun o => o.2 = inst) with
  | none => []
  | some o => (([0, 1, 2].filter (fun i => loBuf d lv i ≠ 0xFFFF && !(i = 2 && loCrb d lv))).map (fun i => loBuf d lv i + o.1)).dedup

/-- The tiling entry of a descriptor's level against a shortfall (Table 7-13). -/
def tilingEntry (b d : List Byte) (lv : Nat) (s : Short) : List Byte :=
  let t := loTile d lv
  let i := loTile d (lv - 1)
  let bsum := ((loNamed d lv s.index).filterMap (bufIn b)).foldl (fun a r => a + buSize r) 0
  let room : Int := (s.avail : Int) - ((s.need : Int) - bsum)
  let got := nearest d lv i.1 i.2.1 i.2.2 room (t.1 + t.2.1 + t.2.2) t.1 t.2.1 t.2.2
  let r := got.getD i
  let q (n : Nat) : List Byte := leBytes 4 (n / 64 - 1)
  leBytes 2 (leAt d 0 2) ++ leBytes 1 lv ++ leBytes 1 (b2n got.isSome) ++ q r.1 ++ q r.2.1 ++ q r.2.2 ++
    leBytes 8 (loFoot d lv r.1 r.2.1 r.2.2) ++ leBytes 8 (ofSigned 64 room)

/-- The tiling entries of a report: level 2 for a shortfall of cluster memory, level 1 for one of local memory, in descriptor order. -/
def tilings (m : Mach) (p : Nat) (b : List Byte) (ss : List Short) : List (List Byte) :=
  let ncl := min (imClus b) (m.clusters p).length
  ss.flatMap (fun s =>
    let lv := if s.res = 2 then 2 else if s.res = 1 then 1 else 0
    if lv = 0 then []
    else (loopsIn b).filterMap (fun d =>
      let owners := (loOwners d lv).filter (fun o => o.2 < (if lv = 2 then ncl else 16 * ncl))
      if owners.any (fun o => !(loNamed d lv o.2).isEmpty) then some (tilingEntry b d lv s) else none))

/-- Advisories by kind: far stacks, uneven splits, shape entries no word uses (Table 7-14). -/
def advisories (m : Mach) (p : Nat) (b : List Byte) : List (List Byte) :=
  let entry (kind a c : Nat) : List Byte := leBytes 1 kind ++ leBytes 1 0 ++ leBytes 2 a ++ leBytes 4 c
  let far := (loopsIn b).flatMap (fun d =>
    let dies := (List.range (loNcl d)).map (fun c => (m.clusters p).getD (loRank0 d + c) 128 / 16)
    ([28, 30, 32].map (fun o => leAt d o 2)).filterMap (fun id =>
      match bufIn b id with
      | none => none
      | some r => match (m.stacks p)[buOwner r]? with
        | some s => if dies.contains (s / 6) then none else some (entry 1 id (buOwner r))
        | none => none))
  let uneven := (loopsIn b).filterMap (fun d =>
    if (loTile d 2).1 / (loTile d 1).1 % loNc d ≠ 0 then some (entry 2 (leAt d 0 2) 0) else none)
  let used := (streamsOf b).flatMap (fun st => st.filterMap (fun w => if opcOf w.toNat = 0x29 then some (fld w.toNat 31 20) else none))
  let idle := (List.range (shapesIn b).length).filterMap (fun n => if used.contains n then none else some (entry 3 n 0))
  far ++ uneven ++ idle

/-! ## The checks as a whole -/

/-- What a load comes to: CODE, FIRST, DETAIL, shortfalls, tiling entries and advisories. -/
structure LoadRes where
  code : Nat
  first : Nat
  detail : Nat
  prk : Nat
  shorts : List Short
  tiles : List (List Byte)
  advs : List (List Byte)
  deriving DecidableEq, Repr

def LoadRes.plain (code first detail prk : Nat) : LoadRes :=
  { code := code, first := first, detail := detail, prk := prk, shorts := [], tiles := [], advs := [] }

/-- The structural checks 07h to 11h in code order: the first that fails. -/
def laterChecks (m : Mach) (p : Nat) (guest : Bool) (b : List Byte) : Option (Nat × Nat × Nat) :=
  let at' (code : Nat) (x : Bad) : Option (Nat × Nat × Nat) := x.map (fun f => (code, f))
  (at' 7 (check07 b)).or ((at' 8 (check08 b)).or ((at' 9 (check09 b)).or
    ((at' 0xA (check0A b guest (m.obj (0x6480 + p) 1 = 1))).or ((at' 0xB (check0B b guest)).or ((at' 0xC (check0C b guest)).or
      ((at' 0xD (check0D b)).or ((at' 0xE (check0E b)).or ((at' 0xF (check0F b)).or ((at' 0x10 (check10 b)).or
        (at' 0x11 (check11 m p guest b)))))))))))

/-- Steps 2 and 3 of a load over an image whose bytes are all readable (R216). -/
def loadChecks (m : Mach) (p : Nat) (guest : Bool) (b : List Byte) : LoadRes :=
  let prk := imPrk b
  match check03 b with
  | some f => .plain 3 f.1 f.2 prk
  | none => match check04 b with
    | some f => .plain 4 f.1 f.2 prk
    | none => match check05 b with
      | some f => .plain 5 f.1 f.2 prk
      | none =>
        let fit := check06 b (m.clusters p).length (m.stacks p).length (m.links p).length ((m.computePv p).pv p) (m.gmk p)
        let short6 := if fit.isSome then shortPart m p b else []
        match laterChecks m p guest b with
        | some (code, f) =>
          { LoadRes.plain (match fit with | some _ => 6 | none => code) (match fit with | some g => g.1 | none => f.1)
              (if fit.isSome then 0 else f.2) prk with shorts := short6 }
        | none =>
          let ss := m.spaceChecks p guest b
          let space : Bad := (ss.head?).map (fun s => (s.index, 0))
          let verdict : Nat × Nat × Nat :=
            match fit, check0D8 b, ss.head?, space with
            | some f, _, _, _ => (6, f)
            | none, some f, _, _ => (0xD, f)
            | none, none, some s, some f => (s.code, f)
            | _, _, _, _ => (0, 0, 0)
          { code := verdict.1, first := verdict.2.1, detail := verdict.2.2, prk := prk, shorts := ss ++ short6,
            tiles := tilings m p b ss, advs := advisories m p b }

/-- A load up to its install: admission, then the checks; an unreadable image is 17h (R216, R409). -/
def Mach.loadResult (m : Mach) (p : Nat) (guest hw : Bool) (addr region : Nat) : LoadRes :=
  let q := m.part p
  if guest && (q.resident.isNone || q.guest.isSome) then .plain 0xC 0xFFFF 0 0
  else if !guest && q.resident.isSome then .plain 0x15 0 0 0
  else if (m.firstBad addr (min 128 region)).isSome then .plain 0x17 0 0 0
  else
    let h := m.rd addr (min 128 region) |> padTo 128
    match check01 h region with
    | some f => .plain 1 f.1 f.2 0
    | none => match check02 h with
      | some f => .plain 2 f.1 f.2 (imPrk h)
      | none =>
        if (m.firstBad addr (imLen h)).isSome then .plain 0x17 0 0 (imPrk h)
        else
          let r := loadChecks m p guest (m.rd addr (imLen h))
          if r.code = 0 && hw then { r with code := 0x17, first := 0, detail := 0 } else r

/-- The report (Tables 7-11 to 7-14). -/
def LoadRes.report (r : LoadRes) : List Byte :=
  let ts := r.tiles.take 1024
  let as := r.advs.take 4096
  leBytes 1 1 ++ leBytes 1 r.code ++ leBytes 2 r.first ++ leBytes 4 r.detail ++ leBytes 2 r.shorts.length ++ leBytes 2 ts.length ++
  leBytes 2 (min as.length 65535) ++ leBytes 2 (min (r.advs.length - as.length) 65535) ++ leBytes 8 r.prk ++ zeros 8 ++
  (r.shorts.flatMap (fun s => leBytes 1 s.res ++ leBytes 1 0 ++ leBytes 2 s.index ++ leBytes 2 s.count ++ leBytes 2 0 ++
    leBytes 8 s.need ++ leBytes 8 s.avail)) ++ ts.flatten ++ as.flatten

/-! ## Install (R223) -/

/-- Write the buffers of one or more kinds: initial contents, the rest 0 (R116). -/
def Mach.fillBufs (m : Mach) (p : Nat) (guest : Bool) (k : Pricking) (b : List Byte) (kinds : List Nat) : Mach :=
  ((k.recsOf 2).filter (fun r => kinds.contains (buKind r))).foldl (fun a r =>
    match a.buf p guest k (buId r) with
    | some at' => (a.wipe at'.key at'.size).put at'.key (((sectOf b 4).drop (leAt r 32 8)).take (leAt r 12 4))
    | none => a) m

/-- Leave the buffers of an image undefined (R223). -/
def Mach.spoilBufs (m : Mach) (p : Nat) (guest : Bool) (k : Pricking) : Mach :=
  let m' := (k.recsOf 2).foldl (fun (a : Mach) r =>
    match a.buf p guest k (buId r) with
    | some at' => ({ a with free := a.free + 1 }).wr at'.key (a.freeBytes at'.size)
    | none => a) m
  { m' with free := m'.free + 1 }

/-- Tile tables: entries copied with bytes 24 to 31 written 0; the rest of each region is undefined (R256). -/
def Mach.fillTables (m : Mach) (p : Nat) (k : Pricking) (b : List Byte) : Mach :=
  k.rbufs.foldl (fun (a : Mach) r =>
    let a' := ({ a with free := a.free + 1 }).wr (a.rbKey p r) (a.freeBytes (rbBytes r))
    (List.range (rbTiles r)).foldl (fun (c : Mach) t => c.wr (c.rbEntryKey p r t) ((tileIn b r t).take 24 ++ zeros 8)) a') m

/-- Function tables into every core, shape table into every cluster (R166, R210). -/
def Mach.fillCores (m : Mach) (p : Nat) (guest : Bool) (k : Pricking) (b : List Byte) : Mach :=
  let m := (funcsIn b).foldl (fun (a : Mach) r =>
    (a.coresOf p).foldl (fun (c : Mach) core => c.wr (c.funcKey p core guest (leAt r 4 1)) ((funcTable b r).drop 64)) a) m
  (m.clusters p).foldl (fun (a : Mach) g => a.wr (a.shapeKey p g guest k 0) ((sectOf b 5).take (64 * k.nshape))) m

/-- Bits of the user functions of a pricking. -/
def Pricking.funcMask (k : Pricking) : Nat := (List.range 16).foldl (fun a u => if (k.funcs.get? u).isSome then a + 2 ^ u else a) 0

/-- The pricking a load of partition `p` would install. -/
def Mach.pricking (m : Mach) (p : Nat) (guest : Bool) (b : List Byte) (addr region : Nat) : Pricking :=
  let adm := if guest then [] else m.admitted p b
  let rs := (kind0 b).filter (fun r => !(keepIds b).contains (buId r) || adm.contains (buId r))
  let place := (placeBufs (m.placeStart p guest) rs).1
  let owner (id : Nat) : Nat := match bufIn b id with | some r => buOwner r | none => 0
  pkOf b (place.map (fun e => (e.1, stackBase ((m.stacks p).getD (owner e.1) 0) + e.2))) adm addr region

/-- The cores of a partition have consumed no batch of the windows declared anew (R100, R109). -/
def Mach.freshWins (m : Mach) (p : Nat) : Mach :=
  (m.coresOf p).foldl (fun (a : Mach) c => a.setCore c { a.core c with fwUsed := [] }) m

/-- Install an accepted image, in the order of R223; its link version is computed (R296). -/
def Mach.install (m : Mach) (p : Nat) (guest : Bool) (b : List Byte) (addr region : Nat) : Mach :=
  let k := m.pricking p guest b addr region
  let m := m.modPart p (fun q => if guest then { q with guest := some k } else
    { q with resident := some k, caches := [], rbufs := [], closed := 0, sweep := false })
  let m := (m.fillBufs p guest k b [0]).fillBufs p guest k b [1, 2]
  let m := if guest then m else m.fillTables p k b
  let m := (m.fillCores p guest k b).computePv p
  let ver := if k.funcs.isEmpty then 0 else k.prkver
  if guest then (m.setObj (0x6300 + p) 3 k.funcMask).setObj (0x6300 + p) 4 ver
  else
    let m := (m.freshWins p).modPart p (fun q => { q with wins := winsOf b })
    let m := ((m.setObj (0x6300 + p) 1 k.funcMask).setObj (0x6300 + p) 2 ver).setObj (0x6400 + p) 4 k.nshape
    ((m.setObj (0x6440 + p) 7 0).setObj (0x6480 + p) 0xC k.keep.length).setObj (0x6480 + p) 0xD k.left.length

/-- A load: its checks, its install, its report and the loader objects (R216, R219, R223, R224). -/
def Mach.runLoad (m : Mach) (p : Nat) (guest hw : Bool) (addr report region : Nat) : Nat × Mach :=
  let r := m.loadResult p guest hw addr region
  let n := imLen (m.rd addr 128)
  let m1 :=
    let m := m.touch [(addr, n)]
    if r.code = 0 then m.install p guest (m.rd addr n) addr region
    else if r.code = 0x17 then
      let m' := (m.lostAny 2 ((m.firstBad addr (min 128 region)).or (m.firstBad addr n)))
      let m' := { m' with hwWait := m'.hwWait ++ [(0x17, p, 0xFFFF)] }
      if (m.firstBad addr (min 128 region)).isNone && (m.firstBad addr n).isNone then
        m'.spoilBufs p guest (m.pricking p guest (m.rd addr n) addr region) else m'
    else m
  let m2 := m1.put report r.report
  let m3 := m2.setObj (0x6400 + p) 1 (r.code + 256 * (r.first % 65536))
  (r.code, if r.code = 0 then m3.addObj32 (0x6400 + p) 2 1 else m3.addObj32 (0x6400 + p) 3 1)

/-- Take the resident pricking out (R225, R178, R167). -/
def Mach.unloadResident (m : Mach) (p : Nat) : Mach :=
  let m := m.modPart p (fun q => { q with resident := none, wins := [], caches := [], rbufs := [], closed := 0, sweep := false })
  ((m.setObj (0x6400 + p) 4 0).setObj (0x6300 + p) 1 0).setObj (0x6300 + p) 2 0

/-- Take the guest pricking out. -/
def Mach.unloadGuest (m : Mach) (p : Nat) : Mach :=
  ((m.modPart p (fun q => { q with guest := none })).setObj (0x6300 + p) 3 0).setObj (0x6300 + p) 4 0

end Sys2Proof.Machine
end

