-- ==== Sys2Proof/Machine/Codec.lean ====
section
/-! DEFINITION. What the media engines make of coded inputs (R342, R348 to R354, R356 to R358), apart from commands and streams: the features of
Table 12-2, picture surfaces, concealment, JPEG restart intervals, FLAC frames and PCM. What the cited standards parse out of an input is
`Config.codec` (log entry 92); what this manual says of it is computed here. -/

namespace Sys2Proof.Machine

/-! ## What a standard says of an input -/

/-- The codec's answers: by kind (0 HEVC, 1 H.264, 2 AV1, 3 Opus, 4 FLAC, 5 JPEG, 6 and 8 the encoders, 48 and up the engines' own ways), by what came
before in the stream, by the input, field and entry. -/
def medCodec (kind : Nat) (h : List (List Byte)) (i : List Byte) (f n : Nat) : Nat := Config.codec kind h i f n

/-- An input as a stream's history keeps it: whether the watchdog cut it short, then its bytes. -/
def pastOf (cut : Bool) (input : List Byte) : List Byte := BitVec.ofNat 8 (b2n cut) :: input

/-! ## Surfaces (R349) -/

def pitchOf (w depth : Nat) : Nat := 64 * cdiv (w * (if depth = 8 then 1 else 2)) 64
def surfaceBytes (w h depth : Nat) : Nat := pitchOf w depth * (h + cdiv h 2)
def mapBlocks (w h : Nat) : Nat := cdiv w 64 * cdiv h 64

/-- A sample as it is stored: one byte, or two with the value in bits [9:0]. -/
def sampleBytes (depth v : Nat) : List Byte := if depth = 8 then [BitVec.ofNat 8 v] else leBytes 2 (v % 1024)

/-- A row of a surface filled up to the pitch; what the filling holds is not stated. -/
def pitchRow (w depth : Nat) (fill : Nat → Byte) (at' : Nat) (row : List Byte) : List Byte :=
  row ++ (List.range (pitchOf w depth - row.length)).map (fun i => fill (at' + i))

/-- The surface of a picture from its samples, by plane (0 luma, 1 Cb, 2 Cr), column and row: luma rows at offset 0, chroma rows at PITCH x H with Cb
and Cr interleaved. -/
def surfaceOf (w h depth : Nat) (smp : Nat → Nat → Nat → Nat) (fill : Nat → Byte) : List Byte :=
  (List.range h).flatMap (fun y => pitchRow w depth fill (y * pitchOf w depth)
    ((List.range w).flatMap (fun x => sampleBytes depth (smp 0 x y)))) ++
  (List.range (cdiv h 2)).flatMap (fun y => pitchRow w depth fill ((h + y) * pitchOf w depth)
    ((List.range (cdiv w 2)).flatMap (fun x => sampleBytes depth (smp 1 x y) ++ sampleBytes depth (smp 2 x y))))

/-- A sample of a surface. -/
def surfaceAt (s : List Byte) (w h depth plane x y : Nat) : Nat :=
  let b := if depth = 8 then 1 else 2
  let at' := if plane = 0 then y * pitchOf w depth + x * b else (h + y) * pitchOf w depth + (2 * x + (plane - 1)) * b
  leAt s at' b

/-- The samples of a surface without the filling of its rows, as an encoder reads them. -/
def surfaceSamples (w h depth : Nat) (s : List Byte) : List Byte :=
  let b := if depth = 8 then 1 else 2
  (List.range h).flatMap (fun y => (s.drop (y * pitchOf w depth)).take (w * b)) ++
  (List.range (cdiv h 2)).flatMap (fun y => (s.drop ((h + y) * pitchOf w depth)).take (2 * cdiv w 2 * b))

/-- Mid-grey at a depth (R357). -/
def greyOf (depth : Nat) : Nat := if depth = 8 then 128 else 512

/-- A mid-grey surface (R357). -/
def greySurface (w h depth : Nat) : List Byte :=
  surfaceOf w h depth (fun _ _ _ => greyOf depth) (fun i => BitVec.ofNat 8 (medCodec 48 [] [] 13 i))

/-! ## Open blocks (Table 12-6) -/

def vdCodec (o : List Byte) : Nat := leAt o 0 1
def vdDepth (o : List Byte) : Nat := leAt o 1 1
def vdW (o : List Byte) : Nat := leAt o 2 2
def vdH (o : List Byte) : Nat := leAt o 4 2

/-! ## Video decode (R348, R357, R358) -/

/-- What the headers of a coded picture say. Its profile is numbered by Table 12-2's list for its codec (HEVC 0 Main, 1 Main 10; H.264 0 Constrained
Baseline, 1 Main, 2 High; AV1 0 Main; others are not listed), its level in tenths, chroma 1 for 4:2:0; `tools` are features the table does not
list (field or MBAFF coding, extensions, large-scale tiles). `start` is 0 for a picture that predicts, 1 for an IDR, BLA or key picture, 2 for a
CRA; `rasl` is for one that leads such a CRA; `again` is for a show_existing_frame, which names an earlier picture. -/
structure VidHead where
  profile : Nat
  level : Nat
  chroma : Nat
  depth : Nat
  tools : Bool
  w : Nat
  h : Nat
  shown : Bool
  start : Nat
  rasl : Bool
  again : Option Nat
  isRef : Bool
  deriving DecidableEq, Repr

def vidHead (codec : Nat) (hist : List (List Byte)) (input : List Byte) : VidHead :=
  let q (f : Nat) : Nat := medCodec codec hist input f 0
  { profile := q 20, level := q 21, chroma := q 22, depth := q 3, tools := q 23 % 2 = 1, w := 1 + q 1, h := 1 + q 2, shown := q 24 % 2 = 0,
    start := q 25 % 3, rasl := codec = 0 && q 26 % 2 = 1, again := if codec = 2 && q 27 % 2 = 1 then some (q 28) else none, isRef := q 29 % 2 = 0 }

/-- The picture uses only features of Table 12-2. -/
def VidHead.supported (x : VidHead) (codec : Nat) : Bool :=
  !x.tools && x.chroma = 1 && (x.depth = 8 || (x.depth = 10 && codec ≠ 1)) && x.level ≤ (if codec = 2 then 63 else 62) && x.w ≤ 8192 && x.h ≤ 4320 &&
  (if codec = 0 then x.profile = 1 || (x.profile = 0 && x.depth = 8) else if codec = 1 then x.profile ≤ 2 else x.profile = 0)

/-- A decoded picture: unsupported, or its size, depth, error map and surface; whether it is shown and kept; order, bytes consumed, and whether the
RASL pictures that follow are not output. -/
structure VidOut where
  ok : Bool
  pic : MedPic
  shown : Bool
  isRef : Bool
  order : Nat
  used : Nat
  rasl : Bool
  deriving DecidableEq, Repr

/-- Map codes of a picture's blocks (Table 12-8): a damaged block, or one that the watchdog cut off, is copied where the most recent reference has the
picture's size, else grey; a sound block that reads a block whose code is not 00h is 03h, and a picture that starts a sequence reads none. A
reference of another size counts as none (log entry 244, DESIGN CHOICE). -/
def vidMap (codec : Nat) (hist : List (List Byte)) (pics : List MedPic) (hd : VidHead) (input : List Byte) (cut : Option Nat) : List Byte :=
  let q (f i : Nat) : Nat := medCodec codec hist input f i
  let co : Bool := match pics.head? with
    | some r => r.w = hd.w && r.h = hd.h && r.depth = hd.depth
    | none => false
  (List.range (mapBlocks hd.w hd.h)).map (fun i =>
    let gone : Bool := match cut with
      | some k => decide (k ≤ i)
      | none => false
    if q 7 i % 2 = 1 || gone then (if co then 1 else 2)
    else if hd.start = 0 && (List.range (q 10 i)).any (fun j =>
        ((pics.map MedPic.map).getD (q 11 (1024 * i + j)) []).getD (q 12 (1024 * i + j)) 0 ≠ 0) then 3 else 0)

/-- One access unit or temporal unit, decoded after `hist` with the pictures in hand, of which the newest is first; `cut` is how many blocks were
reconstructed when the watchdog expired (R348, R356 to R358). -/
def vidDecode (o : List Byte) (hist : List (List Byte)) (pics : List MedPic) (rasl : Bool) (input : List Byte) (cut : Option Nat) : VidOut :=
  let codec := vdCodec o
  let hs := o :: hist
  let q (f i : Nat) : Nat := medCodec codec hs input f i
  let hd := vidHead codec hs input
  let order := q 4 0 % 2 ^ 32
  let used := min (q 5 0) input.length
  let none' : MedPic := { w := vdW o, h := vdH o, depth := vdDepth o, surface := [], map := List.replicate (mapBlocks (vdW o) (vdH o)) 2 }
  if !hd.supported codec || hd.w > vdW o || hd.h > vdH o || hd.depth > vdDepth o then
    { ok := false, pic := none', shown := true, isRef := false, order := order, used := used, rasl := rasl }
  else
    let fill : Nat → Byte := fun i => BitVec.ofNat 8 (q 13 i)
    let grey := surfaceOf hd.w hd.h hd.depth (fun _ _ _ => greyOf hd.depth) fill
    let lost : MedPic := { w := hd.w, h := hd.h, depth := hd.depth, surface := grey, map := List.replicate (mapBlocks hd.w hd.h) 2 }
    match hd.again with
    | some j => { ok := true, pic := (pics[j]?).getD lost, shown := true, isRef := false, order := order, used := used, rasl := rasl }
    | none =>
      let map := vidMap codec hs pics hd input cut
      let smp (p x y : Nat) : Nat :=
        let blk := if p = 0 then y / 64 * cdiv hd.w 64 + x / 64 else y / 32 * cdiv hd.w 64 + x / 32
        match (map.getD blk 0).toNat, pics.head? with
        | 1, some r => surfaceAt r.surface hd.w hd.h hd.depth p x y
        | 2, _ => greyOf hd.depth
        | _, _ => q (16 + p) (x + 8192 * y) % 2 ^ hd.depth
      { ok := true, pic := { w := hd.w, h := hd.h, depth := hd.depth, surface := surfaceOf hd.w hd.h hd.depth smp fill, map := map },
        shown := hd.shown && !(hd.rasl && rasl), isRef := hd.isRef, order := order, used := used,
        rasl := if hd.start = 0 then rasl else hd.start = 2 && hist.isEmpty }

/-- The pictures in hand after one more: those that later ones may refer to, at most the 16 of a DPB. -/
def VidOut.keep (x : VidOut) (pics : List MedPic) : List MedPic := if x.ok && x.isRef then (x.pic :: pics).take 16 else pics

/-- Codes 01h and 02h of a map: the concealed blocks. -/
def concealed (map : List Byte) : Nat := map.countP (fun c => c = 1 || c = 2)

/-! ## Video encode (R351, R352) -/

/-- Emulation prevention of HEVC: a 03h after two zero bytes that a byte below 4 follows (PRESUMED from the standard, log entry 245). -/
def emulate : Nat → List Byte → List Byte
  | _, [] => []
  | z, b :: t => if z ≥ 2 && b.toNat < 4 then 3 :: b :: emulate (b2n (b = 0)) t else b :: emulate (if b = 0 then z + 1 else 0) t

/-- A NAL unit of an Annex B byte stream: start code, header, payload (PRESUMED from the standard, log entry 245). -/
def nalUnit (ty : Nat) (body : List Byte) : List Byte := [0, 0, 0, 1, BitVec.ofNat 8 (2 * ty), 1] ++ emulate 0 body

/-- A length as AV1 writes it, seven bits a byte (PRESUMED from the standard, log entry 245). -/
def leb128 : Nat → Nat → List Byte
  | 0, n => [BitVec.ofNat 8 (n % 128)]
  | fuel + 1, n => if n < 128 then [BitVec.ofNat 8 n] else BitVec.ofNat 8 (128 + n % 128) :: leb128 fuel (n / 128)

/-- A low-overhead OBU with its size (PRESUMED from the standard, log entry 245). -/
def obuUnit (ty : Nat) (body : List Byte) : List Byte := [BitVec.ofNat 8 (8 * ty + 2)] ++ leb128 8 body.length ++ body

/-- Whether picture `n` of an encode stream is an IDR or key picture: every IDRINT pictures (R351). -/
def veKey (o : List Byte) (n : Nat) : Bool := n % leAt o 6 2 = 0

/-- The access unit or temporal unit of one picture at a quantiser: its one slice or frame, before an IDR or key picture the parameter sets or the
sequence header, and under HRD the SEI messages that R352 names; in AV1 a temporal delimiter first. The payloads are the codec's. `src` is none for
encode_min, whose slice does not depend on the picture (R351). -/
def encodeUnit (o : List Byte) (hist : List (List Byte)) (n : Nat) (src : Option (List Byte)) (qp : Nat) : List Byte :=
  let kind := 6 + vdCodec o
  let body (f : Nat) : List Byte :=
    (List.range (1 + medCodec kind (o :: hist) (src.getD []) 30 (256 * f + qp))).map (fun i =>
      BitVec.ofNat 8 (medCodec kind (o :: hist) (src.getD []) (31 + f) (1024 * i + qp)))
  let f (x : Nat) : Nat := x + if src.isNone then 32 else 0
  let key := veKey o n
  if vdCodec o = 0 then
    (if key then nalUnit 32 (body 1) ++ nalUnit 33 (body 2) ++ nalUnit 34 (body 3) else []) ++
    (if leAt o 16 1 = 1 then (if key then nalUnit 39 (body 4) else []) ++ nalUnit 39 (body 5) else []) ++ nalUnit (if key then 19 else 1) (body (f 0))
  else obuUnit 2 [] ++ (if key then obuUnit 1 (body 1) else []) ++ obuUnit 6 (body (f 0))

/-! ## Stills (R353, R358) -/

def clip8 (v : Int) : Nat := if v < 0 then 0 else if v > 255 then 255 else v.toNat

/-- The colour conversion of R353. -/
def rgbOf (y cb cr : Nat) : List Byte :=
  let db : Int := (cb : Int) - 128
  let dr : Int := (cr : Int) - 128
  [BitVec.ofNat 8 (clip8 (y + (91881 * dr + 32768) / 65536)),
   BitVec.ofNat 8 (clip8 (y + (-22554 * db - 46802 * dr + 32768) / 65536)),
   BitVec.ofNat 8 (clip8 (y + (116130 * db + 32768) / 65536))]

/-- Rows of samples padded to 64 bytes; what the padding holds is not stated. -/
def padRow (free : Nat → Byte) (row : List Byte) : List Byte :=
  row ++ ((List.range (alignUp row.length 64 - row.length)).map free)

/-- What the headers of a JPEG file say: its coding process (0 baseline sequential Huffman), sample bits, components, luma factors, whether the chroma
factors are 1, size, and MCUs in a restart interval (0 without). -/
structure JpegHead where
  process : Nat
  bits : Nat
  comps : Nat
  fx : Nat
  fy : Nat
  chroma1 : Bool
  w : Nat
  h : Nat
  interval : Nat
  deriving DecidableEq, Repr

def jpegHead (input : List Byte) : JpegHead :=
  let q (f : Nat) : Nat := medCodec 5 [] input f 0
  { process := q 20, bits := q 3, comps := q 11, fx := q 12, fy := q 14, chroma1 := q 15 % 2 = 0, w := 1 + q 1, h := 1 + q 2, interval := q 21 }

/-- The file uses only features of Table 12-2. -/
def JpegHead.supported (x : JpegHead) : Bool :=
  x.process = 0 && x.bits = 8 && (x.comps = 1 || (x.comps = 3 && x.chroma1 && 1 ≤ x.fx && x.fx ≤ 2 && 1 ≤ x.fy && x.fy ≤ 2)) &&
  x.w ≤ 16384 && x.h ≤ 16384

/-- The factors of a file's luma; a scan of one component has MCUs of one block. -/
def JpegHead.lx (x : JpegHead) : Nat := if x.comps = 1 then 1 else x.fx
def JpegHead.ly (x : JpegHead) : Nat := if x.comps = 1 then 1 else x.fy

/-- MCUs in a row, and the MCU that holds a luma sample. -/
def JpegHead.cols (x : JpegHead) : Nat := cdiv x.w (8 * x.lx)
def JpegHead.mcu (x : JpegHead) (px py : Nat) : Nat := py / (8 * x.ly) * x.cols + px / (8 * x.lx)

/-- An MCU is concealed: from the damage of its restart interval to the interval's end, or not reached when the watchdog expired (R356, R358). -/
def JpegHead.lost (x : JpegHead) (input : List Byte) (cut : Option Nat) (n : Nat) : Bool :=
  let r := if x.interval = 0 then 0 else n / x.interval
  let at' := medCodec 5 [] input 23 r
  (medCodec 5 [] input 22 r % 2 = 1 && decide (r * x.interval + at' ≤ n)) ||
  (match cut with
   | some k => decide (k ≤ n)
   | none => false)

/-- A sample of a component, at the component's own sampling; a concealed MCU is mid-grey. -/
def JpegHead.sample (x : JpegHead) (input : List Byte) (cut : Option Nat) (c px py : Nat) : Nat :=
  let n := if c = 0 then x.mcu px py else x.mcu (px * x.lx) (py * x.ly)
  if x.lost input cut n then 128 else medCodec 5 [] input (16 + c) (px + 16384 * py) % 256

/-- Blocks of the error map: 02h where a concealed MCU lies. -/
def JpegHead.map (x : JpegHead) (input : List Byte) (cut : Option Nat) : List Byte :=
  (List.range (mapBlocks x.w x.h)).map (fun i =>
    let bx := i % cdiv x.w 64 * 64
    let by' := i / cdiv x.w 64 * 64
    if (List.range 8).any (fun v => (List.range 8).any (fun u =>
        bx + 8 * u < x.w && by' + 8 * v < x.h && x.lost input cut (x.mcu (bx + 8 * u) (by' + 8 * v)))) then 2 else 0)

/-- The colour of a pixel, chroma upsampled by replication; one component gives R = G = B = Y. -/
def JpegHead.rgb (x : JpegHead) (input : List Byte) (cut : Option Nat) (px py : Nat) : List Byte :=
  let y := x.sample input cut 0 px py
  if x.comps = 1 then List.replicate 3 (BitVec.ofNat 8 y)
  else rgbOf y (x.sample input cut 1 (px / x.fx) (py / x.fy)) (x.sample input cut 2 (px / x.fx) (py / x.fy))

/-! ## Audio (R354) -/

/-- The packets of a list: each a length and its bytes, padded to 4; a list that ends early ends there (R356). -/
def packetsOf : Nat → List Byte → List (List Byte)
  | 0, _ => []
  | fuel + 1, bs =>
    if bs.length < 4 then []
    else
      let n := leAt bs 0 4
      (bs.drop 4).take n :: packetsOf fuel (bs.drop (4 + alignUp n 4))

/-- A PCM sample as a value: integers as their value, FP32 as it is. -/
def pcmVal (codec : Nat) (bs : List Byte) : Val :=
  if codec = 2 then .ofInt (toSigned 16 (leNat bs)) else if codec = 3 then .ofInt (toSigned 24 (leNat bs)) else val32 (leNat bs)

def pcmBytes (codec : Nat) : Nat := if codec = 2 then 2 else if codec = 3 then 3 else 4

/-- A cyclic redundancy check over bytes, highest bit first, from 0. -/
def crcMsb (width poly : Nat) (bs : List Byte) : Nat :=
  bs.foldl (fun a b => (List.range 8).foldl (fun c _ => if bit c (width - 1) then ((2 * c) ^^^ poly) % 2 ^ width else 2 * c) (a ^^^ (b.toNat * 2 ^ (width - 8)))) 0

/-- The header of a FLAC frame: its bytes, block size, rate (none for the stream's), channels and bits (none for the stream's). The layout and the two
polynomials are RFC 9639's (PRESUMED, log entry 246). -/
structure FlacHead where
  len : Nat
  size : Nat
  rate : Option Nat
  chans : Nat
  bits : Option Nat
  deriving DecidableEq, Repr

def flacHead (bs : List Byte) : Option FlacHead :=
  let b (i : Nat) : Nat := leAt bs i 1
  let num := if b 4 < 128 then 1 else if b 4 < 224 then 2 else if b 4 < 240 then 3 else if b 4 < 248 then 4 else if b 4 < 252 then 5 else if b 4 < 254 then 6 else 7
  let sz := b 2 / 16
  let rt := b 2 % 16
  let at' := 4 + num
  let szn := if sz = 6 then 1 else if sz = 7 then 2 else 0
  let rtn := if rt = 12 then 1 else if rt = 13 || rt = 14 then 2 else 0
  let be (i n : Nat) : Nat := (List.range n).foldl (fun a j => 256 * a + b (i + j)) 0
  if b 0 ≠ 0xFF || b 1 / 2 ≠ 0x7C || sz = 0 || rt = 15 then none
  else some {
    len := at' + szn + rtn + 1
    size := if sz = 1 then 192 else if sz ≤ 5 then 576 * 2 ^ (sz - 2) else if sz ≤ 7 then be at' szn + 1 else 256 * 2 ^ (sz - 8)
    rate := if rt = 0 then none
      else if rt = 12 then some (1000 * be (at' + szn) 1) else if rt = 13 then some (be (at' + szn) 2) else if rt = 14 then some (10 * be (at' + szn) 2)
      else some ([0, 88200, 176400, 192000, 8000, 16000, 22050, 24000, 32000, 44100, 48000, 96000].getD rt 0)
    chans := if b 3 / 16 < 8 then b 3 / 16 + 1 else if b 3 / 16 ≤ 10 then 2 else 0
    bits := if b 3 / 2 % 8 = 0 then none else some ([0, 8, 12, 0, 16, 20, 24, 32].getD (b 3 / 2 % 8) 0) }

/-- The header's CRC-8 and the frame's CRC-16 hold. -/
def FlacHead.sound (x : FlacHead) (bs : List Byte) : Bool :=
  decide (x.len + 2 ≤ bs.length) && crcMsb 8 0x07 (bs.take (x.len - 1)) = leAt bs (x.len - 1) 1 &&
  crcMsb 16 0x8005 (bs.take (bs.length - 2)) = 256 * leAt bs (bs.length - 2) 1 + leAt bs (bs.length - 1) 1

/-- A frame with a feature of Table 12-2 alone: 1 or 2 channels, 8 to 24 bits, 8 to 96 kHz. -/
def FlacHead.supported (x : FlacHead) : Bool :=
  (x.chans = 1 || x.chans = 2) &&
  (match x.bits with
   | some n => decide (8 ≤ n) && decide (n ≤ 24)
   | none => true) &&
  (match x.rate with
   | some n => decide (8000 ≤ n) && decide (n ≤ 96000)
   | none => true)

/-- What one packet decodes to: samples by channel, whether it was concealed, whether it is unsupported. -/
structure AuOut where
  planes : List (List Val)
  lost : Bool
  ok : Bool

/-- Zero samples in every channel. -/
def AuOut.silent (ch n : Nat) : AuOut := { planes := List.replicate ch (List.replicate n (Val.zero false)), lost := true, ok := true }

/-- One packet of a stream, after `h`; one that the watchdog cut off is concealed: Opus by its packet-loss concealment, the others as zero samples of
their length (R354, R356; log entry 246, DEDUCED for PCM). A FLAC frame whose CRC-8 or CRC-16 fails is zero samples of its block size; one with no
header to name it has a free size. -/
def auPacket (o : List Byte) (h : List (List Byte)) (cut : Bool) (pk : List Byte) : AuOut :=
  let codec := leAt o 0 1
  let ch := leAt o 1 1
  let q (f i : Nat) : Nat := medCodec (3 + codec) h (if codec = 0 && cut then [] else pk) f i
  let planes (n : Nat) : List (List Val) := (List.range ch).map (fun c => (List.range n).map (fun i => .ofInt (toSigned 32 (q (16 + c) i))))
  if codec ≥ 2 then
    let fr := ch * pcmBytes codec
    let fs := chunks fr (pk.length + 1) (pk.take (pk.length / fr * fr))
    if cut then .silent ch fs.length
    else
      { planes := (List.range ch).map (fun c => fs.map (fun f => pcmVal codec ((f.drop (c * pcmBytes codec)).take (pcmBytes codec)))),
        lost := false, ok := true }
  else if codec = 1 then
    match flacHead pk with
    | none => .silent ch (q 9 0 % 65536)
    | some x =>
      if cut || !x.sound pk then .silent ch x.size
      else if !x.supported then { planes := [], lost := false, ok := false }
      else { planes := planes x.size, lost := false, ok := true }
  else { planes := planes (q 9 0 % 65536), lost := cut || pk.isEmpty || q 14 0 % 2 = 1, ok := cut || pk.isEmpty || q 0 0 % 4 ≠ 1 }

end Sys2Proof.Machine
end

