-- ==== Sys2Proof/Machine/Media.lean ====
section
/-! DEFINITION. The media engines (chapter 12): queues and scheduler, the checks of a command, streams, the effects of its commands and the voxel
grid. -/

namespace Sys2Proof.Machine

/-! ## Regions -/

/-- `n` bytes at a device address lie in a stack of the partition, below 30 GiB (R320, R345). -/
def Mach.holds (m : Mach) (p a n : Nat) : Bool :=
  n = 0 || (a < 2 ^ 52 && (m.stacks p).contains (a / 2 ^ 35) && a % 2 ^ 35 + n ≤ stackUsable)

/-- Bytes that an engine leaves in a region with an internal layout (R350): no reader knows them. -/
def Mach.scribble (m : Mach) (a n : Nat) : Mach :=
  { m with mem := Mem.write m.mem a (m.freeBytes n), free := m.free + 1 }

/-! ## The media command (Table 12-3) -/

def mcMop (b : List Byte) : Nat := leAt b 0 1
def mcEng (b : List Byte) : Nat := leAt b 2 1
def mcPri (b : List Byte) : Nat := leAt b 3 1
def mcStream (b : List Byte) : Nat := leAt b 4 2
def mcMk (b : List Byte) : Nat := leAt b 6 2
def mcSrc (b : List Byte) : Nat := leAt b 8 8
def mcSrclen (b : List Byte) : Nat := leAt b 16 4
def mcDsize (b : List Byte) : Nat := leAt b 20 4
def mcDbase (b : List Byte) : Nat := leAt b 24 8
def mcEbase (b : List Byte) : Nat := leAt b 32 8
def mcEsize (b : List Byte) : Nat := leAt b 40 4
def mcRbase (b : List Byte) : Nat := leAt b 48 8
def mcPbase (b : List Byte) : Nat := leAt b 56 8

/-- Engine classes of Table 12-1: 0 video decode, 1 video encode, 2 JPEG, 3 audio, 4 points. -/
def engClass (e : Nat) : Nat := if e < 4 then 0 else if e < 6 then 1 else if e < 8 then 2 else if e = 8 then 3 else 4

/-- The MOPs of a class (Table 12-4). -/
def mopFits (mop cls : Nat) : Bool :=
  match mop with
  | 1 => cls = 0 || cls = 1 || cls = 3
  | 2 => cls = 0 || cls = 1 || cls = 3
  | 3 => cls = 0 || cls = 3
  | 4 => cls = 1
  | 5 => cls = 2
  | 6 => cls = 4
  | _ => false

/-- STREAM in range for the class; the JPEG form and the point engine's 0 too (Table 12-3). -/
def streamFits (cls st : Nat) : Bool :=
  if cls = 0 then st < 64 else if cls = 1 then st < 16 else if cls = 2 then st < 2 else if cls = 3 then st < 4096 else st = 0

def streamKey (e st : Nat) : Nat := 4096 * e + st

def Mach.med (m : Mach) (e : Nat) : MedEng := m.media.get { queue := [], run := none, failed := false, spans := [], ctx := none } e

def Mach.setMed (m : Mach) (e : Nat) (x : MedEng) : Mach := { m with media := m.media.put e x }

/-! ## Open blocks (Table 12-6) -/

/-- Bytes of the DPB a decode stream needs (R350), or of the references an encode stream needs. -/
def dpbNeed (o : List Byte) (frames : Nat) : Nat :=
  let s := surfaceBytes (vdW o) (vdH o) (vdDepth o)
  frames * (s + s / 16)

/-- MINPIC of an encode stream (R351). -/
def minPic (o : List Byte) : Nat := 64 * mapBlocks (vdW o) (vdH o) + 16384

/-- B0 of an encode stream (Table 12-5). -/
def veB0 (o : List Byte) : Nat := if leAt o 16 1 = 0 then leAt o 24 4 else leAt o 20 4 * leAt o 28 4 / 90000

/-- The refill of one picture, RATE x FPSD / FPSN in whole bits. -/
def veRefill (o : List Byte) : Nat := leAt o 20 4 * leAt o 12 4 / leAt o 8 4

def zeroOn (o : List Byte) (a b : Nat) : Bool := !nonzero o a (b - a)

/-- A VD open block in range. -/
def vdOk (o : List Byte) : Bool :=
  vdCodec o ≤ 2 && (vdDepth o = 8 || vdDepth o = 10) && decide (64 ≤ vdW o) && decide (vdW o ≤ 8192) && decide (64 ≤ vdH o) &&
  decide (vdH o ≤ 4320) && zeroOn o 6 8 && decide (dpbNeed o (if vdCodec o = 2 then 9 else 17) ≤ leAt o 16 8) &&
  decide (1 ≤ leAt o 24 2) && decide (leAt o 24 2 ≤ 1000) && zeroOn o 26 64

/-- A VE open block in range, with the rate-control check of R351. -/
def veOk (o : List Byte) : Bool :=
  let qm := if vdCodec o = 0 then 51 else 255
  (vdCodec o = 0 || vdCodec o = 2) && (vdDepth o = 8 || vdDepth o = 10) && decide (64 ≤ vdW o) && decide (vdW o ≤ 8192) &&
  decide (64 ≤ vdH o) && decide (vdH o ≤ 4320) && vdW o % 2 = 0 && vdH o % 2 = 0 && decide (1 ≤ leAt o 6 2) &&
  decide (1 ≤ leAt o 8 4) && decide (leAt o 8 4 ≤ 240000) && decide (1 ≤ leAt o 12 4) && decide (leAt o 12 4 ≤ 1001) &&
  decide (leAt o 16 1 ≤ 1) && (leAt o 17 1 = 1 || leAt o 17 1 = 2) && decide (leAt o 18 1 ≤ leAt o 19 1) &&
  decide (leAt o 19 1 ≤ qm) && decide (100000 ≤ leAt o 20 4) && decide (leAt o 20 4 ≤ 4000000000) &&
  decide (veB0 o ≤ leAt o 24 4) &&
  (if leAt o 16 1 = 0 then leAt o 28 4 = 0 else decide (1 ≤ leAt o 28 4) && decide (leAt o 28 4 ≤ 900000)) &&
  decide (dpbNeed o (leAt o 17 1 + 1) ≤ leAt o 40 8) && zeroOn o 48 64 && decide (minPic o ≤ veB0 o) && decide (minPic o ≤ veRefill o)

/-- An AU open block in range. -/
def auOk (o : List Byte) : Bool :=
  let r := leAt o 4 4
  decide (leAt o 0 1 ≤ 4) && (leAt o 1 1 = 1 || leAt o 1 1 = 2) && zeroOn o 2 4 &&
  (if leAt o 0 1 = 0 then r = 48000 else decide (8000 ≤ r) && decide (r ≤ 96000)) && decide (leAt o 8 1 ≤ 2) && zeroOn o 9 64

/-- The stream buffer an open block names: base and bytes; audio names none. -/
def openBuf (cls : Nat) (o : List Byte) : Nat × Nat :=
  if cls = 0 then (leAt o 8 8, leAt o 16 8) else if cls = 1 then (leAt o 32 8, leAt o 40 8) else (0, 0)

/-! ## The voxel block (Table 12-7) -/

def f64Finite (o : List Byte) (a : Nat) : Bool := fld (leAt o a 8) 62 52 ≠ 2047
def vxG (o : List Byte) (i : Nat) : Nat := leAt o (36 + 2 * i) 2
def vxPmax (o : List Byte) : Nat := leAt o 42 1
def vxVmax (o : List Byte) : Nat := leAt o 44 4
def vxBytes (o : List Byte) : Nat := 16 * vxVmax o + 32 * vxVmax o * vxPmax o

def vxOk (o : List Byte) (dsize : Nat) : Bool :=
  [0, 8, 16].all (f64Finite o) && [24, 28, 32].all (fun a => f32PosNormal (leAt o a 4)) &&
  decide (1 ≤ vxG o 0) && decide (vxG o 0 ≤ 1024) && decide (1 ≤ vxG o 1) && decide (vxG o 1 ≤ 1024) && decide (1 ≤ vxG o 2) &&
  decide (vxG o 2 ≤ 256) && decide (1 ≤ vxPmax o) && decide (vxPmax o ≤ 64) && zeroOn o 43 44 && decide (1 ≤ vxVmax o) &&
  decide (vxVmax o ≤ 65536) && (List.range 12).all (fun i => f32Finite (leAt o (48 + 4 * i) 4)) && decide (vxBytes o ≤ dsize)

/-! ## Checks (R345) -/

/-- 10h: MOP, GEN, reserved fields, engine class, STREAM. -/
def medBad10 (e : Nat) (b : List Byte) : Bool :=
  let mop := mcMop b
  !mopFits mop (engClass e) || mcEng b ≠ e || leAt b 1 1 ≠ 1 || mcPri b > 4 || nonzero b 44 4 ||
  !streamFits (engClass e) (mcStream b) || (mop ≠ 2 && mcSrclen b = 0) || (mop ≠ 6 && mcPbase b ≠ 0)

/-- The regions a command names: input, output, map, result. -/
def medRegions (b : List Byte) : List (Nat × Nat) :=
  [(mcSrc b, if mcMop b = 2 then 0 else mcSrclen b), (mcDbase b, mcDsize b), (mcEbase b, if mcEbase b = 0 then 0 else mcEsize b),
   (mcRbase b, 64)]

/-- 11h: regions outside the partition's stacks, alignments, overlaps. -/
def Mach.medBad11 (m : Mach) (p e : Nat) (b : List Byte) : Bool :=
  let rs := medRegions b
  let pair (i j : Nat) : Bool := overlap (rs.getD i (0, 0)) (rs.getD j (0, 0))
  let ob := if mcMop b = 1 then openBuf (engClass e) (m.rd (mcSrc b) (min 64 (mcSrclen b))) else (0, 0)
  !rs.all (fun r => m.holds p r.1 r.2) || (mcMop b = 6 && !m.holds p (mcPbase b) 96) ||
  [mcDbase b, mcEbase b, mcRbase b, mcPbase b].any (fun a => a % 64 ≠ 0) ||
  [(0, 1), (0, 2), (0, 3), (1, 2), (1, 3), (2, 3)].any (fun x => pair x.1 x.2) || !m.holds p ob.1 ob.2

/-- 12h: an OPEN of an open stream, or another MOP on a stream that is not open or is another partition's. -/
def Mach.medBad12 (m : Mach) (p e : Nat) (b : List Byte) : Bool :=
  if engClass e = 2 || engClass e = 4 then false
  else match m.streams.get? (streamKey e (mcStream b)) with
    | none => mcMop b ≠ 1
    | some s => mcMop b = 1 || s.part ≠ p

/-- 13h: parameters. -/
def Mach.medBad13 (m : Mach) (e : Nat) (b : List Byte) : Bool :=
  let o := (m.rd (mcSrc b) (min 64 (mcSrclen b)))
  if mcMop b = 1 then
    mcSrclen b < 64 || !(if engClass e = 0 then vdOk o else if engClass e = 1 then veOk o else auOk o)
  else mcMop b = 6 && !vxOk (m.rd (mcPbase b) 96) (mcDsize b)

/-- The refusal of a command, if any; 14h at an engine that has FAILED (R359). -/
def Mach.medRefusal (m : Mach) (p e : Nat) (b : List Byte) : Option Nat :=
  if (m.med e).failed then some 0x14
  else if medBad10 e b then some 0x10
  else if m.medBad11 p e b then some 0x11
  else if m.medBad12 p e b then some 0x12
  else if m.medBad13 e b then some 0x13
  else none

/-! ## Results -/

/-- What a picture, packet list or file came to. -/
structure MedOut where
  status : Nat
  out1 : Nat
  out2 : Nat
  order : Nat
  conc : Nat
  supp : Nat
  bytesIn : Nat
  bytesOut : Nat
  depth : Nat
  deriving DecidableEq, Repr

def MedOut.plain (status : Nat) : MedOut :=
  { status := status, out1 := 0, out2 := 0, order := 0, conc := 0, supp := 0, bytesIn := 0, bytesOut := 0, depth := 0 }

/-- The result record (Table 12-9), its TIME still 0. -/
def MedOut.record (o : MedOut) (b : List Byte) : List Byte :=
  leBytes 1 o.status ++ b.take 1 ++ (b.drop 4).take 2 ++ leBytes 4 o.out1 ++ leBytes 4 o.out2 ++ leBytes 4 o.order ++ leBytes 4 o.conc ++
  leBytes 4 o.supp ++ leBytes 8 o.bytesIn ++ leBytes 8 o.bytesOut ++ zeros 8 ++ leBytes 1 o.depth ++ zeros 15

/-- The command is finished; its record waits to be written. -/
def Mach.medDone (m : Mach) (e : Nat) (o : MedOut) : Mach :=
  let x := m.med e
  match x.run with
  | none => m
  | some r => m.setMed e { x with run := some { r with result := some (o.record r.cmd.bytes) } }

/-- Writes into a region: bytes outside are suppressed (R357). The spec does not give the size of the writes it counts, so a count that
is not 0 is a free number, the same for the same bytes and region (R343). -/
def Mach.medWrite (m : Mach) (base size : Nat) (bs : List Byte) : Nat × Mach :=
  (if bs.length ≤ size then 0 else 1 + medCodec 49 [] bs 0 size % (2 ^ 32 - 1), m.put base (bs.take size))

/-- Write an output and a map, and settle status and SUPP: output that did not fit makes the status at least TRUNCATED. -/
def Mach.medFinish (m : Mach) (e : Nat) (b : List Byte) (out map : List Byte) (o : MedOut) : Mach :=
  let (s1, m1) := m.medWrite (mcDbase b) (mcDsize b) out
  let (s2, m2) := if mcEbase b = 0 then (0, m1) else m1.medWrite (mcEbase b) (mcEsize b) map
  m2.medDone e { o with status := if s1 = 0 then o.status else max 4 o.status, supp := s1 + s2, bytesOut := min out.length (mcDsize b) }

/-- Close a stream. -/
def Mach.medClose (m : Mach) (k : Nat) : Mach := { m with streams := m.streams.del k }

/-- HW_FAULT: a mid-grey surface where there is one, the stream closed, the recovery path entered; an engine fault also fails the
engine (R359). -/
def Mach.medHw (m : Mach) (p e : Nat) (b : List Byte) (engine : Bool) : Mach :=
  let k := streamKey e (mcStream b)
  let pic : Option (List Byte) := if engClass e = 0 && mcMop b = 3 then (m.streams.get? k).map MedStr.block else none
  let m := { m with hwWait := m.hwWait ++ [(0x14, p, 0xFFFF)] }
  let m := if engClass e = 2 || engClass e = 4 then m else m.medClose k
  let m := if engine then ((m.setMed e { m.med e with failed := true }).setField (0x5100 + e) 1 2 0 4).health else m
  match pic with
  | some o => m.medFinish e b ((greySurface (vdW o) (vdH o) (vdDepth o)).take (mcDsize b)) []
      { MedOut.plain 0x14 with out1 := vdW o, out2 := vdH o, depth := vdDepth o }
  | none => m.medFinish e b [] [] (.plain 0x14)

/-- The state of an open stream changes. -/
def Mach.modStr (m : Mach) (k : Nat) (f : MedStr → MedStr) : Mach :=
  match m.streams.get? k with
  | some s => { m with streams := m.streams.put k (f s) }
  | none => m

/-- How far an engine had come when the watchdog expired, in blocks, MCUs or packets: time decides it, and the number is free (R356). -/
def Mach.medCut (m : Mach) (wd : Bool) : Option Nat × Mach :=
  if wd then (some (Config.freeNat m.free 0), { m with free := m.free + 1 }) else (none, m)

/-! ## Video decode (R348 to R350, R357, R358) -/

/-- One picture; `wd` when the watchdog has ended it (R356). An unsupported one leaves a grey surface at the stream's maximum size, cropped to the
buffer; one that is not output leaves none, and still is a reference. -/
def Mach.vdPicture (m : Mach) (e : Nat) (b : List Byte) (s : MedStr) (wd : Bool) : Mach :=
  let k := streamKey e (mcStream b)
  let o := s.block
  let input := m.rd (mcSrc b) (mcSrclen b)
  let (cut, m) := m.medCut wd
  let x := vidDecode o s.hist s.pics s.rasl input cut
  let m := (m.scribble (openBuf 0 o).1 (openBuf 0 o).2).modStr k (fun s => { s with
    hist := s.hist ++ [pastOf wd input], pics := x.keep s.pics, rasl := x.rasl })
  let c := concealed x.pic.map
  let out : MedOut := { MedOut.plain 0 with
    out1 := x.pic.w, out2 := x.pic.h, order := x.order, conc := c, bytesIn := x.used, depth := x.pic.depth }
  if !x.ok then
    (m.addObj32 (0x5100 + e) 6 1).medFinish e b ((greySurface (vdW o) (vdH o) (vdDepth o)).take (mcDsize b)) x.pic.map
      { out with status := if wd then 3 else 2 }
  else
    m.medFinish e b (if x.shown then x.pic.surface else []) x.pic.map
      { out with status := max (if wd then 3 else 0) (if x.shown then b2n (c ≠ 0) else 5) }

/-! ## Video encode (R351, R352) -/

/-- The budget routine: the quantiser and size the picture ends with; `fuel` bounds the steps. -/
def encodeAt (size : Nat → Nat) (budget qmax stp : Nat) : Nat → Nat → Nat × Nat
  | 0, q => (q, size q)
  | fuel + 1, q => if size q > budget && q < qmax then encodeAt size budget qmax stp fuel (min (q + stp) qmax) else (q, size q)

/-- B after a picture of `size` bits. -/
def veNext (o : List Byte) (budget size : Nat) : Nat := min (leAt o 24 4) (budget - size + veRefill o)

/-- One picture: an IDR or key picture every IDRINT, predicted otherwise; coded anew at a higher quantiser while it exceeds the budget, and in the end
by encode_min, whose size is at most MINPIC (log entry 100, DEDUCED). -/
def Mach.vePicture (m : Mach) (e : Nat) (b : List Byte) (s : MedStr) : Mach :=
  let k := streamKey e (mcStream b)
  let o := s.block
  let src := surfaceSamples (vdW o) (vdH o) (vdDepth o) (m.rd (mcSrc b) (mcSrclen b))
  let hist := if veKey o s.count then [] else s.hist
  let size (x : Nat) : Nat := 8 * (encodeUnit o hist s.count (some src) x).length
  let got := encodeAt size s.budget (leAt o 19 1) (if vdCodec o = 0 then 4 else 16) 256 (leAt o 18 1)
  let out :=
    if got.2 > s.budget then (encodeUnit o hist s.count none got.1).take (minPic o / 8) else encodeUnit o hist s.count (some src) got.1
  let m := (m.scribble (openBuf 1 o).1 (openBuf 1 o).2).modStr k (fun s => { s with
    hist := hist ++ [src], budget := veNext o s.budget (8 * out.length), count := s.count + 1 })
  m.medFinish e b out []
    { MedOut.plain 0 with
      out1 := vdW o, out2 := vdH o, order := s.count % 2 ^ 32, bytesIn := min (mcSrclen b) (surfaceBytes (vdW o) (vdH o) (vdDepth o)),
      depth := vdDepth o }

/-! ## Stills (R353) -/

/-- A JPEG file: planes at their own sampling in frame-header order, or interleaved RGB. -/
def Mach.jpegFile (m : Mach) (e : Nat) (b : List Byte) (wd : Bool) : Mach :=
  let input := m.rd (mcSrc b) (mcSrclen b)
  let q (f i : Nat) : Nat := medCodec 5 [] input f i
  let x := jpegHead input
  let used := min (q 5 0) (mcSrclen b)
  if !x.supported then
    (m.addObj32 (0x5100 + e) 6 1).medFinish e b [] [] { MedOut.plain (if wd then 3 else 2) with bytesIn := used, depth := 8 }
  else
    let (cut, m) := m.medCut wd
    let pad (form : Nat) : Nat → Byte := fun i => BitVec.ofNat 8 (q (13 + form) i)
    let plane (c w h : Nat) : List Byte := (List.range h).flatMap (fun y =>
      padRow (fun i => pad (40 + c) (64 * y + i)) ((List.range w).map (fun u => BitVec.ofNat 8 (x.sample input cut c u y))))
    let cw := cdiv x.w x.lx
    let ch := cdiv x.h x.ly
    let planes := plane 0 x.w x.h ++ if x.comps = 1 then [] else plane 1 cw ch ++ plane 2 cw ch
    let rgb := (List.range x.h).flatMap (fun y => padRow (fun i => pad 50 (64 * y + i)) ((List.range x.w).flatMap (fun u => x.rgb input cut u y)))
    let map := x.map input cut
    let c := concealed map
    m.medFinish e b (if mcStream b % 2 = 0 then planes else rgb) map
      { MedOut.plain (max (if wd then 3 else 0) (b2n (c ≠ 0))) with out1 := x.w, out2 := x.h, conc := c, bytesIn := used, depth := 8 }

/-! ## Audio (R354) -/

/-- A packet list: a plane of OUTF samples for each channel, padded to 64 bytes. -/
def Mach.auList (m : Mach) (e : Nat) (b : List Byte) (s : MedStr) (wd : Bool) : Mach :=
  let k := streamKey e (mcStream b)
  let o := s.block
  let input := m.rd (mcSrc b) (mcSrclen b)
  let pks := packetsOf (mcSrclen b) input
  let (cut, m) := m.medCut wd
  let gone (i : Nat) : Bool := match cut with
    | some n => decide (n ≤ i)
    | none => false
  let outs := (pks.zipIdx).map (fun (x : List Byte × Nat) => auPacket o ((o :: s.hist) ++ pks.take x.2) (gone x.2) x.1)
  let m := m.modStr k (fun s => { s with hist := s.hist ++ [pastOf wd input] })
  let used := min (pks.foldl (fun a x => a + 4 + alignUp x.length 4) 0) (mcSrclen b)
  if outs.any (fun x => !x.ok) then
    (m.addObj32 (0x5100 + e) 6 1).medFinish e b [] [] { MedOut.plain (if wd then 3 else 2) with order := pks.length, bytesIn := used }
  else
    let ch := leAt o 1 1
    let f := if leAt o 8 1 = 0 then 0 else if leAt o 8 1 = 1 then 1 else 2
    let w := widthOf f / 8
    let plane (c : Nat) : List Byte :=
      let xs := (outs.flatMap (fun x => x.planes.getD c [])).flatMap (fun v => leBytes w (convertE f rne v).1)
      padRow (fun i => BitVec.ofNat 8 (medCodec 48 (o :: s.hist) input 13 (64 * c + i))) xs
    let n := (outs.flatMap (fun x => x.planes.getD 0 [])).length
    let c := outs.countP (fun x => x.lost)
    m.medFinish e b ((List.range ch).flatMap plane) []
      { MedOut.plain (max (if wd then 3 else 0) (b2n (c ≠ 0))) with out1 := n, out2 := ch, order := pks.length, conc := c, bytesIn := used }

/-! ## Points (R355) -/

def add64 (a b : Val) : Val := round64 (addV a b)

/-- Quotient rounded to FP32: 80 further bits and a sticky bit decide the rounding. -/
def div32 (a b : Val) : Val :=
  match a, b with
  | .fin n x ea, .fin k y eb =>
    if y = 0 then (if x = 0 then .nan else .inf (n != k))
    else
      let q := x * 2 ^ 80 / y
      let sticky := if x * 2 ^ 80 % y = 0 then 0 else 1
      round32 (.fin (n != k) (2 * q + sticky) (ea - eb - 81))
  | .inf n, .fin k _ _ => .inf (n != k)
  | .fin n _ _, .inf k => .zero (n != k)
  | _, _ => .nan

/-- Floor of a finite value. -/
def cellOf (v : Val) : Option Int :=
  match v with
  | .fin n x e => some (floorV (.fin n x e))
  | _ => none

/-- A voxel being filled: its index and its points, newest last, each as eight feature values. -/
structure Voxel where
  ix : Nat
  iy : Nat
  iz : Nat
  pts : List (List Nat)
  deriving DecidableEq, Repr

/-- The LAS 1.4 public header fields the grid reads (ASPRS LAS 1.4; offsets by that standard, not by this spec). -/
def lasData (b : List Byte) : Nat := leAt b 96 4
def lasFmt (b : List Byte) : Nat := leAt b 104 1
def lasRec (b : List Byte) : Nat := leAt b 105 2
def lasCount (b : List Byte) : Nat := leAt b 247 8
def lasBase (fmt : Nat) : Nat := if fmt = 6 then 30 else if fmt = 7 then 36 else if fmt = 8 then 38 else if fmt = 9 then 59 else 67

/-- A file the engine reads: LAS 1.4, formats 6 to 10, a sound header. -/
def lasOk (b : List Byte) : Bool :=
  decide (375 ≤ b.length) && b.take 4 = [0x4C, 0x41, 0x53, 0x46] && leAt b 24 1 = 1 && leAt b 25 1 = 4 && decide (375 ≤ leAt b 94 2) &&
  decide (6 ≤ lasFmt b) && decide (lasFmt b ≤ 10) && decide (lasBase (lasFmt b) ≤ lasRec b) && decide (leAt b 94 2 ≤ lasData b)

/-- The place and features of a point record: voxel index where it lies inside the grid, and the eight values. -/
def lasPoint (b o r : List Byte) : Option (Nat × Nat × Nat) × List Nat :=
  let d (a : Nat) : Val := decodeF fFP64 (leAt b a 8)
  let c (a : Nat) : Val := decodeF fFP64 (leAt o a 8)
  let g (a : Nat) : Val := val32 (leAt o a 4)
  let axis (i : Nat) : Val :=
    let raw := toSigned 32 (leAt r (4 * i) 4)
    round32 (add64 (add64 (round64 (mulV (.ofInt raw) (d (131 + 8 * i)))) (d (155 + 8 * i))) (c (8 * i)).negate)
  let x := axis 0
  let y := axis 1
  let z := axis 2
  let rot (i : Nat) : Val :=
    round32 (addV (fma32 (g (56 + 12 * i)) z (fma32 (g (52 + 12 * i)) y (round32 (mulV (g (48 + 12 * i)) x)))) (g (84 + 4 * i)))
  let x2 := rot 0
  let y2 := rot 1
  let z2 := rot 2
  let cell (v : Val) (i : Nat) : Option Int := cellOf (div32 v (g (24 + 4 * i)))
  let centre (v : Val) (i : Nat) (n : Int) : Val :=
    round32 (addV v (round32 (mulV (round32 (.fin (n < 0) (2 * n + 1).natAbs (-1))) (g (24 + 4 * i)))).negate)
  match cell x2 0, cell y2 1, cell z2 2 with
  | some ix, some iy, some iz =>
    if 0 ≤ ix && ix < vxG o 0 && 0 ≤ iy && iy < vxG o 1 && 0 ≤ iz && iz < vxG o 2 then
      (some (ix.toNat, iy.toNat, iz.toNat),
       [rne32 (centre x2 0 ix), rne32 (centre y2 1 iy), rne32 (centre z2 2 iz), rne32 x2, rne32 y2, rne32 z2,
        rne32 (.fin false (leAt r 12 2) (-16)), rne32 (.ofInt (leAt r 16 1))])
    else (none, [])
  | _, _, _ => (none, [])

/-- Put one point into the grid: the voxels, and points dropped (R355). -/
def gridPoint (o : List Byte) (acc : List Voxel × Nat) (pt : Option (Nat × Nat × Nat) × List Nat) : List Voxel × Nat :=
  match pt.1 with
  | none => (acc.1, acc.2 + 1)
  | some c =>
    match acc.1.findIdx? (fun v => v.ix = c.1 && v.iy = c.2.1 && v.iz = c.2.2) with
    | some i =>
      if (acc.1.getD i ⟨0, 0, 0, []⟩).pts.length ≥ vxPmax o then (acc.1, acc.2 + 1)
      else (modAt acc.1 i (fun v => { v with pts := v.pts ++ [pt.2] }), acc.2)
    | none =>
      if acc.1.length ≥ vxVmax o then (acc.1, acc.2 + 1) else (acc.1 ++ [⟨c.1, c.2.1, c.2.2, [pt.2]⟩], acc.2)

/-- The grid of a file and the points dropped. -/
def gridOf (o b : List Byte) : List Voxel × Nat :=
  let n := min (lasCount b) ((b.length - lasData b) / lasRec b)
  (chunks (lasRec b) n (b.drop (lasData b))).foldl (fun acc r => gridPoint o acc (lasPoint b o r)) ([], 0)

/-- The output buffer of a grid. -/
def gridBytes (o : List Byte) (vs : List Voxel) : List Byte :=
  padTo (16 * vxVmax o) (vs.flatMap (fun v => leBytes 4 v.ix ++ leBytes 4 v.iy ++ leBytes 4 v.iz ++ leBytes 4 v.pts.length)) ++
  padTo (32 * vxVmax o * vxPmax o) (vs.flatMap (fun v =>
    padTo (32 * vxPmax o) (v.pts.flatMap (fun fs => fs.flatMap (leBytes 4)))))

def Mach.voxelFile (m : Mach) (e : Nat) (b : List Byte) : Mach :=
  let o := m.rd (mcPbase b) 96
  let f := m.rd (mcSrc b) (mcSrclen b)
  if !lasOk f then (m.addObj32 (0x5100 + e) 6 1).medFinish e b [] [] { MedOut.plain 2 with bytesIn := min 375 (mcSrclen b) }
  else
    let g := gridOf o f
    let n := min (lasCount f) ((f.length - lasData f) / lasRec f)
    m.medFinish e b (gridBytes o g.1) []
      { MedOut.plain 0 with
        out1 := g.1.length, out2 := g.1.foldl (fun a v => a + v.pts.length) 0, order := g.2, bytesIn := min (lasData f + n * lasRec f) (mcSrclen b) }

/-! ## Running a command -/

/-- The command an engine has in hand and not finished. -/
def Mach.medRun (m : Mach) (e : Nat) : Option MedRun := ((m.med e).run).filter (fun r => r.result.isNone)

/-- The requests of a command: its input and its voxel block. -/
def medReads (b : List Byte) : List (Nat × Nat) :=
  [(mcSrc b, if mcMop b = 2 then 0 else mcSrclen b), (mcPbase b, if mcMop b = 6 then 96 else 0)]

/-- The first bad half in what a command reads: its input, its voxel block, or (as the engine's layout has it) its references. -/
def Mach.medBadRead (m : Mach) (e : Nat) (b : List Byte) : Option Nat :=
  (m.badRead (medReads b)).or
  (match m.streams.get? (streamKey e (mcStream b)) with
   | none => none
   | some s =>
     if (mcMop b = 3 || mcMop b = 4) && !s.hist.isEmpty && medCodec (vdCodec s.block) (s.block :: s.hist) [] 10 0 % 2 = 1 then
       m.badRead [openBuf (engClass e) s.block] else none)

/-- The I/O die of an engine or input half, by its die-fabric island (Table 12-1, R363): with it off its engines stop, and those of the other die go on
(R341). No command of the table loses an I/O die (log entry 247, DEDUCED). -/
def Mach.ioUp (m : Mach) (half : Nat) : Bool := (m.island (177 + 2 * half)).on

/-- The die of an engine's markers: its I/O die's aggregator. -/
def engAgg (e : Nat) : Nat := if e = 9 || e = 2 || e = 3 || e = 5 || e = 7 then 9 else 8

/-- The stream whose context a command needs; JPEG files and point clouds have none. -/
def medCtx (e : Nat) (b : List Byte) : Option Nat := if engClass e = 2 || engClass e = 4 then none else some (streamKey e (mcStream b))

/-- The engine works on its command: STATE is batch or live, and it holds the command's context (Table 12-12). -/
def Mach.medWork (m : Mach) (e : Nat) (b : List Byte) : Mach :=
  let x := m.med e
  let m := m.setMed e { x with ctx := (medCtx e b).or x.ctx }
  if x.failed then m else m.setField (0x5100 + e) 1 2 0 (if mcPri b = 0 then 1 else 2)

/-- Run the command in hand when its MOP is one of the row's: refusals first, then an engine's fault or a bad read, then the effect. -/
def doMedia (m : Mach) (e : Nat) (sel : Nat → Bool) (fault : Bool) (f : Mach → Nat → List Byte → Mach) : Mach :=
  match m.medRun e with
  | none => m
  | some r =>
    let b := r.cmd.bytes
    if !sel (mcMop b) || !m.ioUp (engAgg e - 8) then m
    else
      let m := m.medWork e b
      match m.medRefusal r.cmd.part e b with
      | some c => m.medDone e (.plain c)
      | none =>
        let m := m.touch (medReads b)
        let lost := m.medBadRead e b
        if fault || lost.isSome then (m.lostAny 2 lost).medHw r.cmd.part e b fault else f m r.cmd.part b

/-- OPEN (Table 12-4, R351). -/
def doOpen (e : Nat) (m : Mach) (p : Nat) (b : List Byte) : Mach :=
  let o := m.rd (mcSrc b) 64
  let st : MedStr := { part := p, block := o, hist := [], budget := if engClass e = 1 then veB0 o else 0, pics := [], rasl := false, count := 0 }
  let m : Mach := { m with streams := m.streams.put (streamKey e (mcStream b)) st }
  m.medDone e { MedOut.plain 0 with bytesIn := 64 }

/-- CLOSE. -/
def doClose (e : Nat) (m : Mach) (_ : Nat) (b : List Byte) : Mach := (m.medClose (streamKey e (mcStream b))).medDone e (.plain 0)

/-- DECODE of a video or audio stream. -/
def doDecode (e : Nat) (wd : Bool) (m : Mach) (_ : Nat) (b : List Byte) : Mach :=
  match m.streams.get? (streamKey e (mcStream b)) with
  | none => m
  | some s => if engClass e = 0 then m.vdPicture e b s wd else m.auList e b s wd

/-- ENCODE. -/
def doEncode (e : Nat) (m : Mach) (_ : Nat) (b : List Byte) : Mach :=
  match m.streams.get? (streamKey e (mcStream b)) with
  | none => m
  | some s => m.vePicture e b s

/-- The watchdog limit of a command, in rc (R356); encode, point and stream commands have none. -/
def Mach.medLimit (m : Mach) (e : Nat) (b : List Byte) : Option Nat :=
  if mcMop b = 5 && engClass e = 2 then some 2500000
  else if mcMop b = 3 && engClass e = 3 then some 250000
  else if mcMop b = 3 && engClass e = 0 then
    (m.streams.get? (streamKey e (mcStream b))).map (fun s => 25000 * leAt s.block 24 2)
  else none

/-- MEDIA_WATCHDOG: a picture past its limit is finished at once (R356). -/
def doWatchdog (m : Mach) (e : Nat) : Mach :=
  match m.medRun e with
  | none => m
  | some r =>
    let b := r.cmd.bytes
    match m.medLimit e b with
    | none => m
    | some n =>
      if (m.medRefusal r.cmd.part e b).isSome || m.rc < r.t0 + n || !m.ioUp (engAgg e - 8) then m
      else if (m.medBadRead e b).isSome then ((m.touch (medReads b)).lostAny 2 (m.medBadRead e b)).medHw r.cmd.part e b false
      else
        let m := ((m.touch (medReads b)).medWork e b).addObj32 (0x5100 + e) 4 1
        if mcMop b = 5 then m.jpegFile e b true else doDecode e true m r.cmd.part b

/-! ## Queues (R344, R346, R359) -/

/-- One command of a media or input job has its result (R400). -/
def Mach.jobCommandDone (m : Mach) (client seq status : Nat) : Mach :=
  match m.jobs.find? (fun j => j.client = client && j.seq = seq) with
  | none => m
  | some j =>
    let j' := { j with left := j.left - 1, hard := j.hard || status = 0x14 }
    let m := m.modJob j (fun _ => j')
    if j'.left ≠ 0 then m
    else match j'.st with
      | .stopping st d => m.endJob j' st d
      | .running => if j'.hard then m.endJob j' 1 0x11 else m.endJob j' 0 0
      | _ => m

/-- Write a command's result record, signal its marker, and count it to its job (R359). -/
def Mach.medReport (m : Mach) (e : Nat) (c : MedCmd) (record : List Byte) : Mach :=
  let b := c.bytes
  let status := leAt record 0 1
  let m := if m.holds c.part (mcRbase b) 64 then m.put (mcRbase b) (putAt record 40 (leBytes 8 m.rc)) else m
  let m := if mcMk b = 0xFFFF || mcMk b ≥ 512 * (m.clusters c.part).length then m
    else m.signal (engAgg e) (m.absMk c.part (mcMk b)) 1
  ((m.addObj (0x5100 + e) 2 1).addObj (0x5100 + e) 3 (b2n (status = 1 || status = 3))).jobCommandDone c.client c.seq status

/-- Withdraw the queued commands of an engine that meet a condition: each ends with status 06h (R360). -/
def Mach.medWithdraw (m : Mach) (sel : MedCmd → Bool) : Mach :=
  (List.range 10).foldl (fun (a : Mach) e =>
    let x := a.med e
    let out := x.queue.filter sel
    let a := a.setMed e { x with queue := x.queue.filter (fun c => !sel c) }
    out.foldl (fun (z : Mach) c => z.medReport e c ((MedOut.plain 6).record c.bytes)) a) m

/-- Close every stream of a partition (R360). -/
def Mach.medCloseAll (m : Mach) (p : Nat) : Mach := { m with streams := m.streams.filter (fun x => x.2.part ≠ p) }

/-- Rc for which an engine worked on batch commands in the last 100 ms. -/
def MedEng.batchRc (x : MedEng) (rc : Nat) : Nat :=
  let from' := rc - 2500000
  x.spans.foldl (fun a s => if s.2.2 then a + (s.2.1 - max s.1 from') else a) 0

/-- A command can run: its partition is not switching, and no earlier command of its stream waits (R346, R404). -/
def Mach.medFree (m : Mach) (e : Nat) (q : List MedCmd) (i : Nat) : Bool :=
  match q[i]? with
  | none => false
  | some c =>
    !m.switching c.part &&
    (engClass e = 2 || engClass e = 4 || !(q.take i).any (fun d => mcStream d.bytes = mcStream c.bytes))

/-- The command the scheduler picks at a picture boundary (R346). -/
def Mach.medPick (m : Mach) (e : Nat) : Option Nat :=
  let x := m.med e
  let ok := (List.range x.queue.length).filter (m.medFree e x.queue)
  let pri (i : Nat) : Nat := match x.queue[i]? with | some c => mcPri c.bytes | none => 0
  let low := ok.filter (fun i => pri i = 0)
  if !low.isEmpty && decide (x.batchRc m.rc * 100 < m.obj 0x5000 3 * 2500000) then low.head?
  else
    let top := ok.foldl (fun a i => max a (pri i)) 0
    ok.find? (fun i => pri i = top)

/-- MEDIA_SCHEDULE: an engine at a picture boundary takes its next command; its domain wakes (R346, R360), and it loads the context of the command's
stream where it holds another's (STATE 011b). -/
def doMedSchedule (m : Mach) (e : Nat) : Mach :=
  let x := m.med e
  if e ≥ 10 || x.run.isSome || !m.ioUp (engAgg e - 8) then m
  else match m.medPick e with
    | none => m
    | some i =>
      match x.queue[i]? with
      | none => m
      | some c =>
        let m := m.setMed e { x with queue := x.queue.eraseIdx i, run := some { cmd := c, t0 := m.rc, result := none } }
        let m := m.setIsland (164 + e) { (m.island (164 + e)).ungate m.rc with gst := 0 }
        let k := medCtx e c.bytes
        let load : Bool := k.isSome && k ≠ x.ctx && (k.bind m.streams.get?).isSome
        if load && !x.failed then m.setField (0x5100 + e) 1 2 0 3 else m.medWork e c.bytes

/-- Luma samples, output samples or input points of a finished command (Table 12-1). -/
def workDone (e : Nat) (record : List Byte) : Nat :=
  if leAt record 0 1 ≥ 6 then 0
  else if e = 9 then leAt record 8 4 + leAt record 12 4
  else leAt record 4 4 * leAt record 8 4

/-- MEDIA_COMPLETE: the result record of a finished command becomes visible, and the engine is at a picture boundary (R359). -/
def doMedComplete (m : Mach) (e : Nat) : Mach :=
  let x := m.med e
  match x.run with
  | none => m
  | some r =>
    match r.result with
    | none => m
    | some rec =>
      let keep := x.spans.filter (fun s => m.rc ≤ s.2.1 + 2500000)
      let m := m.setMed e { x with run := none, spans := keep ++ [(r.t0, m.rc, decide (mcPri r.cmd.bytes = 0))] }
      let m := if x.failed then m else m.setField (0x5100 + e) 1 2 0 0
      let m := ((m.addObj (0x5100 + e) 5 (leAt rec 20 4)).addObj (0x5100 + e) 7 ((m.rc - r.t0) / 25)).addObj (0x5100 + e) 8 (workDone e rec)
      m.medReport e r.cmd rec

/-- Feed the commands of a media job to the engine queues in list order while the queues have room (R344). -/
def Mach.feedJob (m : Mach) (client seq addr n : Nat) : Nat → Mach
  | 0 => m
  | fuel + 1 =>
    match m.jobs.find? (fun j => j.client = client && j.seq = seq) with
    | none => m
    | some j =>
      if j.fed ≥ n then m
      else
        let b := m.rd (addr + 64 * j.fed) 64
        let e := if mcEng b < 10 then mcEng b else 9
        let x := m.med e
        if x.queue.length ≥ 256 then m
        else
          let m := m.setMed e { x with queue := x.queue ++ [{ part := j.part, client := client, seq := seq, bytes := b }] }
          Mach.feedJob (m.modJob j (fun z => { z with fed := z.fed + 1 })) client seq addr n fuel

/-- The status word of an engine as it reads: OPEN and QUEUED count what it holds (Table 12-12). -/
def Mach.engStatus (m : Mach) (e : Nat) : Nat :=
  let opens := m.streams.countP (fun s => s.1 / 4096 = e)
  setFld (setFld (m.obj (0x5100 + e) 1) 28 16 opens) 15 7 (m.med e).queue.length

/-! ## The meanings -/

/-- MEDIA_OPEN (R345, Table 12-4), and commands with a MOP no row names, which it refuses. -/
def execMediaOpen (engine : Nat) (s : State) : Result :=
  s.step (fun m => doMedia m engine (fun x => x = 1 || x = 0 || x > 6) false (doOpen engine))

/-- MEDIA_CLOSE (R345, Table 12-4). -/
def execMediaClose (engine : Nat) (s : State) : Result := s.step (fun m => doMedia m engine (· = 2) false (doClose engine))

/-- DECODE (R348, R354). -/
def execDecode (engine : Nat) (fault : Bool) (s : State) : Result :=
  s.step (fun m => doMedia m engine (· = 3) fault (doDecode engine false))

/-- ENCODE (R351). -/
def execEncode (engine : Nat) (fault : Bool) (s : State) : Result := s.step (fun m => doMedia m engine (· = 4) fault (doEncode engine))

/-- JPEG (R353). -/
def execJpeg (engine : Nat) (fault : Bool) (s : State) : Result :=
  s.step (fun m => doMedia m engine (· = 5) fault (fun a _ b => a.jpegFile engine b false))

/-- VOXEL (R355). -/
def execVoxel (engine : Nat) (fault : Bool) (s : State) : Result :=
  s.step (fun m => doMedia m engine (· = 6) fault (fun a _ b => a.voxelFile engine b))

/-- MEDIA_SCHEDULE (R346). -/
def execMediaSchedule (engine : Nat) (s : State) : Result := s.step (fun m => doMedSchedule m engine)

/-- MEDIA_WATCHDOG (R356). -/
def execMediaWatchdog (engine : Nat) (s : State) : Result := s.step (fun m => doWatchdog m engine)

/-- MEDIA_COMPLETE (R359). -/
def execMediaComplete (engine : Nat) (s : State) : Result := s.step (fun m => doMedComplete m engine)

end Sys2Proof.Machine
end

