-- ==== Sys2Proof/Machine/Census.lean ====
section
/-! DEFINITION. The census readout: records, dumps and clears (R70, R71). -/

namespace Sys2Proof.Machine

/-- The 128-byte record of slot `t` (Table 2-14): each count in bits [47:0] with its SAT bit in bit 63 (R68). -/
def Mach.censusRecord (m : Mach) (p t : Nat) : List Byte :=
  (List.range 16).flatMap (fun i =>
    let v := m.census.get 0 (censusKey p t i)
    leBytes 8 (v + if v = censusMax then 2 ^ 63 else 0))

/-- Clear a slot. -/
def Mach.censusClear (m : Mach) (p t : Nat) : Mach :=
  { m with census := m.census.filter (fun e => e.1 / 16 ≠ p * 256 + t) }

/-- Clear the whole table of a partition (R73). -/
def Mach.censusWipe (m : Mach) (p : Nat) : Mach := { m with census := m.census.filter (fun e => e.1 / 4096 ≠ p) }

/-- The slots with a saturated counter (6100h + p.05). -/
def Mach.censusSat (m : Mach) (p : Nat) : Nat :=
  (List.range 256).foldl (fun a t => if (List.range 16).any (fun i => m.census.get 0 (censusKey p t i) = censusMax) then a + 2 ^ t else a) 0

/-- The slots a command names. -/
def censusSlots (v : Nat) : List Nat := (List.range (fld v 15 8 + 1)).map (fld v 7 0 + ·)

/-- A census command (Table 2-12): the slots are latched at once, their records written, and DONE follows (R71). -/
def Mach.censusCommand (m : Mach) (p v : Nat) : Mach :=
  let op := fld v 17 16
  let a := m.obj (0x6100 + p) 2
  if v / 2 ^ 18 ≠ 0 then m.reply abortRange
  else if m.pstate p = 0 || m.objBit (0x6100 + p) 4 0 then m.reply abortState
  else if op = 0 then m.reply 0
  else if fld v 7 0 + fld v 15 8 > 255 || (op ≠ 2 && (a % 128 ≠ 0 || !m.holds p a (128 * (fld v 15 8 + 1)))) then
    (m.setField (0x6100 + p) 4 2 0 4).reply 0
  else
    let m := m.setField (0x6100 + p) 4 2 0 1
    let m := if op = 2 then m else m.put a ((censusSlots v).flatMap (m.censusRecord p))
    (if op = 1 then m else (censusSlots v).foldl (fun (x : Mach) t => x.censusClear p t) m).reply 0

/-- CENSUS_COMMAND_DONE: the records are in memory. -/
def doCensusDone (m : Mach) (p : Nat) : Mach :=
  if m.objBit (0x6100 + p) 4 0 then m.setField (0x6100 + p) 4 2 0 2 else m

/-- A read of 6100h + p.08: the selected slot's record, which CLEAR_ON_READ clears. -/
def Mach.readSelected (m : Mach) (p : Nat) : Mach :=
  let t := m.obj (0x6100 + p) 7
  let r := m.censusRecord p t
  let m := if m.objBit (0x6100 + p) 1 1 then m.censusClear p t else m
  { m with answer := { abort := 0, data := r } }

/-! ## The meanings -/

/-- CENSUS_DUMP (R71). -/
def execCensusDump (part v : Nat) (s : State) : Result :=
  s.step (fun m => if part < 64 && m.online && fld v 17 16 = 1 then m.censusCommand part v else m)

/-- CENSUS_CLEAR (R71). -/
def execCensusClear (part v : Nat) (s : State) : Result :=
  s.step (fun m => if part < 64 && m.online && fld v 17 16 = 2 then m.censusCommand part v else m)

/-- CENSUS_DUMP_CLEAR (R71). -/
def execCensusDumpClear (part v : Nat) (s : State) : Result :=
  s.step (fun m => if part < 64 && m.online && fld v 17 16 = 3 then m.censusCommand part v else m)

/-- CENSUS_COMMAND_DONE (R71). -/
def execCensusCommandDone (part : Nat) (s : State) : Result := s.step (fun m => doCensusDone m part)

/-- SELECTED_SLOT_RECORD_READ (R71). -/
def execSelectedSlotRecordRead (part : Nat) (s : State) : Result := s.step (fun m => if part < 64 && m.online then m.readSelected part else m)

end Sys2Proof.Machine
end

