-- ==== Sys2Proof/Machine/Input.lean ====
section
/-! DEFINITION. The input engine (chapter 13): skein records, the batch specification, the augmentation, and the ring of batches. -/

namespace Sys2Proof.Machine

/-! ## The input command (Table 13-1) -/

def icIop (b : List Byte) : Nat := leAt b 0 1
def icHalf (b : List Byte) : Nat := leAt b 2 1
def icNs (b : List Byte) : Nat := leAt b 4 4
def icList (b : List Byte) : Nat := leAt b 8 8
def icAug (b : List Byte) : Nat := leAt b 16 8
def icRbase (b : List Byte) : Nat := leAt b 24 8
def icEbase (b : List Byte) : Nat := leAt b 32 8
def icEsize (b : List Byte) : Nat := leAt b 40 4

/-! ## The batch specification (Tables 13-5 to 13-7) -/

def bsBs (s : List Byte) : Nat := leAt s 0 2
def bsRing (s : List Byte) : Nat := leAt s 2 2
def bsNout (s : List Byte) : Nat := leAt s 4 1
def bsDrop (s : List Byte) : Bool := bit (leAt s 6 1) 0
def bsNvs (s : List Byte) : Nat := leAt s 7 1
def bsBase (s : List Byte) : Nat := leAt s 8 8
def bsSlotb (s : List Byte) : Nat := leAt s 16 8
def bsStat (s : List Byte) : Nat := leAt s 24 8
def bsMk (s : List Byte) : Nat := leAt s 32 2
def bsLen (s : List Byte) : Nat := 64 + 64 * bsNout s + 32 * bsNvs s
/-- Output entry `i`. -/
def bsOut (s : List Byte) (i : Nat) : List Byte := (s.drop (64 + 64 * i)).take 64
/-- Video resource `i`. -/
def bsVid (s : List Byte) (i : Nat) : List Byte := (s.drop (64 + 64 * bsNout s + 32 * i)).take 32
def bsOuts (s : List Byte) : List (List Byte) := (List.range (bsNout s)).map (bsOut s)
def bsVids (s : List Byte) : List (List Byte) := (List.range (bsNvs s)).map (bsVid s)

def ouKind (o : List Byte) : Nat := leAt o 0 1
def ouFidx (o : List Byte) : Nat := leAt o 1 1
def ouFmt (o : List Byte) : Nat := leAt o 2 1
def ouReq (o : List Byte) : Bool := bit (leAt o 3 1) 0
def ouOff (o : List Byte) : Nat := leAt o 4 4
def ouMoff (o : List Byte) : Nat := leAt o 8 4
def ouD0 (o : List Byte) : Nat := leAt o 12 4
def ouD1 (o : List Byte) : Nat := leAt o 16 4
def ouPad (o : List Byte) : Nat := leAt o 20 4
def ouVoxp (o : List Byte) : Nat := leAt o 24 8
def ouLt (o : List Byte) : Nat := leAt o 32 4

/-- Bytes of an output tensor per sample (R370). -/
def ouSample (o vox : List Byte) : Nat :=
  let k := ouKind o
  if k = 1 || k = 2 then ouD1 o * ouD0 o * 3 * widthOf (ouFmt o) / 8
  else if k = 3 then ouD1 o * ouD0 o * widthOf (ouFmt o) / 8
  else if k = 4 then vxBytes vox
  else if k = 5 then 4 * ouD0 o
  else 64 * cdiv (4 + ouD0 o) 64

/-- Mask bits of an output per sample. -/
def ouBits (o : List Byte) : Nat := if ouKind o = 3 || ouKind o = 5 then ouD0 o else 0

/-- Bytes of a bit mask, padded to 64. -/
def maskBytes (n : Nat) : Nat := alignUp (cdiv n 8) 64

/-- End of the SID array (R369). -/
def sidEnd (s : List Byte) : Nat := 64 + maskBytes (bsBs s) + alignUp (8 * bsBs s) 64

/-- The regions of a slot beyond the SID array: offset and bytes. -/
def slotRegions (s : List Byte) (vox : List (List Byte)) : List (Nat × Nat) :=
  ((bsOuts s).zipIdx).flatMap (fun (x : List Byte × Nat) =>
    let o := x.1
    [(ouOff o, bsBs s * ouSample o (vox.getD x.2 []))] ++
    (if ouBits o ≠ 0 then [(ouMoff o, maskBytes (bsBs s * ouBits o))] else []) ++
    (if ouKind o = 5 && ouLt o ≠ 0xFFFFFFFF then [(ouLt o, 64 + 8 * bsBs s)] else []))

/-- No region overlaps a later one. -/
def disjoint : List (Nat × Nat) → Bool
  | [] => true
  | x :: t => t.all (fun y => !overlap x y) && disjoint t

/-- An output entry in range. -/
def outOk (o : List Byte) : Bool :=
  let k := ouKind o
  decide (1 ≤ k) && decide (k ≤ 6) && decide (ouFidx o ≤ 31) && decide (leAt o 3 1 ≤ 1) && ouOff o % 64 = 0 && zeroOn o 36 64 &&
  (if k = 1 || k = 2 then
      plainFmt (ouFmt o) && decide (1 ≤ ouD0 o) && decide (ouD0 o ≤ 8192) && decide (1 ≤ ouD1 o) && decide (ouD1 o ≤ 8192)
    else if k = 3 then
      decide (ouFmt o ≤ 2) && decide (1 ≤ ouD0 o) && decide (ouD0 o ≤ 2 ^ 24) && (ouD1 o = 1 || ouD1 o = 2) && ouMoff o % 64 = 0
    else if k = 5 then ouFmt o = 0 && decide (1 ≤ ouD0 o) && decide (ouD0 o ≤ 262144) && ouMoff o % 64 = 0
    else if k = 6 then ouFmt o = 0 && decide (ouD0 o ≤ 65536)
    else ouFmt o = 0 && ouD0 o = 0) &&
  (k = 3 || k = 5 || ouMoff o = 0) && (k ≤ 3 || ouD1 o = 0) && (k = 1 || k = 2 || k = 3 || k = 5 || ouPad o = 0) &&
  (k = 4 || ouVoxp o = 0) && (k = 5 || ouLt o = 0)

/-- A video resource in range; its codec is not known before a field uses it, so its DPB is held to the smaller bound of R350. -/
def vidOk (v : List Byte) : Bool :=
  let blk := leBytes 1 2 ++ leBytes 1 (leAt v 6 1) ++ (v.drop 2).take 4
  decide (leAt v 0 1 ≤ 3) && decide (leAt v 1 1 ≤ 63) && decide (64 ≤ leAt v 2 2) && decide (leAt v 2 2 ≤ 8192) && decide (64 ≤ leAt v 4 2) &&
  decide (leAt v 4 2 ≤ 4320) && (leAt v 6 1 = 8 || leAt v 6 1 = 10) && leAt v 7 1 = 0 && zeroOn v 24 32 && decide (dpbNeed blk 9 ≤ leAt v 16 8)

/-- The specification in range, with its regions inside the slot and apart (R368, R369). -/
def specOk (s : List Byte) (vox : List (List Byte)) : Bool :=
  decide (1 ≤ bsBs s) && decide (bsBs s ≤ 4096) && decide (2 ≤ bsRing s) && decide (bsRing s ≤ 64) && decide (1 ≤ bsNout s) &&
  decide (bsNout s ≤ 16) && decide (leAt s 5 1 ≤ 4) && decide (leAt s 6 1 ≤ 1) && decide (bsNvs s ≤ 8) && bsBase s % 64 = 0 &&
  bsSlotb s % 64 = 0 && bsStat s % 64 = 0 && zeroOn s 34 64 && (bsOuts s).all outOk && (bsVids s).all vidOk &&
  (let rs := slotRegions s vox
   rs.all (fun r => decide (sidEnd s ≤ r.1) && decide (r.1 + r.2 ≤ bsSlotb s)) && disjoint rs && decide (sidEnd s ≤ bsSlotb s))

/-! ## Skein records (R366, R367) -/

structure SkField where
  off : Nat
  ftype : Nat
  codec : Nat
  a0 : Nat
  a1 : Nat
  data : List Byte
  deriving DecidableEq, Repr

/-- Code, field and detail of a failing check, with the media status (Table 13-10). -/
structure Skip where
  code : Nat
  field : Nat
  mstat : Nat
  detail : Nat
  deriving DecidableEq, Repr

def skip (code field detail : Nat) : Skip := { code := code, field := field, mstat := 0, detail := detail }

/-- The offset of the first byte that is not 0 in [a, b). -/
def firstNonzero (r : List Byte) (a b : Nat) : Option Nat := ((List.range (b - a)).map (a + ·)).find? (fun o => leAt r o 1 ≠ 0)

/-- The fields of a record, or the failing item of check 07h. -/
def skFields (r : List Byte) (nf : Nat) : Nat → Nat → Nat → List SkField → Except Skip (List SkField)
  | 0, _, _, acc => .ok acc
  | fuel + 1, n, pos, acc =>
    let stop := r.length - 8
    if n = nf then (if pos = stop then .ok acc else .error (skip 7 (n - 1) pos))
    else if pos + 16 > stop then .error (skip 7 n pos)
    else
      let ft := leAt r pos 1
      let len := leAt r (pos + 4) 4
      let next := alignUp (pos + 16 + len) 8
      if next > stop then .error (skip 7 n (pos + 4))
      else if ft = 0 || ft > 6 then .error (skip 7 n pos)
      else match (firstNonzero r (pos + 2) (pos + 4)).or (firstNonzero r (pos + 16 + len) next) with
        | some o => .error (skip 7 n o)
        | none =>
          skFields r nf fuel (n + 1) next (acc ++ [⟨pos, ft, leAt r (pos + 1) 1, leAt r (pos + 8) 4, leAt r (pos + 12) 4,
            (r.drop (pos + 16)).take len⟩])

/-- Checks 02h to 07h of a record's bytes (Table 13-9). -/
def skParse (r : List Byte) : Except Skip (List SkField) :=
  if leAt r 0 4 ≠ 0x534B4E31 then .error (skip 2 0xFF 0)
  else if leAt r 4 1 ≠ 1 then .error (skip 3 0xFF 4)
  else if leAt r 8 4 ≠ r.length then .error (skip 4 0xFF 0)
  else if crc32c (r.take (r.length - 8)) ≠ leAt r (r.length - 8) 4 then .error (skip 5 0xFF 0)
  else match (firstNonzero r 6 8).or ((firstNonzero r 12 16).or ((firstNonzero r 24 32).or (firstNonzero r (r.length - 4) r.length))) with
    | some o => .error (skip 6 0xFF o)
    | none =>
      let nf := leAt r 5 1
      if nf = 0 || nf > 32 then .error (skip 7 0xFF 5) else skFields r nf 33 0 32 []

/-- Field `n` of a type, with its index in the record. -/
def fieldOf (fs : List SkField) (ty n : Nat) : Option (Nat × SkField) :=
  (((fs.zipIdx).filter (fun x => x.1.ftype = ty)).drop n).head?.map (fun x => (x.2, x.1))

/-- The video resource a VIDEO field runs on: the first whose engine, size, depth and DPB take it (R373). -/
def vidFor (s : List Byte) (f : SkField) : Option (List Byte) :=
  (bsVids s).find? (fun v =>
    let blk := leBytes 1 f.codec ++ leBytes 1 (leAt v 6 1) ++ (v.drop 2).take 4
    decide (f.a0 % 65536 ≤ leAt v 2 2) && decide (f.a0 / 65536 ≤ leAt v 4 2) && decide (f.a1 ≤ leAt v 6 1) &&
    decide (dpbNeed blk (if f.codec = 2 then 9 else 17) ≤ leAt v 16 8))

/-- Check 08h of a field: the byte that is wrong. The output that uses a field, where one does, holds AUDIO's channels and makes a VIDEO field
need a resource. -/
def fieldBad (s : List Byte) (f : SkField) (use : Option (List Byte)) : Option Nat :=
  let n := f.data.length
  let len (b : Bool) : Option Nat := if b then none else some (f.off + 4)
  let cod (b : Bool) : Option Nat := if b then none else some (f.off + 1)
  let a0 (b : Bool) : Option Nat := if b then none else some (f.off + 8)
  let a1 (b : Bool) : Option Nat := if b then none else some (f.off + 12)
  match f.ftype with
  | 1 => (cod (f.codec = 0)).or ((a0 (f.a0 = 0)).or (a1 (f.a1 = 0)))
  | 2 => (cod (f.codec ≤ 2)).or ((len (n = 32)).or ((a1 (f.a1 = 8 || f.a1 = 10)).or
      (a0 (use.isNone || (f.a0 % 65536 ≠ 0 && f.a0 / 65536 ≠ 0 && (vidFor s f).isSome)))))
  | 3 => (cod (f.codec ≤ 4)).or ((a0 (if f.codec = 0 then f.a0 = 48000 else decide (8000 ≤ f.a0) && decide (f.a0 ≤ 96000))).or
      (a1 ((f.a1 = 1 || f.a1 = 2) && (match use with | some o => ouD1 o = f.a1 | none => true))))
  | 4 => (cod (f.codec = 0)).or ((a0 (f.a0 = 0)).or (a1 (f.a1 = 0)))
  | 5 => (cod (f.codec = 0)).or ((len (n % 4 = 0 && decide (4 ≤ n) && decide (n ≤ 4 * 262144))).or ((a0 (f.a0 = 0)).or (a1 (f.a1 = 0))))
  | _ => (cod (f.codec = 0)).or ((len (n ≤ 65536)).or ((a0 (f.a0 = 0)).or (a1 (f.a1 = 0))))

/-- The access units of a segment: (offset, length), or none where they overrun it. -/
def segUnits (seg : List Byte) : Nat → Nat → Option (List (Nat × Nat))
  | 0, _ => some []
  | n + 1, pos =>
    let len := leAt seg pos 4
    if pos + 4 + len > seg.length then none
    else (segUnits seg n (pos + 4 + alignUp len 4)).map (fun t => (pos + 4, len) :: t)

/-- Check 09h of a VIDEO reference (R372): the failing byte within the record. -/
def Mach.segBad (m : Mach) (p : Nat) (f : SkField) : Option Nat :=
  let d := f.data
  let nau := leAt d 12 4
  if nau = 0 || nau > 64 then some (f.off + 28)
  else if leAt d 16 4 ≥ nau then some (f.off + 32)
  else match firstNonzero d 20 32 with
    | some o => some (f.off + 16 + o)
    | none =>
      if !m.holds p (leAt d 0 8) (leAt d 8 4) then some (f.off + 16)
      else if (segUnits (m.rd (leAt d 0 8) (leAt d 8 4)) nau 0).isNone then some (f.off + 24)
      else none

/-- Check 0Bh of an augmentation row (Table 13-8). -/
def augBad (a : List Byte) : Bool :=
  ((List.range 32).any (fun i => i ≠ 6 && !f32Finite (leAt a (4 * i) 4))) || !f32PosNormal (leAt a 8 4) || !f32PosNormal (leAt a 12 4) ||
  leAt a 24 4 > 3

/-! ## Producing a sample (R373) -/

/-- A source image: size and colour samples as FP32 values; or the media status that refused it. -/
structure Pic where
  w : Nat
  h : Nat
  at' : Nat → Nat → Nat → Val

/-- What one output holds of a sample: its bytes, its mask bits, the real tokens, and the flags its conversions raised (R66). -/
structure OutS where
  bytes : List Byte
  mask : List Bool
  len : Nat
  fl : Nat
  deriving DecidableEq, Repr

def fl8 (s n : Nat) : Val := round32 (mulV (.ofInt s) (div32 (.ofInt 1) (.ofInt n)))

/-- A conversion of the input engine: the code, and the flags: those of the conversion, and INVALID for a NaN that comes from none (R66). -/
def inConvert (fmt : Nat) (r : Rnd) (nanIn : Bool) (v : Val) : Nat × Nat :=
  let c := convertE fmt r v
  (c.1, c.2 ||| if v.isNan && !nanIn then flInvalid else 0)

/-- The resampling and colour routine of R373: the bytes and the flags. -/
def resample (pic : Pic) (a o : List Byte) : List Byte × Nat :=
  let f (i : Nat) : Val := val32 (leAt a i 4)
  let ow := ouD0 o
  let oh := ouD1 o
  let pad := val32 (ouPad o)
  let half := Val.fin false 1 (-1)
  let kx := div32 (f 8) (.ofInt ow)
  let ky := div32 (f 12) (.ofInt oh)
  let hx := round32 (mulV half.negate (f 8))
  let hy := round32 (mulV half.negate (f 12))
  let fl := leAt a 24 4
  let px (u v : Nat) : List (Nat × Nat) :=
    let a0 := fma32 (add32 (.ofInt u) half) kx hx
    let b0 := fma32 (add32 (.ofInt v) half) ky hy
    let aa := if bit fl 0 then a0.negate else a0
    let bb := if bit fl 1 then b0.negate else b0
    let xs := add32 (fma32 (f 16) aa (fma32 (f 20).negate bb (f 0))) half.negate
    let ys := add32 (fma32 (f 20) aa (fma32 (f 16) bb (f 4))) half.negate
    let small (x : Val) : Bool := match x with
      | .fin _ _ _ => cmpVal x.abs (.fin false 1 24) < 0
      | _ => false
    let ok := small xs && small ys
    let i := floorV xs
    let j := floorV ys
    let fx := if ok then add32 xs (.ofInt (-i)) else .zero false
    let fy := if ok then add32 ys (.ofInt (-j)) else .zero false
    let tap (x y : Int) (c : Nat) : Val :=
      if ok && 0 ≤ x && 0 ≤ y && x < pic.w && y < pic.h then pic.at' x.toNat y.toNat c else pad
    let mix (t p q : Val) : Val := fma32 t (add32 q p.negate) p
    let q (c : Nat) : Val :=
      let t := mix fx (tap i j c) (tap (i + 1) j c)
      let w := mix fx (tap i (j + 1) c) (tap (i + 1) (j + 1) c)
      fma32 fy (add32 w t.negate) t
    let q0 := q 0
    let q1 := q 1
    let q2 := q 2
    (List.range 3).map (fun c =>
      let mm (k : Nat) : Val := f (32 + 12 * c + 4 * k)
      let y := fma32 (mm 0) q0 (fma32 (mm 1) q1 (fma32 (mm 2) q2 (f (68 + 4 * c))))
      inConvert (ouFmt o) ⟨0, true, 0⟩ pad.isNan y)
  let cs := (List.range oh).flatMap (fun v => (List.range ow).flatMap (fun u => px u v))
  (cs.flatMap (fun c => leBytes (widthOf (ouFmt o) / 8) c.1), cs.foldl (fun acc c => acc ||| c.2) 0)

/-- An IMAGE, VIDEO or AUDIO element that holds PAD, and the flags of its conversion. -/
def padCode (o : List Byte) : Nat × Nat := inConvert (ouFmt o) ⟨0, ouKind o ≠ 3, 0⟩ true (val32 (ouPad o))

/-- The bytes of an IMAGE, VIDEO or AUDIO element that holds PAD. -/
def padElem (o : List Byte) : List Byte := leBytes (widthOf (ouFmt o) / 8) (padCode o).1

/-- The padding of an output (R377). -/
def padOut (o vox : List Byte) : OutS :=
  let k := ouKind o
  if k ≤ 2 then { bytes := (List.replicate (ouD0 o * ouD1 o * 3) (padElem o)).flatten, mask := [], len := 0, fl := (padCode o).2 }
  else if k = 3 then
    { bytes := (List.replicate (ouD0 o * ouD1 o) (padElem o)).flatten, mask := List.replicate (ouD0 o) false, len := 0, fl := (padCode o).2 }
  else if k = 5 then
    { bytes := (List.replicate (ouD0 o) (leBytes 4 (ouPad o))).flatten, mask := List.replicate (ouD0 o) false, len := 0, fl := 0 }
  else { bytes := zeros (ouSample o vox), mask := [], len := 0, fl := 0 }

/-- What a media command of a sample comes to: its status, the output where there is one, and for the counters engine and work. -/
structure MedGot where
  status : Nat
  out : Option OutS
  eng : Nat
  work : Nat
  deriving DecidableEq, Repr

/-- The JPEG file of an IMAGE field, resampled. -/
def imageOf (f : SkField) (a o : List Byte) : MedGot :=
  let x := jpegHead f.data
  let at' (u v c : Nat) : Val := fl8 (((x.rgb f.data none u v).getD c 0).toNat) 255
  if f.data.isEmpty then { status := 0x10, out := none, eng := 6, work := 0 }
  else if !x.supported then { status := 2, out := none, eng := 6, work := 0 }
  else
    let r := resample { w := x.w, h := x.h, at' := at' } a o
    { status := b2n (concealed (x.map f.data none) ≠ 0), out := some { bytes := r.1, mask := [], len := 0, fl := r.2 }, eng := 6, work := x.w * x.h }

def clipTo (n : Nat) (v : Int) : Nat := if v < 0 then 0 else if v > n then n else v.toNat

/-- RGB of a decoded video sample (R373): the formulas of R353, with 512 and 1023 at depth 10. -/
def rgbDepth (depth y cb cr c : Nat) : Nat :=
  let mid : Int := if depth = 8 then 128 else 512
  let top := if depth = 8 then 255 else 1023
  let db : Int := (cb : Int) - mid
  let dr : Int := (cr : Int) - mid
  let d : Int := if c = 0 then 91881 * dr else if c = 1 then -22554 * db - 46802 * dr else 116130 * db
  clipTo top (y + (d + 32768) / 65536)

/-- The DECODEs of a segment by a stream opened for it, in order. -/
def segDecode (blk : List Byte) (units : List (List Byte)) : List VidOut :=
  (units.foldl (fun (a : (List (List Byte) × List MedPic × Bool) × List VidOut) u =>
    let x := vidDecode blk a.1.1 a.1.2.1 a.1.2.2 u none
    ((a.1.1 ++ [pastOf false u], x.keep a.1.2.1, x.rasl), a.2 ++ [x])) (([], [], false), [])).2

/-- The worst status of the DECODEs of a segment: refused for an empty unit, unsupported, concealed. -/
def segStatus (units : List (List Byte)) (xs : List VidOut) : Nat :=
  if units.any List.isEmpty then 0x10 else xs.foldl (fun a x => max a (if !x.ok then 2 else b2n (concealed x.pic.map ≠ 0))) 0

/-- The access unit a VIDEO field picks, decoded from the segment's start and resampled. -/
def videoOf (m : Mach) (s : List Byte) (f : SkField) (a o : List Byte) : MedGot :=
  match vidFor s f with
  | none => { status := 0x10, out := none, eng := 0, work := 0 }
  | some v =>
    let d := f.data
    let blk := leBytes 1 f.codec ++ leBytes 1 (leAt v 6 1) ++ (v.drop 2).take 4
    let seg := m.rd (leAt d 0 8) (leAt d 8 4)
    let units := ((segUnits seg (leAt d 12 4) 0).getD []).map (fun x => (seg.drop x.1).take x.2)
    let xs := segDecode blk units
    let st := segStatus units xs
    match xs[leAt d 16 4]? with
    | none => { status := max 2 st, out := none, eng := leAt v 0 1, work := 0 }
    | some x =>
      let pic := x.pic
      let smp (p x y : Nat) : Nat := surfaceAt pic.surface pic.w pic.h pic.depth p x y
      let at' (x y c : Nat) : Val :=
        fl8 (rgbDepth pic.depth (smp 0 x y) (smp 1 (x / 2) (y / 2)) (smp 2 (x / 2) (y / 2)) c) (if pic.depth = 8 then 255 else 1023)
      if st ≥ 2 then { status := st, out := none, eng := leAt v 0 1, work := 0 }
      else
        let r := resample ⟨pic.w, pic.h, at'⟩ a o
        ⟨st, some ⟨r.1, [], 0, r.2⟩, leAt v 0 1, units.length * pic.w * pic.h⟩

/-- The frames of an AUDIO field, times GAIN. -/
def audioOf (f : SkField) (a o : List Byte) : MedGot :=
  let blk := leBytes 1 f.codec ++ leBytes 1 f.a1 ++ zeros 2 ++ leBytes 4 f.a0 ++ zeros 56
  let pks := packetsOf f.data.length f.data
  let outs := (pks.zipIdx).map (fun (x : List Byte × Nat) => auPacket blk (blk :: pks.take x.2) false x.1)
  if f.data.isEmpty then { status := 0x10, out := none, eng := 8, work := 0 }
  else if outs.any (fun x => !x.ok) then { status := 2, out := none, eng := 8, work := 0 }
  else
    let n := ouD0 o
    let w := widthOf (ouFmt o) / 8
    let gain := val32 (leAt a 28 4)
    let codes (c : Nat) : List (Nat × Nat) :=
      let xs := ((outs.flatMap (fun x => x.planes.getD c [])).take n).map (fun v => inConvert (ouFmt o) rne false (round32 (mulV (round32 v) gain)))
      xs ++ List.replicate (n - xs.length) (padCode o)
    let all := (List.range (ouD1 o)).flatMap codes
    let got := (outs.flatMap (fun x => x.planes.getD 0 [])).length
    { status := b2n (outs.any (fun x => x.lost)),
      out := some
        { bytes := all.flatMap (fun c => leBytes w c.1), mask := (List.range n).map (fun t => decide (t < got)), len := 0,
          fl := all.foldl (fun acc c => acc ||| c.2) 0 },
      eng := 8, work := got * ouD1 o }

/-- The voxel grid of a POINTS field, with the row's rotation and translation in the block. -/
def pointsOf (f : SkField) (a vox : List Byte) : MedGot :=
  let blk := vox.take 48 ++ (a.drop 80).take 48
  if f.data.isEmpty then { status := 0x10, out := none, eng := 9, work := 0 }
  else if !vxOk blk (vxBytes blk) then { status := 0x13, out := none, eng := 9, work := 0 }
  else if !lasOk f.data then { status := 2, out := none, eng := 9, work := 0 }
  else
    let g := gridOf blk f.data
    { status := 0, out := some { bytes := gridBytes blk g.1, mask := [], len := 0, fl := 0 }, eng := 9,
      work := min (lasCount f.data) ((f.data.length - lasData f.data) / lasRec f.data) }

def tokensOf (f : SkField) (o : List Byte) : OutS :=
  let n := min (f.data.length / 4) (ouD0 o)
  { bytes := f.data.take (4 * n) ++ (List.replicate (ouD0 o - n) (leBytes 4 (ouPad o))).flatten,
    mask := (List.range (ouD0 o)).map (fun t => decide (t < n)), len := n, fl := 0 }

def labelOf (f : SkField) (o : List Byte) : OutS :=
  let n := min f.data.length (ouD0 o)
  { bytes := padTo (ouSample o []) (leBytes 4 n ++ f.data.take n), mask := [], len := 0, fl := 0 }

/-- One sample as built: its outputs, or the failing check; whether a hardware fault met it, and what is counted. -/
structure InSample where
  fail : Option Skip
  hard : Bool
  /-- an unreadable byte it needs -/
  lost : Option Nat
  sid : Nat
  outs : List OutS
  concealed : Bool
  trunc : Nat
  media : List (Nat × Nat × Nat)
  deriving DecidableEq, Repr

def InSample.bad (k : Skip) : InSample :=
  { fail := some k, hard := false, lost := none, sid := 0, outs := [], concealed := false, trunc := 0, media := [] }

/-- The outputs of a sound record, once checks 01h to 0Bh have passed. -/
def buildOuts (m : Mach) (st : InStream) (fs : List SkField) (sid : Nat) (a : List Byte) : InSample :=
  let got := ((bsOuts st.spec).zipIdx).map (fun (x : List Byte × Nat) =>
    let o := x.1
    let vox := st.vox.getD x.2 []
    match fieldOf fs (ouKind o) (ouFidx o) with
    | none => (x.2, ({ status := 0, out := some (padOut o vox), eng := 99, work := 0 } : MedGot), 0)
    | some (n, f) =>
      (n, (if ouKind o = 1 then imageOf f a o else if ouKind o = 2 then videoOf m st.spec f a o else if ouKind o = 3 then audioOf f a o
        else if ouKind o = 4 then pointsOf f a vox
        else ({ status := 0, out := some (if ouKind o = 5 then tokensOf f o else labelOf f o), eng := 99, work := 0 } : MedGot)),
       (if ouKind o = 5 then b2n (decide (ouD0 o < f.data.length / 4))
        else if ouKind o = 6 then b2n (decide (ouD0 o < f.data.length)) else 0)))
  let cmds := got.filter (fun g => g.2.1.eng < 10)
  let media := cmds.map (fun g => (g.2.1.eng, g.2.1.status, g.2.1.work))
  let hard := cmds.any (fun g => (m.med g.2.1.eng).failed)
  let base : InSample := ⟨none, hard, none, sid, got.filterMap (fun g => g.2.1.out), cmds.any (fun g => g.2.1.status = 1),
    got.foldl (fun acc g => acc + g.2.2) 0, media⟩
  let worst := cmds.filter (fun g => g.2.1.status ≥ 2)
  let soft := cmds.filter (fun g => g.2.1.status = 1)
  match worst.head?, soft.head? with
  | some g, _ => { base with fail := some { code := 0xC, field := g.1, mstat := g.2.1.status, detail := 0 } }
  | none, some g => if bsDrop st.spec then { base with fail := some { code := 0xD, field := g.1, mstat := 1, detail := 0 } } else base
  | none, none => base

/-- InSample `j` of a SUBMIT: its list entry is taken as an address and a length of 8 bytes each. -/
def Mach.sampleOf (m : Mach) (p : Nat) (st : InStream) (b : List Byte) (j : Nat) : InSample :=
  let ent := m.rd (icList b + 16 * j) 16
  let addr := leAt ent 0 8
  let len := leAt ent 8 8
  let a := m.rd (icAug b + 128 * j) 128
  if addr % 8 ≠ 0 || len < 48 || len % 8 ≠ 0 || !m.holds p addr len then .bad (skip 1 0xFF 0)
  else match m.badRead [(addr, len), (icAug b + 128 * j, 128)] with
  | some lost => { InSample.bad (skip 5 0xFF 0) with
    hard := true
    lost := some lost }
  | none =>
    let r := m.rd addr len
    match skParse r with
    | .error k => .bad k
    | .ok fs =>
      let useOf (n : Nat) (f : SkField) : Option (List Byte) :=
        (bsOuts st.spec).find? (fun o => (fieldOf fs (ouKind o) (ouFidx o)).map Prod.fst = some n && ouKind o = f.ftype)
      let param := ((fs.zipIdx).findSome? (fun (x : SkField × Nat) => (fieldBad st.spec x.1 (useOf x.2 x.1)).map (fun o => skip 8 x.2 o)))
      let seg := ((fs.zipIdx).findSome? (fun (x : SkField × Nat) =>
        if x.1.ftype = 2 && (useOf x.2 x.1).isSome then (m.segBad p x.1).map (fun o => skip 9 x.2 o) else none))
      let miss := (bsOuts st.spec).findSome? (fun o =>
        if ouReq o && (fieldOf fs (ouKind o) (ouFidx o)).isNone then some (skip 0xA (ouFidx o) 0) else none)
      match param.or (seg.or (miss.or (if augBad a then some (skip 0xB 0xFF 0) else none))) with
      | some k => .bad k
      | none =>
        let segs := (fs.filter (fun f => f.ftype = 2)).map (fun f => (leAt f.data 0 8, leAt f.data 8 4))
        let x := buildOuts m st fs (leAt r 16 8) a
        match m.badRead segs with
        | some lost => { x with
          hard := true
          lost := some lost }
        | none => x

/-! ## The ring (R375 to R377) -/

/-- A mask's bytes, padded to 64. -/
def maskImage (bs : List Bool) : List Byte := padTo (maskBytes bs.length) (packElems 1 (bs.map b2n))

/-- What a slot holds of output `i`, position by position: a sound sample's output, or padding. -/
def slotOuts (st : InStream) (xs : List (Option InSample)) (i : Nat) : List OutS :=
  let pad := padOut (bsOut st.spec i) (st.vox.getD i [])
  xs.map (fun x => match x with
    | some y => if y.fail.isNone then y.outs.getD i pad else pad
    | none => pad)

/-- The flags of what a slot holds (R66). -/
def slotFlags (st : InStream) (xs : List (Option InSample)) : Nat :=
  (List.range (bsOuts st.spec).length).foldl (fun acc i => (slotOuts st xs i).foldl (fun b o => b ||| o.fl) acc) 0

/-- The pieces of a slot: offset and bytes. -/
def slotPieces (st : InStream) (k real : Nat) (xs : List (Option InSample)) : List (Nat × List Byte) :=
  let s := st.spec
  let ok (x : Option InSample) : Bool := match x with | some y => y.fail.isNone | none => false
  let outs := bsOuts s
  [(0, padTo 64 (leBytes 8 k ++ leBytes 4 real)), (64, maskImage (xs.map ok)),
   (64 + maskBytes (bsBs s), padTo (alignUp (8 * bsBs s) 64) (xs.flatMap (fun x => leBytes 8 (match x with
      | some y => if y.fail.isNone then y.sid else 0
      | none => 0))))] ++
  (outs.zipIdx).flatMap (fun (e : List Byte × Nat) =>
    let os := slotOuts st xs e.2
    [(ouOff e.1, os.flatMap (fun o => o.bytes))] ++
    (if ouBits e.1 ≠ 0 then [(ouMoff e.1, maskImage (os.flatMap (fun o => o.mask)))] else []) ++
    (if ouKind e.1 = 5 && ouLt e.1 ≠ 0xFFFFFFFF then
      [(ouLt e.1, padTo 64 (leBytes 2 (bsBs s)) ++ os.flatMap (fun o => leBytes 4 o.len ++ leBytes 2 0xFFFF ++ zeros 2))] else []))

/-- An error record (Table 13-10). -/
def errRecord (m : Mach) (j k addr : Nat) (e : Skip) : List Byte :=
  leBytes 4 j ++ leBytes 4 k ++ leBytes 8 addr ++ leBytes 1 e.code ++ leBytes 1 e.field ++ leBytes 1 e.mstat ++ zeros 1 ++
  leBytes 4 e.detail ++ leBytes 8 m.rc

/-- Enter a corrupt record in the error area and the objects (R380). -/
def Mach.logError (m : Mach) (p : Nat) (b : List Byte) (x : InBuild) (j k : Nat) (e : Skip) : Mach × InBuild :=
  let rec' := errRecord m j k (m.rdNat (icList b + 16 * j) 8) e
  let m := (m.addObj (0x5280 + p) 3 1).setObj (0x5280 + p) 6 (leNat rec')
  if icEbase b ≠ 0 && 32 * (x.errs + 1) ≤ icEsize b then
    (m.wr (icEbase b + 32 * x.errs) rec', { x with errs := x.errs + 1, corrupt := x.corrupt + 1 })
  else (m.addObj (0x5280 + p) 5 1, { x with missed := x.missed + 1, corrupt := x.corrupt + 1 })

/-- The video resources a sample decodes on, with the CODEC of the field that uses each (R371, R373). -/
def Mach.sampleVids (m : Mach) (st : InStream) (b : List Byte) (j : Nat) : List (Nat × Nat) :=
  let ent := m.rd (icList b + 16 * j) 16
  match skParse (m.rd (leAt ent 0 8) (leAt ent 8 8)) with
  | .error _ => []
  | .ok fs => (bsOuts st.spec).filterMap (fun o =>
      if ouKind o ≠ 2 then none
      else ((fieldOf fs 2 (ouFidx o)).bind (fun x => (vidFor st.spec x.2).map (fun v => (streamKey (leAt v 0 1) (leAt v 1 1), x.2.codec)))))

/-- A video resource takes its CODEC from the first VIDEO field that uses it (R371). -/
def Mach.setCodec (m : Mach) (k codec : Nat) : Mach :=
  match m.streams.get? k with
  | none => m
  | some s => if s.count ≠ 0 then m else { m with streams := m.streams.put k { s with block := putAt s.block 0 (leBytes 1 codec), count := 1 } }

/-- Count the media commands of a sample at the engines that ran them. -/
def Mach.countMedia (m : Mach) (x : InSample) : Mach :=
  x.media.foldl (fun (a : Mach) c =>
    (((a.addObj (0x5100 + c.1) 2 1).addObj (0x5100 + c.1) 3 (b2n (c.2.1 = 1))).addObj32 (0x5100 + c.1) 6 (b2n (c.2.1 = 2))).addObj
      (0x5100 + c.1) 8 c.2.2) m

/-- A command of the stream ends: its result record is written and its job hears of it (R381). -/
def Mach.inDone (m : Mach) (p : Nat) (c : InCmd) (record : List Byte) : Mach :=
  let m := m.modPart p (fun q => { q with inQueue := q.inQueue.drop 1 })
  let m := if m.holds p (icRbase c.bytes) 64 then m.put (icRbase c.bytes) (putAt record 40 (leBytes 8 m.rc)) else m
  m.jobCommandDone c.client c.seq (leAt record 0 1)

/-- A record with a status alone. -/
def statusRecord (st : Nat) : List Byte := padTo 64 (leBytes 1 st)

/-- The result record of a SUBMIT. -/
def InBuild.record (x : InBuild) (st : Nat) : List Byte :=
  leBytes 1 st ++ zeros 3 ++ leBytes 4 x.real ++ leBytes 4 x.corrupt ++ leBytes 4 x.concealed ++ leBytes 4 x.trunc ++ leBytes 4 x.missed ++
  leBytes 8 x.first ++ leBytes 4 x.published ++ zeros 28

def Mach.setStream (m : Mach) (p : Nat) (s : Option InStream) : Mach := m.modPart p (fun q => { q with inStream := s })

/-- A SUBMIT ends early with a status: published batches stay, later batch numbers follow them (R379, R382). -/
def Mach.inStop (m : Mach) (p st : Nat) : Mach :=
  match (m.part p).inStream with
  | none => m
  | some s => match s.build with
    | none => m
    | some x =>
      let m := (m.setStream p (some { s with next := x.first + x.published, build := none })).setBit (0x5280 + p) 1 2 false
      m.inDone p x.cmd (x.record st)

/-! ## Checks of a command (R365) -/

/-- 10h. -/
def inBad10 (b : List Byte) : Bool :=
  let i := icIop b
  i = 0 || i > 3 || leAt b 1 1 ≠ 1 || leAt b 3 1 ≠ 0 || nonzero b 44 20 || (if i = 1 then icHalf b > 1 else icHalf b ≠ 0) ||
  (if i = 2 then icNs b = 0 || icNs b > 65536 else icNs b ≠ 0) || (i ≠ 2 && icAug b ≠ 0) || (i = 3 && icList b ≠ 0) ||
  (i = 2 && icEsize b % 32 ≠ 0)

/-- What a command names itself: what it reads first, then its result and its error area. -/
def inReads (b s : List Byte) : List (Nat × Nat) :=
  if icIop b = 1 then [(icList b, bsLen s)] else if icIop b = 2 then [(icList b, 16 * icNs b), (icAug b, 128 * icNs b)] else []

/-- 11h for the regions the command names itself: outside the partition's stacks, an alignment broken, or the result and the error area over
one another or over the input, as Table 12-9's 11h means it (R345, R365). -/
def Mach.inBad11 (m : Mach) (p : Nat) (b s : List Byte) : Bool :=
  let out := [(icRbase b, 64)] ++ (if icIop b = 2 && icEbase b ≠ 0 then [(icEbase b, icEsize b)] else [])
  icRbase b % 64 ≠ 0 || (icIop b = 2 && icEbase b % 64 ≠ 0) || !disjoint out || out.any (fun o => (inReads b s).any (overlap o)) ||
  !m.holds p (icRbase b) 64 ||
  (icIop b = 1 && !m.holds p (icList b) (bsLen (m.rd (icList b) 64))) ||
  (icIop b = 2 && (!m.holds p (icList b) (16 * icNs b) || !m.holds p (icAug b) (128 * icNs b) ||
    (icEbase b ≠ 0 && !m.holds p (icEbase b) (icEsize b))))

/-- 11h for the regions a specification names. -/
def Mach.specBad11 (m : Mach) (p : Nat) (s : List Byte) : Bool :=
  !m.holds p (bsBase s) (bsRing s * bsSlotb s) || !m.holds p (bsStat s) 64 ||
  (bsOuts s).any (fun o => ouKind o = 4 && !m.holds p (ouVoxp o) 96) ||
  (bsVids s).any (fun v => !m.holds p (leAt v 8 8) (leAt v 16 8))

/-- Streams open on a half. -/
def Mach.halfCount (m : Mach) (h : Nat) : Nat :=
  m.parts.countP (fun x => match x.2.inStream with | some s => s.half = h | none => false)

/-- The refusal of the command at the front, if any; the specification is given for an OPEN. -/
def Mach.inRefusal (m : Mach) (p : Nat) (b s : List Byte) (vox : List (List Byte)) : Option Nat :=
  let i := icIop b
  let isOpen : Bool := (m.part p).inStream.isSome
  if inBad10 b then some 0x10
  else if m.inBad11 p b s || (i = 1 && m.specBad11 p s) then some 0x11
  else if (if i = 1 then isOpen || m.halfCount (icHalf b) ≥ 32 else !isOpen) then some 0x12
  else if i = 1 && !specOk s vox then some 0x13
  else none

/-- The media stream keys and open blocks of a specification's video resources. -/
def vidKeys (s : List Byte) : List (Nat × List Byte) :=
  (bsVids s).map (fun v => (streamKey (leAt v 0 1) (leAt v 1 1),
    padTo 64 (zeros 1 ++ leBytes 1 (leAt v 6 1) ++ (v.drop 2).take 4 ++ zeros 2 ++ (v.drop 8).take 16 ++ leBytes 2 1000)))

/-- Open the video resources in order: the refusal of the first that fails, with those before it closed again (R371). -/
def openVids (m : Mach) (p : Nat) : List (Nat × List Byte) → Option Nat × Mach
  | [] => (none, m)
  | (k, o) :: t =>
    if (m.med (k / 4096)).failed then (some 0x14, m)
    else if (m.streams.get? k).isSome then (some 0x12, m)
    else
      let r := openVids { m with streams := m.streams.put k { part := p, block := o, hist := [], budget := 0, pics := [], rasl := false, count := 0 } } p t
      if r.1.isSome then (r.1, m) else r

/-- The input engine works for a partition: no save is under way, and the half of its stream, or the one its OPEN names, has its I/O die (R363, R404).
-/
def Mach.inWorks (m : Mach) (p : Nat) : Bool :=
  !m.switching p &&
  (match (m.part p).inStream, (m.part p).inQueue.head? with
   | some s, _ => m.ioUp s.half
   | none, some c => icIop c.bytes ≠ 1 || m.ioUp (icHalf c.bytes)
   | none, none => true)

/-- The command at the front of a partition's input queue, when the engine may run it (R364, R404). -/
def Mach.inFront (m : Mach) (p : Nat) : Option InCmd := if m.inWorks p then (m.part p).inQueue.head? else none

/-- INPUT_OPEN: the front command is an OPEN, or has a reserved IOP, which is refused. -/
def doInputOpen (m : Mach) (p : Nat) : Mach :=
  match m.inFront p with
  | none => m
  | some c =>
    let b := c.bytes
    if icIop b = 2 || icIop b = 3 then m
    else
      let s := m.rd (icList b) (bsLen (m.rd (icList b) 64))
      let vox := (bsOuts s).map (fun o => if ouKind o = 4 then m.rd (ouVoxp o) 96 else [])
      match m.inRefusal p b s vox with
      | some st => m.inDone p c (statusRecord st)
      | none =>
        if (m.badRead ((icList b, bsLen s) :: (bsOuts s).map (fun o => (ouVoxp o, if ouKind o = 4 then 96 else 0)))).isSome then
          let m := m.lostAny 2 (m.badRead ((icList b, bsLen s) :: (bsOuts s).map (fun o => (ouVoxp o, if ouKind o = 4 then 96 else 0))))
          ({ m with hwWait := m.hwWait ++ [(0x14, p, 0xFFFF)] }).inDone p c (statusRecord 0x14)
        else
          match openVids m p (vidKeys s) with
          | (some st, m1) => m1.inDone p c (statusRecord st)
          | (none, m1) =>
            let m2 := m1.setStream p (some ⟨icHalf b, s, vox, (vidKeys s).map Prod.fst, 0, none⟩)
            let m3 := (((((m2.setObj (0x5280 + p) 1 (1 + 2 * icHalf b)).setObj (0x5280 + p) 2 0).setObj (0x5280 + p) 3 0).setObj
              (0x5280 + p) 4 0).setObj (0x5280 + p) 5 0).setObj (0x5280 + p) 6 0
            (m3.put (bsStat s) (zeros 8)).inDone p c (statusRecord 0)

/-- Close a stream and its video resources. -/
def Mach.inClose (m : Mach) (p : Nat) : Mach :=
  match (m.part p).inStream with
  | none => m
  | some s => ((s.keys.foldl (fun (a : Mach) k => a.medClose k) m).setStream p none).setObj (0x5280 + p) 1 0

/-- INPUT_CLOSE (R371). -/
def doInputClose (m : Mach) (p : Nat) : Mach :=
  match m.inFront p with
  | none => m
  | some c =>
    if icIop c.bytes ≠ 3 then m
    else match m.inRefusal p c.bytes [] [] with
      | some st => m.inDone p c (statusRecord st)
      | none => (m.inClose p).inDone p c (statusRecord 0)

/-- The batches of a SUBMIT. -/
def batches (s b : List Byte) : Nat := cdiv (icNs b) (bsBs s)

/-- CONSUMED cannot be read: the hardware fault ends the SUBMIT with 14h (R379). -/
def Mach.statLost (m : Mach) (p : Nat) (st : InStream) : Mach :=
  let m := m.lostAny 2 (m.badRead [(bsStat st.spec + 8, 8)])
  ({ m with hwWait := m.hwWait ++ [(0x14, p, 0xFFFF)] }).inStop p 0x14

/-- Ring slot of batch `k` is free (R376). -/
def Mach.ringFree (m : Mach) (s : List Byte) (k : Nat) : Bool := k + 1 ≤ m.rdNat (bsStat s + 8) 8 + bsRing s

/-- Write the next batch of a SUBMIT into its ring slot. -/
def Mach.makeBatch (m : Mach) (p : Nat) (st : InStream) (x : InBuild) : Mach :=
  let s := st.spec
  let b := x.cmd.bytes
  let k := x.first + x.made
  let n0 := x.made * bsBs s
  let xs : List (Option InSample) := (List.range (bsBs s)).map (fun i => if n0 + i < icNs b then some (m.sampleOf p st b (n0 + i)) else none)
  let base := bsBase s + k % bsRing s * bsSlotb s
  if xs.any (fun y => match y with | some z => z.hard | none => false) || (m.badRead [(icList b + 16 * n0, 16 * min (bsBs s) (icNs b - n0))]).isSome then
    let lost := (m.badRead [(icList b + 16 * n0, 16 * min (bsBs s) (icNs b - n0))]).or (xs.findSome? (fun y => y.bind InSample.lost))
    let m := m.lostAny 2 lost
    ({ m with hwWait := m.hwWait ++ [(0x14, p, 0xFFFF)] }).inStop p 0x14
  else
    let good := xs.filterMap (fun y => y.filter (fun z => z.fail.isNone))
    let m := m.touch ([(icList b, 1), (icAug b, 1), (base, 1)] ++
      (List.range (min (bsBs s) (icNs b - n0))).map (fun i => (m.rdNat (icList b + 16 * (n0 + i)) 8, 1)))
    let m1 := (m.wrAll ((slotPieces st k good.length xs).map (fun w => (base + w.1, w.2)))).setFlags p (slotFlags st xs)
    let m2 := (xs.zipIdx).foldl (fun (a : Mach) (y : Option InSample × Nat) => match y.1 with
      | some z => (if z.media.isEmpty then a
          else (m.sampleVids st b (n0 + y.2)).foldl (fun (a : Mach) (v : Nat × Nat) => a.setCodec v.1 v.2) (a.countMedia z))
      | none => a) m1
    let r := (xs.zipIdx).foldl (fun (a : Mach × InBuild) (y : Option InSample × Nat) => match y.1 with
      | some z => (match z.fail with | some e => a.1.logError p b a.2 (n0 + y.2) k e | none => a)
      | none => a) (m2, x)
    r.1.setStream p (some { st with
      next := k + 1,
      build := some { r.2 with
        made := x.made + 1, real := x.real + good.length, concealed := r.2.concealed + good.countP (fun z => z.concealed),
        trunc := r.2.trunc + good.foldl (fun a z => a + z.trunc) 0 } })

/-- SUBMIT: the front command is checked and begun; then each further step writes its next batch, once the ring has room (R375, R376). -/
def doSubmit (m : Mach) (p : Nat) : Mach :=
  match m.inFront p with
  | none => m
  | some c =>
    if icIop c.bytes ≠ 2 then m
    else match (m.part p).inStream with
      | none => m.inDone p c (statusRecord ((m.inRefusal p c.bytes [] []).getD 0x12))
      | some st =>
        match st.build with
        | none =>
          match m.inRefusal p c.bytes [] [] with
          | some r => m.inDone p c (statusRecord r)
          | none =>
            (m.setStream p (some { st with build := some ⟨c, st.next, 0, 0, 0, 0, 0, 0, 0, 0⟩ })).addObj (0x5280 + p) 2 (icNs c.bytes)
        | some x =>
          if x.made ≥ batches st.spec c.bytes || m.objBit (0x5280 + p) 1 2 then m
          else if (m.badRead [(bsStat st.spec + 8, 8)]).isSome then m.statLost p st
          else if m.ringFree st.spec (x.first + x.made) then m.makeBatch p st x
          else m.setBit (0x5280 + p) 1 2 true

/-- CONSUMED_POLL: a waiting stream reads CONSUMED again (R376). -/
def doPoll (m : Mach) (p : Nat) : Mach :=
  if !m.inWorks p || !m.objBit (0x5280 + p) 1 2 then m
  else match (m.part p).inStream with
    | none => m
    | some st => match st.build with
      | none => m
      | some x =>
        if (m.badRead [(bsStat st.spec + 8, 8)]).isSome then m.statLost p st
        else if m.ringFree st.spec (x.first + x.made) then m.setBit (0x5280 + p) 1 2 false else m

/-- BATCH_PUBLISH: the oldest written batch becomes visible; after the last, the SUBMIT completes (R376, R381). -/
def doPublish (m : Mach) (p : Nat) : Mach :=
  if !m.inWorks p then m
  else match (m.part p).inStream with
    | none => m
    | some st => match st.build with
      | none => m
      | some x =>
        if x.published ≥ x.made then m
        else
          let s := st.spec
          let m := m.put (bsStat s) (leBytes 8 (x.first + x.published + 1))
          let m := if bsMk s = 0xFFFF || bsMk s ≥ 512 * (m.clusters p).length then m else m.signal (8 + st.half) (m.absMk p (bsMk s)) 1
          let m := m.addObj (0x5280 + p) 4 1
          let x := { x with published := x.published + 1 }
          if x.published = batches s x.cmd.bytes then
            (m.setStream p (some { st with build := none })).inDone p x.cmd (x.record 0)
          else m.setStream p (some { st with build := some x })

/-- Withdraw the input commands that meet a condition; a SUBMIT under way ends WITHDRAWN (R382). -/
def Mach.inWithdraw (m : Mach) (p : Nat) (sel : InCmd → Bool) : Mach :=
  let m := match (m.part p).inStream with
    | some s => (match s.build with
      | some x => if sel x.cmd then m.inStop p 6 else m
      | none => m)
    | none => m
  let out := (m.part p).inQueue.filter sel
  let keep := (m.part p).inQueue.filter (fun c => !sel c)
  out.foldl (fun (a : Mach) c =>
    let a := if a.holds p (icRbase c.bytes) 64 then a.put (icRbase c.bytes) (putAt (statusRecord 6) 40 (leBytes 8 a.rc)) else a
    a.jobCommandDone c.client c.seq 6) (m.modPart p (fun q => { q with inQueue := keep }))

/-! ## The meanings -/

/-- INPUT_OPEN (R371). -/
def execInputOpen (part : Nat) (s : State) : Result := s.step (fun m => doInputOpen m part)

/-- SUBMIT (R373, R375). -/
def execSubmit (part : Nat) (s : State) : Result := s.step (fun m => doSubmit m part)

/-- INPUT_CLOSE (R371). -/
def execInputClose (part : Nat) (s : State) : Result := s.step (fun m => doInputClose m part)

/-- BATCH_PUBLISH (R376). -/
def execBatchPublish (part : Nat) (s : State) : Result := s.step (fun m => doPublish m part)

/-- CONSUMED_POLL (R376). -/
def execConsumedPoll (part : Nat) (s : State) : Result := s.step (fun m => doPoll m part)

end Sys2Proof.Machine
end

