-- ==== Sys2Proof/Machine/Jobs.lean ====
section
/-! DEFINITION. Clients, rings and doorbells (R390 to R394), jobs from fetch to completion record (R395 to R402), and their dispatch
(R399). -/

namespace Sys2Proof.Machine

/-! ## Clients -/

/-- The partition client `n` is bound to (Table 14-11). -/
def Mach.clientPart (m : Mach) (n : Nat) : Option Nat :=
  if n < 512 && m.objBit (cix n) 1 15 then some (m.field (cix n) 1 5 0) else none

def Mach.sqHead (m : Mach) (n : Nat) : Nat := m.field (cix n) 4 5 0
def Mach.sqTail (m : Mach) (n : Nat) : Nat := m.field (cix n) 4 13 8
def Mach.cqHead (m : Mach) (n : Nat) : Nat := m.field (cix n) 4 21 16
def Mach.cqTail (m : Mach) (n : Nat) : Nat := m.field (cix n) 4 27 22

def Job.isSaved (j : Job) : Bool := match j.st with
  | .saved _ _ => true
  | _ => false

/-! ## Checks of a descriptor (R396) -/

/-- Arguments a KIND does not name. -/
def argsBad (kind a0 a1 a2 : Nat) : Bool :=
  match kind with
  | 1 => a1 ≠ 0 || a2 ≥ 512
  | 2 => false
  | 6 => false
  | 4 => a1 ≠ 0
  | 5 => a1 ≠ 0
  | _ => a0 ≠ 0 || a1 ≠ 0 || a2 ≠ 0

/-- The peer table as (PEER, GENR, TAG). -/
def peerTable (b : List Byte) (n : Nat) : List (Nat × Nat × Nat) :=
  (List.range n).map (fun i => (leAt b (4 * i) 1, leAt b (4 * i + 1) 1, leAt b (4 * i + 2) 2))

/-- The peers a RUN names. -/
def Mach.jobPeers (m : Mach) (a0 a2 : Nat) : List (Nat × Nat × Nat) := peerTable (m.rd a0 (4 * a2)) a2

/-- 08h: the peer table breaks R398. -/
def Mach.peersBad (m : Mach) (p a0 a2 : Nat) : Bool :=
  match (m.part p).resident with
  | none => false
  | some k =>
    let decl := (k.recsOf 4).map (fun r => leAt r 4 1)
    let ps := (m.jobPeers a0 a2).map Prod.fst
    (a2 = 0 && a0 ≠ 0) || ps.any (fun x => !decl.contains x) || ps.dedup.length ≠ ps.length || decl.any (fun x => !ps.contains x)

/-- The reason a descriptor is refused, the first in the order of Table 14-6. -/
def Mach.descBad (m : Mach) (j : Job) : Option Nat :=
  let d := j.desc
  let p := j.part
  let others := m.jobs.filter (fun x => !x.same j && x.part = p)
  if leAt d 0 1 % 4 ≠ 1 then some 1
  else if j.kind = 0 || j.kind > 8 || leAt d 0 1 > 3 || leAt d 5 1 > 7 || j.flags > 7 || nonzero d 7 1 || nonzero d 48 80 ||
      argsBad j.kind j.arg0 j.arg1 j.arg2 then some 2
  else if others.any (fun x => x.tag = j.tag) then some 3
  else if !m.formed p then some 4
  else if (match j.kind with
      | 1 => j.arg2 > 256 || !m.holds p j.arg0 (4 * j.arg2)
      | 2 => j.arg2 = 0 || !m.holds p j.arg0 j.arg2 || !m.holds p j.arg1 65952
      | 6 => j.arg2 = 0 || !m.holds p j.arg0 j.arg2 || !m.holds p j.arg1 65952
      | 4 => j.arg2 = 0 || j.arg2 > 64 || !m.holds p j.arg0 (64 * j.arg2)
      | 5 => j.arg2 = 0 || j.arg2 > 64 || !m.holds p j.arg0 (64 * j.arg2)
      | _ => false) then some 5
  else if (j.kind = 1 && (m.part p).resident.isNone) ||
      (j.kind = 8 && ((m.part p).guest.isNone || others.any (fun x => x.kind = 8 && !x.isDone))) then some 6
  else if (j.kind = 3 && (others.any Job.isSaved || (m.part p).guest.isSome)) ||
      (j.kind = 7 && others.any (fun x => x.kind = 8 && !x.isDone)) then some 7
  else if j.kind = 1 && m.peersBad p j.arg0 j.arg2 then some 8
  else none

/-- A job becomes ready once its checks pass; one that fails them completes REFUSED. -/
def Mach.admitJob (m : Mach) (j : Job) : Mach :=
  match m.descBad j with
  | some r => m.endJob j 4 r
  | none => m.modJob j (fun x => { x with st := .queued, peers := if x.kind = 1 then m.jobPeers x.arg0 x.arg2 else [] })

/-- Jobs of a client that come before another in its ring. -/
def Mach.before (m : Mach) (j : Job) : List Job := m.jobs.filter (fun x => x.client = j.client && x.seq < j.seq)

/-- A fetched job still waits: on its own FENCE, or behind a fenced one (R399). -/
def Mach.waitsFence (m : Mach) (j : Job) : Bool :=
  (bit j.flags 1 && !(m.before j).isEmpty) || (m.before j).any (fun x => x.st = .fenced)

/-- Let the fenced jobs of a client become ready, in ring order. -/
def Mach.releaseFences (m : Mach) (n : Nat) : Mach :=
  (m.jobs.filter (fun j => j.client = n && j.st = .fenced)).foldl (fun (a : Mach) j => if a.waitsFence j then a else a.admitJob j) m

/-! ## Doorbells (R392, R393) -/

/-- The job of a descriptor's 128 bytes. -/
def jobOfDesc (client part slot seq : Nat) (d : List Byte) : Job :=
  { client := client, part := part, sqidx := slot, kind := leAt d 1 1, tag := leAt d 2 2, genr := leAt d 4 1, pri := leAt d 5 1 % 8,
    flags := leAt d 6 1, ctr := leAt d 8 8, arg0 := leAt d 16 8, arg1 := leAt d 24 8, arg2 := leAt d 32 8, user := leAt d 40 8, desc := d,
    peers := [], seq := seq, saves := 0, st := .fenced, left := 0, hard := false, fed := 0, pins := [], faulted := false }

/-- Fetch the descriptor at SQ_HEAD: it is copied, counted and checked; one that cannot be read completes REFUSED 05h. -/
def Mach.fetchOne (m : Mach) (n p : Nat) : Mach :=
  let h := m.sqHead n
  let at' := m.obj (cix n) 2 + 128 * h
  let gone := m.badRead [(at', 128)]
  let lost := gone.isSome
  let j := jobOfDesc n p h m.jobSeq (if lost then zeros 128 else m.rd at' 128)
  let m := ((m.touch [(at', 128)]).setField (cix n) 4 5 0 ((h + 1) % 64)).addObj (cix n) 5 1
  let m := { m with jobs := m.jobs ++ [j], jobSeq := m.jobSeq + 1 }
  if lost then (m.lostAny 1 gone).endJob j 4 5 else if m.waitsFence j then m else m.admitJob j

/-- SQ_TAIL: every descriptor up to the new tail is fetched, in ring order (R393). Writes of an unbound client are ignored (R415). -/
def doSqTail (m : Mach) (n v : Nat) : Mach :=
  match m.clientPart n with
  | none => m
  | some p =>
    let t := v % 64
    let m := m.setField (cix n) 4 13 8 t
    (List.range ((t + 64 - m.sqHead n) % 64)).foldl (fun (a : Mach) _ => a.fetchOne n p) m

/-- CQ_HEAD: the new completion head; a ring with room takes the records that wait (Table 14-2). -/
def doCqHead (m : Mach) (n v : Nat) : Mach :=
  match m.clientPart n with
  | none => m
  | some _ => m.setField (cix n) 4 21 16 (v % 64)

/-! ## Completion records (R400, R401) -/

/-- The job of a client that ended first among those whose record waits. -/
def Mach.nextDone (m : Mach) (n : Nat) : Option Job :=
  (m.jobs.filter (fun j => j.client = n && j.isDone)).foldl (fun (a : Option Job) j =>
    match a, j.st with
    | none, _ => some j
    | some b, .done _ _ s => (match b.st with
      | .done _ _ t => if s < t then some j else some b
      | _ => some b)
    | some b, _ => some b) none

/-- The record of an ended job (Table 14-7). -/
def Mach.jobRecord (m : Mach) (j : Job) (status detail : Nat) : List Byte :=
  leBytes 2 j.tag ++ leBytes 1 j.genr ++ leBytes 1 status ++ leBytes 1 j.kind ++ leBytes 1 detail ++ leBytes 2 j.client ++ leBytes 8 j.user ++
  leBytes 8 m.rc ++ leBytes 1 j.sqidx ++ leBytes 1 (min j.saves 255) ++ zeros 5 ++
  leBytes 1 (if m.cqCount.get 0 j.client / 64 % 2 = 0 then 128 else 0)

/-- COMPLETION_RECORD: the record of the client's next ended job is written at CQ_TAIL; in a full ring it waits (R400). -/
def doCompletion (m : Mach) (n : Nat) : Mach :=
  match m.nextDone n with
  | none => m
  | some j =>
    match j.st with
    | .done status detail _ =>
      let t := m.cqTail n
      if (t + 1) % 64 = m.cqHead n then m.setBit (cix n) 4 28 true
      else
        let m := m.put (m.obj (cix n) 3 + 32 * t) (m.jobRecord j status detail)
        let m := (m.setField (cix n) 4 27 22 ((t + 1) % 64)).setBit (cix n) 4 28 false
        let m := m.addObj (cix n) (if status = 0 then 6 else if status = 2 || status = 3 then 7 else 8) 1
        let m := { m with jobs := m.jobs.filter (fun x => !x.same j), cqCount := m.cqCount.put n (m.cqCount.get 0 n + 1) }
        let m := if bit j.flags 2 then m.raise n else m
        m.releaseFences n
    | _ => m

/-! ## Dispatch (R399) -/

/-- The recovery state of a partition lets jobs dispatch, and a master runs the module (Table 17-13, R450). -/
def Mach.canDispatch (m : Mach) (p : Nat) : Bool := m.formed p && m.field (0x7200 + p) 0x10 15 12 = 0 && !m.noMaster

def resKind (k : Nat) : Bool := k = 1 || k = 2 || k = 3
def guestKind (k : Nat) : Bool := k = 6 || k = 7 || k = 8

/-- `a` is chosen before `b`: higher PRI, then saved, then the one saved or fetched earlier. -/
def Job.ahead (a b : Job) : Bool :=
  if a.pri ≠ b.pri then b.pri < a.pri
  else match a.st, b.st with
    | .saved _ x, .saved _ y => x < y
    | .saved _ _, _ => true
    | _, .saved _ _ => false
    | _, _ => a.seq < b.seq

/-- The job the free slot takes. -/
def Mach.chosen (m : Mach) (p : Nat) (kinds : Nat → Bool) : Option Job :=
  (m.jobs.filter (fun j => j.part = p && kinds j.kind && (j.st = .queued || j.isSaved))).foldl (fun (a : Option Job) j =>
    match a with
    | none => some j
    | some b => if j.ahead b then some j else some b) none

/-- The chosen resident-slot job, when the slot is free and the partition is not in G3 (R461). -/
def Mach.nextRes (m : Mach) (p : Nat) : Option Job :=
  if m.canDispatch p && (m.part p).g3.isNone && (m.resJob p).isNone then m.chosen p resKind else none

def Mach.nextGuest (m : Mach) (p : Nat) : Option Job :=
  if m.canDispatch p && (m.part p).g3.isNone && (m.guestJob p).isNone then m.chosen p guestKind else none

/-- Give every core of a partition a fresh context, running where the pricking gives it a stream (R113, R399). Its array stays as it is: a tile that an
earlier job of the core still holds stays held (R87, R399, log entry 235, DESIGN CHOICE). -/
def Mach.startCores (m : Mach) (p : Nat) (guest : Bool) (k : Pricking) : Mach :=
  ((m.coresOf p).zipIdx).foldl (fun (a : Mach) x =>
    a.modCtx x.1 guest (fun _ =>
      if (k.streams.getD x.2 []).isEmpty then Ctx.init else { Ctx.init with run := .running, fetch := true })) m

/-- Markers of a partition set to 0: outside the guest range, or inside it (R150). -/
def Mach.clearMarkers (m : Mach) (p : Nat) (guest : Bool) : Mach :=
  let cut := 512 - m.gmk p
  { m with markers := m.markers.filter (fun e => !((m.clusters p).contains (e.1 / 512) && (e.1 % 512 ≥ cut) == guest)) }

/-- Credits of a reduction buffer granted to its far contributors at dispatch (R260). -/
def Mach.grantAll (m : Mach) (p : Nat) (k : Pricking) : Mach :=
  k.rbufs.foldl (fun (a : Mach) r =>
    (List.range (rbNcon r)).foldl (fun (b : Mach) c =>
      let con := rbCon r c
      if conKind con = 1 || conKind con = 3 then b.grantMsg p (rbId r) con (conCred con) else b) a) m

/-- The sequences the length table of a pricking lists. -/
def Mach.pinList (m : Mach) (p : Nat) : List Nat :=
  match ((m.part p).resident).bind (fun k => k.lengths) with
  | some r => (m.lenTab p r).seqs m
  | none => []

/-- RUN: bindings, pins, markers, reduction buffers, recipes and streams (R399, R234, R150, Table 9-8). -/
def Mach.startRun (m : Mach) (p : Nat) (j : Job) : Mach :=
  match (m.part p).resident with
  | none => m.endJob j 4 6
  | some _ =>
    if m.objBit (0x6480 + p) 0xF 8 then m.endJob j 1 0xFE
    else
      let m := (m.modJob j (fun x => { x with st := .running })).modPart p (fun q => { q with rbufs := [], closed := 0 })
      let m := (((m.addObj (0x6440 + p) 7 1).setObj (0x6280 + p) 1 0).setObj (0x6280 + p) 2 0).setBit (pix p) 2 6 false
      let pins := m.pinList p
      let (bad, m) := m.bindLengths p
      match bad with
      | some b =>
        let core := ((m.coresOf p).getD b.core 0)
        let info := b.v % 2 ^ 32 + 2 ^ 32 * 0x20 + 2 ^ 40 * b.cix + 2 ^ 46 * b.idx
        m.jobFault p false 0x14 (fun x => faultRecord m core 0x14 b.opc b.word x.tag x.genr info)
      | none =>
        let m := m.modJob j (fun x => { x with pins := pins })
        match (m.part p).resident with
        | none => m
        | some k =>
          let m := m.clearMarkers p false
          let m := m.modPart p (fun q => { q with
            rbufs := k.rbufs.map (fun r => (rbId r, RBuf.init r)), closed := 0, sweep := false, radds := [],
            caches := q.caches.map (fun e => (e.1, { e.2 with round := 0, entry := none, count := 0, stall := none, retry := false })) })
          let m := (m.eachRecipe p recipeValues).computePv p
          ((m.startCores p false k).grantAll p k).settle p

/-- RUN row: the slot takes a fresh RUN. -/
def doRun (m : Mach) (p : Nat) : Mach :=
  match m.nextRes p with
  | some j => if j.kind = 1 && j.st = .queued then m.startRun p j else m
  | none => m

/-- LOAD and GUEST_LOAD: the loader runs to its end (R216). -/
def Mach.loadJob (m : Mach) (j : Job) (guest hw : Bool) : Mach :=
  let (code, m) := m.runLoad j.part guest hw j.arg0 j.arg1 j.arg2
  m.endJob j (if code = 0 then 0 else 5) code

def doLoad (m : Mach) (p : Nat) (hw : Bool) : Mach :=
  match m.nextRes p with
  | some j => if j.kind = 2 then (m.setBit (pix p) 2 6 false).loadJob j false hw else m
  | none => m

def doUnload (m : Mach) (p : Nat) : Mach :=
  match m.nextRes p with
  | some j => if j.kind = 3 then ((m.setBit (pix p) 2 6 false).unloadResident p).endJob j 0 0 else m
  | none => m

def doGuestLoad (m : Mach) (p : Nat) (hw : Bool) : Mach :=
  match m.nextGuest p with
  | some j => if j.kind = 6 then m.loadJob j true hw else m
  | none => m

def doGuestUnload (m : Mach) (p : Nat) : Mach :=
  match m.nextGuest p with
  | some j => if j.kind = 7 then (m.unloadGuest p).endJob j 0 0 else m
  | none => m

/-- GUEST_RUN: guest markers reset, guest contexts fresh (R150, R410). -/
def doGuestRun (m : Mach) (p : Nat) : Mach :=
  match m.nextGuest p with
  | some j =>
    if j.kind ≠ 8 then m
    else match (m.part p).guest with
      | none => m.endJob j 4 6
      | some k => ((m.modJob j (fun x => { x with st := .running })).clearMarkers p true).startCores p true k
  | none => m

/-- The next MEDIA or INPUT job of a partition with commands still to enter their queues. -/
def Mach.nextList (m : Mach) (p kind : Nat) : Option Job :=
  m.jobs.find? (fun j => j.part = p && j.kind = kind && (j.st = .queued || (j.st = .running && j.fed < j.arg2)))

/-- A list job whose command list cannot be read ends FAULT 11h. -/
def Mach.lostList (m : Mach) (j : Job) : Mach :=
  let m := (m.touch [(j.arg0, 64 * j.arg2)]).lostAny 1 (m.badRead [(j.arg0, 64 * j.arg2)])
  ({ m with hwWait := m.hwWait ++ [(0x11, j.part, 0xFFFF)] }).endJob j 1 0x11

def Mach.beginList (m : Mach) (j : Job) : Mach :=
  if j.st = .queued then m.modJob j (fun x => { x with st := .running, left := x.arg2 }) else m

/-- MEDIA: a ready job's commands enter their engines' queues in list order, as far as the queues have room (R344). -/
def doMediaJob (m : Mach) (p : Nat) : Mach :=
  match m.nextList p 4 with
  | some j =>
    if !m.canDispatch p then m
    else if (m.badRead [(j.arg0, 64 * j.arg2)]).isSome then m.lostList j
    else ((m.touch [(j.arg0, 64 * j.arg2)]).beginList j).feedJob j.client j.seq j.arg0 j.arg2 64
  | none => m

/-- INPUT: a ready job's commands enter the stream's queue in list order (R364). -/
def doInputJob (m : Mach) (p : Nat) : Mach :=
  match m.nextList p 5 with
  | some j =>
    if !m.canDispatch p then m
    else if (m.badRead [(j.arg0, 64 * j.arg2)]).isSome then m.lostList j
    else
      let cs : List InCmd := (List.range j.arg2).map (fun i => ⟨j.client, j.seq, m.rd (j.arg0 + 64 * i) 64⟩)
      (((m.touch [(j.arg0, 64 * j.arg2)]).beginList j).modJob j (fun x => { x with fed := x.arg2 })).modPart p (fun q => { q with inQueue := q.inQueue ++ cs })
  | none => m

/-! ## Ends and cancels -/

/-- JOB_STOP_COMPLETE: every core of a stopping resident job has stopped (R152). -/
def doJobStop (m : Mach) (p : Nat) : Mach :=
  match m.resJob p with
  | some j =>
    (match j.st with
     | .stopping st d => if m.streamsDone p false then m.endRun j st d else m
     | _ => m)
  | none => m

/-- Withdraw what a MEDIA or INPUT job has not started, and let it end with a status when what is in flight has finished (R402). -/
def Mach.stopList (m : Mach) (j : Job) (status : Nat) : Mach :=
  let m := m.modJob j (fun x => { x with st := .stopping status 0 })
  if j.kind = 4 then
    let m := m.medWithdraw (fun c => c.client = j.client && c.seq = j.seq)
    (List.range (j.arg2 - j.fed)).foldl (fun (a : Mach) i =>
      let b := a.rd (j.arg0 + 64 * (j.fed + i)) 64
      a.medReport (if mcEng b < 10 then mcEng b else 9) ⟨j.part, j.client, j.seq, b⟩ ((MedOut.plain 6).record b)) m
  else m.inWithdraw j.part (fun c => c.client = j.client && c.seq = j.seq)

/-- A save inside an update round that will not be restored leaves the round open (Table 9-8, Table 9-11). -/
def Mach.openSave (m : Mach) (p slot : Nat) : Mach :=
  match (m.part p).resident, (m.part p).saves.get? slot with
  | some k, some s => if roundOpen k s.rbufs s.closed then m.setBit (0x6480 + p) 0xF 8 true else m
  | _, _ => m

/-- A saved job's save is discarded: slot and messages held for it (R402). -/
def Mach.dropSave (m : Mach) (j : Job) : Mach :=
  match j.st with
  | .saved slot _ =>
    (m.openSave j.part slot).modPart j.part (fun q => { q with
      saves := q.saves.del slot,
      held := q.held.filter (fun x => !m.accepts j x), heldMsgs := q.heldMsgs.filter (fun x => !m.accepts j x) })
  | _ => m

/-- Take a job to its end by a cancel (R402); none where the cancel finds nothing it can act on. -/
def Mach.cancelJob (m : Mach) (j : Job) : Option Mach :=
  match j.st with
  | .fenced => some (m.endJob j 2 0)
  | .queued => some (m.endJob j 2 0)
  | .running =>
    if j.kind = 4 || j.kind = 5 then some (m.stopList j 3)
    else if j.kind = 1 then some (m.stopJob j false 3 0)
    else if j.kind = 8 then some (m.stopJob j true 3 0)
    else none
  | .saved _ _ => some ((m.dropSave j).endRun j 3 0)
  | _ => none

/-- CANCEL (R392, R402). -/
def doCancel (m : Mach) (n v : Nat) : Mach :=
  match m.clientPart n with
  | none => m
  | some _ =>
    let miss := m.setBit (cix n) 4 29 true
    if fld v 31 24 ≠ 0 then miss
    else match m.jobs.find? (fun j => j.client = n && j.tag = fld v 15 0 && j.genr = fld v 23 16 && !j.isDone) with
      | none => miss
      | some j => (match m.cancelJob j with
        | some m' => m'.setBit (cix n) 4 29 false
        | none => miss)

/-! ## Bindings (R390, R391) -/

/-- A write of a client's binding or ring object: the abort code, or the module after. -/
def Mach.writeBinding (m : Mach) (n sub v : Nat) : Nat × Mach :=
  let ring (b n' : Nat) : Bool :=
    v % b ≠ 0 || (match m.clientPart n with
      | some p => m.formed p && !m.holds p v n'
      | none => false)
  if (sub = 2 && ring 8192 8192) || (sub = 3 && ring 2048 2048) then (abortRange, m)
  else if m.jobs.any (fun j => j.client = n) || m.sqHead n ≠ m.sqTail n then (abortState, m)
  else
    let m := m.setObj (cix n) sub (if sub = 1 then v % 64 + 32768 * b2n (bit v 15) else v)
    let m := [5, 6, 7, 8].foldl (fun (a : Mach) i => a.setObj (cix n) i 0) ((m.setField (cix n) 4 27 0 0))
    (0, { m with cqCount := m.cqCount.put n 0 })

/-! ## The meanings -/

/-- SQ_TAIL (R393). -/
def execSqTail (client v : Nat) (s : State) : Result := s.step (fun m => doSqTail m client v)

/-- CQ_HEAD (R392). -/
def execCqHead (client v : Nat) (s : State) : Result := s.step (fun m => doCqHead m client v)

/-- CANCEL (R402). -/
def execCancel (client v : Nat) (s : State) : Result := s.step (fun m => doCancel m client v)

/-- COMPLETION_RECORD (R400). -/
def execCompletionRecord (client : Nat) (s : State) : Result := s.step (fun m => doCompletion m client)

/-- RUN (R399). -/
def execRun (part : Nat) (s : State) : Result := s.step (fun m => doRun m part)

/-- LOAD (R216). -/
def execLoad (part : Nat) (hw : Bool) (s : State) : Result := s.step (fun m => doLoad m part hw)

/-- UNLOAD (R225, R395). -/
def execUnload (part : Nat) (s : State) : Result := s.step (fun m => doUnload m part)

/-- MEDIA (R344). -/
def execMedia (part : Nat) (s : State) : Result := s.step (fun m => doMediaJob m part)

/-- INPUT (R364). -/
def execInput (part : Nat) (s : State) : Result := s.step (fun m => doInputJob m part)

/-- GUEST_LOAD (R409). -/
def execGuestLoad (part : Nat) (hw : Bool) (s : State) : Result := s.step (fun m => doGuestLoad m part hw)

/-- GUEST_UNLOAD (R395). -/
def execGuestUnload (part : Nat) (s : State) : Result := s.step (fun m => doGuestUnload m part)

/-- GUEST_RUN (R410). -/
def execGuestRun (part : Nat) (s : State) : Result := s.step (fun m => doGuestRun m part)

end Sys2Proof.Machine
end

