-- ==== Sys2Proof/Machine/Partition.lean ====
section
/-! DEFINITION. Partitions: forming and dissolving them (R385 to R389), saving and restoring jobs (R403 to R407), and guest jobs (R408 to
R412). -/

namespace Sys2Proof.Machine

/-! ## The partition command (R386, Table 14-13) -/

/-- Bases of the objects of partition `p` that lie at base + p. -/
def partBases : List Nat :=
  [0x2500, 0x4880, 0x5280, 0x6080, 0x6100, 0x6180, 0x6200, 0x6280, 0x6300, 0x6380, 0x6400, 0x6440, 0x6480, 0x7200]

/-- An object of partition `p` that formation sets to its default: every one but the formation and lifeline objects written while the
partition is free (R387). -/
def formClears (p key : Nat) : Bool :=
  let idx := key / 256
  let sub := key % 256
  (idx = pix p && !(3 ≤ sub && sub ≤ 0xA)) ||
  (partBases.any (fun b => idx = b + p) && !(idx = 0x7200 + p && 2 ≤ sub && sub ≤ 5))

/-- A named cluster, stack or link is held by another partition. -/
def Mach.heldElsewhere (m : Mach) (p : Nat) : Bool :=
  (List.range 64).any (fun q => q ≠ p && m.pstate q ≠ 0 &&
    ((m.obj (pix q) 3 &&& m.obj (pix p) 3) ≠ 0 || (m.obj (pix q) 4 &&& m.obj (pix p) 4) ≠ 0 || (m.obj (pix q) 5 &&& m.obj (pix p) 5) ≠ 0))

/-- The refusal of a formation (Table 14-1), 0 for none; several reasons give the lowest (log entry 125, DEDUCED). -/
def Mach.formReason (m : Mach) (p : Nat) : Nat :=
  let cs := m.clusters p
  if m.pstate p ≠ 0 then 6
  else if m.heldElsewhere p then 1
  else if cs.any (fun g => m.offClusters.contains g) || (bitsOf 64 (m.obj (pix p) 4)).any (fun s => !m.inService s) ||
      (m.links p).any (fun l => m.linkState l = 3 || m.offLinks.contains l) then 2
  else if m.gl p > 262144 || m.gl p % 4096 ≠ 0 || m.gc p > 4194304 || m.gc p % 65536 ≠ 0 || m.gmk p > 256 then 3
  else if (m.obj (pix p) 9 &&& m.obj (pix p) 4) ≠ m.obj (pix p) 9 || (m.saveSlots p ≠ 0 && (m.saveStacks p).isEmpty) ||
      m.saveArea p > stackUsable then 4
  else if cs.isEmpty then 5
  else 0

/-- A refused partition command: ERROR and REASON, and nothing else (R386). -/
def Mach.refusePart (m : Mach) (p reason : Nat) : Mach := (m.cmdDone (pix p) 2 false).setField (pix p) 2 23 16 reason

/-- A write to the partition command that names OP `op`: refused by its form, by BUSY, or carried out by `f`. -/
def Mach.partCommand (m : Mach) (p v op : Nat) (f : Mach → Mach) : Mach :=
  if p ≥ 64 || !m.online || fld v 19 16 ≠ op then m
  else if v / 2 ^ 20 ≠ 0 || v % 2 ^ 16 ≠ 0 then m.reply abortRange
  else if m.objBit (pix p) 2 0 then m.reply abortState
  else f (m.reply 0)

/-- The boot mode sampled at cast-on is TEST (Table 18-1). -/
def Mach.testMode (m : Mach) : Bool := m.field 0xA000 1 1 0 = 3

/-- FORM. -/
def doForm (p : Nat) (m : Mach) : Mach :=
  if m.testMode then m.reply abortState
  else
    let r := m.formReason p
    if r ≠ 0 then m.refusePart p r
    else (m.setField (pix p) 2 2 0 1).setField (pix p) 2 4 3 1

/-- Every core of a partition as cast-on leaves it, in its slot. -/
def Mach.freshCores (m : Mach) (p : Nat) : Mach :=
  (m.coresOf p).foldl (fun (a : Mach) c => a.setCore c (Core.init (a.core c).slot)) m

/-- Nothing of a partition's clusters, census, recipes and digests is left. -/
def Mach.forget (m : Mach) (p : Nat) : Mach :=
  let gs := m.clusters p
  ({ m.freshCores p with
    markers := m.markers.filter (fun e => !gs.contains (e.1 / 512)), ports := m.ports.filter (fun e => !gs.contains e.1),
    waits := m.waits.filter (fun e => !gs.contains e.1), recipes := m.recipes.filter (fun e => e.1 / 16 ≠ p),
    digests := m.digests.filter (fun e => e.1 / 16 ≠ p) }).censusWipe p

/-! ## Islands of clusters -/

/-- Switch the cluster islands of a partition on or off; they start at OP0 (R462, R478, log entry 133, DEDUCED). -/
def Mach.powerClusters (m : Mach) (p : Nat) (on : Bool) : Mach :=
  (m.clusters p).foldl (fun (a : Mach) g => a.setIsland g { a.island g with on := on, op := 0, gst := 0, gated := false, gaugeFail := false, cap := 7 }) m

/-- The highest link version of 4800h.01, which is PCAP at formation (R297). -/
def Mach.topVer (m : Mach) : Nat := if m.objBit 0x4800 1 1 then 2 else 1

/-- FORMATION_DONE: memories are 0, objects at their defaults, the partition is formed (R387). -/
def doFormed (m : Mach) (p : Nat) : Mach :=
  if p ≥ 64 || m.pstate p ≠ 1 then m
  else
    let m := (m.coresOf p).foldl (fun (a : Mach) c => a.wipe (localKey c 0) 524288) m
    let m := (m.clusters p).foldl (fun (a : Mach) g => a.wipe (clusterKey g 0) 8388608) m
    let m := (m.stacks p).foldl (fun (a : Mach) s => a.wipe (stackBase s) stackUsable) m
    let m := { m.forget p with objs := m.objs.filter (fun e => !formClears p e.1) }
    let m := m.setPart p { Part.empty with life := { Life.init with t0 := m.rc }, jobT0 := m.rc }
    let m := ((m.setObj (pix p) 0xB (m.saveImg p)).setObj (pix p) 0xC (m.saveArea p)).setObj (0x4880 + p) 1 m.topVer
    ((m.powerClusters p true).setField (pix p) 2 4 3 2).cmdDone (pix p) 2 true

/-! ## Ending the jobs of a partition -/

/-- What runs in a slot ends CANCELLED at once: its cores stop, its data movements complete, its RDMAs are dropped. -/
def Mach.endDma (m : Mach) (p : Nat) (guest : Bool) : Mach :=
  (m.coresOf p).foldl (fun (a : Mach) c =>
    let n := ((a.core c).ctx guest).dma.length
    let off := if guest then (a.core c).host.dma.length else 0
    let a := (List.range n).foldl (fun (b : Mach) i => doDmaComplete b c (off + (n - 1 - i))) a
    a.modCtx c guest (fun x => { x with dma := [] })) m

/-- Every job of a partition comes to its end: ready ones WITHDRAWN, running and saved ones CANCELLED (R389, R500). -/
def Mach.endJobs (m : Mach) (p : Nat) : Mach :=
  let js := m.jobs.filter (fun j => j.part = p && !j.isDone)
  let m := (js.filter (fun j => decide (j.st = .queued) || decide (j.st = .fenced))).foldl (fun (a : Mach) j => a.endJob j 2 0) m
  let m := (js.filter (fun j => j.live && (j.kind = 4 || j.kind = 5))).foldl (fun (a : Mach) j => a.stopList j 3) m
  let m := match m.resJob p with
    | some j => ((if j.st = JobSt.running then m.stopJob j false 3 0 else m).endDma p false).endRun j 3 0
    | none => m
  let m := (js.filter Job.isSaved).foldl (fun (a : Mach) j => (a.dropSave j).endRun j 3 0) m
  let m := match m.guestJob p with
    | some j => ((if j.st = JobSt.running then m.stopJob j true 3 0 else m).endDma p true).endJob j 3 0
    | none => m
  m.setBit (pix p) 2 6 false

/-- Media and input streams of a partition close: commands not started complete WITHDRAWN (Table 12-10, Table 13-11). -/
def Mach.closeStreams (m : Mach) (p : Nat) : Mach :=
  let m := (m.medWithdraw (fun c => c.part = p)).medCloseAll p
  (m.inWithdraw p (fun _ => true)).inClose p

/-- DISSOLVE in the order of R389; clients stay bound, the formation and lifeline objects keep their values (R387). -/
def Mach.dissolve (m : Mach) (p : Nat) : Mach :=
  let m := (m.endJobs p).unloadGuest p
  let m := (m.unloadResident p).closeStreams p
  let m := (m.forget p).powerClusters p false
  (((m.setPart p Part.empty).setField (pix p) 2 31 0 0).setField (pix p) 2 2 0 2)

/-- A save of the running job is under way. -/
def Mach.saving (m : Mach) (p : Nat) : Bool := m.switching p && (m.resJob p).isSome

/-- DISSOLVE; during a save it is carried out when the save completes (R413). -/
def doDissolve (p : Nat) (m : Mach) : Mach :=
  if m.pstate p ≠ 2 then m.refusePart p 6
  else if m.saving p then m.setField (pix p) 2 2 0 1
  else m.dissolve p

/-- A save that its job's end has overtaken is no longer under way, and a DISSOLVE that waits for it is carried out (R413, log entry 126, DEDUCED). -/
def Mach.endSave (m : Mach) (p : Nat) : Mach :=
  let m := m.setBit (pix p) 2 6 false
  if m.pstate p = 2 && m.objBit (pix p) 2 0 then m.dissolve p else m

/-- JOB_STOP_COMPLETE: the stopping job ends; a save of it that was under way is given up. -/
def doJobEnd (m : Mach) (p : Nat) : Mach :=
  let m' := doJobStop m p
  if (m.resJob p).isSome && (m'.resJob p).isNone then m'.endSave p else m'

/-! ## Saving (R403 to R405) -/

/-- The lowest free save slot. -/
def Mach.freeSlot (m : Mach) (p : Nat) : Option Nat := (List.range (m.saveSlots p)).find? (fun i => ((m.part p).saves.get? i).isNone)

/-- The running job can be pre-empted. -/
def Mach.victim (m : Mach) (p : Nat) : Option Job :=
  (m.resJob p).filter (fun j => j.kind = 1 && j.st = .running && bit j.flags 0 && (m.freeSlot p).isSome)

/-- PREEMPT. -/
def doPreempt (p : Nat) (m : Mach) : Mach :=
  if m.pstate p ≠ 2 then m.refusePart p 6
  else if (m.victim p).isNone || m.switching p then m.refusePart p 7
  else (m.modPart p (fun q => { q with wantSave := true })).cmdDone (pix p) 2 true

/-- The array of a core is cut `cut` K-step groups of 64 into the tile in flight, and its gap begins (R104, R92, R108). -/
def Mach.cutArray (m : Mach) (core cut : Nat) : Mach :=
  let a := (m.core core).arr
  match a.queue with
  | [] => m
  | o :: rest =>
    if !a.busy || o.guest then m
    else
      let kc := max (64 * cut) (o.kdone + 64)
      if kc ≥ o.k then doTileComplete m core
      else
        let b := o.bankOf o.tile
        let (bank, fl) := tileBank m o (a.banks.getD b Bank.idle) kc
        let (ba, bb) := tileBeats m o kc
        let oldA := a.beats.take 4096
        let oldB := a.beats.drop 4096
        ((m.countBeats core (o.beatsTo kc)).modArr core (fun a => { a with
          queue := { o with kdone := kc } :: rest, busy := false, banks := a.banks.set b bank, ramp := .hold, gap := 0, ddr := 0,
          ctl := m.arrCtl core,
          beats := oldA.drop ba.length ++ ba ++ (oldB.drop bb.length ++ bb) })).setFlags ((m.partOf (core / 16)).getD 0) fl

/-- A host context that waits takes its place at its MWAIT again, with the time it has waited (R147, R148). -/
def Ctx.unwait (c : Ctx) (rc : Nat) : Ctx :=
  match c.run with
  | .waiting _ _ _ _ => { c with run := .running, carry := c.waitedRc rc }
  | _ => c

/-- SAVE: the sequence of Table 14-9 begins; the array of the partition's n-th core is cut after `cuts[n]` groups of 64 K-steps (0 where the list
ends before), the first boundary behind the request in its own tile (R104). -/
def doSave (m : Mach) (p : Nat) (cuts : List Nat) : Mach :=
  match m.victim p with
  | none => m
  | some j =>
    if m.switching p || !((m.part p).wantSave || m.jobs.any (fun x => x.part = p && x.kind = 1 && x.st = .queued && x.pri > j.pri)) then m
    else
      let m := (m.setBit (pix p) 2 6 true).modPart p (fun q => { q with wantSave := false, saveT0 := m.rc })
      ((m.coresOf p).zipIdx).foldl (fun (a : Mach) c =>
        let a := (a.cutArray c.1 (cuts.getD c.2 0)).dropWaits c.1 false
        a.modCtx c.1 false (fun x => x.unwait a.rc)) m

/-- Key of byte `x` of save slot `slot`: the slots follow each other, striped over the save stacks in 4096-byte blocks (log entry 127, PRESUMED). -/
def Mach.saveKey (m : Mach) (p slot x : Nat) : Nat :=
  let y := slot * m.saveImg p + x
  let ss := m.saveStacks p
  let b := y / 4096
  stackBase (ss.getD (b % max 1 ss.length) 0) + (stackUsable - m.saveArea p) + b / max 1 ss.length * 4096 + y % 4096

/-- Requests reach every stack that holds images. -/
def Mach.touchSaves (m : Mach) (p : Nat) : Mach := (m.saveStacks p).foldl Mach.touchStack m

/-- Copy `n` bytes, a multiple of 4096, between a memory and an image. -/
def Mach.copySave (m : Mach) (p slot off key n : Nat) (out : Bool) : Mach :=
  (List.range (n / 4096)).foldl (fun (a : Mach) i =>
    let k := a.saveKey p slot (off + 4096 * i)
    if out then a.copyMem (key + 4096 * i) k 4096 else a.copyMem k (key + 4096 * i) 4096) m

/-- Write bytes into an image, block by block. -/
def Mach.writeSave (m : Mach) (p slot off : Nat) (bs : List Byte) : Mach :=
  ((chunks 4096 (bs.length / 4096 + 1) bs).zipIdx).foldl (fun (a : Mach) c => a.wr (a.saveKey p slot (off + 4096 * c.2)) c.1) m

/-- Read `n` bytes, a multiple of 4096 or less than one block, from an image. -/
def Mach.readSave (m : Mach) (p slot off n : Nat) : List Byte :=
  (List.range (cdiv n 4096)).flatMap (fun i => m.rd (m.saveKey p slot (off + 4096 * i)) (min 4096 (n - 4096 * i)))

/-- A bank's values and indices in drain layout. -/
def Bank.image (b : Bank) : List Byte :=
  (List.range 4096).flatMap (fun i => leBytes 4 (b.val i)) ++ (List.range 4096).flatMap (fun i => leBytes 4 (b.idx.getD i 0))

/-- The partition header of an image (Table 14-10); the layout of a fill window's 32 bytes is not stated, and they are free. -/
def Mach.saveHeader (m : Mach) (p : Nat) (j : Job) (k : Pricking) : List Byte :=
  let head := leBytes 4 0x53415645 ++ leBytes 4 1 ++ leBytes 2 j.tag ++ leBytes 2 j.genr ++ leBytes 4 k.prkver ++ leBytes 8 m.rc ++ zeros 40
  let caches := (List.range 64).flatMap (fun i =>
    match (m.part p).caches.get? i with
    | some c => leBytes 8 c.round ++ leBytes 4 (c.entry.getD 0) ++ zeros 4
    | none => zeros 16)
  let wins := (List.range 8).flatMap (fun w =>
    if ((m.part p).wins.get? w).isSome then (List.range 32).map (fun i => BitVec.ofNat 8 (Config.freeNat m.free (32 * w + i))) else zeros 32)
  padTo 32768 (head ++ j.desc ++ caches ++ wins) ++ (List.range 256).flatMap (m.censusRecord p)

/-- One core's image. -/
def Mach.saveCoreImage (m : Mach) (p slot off core : Nat) : Mach :=
  let n := 524288 - m.gl p
  let a := (m.core core).arr
  let m := m.copySave p slot off (localKey core 0) (m.glb p) true
  let m := m.copySave p slot (off + m.glb p) (localKey core (m.glb p + m.gl p)) (n - m.glb p) true
  let m := m.writeSave p slot (off + n) ((a.banks.getD 0 Bank.idle).image ++ (a.banks.getD 1 Bank.idle).image)
  let m := ({ m with free := m.free + 1 }).writeSave p slot (off + n + 65536) (m.freeBytes 4096)
  m.writeSave p slot (off + n + 69632) a.beats

/-- One rank's image: its sixteen cores, its cluster memory, its markers. -/
def Mach.saveRank (m : Mach) (p slot rank g : Nat) : Mach :=
  let off := 65536 + rank * m.saveClus p
  let m := (List.range 16).foldl (fun (a : Mach) c => a.saveCoreImage p slot (off + c * a.saveCore p) (16 * g + c)) m
  let part := off + 16 * m.saveCore p
  let n := 8388608 - m.gc p
  let m := m.copySave p slot part (clusterKey g 0) n true
  let m := m.writeSave p slot (part + n) ((List.range 512).flatMap (fun i => leBytes 4 (m.markers.get 0 (512 * g + i))))
  ({ m with free := m.free + 1 }).wr (m.saveKey p slot (part + n + 2048)) (m.freeBytes 2048) |> fun a =>
    ({ a with free := a.free + 1 }).writeSave p slot (part + n + 4096) (a.freeBytes 4096)

/-- What a save keeps beside the image. -/
def Mach.saveSlot (m : Mach) (p : Nat) : SaveSlot :=
  let q := m.part p
  { cores := (m.coresOf p).map (fun c => { core := c, ctx := (m.core c).host, arr := (m.core c).arr, fwUsed := (m.core c).fwUsed }),
    wins := q.wins, rbufs := q.rbufs, closed := q.closed, sweep := q.sweep, radds := q.radds, caches := q.caches, at' := q.saveT0 }

/-- A drain that waits at its first row for a credit of a reduction buffer: none is granted while the job is pre-empted, and it is saved as it
stands (R260, Table 9-8). -/
def Mach.drainWaits (m : Mach) (p core : Nat) (d : Drain) : Bool :=
  match d.op.rbuf with
  | some id => d.left = 64 && !m.rbufTakes p id core
  | none => false

/-- Steps 1 to 3 of a save are over: every core in its host context, drains done, marker messages taken (Table 14-9). -/
def Mach.saveReady (m : Mach) (p : Nat) : Bool :=
  (m.coresOf p).all (fun c => !(m.core c).inGuest && (m.core c).arr.drains.all (m.drainWaits p c) && !(m.core c).arr.busy) &&
  (m.clusters p).all (fun g => (m.ports.get [] g).isEmpty)

/-- The order in which jobs are saved. -/
def Mach.saveSeq (m : Mach) : Nat := m.jobs.foldl (fun a j => match j.st with | .saved _ o => max a (o + 1) | _ => a) 0

/-- SAVE_COMPLETE: the image is in a free slot and the job is saved; the cores and engines are free for the next job (R404, R405). A save whose job has
ended meanwhile is given up (R413, log entry 126, DEDUCED). -/
def doSaveComplete (m : Mach) (p : Nat) : Mach :=
  match m.victim p, m.freeSlot p, (m.part p).resident with
  | some j, some slot, some k =>
    if !m.switching p || !m.saveReady p then m
    else
      let keep := m.saveSlot p
      let m := ({ m.touchSaves p with free := m.free + 1 }).writeSave p slot 0 (m.saveHeader p j k)
      let m := ((m.clusters p).zipIdx).foldl (fun (a : Mach) g => a.saveRank p slot g.2 g.1) m
      let m := (m.coresOf p).foldl (fun (a : Mach) c =>
        let x := a.core c
        a.setCore c { x with
          host := Ctx.init, fwUsed := [],
          arr := { Arr.init with beats := x.arr.beats, ramp := x.arr.ramp, gap := x.arr.gap, ddr := x.arr.ddr, ctl := x.arr.ctl } }) m
      let m := m.modJob j (fun x => { x with st := .saved slot m.saveSeq, saves := x.saves + 1 })
      let m := m.modPart p (fun q => { q with
        saves := q.saves.put slot keep, rbufs := [], radds := [], closed := 0, sweep := false,
        caches := q.caches.map (fun e => (e.1, { e.2 with round := 0, entry := none, count := 0, stall := none, retry := false })),
        wins := q.wins.map (fun e => (e.1, { e.2 with bufs := e.2.bufs.map (fun _ => ⟨.free, [], []⟩), made := 0, posts := [] })) })
      let m := (m.jobLeft p).addObj (pix p) 0x19 1
      if m.objBit (pix p) 2 0 then m.dissolve p else m
  | _, _, _ => if m.switching p && (m.resJob p).isNone then m.endSave p else m

/-! ## Restoring (R404, R406) -/

/-- An uncorrectable half lies in a save slot. -/
def Mach.slotLost (m : Mach) (p slot : Nat) : Option Nat :=
  (m.bad.find? (fun h =>
    let s := h * 32 / 2 ^ 35
    let o := h * 32 % 2 ^ 35
    match (m.saveStacks p).idxOf? s with
    | some i =>
      o ≥ stackUsable - m.saveArea p && o < stackUsable &&
      (((o - (stackUsable - m.saveArea p)) / 4096 * (m.saveStacks p).length + i) * 4096 + o % 4096) / max 1 (m.saveImg p) = slot
    | none => false)).map (· * 32)

/-- A bank read back from an image. -/
def Bank.restored (b : Bank) (bs : List Byte) : Bank :=
  let word (o : Nat) : List Nat := (chunks 4 4097 ((bs.drop o).take 16384)).map leNat
  { b with vals := word 0, idx := if b.idx.isEmpty then [] else word 16384 }

/-- An operation that waits for a response waits on with the time it had left when the save began: the response timer stands still while the job
is saved (R307). -/
def DmaEntry.resume (e : DmaEntry) (d : Nat) : DmaEntry :=
  match e.plan with
  | .remote peer mid link t0 => { e with plan := .remote peer mid link (t0 + d) }
  | _ => e

/-- One core's image read back `d` rc after its save began: the array goes on from quiescence (R105). -/
def Mach.loadCoreImage (m : Mach) (p slot off d : Nat) (s : SavedCore) : Mach :=
  let n := 524288 - m.gl p
  let bs := m.readSave p slot (off + n) 65536
  let beats := m.readSave p slot (off + n + 69632) 8192
  let m := m.copySave p slot off (localKey s.core 0) (m.glb p) false
  let m := m.copySave p slot (off + m.glb p) (localKey s.core (m.glb p + m.gl p)) (n - m.glb p) false
  let banks := [(s.arr.banks.getD 0 Bank.idle).restored (bs.take 32768), (s.arr.banks.getD 1 Bank.idle).restored (bs.drop 32768)]
  m.setCore s.core { m.core s.core with
    host := { s.ctx with fetch := true, dma := s.ctx.dma.map (fun e => e.resume d) }, fwUsed := s.fwUsed,
    arr := { s.arr with banks := banks, beats := beats, ramp := .quiet, gap := 0, ctl := (m.core s.core).arr.ctl } }

/-- One rank's image read back. -/
def Mach.loadRank (m : Mach) (p slot rank g d : Nat) (cs : List SavedCore) : Mach :=
  let off := 65536 + rank * m.saveClus p
  let m := (cs.filter (fun s => s.core / 16 = g)).foldl (fun (a : Mach) s =>
    a.loadCoreImage p slot (off + s.core % 16 * a.saveCore p) d s) m
  let part := off + 16 * m.saveCore p
  let n := 8388608 - m.gc p
  let mk := m.readSave p slot (part + n) 2048
  let m := m.copySave p slot part (clusterKey g 0) n false
  { m with markers := (List.range (512 - m.gmk p)).foldl (fun (a : AMap Nat) i => a.put (512 * g + i) (leAt mk (4 * i) 4)) m.markers }

/-- Open deadlines resume with the time they had left (R103). -/
def FillWin.resume (w : FillWin) (d : Nat) : FillWin :=
  { w with bufs := w.bufs.map (fun b => match b.st with
      | .opened t => { b with st := .opened (t + d) }
      | _ => b) }

/-- What was held for a job while it was saved goes on: its signals are all applied in the first ic, before anything else reaches the marker
blocks; other messages follow in arrival order (R146, Table 10-12). -/
def Mach.deliverHeld (m : Mach) (p : Nat) (j : Job) : Mach :=
  let sig := (m.part p).held.filter (m.accepts j)
  let msgs := (m.part p).heldMsgs.filter (fun x => x.op = 4 || m.accepts j x)
  let xs := (sig.filter (fun x => x.fmk < 512 * (m.clusters p).length)).map (fun x => MkMsg.signal 8 (m.absMk p x.fmk) x.arg)
  let m := (m.clusters p).foldl (fun (a : Mach) g => a.applyIc p g xs) m
  { m with localMsgs := m.localMsgs ++ msgs } |> fun a =>
    a.modPart p (fun q => { q with held := q.held.filter (fun x => !sig.contains x), heldMsgs := q.heldMsgs.filter (fun x => !msgs.contains x) })

/-- A saved cache engine with the counts its cache has reached since (R252). -/
def CacheSt.counted (s : CacheSt) (now : Option CacheSt) : CacheSt :=
  match now with
  | some n => { s with rounds := n.rounds, dropped := n.dropped, blocks := n.blocks }
  | none => s

/-- RESTORE: the chosen saved job's image is written back and the job goes on (R404), with its recipes' values computed again (R269); an unreadable
image ends it FAULT 11h (R406), and a round left open ends it FAULT FEh (Table 9-8). -/
def doRestore (m : Mach) (p : Nat) : Mach :=
  match m.nextRes p with
  | none => m
  | some j =>
    match j.st with
    | .saved slot _ =>
      (match (m.part p).saves.get? slot with
       | none => m
       | some s =>
         let m := m.touchSaves p
         let gone := m.dropSave j
         let lost := m.slotLost p slot
         if m.objBit (0x6480 + p) 0xF 8 then (gone.endRun j 1 0xFE).setBit (pix p) 2 6 false
         else if lost.isSome then
           let gone := gone.lostAny 2 lost
           (({ gone with hwWait := gone.hwWait ++ [(0x11, p, 0xFFFF)] }).endRun j 1 0x11).setBit (pix p) 2 6 false
         else
           let d := m.rc - s.at'
           let m := ((m.clusters p).zipIdx).foldl (fun (a : Mach) g => a.loadRank p slot g.2 g.1 d s.cores) m
           let m := m.modPart p (fun q => { q with
             saves := q.saves.del slot, wins := s.wins.map (fun e => (e.1, e.2.resume d)), rbufs := s.rbufs, closed := s.closed, sweep := s.sweep,
             radds := s.radds, caches := s.caches.map (fun e => (e.1, e.2.counted ((m.part p).caches.get? e.1))) })
           let m := m.eachRecipe p recipeValues
           ((m.modJob j (fun x => { x with st := .running })).setBit (pix p) 2 6 false).deliverHeld p j)
    | _ => m

/-! ## Guest contexts (R410 to R412) -/

/-- A guest context that can take its core: it has a stream and has neither halted nor stopped. -/
def Ctx.alive (c : Ctx) : Bool := match c.run with
  | .running => true
  | .waiting _ _ _ _ => true
  | _ => false

/-- The host has waited at one MWAIT for the guest switch threshold, in steps of 40 ns, with the array idle (R106, R410). -/
def Mach.guestDue (m : Mach) (p core : Nat) : Bool :=
  let k := m.core core
  let t := m.obj (pix p) 0x10
  match k.host.run with
  | .waiting _ _ t0 _ => t ≠ 0 && m.rc ≥ max t0 k.tArr + t / 40
  | _ => false

/-- GUEST_SWITCH. -/
def doGuestSwitch (m : Mach) (core : Nat) : Mach :=
  match m.partOf (core / 16) with
  | none => m
  | some p =>
    let k := m.core core
    if core < 2048 && m.jobRuns p true && !m.switching p && !k.inGuest && !k.back && k.guest.alive && k.arr.queue.isEmpty && !k.arr.busy &&
        k.arr.banks.all (fun b => !b.held) && m.guestDue p core then
      (m.setCore core { k with inGuest := true, tGuest := m.rc }).addObj (pix p) 0x1A 1
    else m

/-- GUEST_RETURN: the host's wait is satisfied, or a save asks for it, and the guest's array operations have drained (R411, R404). -/
def doGuestReturn (m : Mach) (core : Nat) : Mach :=
  match m.partOf (core / 16) with
  | none => m
  | some p =>
    let k := m.core core
    if k.inGuest && (k.back || m.switching p) && k.arr.queue.all (fun o => !o.guest) && k.arr.drains.all (fun d => !d.op.guest) then
      (m.setCore core { k with inGuest := false, back := false }).modPart p (fun q => { q with guestRc := q.guestRc + (m.rc - k.tGuest) })
    else m

/-- GUEST_JOB_END: every guest stream has halted, or every guest context has stopped (R412). -/
def doGuestEnd (m : Mach) (p : Nat) : Mach :=
  match m.guestJob p with
  | none => m
  | some j =>
    if !m.streamsDone p true then m
    else
      let finish (st d : Nat) : Mach := (m.coresOf p).foldl (fun (a : Mach) c => a.modCtx c true (fun _ => Ctx.init)) (m.endJob j st d)
      match j.st with
      | .running => finish 0 0
      | .stopping st d => finish st d
      | _ => m

/-! ## The meanings -/

/-- FORM (R386, R387). -/
def execForm (part v : Nat) (s : State) : Result := s.step (fun m => m.partCommand part v 1 (doForm part))

/-- FORMATION_DONE (R387). -/
def execFormationDone (part : Nat) (s : State) : Result := s.step (fun m => doFormed m part)

/-- DISSOLVE (R389). -/
def execDissolve (part v : Nat) (s : State) : Result := s.step (fun m => m.partCommand part v 2 (doDissolve part))

/-- JOB_STOP_COMPLETE (R152). -/
def execJobStopComplete (part : Nat) (s : State) : Result := s.step (fun m => doJobEnd m part)

/-- PREEMPT (R403). -/
def execPreempt (part v : Nat) (s : State) : Result := s.step (fun m => m.partCommand part v 3 (doPreempt part))

/-- SAVE (R404). -/
def execSave (part : Nat) (cuts : List Nat) (s : State) : Result := s.step (fun m => doSave m part cuts)

/-- SAVE_COMPLETE (R404, R405). -/
def execSaveComplete (part : Nat) (s : State) : Result := s.step (fun m => doSaveComplete m part)

/-- RESTORE (R404, R406). -/
def execRestore (part : Nat) (s : State) : Result := s.step (fun m => doRestore m part)

/-- GUEST_SWITCH (R410). -/
def execGuestSwitch (core : Nat) (s : State) : Result := s.step (fun m => doGuestSwitch m core)

/-- GUEST_RETURN (R411). -/
def execGuestReturn (core : Nat) (s : State) : Result := s.step (fun m => doGuestReturn m core)

/-- GUEST_JOB_END (R412). -/
def execGuestJobEnd (part : Nat) (s : State) : Result := s.step (fun m => doGuestEnd m part)

end Sys2Proof.Machine
end

