-- ==== Sys2Proof/Machine/Health.lean ====
section
/-! DEFINITION. Health events, EMCY frames (R433), the replacement request (R503), the repair map and the fault log (R33, R153, R497). -/

namespace Sys2Proof.Machine

/-! ## EMCY (R433) -/

/-- EMCY code of a condition (Table 15-7). -/
def emcyCode : EmcyCond → Nat
  | .vin => 0x3100
  | .junction => 0x4200
  | .trip => 0x4210
  | .hw => 0x5000
  | .supLost => 0x8130
  | .replacement => 0xFF01
  | .takeover => 0xFF02

/-- The bits of 1001h a condition sets beside bit 0. -/
def emcyBit : EmcyCond → Nat
  | .vin => 2
  | .junction => 3
  | .trip => 3
  | .hw => 7
  | .supLost => 4
  | .replacement => 7
  | .takeover => 7

/-- The error register 1001h: the bits of the active conditions. -/
def Mach.errReg (m : Mach) : Nat :=
  m.can.active.foldl (fun a c => a ||| (1 + 2 ^ emcyBit c)) 0

/-- 1015h in rc. -/
def Mach.inhibit (m : Mach) : Nat := 2500 * m.obj 0x1015 0

/-- The CAN port may send EMCY and heartbeat frames: a supervisor lives, not listen-only, past Initialisation, on the bus, in no loop-back (R430,
R431, R529). -/
def Mach.canSends (m : Mach) : Bool := m.online && !m.can.listen && m.can.nmt ≠ 0 && !m.can.busOff && m.field 0xA200 1 1 0 = 0

/-- Queue an EMCY frame; beyond 16 the oldest is discarded and counted. -/
def Mach.queueEmcy (m : Mach) (code detail : Nat) : Mach :=
  let q := m.can.queue ++ [(code, detail)]
  if q.length > 16 then ({ m with can := { m.can with queue := q.drop 1 } }).addObj32 0x2101 6 1
  else { m with can := { m.can with queue := q } }

/-- Enter a sent frame at 1003h.01; older entries move down. -/
def Mach.enterHistory (m : Mach) (code detail : Nat) : Mach :=
  let old := (List.range 7).map (fun i => m.obj 0x1003 (i + 1))
  let m := ((code + 2 ^ 16 * (detail % 2 ^ 16)) :: old).zipIdx.foldl (fun (a : Mach) e => a.setObj 0x1003 (e.2 + 1) e.1) m
  m.setObj 0x1003 0 (min 8 (m.obj 0x1003 0 + 1))

/-- Send the oldest waiting EMCY frame, when the port may send and the inhibit time has run out. Events clear once their frame is sent;
when the last condition clears, a frame of code 0000h follows. -/
def Mach.sendEmcy (m : Mach) : Mach :=
  match m.can.queue with
  | [] => m
  | (code, detail) :: rest =>
    let wait : Bool := match m.can.lastEmcy with
      | some t => decide (m.rc < t + m.inhibit)
      | none => false
    if !m.canSends || wait then m
    else
      let frame := leBytes 2 code ++ leBytes 1 m.errReg ++ leBytes 4 detail
      let m := ({ m with can := { m.can with queue := rest, lastEmcy := some m.rc } }).emit (.can (leBytes 2 (0x80 + m.obj 0x2101 1) ++ frame))
      let m := m.enterHistory code detail
      let ev : Option EmcyCond := if code = 0x5000 then some .hw else if code = 0xFF02 then some .takeover else none
      match ev with
      | none => m
      | some c =>
        if rest.any (fun e => e.1 = code) then m
        else
          let act := m.can.active.filter (fun x => x ≠ c)
          let m := { m with can := { m.can with active := act } }
          if act.isEmpty then m.queueEmcy 0 0 else m

/-- A condition becomes active: it is a health event (200Ah, 200Bh) and its frame is queued; an event is queued every time. -/
def Mach.emcySet (m : Mach) (c : EmcyCond) (detail : Nat) : Mach :=
  let event := c = .hw || c = .takeover
  if m.can.active.contains c && !event then m
  else
    let m := { m with can := { m.can with active := if m.can.active.contains c then m.can.active else m.can.active ++ [c] } }
    let m := m.health.setObj 0x200B 0 (emcyCode c + 2 ^ 16 * (detail % 2 ^ 16))
    if m.can.listen then m else (m.queueEmcy (emcyCode c) detail).sendEmcy

/-- A condition clears; with the last one a frame of code 0000h is queued. -/
def Mach.emcyClear (m : Mach) (c : EmcyCond) : Mach :=
  if !m.can.active.contains c then m
  else
    let act := m.can.active.filter (fun x => x ≠ c)
    let m := { m with can := { m.can with active := act } }
    if act.isEmpty && !m.can.listen then (m.queueEmcy 0 0).sendEmcy else m

/-- Set a warning bit of 2007h. -/
def Mach.warn (m : Mach) (i : Nat) : Mach := m.setBit 0x2007 0 i true

/-! ## The replacement request (R503, Table 17-7) -/

/-- A reason of the replacement request arises. -/
def Mach.replacement (m : Mach) (reason : Nat) : Mach :=
  if m.objBit 0x7000 2 reason then m
  else
    let m := ((m.setBit 0x7000 2 reason true).setObj 0x7000 1 1).warn 5
    if m.can.active.contains .replacement then m.health else m.emcySet .replacement 0

/-! ## The repair map and the fault log -/

/-- Enter a unit in a copy of the repair map, once (Table 17-10). -/
def Store.enter (x : Store) (e : RepEntry) : Store :=
  if x.repair.any (fun y => y.level = e.level && y.die = e.die && y.clus = e.clus && y.unit = e.unit) then x
  else { x with repair := (x.repair ++ [e]).take 1024 }

/-- Enter a unit in the repair map: each living supervisor enters it in its own copy (R33). -/
def Mach.repair (m : Mach) (level die clus unit code : Nat) : Mach :=
  m.eachStore (fun _ x => x.enter (RepEntry.mk level die clus unit x.castOns code))

/-- Write a fault-log entry into each store: the last 256 are held (Table 17-9, R508). -/
def Mach.logFault (m : Mach) (bs : List Byte) : Mach :=
  m.eachStore (fun _ x => { x with log := (bs :: x.log).take 256, logged := min (x.logged + 1) (2 ^ 32 - 1) })

/-- A fault-log record of a unit: Table 4-27 with TAG holding the partition. -/
def Mach.unitRecord (m : Mach) (code part core : Nat) (loc : Option (Nat × Nat × Nat)) : List Byte :=
  leBytes 1 code ++ leBytes 1 0 ++ leBytes 2 core ++ leBytes 4 0 ++ leBytes 2 part ++ leBytes 1 0 ++ leBytes 1 (b2n loc.isSome) ++
  (match loc with
   | some (d, c, k) => leBytes 1 d ++ leBytes 1 c ++ leBytes 1 k
   | none => zeros 3) ++ zeros 9 ++ leBytes 8 m.rc

/-- A repair-map entry as it reads (Table 17-10). -/
def RepEntry.bytes (e : RepEntry) : List Byte :=
  leBytes 1 e.level ++ leBytes 1 e.die ++ leBytes 1 e.clus ++ leBytes 1 e.unit ++ leBytes 4 e.castOn ++ leBytes 2 e.code ++ zeros 6

/-! ## Capacity (Table 17-8) -/

/-- Slots bound off in a cluster by the repair map. -/
def Mach.deadSlots (m : Mach) (g : Nat) : List Nat :=
  (m.store.repair.filter (fun e => e.level = 1 && e.die = g / 16 && e.clus = g % 16)).map (fun e => e.unit)

/-- Links lost: entered in the repair map. -/
def Mach.deadLinks (m : Mach) : List Nat := (m.store.repair.filter (fun e => e.level = 5)).map (fun e => e.unit)

/-- 7001h. -/
def Mach.capacity (m : Mach) : List Byte :=
  let gs := (List.range 128).filter (fun g => !m.offClusters.contains g)
  leBytes 1 gs.length ++ leBytes 1 ((List.range 48).countP m.inService) ++ leBytes 2 (16 * gs.length) ++
  leBytes 1 (64 - (m.offLinks ++ m.deadLinks).dedup.length) ++ leBytes 1 (2 - m.supLost.length) ++ leBytes 2 (fld (m.obj 0x2200 6) 31 16) ++
  leBytes 2 (gs.countP (fun g => (m.deadSlots g).isEmpty)) ++ zeros 6

/-! ## Who reaches the dictionary (R427, R431) -/

/-- The port of a mailbox path. -/
def pathPort : Path → Nat
  | .portA => 0
  | .portB => 1
  | .can => 2

/-- A request by this path is served: a supervisor lives, and the port is up, or the CAN port runs USDO. -/
def Mach.serves (m : Mach) (path : Path) : Bool :=
  m.supLost.length < 2 &&
  (match path with
   | .can => (m.can.nmt = 5 || m.can.nmt = 0x7F) && !m.can.listen && !m.can.busOff
   | p => (m.host (pathPort p)).up)

/-- A write that a path brings, when the path is served. -/
def Mach.byPath (m : Mach) (path : Path) (f : Mach → Mach) : Mach := if m.serves path then f m else m

end Sys2Proof.Machine
end

