-- ==== Sys2Proof/Machine/Memory.lean ====
section
/-! DEFINITION. The memory controllers: priority classes (R324), errors and retry (R326 to R328), scrub (R329), row
candidates (R330), lost stacks (R333), self-refresh (R334) and the swatch (R335, R336). -/

namespace Sys2Proof.Machine

/-! ## Corrections and lost stacks -/

/-- The scrub period that is running. -/
def Mach.scrubWindow (m : Mach) : Nat := m.rc / (90000000000 * max 1 (m.obj 0x4000 4))

/-- A correction in a row: at the threshold of 4000h.06 within one scrub period the row becomes a candidate (R330). -/
def Mach.rowFixed (m : Mach) (s row : Nat) : Mach :=
  let x := m.srt s
  let w := m.scrubWindow
  let n := match x.fixes.find? (fun f => f.row = row && f.window = w) with
    | some f => f.n + 1
    | none => 1
  let m := m.setSrt s { x with fixes := { row := row, window := w, n := n } :: x.fixes.filter (fun f => f.row ≠ row && f.window = w) }
  if n ≥ m.obj 0x4000 6 then m.candidate s row else m

/-- A corrected half: counted, recorded, its row's corrections counted (R328, R330). -/
def Mach.eccCorrected (m : Mach) (addr cls : Nat) : Mach :=
  let d := dramAt addr
  ((m.addObj (0x4100 + d.stack) 3 1).errorRecord 2 addr cls).rowFixed d.stack d.rowId

/-- A stack is lost while the module runs: it leaves service and is bound off in the repair map; the replacement request is set (R333). -/
def Mach.loseStack (m : Mach) (s reason code : Nat) : Mach :=
  if m.offStacks.contains s then m
  else
    let m := (m.setStackState s 5).setField (0x4100 + s) 2 11 8 reason
    ((({ m with offStacks := m.offStacks ++ [s] }).repair 4 (s / 6) 0 s code).warn 7).replacement 1

/-! ## Data slots (R324) -/

def Chan.init : Chan := { k1 := 512, cur := [0, 0, 0], fails := [], late := [], swatch := 0, stopping := false }

def Mach.chan (m : Mach) (n : Nat) : Chan := m.chans.get Chan.init n

def Mach.setChan (m : Mach) (n : Nat) (c : Chan) : Mach := { m with chans := m.chans.put n c }

/-- The class served at a data slot: none for class 1 out of its credit, some c for class c of 2 to 4, with the channel after the grant. -/
def Chan.grant (c : Chan) (w : List Nat) (classes : List Nat) : Option Nat × Chan :=
  let k1 := min (c.k1 + 2) 512
  if classes.contains 1 && k1 ≥ 5 then (none, { c with k1 := k1 - 5 })
  else
    let waits := [2, 3, 4].filter (fun k => classes.any (fun x => x = k || (x = 1 && k = 2)))
    let cur := c.cur.zipIdx.map (fun e => if waits.contains (e.2 + 2) then e.1 + (w.getD e.2 0 : Int) else e.1)
    let best := waits.foldl (fun (a : Option Nat) k => match a with
      | none => some k
      | some b => if cur.getD (k - 2) 0 > cur.getD (b - 2) 0 then some k else some b) none
    let sum := waits.foldl (fun a k => a + w.getD (k - 2) 0) 0
    (some (best.getD 2), { c with k1 := k1, cur := cur.zipIdx.map (fun e => if some (e.2 + 2) = best then e.1 - (sum : Int) else e.1) })

/-- The weights W2, W3, W4 of 4000h.08. -/
def Mach.weights (m : Mach) : List Nat := [m.field 0x4000 8 7 0, m.field 0x4000 8 15 8, m.field 0x4000 8 23 16]

/-- The request that a slot serves: the oldest of the class granted. -/
def served (g : Option Nat) (reqs : List MemReq) : Option MemReq :=
  match g with
  | none => reqs.find? (fun r => r.cls = 1)
  | some k => reqs.find? (fun r => r.cls = k || (r.cls = 1 && k = 2))

/-- A stack records a row that neither repair mends (KIND 06h, Table 11-10); the class of that access is 4 (log entry 241, DESIGN CHOICE). -/
def Mach.rowLost (m : Mach) (s row : Nat) : Mach := m.errorRecord 6 ((rowUnits s row).headD 0) 4

/-- An exhausted retry (Table 11-3, step 5) is reported as an uncorrectable access: counted as exhausted and as uncorrectable, recorded, a health
event, and remembered for R327. The unit stays uncorrectable until it is written, and the requester faults as it meets it (log entry 241, DEDUCED). -/
def Mach.retryLost (m : Mach) (n addr cls : Nat) : Mach :=
  let u := addr / 64 * 64
  let c := m.chan n
  let m := (((m.spoil u).spoil (u + 32)).addObj (0x4100 + n / 4) 7 1).addObj (0x4100 + n / 4) 4 1
  ((m.errorRecord 1 addr cls).health).setChan n { c with fails := (m.rc :: c.fails).take 3 }

/-- An exhausted read makes its row a candidate as any uncorrectable read does (R330). -/
def Mach.retryLostRead (m : Mach) (n addr cls : Nat) : Mach := (m.retryLost n addr cls).candidate (dramAt addr).stack (dramAt addr).rowId

/-- A read that a channel serves, by what error detection shows; a unit with an uncorrectable half is reported at that half and not changed (R328). -/
def Mach.serveRead (m : Mach) (n : Nat) (r : MemReq) : Mach :=
  let s := n / 4
  let u := r.addr / 64 * 64
  let give (x : Mach) : Mach := { x with answer := { abort := 0, data := m.rd u 64 } }
  match m.firstBad u 64 with
  | some h => m.eccLost 3 h r.cls
  | none =>
    match r.seen with
    | .clean => give m
    | .linkCorrected => give (m.addObj (0x4100 + s) 5 1)
    | .retried k => if k ≤ 4 then give (m.addObj (0x4100 + s) 6 1) else m.retryLostRead n r.addr r.cls
    | .corrected => give (m.eccCorrected r.addr r.cls)
    | .uncorrectable => m.eccLost 3 r.addr r.cls
    | .wrongTag => m.eccLost 4 r.addr r.cls

/-- A write that a channel serves; one whose retries are exhausted leaves its unit with an invalid check word (Table 11-5). -/
def Mach.serveWrite (m : Mach) (n : Nat) (r : MemReq) : Mach :=
  match r.seen with
  | .retried k =>
    if k ≤ 4 then (m.addObj (0x4100 + n / 4) 6 1).wr r.addr r.data else (m.wr r.addr r.data).retryLost n r.addr r.cls
  | _ => m.wr r.addr r.data

/-- A request that reaches channel `n`: its address maps there, exists, and its stack is in service (R318, R320). -/
def Mach.reaches (m : Mach) (n : Nat) (r : MemReq) : Bool :=
  let d := dramAt r.addr
  4 * d.stack + d.chan = n && r.addr % 2 ^ 35 < stackUsable && m.inService d.stack && 1 ≤ r.cls && r.cls ≤ 4 &&
  (!r.write || (r.addr % 32 = 0 && r.addr % 64 + r.data.length ≤ 64))

/-- MEMORY_ACCESS: a data slot of a channel. Of the requests that wait, in arrival order, one is granted the slot and served, and a stack in
self-refresh wakes; in a slot that no request waits for the credit of class 1 grows (R324). -/
def doAccess (m : Mach) (n : Nat) (reqs : List MemReq) : Mach :=
  if n ≥ 192 || !m.inService (n / 4) then m
  else
    let rs := reqs.filter (m.reaches n)
    let (g, c) := (m.chan n).grant m.weights (rs.map (fun r => r.cls))
    let m := m.setChan n c
    match served g rs with
    | some r => if r.write then (m.touchStack (n / 4)).serveWrite n r else (m.touchStack (n / 4)).serveRead n r
    | none => m

/-- Three exhausted retries of a channel within 1 s (R327). -/
def Chan.worn (c : Chan) (rc : Nat) : Bool := match c.fails.getD 2 (rc + 1) with
  | t => decide (t ≤ rc) && decide (rc - t ≤ 25000000)

/-- CHANNEL_RETRAIN: the training of the channel repairs it, or its stack is lost (R327, R333). -/
def doRetrain (m : Mach) (n : Nat) (ok : Bool) : Mach :=
  if n < 192 && m.inService (n / 4) && (m.chan n).worn m.rc then
    let m := m.setChan n { m.chan n with fails := [] }
    if ok then m.setStackState (n / 4) 1 else m.loseStack (n / 4) 2 0
  else m

/-- A run with this control is destructive (R336). -/
def swDestructive (ctl : Nat) : Bool := fld ctl 6 5 = 0 || bit ctl 26 || fld ctl 28 27 ≠ 0

def Mach.swatchRuns (m : Mach) (n : Nat) : Bool := m.objBit (0x4400 + n) 5 0

/-- A swatch of the stack runs. -/
def Mach.swatchBusy (m : Mach) (s : Nat) : Bool := (List.range 4).any (fun ch => m.swatchRuns (4 * s + ch))

/-- A destructive swatch run is under way on a stack (R336): its control is that of its START. -/
def Mach.swatchOn (m : Mach) (s : Nat) : Bool :=
  (List.range 4).any (fun ch => m.swatchRuns (4 * s + ch) && swDestructive (m.chan (4 * s + ch)).swatch)

/-- SCRUB_READ: the patrol scrub reads a unit of a stack in service at class 4 (R329); what is found faults no job. -/
def doScrub (m : Mach) (addr : Nat) (err : EccSeen) : Mach :=
  let s := addr / 2 ^ 35
  if s ≥ 48 || m.stackState s ≠ 1 || addr % 2 ^ 35 ≥ stackUsable || !m.objBit (0x4100 + s) 1 1 || m.swatchOn s then m
  else match firstBad m.bad (addr / 64 * 64) 64 with
  | some h => m.eccLost 5 h 4
  | none =>
    match err with
    | .corrected => m.eccCorrected addr 4
    | .uncorrectable => m.eccLost 5 addr 4
    | .wrongTag => m.eccLost 5 addr 4
    | .linkCorrected => m.addObj (0x4100 + s) 5 1
    | .retried k => if k ≤ 4 then m.addObj (0x4100 + s) 6 1 else m.retryLostRead (4 * s + (dramAt addr).chan) addr 4
    | .clean => m

/-- The highest refresh rate that the dies of a stack have reported; one that has not reported asks for the nominal rate (4100h + s.0C). -/
def StackRt.rate (x : StackRt) : Nat := x.rates.foldl (fun a e => max a e.2) (if x.rates.length < 8 then 1 else 0)

/-- PER_BANK_REFRESH: the refresh runs, or is put off for a class-1 request that waits on its bank, at most four times (R325);
the die, by its channel and rank, reports the refresh rate it asks for, and the highest of the stack is shown (4100h + s.0C). -/
def doRefresh (m : Mach) (n bank : Nat) (class1 : Bool) (rate : Nat) : Mach :=
  if n ≥ 192 || bank ≥ 32 || m.stackState (n / 4) ≠ 1 then m
  else
    let c := m.chan n
    let x := m.srt (n / 4)
    let x := { x with rates := x.rates.put (n % 4 + 4 * (bank / 16)) (rate % 256) }
    let m := (m.setSrt (n / 4) x).setObj (0x4100 + n / 4) 0xC x.rate
    let k := c.late.get 0 bank
    if class1 && k < 4 then m.setChan n { c with late := c.late.put bank (k + 1) } else m.setChan n { c with late := c.late.del bank }

/-- SELF_REFRESH_ENTRY: a stack that no request has reached for the time in 4000h.05 enters; a request in the slot in which entry is due prevents
it, and so does a swatch that drives the stack (R334). -/
def doSleep (m : Mach) (s : Nat) : Mach :=
  if s < 48 && m.stackState s = 1 && m.obj 0x4000 5 ≠ 0 && m.rc ≥ (m.srt s).last + 25 * m.obj 0x4000 5 && !m.swatchBusy s then m.setStackState s 2
  else m

/-- SELF_REFRESH_EXIT (R334). -/
def doAwake (m : Mach) (s : Nat) : Mach := if s < 48 && m.stackState s = 2 then m.setStackState s 1 else m

/-! ## The swatch (R335, R336) -/

/-- A value of the swatch control that a write refuses (Table 11-7). -/
def swRefused (v : Nat) : Bool := fld v 15 13 > 2 || fld v 12 10 > 4 || fld v 9 7 > 5 || fld v 6 5 = 3

/-- What the swatch control keeps of a write: START and STOP read 0. -/
def swKept (v : Nat) : Nat := fld v 28 26 * 2 ^ 26 + fld v 23 5 * 2 ^ 5

/-- Pages of a run: from START for PAGES, to the last page of the channel. -/
def Mach.swPages (m : Mach) (n : Nat) : List Nat :=
  let a := m.obj (0x4400 + n) 2
  (List.range (min (m.obj (0x4400 + n) 3) (4194304 - a))).map (a + ·)

/-- A run writes the array: OP 00b, end to end (Table 11-7). -/
def swWrites (ctl : Nat) : Bool := fld ctl 6 5 = 0 && fld ctl 28 27 = 0

/-- PRBS31, the polynomial x^31 + x^28 + 1: the bit after a state, which becomes its lowest bit (R335). -/
def prbsNext (s : Nat) : Nat := 2 * s % 2 ^ 31 + (b2n (bit s 30) + b2n (bit s 27)) % 2

/-- `n` bytes of the sequence after a state, and the state after them; the sequence fills a byte from its lowest bit (log entry 242, DESIGN CHOICE). -/
def prbsBytes : Nat → Nat → List Byte × Nat
  | 0, s => ([], s)
  | n + 1, s =>
    let e := (List.range 8).foldl (fun (a : Nat × Nat) i => (a.1 + 2 ^ i * (prbsNext a.2 % 2), prbsNext a.2)) (0, s)
    let (bs, t) := prbsBytes n e.2
    (BitVec.ofNat 8 e.1 :: bs, t)

/-- The bursts of a run in its order: the device address of a data burst, none for a check burst, which RAW uses and no address names. The two check
bursts come last in a page, and a descending run goes back over the ascending one (log entry 242, DESIGN CHOICE). -/
def Mach.swBursts (m : Mach) (n : Nat) (ctl : Nat) : List (Option Nat) :=
  let up := (m.swPages n).flatMap (fun p =>
    (List.range 30).map (fun u => some (unitAddr (n / 4) (n % 4) p u)) ++ if bit ctl 26 then [none, none] else [])
  if fld ctl 12 10 = 1 then up.reverse else up

/-- The data of burst `k` of a run, and the state of the sequence after it: SEED repeated, a pattern inverted each burst, or PRBS31 seeded from
SEED. The other patterns and what the first burst of a checkerboard holds are not stated, nor is the sequence's place in an address order that
the rule leaves open (free values, log entry 242, DESIGN CHOICE). -/
def swBurst (ctl seed free k s : Nat) : List Byte × Nat :=
  let any (j : Nat) : List Byte := (List.range 64).map (fun i => BitVec.ofNat 8 (Config.freeNat (free + j) i))
  let data := fld ctl 9 7
  let addr := fld ctl 12 10
  if data = 0 then ((List.range 64).map (fun i => BitVec.ofNat 8 (seed / 2 ^ (8 * (i % 4)))), s)
  else if data = 2 then (if k % 2 = 0 then any 0 else (any 0).map (fun b => ~~~b), s)
  else if data = 3 && (addr = 0 || addr = 1 || addr = 4) then prbsBytes 64 s
  else (any (k + 1), s)

/-- What a run that writes leaves in the units of its pages: the pattern, which a march has inverted; every pass writes the same. With RAW also
their check words are written, and no half is known good (R335, log entry 242, DESIGN CHOICE). A stack in test has no check words (R322). -/
def Mach.swSpoil (m : Mach) (n ctl : Nat) : Mach :=
  let seed := m.obj (0x4400 + n) 4
  let free := m.free
  let bursts := m.swBursts n ctl
  let raw := bit ctl 26 && m.stackState (n / 4) ≠ 6
  let m := (bursts.foldl (fun (a : (Nat × Nat) × Mach) x =>
    let (bs, s) := swBurst ctl seed free a.1.1 a.1.2
    let bs := if fld ctl 12 10 = 4 then bs.map (fun b => ~~~b) else bs
    let c := match x with
      | none => a.2
      | some at' =>
        let c := a.2.wr at' bs
        let f := Config.freeNat (free + a.1.1 + 1) 64
        let c := if raw && f % 2 = 1 then c.spoil at' else c
        if raw && f / 2 % 2 = 1 then c.spoil (at' + 32) else c
    ((a.1.1 + 1, s), c)) ((0, seed % 2 ^ 31), m)).2
  { m with free := free + bursts.length + 1 }

/-- A destructive run may start: no partition holds the stack, and no swatch of it runs a destructive run with another LOOP. -/
def Mach.swFree (m : Mach) (n loop : Nat) : Bool :=
  (List.range 64).all (fun p => m.pstate p = 0 || !bit (m.obj (pix p) 4) (n / 4)) &&
  (List.range 4).all (fun ch =>
    let x := (m.chan (n / 4 * 4 + ch)).swatch
    !(m.swatchRuns (n / 4 * 4 + ch) && swDestructive x && fld x 28 27 ≠ loop))

/-- A stack the swatch can drive: in service, in self-refresh or in test. -/
def Mach.swReady (m : Mach) (s : Nat) : Bool := m.inService s || m.stackState s = 6

/-- SWATCH_START: a write of the swatch control with START = 1. -/
def doSwStart (n v : Nat) (m : Mach) : Mach :=
  if n ≥ 192 || !bit v 0 then m
  else if swRefused v then m.reply abortRange
  else if !m.swReady (n / 4) then m.reply abortState
  else if m.swatchRuns n then m.reply abortState
  else if swDestructive v && !m.swFree n (fld v 28 27) then (m.setField (0x4400 + n) 5 3 3 1).reply abortState
  else
    let m := ((m.setObj (0x4400 + n) 1 (swKept v)).setField (0x4400 + n) 5 3 0 1).reply 0
    let m := (m.setChan n { m.chan n with swatch := v, stopping := false }).touchStack (n / 4)
    if swWrites v then m.swSpoil n v else m

/-- SWATCH_STOP: a write with STOP = 1; a run is to end after its current burst, and what it met comes with SWATCH_DONE. -/
def doSwStop (n v : Nat) (m : Mach) : Mach :=
  if n ≥ 192 || bit v 0 || !bit v 1 then m
  else if swRefused v then m.reply abortRange
  else if m.offStacks.contains (n / 4) then m.reply abortState
  else
    let m := (m.setObj (0x4400 + n) 1 (swKept v)).reply 0
    if m.swatchRuns n then m.setChan n { m.chan n with stopping := true } else m

/-- SWATCH_DONE: a run has finished its number of passes, or stops (Table 11-6). Its last request was served until then (R334). -/
def doSwDone (m : Mach) (n : Nat) (x : SwatchSeen) : Mach :=
  if n ≥ 192 || !m.swatchRuns n || (fld (m.chan n).swatch 23 16 = 0 && !(m.chan n).stopping) then m
  else
    let i := 0x4400 + n
    let m := (m.setChan n { m.chan n with stopping := false }).touchStack (n / 4)
    let m := ((m.addObj i 6 x.bursts).addObj i 7 x.errBursts).addObj i 8 x.errBits
    if x.errBursts = 0 then m.setField i 5 2 0 2
    else (m.setField i 5 2 0 4).setObj i 9 (leNat (padTo 16 (x.first.take 12)))

/-! ## The meanings -/

/-- MEMORY_ACCESS (R318, R324, R326, R328). -/
def execMemoryAccess (chan : Nat) (reqs : List MemReq) (s : State) : Result := s.step (fun m => doAccess m chan reqs)

/-- CHANNEL_RETRAIN (R327). -/
def execChannelRetrain (chan : Nat) (ok : Bool) (s : State) : Result := s.step (fun m => doRetrain m chan ok)

/-- SCRUB_READ (R329). -/
def execScrubRead (addr : Nat) (err : EccSeen) (s : State) : Result := s.step (fun m => doScrub m addr err)

/-- PER_BANK_REFRESH (R325). -/
def execPerBankRefresh (chan bank : Nat) (class1 : Bool) (rate : Nat) (s : State) : Result :=
  s.step (fun m => doRefresh m chan bank class1 rate)

/-- SELF_REFRESH_ENTRY (R334). -/
def execSelfRefreshEntry (stack : Nat) (s : State) : Result := s.step (fun m => doSleep m stack)

/-- SELF_REFRESH_EXIT (R334). -/
def execSelfRefreshExit (stack : Nat) (s : State) : Result := s.step (fun m => doAwake m stack)

/-- SWATCH_START (R336). -/
def execSwatchStart (path : Path) (chan v : Nat) (s : State) : Result := s.step (fun m => m.byPath path (doSwStart chan v))

/-- SWATCH_STOP (Table 11-7). -/
def execSwatchStop (path : Path) (chan v : Nat) (s : State) : Result := s.step (fun m => m.byPath path (doSwStop chan v))

/-- SWATCH_DONE (R335). -/
def execSwatchDone (chan : Nat) (seen : SwatchSeen) (s : State) : Result := s.step (fun m => doSwDone m chan seen)

end Sys2Proof.Machine
end

