-- ==== Sys2Proof/Machine/Clocks.lean ====
section
/-! DEFINITION. REFCLK, the master PLLs and the sources of the islands (R447 to R457), clock gating (R458). -/

namespace Sys2Proof.Machine

/-! ## Clock status (Table 16-9) -/

/-- An island exists: a cluster or fabric island of a bound-off cluster or die does not run (R28). A die whose 16 clusters were bound off one by one,
with no entry for the die itself, counts as a bound-off die here (log entry 237, DESIGN CHOICE). -/
def Mach.islandThere (m : Mach) (i : Nat) : Bool :=
  i < 180 && !(i < 128 && m.offClusters.contains i) &&
  !(128 ≤ i && i < 136 && (List.range 16).all (fun c => m.offClusters.contains (16 * (i - 128) + c)))

/-- A domain is powered (Table 16-1): a die's fabric while a cluster of it is on or a stack or link of it is in service, a link quad while one of its
links is enabled and has not failed. -/
def Mach.powered (m : Mach) (i : Nat) : Bool :=
  (m.island i).on &&
  (if 128 ≤ i && i < 136 then
    let d := i - 128
    (List.range 16).any (fun c => (m.island (16 * d + c)).on) || (List.range 6).any (fun s => m.inService (6 * d + s)) ||
      (List.range 8).any (fun l => m.linkState (8 * d + l) = 2)
   else if 136 ≤ i && i < 152 then
    (List.range 4).any (fun l => m.objBit (0x4840 + (4 * (i - 136) + l)) 1 0 && m.linkState (4 * (i - 136) + l) ≠ 4)
   else true)

/-- The idle state a domain shows: a memory group is in G2 while no stack of it is in service or in test, all four asleep or gone; a media engine
while it has nothing in hand and nothing queued (Table 16-1, R362). -/
def Mach.gstate (m : Mach) (i : Nat) : Nat :=
  if 152 ≤ i && i < 164 then
    if (List.range 4).all (fun s => m.stackState (4 * (i - 152) + s) = 2 || m.stackState (4 * (i - 152) + s) = 5) then 2 else 0
  else if 164 ≤ i && i < 174 then
    match m.media.get? (i - 164) with
    | some x => if x.run.isNone && x.queue.isEmpty then 2 else 0
    | none => 2
  else (m.island i).gst

/-- Islands that run from their ring oscillator (2210h.03). -/
def Mach.safeIslands (m : Mach) : List Nat := (List.range 180).filter (fun i => (m.island i).src = 3)

/-- A native switch to a source (Table 16-2). -/
def Mach.switchTo (m : Mach) (i src : Nat) : Mach :=
  let x := m.island i
  m.setIsland i { x with src := src, pend := none, swerr := false, switches := x.switches + 1 }

/-! ## REFCLK (R449) -/

/-- Masters that are locked hold; masters that hold are locked. -/
def Mach.setHold (m : Mach) (hold : Bool) : Mach :=
  let v := m.obj 0x2210 1
  let masters := fld v 3 2 ||| fld v 5 4
  m.setObj 0x2210 1 (setFld (setFld v 3 2 (if hold then 0 else masters)) 5 4 (if hold then masters else 0))

/-- REFCLK_LOSS: both masters hold; the loss is counted; nothing stops. -/
def doRefclkLoss (m : Mach) : Mach :=
  if m.objBit 0x2210 1 1 then m
  else (((m.setHold true).setField 0x2210 1 1 0 2).addObj32 0x2210 4 1).health

/-- REFCLK_RETURN: REFCLK qualifies again and the masters leave holdover. -/
def doRefclkReturn (m : Mach) : Mach :=
  if !m.objBit 0x2210 1 1 then m else (m.setHold false).setField 0x2210 1 1 0 1

/-- Every core of a partition is held where it stands, and nothing it had under way goes on (R450). -/
def Mach.hold (m : Mach) (p : Nat) : Mach :=
  let m := (m.stopCores p false).stopCores p true
  (m.coresOf p).foldl (fun (a : Mach) c =>
    let k := a.core c
    a.setCore c { k with host := { k.host.stop with dma := [] }, guest := { k.guest.stop with dma := [] }, arr := { k.arr.stop (a.obj (0x6180 + p) 1) with drains := [] } }) m

/-- MASTER_LOCK_LOSS: the islands of a master go to the other one; with both lost, every island to its ring oscillator, links and ports
down, partitions stopped (R450). -/
def doMasterLoss (m : Mach) (which : Nat) : Mach :=
  let src := which + 1
  if which > 1 || !m.srcReady src then m
  else
    let m := (m.setBit 0x2210 1 (2 + which) false).setBit 0x2210 1 (4 + which) false
    let m := m.health
    let is := (List.range 180).filter (fun i => (m.island i).src = src)
    if m.srcReady (3 - src) then is.foldl (fun (a : Mach) i => a.switchTo i (3 - src)) m
    else
      let m := ((List.range 180).filter (fun i => (m.island i).src ≠ 3)).foldl (fun (a : Mach) i => a.switchTo i 3) m
      let m := ((List.range 64).filter (fun l => m.linkState l ≠ 4)).foldl (fun (a : Mach) l => a.setLinkState l 0) m
      let m := (m.setHost 0 { m.host 0 with up := false }).setHost 1 { m.host 1 with up := false }
      let m := { m with can := { m.can with nmt := 0, usdo := none } }
      ((List.range 64).filter m.formed).foldl (fun (a : Mach) p => a.hold p) m

/-! ## Source switches (R455, R456) -/

/-- SOURCE_SWITCH: a write of 2400h + i.01. -/
def doSourceSwitch (i v : Nat) (m : Mach) : Mach :=
  if i ≥ 180 then m
  else if !m.islandThere i then m.reply abortState
  else
    let src := if v % 4 = 0 then islandSource i else v % 4
    let x := m.island i
    if m.obj 0x2210 2 = 1 && !m.srcReady src then m.reply abortState
    else
      let m := (m.setObj (0x2400 + i) 1 (v % 4)).reply 0
      if src = x.src then m.setIsland i { x with pend := none }
      else if m.srcReady src then m.switchTo i src
      else m.setIsland i { x with pend := some (src, m.rc), swerr := false }

/-- PENDING_SWITCH_START: the target has become ready. -/
def doPendingStart (m : Mach) (i : Nat) : Mach :=
  match (m.island i).pend with
  | some (src, _) => if m.srcReady src then m.switchTo i src else m
  | none => m

/-- SWITCH_TIMEOUT: the target is not ready after 1 ms. -/
def doSwitchTimeout (m : Mach) (i : Nat) : Mach :=
  match (m.island i).pend with
  | some (src, t0) => if !m.srcReady src && m.rc ≥ t0 + 25000 then m.setIsland i { m.island i with pend := none, swerr := true } else m
  | none => m

/-- SYNTH_LOCK_LOSS: the island goes on from its ring oscillator (R457). -/
def doSynthLoss (m : Mach) (i : Nat) : Mach :=
  if !m.islandThere i || (m.island i).src = 3 then m else (m.switchTo i 3).health

/-- CLOCK_GATE: an island with no work stops its clock; this changes timing alone (R458). -/
def doGate (m : Mach) (i : Nat) : Mach :=
  let x := m.island i
  if m.islandThere i && x.on && !x.gated then m.setIsland i { x with gated := true, gateT0 := m.rc } else m

/-! ## The meanings -/

/-- REFCLK_LOSS (R449). -/
def execRefclkLoss (s : State) : Result := s.step doRefclkLoss

/-- REFCLK_RETURN (R449). -/
def execRefclkReturn (s : State) : Result := s.step doRefclkReturn

/-- MASTER_LOCK_LOSS (R450). -/
def execMasterLockLoss (master : Nat) (s : State) : Result := s.step (fun m => doMasterLoss m master)

/-- SOURCE_SWITCH (R455, R456). -/
def execSourceSwitch (path : Path) (island v : Nat) (s : State) : Result := s.step (fun m => m.byPath path (doSourceSwitch island v))

/-- PENDING_SWITCH_START (R455). -/
def execPendingSwitchStart (island : Nat) (s : State) : Result := s.step (fun m => doPendingStart m island)

/-- SWITCH_TIMEOUT (R455). -/
def execSwitchTimeout (island : Nat) (s : State) : Result := s.step (fun m => doSwitchTimeout m island)

/-- SYNTH_LOCK_LOSS (R457). -/
def execSynthLockLoss (island : Nat) (s : State) : Result := s.step (fun m => doSynthLoss m island)

/-- CLOCK_GATE (R458). -/
def execClockGate (island : Nat) (s : State) : Result := s.step (fun m => doGate m island)

end Sys2Proof.Machine
end

