-- ==== Sys2Proof/Machine/Power.lean ====
section
/-! DEFINITION. Idle states (R459 to R461), operating points (R463 to R467), the power limiter and the thermal rules (R468 to R470),
energy windows (R471), gauges and replans (R479 to R487), and the health samples (R443). -/

namespace Sys2Proof.Machine

/-! ## Idle states -/

/-- The caches and the update engine of a partition have nothing in hand in cluster `g` (Table 16-3). -/
def Mach.enginesIdle (m : Mach) (p g : Nat) : Bool :=
  !(m.part p).sweep && (m.part p).radds.isEmpty &&
  (m.part p).caches.all (fun e => e.2.entry.isNone || (match m.cacheAt p e.1 with | some c => c.g ≠ g | none => true))

/-- Every core of a cluster is halted or waits, its arrays, engines and data movements are idle, no marker message is on its way, and no guest job
runs on its partition (Table 16-3). -/
def Mach.clusterIdle (m : Mach) (p g : Nat) : Bool :=
  !m.jobRuns p true && (m.ports.get [] g).isEmpty && m.enginesIdle p g &&
  (List.range 16).all (fun c =>
    let k := m.core (16 * g + c)
    k.host.run ≠ .running && k.host.dma.isEmpty && k.guest.dma.isEmpty && k.arr.queue.isEmpty && k.arr.drains.isEmpty)

/-- No resident or guest job runs. -/
def Mach.noJob (m : Mach) (p : Nat) : Bool := (m.resJob p).isNone && (m.guestJob p).isNone

/-- The wake latency a partition tolerates now, in ns (R460). -/
def Mach.wakeLimit (m : Mach) (p : Nat) : Nat := if m.noJob p then m.obj (0x2500 + p) 5 else m.obj (0x2500 + p) 4

/-- Wake latency of G3 in ns: 50 µs and the restore of the image (R460). -/
def Mach.g3Latency (m : Mach) (p : Nat) : Nat :=
  50000 + cdiv (10 * m.saveImg p) (max 1 (min (1536 * (m.clusters p).length) (800 * (m.saveStacks p).length)))

/-- G3 is open to a partition (R460). -/
def Mach.g3Open (m : Mach) (p : Nat) : Bool :=
  (m.freeSlot p).isSome && m.g3Latency p ≤ 800000 && m.g3Latency p ≤ m.obj (0x2500 + p) 5

/-- An idle state entered by the island of cluster `g`, when its condition holds and no deeper one was reached before. -/
def Mach.enterIdle (m : Mach) (g st : Nat) (cond : Nat → Bool) : Mach :=
  match m.partOf g with
  | none => m
  | some p => if g < 128 && m.formed p && (m.island g).on && (m.island g).gst < st && cond p then m.setIsland g { m.island g with gst := st } else m

/-- No job has run on a partition for `n` rc (Table 16-3). -/
def Mach.noJobFor (m : Mach) (p n : Nat) : Bool := m.noJob p && m.rc ≥ (m.part p).jobT0 + n

/-- G1_ENTRY: 4 µs idle, 2 µs tolerated. -/
def doG1 (m : Mach) (g : Nat) : Mach := m.enterIdle g 1 (fun p => m.clusterIdle p g && m.rc ≥ m.acts.get 0 g + 100 && 2000 ≤ m.wakeLimit p)

/-- G2_ENTRY: 1 ms with no job, 50 µs tolerated. -/
def doG2 (m : Mach) (g : Nat) : Mach := m.enterIdle g 2 (fun p => m.noJobFor p 25000 && m.clusterIdle p g && 50000 ≤ m.wakeLimit p)

/-- A job of no client: what the header of a G3 image holds in place of a job's values (log entry 132, DESIGN CHOICE). -/
def noJobDesc (p : Nat) : Job := jobOfDesc 0 p 0 0 (zeros 128)

/-- G3_ENTRY: the partition's memories are written to a free save slot, and every cluster of it turns off (R461; the model takes the whole
partition at once, log entry 132, DESIGN CHOICE). -/
def doG3 (m : Mach) (g : Nat) : Mach :=
  match m.partOf g with
  | none => m
  | some p =>
    match m.freeSlot p with
    | none => m
    | some slot =>
      if !m.formed p || (m.part p).g3.isSome || !m.noJobFor p 2500000 || !m.g3Open p || !(m.clusters p).all (m.clusterIdle p) || !m.canDispatch p then m
      else
        let k := (m.part p).resident.getD
          { prkver := 0, nclus := 0, ncore := 0, minlink := 0, recs := [], streams := [], image := [], nshape := 0, place := [], funcs := [], nu := 0,
            keep := [], left := [], addr := 0, region := 0 }
        let keep := { m.saveSlot p with cores := [] }
        let m := ({ m.touchSaves p with free := m.free + 1 }).writeSave p slot 0 (m.saveHeader p (noJobDesc p) k)
        let m := ((m.clusters p).zipIdx).foldl (fun (a : Mach) x => a.saveRank p slot x.2 x.1) m
        let m := m.modPart p (fun q => { q with saves := q.saves.put slot keep, g3 := some slot })
        (m.clusters p).foldl (fun (a : Mach) c => a.setIsland c { a.island c with gst := 3 }) m

/-- Every cluster island of a partition runs again. -/
def Mach.wakeAll (m : Mach) (p : Nat) : Mach := (m.clusters p).foldl (fun (a : Mach) c => a.setIsland c { a.island c with gst := 0, gated := false }) m

/-- A partition wakes from G3: its memories come back from the image; an unreadable image ends the job that waits FAULT 11h (R461). -/
def Mach.wakeG3 (m : Mach) (p slot : Nat) : Mach :=
  let m := m.touchSaves p
  let lost := m.slotLost p slot
  let bad := lost.isSome
  let m := if bad then m else ((m.clusters p).zipIdx).foldl (fun (a : Mach) x =>
    (a.loadRank p slot x.2 x.1 0 ((List.range 16).map (fun c =>
      let k := a.core (16 * x.1 + c)
      { core := 16 * x.1 + c, ctx := { k.host with fetch := false }, arr := k.arr, fwUsed := k.fwUsed })))) m
  let m := (m.modPart p (fun q => { q with saves := q.saves.del slot, g3 := none })).wakeAll p
  if !bad then m
  else
    let m := m.lostAny 2 lost
    let m := { m with hwWait := m.hwWait ++ [(0x11, p, 0xFFFF)] }
    match (m.chosen p resKind).or (m.chosen p guestKind) with
    | some j => m.endRun j 1 0x11
    | none => m

/-- IDLE_WAKE: a wake message or a dispatch brings an island out of its idle state. -/
def doWake (m : Mach) (i : Nat) : Mach :=
  let x := m.island i
  if i ≥ 180 || !x.on then m
  else
    let m' := m.setIsland i { x.ungate m.rc with gst := 0 }
    if x.gst = 3 && i < 128 then
      match m.partOf i with
      | some p => (match (m.part p).g3 with
        | some slot => m.wakeG3 p slot
        | none => m')
      | none => m'
    else m'

/-! ## Operating points (R463 to R467) -/

/-- Frequency in MHz and voltage in mV of an operating point in the running and the shipped table. -/
def Mach.opMhz (m : Mach) (k : Nat) : Nat := m.field 0x2200 (k + 1) 31 16
def Mach.shipMv (m : Mach) (k : Nat) : Nat := m.field 0x2201 (k + 1) 15 0

def Gauge.init : Gauge := { samples := [], hot := false, margin := List.replicate 8 0, prov := true }

def Mach.gauge (m : Mach) (i : Nat) : Gauge := m.gauges.get Gauge.init i

def Mach.setGauge (m : Mach) (i : Nat) (g : Gauge) : Mach := { m with gauges := m.gauges.put i g }

/-- Shipped voltage of a fixed-clock island, and its clock in MHz (Table 16-1). -/
def fixedMv (i : Nat) : Nat := if 164 ≤ i && i < 174 then 700 else if i = 177 || i = 179 then 800 else 750

def Mach.fixedMhz (m : Mach) (i : Nat) : Nat :=
  if i < 152 then 1250
  else if i < 164 then m.dataRate / 8
  else if i < 174 then 1000
  else if i < 176 then 400
  else if i = 177 || i = 179 then 1600 else 1000

/-- V(i, k) in mV: shipped voltage, margin and the provisional 20 mV of the last replan (R484). -/
def Mach.islandMv (m : Mach) (i k : Nat) : Nat :=
  let g := m.gauge i
  (if i < 136 then m.shipMv k else fixedMv i) + g.margin.getD (if i < 136 then k else 0) 0 + if g.prov then 20 else 0

/-- PICOT_EN is 0 for a cluster island: its voltage is 20 mV higher (R95). -/
def Mach.droop (m : Mach) (i : Nat) : Bool :=
  i < 128 && (match m.partOf i with
    | some p => !m.objBit (0x6180 + p) 1 0
    | none => false)

/-- The highest operating point whose voltage stays within 0.95 V while R95 applies (R463). -/
def Mach.droopCap (m : Mach) (i : Nat) : Nat :=
  if !m.droop i then 7 else ((List.range 8).reverse.find? (fun k => m.islandMv i k + 20 ≤ 950)).getD 0

/-- The cap on a die (R470): the highest operating point of its clusters, and whether it is still falling. -/
def Mach.dieLimit (m : Mach) (d : Nat) : Nat × Bool := let v := m.dieCap.get 14 d; (v / 2, v % 2 = 1)

def Mach.tripped (m : Mach) : Bool := m.objBit 0x2280 2 3

/-- The operating point an island moves to (R464, R466, R470). -/
def Mach.opTarget (m : Mach) (i : Nat) : Nat :=
  if m.tripped then 0
  else if i < 128 then
    match m.partOf i with
    | some p => min (min (m.obj (0x2500 + p) 2) (m.island i).cap) (min (m.dieLimit (i / 16)).1 (m.droopCap i))
    | none => 0
  else
    let d := i - 128
    let gs := (List.range 64).filter (fun p => m.formed p && (m.clusters p).any (fun g => g / 16 = d))
    let busy := (List.range 6).any (fun s => m.inService (6 * d + s)) || (List.range 8).any (fun l => m.linkState (8 * d + l) = 2)
    gs.foldl (fun a p => max a (m.obj (0x2500 + p) 2)) (if busy then 3 else 0)

/-- The lowest operating point among the cluster islands of a partition. -/
def Mach.lowestOp (m : Mach) (p : Nat) : Nat := (m.clusters p).foldl (fun a g => min a (m.island g).op) 7

/-- OP_MOVE: an island moves to its target; a move up needs a slack of 10 ps confirmed, or the island stays with GAUGE_FAIL (R465, R466,
R482). -/
def doOpMove (m : Mach) (i : Nat) (slack : Int) : Mach :=
  let x := m.island i
  let b := m.opTarget i
  if i ≥ 136 || !m.islandThere i || !m.powered i || x.op = b then m
  else if b < x.op || slack ≥ 10 then m.setIsland i { x with op := b }
  else
    let m := { m.setIsland i { x with gaugeFail := true, cap := x.op } with wantReplan := true }
    match m.partOf i with
    | some p => if i < 128 then m.setObj (0x2500 + p) 2 (min (m.obj (0x2500 + p) 2) (m.lowestOp p)) else m
    | none => m

/-! ## The power limiter (R468) -/

/-- A formed partition as the limiter sees it: number, request, weight, estimates in mW. -/
structure Load where
  p : Nat
  req : Nat
  w : Nat
  est : List Nat
  deriving DecidableEq, Repr

def Load.at' (x : Load) (k : Nat) : Int := x.est.getD k 0

/-- est(p, k) lies within the share left x W(p) / total. -/
def Load.fits (x : Load) (left : Int) (total k : Nat) : Bool := x.at' k * total ≤ left * x.w

def wSum (xs : List Load) : Nat := xs.foldl (fun a x => a + x.w) 0

/-- Water-filling: partitions whose request lies within their share leave with it; what is left, and who stays open. -/
def waterFill : Nat → Int → List Load → Int × List Load
  | 0, left, xs => (left, xs)
  | n + 1, left, xs =>
    let t := wSum xs
    let done := xs.filter (fun x => x.fits left t x.req)
    if done.isEmpty then (left, xs)
    else waterFill n (done.foldl (fun a x => a - x.at' x.req) left) (xs.filter (fun x => !x.fits left t x.req))

/-- The highest point within a share, else 0. -/
def Load.share (x : Load) (left : Int) (total : Nat) : Nat :=
  ((List.range (x.req + 1)).reverse.find? (fun k => x.fits left total k)).getD 0

/-- Raise a grant while its steps fit what is left. -/
def Load.spend (x : Load) : Nat → Nat → Int → Nat × Int
  | 0, k, left => (k, left)
  | n + 1, k, left =>
    let d := x.at' (k + 1) - x.at' k
    if k < x.req ∧ d ≤ left then x.spend n (k + 1) (left - d) else (k, left)

/-- The grants of the routine of R468, in ascending partition number. -/
def grants (avail : Int) (xs : List Load) : AMap Nat :=
  if xs.foldl (fun a x => a + x.at' x.req) 0 ≤ avail then xs.map (fun x => (x.p, x.req))
  else
    let (left, op) := waterFill (xs.length + 1) avail xs
    let t := wSum op
    let base := op.map (fun x => (x, x.share left t))
    let rest := base.foldl (fun (a : Int) e => a - e.1.at' e.2) left
    let spent := base.foldl (fun (acc : AMap Nat × Int) e =>
      let (k, l) := e.1.spend 8 e.2 acc.2
      (acc.1.put e.1.p k, l)) ([], rest)
    xs.map (fun x => (x.p, spent.1.get x.req x.p))

/-- The timed events by kind (`Mach.every`). -/
def everyLimiter : Nat := 0
def everyShed : Nat := 1
def everyCap : Nat := 2
def everyHealth : Nat := 3
def everyReplan : Nat := 4
def everyHeartbeat : Nat := 5
def everyTest : Nat := 6
def everyTpdo (t : Nat) : Nat := 8 + t

/-- LIMITER_COMPUTE: every 1 ms, while no trip is asserted. -/
def doLimiter (m : Mach) (env : LimitEnv) : Mach :=
  if m.tripped || !m.online then m
  else
    let ps := (List.range 64).filter m.formed
    let xs := ps.map (fun p => { p := p, req := m.obj (0x2500 + p) 1, w := m.obj (0x2500 + p) 3, est := env.est.getD p [] : Load })
    let poth : Int := xs.foldl (fun (a : Int) x => a - x.at' (m.obj (0x2500 + x.p) 2)) env.power
    let gs := grants (1000 * m.obj 0x2280 1 - poth) xs
    let m := xs.foldl (fun (a : Mach) x =>
      let cap := (a.clusters x.p).foldl (fun c g => min c (min (a.island g).cap (a.droopCap g))) 7
      let g := min (gs.get x.req x.p) cap
      let a := a.setObj (0x2500 + x.p) 2 g
      if g < x.req then (a.addObj32 (0x2500 + x.p) 7 1).warn 4 else a) m
    let low := ps.any (fun p => m.obj (0x2500 + p) 2 < m.obj (0x2500 + p) 1)
    (m.setField 0x2280 2 1 0 (b2n low)).setObj 0x2280 4 (min 65535 (poth / 1000).toNat)

/-- Compute islands that run. -/
def Mach.computeIslands (m : Mach) : List Nat := (List.range 136).filter (fun i => m.islandThere i && m.powered i)

/-- FAST_SHED: input power over LIM by more than 5% moves every compute island above OP0 down one point (R469). -/
def doShed (m : Mach) (watts : Nat) : Mach :=
  if !m.online then m
  else if 100 * watts ≤ 105 * m.obj 0x2280 1 then m.setBit 0x2280 2 1 false
  else
    let m := m.computeIslands.foldl (fun (a : Mach) i => a.setIsland i { a.island i with op := (a.island i).op - 1 }) m
    (m.setBit 0x2280 2 1 true).addObj32 0x2280 3 1

/-! ## Thermal rules (R470) -/

/-- THERMAL_CAP: every 10 ms a die above 2006h.01 is capped one point lower, until it has cooled by 2.0 °C; then the cap is lifted point by
point. -/
def doThermalCap (m : Mach) (temps : List Int) : Mach :=
  if !m.online then m
  else
  let thr : Int := toSigned 16 (m.obj 0x2006 1)
  let m := (List.range 8).foldl (fun (a : Mach) d =>
    let t := temps.getD d 0
    let (cap, falling) := a.dieLimit d
    let top := (List.range 16).foldl (fun x c => max x (a.island (16 * d + c)).op) 0
    if t > thr ∨ (falling ∧ t > thr - 20) then { a with dieCap := a.dieCap.put d (2 * ((min cap top) - 1) + 1) }
    else if cap < 7 then { a with dieCap := a.dieCap.put d (2 * (cap + 1)) } else a) m
  m.setBit 0x2280 2 2 ((List.range 8).any (fun d => (m.dieLimit d).1 < 7))

/-- The hottest die: its number and temperature. -/
def hottest (temps : List Int) : Nat × Int :=
  temps.zipIdx.foldl (fun (a : Nat × Int) e => if e.1 > a.2 then (e.2, e.1) else a) (0, temps.headD 0)

/-- The detail of a temperature's EMCY frame (Table 15-7). -/
def tempDetail (x : Nat × Int) : Nat := ofSigned 16 x.2 + 2 ^ 24 * x.1

/-- THERMAL_TRIP: a junction at 105.0 °C asserts THERM_TRIP_N and takes every compute island to OP0. -/
def doTrip (m : Mach) (temps : List Int) : Mach :=
  if m.tripped || !temps.any (fun t => t ≥ 1050) then m
  else
    let m := ((m.setBit 0x2280 2 3 true).warn 3).emcySet .trip (tempDetail (hottest temps))
    m.computeIslands.foldl (fun (a : Mach) i => a.setIsland i { a.island i with op := 0 }) m

/-- THERMAL_TRIP_RELEASE: every junction at or below 95.0 °C. -/
def doTripRelease (m : Mach) (temps : List Int) : Mach :=
  if m.tripped && temps.all (fun t => t ≤ 950) then (m.setBit 0x2280 2 3 false).emcyClear .trip else m

/-! ## Energy per MAC (R471) -/

def Mach.workSum (m : Mach) : Nat := m.work.foldl (fun a e => a + e.2) 0

/-- ENERGY_WINDOW: at the boundary of the window in force, and not before it, its energy, work, quotient in pJ and validity are published, and the next
window begins there with WIN as it stands. The quotient of a window without work is not stated: a free value. -/
def doWindow (m : Mach) (mJ : Nat) : Mach :=
  let edge := m.winT0 + 25000 * m.winLen
  if m.rc < edge then m
  else
  let n := m.workSum - m.winWork
  let (f, m') := m.fresh
  let (q, m) := if n = 0 then (f % 2 ^ 32, m') else (rne32 (div32 (.ofInt (mJ * 10 ^ 9)) (.ofInt n)), m)
  let m := (((m.setObj 0x2300 2 mJ).setObj 0x2300 3 n).setObj 0x2300 4 q).addObj32 0x2300 5 1
  let m := m.setObj 0x2300 6 (b2n (mJ ≥ 500 * m.winLen))
  { m with winT0 := edge, winLen := m.obj 0x2300 1, winWork := m.workSum }

/-! ## Gauges (R479 to R482) -/

/-- The least slack of a class, in ps; 7FFFh without a sample. -/
def Gauge.least (g : Gauge) (c : Nat) : Int := (g.samples.filter (fun x => x.cls = c)).foldl (fun a x => min a x.slack) 32767

/-- The frequency of an island in MHz; an island on its ring oscillator runs at some 150 to 200 MHz, a free value (R453). -/
def Mach.islandMhz (m : Mach) (i : Nat) : Nat :=
  let x := m.island i
  if !m.powered i then 0
  else if x.src = 3 then 150 + Config.freeNat m.free i % 51
  else if i < 136 then m.opMhz x.op else m.fixedMhz i

/-- The rc of the last 10 ms in which an island's clock was gated. -/
def Mach.gatedRc (m : Mach) (i : Nat) : Nat :=
  let x := m.island i
  ((if x.gated then [(x.gateT0, m.rc)] else []) ++ x.gates).foldl (fun a g => a + (g.2 - max g.1 (m.rc - loadSpan))) 0

/-- The load class of a sample (R480): 0 L, 1 M, 2 H, from the share of array-ic with real work in a cluster island, of ungated time in any other. The
array-ic are taken at the frequency of the sample, which is `ring` on the ring oscillator, and time before cast-on as time without work and without
gating (log entry 243, DESIGN CHOICE). -/
def Mach.loadClass (m : Mach) (i ring : Nat) : Nat :=
  let mhz := if (m.island i).src = 3 then max 150 (min ring 200) else m.islandMhz i
  let (a, b) :=
    if i < 128 then
      (((m.island i).beats.filter (fun x => m.rc ≤ x.1 + loadSpan)).foldl (fun a x => a + x.2) 0, 16 * 10000 * mhz)
    else (loadSpan - m.gatedRc i, loadSpan)
  if 10 * a < 3 * b then 0 else if 10 * a > 7 * b then 2 else 1

/-- GAUGE_SAMPLE: every 10 s a sample is recorded, and those older than 24 h are dropped; the first H sample asks for a replan (R483). -/
def doGauge (m : Mach) (i : Nat) (slack : Int) (ring : Nat) : Mach :=
  let cls := m.loadClass i ring
  if !m.islandThere i || !m.powered i || (m.gauge i).samples.any (fun x => m.rc < x.t + 250000000) then m
  else
    let g := m.gauge i
    let x : Sample := { slack := slack, op := (m.island i).op, t := m.rc, cls := cls }
    let ss := x :: g.samples.filter (fun y => m.rc ≤ y.t + 86400 * 25000000)
    let g' : Gauge := { g with samples := ss, hot := g.hot || cls = 2 }
    let m := { m.setGauge i g' with wantReplan := m.wantReplan || (cls = 2 && !g.hot) }
    let b := 0x7100 + i
    let m := (m.setObj b 1 (ofSigned 16 slack)).setObj b 2 (cls + 16 * (x.op % 16) + 256 * (m.rc / 25000000 % 2 ^ 24))
    [0, 1, 2].foldl (fun (a : Mach) c => a.setObj b (3 + c) (ofSigned 16 (g'.least c))) m

/-! ## Replans (R484 to R487) -/

/-- a = 5 ceil(max(0, 30 - g) / 4) mV, for g = s + 10^6 / f - 10^6 / fm ps. -/
def marginOf (s : Int) (f fm : Nat) : Nat :=
  let num : Int := (30 - s) * f * fm - 1000000 * fm + 1000000 * f
  if num ≤ 0 then 0 else 5 * ((num + 4 * f * fm - 1) / (4 * f * fm)).toNat

/-- The class a replan takes, and its sample of least slack; none without samples (the margin is then 0, log entry 151, DEDUCED). -/
def Gauge.worst (g : Gauge) : Option Sample :=
  let has (c : Nat) : Bool := g.samples.any (fun x => x.cls = c)
  let c := if has 2 then 2 else if has 1 then 1 else 0
  (g.samples.filter (fun x => x.cls = c)).foldl (fun (a : Option Sample) x => match a with
    | some y => if x.slack < y.slack then some x else some y
    | none => some x) none

/-- Margins of a compute island over a table of frequencies. -/
def Gauge.margins (g : Gauge) (freq : List Nat) : List Nat :=
  match g.worst with
  | none => List.replicate 8 0
  | some x => freq.map (fun f => marginOf x.slack f (freq.getD x.op 1))

/-- The replan's tables: frequencies settled, and the voltage V(i, k) of each island. -/
structure Plan where
  freq : List Nat
  volt : List (Nat × List Nat)
  deriving DecidableEq, Repr

/-- The largest voltage at an operating point. -/
def Plan.top (x : Plan) (k : Nat) : Nat := x.volt.foldl (fun a e => max a (e.2.getD k 0)) 0

/-- The reserve used, in hundredths of a watt times 750² (R485). -/
def Plan.used (x : Plan) : Int :=
  x.volt.foldl (fun (a : Int) e => a + (if e.1 < 128 then 925 else 700) * ((e.2.getD 5 750 : Int) * e.2.getD 5 750 - 562500)) 0

/-- One run of the routine of R484. -/
def Mach.planWith (m : Mach) (freq : List Nat) : Plan :=
  { freq := freq, volt := ((List.range 136).filter m.islandThere).map (fun i =>
      let g := m.gauge i
      (i, (g.margins freq).zipIdx.map (fun a => m.shipMv a.2 + a.1 + if g.hot then 0 else 20))) }

/-- The frequencies of R485: OP5 to OP7 lowered while the reserve is over 130 W, an OP lowered while its voltage is over 0.95 V. -/
def Mach.settlePlan (m : Mach) : Nat → List Nat → Plan
  | 0, freq => m.planWith freq
  | n + 1, freq =>
    let x := m.planWith freq
    if x.used > 13000 * 562500 then m.settlePlan n (freq.zipIdx.map (fun f => if f.2 ≥ 5 then f.1 - 25 else f.1))
    else if (List.range 8).any (fun k => x.top k > 950) then
      m.settlePlan n (freq.zipIdx.map (fun f => if x.top f.2 > 950 then f.1 - 25 else f.1))
    else x

/-- REPLAN: margins of every island, the running table, the reserve; GAUGE_FAIL caps are cleared; AGEING when OP5 falls below 1100 MHz or a
fixed-clock island passes its limit of 60 mV (R484 to R487). -/
def Mach.replan (m : Mach) : Mach :=
  let x := m.settlePlan 64 ((List.range 8).map m.opMhz)
  let fixed := (List.range' 136 44).map (fun i =>
    let g := m.gauge i
    (i, (match g.worst with | some s => 5 * cdiv (30 - s.slack).toNat 4 | none => 0), if g.hot then 0 else 20))
  let m := (List.range 8).foldl (fun (a : Mach) k => a.setObj 0x2200 (k + 1) (2 ^ 16 * x.freq.getD k 0 + x.top k)) m
  let m := x.volt.foldl (fun (a : Mach) e =>
    let g := a.gauge e.1
    let mg := g.margins x.freq
    let a := a.setGauge e.1 { g with margin := mg, prov := !g.hot }
    let a := a.setIsland e.1 { a.island e.1 with gaugeFail := false, cap := 7 }
    (a.setObj (0x7100 + e.1) 6 (min 255 (mg.getD 5 0))).setObj (0x7100 + e.1) 7 (b2n (!g.hot))) m
  let m := fixed.foldl (fun (a : Mach) e =>
    let g := a.gauge e.1
    (a.setGauge e.1 { g with margin := [e.2.1], prov := !g.hot }).setObj (0x7100 + e.1) 7 (b2n (!g.hot))) m
  let m := (m.setObj 0x7020 4 (x.used / (100 * 562500)).toNat).addObj32 0x7020 5 1
  let m := { m with wantReplan := false }
  if x.freq.getD 5 0 < 1100 || fixed.any (fun e => e.2.1 + e.2.2 > 60) then m.replacement 3 else m

/-- REPLAN: the active supervisor replans when it is asked to, and every 7020h.01 seconds (R483). -/
def doReplan (m : Mach) : Mach :=
  if !m.online then m
  else if m.wantReplan then { m with timers := m.timers.put everyReplan m.rc }.replan
  else m.every everyReplan (25000000 * m.obj 0x7020 1) Mach.replan

/-- REPLAN_NOW: a write of 1 to 7020h.06. -/
def doReplanNow (v : Nat) (m : Mach) : Mach := if v = 1 then { m.reply 0 with wantReplan := true } else m.reply abortRange

/-! ## Health samples (R443, Table 15-15) -/

/-- HEALTH_SAMPLE: the sampled objects, the warnings whose conditions hold, and the conditions 3100h and 4200h. -/
def doHealth (m : Mach) (e : HealthEnv) : Mach :=
  let h := hottest e.temps
  let m := (List.range 10).foldl (fun (a : Mach) d => a.setObj 0x2005 (d + 1) (ofSigned 16 (e.temps.getD d 0))) m
  let m := (((m.setObj 0x2001 0 (ofSigned 16 h.2)).setObj 0x2002 0 (e.tenMv % 65536)).setObj 0x2003 0 (e.watts % 65536)).setObj 0x2004 0 (e.tenMa % 65536)
  let m := { m with energy := m.energy + e.watts }
  let hot : Bool := h.2 > toSigned 16 (m.obj 0x2006 1)
  let on (i : Nat) (b : Bool) (a : Mach) : Mach := if b then a.warn i else a
  let m := on 0 (e.tenMv < 4200) (on 1 (e.tenMv > 5800) (on 2 hot (on 3 m.tripped (on 4 (m.objBit 0x2280 2 0) (on 5 (m.obj 0x7000 1 = 1) m)))))
  let m := if e.tenMv < 4000 || e.tenMv > 6000 then m.emcySet .vin e.tenMv else m.emcyClear .vin
  if hot then m.emcySet .junction (tempDetail h) else m.emcyClear .junction

/-! ## The meanings -/

/-- G1_ENTRY (R459). -/
def execG1Entry (g : Nat) (s : State) : Result := s.step (fun m => doG1 m g)

/-- G2_ENTRY (R459). -/
def execG2Entry (g : Nat) (s : State) : Result := s.step (fun m => doG2 m g)

/-- G3_ENTRY (R460, R461). -/
def execG3Entry (g : Nat) (s : State) : Result := s.step (fun m => doG3 m g)

/-- IDLE_WAKE (R461). -/
def execIdleWake (island : Nat) (s : State) : Result := s.step (fun m => doWake m island)

/-- OP_MOVE (R465, R466). -/
def execOpMove (island : Nat) (slack : Int) (s : State) : Result := s.step (fun m => doOpMove m island slack)

/-- LIMITER_COMPUTE (R468). -/
def execLimiterCompute (env : LimitEnv) (s : State) : Result := s.step (fun m => m.every everyLimiter 25000 (fun m => doLimiter m env))

/-- FAST_SHED (R469). -/
def execFastShed (watts : Nat) (s : State) : Result := s.step (fun m => m.every everyShed 500 (fun m => doShed m watts))

/-- THERMAL_CAP (R470). -/
def execThermalCap (temps : List Int) (s : State) : Result := s.step (fun m => m.every everyCap 250000 (fun m => doThermalCap m temps))

/-- THERMAL_TRIP (R470). -/
def execThermalTrip (temps : List Int) (s : State) : Result := s.step (fun m => doTrip m temps)

/-- THERMAL_TRIP_RELEASE (R470). -/
def execThermalTripRelease (temps : List Int) (s : State) : Result := s.step (fun m => doTripRelease m temps)

/-- ENERGY_WINDOW (R471). -/
def execEnergyWindow (mJ : Nat) (s : State) : Result := s.step (fun m => doWindow m mJ)

/-- GAUGE_SAMPLE (R479). -/
def execGaugeSample (island : Nat) (slack : Int) (ring : Nat) (s : State) : Result := s.step (fun m => doGauge m island slack ring)

/-- REPLAN (R484). -/
def execReplan (s : State) : Result := s.step doReplan

/-- REPLAN_NOW (R483). -/
def execReplanNow (path : Path) (v : Nat) (s : State) : Result := s.step (fun m => m.byPath path (doReplanNow v))

/-- HEALTH_SAMPLE (R443). -/
def execHealthSample (env : HealthEnv) (s : State) : Result := s.step (fun m => m.every everyHealth 25000 (fun m => doHealth m env))

end Sys2Proof.Machine
end

