-- ==== Sys2Proof/Machine/Lifeline.lean ====
section
/-! DEFINITION. Lifelines: what one holds and where it lies (R488, R491), the take at a round's close (R489, R490), the stream to the partner
(R492 to R495), and the partner's side of it. -/

namespace Sys2Proof.Machine

/-! ## Layout (R488, R491, Table 17-1) -/



/-- Bytes of one of the four slots. -/
def Mach.lifeCap (m : Mach) (p : Nat) : Nat := (m.lifeStacks p).length * (m.obj (0x7200 + p) 4 / 4)

/-- Key of byte `x` of slot `slot`: block b lies in lifeline stack b mod NL. -/
def Mach.lifeKey (m : Mach) (p slot x : Nat) : Nat :=
  let ss := m.lifeStacks p
  let b := x / 4096
  let s := ss.getD (b % max 1 ss.length) 0
  let area := m.obj (0x7200 + p) 4
  let top := stackUsable - (if (m.saveStacks p).contains s then m.saveArea p else 0)
  stackBase s + (top - area) + slot * (area / 4) + b / max 1 ss.length * 4096 + x % 4096

/-- Read bytes of a slot, block by block, from a block boundary on. -/
def Mach.lifeRead (m : Mach) (p slot off n : Nat) : List Byte :=
  (List.range (cdiv n 4096)).flatMap (fun i => m.rd (m.lifeKey p slot (off + 4096 * i)) (min 4096 (n - 4096 * i)))

/-- The bytes from `off` to `off + n` of a slot, wherever they begin. -/
def Mach.lifeBytes (m : Mach) (p slot off n : Nat) : List Byte :=
  (m.lifeRead p slot (off / 4096 * 4096) (off % 4096 + n)).drop (off % 4096)

/-- Write bytes into a slot; what begins inside a block ends in it. -/
def Mach.lifeWrite (m : Mach) (p slot off : Nat) (bs : List Byte) : Mach :=
  ((chunks 4096 (bs.length / 4096 + 1) bs).zipIdx).foldl (fun (a : Mach) c => a.put (a.lifeKey p slot (off + 4096 * c.2)) c.1) m

/-- The first unreadable half of a slot below `n`. -/
def Mach.lifeLost (m : Mach) (p slot n : Nat) : Option Nat :=
  (List.range (cdiv n 4096)).findSome? (fun i => m.firstBad (m.lifeKey p slot (4096 * i)) (min 4096 (n - 4096 * i)))

/-- Some block of a slot below `n` is unreadable. -/
def Mach.lifeBad (m : Mach) (p slot n : Nat) : Bool := (m.lifeLost p slot n).isSome

/-- The state image of an UPDATE tile: key and bytes. -/
def Mach.tileSource (m : Mach) (p : Nat) (k : Pricking) (it : Nat × Nat) : Nat × Nat :=
  match k.rbuf it.1 with
  | some r => let e := m.rbEntry p r it.2; (m.bufKey p (teSbuf e) (64 * teSoff e), imageBytes (m.tileOpt p e))
  | none => (0, 0)

/-- WFMT of an UPDATE tile, and the key of that byte. -/
def Mach.tileFmt (m : Mach) (p : Nat) (k : Pricking) (it : Nat × Nat) : Nat × Nat :=
  match k.rbuf it.1 with
  | some r => (teWfmt (m.rbEntry p r it.2), m.rbEntryKey p r it.2 + 3)
  | none => (0, 0)

/-- Offset of the CRC table, and of the state images. -/
def lifeCrcOff (n : Nat) : Nat := 4096 + alignUp n 64
def lifeImgOff (fmt n : Nat) : Nat := lifeCrcOff n + if fmt = 2 then alignUp (4 * n) 64 else 0

/-- LSIZE of the installed pricking in a format. -/
def Mach.lifeSize (m : Mach) (p fmt : Nat) (k : Pricking) : Nat :=
  k.updateTiles.foldl (fun a it => a + (m.tileSource p k it).2) (lifeImgOff fmt k.updateTiles.length)

/-- Fields of a header. -/
def lhFmt (h : List Byte) : Nat := leAt h 4 1
def lhState (h : List Byte) : Nat := leAt h 6 1
def lhRound (h : List Byte) : Nat := leAt h 8 8
def lhCtr (h : List Byte) : Nat := leAt h 24 8
def lhTiles (h : List Byte) : Nat := leAt h 44 4
def lhSize (h : List Byte) : Nat := leAt h 48 8

/-- HDRCRC: over bytes 0 to 4031 with STATE taken as 00h. -/
def headerCrc (h : List Byte) : Nat := crc32c ((putAt h 6 [0]).take 4032)

/-- The body of a lifeline: WFMT table, CRC table in format 02h, state images. -/
def Mach.lifeBody (m : Mach) (p fmt : Nat) (k : Pricking) : List Byte :=
  let ts := k.updateTiles
  let imgs := ts.map (fun it => let s := m.tileSource p k it; m.rd s.1 s.2)
  padTo (alignUp ts.length 64) (ts.map (fun it => BitVec.ofNat 8 (m.tileFmt p k it).1)) ++
  (if fmt = 2 then padTo (alignUp (4 * ts.length) 64) (imgs.flatMap (fun i => leBytes 4 (crc32c i))) else []) ++ imgs.flatten

/-- CONSUMED of the open input stream; all ones without one. -/
def Mach.inpos (m : Mach) (p : Nat) : Nat :=
  match (m.part p).inStream with
  | some st => m.rdNat (bsStat st.spec + 8) 8
  | none => 2 ^ 64 - 1

/-- The header of a lifeline taken now, over its body, with STATE = 01h (Table 17-1). -/
def Mach.lifeHeader (m : Mach) (p fmt : Nat) (k : Pricking) (body : List Byte) : List Byte :=
  let ctr := match m.resJob p with | some j => j.ctr | none => 0
  let rec16 := (List.range 16).flatMap (fun i => let s := m.recipeSt p i; leBytes 8 s.step ++ leBytes 4 s.p1 ++ leBytes 4 s.p2)
  let head := leBytes 4 0x4C49464E ++ leBytes 1 fmt ++ leBytes 1 (m.obj 0x6070 3) ++ leBytes 1 0 ++ leBytes 1 0 ++
    leBytes 8 (m.obj (0x6480 + p) 2) ++ leBytes 8 (m.obj (0x6080 + p) 1) ++ leBytes 8 ctr ++ leBytes 8 (m.inpos p) ++
    leBytes 4 k.prkver ++ leBytes 4 k.updateTiles.length ++ leBytes 8 (4096 + body.length) ++ leBytes 2 m.ownAddr ++ leBytes 1 p ++
    leBytes 1 0 ++ leBytes 2 k.updates.length ++ leBytes 2 0 ++ leBytes 4 (if fmt = 1 then crc32c body else 0) ++ zeros 60
  let dir := padTo 1024 (k.updates.flatMap (fun r => leBytes 2 (rbId r) ++ leBytes 2 (rbTiles r)))
  let h := padTo 4096 (head ++ rec16 ++ dir)
  putAt (putAt h 4032 (leBytes 4 (headerCrc h))) 6 [1]

/-- ROUND of the complete lifeline a slot holds. -/
def Mach.lifeRound (m : Mach) (p slot : Nat) : Option Nat :=
  let h := m.rd (m.lifeKey p slot 0) 64
  if m.lifeCap p ≥ 4096 && !m.lifeBad p slot 4096 && leAt h 0 4 = 0x4C49464E && lhState h = 1 then some (lhRound h) else none

/-- The slot of two that holds the newest complete lifeline: the one of the highest ROUND (log entry 154, DEDUCED). -/
def Mach.newestOf (m : Mach) (p a b : Nat) : Option Nat :=
  match m.lifeRound p a, m.lifeRound p b with
  | some x, some y => some (if x ≥ y then a else b)
  | some _, none => some a
  | none, some _ => some b
  | none, none => none

/-- The slot of two that a new lifeline goes into. -/
def Mach.otherOf (m : Mach) (p a b : Nat) : Nat := if m.newestOf p a b = some a then b else a

/-- ROUND of the newest complete lifeline of two slots, 0 for none. -/
def Mach.newestRound (m : Mach) (p a b : Nat) : Nat := ((m.newestOf p a b).bind (fun s => m.lifeRound p s)).getD 0

/-! ## The take (R489, R490) -/

def Mach.setLife (m : Mach) (p : Nat) (f : Life → Life) : Mach := m.modPart p (fun q => { q with life := f q.life })

def Mach.life (m : Mach) (p : Nat) : Life := (m.part p).life

/-- INTERVAL has passed since the last take began. -/
def Mach.lifeLate (m : Mach) (p : Nat) : Bool := m.rc ≥ (m.life p).t0 + 25000000 * m.obj (0x7200 + p) 1

/-- A lifeline is due at the close that has brought the counter to `n`. -/
def Mach.lifeDue (m : Mach) (p n : Nat) : Bool :=
  let al := m.obj (0x7200 + p) 2
  if al = 0 then (m.life p).due || m.lifeLate p else n % al = 0

/-- A take that cannot be carried through, or is skipped, is counted. -/
def Mach.lifeMissed (m : Mach) (p : Nat) : Mach := m.addObj32 (0x7200 + p) 0xC 1

/-- The newest local round and HOLD as the slots stand. -/
def Mach.lifeHold (m : Mach) (p : Nat) : Mach :=
  (m.setObj (0x7200 + p) 6 (m.newestRound p 0 1)).setBit (0x7200 + p) 7 0 (m.newestOf p 0 1).isSome

/-- Take a due lifeline into the local slot that does not hold the newest complete one: skipped while that slot streams, not taken when it
does not fit, abandoned at an unreadable source. -/
def Mach.takeLife (m : Mach) (p : Nat) : Mach :=
  match (m.part p).resident with
  | none => m
  | some k =>
    let fmt := m.pv p
    let slot := m.otherOf p 0 1
    if m.lifeSize p fmt k > m.lifeCap p then (m.setBit (0x7200 + p) 7 3 true).raise (576 + p)
    else if (m.life p).stream = some slot then m.lifeMissed p
    else
      let m := (m.setLife p (fun l => { l with t0 := m.rc, due := false })).wipe (m.lifeKey p slot 0) 4096
      let m := m.touch ((m.lifeKey p slot 0, 1) :: k.updateTiles.map (m.tileSource p k))
      match m.badRead (k.updateTiles.map (m.tileSource p k)) with
      | some b => ((m.lostRead 4 b).lifeMissed p).lifeHold p
      | none =>
        let body := m.lifeBody p fmt k
        let h := m.lifeHeader p fmt k body
        let m := ((m.lifeWrite p slot 4096 body).lifeWrite p slot 0 h).setLife p (fun l => { l with ready := some slot })
        let m := (m.lifeHold p).addObj32 (0x7200 + p) 0xB 1
        (m.setBit (0x7200 + p) 7 3 false).setBit (0x7200 + p) 7 5 false

/-- ROUND_CLOSE: every UPDATE tile of a partition has been updated for its round, while the job runs or after its last stream has halted; the close
sequence, and a due lifeline (R266, R489). A tile-table entry that reads uncorrectable for a digest is fault 11h (R282). -/
def doRoundClose (m : Mach) (p : Nat) : Mach :=
  if p ≥ 64 || m.switching p || !m.roundFull p then m
  else match (m.part p).resident.bind (fun k => if m.digestDue p (m.obj (0x6480 + p) 2 + 1) then m.digestLost p k else none) with
  | some ((id, t), h) => (m.lostRead 2 h).engineFault p id t 0x11
  | none =>
    let m := m.closeRound p
    if m.online && m.lifeDue p (m.obj (0x6480 + p) 2) then m.takeLife p else m

/-- LIFELINE_INTERVAL_EXPIRY: with ALIGN 0 a lifeline is due from now on; else LATE is set and the event vector raised (R489). -/
def doLifeExpiry (m : Mach) (p : Nat) : Mach :=
  if !m.formed p || !m.online || !m.lifeLate p then m
  else if m.obj (0x7200 + p) 2 = 0 then m.setLife p (fun l => { l with due := true })
  else if m.objBit (0x7200 + p) 7 5 then m
  else (m.setBit (0x7200 + p) 7 5 true).raise (576 + p)

/-! ## Messages to the partner (R492, R493) -/

/-- PARTNER of a partition: fabric address and partition, when VALID. -/
def Mach.partner (m : Mach) (p : Nat) : Option (Nat × Nat) :=
  let v := m.obj (0x7200 + p) 5
  if bit v 31 then some (fld v 11 0, fld v 21 16) else none

/-- A LIFE message of partition `p` (Table 17-2). -/
def Mach.lifeMsg (m : Mach) (p fa fp fbuf fmt : Nat) (data : List Byte) : Mach × Msg :=
  let (mid, m1) := m.newMid
  (m1, { msgBlank 5 (m.pv p) fa m.ownAddr fp p 0 0 (0x2000 + p) mid with fbuf := fbuf, arg := fmt % 256, data := data })

/-- Send a LIFE message of one slot: ROUND and STATUS; the code that stops it. -/
def Mach.lifeSend (m : Mach) (p fa fp fbuf fmt round status : Nat) : Nat × Mach :=
  let (m1, x) := m.lifeMsg p fa fp fbuf fmt (leBytes 8 round ++ leBytes 1 status ++ zeros 7)
  match m1.sendMsg x with
  | (code, _, m2) => (code, m2)

/-- Send a slot's lifeline as data messages, then a commit; the code that stops it, and the first-hop link. -/
def Mach.lifeStreamOut (m : Mach) (p slot fa fp fbuf : Nat) : Nat × Nat × Mach :=
  let h := m.rd (m.lifeKey p slot 0) 4096
  let m := m.touch ((List.range (cdiv (lhSize h) 4096)).map (fun i => (m.lifeKey p slot (4096 * i), 1)))
  let n := packetBytes (m.pv p)
  let (m1, x) := m.lifeMsg p fa fp fbuf (lhFmt h) []
  let xs := (List.range (cdiv (lhSize h) n)).map (fun i =>
    let d := m.lifeBytes p slot (n * i) (min n (lhSize h - n * i))
    let o := n * i / 64
    { x with foff := o % 2 ^ 24, fmk := o / 2 ^ 24, lenq := d.length / 64 - 1, data := d })
  match m1.sendAll xs with
  | (0, l, m2) => ((m2.lifeSend p fa fp 0xFFE (lhFmt h) (lhRound h) 0).1, l, (m2.lifeSend p fa fp 0xFFE (lhFmt h) (lhRound h) 0).2)
  | r => r

/-- A stream fails: local lifelines go on (Table 17-6). -/
def Mach.mirrorFail (m : Mach) (p : Nat) : Mach :=
  ((m.setLife p (fun l => { l with stream := none, ready := none, hop := 64 })).setBit (0x7200 + p) 7 2 false).setBit (0x7200 + p) 7 4 true

/-- LIFELINE_STREAM: the lifeline last taken goes to the partner, from byte 0 upward, and then a commit (R494). -/
def doLifeStream (m : Mach) (p : Nat) : Mach :=
  let l := m.life p
  match m.partner p, l.ready with
  | some (fa, fp), some slot =>
    if !m.formed p || l.stream.isSome || l.frog.isSome then m
    else
      let h := m.rd (m.lifeKey p slot 0) 4096
      if m.lifeBad p slot (lhSize h) then (m.lostAny 4 (m.lifeLost p slot (lhSize h))).mirrorFail p
      else match m.lifeStreamOut p slot fa fp 0 with
        | (0, k, m') => ((m'.addObj (0x4880 + p) 4 (lhSize h)).setLife p (fun l => { l with stream := some slot, ready := none, hop := k })).setBit (0x7200 + p) 7 2 true
        | (_, _, m') => m'.mirrorFail p
  | _, _ => m

/-! ## The partner's side (R494) -/

/-- The sender of a LIFE message is the receiving partition's partner (R306, R492). -/
def Mach.fromPartner (m : Mach) (x : Msg) : Bool := m.formed x.dpart && m.partner x.dpart = some (x.sfa, x.spart)

/-- The format is one the receiving partition takes: its PV or PV - 1 (R306). -/
def Mach.takesFmt (m : Mach) (p fmt : Nat) : Bool := fmt ≠ 0 && (fmt = m.pv p || fmt + 1 = m.pv p)

/-- Byte offset of a data message. -/
def lifeOff (x : Msg) : Nat := 64 * (x.foff + 2 ^ 24 * x.fmk)

/-- Write data into a slot; byte 0 begins a lifeline, which is incomplete until it is committed. -/
def Mach.lifeLand (m : Mach) (p slot off : Nat) (bs : List Byte) : Mach :=
  if off + bs.length > m.lifeCap p then m
  else
    let bs := if off = 0 then putAt bs 6 [0] else bs
    let k := m.lifeKey p slot off
    match m.badWrite [(k, bs)] with
    | some b => m.lostRead 4 b
    | none => m.put k bs

/-- LIFELINE_DATA: written into the partner slot that does not hold the newest complete partner lifeline; a message of no kind that Table
17-2 lists is malformed. -/
def doLifeData (l : Nat) (x : Msg) (m : Mach) : Mach :=
  let p := x.dpart
  let m := m.taken l x
  if x.fbuf ≠ 0 then m.discard x
  else if !m.fromPartner x || !m.takesFmt p (x.arg % 256) then m
  else
    let off := lifeOff x
    let m := if off = 0 then m.setLife p (fun f => { f with filling := some (m.otherOf p 2 3) }) else m
    match (m.life p).filling with
    | some slot => m.lifeLand p slot off x.data
    | none => m

/-- The body of the lifeline in a slot passes its checks: BODYCRC, or the CRC table. -/
def Mach.lifeBodyOk (m : Mach) (p slot : Nat) (h : List Byte) : Bool :=
  let n := lhTiles h
  if lhFmt h = 1 then crc32c (m.lifeRead p slot 4096 (lhSize h - 4096)) = leAt h 64 4
  else
    let crcs := m.lifeBytes p slot (lifeCrcOff n) (4 * n)
    let body := lhSize h - lifeImgOff 2 n
    let three := body - 32768 * n
    -- the sizes of the images follow from their CRCs: each is 32,768 or 49,152 bytes
    let step (a : Option Nat) (i : Nat) : Option Nat := a.bind (fun o =>
      let c := leAt crcs (4 * i) 4
      if o + 49152 ≤ lhSize h && crc32c (m.lifeBytes p slot o 49152) = c then some (o + 49152)
      else if o + 32768 ≤ lhSize h && crc32c (m.lifeBytes p slot o 32768) = c then some (o + 32768) else none)
    three % 16384 = 0 && (List.range n).foldl step (some (lifeImgOff 2 n)) = some (lhSize h)

/-- What a commit finds in a slot: a STATUS of Table 17-3. -/
def Mach.commitStatus (m : Mach) (p slot round : Nat) : Nat :=
  let h := m.rd (m.lifeKey p slot 0) 4096
  if m.lifeCap p < 4096 then 1
  else if m.lifeBad p slot 4096 || leAt h 0 4 ≠ 0x4C49464E || headerCrc h ≠ leAt h 4032 4 || lhRound h ≠ round then 2
  else if lhSize h > m.lifeCap p then 1
  else if m.lifeBad p slot (lhSize h) || !m.lifeBodyOk p slot h then 2 else 0

/-- The lifeline in a slot is complete. -/
def Mach.lifeComplete (m : Mach) (p slot : Nat) : Mach := m.put (m.lifeKey p slot 0 + 6) [1]

/-- A commit of the partner's stream is checked and acknowledged. -/
def Mach.commitStream (m : Mach) (x : Msg) : Mach :=
  let p := x.dpart
  let round := leAt x.data 0 8
  let ack (a : Mach) (st : Nat) : Mach := (a.lifeSend p x.sfa x.spart 0xFFF (x.arg % 256) round st).2
  if !m.fromPartner x then ack m 5
  else if !m.takesFmt p (x.arg % 256) then ack m 4
  else match (m.life p).filling with
    | none => ack m 2
    | some slot =>
      let st := m.commitStatus p slot round
      let m := m.setLife p (fun f => { f with filling := none })
      if st = 0 then
        let m := m.lifeComplete p slot
        ack (m.setObj (0x7200 + p) 0xA (m.newestRound p 2 3)) 0
      else ack m st

/-- RESTORE_REQUEST: the partner's lifeline of the ROUND asked for, or the newest, goes back as restore data and a commit (R501). -/
def doRestoreReq (l : Nat) (x : Msg) (m : Mach) : Mach :=
  let p := x.dpart
  let m := m.taken l x
  let round := leAt x.data 0 8
  let ack (st : Nat) : Mach := (m.lifeSend p x.sfa x.spart 0xFFF (x.arg % 256) round st).2
  if !m.fromPartner x then ack 5
  else
    let slot := if round = 0 then m.newestOf p 2 3 else [2, 3].find? (fun s => m.lifeRound p s = some round)
    match slot with
    | none => ack 3
    | some s =>
      let h := m.rd (m.lifeKey p s 0) 4096
      if m.lifeBad p s (lhSize h) then ((m.lostAny 4 (m.lifeLost p s (lhSize h))).lifeSend p x.sfa x.spart 0xFFF (x.arg % 256) round 3).2
      else if !(lhFmt h = x.arg % 256 || lhFmt h + 1 = x.arg % 256) then ack 4
      else (m.lifeStreamOut p s x.sfa x.spart 1).2.2

/-! ## The meanings -/

/-- ROUND_CLOSE (R266, R277, R489 to R491). -/
def execRoundClose (part : Nat) (s : State) : Result := s.step (fun m => doRoundClose m part)

/-- LIFELINE_INTERVAL_EXPIRY (R489). -/
def execLifelineIntervalExpiry (part : Nat) (s : State) : Result := s.step (fun m => doLifeExpiry m part)

/-- LIFELINE_STREAM (R494). -/
def execLifelineStream (part : Nat) (s : State) : Result := s.step (fun m => doLifeStream m part)

/-- LIFELINE_DATA (R494, R306); this row also takes LIFE messages of no known kind. -/
def execLifelineData (link : Nat) (msg : Msg) (s : State) : Result :=
  s.step (fun m => onMsg m link msg (msg.op = 5 && msg.fbuf ≠ 1 && msg.fbuf ≠ 0xFFC && msg.fbuf < 0xFFE) (doLifeData link msg))

/-- RESTORE_REQUEST (R501). -/
def execRestoreRequest (link : Nat) (msg : Msg) (s : State) : Result :=
  s.step (fun m => onMsg m link msg (msg.op = 5 && msg.fbuf = 0xFFC) (doRestoreReq link msg))

end Sys2Proof.Machine
end

