-- ==== Sys2Proof/Machine/Recovery.lean ====
section
/-! DEFINITION. Recovery: frogs (R499 to R502) and their source, hardware faults with their tests and bindings (R496, R497, R35 to R38), bridge
failures (R27) and link losses (R290). -/

namespace Sys2Proof.Machine

/-! ## Recovery status (Table 17-13) -/

/-- Recovery state of a partition. -/
def Mach.recState (m : Mach) (p : Nat) : Nat := m.field (0x7200 + p) 0x10 15 12

def Mach.setRecState (m : Mach) (p st : Nat) : Mach := m.setField (0x7200 + p) 0x10 15 12 st

/-- A frog under way has failed: its FAIL code, and the state it leaves. -/
def Mach.frogFail (m : Mach) (p fail st : Nat) : Mach :=
  (((m.setLife p (fun l => { l with frog := none })).setField (0x7200 + p) 0x10 2 0 4).setField (0x7200 + p) 0x10 11 8 fail).setRecState p st

/-! ## The source of a frog (R495, R501) -/

/-- A format is readable: the firmware speaks its link version or the next (R495). -/
def Mach.readsFmt (m : Mach) (fmt : Nat) : Bool :=
  (fmt = 1 || fmt = 2) && (bit (m.obj 0x4800 1) (fmt - 1) || bit (m.obj 0x4800 1) fmt)

/-- What keeps the lifeline of a slot from being restored, as a FAIL code of Table 17-13: 0 nothing, 1 a check, 3 PRKVER, 4 the format. -/
def Mach.lifeCheck (m : Mach) (p slot : Nat) (k : Pricking) : Nat :=
  let h := m.rd (m.lifeKey p slot 0) 4096
  if m.lifeBad p slot 4096 || leAt h 0 4 ≠ 0x4C49464E then 1
  else if !m.readsFmt (lhFmt h) then 4
  else if headerCrc h ≠ leAt h 4032 4 || leAt h 5 1 ≠ m.obj 0x6070 3 || lhSize h > m.lifeCap p || m.lifeBad p slot (lhSize h) then 1
  else if leAt h 40 4 ≠ k.prkver then 3
  else if lhTiles h ≠ k.updateTiles.length || lhSize h ≠ m.lifeSize p (lhFmt h) k || !m.lifeBodyOk p slot h then 1 else 0

/-- The local slot that holds the lifeline asked for: ROUND 0 asks for the newest. -/
def Mach.localLife (m : Mach) (p round : Nat) : Option Nat :=
  if round = 0 then m.newestOf p 0 1 else [0, 1].find? (fun s => m.lifeRound p s = some round)

/-! ## Writing a lifeline back (R500, R488) -/

/-- Write one tile's state image and WFMT back, and derive its working copy again (R271, with r = ROUND - 1 and the recorded CTR). -/
def Mach.restoreTile (m : Mach) (p : Nat) (k : Pricking) (it : Nat × Nat) (fmt round key : Nat) (img : List Byte) : Mach :=
  let s := m.tileSource p k it
  let m := (m.put s.1 img).wrNat (m.tileFmt p k it).2 1 fmt
  match k.rbuf it.1 with
  | none => m
  | some r =>
    let e := m.rbEntry p r it.2
    match k.recipe (teRid e) with
    | none => m
    | some rc =>
      if teWbuf e = 0xFFFF || fmt = 0xFF then m
      else
        let wv := (tileVals (img.take 16384)).map val32
        let c := tileImage fmt (bit (teFlags e) 1) (wcRounds it.1 (round - 1) it.2 key (leAt rc 48 1)) wv
        (m.put (m.bufKey p (teWbuf e) (64 * teWoff e)) c.1).setFlags p c.2

/-- Write every tile back, in ascending (ID, tile) order; `off` is the offset of the next image in the slot. -/
def Mach.restoreTiles (m : Mach) (p slot : Nat) (k : Pricking) (h : List Byte) : Mach :=
  let key := srKey (leAt h 16 8) (lhCtr h)
  let fmts := m.lifeRead p slot 4096 (lhTiles h)
  (k.updateTiles.zipIdx.foldl (fun (a : Nat × Mach) it =>
    let n := (a.2.tileSource p k it.1).2
    (a.1 + n, a.2.restoreTile p k it.1 (leAt fmts it.2 1) (lhRound h) key (a.2.lifeBytes p slot a.1 n)))
    (lifeImgOff (lhFmt h) (lhTiles h), m)).2

/-- Recipe states of a header. -/
def Mach.restoreRecipes (m : Mach) (p : Nat) (h : List Byte) : Mach :=
  ((List.range 16).foldl (fun (a : Mach) i =>
    a.setRecipe p i { a.recipeSt p i with step := leAt h (128 + 16 * i) 8, p1 := leAt h (136 + 16 * i) 4, p2 := leAt h (140 + 16 * i) 4 }) m).eachRecipe
      p recipeValues

/-- Steps 4 to 6 of a frog over the lifeline in a slot; `used` is its source (Table 17-13). -/
def Mach.frogFinish (m : Mach) (p slot used : Nat) (k : Pricking) : Mach :=
  let h := m.rd (m.lifeKey p slot 0) 4096
  let m := (m.restoreTiles p slot k h).restoreRecipes p h
  let m := (m.setObj (0x6480 + p) 2 (lhRound h)).setObj (0x6080 + p) 1 (leAt h 16 8)
  let m := (m.setObj (0x7200 + p) 0xD (lhCtr h)).setObj (0x7200 + p) 0xE (leAt h 32 8)
  let m := m.modPart p (fun q => { q with rbufs := [], radds := [], closed := 0, sweep := false, life := { q.life with frog := none } })
  let m := (((m.setBit (0x6480 + p) 0xF 8 false).censusWipe p).setBit (0x6080 + p) 2 4 false).addObj32 (0x6100 + p) 6 1
  let m := ((m.setField (0x7200 + p) 0x10 2 0 2).setField (0x7200 + p) 0x10 7 6 used).setField (0x7200 + p) 0x10 11 8 0
  (m.setRecState p 0).raise (576 + p)

/-! ## Frogs (R499, R500) -/

/-- A take or a stream is abandoned (Table 17-6). -/
def Mach.dropStream (m : Mach) (p : Nat) : Mach :=
  if (m.life p).stream.isSome then m.mirrorFail p else m.setLife p (fun l => { l with ready := none })

/-- Every PTBUF of the resident pricking is zeroed (R251). -/
def Mach.wipePts (m : Mach) (p : Nat) (k : Pricking) : Mach :=
  (k.caches).foldl (fun (a : Mach) r => match a.buf p false k (leAt r 14 2) with
    | some b => a.wipe b.key b.size
    | none => a) m

/-- The resident pricking is installed again from its image; U of the caches is unchanged (R251). Answers the loader's code. -/
def Mach.reinstall (m : Mach) (p : Nat) (k : Pricking) : Nat × Mach :=
  let m0 := m.unloadResident p
  let r := m0.loadResult p false false k.addr k.region
  if r.code ≠ 0 then (r.code, m.setObj (0x6400 + p) 1 (r.code + 256 * (r.first % 65536)))
  else (0, (m0.install p false (m.rd k.addr (imLen (m.rd k.addr 128))) k.addr k.region).setObj (0x6440 + p) 7 (m.obj (0x6440 + p) 7))

/-- The source is looked for: the local slots, then the partner (R501). -/
def Mach.frogSource (m : Mach) (p round src prior : Nat) (k : Pricking) : Mach :=
  let own : Option Nat := if src = 2 then none else m.localLife p round
  let code := match own with | some s => m.lifeCheck p s k | none => 1
  let m := match own with
    | some s => m.lostAny 2 (m.lifeLost p s (lhSize (m.rd (m.lifeKey p s 0) 4096) |> min (m.lifeCap p)))
    | none => m
  match own, code with
  | some s, 0 => m.frogFinish p s 1 k
  | _, _ =>
    match (if src = 1 then none else m.partner p) with
    | none => m.frogFail p code prior
    | some (fa, fp) =>
      match m.lifeSend p fa fp 0xFFC (m.pv p) round 0 with
      | (0, m') => m'.setLife p (fun l => { l with frog := some ⟨round, m'.otherOf p 0 1, m.rc, 0, prior⟩ })
      | (_, m') => m'.frogFail p code prior

/-- A frog accepted: jobs settled, streams closed, the pricking installed again, the lifeline looked for. -/
def Mach.frogGo (m : Mach) (p round src : Nat) (k : Pricking) : Mach :=
  let prior := m.recState p
  let m := (m.setObj (0x7200 + p) 0x10 (m.obj (0x7200 + p) 0x10 / 2 ^ 16 * 2 ^ 16 + 1)).setRecState p 5
  let m := match (m.part p).g3 with | some slot => m.wakeG3 p slot | none => m
  let m := (((m.endJobs p).dropStream p).unloadGuest p).closeStreams p
  let m := m.wipePts p k
  match m.reinstall p k with
  | (0, m') =>
    match (m'.part p).resident with
    | some k' => m'.frogSource p round src prior k'
    | none => m'.frogFail p 2 prior
  | (_, m') => m'.frogFail p 2 prior

/-- FROG: refused by its form, while BUSY, or through ERROR in the cases of R499; else carried out. -/
def doFrog (m : Mach) (p v : Nat) : Mach :=
  if p ≥ 64 || !m.online then m
  else if v / 2 ^ 50 ≠ 0 || fld v 49 48 = 3 then m.reply abortRange
  else if m.pstate p = 0 || m.objBit (0x7200 + p) 0x10 0 then m.reply abortState
  else
    let m := m.reply 0
    match (m.part p).resident with
    | some k =>
      if !m.formed p || m.recState p = 1 || m.recState p = 2 || m.recState p = 4 then m.setBit (0x7200 + p) 0x10 2 true
      else m.frogGo p (v % 2 ^ 48) (fld v 49 48) k
    | none => m.setBit (0x7200 + p) 0x10 2 true

/-- AUTO_FROG: the supervisor frogs a READY partition whose AUTO is 1 and whose resident pricking declares no peer (R499). -/
def doAutoFrog (m : Mach) (p : Nat) : Mach :=
  match (m.part p).resident with
  | some k =>
    if m.formed p && m.recState p = 3 && m.obj (0x7200 + p) 0x12 = 1 && (k.recsOf 4).isEmpty && m.supLost.length < 2 &&
        !m.objBit (0x7200 + p) 0x10 0 then m.frogGo p 0 0 k else m
  | none => m

/-! ## Restore data and acknowledgements (R494, R501) -/

/-- RESTORE_DATA: written into the local slot that is not the newest complete one, while a frog waits for it. -/
def doRestoreData (l : Nat) (x : Msg) (m : Mach) : Mach :=
  let p := x.dpart
  let m := m.taken l x
  match (m.life p).frog with
  | some f =>
    if !m.fromPartner x then m
    else (m.setLife p (fun q => { q with frog := some { f with got := f.got + x.data.length, t0 := m.rc } })).lifeLand p f.slot (lifeOff x) x.data
  | none => m

/-- The restore data of a frog is complete: checked, and the frog goes on or fails. -/
def Mach.frogCommit (m : Mach) (p : Nat) (f : FrogSt) (k : Pricking) (round : Nat) : Mach :=
  let h := m.rd (m.lifeKey p f.slot 0) 4096
  if lhRound h ≠ round || (f.round ≠ 0 && f.round ≠ round) then m.frogFail p 1 f.prior
  else match m.lifeCheck p f.slot k with
    | 0 => ((m.lifeComplete p f.slot).lifeHold p).frogFinish p f.slot 2 k
    | code => m.frogFail p code f.prior

/-- COMMIT: it ends the restore data of a frog, or the partner's stream, which is checked and acknowledged. -/
def doCommit (l : Nat) (x : Msg) (m : Mach) : Mach :=
  let p := x.dpart
  let m := m.taken l x
  match (m.life p).frog, (m.part p).resident with
  | some f, some k => if f.got > 0 && m.fromPartner x then m.frogCommit p f k (leAt x.data 0 8) else m.commitStream x
  | _, _ => m.commitStream x

/-- ACKNOWLEDGE: the mirrored round advances on STATUS 00h; a frog that waits fails on any other. -/
def doAck (l : Nat) (x : Msg) (m : Mach) : Mach :=
  let p := x.dpart
  let st := leAt x.data 8 1
  let m := m.taken l x
  if !m.fromPartner x then m
  else
    let m := m.setField (0x7200 + p) 0x10 31 24 st
    match (m.life p).frog with
    | some f => if st = 0 then m else m.frogFail p (if st = 4 then 4 else 1) f.prior
    | none =>
      if (m.life p).stream.isNone then m
      else
        let m := (m.setLife p (fun q => { q with stream := none, hop := 64 })).setBit (0x7200 + p) 7 2 false
        if st = 0 then (m.setObj (0x7200 + p) 9 (leAt x.data 0 8)).setBit (0x7200 + p) 7 4 false else m.setBit (0x7200 + p) 7 4 true

/-- A frog that has heard nothing from its partner for 4800h.06 ms fails with NOLIFE (R501). -/
def Mach.frogTimeout (m : Mach) (p : Nat) : Mach :=
  match (m.life p).frog with
  | some f => if m.rc ≥ f.t0 + 25000 * m.obj 0x4800 6 then m.frogFail p 1 f.prior else m
  | none => m

/-! ## Hardware faults (R496, R497) -/

/-- The partition that holds the unit a fault names (R385). -/
def Mach.holder (m : Mach) (c : HwCause) : Option Nat :=
  (List.range 64).find? (fun p => m.formed p && (match c with
    | .slot g _ _ => (m.clusters p).contains g
    | .cluster g _ => (m.clusters p).contains g
    | .row s _ _ => (m.stacks p).contains s
    | .link l _ => (m.links p).contains l
    | .engine _ _ => false))

/-- The physical place of a unit: die, cluster, slot. -/
def causePlace (c : HwCause) : Option (Nat × Nat × Nat) :=
  match c with
  | .slot g k _ => some (g / 16, g % 16, k)
  | .cluster g _ => some (g / 16, g % 16, 0)
  | _ => none

/-- The jobs of a partition stop for recovery: running ones and saved ones end CANCELLED, a job its fault has stopped ends as it was, ready
ones wait (R496). -/
def Mach.stopForRecovery (m : Mach) (p : Nat) : Mach :=
  let js := m.jobs.filter (fun j => j.part = p && !j.isDone)
  let fin (guest : Bool) (m : Mach) : Mach := match m.jobOf p guest with
    | some j =>
      let e := match j.st with | .stopping st d => (st, d) | _ => (3, 0)
      ((if j.st = JobSt.running then m.stopJob j guest 3 0 else m).endDma p guest).endRun j e.1 e.2
    | none => m
  let m := (js.filter (fun j => j.live && (j.kind = 4 || j.kind = 5))).foldl (fun (a : Mach) j => a.stopList j 3) m
  let m := (js.filter Job.isSaved).foldl (fun (a : Mach) j => (a.dropSave j).endRun j 3 0) (fin false m)
  let m := (fin true m).dropStream p
  match (m.life p).frog with
  | some _ => m.frogFail p 5 1
  | none => m

/-- A cluster is bound off (R35, R38). -/
def Mach.bindOffCluster (m : Mach) (g code : Nat) : Mach :=
  if m.offClusters.contains g then m
  else
    let m := ({ m with offClusters := m.offClusters ++ [g] }).repair 2 (g / 16) (g % 16) 0 code
    (m.setIsland g { m.island g with on := false }).replacement 0

/-- A slot is bound off: the spare carries its logical core, or R35 binds off the cluster. -/
def Mach.bindOffSlot (m : Mach) (g k code : Nat) : Mach :=
  let m := m.repair 1 (g / 16) (g % 16) k code
  let dead := (m.deadSlots g).dedup
  let low := dead.filter (· < 16)
  if low.length ≥ 2 || (low.length = 1 && dead.contains 16) then m.bindOffCluster g code
  else match low with
    | [j] => m.setCore (16 * g + j) { m.core (16 * g + j) with slot := 16 }
    | _ => m

/-- Soft repair of a row (R332): its 30 units are read, at class 4 (log entry 241, DESIGN CHOICE), and those that cannot be read stay uncorrectable; a
bank holds one soft repair, and a second row stays pending. -/
def Mach.softRepair (m : Mach) (s row : Nat) : Mach :=
  let x := m.srt s
  if x.soft.any (fun r => r % 128 = row % 128) then m
  else
    let m := ((rowUnits s row).filterMap (fun u => m.firstBad u 64)).foldl (fun (a : Mach) h => a.eccLost 3 h 4) m
    m.setSrt s { m.srt s with soft := x.soft ++ [row] }

/-- The test and binding of Table 17-4. -/
def Mach.testUnit (m : Mach) (c : HwCause) (code : Nat) : Mach :=
  match c with
  | .slot g k fails => if fails && g < 128 && k ≤ 16 then m.bindOffSlot g k code else m
  | .cluster g fails => if fails && g < 128 then m.bindOffCluster g code else m
  | .row s row mends =>
    if s ≥ 48 || m.offStacks.contains s then m
    else
      let m := m.candidate s row
      if !mends then (m.loseStack s 3 code).rowLost s row
      else if m.swatchBusy s then m
      else m.softRepair s row
  | .link l fails =>
    if fails && l < 64 && !m.offLinks.contains l then (({ m with offLinks := m.offLinks ++ [l] }).repair 5 (l / 8) 0 l code).replacement 2 else m
  | .engine e fails => if fails && e < 10 then (m.setMed e { m.med e with failed := true }).setField (0x5100 + e) 1 2 0 4 else m

/-- The unit that waits in the recovery queue under a code: its partition and core. -/
def Mach.hwEntry (m : Mach) (code : Nat) : Option (Nat × Nat × Nat) := m.hwWait.find? (fun e => e.1 = code)

/-- The fault-log entry: the job's fault record with TAG holding the partition, or one of the unit (Table 17-9). -/
def Mach.recoveryRecord (m : Mach) (c : HwCause) (code part : Nat) : List Byte :=
  let own := leBytes 32 (m.obj (0x6280 + part) 1)
  if part < 64 && leAt own 0 1 = code && hwCode code then putAt own 8 (leBytes 2 part)
  else m.unitRecord code part (match m.hwEntry code with | some e => e.2.2 | none => 0xFFFF) (causePlace c)

/-- HARDWARE_FAULT: the active supervisor stops the jobs of the partition that holds the unit, logs and reports the fault, tests the unit and
binds it, and leaves the partition READY, or in REFORM when it has lost a cluster or a stack (R496, R497). -/
def doHardwareFault (m : Mach) (c : HwCause) (code : Nat) : Mach :=
  if m.supLost.length ≥ 2 then m
  else
    let p := m.holder c
    let part := p.getD 0xFF
    let rec' := m.recoveryRecord c code part
    let m := match m.hwEntry code with | some e => { m with hwWait := m.hwWait.erase e } | none => m
    let reform := match p with | some q => m.recState q = 4 | none => false
    let m := match p with
      | some q => ((m.stopForRecovery q).setField (0x7200 + q) 0x10 23 16 (code % 256)).setRecState q 1
      | none => m
    let m := ((m.logFault rec').emcySet .hw (code % 256 + 256 * (part % 256))).addObj32 0x7000 3 1
    let m := m.testUnit c code
    match p with
    | none => m
    | some q =>
      let lost := (m.clusters q).any (fun g => m.offClusters.contains g) || (m.stacks q).any (fun s => m.offStacks.contains s)
      (m.setRecState q (if lost || reform then 4 else 3)).endSave q

/-- BRIDGE_FAILURE: entered in the repair map; routes change at the next cast-on (R27). -/
def doBridgeFailure (m : Mach) (b : Nat) : Mach :=
  if b ≥ 10 || m.supLost.length ≥ 2 then m
  else
    let m := (m.logFault (m.unitRecord 0 0xFF 0xFFFF none)).emcySet .hw 0xFF00
    ((m.addObj32 0x7000 3 1).repair 3 0 0 b 0).replacement 5

/-! ## Link losses (R290, Table 10-12, Table 17-6) -/

/-- Every RDMA that is unacknowledged over a link completes with FDh. -/
def Mach.dropRdmas (m : Mach) (l : Nat) : Mach :=
  m.cores.foldl (fun (a : Mach) e =>
    ((a.core e.1).host.dma.filter (fun d => match d.plan with | .remote _ _ k _ => k = l | _ => false)).foldl (fun (b : Mach) d => match d.plan with
      | .remote peer mid _ _ => (b.dropRemote e.1 mid).rdmaLost ((b.partOf (e.1 / 16)).getD 0) e.1 d.pc peer 0xFD
      | _ => b) a) m

/-- A FWD contribution that is unanswered over a link has lost its route: fault 13h of its engine (R282). -/
def Mach.dropFwds (m : Mach) (l : Nat) : Mach :=
  m.parts.foldl (fun (a : Mach) e => e.2.rbufs.foldl (fun (b : Mach) r =>
    (r.2.unanswered.filter (fun u => u.2.2 = l)).foldl (fun (c : Mach) u =>
      if c.remoteTile u.1 = some (e.1, r.1, u.2.1) then c.engineFault e.1 r.1 u.2.1 0x13 else c) b) a) m

/-- The messages of a saved job that wait for a response over a link: the loss is its response, and waits for the job (Table 14-9). -/
def SaveSlot.over (s : SaveSlot) (l : Nat) : List Nat :=
  s.cores.flatMap (fun c => c.ctx.dma.filterMap (fun d => match d.plan with
    | .remote _ mid k _ => if k = l then some mid else none
    | _ => none)) ++
  s.rbufs.flatMap (fun b => (b.2.unanswered.filter (fun u => u.2.2 = l)).map Prod.fst)

def Mach.dropSaved (m : Mach) (l : Nat) : Mach :=
  m.parts.foldl (fun (a : Mach) e => a.modPart e.1 (fun q => { q with
    heldMsgs := q.heldMsgs ++ (q.saves.flatMap (fun s => s.2.over l)).map (fun mid =>
      { msgBlank 4 1 m.ownAddr m.ownAddr e.1 e.1 0 0 0x3000 mid with arg := 0xFD }) })) m

/-- The flows that arrive on a link are cut (R136). -/
def Mach.cutFlows (m : Mach) (l : Nat) : Mach :=
  m.parts.foldl (fun (a : Mach) e => ((a.part e.1).flows.filter (fun f => f.link = l)).foldl (fun (b : Mach) f => b.cutFlow e.1 f) a) m

/-- What a lost link ends: the sends it carried, unacknowledged or unanswered, and the flows it brought in. -/
def Mach.dropOver (m : Mach) (l : Nat) : Mach := (((m.dropRdmas l).dropFwds l).dropSaved l).cutFlows l

/-- LINK_LOSS: a failed link is reported: LINK_LOST, the health event, the RDMAs and streams whose first hop it was. -/
def doLinkLoss (m : Mach) (l : Nat) : Mach :=
  if l ≥ 64 || m.linkState l ≠ 4 || (m.lrt l).reported then m
  else
    let m := ((m.setLrt l { m.lrt l with reported := true }).warn 8).health
    let m := m.dropOver l
    ((List.range 64).filter (fun p => (m.life p).stream.isSome && (m.life p).hop = l)).foldl (fun (a : Mach) p => a.mirrorFail p) m

/-! ## The meanings -/

/-- COMMIT (R494, R501). -/
def execCommit (link : Nat) (msg : Msg) (s : State) : Result := s.step (fun m => onMsg m link msg (msg.op = 5 && msg.fbuf = 0xFFE) (doCommit link msg))

/-- ACKNOWLEDGE (R494). -/
def execAcknowledge (link : Nat) (msg : Msg) (s : State) : Result :=
  s.step (fun m => onMsg m link msg (msg.op = 5 && msg.fbuf = 0xFFF) (doAck link msg))

/-- RESTORE_DATA (R501). -/
def execRestoreData (link : Nat) (msg : Msg) (s : State) : Result :=
  s.step (fun m => onMsg m link msg (msg.op = 5 && msg.fbuf = 1) (doRestoreData link msg))

/-- FROG (R499 to R501). -/
def execFrog (part v : Nat) (s : State) : Result := s.step (fun m => doFrog m part v)

/-- AUTO_FROG (R499). -/
def execAutoFrog (part : Nat) (s : State) : Result := s.step (fun m => doAutoFrog m part)

/-- HARDWARE_FAULT (R496, R497). -/
def execHardwareFault (cause : HwCause) (code : Nat) (s : State) : Result := s.step (fun m => doHardwareFault m cause code)

/-- BRIDGE_FAILURE (R27). -/
def execBridgeFailure (bridge : Nat) (s : State) : Result := s.step (fun m => doBridgeFailure m bridge)

/-- LINK_LOSS (R290). -/
def execLinkLoss (link : Nat) (s : State) : Result := s.step (fun m => doLinkLoss m link)

end Sys2Proof.Machine
end

