-- ==== Sys2Proof/Machine/Super.lean ====
section
/-! DEFINITION. The supervisors: heartbeats and takeover (R505, R506), firmware banks (R507, R509, R510) and the settings store (R508). -/

namespace Sys2Proof.Machine

/-! ## Firmware (R507) -/

/-- A bank as shipped (R507; its version, links and schema are the model's, log entry 178, DESIGN CHOICE). -/
def FwBank.init : FwBank := { valid := true, version := zeros 16, links := 3, schema := 1, lowest := 1 }

def SupFlash.init : SupFlash := { banks := [FwBank.init, FwBank.init], dflt := 0, trial := none, tried := false, fallback := 0 }

def Mach.sup (m : Mach) (s : Nat) : SupFlash := m.flash.sups.get SupFlash.init s

def Mach.setSup (m : Mach) (s : Nat) (x : SupFlash) : Mach := { m with flash := { m.flash with sups := m.flash.sups.put s x } }

/-- Bank `b` of a supervisor. -/
def SupFlash.bank (x : SupFlash) (b : Nat) : FwBank := x.banks.getD b FwBank.init

/-- The bank a supervisor runs. -/
def Mach.runBank (m : Mach) (s : Nat) : Nat := m.banks.get 0 s

def Mach.running (m : Mach) (s : Nat) : FwBank := (m.sup s).bank (m.runBank s)

/-! ## The settings store (R508) -/

/-- Firmware reads a record set of a schema from its lowest to its own. -/
def FwBank.reads (b : FwBank) (schema : Nat) : Bool := b.lowest ≤ schema && schema ≤ b.schema

/-- The values of the newest record set that a bank reads. -/
def Store.settings (f : Store) (b : FwBank) : AMap Nat :=
  match (inOrder (fun x y => x.1 ≥ y.1) (f.sets.filter (fun e => b.reads e.1))).head? with
  | some e => e.2
  | none => []

/-- Some installed bank of a supervisor reads a record set. -/
def SupFlash.keeps (x : SupFlash) (schema : Nat) : Bool := x.banks.any (fun b => b.valid && b.reads schema)

/-- A value is written to the set of a bank's own schema; the set is made when it does not exist, and a third set replaces the one that no
installed bank reads. -/
def Store.commit (f : Store) (x : SupFlash) (b : FwBank) (key v : Nat) : Store :=
  let own := match f.sets.get? b.schema with | some s => s | none => f.settings b
  let sets := f.sets.put b.schema (own.put key v)
  let sets := if sets.length > 2 then
      (match sets.find? (fun e => e.1 ≠ b.schema && !x.keeps e.1) with
       | some e => sets.del e.1
       | none => sets.filter (fun e => e.1 = b.schema) ++ (sets.filter (fun e => e.1 ≠ b.schema)).drop (sets.length - 2))
    else sets
  { f with sets := sets }

/-- A setting is committed by every supervisor that lives, each to its own store (R421, R508). -/
def Mach.commit (m : Mach) (key v : Nat) : Mach :=
  m.eachStore (fun s x => x.commit (m.sup s) (m.running s) key v)

/-- A bank that runs finds no record set it accepts, while one of an older schema exists (R509). -/
def Store.unread (f : Store) (b : FwBank) : Bool := !f.sets.any (fun e => b.reads e.1) && f.sets.any (fun e => e.1 < b.lowest)

/-- Boot a supervisor from a bank: an image whose CRC fails, or firmware that reads no set it accepts, gives way to the other bank, once
(R507, R509). Answers the bank that runs and the fallback reason. -/
def Mach.bootBank (m : Mach) (s b reason : Nat) : Nat × Nat :=
  let x := m.sup s
  let (b, reason) := if (x.bank b).valid then (b, reason) else (1 - b, 2)
  if (m.flash.store s).unread (x.bank b) && (x.bank (1 - b)).valid then (1 - b, 1) else (b, reason)

/-- A boot under R507: a TRIAL bank once, else the default bank; a TRIAL bank that ran unconfirmed gives reason 3. -/
def Mach.bootSup (m : Mach) (s : Nat) : Mach :=
  let x := m.sup s
  let (b, r) := match x.trial with
    | some t => m.bootBank s t 0
    | none => m.bootBank s x.dflt (if x.tried then 3 else 0)
  { m.setSup s { x with trial := none, tried := x.trial = some b, fallback := r } with banks := m.banks.put s b }

/-- A boot of the non-default bank; TRIAL marks are left unchanged (Table 18-1). -/
def Mach.bootOther (m : Mach) (s : Nat) : Mach :=
  let x := m.sup s
  let (b, r) := m.bootBank s (1 - x.dflt) 0
  { m.setSup s { x with fallback := r } with banks := m.banks.put s b }

/-- The state a supervisor's objects show: status bits [15:8] and 16, fallback reason (Table 17-9). -/
def Mach.showSup (m : Mach) (s : Nat) : Mach :=
  let x := m.sup s
  let m := (m.setField (0x7300 + s) 8 15 8 x.dflt).setBit (0x7300 + s) 8 16 x.trial.isSome
  m.setObj (0x7300 + s) 5 x.fallback

/-! ## Heartbeats and takeover (R505, R506) -/

/-- SUPERVISOR_HEARTBEAT: a live supervisor's heartbeat is received. -/
def doBeat (m : Mach) (s : Nat) : Mach := if s < 2 && m.alive s then { m with beats := m.beats.put s m.rc } else m

/-- Two heartbeats in a row of a supervisor are missing. -/
def Mach.silent (m : Mach) (s : Nat) : Bool := m.alive s && m.rc ≥ m.beats.get 0 s + 500000

/-- The links that the active supervisor's firmware speaks (4800h.01). -/
def Mach.showLinks (m : Mach) : Mach := m.setObj 0x4800 1 (m.running m.active).links

/-- The standby becomes active: requests in flight are cut, jobs go on, the takeover is counted and reported. -/
def Mach.handRole (m : Mach) : Mach :=
  let m := if m.can.usdo.isSome then m.emit (.usdo abortStore 0 []) else m
  let m := { m with active := 1 - m.active, can := { m.can with usdo := none } }
  let m := [0, 1].foldl (fun (a : Mach) x => a.setHost x { a.host x with latch := none, part := none }) m
  (((m.showLinks.addObj32 0x7000 4 1).warn 6).emcySet .takeover m.active)

/-- TAKEOVER: the standby takes over from an active supervisor that is silent; with the standby lost before, both are lost. -/
def doTakeover (m : Mach) : Mach :=
  if !m.silent m.active then m
  else
    let old := m.active
    let m := { m with supLost := m.supLost ++ [old] }
    if !m.alive (1 - old) then { m with can := { m.can with usdo := none } }
    else ((m.emcySet .supLost old).handRole).replacement 4

/-- SUPERVISOR_LOST: the standby is silent. -/
def doSupervisorLost (m : Mach) : Mach :=
  let s := 1 - m.active
  if !m.alive m.active || !m.silent s then m
  else (({ m with supLost := m.supLost ++ [s] }).emcySet .supLost s).replacement 4

/-! ## Firmware commands (R510, Table 17-14) -/

/-- A write to 7300h + s.07 that names OP `op`: its form, BUSY, and the refusal of all but HANDOVER at the active supervisor. -/
def Mach.fwCommand (m : Mach) (s v op : Nat) (f : Mach → Option Mach) : Mach :=
  if s > 1 || fld v 18 16 ≠ op then m
  else if v / 2 ^ 19 ≠ 0 || fld v 15 8 ≠ 0 || ((op = 1 || op = 2) && fld v 7 0 > 1) then m.reply abortRange
  else if m.objBit (0x7300 + s) 8 0 then m.reply abortState
  else
    let m := m.reply 0
    if !m.alive s || (op ≠ 5 && s = m.active) then m.cmdDone (0x7300 + s) 8 false
    else match f m with
      | some m' => (m'.showSup s).cmdDone (0x7300 + s) 8 true
      | none => m.cmdDone (0x7300 + s) 8 false

/-- The image at 7300h + s.06 as a bank: the layout of its header is not stated, and what it gives is free. -/
def Mach.imageBank (m : Mach) : Mach × FwBank :=
  let n (i : Nat) : Nat := Config.freeNat m.free i
  ({ m with free := m.free + 1 },
   { valid := n 0 % 2 = 1, version := (List.range 16).map (fun i => BitVec.ofNat 8 (n (1 + i))), links := 1 + 2 * (n 17 % 2), schema := n 18 % 65536,
     lowest := n 19 % 65536 })

/-- WRITE: the image goes into the inactive bank. -/
def doFwWrite (s v : Nat) (m : Mach) : Mach :=
  m.fwCommand s v 1 (fun m =>
    let b := v % 256
    if b = m.runBank s || m.obj (0x7300 + s) 6 % 4096 ≠ 0 then none
    else
      let (m, img) := m.imageBank
      some (m.setSup s { m.sup s with banks := (m.sup s).banks.set b img }))

/-- TRIAL: the bank is booted once at the next boot. -/
def doFwTrial (s v : Nat) (m : Mach) : Mach :=
  m.fwCommand s v 2 (fun m => some (m.setSup s { m.sup s with trial := some (v % 256) }))

/-- REBOOT: the standby boots; service is not interrupted. -/
def doFwReboot (s v : Nat) (m : Mach) : Mach :=
  m.fwCommand s v 3 (fun m => some { m.bootSup s with beats := m.beats.put s m.rc })

/-- CONFIRM: the bank that runs becomes the default. -/
def doFwConfirm (s v : Nat) (m : Mach) : Mach :=
  m.fwCommand s v 4 (fun m => some (m.setSup s { m.sup s with dflt := m.runBank s, tried := false }))

/-- HANDOVER: a takeover with no missing heartbeat. -/
def doFwHandover (s v : Nat) (m : Mach) : Mach :=
  m.fwCommand s v 5 (fun m => if m.alive (1 - m.active) then some m.handRole else none)

/-! ## The meanings -/

/-- SUPERVISOR_HEARTBEAT (R505). -/
def execSupervisorHeartbeat (sup : Nat) (s : State) : Result := s.step (fun m => doBeat m sup)

/-- TAKEOVER (R505). -/
def execTakeover (s : State) : Result := s.step doTakeover

/-- SUPERVISOR_LOST (R505). -/
def execSupervisorLost (s : State) : Result := s.step doSupervisorLost

/-- FIRMWARE_WRITE (R510). -/
def execFirmwareWrite (path : Path) (sup v : Nat) (s : State) : Result := s.step (fun m => m.byPath path (doFwWrite sup v))

/-- TRIAL (R510). -/
def execTrial (path : Path) (sup v : Nat) (s : State) : Result := s.step (fun m => m.byPath path (doFwTrial sup v))

/-- REBOOT (R510). -/
def execReboot (path : Path) (sup v : Nat) (s : State) : Result := s.step (fun m => m.byPath path (doFwReboot sup v))

/-- CONFIRM (R510). -/
def execConfirm (path : Path) (sup v : Nat) (s : State) : Result := s.step (fun m => m.byPath path (doFwConfirm sup v))

/-- HANDOVER (R510). -/
def execHandover (path : Path) (sup v : Nat) (s : State) : Result := s.step (fun m => m.byPath path (doFwHandover sup v))

end Sys2Proof.Machine
end

