-- ==== Sys2Proof/Machine/Objects.lean ====
section
/-! DEFINITION. Reading the object dictionary: which objects exist (R416, R425, R426), what each reads live (R422), and the answer to a read
(R418, R419). -/

namespace Sys2Proof.Machine

/-! ## Which objects exist (R416, R425) -/

/-- The objects a TPDO carries: index, sub-index, bytes, and the frame's length (Table 15-8). -/
def tpdoMap (t : Nat) : List (Nat × Nat × Nat) :=
  match t with
  | 0 => [(0x2000, 0, 1), (0x1001, 0, 1), (0x2001, 0, 2), (0x2002, 0, 2), (0x2003, 0, 2), (0x2004, 0, 2), (0x2007, 0, 4), (0x2008, 0, 4)]
  | 1 => (List.range 10).map (fun i => (0x2005, i + 1, 2))
  | 2 => [(0x200A, 0, 4), (0x200B, 0, 4), (0x2009, 0, 4), (0x200C, 0, 1)]
  | 3 => [(0x200D, 0, 8), (0x200F, 0, 4)]
  | _ => []

/-- A mapping entry of 1A00h + t in the CiA 1301 form: index, sub-index, bits; sub-index 0 counts them (R434; padding is not an entry, a log
entry). -/
def tpdoEntry (t sub : Nat) : Nat :=
  match sub with
  | 0 => (tpdoMap t).length
  | i + 1 => match (tpdoMap t)[i]? with
    | some e => e.1 * 65536 + e.2.1 * 256 + 8 * e.2.2
    | none => 0

/-- The highest sub-index an index implements; none where the index is not defined. -/
def objHighest (idx : Nat) : Option Nat :=
  if 0x1A00 ≤ idx && idx < 0x1A04 then some (tpdoMap (idx - 0x1A00)).length
  else
    let subs := objTable.filterMap (fun r => (r.unitAt idx).map (fun _ => r.sub))
    if subs.isEmpty then none else some (subs.foldl max 0)

/-- An object as a request finds it: its row and unit, or the abort code of Table 15-3. Sub-index 00h of an index with more than one reads the
highest (R416). -/
def objFind (idx sub : Nat) : Nat × ObjRow × Nat :=
  let blank : ObjRow := { base := idx, s1 := 0, n1 := 1, n2 := 1, sub := sub, ty := .num, size := 1, acc := .const, dflt := 0, lo := 0, hi := 0 }
  match objHighest idx with
  | none => (abortNoObject, blank, 0)
  | some top =>
    if 0x1A00 ≤ idx && idx < 0x1A04 then
      if sub > top then (abortNoSub, blank, 0)
      else (0, { blank with size := if sub = 0 then 1 else 4, dflt := tpdoEntry (idx - 0x1A00) sub }, 0)
    else match findObj idx sub with
      | some (r, u) => (0, r, u)
      | none => if sub = 0 then (0, { blank with dflt := top }, 0) else (abortNoSub, blank, 0)

/-! ## Absent units (R426) -/

/-- The partition a row's unit is, when the row belongs to a partition. -/
def rowPart (r : ObjRow) (u : Nat) : Option Nat := if r.base = 0x3000 || partBases.contains r.base then some u else none

/-- A unit that exists but is absent: a free partition, a stack, link or island bound off. -/
def Mach.absent (m : Mach) (r : ObjRow) (u : Nat) : Bool :=
  match rowPart r u with
  | some p => m.pstate p = 0
  | none =>
    if r.base = 0x4100 then m.offStacks.contains u
    else if r.base = 0x4400 then m.offStacks.contains (u / 4)
    else if r.base = 0x4840 then m.offLinks.contains u
    else if r.base = 0x2400 || r.base = 0x7100 then !m.islandThere u
    else false

/-- The objects of an absent unit that read live: the status of a partition, the status of a stack. -/
def absentLive (r : ObjRow) : Bool := (r.base = 0x3000 && r.sub = 2) || (r.base = 0x4100 && r.sub = 2)

/-! ## Live values -/

/-- 200Ch: supervisors alive, the active one, a takeover since cast-on. -/
def Mach.supStatus (m : Mach) : Nat :=
  b2n (m.alive 0) + 2 * b2n (m.alive 1) + 4 * b2n (m.active = 1) + 8 * b2n (m.obj 0x7000 4 ≠ 0)

/-- 2000h: trip, safe mode, degraded, running, casting on, the first that holds (log entry 181, DEDUCED). -/
def Mach.modState (m : Mach) : Nat :=
  if m.phase ≠ .running then 0
  else if m.tripped then 4
  else if !m.safeIslands.isEmpty then 3
  else if m.obj 0x7000 1 = 1 then 2 else 1

/-- 200Fh. -/
def Mach.portSummary (m : Mach) : Nat :=
  let pos := m.obj 0x2101 1
  b2n (m.host 0).up + 2 * b2n (m.host 1).up + 4 * b2n (m.can.nmt = 5) + 8 * b2n (pos = 0) + 16 * pos + 2048 * m.field 0xA000 1 1 0

/-- Links in a set, as a mask. -/
def maskOf (n : Nat) (f : Nat → Bool) : Nat := (List.range n).foldl (fun a i => if f i then a + 2 ^ i else a) 0

/-- A job as 3000h + 40h p.12 and .13 show it. -/
def jobWord (j : Option Job) : Nat :=
  match j with
  | some j => j.tag + 65536 * (j.genr % 256) + 2 ^ 32 * (j.client % 512) + 2 ^ 63
  | none => 0

/-- Saved jobs of a partition, in save order. -/
def Mach.savedJobs (m : Mach) (p : Nat) : List Job :=
  let place (j : Job) : Nat := match j.st with | .saved _ o => o | _ => 0
  inOrder (fun a b => place a ≤ place b) (m.jobs.filter (fun j => j.part = p && j.isSaved))

/-- Core-µs in guest contexts: ended visits, and those under way (Table 14-11). -/
def Mach.guestTime (m : Mach) (p : Nat) : Nat :=
  ((m.coresOf p).foldl (fun a c => let k := m.core c; if k.inGuest then a + (m.rc - k.tGuest) else a) (m.part p).guestRc) / 25

/-- A completion record of a client waits for ring space (Table 14-15). -/
def Mach.cqFull (m : Mach) (n : Nat) : Bool := m.jobs.any (fun j => j.client = n && j.isDone) && (m.cqTail n + 1) % 64 = m.cqHead n

/-- The status of a partition: stored fields with RUNNING, RESIDENT, GUEST and SAVED as they stand (Table 14-14). -/
def Mach.partStatus (m : Mach) (p : Nat) : Nat :=
  let v := m.obj (pix p) 2
  let v := Machine.setBit v 5 (m.resJob p).isSome
  let v := Machine.setBit v 7 (m.part p).resident.isSome
  let v := Machine.setBit v 8 (m.part p).guest.isSome
  setFld v 11 9 (m.savedJobs p).length

/-- Voltage of an island in mV; 0 while it is off (log entry 134, DEDUCED). -/
def Mach.islandVolt (m : Mach) (i : Nat) : Nat :=
  let x := m.island i
  if !m.powered i then 0 else m.islandMv i (if x.src = 3 then 0 else x.op) + if m.droop i then 20 else 0

/-- 2400h + i.02 (Table 16-12). -/
def Mach.islandStatus (m : Mach) (i : Nat) : Nat :=
  let x := m.island i
  x.src + 2 ^ 5 * b2n (m.srcReady 1) + 2 ^ 6 * b2n (m.srcReady 2) + 2 ^ 7 + 2 ^ 9 * b2n x.swerr + 2 ^ 10 * b2n x.pend.isSome +
  2 ^ 11 * b2n x.gaugeFail + 2 ^ 16 * (m.gstate i % 4) + 2 ^ 20 * (if i < 136 then x.op % 16 else 15)

/-- The selected sequence's record, and the counts of the selected cache (Table 8-13). -/
def Mach.cacheLive (m : Mach) (p sub : Nat) : Nat :=
  let cix := m.obj (0x6440 + p) 1
  let st := m.cacheSt p cix
  match m.cacheAt p cix with
  | none => 0
  | some c =>
    if sub = 5 then (let s := m.obj (0x6440 + p) 2; if s < ccNseq c.r then leNat (m.rd (c.recKey s) 32) else 0)
    else if sub = 8 then st.dropped
    else if sub = 9 then st.blocks
    else if sub = 0xA then (List.range (ccNblk c.r)).foldl (fun a b => a + (16 - popcount 16 (c.mask m b))) 0
    else st.rounds

/-- The CRC field of the selected function table (Table 5-8). -/
def Mach.funcCrc (m : Mach) (p : Nat) : Nat :=
  let v := m.obj (0x6300 + p) 5
  match ((m.part p).pk (bit v 7)).bind (fun k => k.funcs.get? (v % 16)) with
  | some h => leAt h 52 4
  | none => 0

/-- Objects of the communication, health and clock ranges that are read from what the module holds elsewhere. -/
def Mach.liveHealth (m : Mach) (base sub u : Nat) : Option Nat :=
  let n := m.obj 0x2101 1
  match base with
  | 0x1001 => some m.errReg
  | 0x100A => some (leNat (m.running m.active).version)
  | 0x1011 => some (if m.store.restore then 0x64616F6C else 1)
  | 0x1014 => some (0x80 + n)
  | 0x1800 => if sub = 1 then some (0x180 + 0x100 * u + n) else none
  | 0x2000 => some m.modState
  | 0x2008 => some (m.rc / 25000000 % 2 ^ 32)
  | 0x2009 => some m.store.castOns
  | 0x200C => some m.supStatus
  | 0x200D => some (m.energy / 1000)
  | 0x200F => some m.portSummary
  | 0x2101 => if sub = 2 then some (m.can.nmt + 256 * b2n m.can.listen + 512 * b2n m.can.busOff) else none
  | 0x2210 => if sub = 1 then some (Machine.setBit (m.obj 0x2210 1) 6 (!m.safeIslands.isEmpty)) else if sub = 3 then some m.safeIslands.length else none
  | 0x2400 =>
    if sub = 2 then some (m.islandStatus u) else if sub = 3 then some (m.islandVolt u) else if sub = 4 then some (m.islandMhz u)
    else if sub = 5 then some (m.island u).switches else none
  | 0x2500 => if sub = 6 then some ((m.clusters u).foldl (fun a g => max a (m.island g).gst) 0) else none
  | _ => none

/-- Objects of partitions and clients that are read from what the module holds elsewhere. -/
def Mach.livePart (m : Mach) (base sub p : Nat) : Option Nat :=
  match base with
  | 0x3000 =>
    if sub = 2 then some (m.partStatus p)
    else if sub = 0x11 then some (maskOf 512 (fun n => m.clientPart n = some p))
    else if sub = 0x12 then some (jobWord (m.resJob p))
    else if sub = 0x1B then some (m.guestTime p)
    else if sub = 0x13 then some (leNat ((m.savedJobs p).flatMap (fun j => leBytes 8 (jobWord (some j))))) else none
  | 0x3020 => if sub = 4 then some (Machine.setBit (m.obj (cix p) 4) 28 (m.cqFull p)) else none
  | 0x6100 => if sub = 5 then some (m.censusSat p) else if sub = 8 then some (leNat (m.censusRecord p (m.obj (0x6100 + p) 7))) else none
  | 0x6200 => if sub = 5 then some (m.markers.get 0 (m.absMk p (m.obj (0x6200 + p) 4))) else if sub = 6 then some (m.part p).held.length else none
  | 0x6300 => if sub = 6 then some (m.funcCrc p) else none
  | 0x6440 => if sub = 5 || (8 ≤ sub && sub ≤ 0xB) then some (m.cacheLive p sub) else none
  | 0x6480 =>
    let s := m.recipeSt p (m.obj (0x6480 + p) 4)
    let d := m.digests.get (0, 0) (p * 16 + m.obj (0x6480 + p) 7)
    if sub = 5 then some (leNat (leBytes 8 s.step ++ leBytes 4 s.p1 ++ leBytes 4 s.p2))
    else if sub = 6 then some (leNat (leBytes 4 s.lr ++ leBytes 4 s.c1 ++ leBytes 4 s.c2))
    else if sub = 8 then some (leNat (leBytes 8 d.1 ++ leBytes 8 d.2)) else none
  | 0x7200 => if sub = 8 then some (match (m.part p).resident with | some k => m.lifeSize p (m.pv p) k | none => 0) else none
  | _ => none

/-- Objects of the memory, link, engine, reliability and test ranges that are read from what the module holds elsewhere. -/
def Mach.liveUnit (m : Mach) (base sub u : Nat) : Option Nat :=
  match base with
  | 0x4000 => if sub = 3 then some (maskOf 48 m.inService) else none
  | 0x4100 =>
    let r := m.store.rowsOf u
    if sub = 8 then some r.hard.length else if sub = 9 then some (m.srt u).soft.length
    else if sub = 0xA then some (r.pending.length + 2 ^ 15 * b2n r.full) else none
  | 0x4800 =>
    if sub = 3 then some (maskOf 64 (fun l => m.linkState l = 2))
    else if sub = 4 then some (maskOf 64 (fun l => m.objBit (0x4840 + l) 2 7)) else none
  | 0x4810 => if sub = 2 then some (m.routes.get 0xFF (m.obj 0x4810 1)) else none
  | 0x5100 => if sub = 1 then some (m.engStatus u) else none
  | 0x7001 => some (leNat m.capacity)
  | 0x7010 =>
    if sub = 1 then some m.store.repair.length
    else if sub = 3 then some (match m.store.repair[m.obj 0x7010 2]? with | some e => leNat e.bytes | none => 0) else none
  | 0x7011 =>
    if sub = 1 then some m.store.logged
    else if sub = 3 then some (match m.store.log[m.obj 0x7011 2]? with | some b => leNat b | none => 0) else none
  | 0x7300 =>
    if sub = 1 then some (m.runBank u)
    else if sub = 2 || sub = 3 then some (let b := (m.sup u).bank (sub - 2); if b.valid then leNat b.version else 0)
    else if sub = 4 then some (m.running u).schema else none
  | _ => none

/-- The value an object reads. -/
def Mach.live (m : Mach) (idx : Nat) (r : ObjRow) (u : Nat) : Nat :=
  if r.acc = .const && !(r.base = 0x1014 || r.base = 0x1800) then r.dflt
  else if m.absent r u && r.acc = .ro && !absentLive r then r.dflt
  else match (m.liveHealth r.base r.sub u).or ((m.livePart r.base r.sub u).or (m.liveUnit r.base r.sub u)) with
    | some v => v
    | none => m.obj idx r.sub

/-- The island that keeps an object of a unit, where one does (R422; which objects an island keeps is read from their units, log entry 248, DEDUCED). -/
def latchIsland (base u : Nat) : Option Nat :=
  if base = 0x2400 || base = 0x7100 then some u
  else if base = 0x4100 then some (152 + u / 4)
  else if base = 0x4400 then some (152 + u / 16)
  else if base = 0x4840 then some (136 + u / 4)
  else if base = 0x5100 then some (164 + u) else none

/-- A latch ungates the island's clock; an island in an idle state wakes for no read (R423). -/
def Mach.latch (m : Mach) (r : ObjRow) (u : Nat) : Mach :=
  match (if r.acc = .const then none else latchIsland r.base u) with
  | some i => if (m.island i).gated && m.gstate i = 0 then m.setIsland i ((m.island i).ungate m.rc) else m
  | none => m

/-! ## The answer to a read (R418, R419, R422) -/

/-- A read by a served request: its abort code, the whole value, and the module after (a read may clear what it returns, R71). -/
def Mach.readObj (m : Mach) (idx sub : Nat) : Nat × List Byte × Mach :=
  match objFind idx sub with
  | (0, r, u) =>
    if r.acc = .wo then (abortWriteOnly, [], m)
    else
      let bs := leBytes r.size (m.live idx r u)
      let m := { m.latch r u with free := m.free + 1 }
      (0, bs, if r.base = 0x6100 && sub = 8 && m.pstate u ≠ 0 then m.readSelected u else m)
  | (code, _, _) => (code, [], m)

end Sys2Proof.Machine
end

