-- ==== Sys2Proof/Machine/Writes.lean ====
section
/-! DEFINITION. Writing the object dictionary: ranges, targets, what a register keeps, and the commands of command objects (R418 to R421), with the
loop-backs of the ports and of CAN (R527 to R529). -/

namespace Sys2Proof.Machine

/-! ## Ranges and reserved bits (R14, R419) -/

/-- The bits of a register that a write reaches: the others are reserved and ignored (the field maps). -/
def keptMask (base sub : Nat) : Option Nat :=
  match base, sub with
  | 0x6100, 1 => some 3
  | 0x6180, 1 => some 0x7F01
  | 0x4100, 1 => some 3
  | 0x7200, 5 => some 0x803F0FFF
  | 0x2600, 1 => some 0xFF
  | _, _ => none

/-- The RW1C bits of a register (R418). -/
def clearMask (base sub : Nat) : Option Nat :=
  match base, sub with
  | 0x2007, 0 => some 0x1FF
  | 0x6080, 2 => some 0x1F
  | 0x6200, 2 => some 1
  | _, _ => none

/-- A value that a range column or field map refuses, beyond the bounds of the object's row. -/
def Mach.refusedValue (m : Mach) (r : ObjRow) (u v : Nat) : Bool :=
  match r.base, r.sub with
  | 0x6180, 1 => 64 < fld v 14 8
  | 0x6200, 4 => 512 * (m.clusters u).length ≤ v
  | 0x6300, 5 => fld v 6 4 ≠ 0
  | 0x3000, 0x10 => 0 < v && v < 200
  | 0x3000, 6 => v % 4096 ≠ 0
  | 0x3000, 7 => v % 65536 ≠ 0
  | 0x7200, 3 => (v &&& m.obj (pix u) 4) ≠ v
  | 0x7200, 4 => v % 16384 ≠ 0
  | 0x7300, 6 => v % 4096 ≠ 0
  | 0x4000, 2 => !([6400, 7500, 8533, 9600, 10667].contains v)
  | 0x2100, 1 => !([125, 250, 500, 1000].contains v)
  | 0x2100, 2 => !([1000, 2000, 4000, 5000].contains v)
  | 0x4000, 8 => fld v 31 24 ≠ 0 || [fld v 7 0, fld v 15 8, fld v 23 16].any (fun w => w = 0 || 64 < w)
  | 0x4810, 2 => !(v < 32 || v = 0xFE || v = 0xFF)
  | 0x4880, 1 => log2 (m.obj 0x4800 1) + 1 < v
  | 0x2600, 1 => fld v 7 6 = 3 || fld v 5 4 = 3 || fld v 3 2 = 3
  | _, _ => false

/-- A value outside the bounds of its row. -/
def outOfBounds (r : ObjRow) (v : Nat) : Bool :=
  match r.ty with
  | .int => toSigned (8 * r.size) v < r.lo || (r.hi : Int) < toSigned (8 * r.size) v
  | _ => v < r.lo || r.hi < v

/-! ## Targets (R420, R426) -/

/-- No pricking is installed in a partition. -/
def Mach.bare (m : Mach) (p : Nat) : Bool := (m.part p).resident.isNone && (m.part p).guest.isNone

/-- The target of a write takes it: a unit that is there, and idle where the object is RWI (R61, R297, R414, R512, Table 9-8). -/
def Mach.targetTakes (m : Mach) (r : ObjRow) (u : Nat) : Bool :=
  match rowPart r u with
  | some p =>
    if (r.base = 0x3000 && 3 ≤ r.sub && r.sub ≤ 0xA) || (r.base = 0x7200 && 2 ≤ r.sub && r.sub ≤ 5) then m.pstate p = 0
    else if m.pstate p = 0 then false
    else if r.base = 0x4880 then m.formed p && m.bare p
    else if r.base = 0x6480 && r.sub = 1 then m.noJob p && m.bare p
    else if r.acc = .rwi then m.noJob p
    else true
  | none => !m.absent r u

/-! ## Loop-backs of ports and CAN (R528, R529) -/

/-- A port as a port reset leaves it (R440): mailbox, MSI-X state and WBASE at their reset values. -/
def Port.cleared (x : Port) : Port := { Port.init x.up with perst := x.perst, bar2 := x.bar2, loopT0 := x.loopT0, aer := x.aer }

/-- The port leaves service as a link loss takes it. -/
def Mach.portDown (m : Mach) (x : Nat) : Mach := m.setHost x { (m.host x).cleared with up := false }

/-- The port trains again if its PERST is deasserted. -/
def Mach.portRetrain (m : Mach) (x : Nat) : Mach := m.setHost x { m.host x with up := !(m.host x).perst }

/-- What a loop-back has met is counted: bit errors, and the lanes with failed bits (Table 18-11). -/
def Mach.countLoop (m : Mach) (x : Nat) (seen : LoopSeen) : Mach :=
  let m := m.addObj (0xA100 + x) 3 seen.errors
  m.setField (0xA100 + x) 2 31 16 (m.field (0xA100 + x) 2 31 16 ||| seen.lanes)

/-- STATE of a port's loop-back: 0 off, 1 entering, 2 active, 3 FAILED. -/
def Mach.loopSt (m : Mach) (x : Nat) : Nat := m.field (0xA100 + x) 2 2 0

/-- A loop-back is under way. -/
def Mach.looping (m : Mach) (x : Nat) : Bool := m.loopSt x = 1 || m.loopSt x = 2

/-- A write to A100h + x.01 (Table 18-10, R528). -/
def Mach.writePcieLoop (m : Mach) (path : Path) (x v : Nat) (seen : LoopSeen) : Mach :=
  let loop := v % 8
  if loop > 3 then m.reply abortRange
  else if loop ≠ 0 && pathPort path = x then m.reply abortState
  else
    let same := loop = m.obj (0xA100 + x) 1 && m.looping x
    let was := m.looping x
    let m := (m.setObj (0xA100 + x) 1 loop).reply 0
    if same then m
    else
      let m := if was then m.countLoop x seen else m
      if loop = 0 then
        let m := m.setField (0xA100 + x) 2 2 0 0
        if was then m.portRetrain x else m
      else
        let m := (m.portDown x).setObj (0xA100 + x) 2 (if loop = 3 then 1 else 2)
        m.setHost x { m.host x with loopT0 := m.rc }

/-- CAN frames of the port: an identifier and data (Table 15-6). -/
def Mach.sendCan (m : Mach) (ident : Nat) (data : List Byte) : Mach := m.emit (.can (leBytes 2 ident ++ data))

/-- The node ID. -/
def Mach.node (m : Mach) : Nat := m.obj 0x2101 1

/-- Boot-up, from a port that may transmit; waiting EMCY frames follow. -/
def Mach.bootUp (m : Mach) : Mach :=
  if m.can.listen || m.can.busOff || m.field 0xA200 1 1 0 ≠ 0 then m else (m.sendCan (0x700 + m.node) [0]).sendEmcy

/-- A write to A200h.01 (R529). -/
def Mach.writeCanLoop (m : Mach) (path : Path) (v : Nat) : Mach :=
  let loop := v % 4
  if loop = 3 then m.reply abortRange
  else if loop ≠ 0 && path = .can then m.reply abortState
  else
    let old := m.obj 0xA200 1
    let m := (m.setObj 0xA200 1 loop).reply 0
    if loop = old then m
    else if loop = 0 then m.bootUp
    else { m with can := { m.can with loopT0 := m.rc } }

/-! ## Objects with effects of their own -/

/-- Clear the error history. -/
def Mach.clearHistory (m : Mach) : Mach := (List.range 9).foldl (fun (a : Mach) i => a.setObj 0x1003 i 0) m

/-- A write to 1003h.00 (Table 15-13). -/
def Mach.writeHistory (m : Mach) (v : Nat) : Mach := if v = 0 then m.clearHistory.reply 0 else m.reply abortRange

/-- A write to 1011h.01 (R421). -/
def Mach.writeRestore (m : Mach) (v : Nat) : Mach :=
  if v = 0x64616F6C then (m.reply 0).eachStore (fun _ x => { x with restore := true }) else m.reply abortRange

/-- A write to a client's binding or ring object (R390). -/
def Mach.writeClient (m : Mach) (n sub v : Nat) : Mach := let x := m.writeBinding n sub v; x.2.reply x.1

/-- A write to the partition command, by its OP (Table 14-13). -/
def Mach.writePartCommand (m : Mach) (p v : Nat) : Mach :=
  let op := fld v 19 16
  m.partCommand p v op (match op with
    | 0 => id
    | 1 => doForm p
    | 2 => doDissolve p
    | 3 => doPreempt p
    | _ => fun x => x.cmdDone (pix p) 2 false)

/-- A write to the firmware command, by its OP (Table 17-14). -/
def Mach.writeFwCommand (m : Mach) (s v : Nat) : Mach :=
  match fld v 18 16 with
  | 1 => doFwWrite s v m
  | 2 => doFwTrial s v m
  | 3 => doFwReboot s v m
  | 4 => doFwConfirm s v m
  | 5 => doFwHandover s v m
  | op => m.fwCommand s v op (fun _ => none)

/-- A write to the swatch control (Table 11-7). -/
def Mach.writeSwatch (m : Mach) (n v : Nat) : Mach :=
  if bit v 0 then doSwStart n v m
  else if bit v 1 then doSwStop n v m
  else if swRefused v then m.reply abortRange
  else if m.offStacks.contains (n / 4) then m.reply abortState
  else (m.setObj (0x4400 + n) 1 (swKept v)).reply 0

/-- The effect of a write to an object that is more than a register; none for a register. -/
def Mach.writeSpecial (m : Mach) (path : Path) (r : ObjRow) (u v : Nat) : Option Mach :=
  match r.base, r.sub with
  | 0x1003, 0 => some (m.writeHistory v)
  | 0x1011, 1 => some (m.writeRestore v)
  | 0x2400, 1 => some (doSourceSwitch u v m)
  | 0x3000, 1 => some (m.writePartCommand u v)
  | 0x3020, 1 => some (m.writeClient u 1 v)
  | 0x3020, 2 => some (m.writeClient u 2 v)
  | 0x3020, 3 => some (m.writeClient u 3 v)
  | 0x4400, 1 => some (m.writeSwatch u v)
  | 0x4800, 2 => some (m.writeFabricAddress v)
  | 0x4840, 1 => some (m.writeLinkCtl u v)
  | 0x6100, 3 => some (m.censusCommand u v)
  | 0x6440, 3 => some (m.cacheCommand u v)
  | 0x6480, 0xE => some (m.formatCommand u v)
  | 0x7020, 6 => some (doReplanNow v m)
  | 0x7200, 0xF => some (doFrog m u v)
  | 0x7300, 7 => some (m.writeFwCommand u v)
  | 0xA100, 1 => some (m.writePcieLoop path u v ⟨0, 0, false⟩)
  | 0xA200, 1 => some (m.writeCanLoop path v)
  | _, _ => none

/-- The routes and the selected recipe are written through their selections. -/
def Mach.writeSelected (m : Mach) (r : ObjRow) (u v : Nat) : Option Mach :=
  match r.base, r.sub with
  | 0x4810, 2 => some { m with routes := m.routes.put (m.obj 0x4810 1) v }
  | 0x6480, 5 =>
    let rid := m.obj (0x6480 + u) 4
    some (m.setRecipe u rid { m.recipeSt u rid with step := v % 2 ^ 64, p1 := v / 2 ^ 64 % 2 ^ 32, p2 := v / 2 ^ 96 })
  | _, _ => none

/-- The value a register holds after a write. -/
def Mach.keptValue (m : Mach) (idx : Nat) (r : ObjRow) (v : Nat) : Nat :=
  match clearMask r.base r.sub with
  | some k => m.obj idx r.sub - (m.obj idx r.sub &&& (v &&& k))
  | none => match keptMask r.base r.sub with
    | some k => v &&& k
    | none => v

/-- A write that is in range and reaches an idle target: a setting is committed first (R421; a commit that fails changes nothing). -/
def Mach.storeObj (m : Mach) (idx : Nat) (r : ObjRow) (u v : Nat) (commits : Bool) : Mach :=
  let w := m.keptValue idx r v
  if r.acc = .rwp && !commits then m.reply abortStore
  else match m.writeSelected r u w with
    | some m' => m'.reply 0
    | none => ((if r.acc = .rwp then m.commit (okey idx r.sub) w else m).setObj idx r.sub w).reply 0

/-- A write to the dictionary (R418 to R421): the answer is an abort code of Table 15-3, the earliest that applies, or 0. -/
def Mach.writeObj (m : Mach) (path : Path) (idx sub : Nat) (data : List Byte) (commits : Bool) : Mach :=
  match objFind idx sub with
  | (0, r, u) =>
    let v := leNat data
    if r.acc = .const || r.acc = .ro then m.reply abortReadOnly
    else if data.length ≠ r.size then m.reply abortLength
    else match m.writeSpecial path r u v with
      | some m' => m'
      | none =>
        if outOfBounds r v || m.refusedValue r u v then m.reply abortRange
        else if !m.targetTakes r u then m.reply abortState
        else m.storeObj idx r u v commits
  | (code, _, _) => m.reply code

/-- The object is a setting (RWP). -/
def isSetting (idx sub : Nat) : Bool := (objFind idx sub).1 = 0 && (objFind idx sub).2.1.acc = .rwp

/-! ## Writes of link objects -/

/-- Which command a write of the link control is: a loop-back entered or left, a retrain, or an enable. -/
def Mach.linkWriteKind (m : Mach) (l v : Nat) : Nat :=
  if fld v 10 8 ≠ 0 || m.field (0x4840 + l) 1 10 8 ≠ 0 then 2 else if bit v 1 then 1 else 0

/-- A write of the link control as one of the commands; a loop-back that was under way is counted. -/
def doLinkWrite (l v kind : Nat) (seen : LoopSeen) (m : Mach) : Mach :=
  if l ≥ 64 || m.linkWriteKind l v ≠ kind then m
  else
    let m := if kind = 2 && m.linkState l = 3 && m.field (0x4840 + l) 1 10 8 ≠ 0 then m.addObj (0x4840 + l) 0xB seen.errors else m
    m.writeLinkCtl l v

/-! ## The meanings -/

/-- OBJECT_WRITE (R418 to R420). -/
def execObjectWrite (path : Path) (idx sub : Nat) (data : List Byte) (s : State) : Result :=
  s.step (fun m => m.byPath path (fun m => m.writeObj path idx sub data true))

/-- RWP_WRITE (R421). -/
def execRwpWrite (path : Path) (idx sub : Nat) (data : List Byte) (commits : Bool) (s : State) : Result :=
  s.step (fun m => if isSetting idx sub then m.byPath path (fun m => m.writeObj path idx sub data commits) else m)

/-- RESTORE_DEFAULTS (R421). -/
def execRestoreDefaults (path : Path) (v : Nat) (s : State) : Result := s.step (fun m => m.byPath path (fun m => m.writeRestore v))

/-- ERROR_HISTORY_CLEAR (R442). -/
def execErrorHistoryClear (path : Path) (v : Nat) (s : State) : Result := s.step (fun m => m.byPath path (fun m => m.writeHistory v))

/-- CLIENT_BINDING_WRITE (R390). -/
def execClientBindingWrite (path : Path) (client sub v : Nat) (s : State) : Result :=
  s.step (fun m => if client < 512 && 1 ≤ sub && sub ≤ 3 then m.byPath path (fun m => m.writeClient client sub (v % 2 ^ 64)) else m)

/-- LINK_RETRAIN_COMMAND (R292). -/
def execLinkRetrainCommand (path : Path) (link v : Nat) (s : State) : Result :=
  s.step (fun m => m.byPath path (doLinkWrite link v 1 ⟨0, 0, false⟩))

/-- LINK_ENABLE (R292). -/
def execLinkEnable (path : Path) (link v : Nat) (s : State) : Result :=
  s.step (fun m => m.byPath path (doLinkWrite link v 0 ⟨0, 0, false⟩))

/-- LINK_LOOP_BACK (R311). -/
def execLinkLoopBack (path : Path) (link v : Nat) (seen : LoopSeen) (s : State) : Result :=
  s.step (fun m => m.byPath path (doLinkWrite link v 2 seen))

/-- FABRIC_ADDRESS_WRITE (R293). -/
def execFabricAddressWrite (path : Path) (v : Nat) (s : State) : Result := s.step (fun m => m.byPath path (fun m => m.writeFabricAddress v))

/-- PCIE_LOOP_BACK (R528). -/
def execPcieLoopBack (path : Path) (port v : Nat) (seen : LoopSeen) (s : State) : Result :=
  s.step (fun m => if port < 2 then m.byPath path (fun m => m.writePcieLoop path port v seen) else m)

/-- CAN_LOOP_BACK (R529). -/
def execCanLoopBack (path : Path) (v : Nat) (s : State) : Result := s.step (fun m => m.byPath path (fun m => m.writeCanLoop path v))

end Sys2Proof.Machine
end

