-- ==== Sys2Proof/Machine/Can.lean ====
section
/-! DEFINITION. The CAN FD port (R428 to R434): USDO transfers, NMT, heartbeat, EMCY conditions, TPDOs, bus-off, and the frames of a CAN
loop-back (R529). -/

namespace Sys2Proof.Machine

/-! ## USDO (R424, R427, R429) -/

/-- A USDO response, which is also the answer of the request. -/
def Mach.usdoReply (m : Mach) (abort size : Nat) (data : List Byte) : Mach :=
  { m.emit (.usdo abort size data) with answer := { abort := abort, data := data } }

def Mach.setUsdo (m : Mach) (x : Option Usdo) : Mach := { m with can := { m.can with usdo := x } }

/-- An upload: a value of 1 to 4 bytes is answered whole; a longer one is latched and sent in segments. -/
def Mach.usdoRead (m : Mach) (idx sub : Nat) : Mach :=
  match m.readObj idx sub with
  | (0, bs, m') =>
    if bs.length ≤ 4 then m'.usdoReply 0 bs.length bs
    else (m'.usdoReply 0 bs.length []).setUsdo (some { idx := idx, sub := sub, write := false, data := bs, moved := 0, total := bs.length, t0 := m.rc })
  | (code, _, _) => m.usdoReply code 0 []

/-- A download that the dictionary answers. -/
def Mach.usdoWrite (m : Mach) (idx sub : Nat) (data : List Byte) : Mach :=
  let m := m.writeObj .can idx sub data true
  m.usdoReply m.answer.abort 0 []

/-- The start of a segmented download: the object and the size are checked before any segment. -/
def Mach.usdoStart (m : Mach) (idx sub size : Nat) : Mach :=
  match objFind idx sub with
  | (0, r, _) =>
    if r.acc = .const || r.acc = .ro then m.usdoReply abortReadOnly 0 []
    else if size ≠ r.size then m.usdoReply abortLength 0 []
    else (m.usdoReply 0 size []).setUsdo (some { idx := idx, sub := sub, write := true, data := [], moved := 0, total := size, t0 := m.rc })
  | (code, _, _) => m.usdoReply code 0 []

/-- A segment of a download: the last one applies the value whole (R424); one that does not fit the size ends the transfer. -/
def Mach.usdoSegment (m : Mach) (x : Usdo) (data : List Byte) (last : Bool) : Mach :=
  let bs := x.data ++ data
  if bs.length > x.total || (last && bs.length ≠ x.total) then (m.setUsdo none).usdoReply abortLength 0 []
  else if last then (m.setUsdo none).usdoWrite x.idx x.sub bs
  else (m.setUsdo (some { x with data := bs, moved := bs.length, t0 := m.rc })).usdoReply 0 0 []

/-- The next segment of an upload, of at most `n` bytes. -/
def Mach.usdoMore (m : Mach) (x : Usdo) (n : Nat) : Mach :=
  let bs := (x.data.drop x.moved).take n
  let moved := x.moved + bs.length
  (m.setUsdo (if moved ≥ x.total then none else some { x with moved := moved, t0 := m.rc })).usdoReply 0 0 bs

/-- A USDO request: one transfer at a time; a request that starts one while another is under way is refused (log entry 191, DEDUCED). -/
def doUsdo (q : UsdoReq) (m : Mach) : Mach :=
  let busy := m.can.usdo.isSome
  match q, m.can.usdo with
  | .read idx sub, _ => if busy then m.usdoReply abortState 0 [] else m.usdoRead idx sub
  | .write idx sub data, _ =>
    if busy then m.usdoReply abortState 0 []
    else if data.isEmpty || data.length > 4 then m.usdoReply abortSpecifier 0 []
    else m.usdoWrite idx sub data
  | .start idx sub size, _ => if busy then m.usdoReply abortState 0 [] else m.usdoStart idx sub size
  | .segment data last, some x => if x.write then m.usdoSegment x data last else m.usdoReply abortSpecifier 0 []
  | .more n, some x => if x.write then m.usdoReply abortSpecifier 0 [] else m.usdoMore x n
  | .abort, some _ => m.setUsdo none
  | .abort, none => m
  | _, _ => m.usdoReply abortSpecifier 0 []

/-- A segmented transfer has waited 1 s for its next segment (Table 15-3). -/
def doUsdoTimeout (m : Mach) : Mach :=
  match m.can.usdo with
  | some x => if m.rc ≥ x.t0 + 25000000 then (m.setUsdo none).usdoReply abortTimeout 0 [] else m
  | none => m

/-! ## NMT (R431) -/

/-- The port receives an NMT command that names it, or every node. -/
def Mach.hears (m : Mach) (node : Nat) : Bool :=
  m.online && !m.can.listen && !m.can.busOff && m.can.nmt ≠ 0 && m.field 0xA200 1 1 0 ≠ 1 && (node = 0 || node = m.node)

/-- The NMT state of the port: 4 Stopped, 5 Operational, 7Fh Pre-operational; USDO runs in the last two only. -/
def Mach.setNmt (m : Mach) (st : Nat) : Mach :=
  { m with can := { m.can with nmt := st, usdo := if st = 4 then none else m.can.usdo } }

/-- The port starts again: a transfer is abandoned with no response, boot-up is sent, and the port is Pre-operational. -/
def Mach.resetCan (m : Mach) : Mach := ({ m with can := { m.can with nmt := 0x7F, usdo := none } }).bootUp

/-- After boot-up the port enters Operational by itself when 2100h.03 is 1. -/
def Mach.autostart (m : Mach) : Mach := if m.obj 0x2100 3 = 1 then m.setNmt 5 else m

/-- A pending restore is carried out: every setting takes its default, in the store and in the module, and the mark is cleared (R421). -/
def Mach.carryRestore (m : Mach) : Mach :=
  { m.eachStore (fun _ x => { x with sets := [], restore := false }) with objs := m.objs.delIf (fun k => isSetting (k / 256) (k % 256)) }

/-! ## Heartbeat, TPDOs (R432, R434) -/

/-- HEARTBEAT: the NMT state in one byte, every 1017h ms. -/
def doHeartbeat (m : Mach) : Mach :=
  if m.canSends then m.every everyHeartbeat (25000 * m.obj 0x1017 0) (fun m => m.sendCan (0x700 + m.node) (leBytes 1 m.can.nmt)) else m

/-- The data of a TPDO: its objects latched together, padded to its length (Table 15-8). -/
def Mach.tpdoData (m : Mach) (t : Nat) : List Byte :=
  padTo ([20, 20, 16, 12].getD t 0) ((tpdoMap t).flatMap (fun e => (m.readObj e.1 e.2.1).2.1))

/-- TPDO `t` (0 to 3): sent in Operational as its event timer runs out, and not within its inhibit time, unless the timer is 0. -/
def doTpdo (t : Nat) (m : Mach) : Mach :=
  if t < 4 && m.canSends && m.can.nmt = 5 && m.obj (0x1800 + t) 5 ≠ 0 then
    m.every (everyTpdo t) (max (25000 * m.obj (0x1800 + t) 5) (2500 * m.obj (0x1800 + t) 3)) (fun m =>
      { m.sendCan (0x180 + 0x100 * t + m.node) (m.tpdoData t) with free := m.free + 1 })
  else m

/-! ## EMCY and bus-off (R428, R433) -/

/-- EMCY: a condition becomes active or clears. -/
def doEmcy (c : EmcyCond) (active : Bool) (detail : Nat) (m : Mach) : Mach :=
  if !m.online then m else if active then m.emcySet c detail else m.emcyClear c

/-- EMCY_INHIBIT_EXPIRY: the oldest waiting frame is sent. -/
def doInhibit (m : Mach) : Mach := m.sendEmcy

/-- BUS_OFF_RECOVERY: the port was bus-off and comes back with its error counters at 0 (R428). -/
def doBusOff (m : Mach) : Mach :=
  if m.can.listen || m.can.nmt = 0 then m
  else
    let m := { m with can := { m.can with busOff := false } }
    (((m.setObj 0x2101 3 0).setObj 0x2101 4 0).addObj32 0x2101 5 1).sendEmcy

/-! ## Loop-backs that end, test frames (R528, R529) -/

/-- LOOP_BACK_TIMEOUT of a port: 60 s after it began; a far partner that has entered makes it active, one that has not within 100 ms makes it
FAILED. -/
def doPortLoopTime (x : Nat) (seen : LoopSeen) (m : Mach) : Mach :=
  let age := m.rc - (m.host x).loopT0
  if !m.looping x then m
  else if age ≥ 1500000000 then (((m.countLoop x seen).setField (0xA100 + x) 2 2 0 0).setObj (0xA100 + x) 1 0).portRetrain x
  else if m.loopSt x = 1 && seen.entered then (m.countLoop x seen).setField (0xA100 + x) 2 2 0 2
  else if m.loopSt x = 1 && age ≥ 2500000 then (m.setField (0xA100 + x) 2 2 0 3).portRetrain x
  else m

/-- LOOP_BACK_TIMEOUT of CAN: 60 s after it began. -/
def doCanLoopTime (m : Mach) : Mach :=
  if m.obj 0xA200 1 ≠ 0 && m.rc ≥ m.can.loopT0 + 1500000000 then (m.setObj 0xA200 1 0).bootUp else m

/-- The 64 data bytes of a test frame: where in PRBS31 a frame begins is not stated (free values). -/
def Mach.testData (m : Mach) : List Byte := (List.range 64).map (fun i => BitVec.ofNat 8 (Config.freeNat m.free i))

/-- CAN_TEST_FRAME: a frame is sent and checked; in the internal depth it does not reach the bus. -/
def doTestFrame (intact : Bool) (m : Mach) : Mach :=
  if m.obj 0xA200 1 = 0 then m
  else
    let m := m.addObj32 0xA200 2 1
    let m := if intact then m else m.addObj32 0xA200 3 1
    if m.obj 0xA200 1 = 2 && !m.can.listen && !m.can.busOff then
      { m.sendCan (0x7E0 + m.node % 16) m.testData with free := m.free + 1 }
    else m

/-! ## The meanings -/

/-- USDO (R429). -/
def execUsdo (req : UsdoReq) (s : State) : Result := s.step (fun m => m.byPath .can (doUsdo req))

/-- USDO_TIMEOUT (R419). -/
def execUsdoTimeout (s : State) : Result := s.step doUsdoTimeout

/-- NMT_START (R431). -/
def execNmtStart (node : Nat) (s : State) : Result := s.step (fun m => if m.hears node then m.setNmt 5 else m)

/-- NMT_STOP (R431). -/
def execNmtStop (node : Nat) (s : State) : Result := s.step (fun m => if m.hears node then m.setNmt 4 else m)

/-- NMT_ENTER_PRE_OPERATIONAL (R431). -/
def execNmtEnterPreOperational (node : Nat) (s : State) : Result := s.step (fun m => if m.hears node then m.setNmt 0x7F else m)

/-- NMT_RESET_COMMUNICATION (R431). -/
def execNmtResetCommunication (node : Nat) (s : State) : Result :=
  s.step (fun m => if m.hears node then m.resetCan.autostart else m)

/-- NMT_RESET_NODE (R431). -/
def execNmtResetNode (node : Nat) (s : State) : Result :=
  s.step (fun m => if m.hears node then (if m.store.restore then m.carryRestore else m).resetCan.autostart else m)

/-- HEARTBEAT (R432). -/
def execHeartbeat (s : State) : Result := s.step doHeartbeat

/-- EMCY (R433). -/
def execEmcy (cond : EmcyCond) (active : Bool) (detail : Nat) (s : State) : Result := s.step (doEmcy cond active detail)

/-- TPDO (R434). -/
def execTpdo (n : Nat) (s : State) : Result := s.step (doTpdo n)

/-- BUS_OFF_RECOVERY (R428). -/
def execBusOffRecovery (s : State) : Result := s.step doBusOff

/-- EMCY_INHIBIT_EXPIRY (R433). -/
def execEmcyInhibitExpiry (s : State) : Result := s.step doInhibit

/-- LOOP_BACK_TIMEOUT (R528, R529): ports 0 and 1, and CAN 2. -/
def execLoopBackTimeout (which : Nat) (seen : LoopSeen) (s : State) : Result :=
  s.step (fun m => if which < 2 then doPortLoopTime which seen m else if which = 2 then doCanLoopTime m else m)

/-- CAN_TEST_FRAME (R529). -/
def execCanTestFrame (intact : Bool) (s : State) : Result := s.step (fun m => m.every everyTest 250000 (doTestFrame intact))

end Sys2Proof.Machine
end

