-- ==== Sys2Proof/Machine/Pcie.lean ====
section
/-! DEFINITION. The host ports (R435 to R441): the mailbox, BAR2, MSI-X vectors, port resets and training. -/

namespace Sys2Proof.Machine

/-! ## The mailbox (R424, R437) -/

/-- A response is written and MB_STATUS shows its SEQ. -/
def Mach.mbAnswer (m : Mach) (port : Nat) (q : MbReq) (abort total : Nat) (data : List Byte) : Mach :=
  let m := m.setHost port { m.host port with
    doneSeq := q.seq % 65536, resp := { abort := abort, total := total, seq := q.seq % 65536, data := data } }
  { m with answer := { abort := abort, data := data } }

/-- A doorbell: ignored while BUSY = 1, which sets OVERRUN; with both supervisors lost no response comes and BUSY stays (R506). -/
def Mach.doorbell (m : Mach) (port : Nat) (f : Mach → Mach) : Mach :=
  let x := m.host port
  if port > 1 || !x.up then m
  else if x.busy then m.setHost port { x with overrun := true }
  else if !m.online then m.setHost port { x with busy := true }
  else f m

/-- A read with OFF = 0 takes a new latch; a later part comes from the latch of the same object. -/
def Mach.mbRead (m : Mach) (port : Nat) (q : MbReq) : Mach :=
  match objFind q.idx q.sub with
  | (0, r, _) =>
    if r.acc = .wo then m.mbAnswer port q abortWriteOnly 0 []
    else if q.seg = 0 then
      match m.readObj q.idx q.sub with
      | (code, bs, m') =>
        (m'.setHost port { m'.host port with latch := some (q.idx, q.sub, bs) }).mbAnswer port q code bs.length (bs.take 4080)
    else if r.ty ≠ .domain then m.mbAnswer port q abortRange 0 []
    else match (m.host port).latch with
      | some (i, s, bs) =>
        if i ≠ q.idx || s ≠ q.sub then m.mbAnswer port q abortState 0 []
        else if q.seg ≥ bs.length then m.mbAnswer port q abortRange 0 []
        else m.mbAnswer port q 0 bs.length ((bs.drop q.seg).take 4080)
      | none => m.mbAnswer port q abortState 0 []
  | (code, _, _) => m.mbAnswer port q code 0 []

/-- The path of a port's mailbox. -/
def portPath (port : Nat) : Path := if port = 0 then .portA else .portB

def Mach.setPartial (m : Mach) (port : Nat) (x : Option (Nat × Nat × List Byte)) : Mach := m.setHost port { m.host port with part := x }

/-- A whole value is written. -/
def Mach.mbApply (m : Mach) (port : Nat) (q : MbReq) (bs : List Byte) : Mach :=
  let m := (m.setPartial port none).writeObj (portPath port) q.idx q.sub bs true
  m.mbAnswer port q m.answer.abort 0 []

/-- A write; a DOMAIN may come in parts, each at the end of the one before, and applies with the part that ends at its size. -/
def Mach.mbWrite (m : Mach) (port : Nat) (q : MbReq) : Mach :=
  match objFind q.idx q.sub with
  | (0, r, _) =>
    let bs := padTo q.len q.data
    if r.acc = .const || r.acc = .ro then m.mbAnswer port q abortReadOnly 0 []
    else if q.len = 0 || q.len > 4080 then m.mbAnswer port q abortLength 0 []
    else if r.ty ≠ .domain then
      if q.len ≠ r.size then m.mbAnswer port q abortLength 0 []
      else if q.seg ≠ 0 then m.mbAnswer port q abortRange 0 []
      else m.mbApply port q bs
    else
      let before : Option (List Byte) :=
        if q.seg = 0 then some []
        else match (m.host port).part with
          | some (i, s, old) => if i = q.idx && s = q.sub && old.length = q.seg then some old else none
          | none => none
      if q.seg + q.len > r.size then (m.setPartial port none).mbAnswer port q abortLength 0 []
      else match before with
        | none => (m.setPartial port none).mbAnswer port q abortRange 0 []
        | some old =>
          if q.seg + q.len = r.size then m.mbApply port q (old ++ bs)
          else (m.setPartial port (some (q.idx, q.sub, old ++ bs))).mbAnswer port q 0 0 []
  | (code, _, _) => m.mbAnswer port q code 0 []

/-! ## BAR2 (R438, R328) -/

/-- A stack that BAR2 reaches at an offset: in service below the offsets that inline ECC removes, or in test over its whole range (R320, R322). -/
def Mach.barStack (m : Mach) (s off : Nat) : Bool := (m.inService s && off < stackUsable) || (s < 48 && m.stackState s = 6 && off < 2 ^ 35)

/-- An access completes as an Unsupported Request. -/
def Mach.unsupported (m : Mach) (port : Nat) (a : BarAcc) : Bool :=
  let lo := (m.host port).wbase + a.off
  let hi := lo + a.len - 1
  let s := lo / 2 ^ 35
  a.len = 0 || a.off + a.len > (m.host port).bar2 || hi / 2 ^ 35 ≠ s || !m.barStack s (lo % 2 ^ 35) || !m.barStack s (hi % 2 ^ 35) || m.swatchOn s

/-- The completion status that the model records for a BAR2 access: an Unsupported Request, a poisoned completion. -/
def barUnsupported : Nat := 1
def barPoisoned : Nat := 2

/-- The pieces of a range, one to each half it touches: key and bytes. -/
def halves (key : Nat) (bs : List Byte) : List (Nat × List Byte) :=
  (List.range (bs.length / 32 + 2)).filterMap (fun i =>
    let lo := max key ((key / 32 + i) * 32)
    let piece := (bs.drop (lo - key)).take ((key / 32 + i + 1) * 32 - lo)
    if piece.isEmpty then none else some (lo, piece))

/-- The uncorrectable halves that the reads of a range meet, one a unit; a stack in test has no check words (R322). -/
def Mach.barLost (m : Mach) (s key n : Nat) : List Nat := if m.stackState s = 6 then [] else m.badUnits key n

/-- A write through BAR2: a part of an uncorrectable half is not written, and its unit is counted and recorded once (R319). -/
def Mach.barWrite (m : Mach) (s key : Nat) (bs : List Byte) : Mach :=
  if m.stackState s = 6 then m.wr key bs
  else
    let lost := (halves key bs).filter (fun w => (m.badWrite [w]).isSome)
    let m := m.wrAll ((halves key bs).filter (fun w => (m.badWrite [w]).isNone))
    let first := lost.foldl (fun (a : List Nat) w => if a.any (fun k => k / 64 = w.1 / 64) then a else a ++ [w.1 / 32 * 32]) []
    first.foldl (fun (a : Mach) k => a.eccLost 3 k 2) m

/-- A port reports an error through AER (R441). -/
def Mach.report (m : Mach) (port : Nat) (k : Aer) : Mach :=
  let x := m.host port
  m.setHost port { x with aer := if x.aer.contains k then x.aer else x.aer ++ [k] }

/-- BAR2_ACCESS. -/
def doBar2 (port : Nat) (a : BarAcc) (m : Mach) : Mach :=
  if port > 1 || !(m.host port).up then m
  else if m.unsupported port a then { m.report port .unsupported with answer := { abort := barUnsupported, data := [] } }
  else
    let key := (m.host port).wbase + a.off
    let s := key / 2 ^ 35
    let m := m.touchStack s
    if a.write then (if a.ep then m.report port .poisonedWrite else m.barWrite s key (padTo a.len a.data)).reply 0
    else match m.barLost s key a.len with
      | [] => { m with answer := { abort := 0, data := m.rd key a.len } }
      | hs =>
        { (hs.foldl (fun (b : Mach) h => b.eccLost 3 h 2) m).report port .poisonedRead with answer := { abort := barPoisoned, data := zeros a.len } }

/-- A write of WBASE_HI applies both halves; a base that is not a multiple of the BAR2 size is ignored. -/
def doWbase (port v : Nat) (m : Mach) : Mach :=
  let x := m.host port
  if port > 1 || !x.up || v % 2 ^ 64 % x.bar2 ≠ 0 then m else m.setHost port { x with wbase := v % 2 ^ 64 }

/-! ## Vectors and resets (R439, R440, R517) -/

/-- VECTOR_UNMASK: a pending message is sent. -/
def doUnmask (port vec : Nat) (m : Mach) : Mach :=
  let x := m.host port
  if port > 1 || !x.up || vec ≥ 2048 then m
  else
    let y := { x with unmasked := if x.unmasked.contains vec then x.unmasked else x.unmasked ++ [vec], pend := x.pend.filter (fun v => v ≠ vec) }
    let m := m.setHost port y
    if x.pend.contains vec then m.emit (.msix port vec) else m

/-- PORT_RESET: mailbox, MSI-X state and WBASE of the port return to their reset values; a reset other than an FLR takes its link down. -/
def doPortReset (port : Nat) (cause : PortCause) (m : Mach) : Mach :=
  if port > 1 then m
  else
    let x := (m.host port).cleared
    m.setHost port (match cause with
      | .perst => { x with up := false, perst := true }
      | .flr => x
      | .linkDown => { x with up := false })

/-- PERST_DEASSERT: a port that waits trains; one in a loop-back stays in it. -/
def doPerst (port : Nat) (trained : Bool) (m : Mach) : Mach :=
  if port > 1 then m
  else
    let x := m.host port
    m.setHost port { x with perst := false, up := if m.looping port then x.up else x.up || (trained && m.phase = .running) }

/-! ## The meanings -/

/-- MAILBOX_READ (R437): CMD 01h; a CMD that is not valid is refused. -/
def execMailboxRead (port : Nat) (req : MbReq) (s : State) : Result :=
  s.step (fun m =>
    if req.cmd = 2 then m
    else m.doorbell port (fun m => if req.cmd = 1 then m.mbRead port req else m.mbAnswer port req abortSpecifier 0 []))

/-- MAILBOX_WRITE (R437): CMD 02h. -/
def execMailboxWrite (port : Nat) (req : MbReq) (s : State) : Result :=
  s.step (fun m => if req.cmd ≠ 2 then m else m.doorbell port (fun m => m.mbWrite port req))

/-- BAR2_ACCESS (R438). -/
def execBar2Access (port : Nat) (acc : BarAcc) (s : State) : Result := s.step (doBar2 port acc)

/-- VECTOR_UNMASK (R439). -/
def execVectorUnmask (port vec : Nat) (s : State) : Result := s.step (doUnmask port vec)

/-- PORT_RESET (R440). -/
def execPortReset (port : Nat) (cause : PortCause) (s : State) : Result := s.always (doPortReset port cause)

/-- PERST_DEASSERT (R517). -/
def execPerstDeassert (port : Nat) (trained : Bool) (s : State) : Result := s.always (doPerst port trained)

/-- BAR2_WINDOW_BASE_WRITE (R437, R438). -/
def execBar2WindowBaseWrite (port v : Nat) (s : State) : Result := s.step (doWbase port v)

end Sys2Proof.Machine
end

