-- ==== Sys2Proof/Machine/CastOn.lean ====
section
/-! DEFINITION. Cast-on, shutdown and resets (R514 to R526), and the status outputs (R519, R520). -/

namespace Sys2Proof.Machine

/-! ## Routes between dies (R24 to R28) -/

/-- A die that neither order reaches from IA without a faulty bridge: the words of R27 are "as seen from IA", and a pair of other dies that no order
joins while IA reaches both binds none off (log entry 206, DEDUCED). -/
def dieCut (dead : List Nat) (d : Nat) : Bool := (routeOf dead [] 8 d).isNone

/-! ## Units found bad at cast-on (R523) -/

/-- A unit that fails a test of cast-on is entered in the repair map and in the fault log. -/
def Mach.castBad (m : Mach) (level die clus unit : Nat) (loc : Option (Nat × Nat × Nat)) : Mach :=
  (m.repair level die clus unit 0).logFault (m.unitRecord 0 0xFF 0xFFFF loc)

/-- Entries of the repair map at a level. -/
def Mach.entries (m : Mach) (level : Nat) : List RepEntry := m.store.repair.filter (fun e => e.level = level)

/-- A stack leaves service at cast-on: STATE bound off, with the reason it failed for. -/
def Mach.stackOff (m : Mach) (s reason : Nat) : Mach :=
  if m.offStacks.contains s then m
  else { (m.setStackState s 5).setField (0x4100 + s) 2 11 8 reason with offStacks := m.offStacks ++ [s] }

/-- A stack is lost at cast-on (R333). -/
def Mach.castLose (m : Mach) (s reason : Nat) : Mach :=
  if m.offStacks.contains s then m else (m.castBad 4 (s / 6) 0 s none).stackOff s reason

/-! ## Steps 2 to 11 (Table 18-4) -/

/-- The supervisors read their stores: an entry of either copy of the repair map is applied and both copies hold it (R523); the rest of the history
is taken from the copy that has seen more cast-ons, the active supervisor's before the other (log entry 138, DESIGN CHOICE). 2009h counts up. -/
def Mach.joinStores (m : Mach) : Mach :=
  let live := [0, 1].filter m.alive
  let all := live.map m.flash.store
  let n := (all.map Store.castOns).foldl max 0
  match all.find? (fun x => x.castOns = n) with
  | none => m
  | some h =>
    m.eachStore (fun _ x =>
      { all.foldl (fun (a : Store) y => y.repair.foldl Store.enter a) x with rows := h.rows, log := h.log, logged := h.logged, castOns := n + 1 })

/-- Step 2: straps, supervisors, settings (R518, R507, R508, R421). Both supervisors failing halts cast-on. -/
def Mach.castSup (m : Mach) (e : CastEnv) : Mach :=
  let boot := e.boot % 4
  let m := { m with supLost := [0, 1].filter e.deadSup.contains }
  let m := (m.setObj 0xA000 1 (boot + 4 * b2n (boot = 3))).setObj 0x2101 1 (e.pos % 128)
  let live := [0, 1].filter m.alive
  let m := ({ m with active := live.headD 0 }).joinStores
  let m := live.foldl (fun (a : Mach) s => (if boot = 1 then a.bootOther s else a.bootSup s).showSup s) m
  let m := if boot ≠ 2 then m.eachStore (fun _ x => if x.restore then { x with sets := [], restore := false } else x) else m
  let sets := if boot = 2 then [] else m.store.settings (m.running m.active)
  let m := sets.foldl (fun (a : Mach) (x : Nat × Nat) => { a with objs := a.objs.put x.1 x.2 }) m
  let m := m.showLinks
  { m with dataRate := m.obj 0x4000 2, phase := if live.isEmpty then .halted 2 else .waiting, can := { m.can with listen := decide (e.pos % 128 = 0) } }

/-- Step 4: the masters lock; one that fails gives its islands to the other, both halt cast-on. -/
def Mach.castMasters (m : Mach) (e : CastEnv) : Mach :=
  let m := m.setObj 0x2210 1 (1 + 4 * b2n e.maLock + 8 * b2n e.mbLock)
  if !e.maLock && !e.mbLock then { m with phase := .halted 4 }
  else if e.maLock && e.mbLock then m
  else
    let src := if e.maLock then 1 else 2
    ((List.range 180).filter (fun i => (m.island i).src ≠ src)).foldl (fun (a : Mach) i => a.setIsland i { a.island i with src := src }) m

/-- Step 5: the bridges' self-test, and the dies that no route reaches (R27, R28). -/
def Mach.castDies (m : Mach) (e : CastEnv) : Mach :=
  let known := (m.entries 3).map (fun x => x.unit)
  let m := ((e.deadBridges.filter (fun b => b < 10 && !known.contains b)).dedup).foldl (fun (a : Mach) b => a.castBad 3 0 0 b none) m
  let dead := (m.entries 3).map (fun x => x.unit)
  let m := ((List.range 8).filter (dieCut dead)).foldl (fun (a : Mach) d => a.repair 6 d 0 0 0) m
  let off := ((m.entries 6).map (fun x => x.die)).dedup
  off.foldl (fun (a : Mach) d =>
    let a := { a with offClusters := a.offClusters ++ (List.range 16).map (16 * d + ·) }
    let a := (List.range 6).foldl (fun (b : Mach) i => b.stackOff (6 * d + i) 0) a
    let a := (List.range 8).foldl (fun (b : Mach) i => (b.setBit (0x4840 + 8 * d + i) 1 0 false).setLinkState (8 * d + i) 0) a
    let a := { a with offLinks := a.offLinks ++ (List.range 8).map (8 * d + ·) }
    a.setIsland (128 + d) { a.island (128 + d) with on := false }) { m with dieRoutes := routeTable dead off }

/-- Hard repair of a stack's pending rows: each row whose bank's resource is free; a row with none left loses the stack (R331). -/
def Mach.hardRepair (m : Mach) (s : Nat) : Mach :=
  (m.store.rowsOf s).pending.foldl (fun (a : Mach) row =>
    let r := a.store.rowsOf s
    if r.hard.contains (row % 128) then (a.castLose s 3).rowLost s row
    else a.setRows s { r with pending := r.pending.filter (· ≠ row), hard := r.hard ++ [row % 128] }) m

/-- Step 6: stacks are trained and repaired; one with ECC off serves the test only (R322, R331, R333). -/
def Mach.castStacks (m : Mach) (e : CastEnv) : Mach :=
  let m := ((m.entries 4).map (fun x => x.unit)).foldl (fun (a : Mach) s => a.stackOff s 0) m
  let m := (e.deadStacks.filter (· < 48)).foldl (fun (a : Mach) s => a.castLose s 1) m
  (List.range 48).foldl (fun (a : Mach) s =>
    let a := if a.offStacks.contains s then a else a.hardRepair s
    if a.offStacks.contains s then a
    else (a.setStackState s (if a.objBit (0x4100 + s) 1 0 then 1 else 6)).setRows s { a.store.rowsOf s with full := false }) m

/-- Step 7: failing slots and clusters enter the repair map, and logical cores are assigned (R34, R35). -/
def Mach.castCores (m : Mach) (e : CastEnv) : Mach :=
  let m := (e.deadSlots.filter (fun x => x / 17 < 128 && !m.offClusters.contains (x / 17))).foldl (fun (a : Mach) x =>
    let g := x / 17
    a.castBad 1 (g / 16) (g % 16) (x % 17) (some (g / 16, g % 16, x % 17))) m
  let m := (e.deadClusters.filter (fun g => g < 128 && !m.offClusters.contains g)).foldl (fun (a : Mach) g => a.castBad 2 (g / 16) (g % 16) 0 none) m
  (List.range 128).foldl (fun (a : Mach) g =>
    if a.offClusters.contains g then a
    else
      let dead := (a.deadSlots g).dedup
      let low := dead.filter (· < 16)
      let off (b : Mach) : Mach := { b with offClusters := b.offClusters ++ [g] }
      if (a.entries 2).any (fun x => 16 * x.die + x.clus = g) then off a
      else if low.length ≥ 2 || (low.length = 1 && dead.contains 16) then off (a.repair 2 (g / 16) (g % 16) 0 0)
      else match low with
        | [j] => a.setCore (16 * g + j) { a.core (16 * g + j) with slot := 16 }
        | _ => a) m

/-- Step 8: engine memories, and the quick pass: a failing row is softly repaired, a channel that stays bad loses its stack (R337). -/
def Mach.castMemories (m : Mach) (e : CastEnv) : Mach :=
  let m := (e.deadEngines.filter (· < 10)).foldl (fun (a : Mach) x =>
    ((a.setMed x { a.med x with failed := true }).setField (0x5100 + x) 1 2 0 4).logFault (a.unitRecord 0 0xFF 0xFFFF none)) m
  let m := (e.badRows.filter (fun x => x.1 < 48 && !m.offStacks.contains x.1)).foldl (fun (a : Mach) x =>
    let a := a.candidate x.1 x.2
    let y := a.srt x.1
    if y.soft.any (fun r => r % 128 = x.2 % 128) then a else a.setSrt x.1 { y with soft := y.soft ++ [x.2] }) m
  (e.deadChannels.filter (· < 192)).foldl (fun (a : Mach) n => a.castLose (n / 4) 2) m

/-- Step 9: every link with EN = 1 trains; a link lost for good stays down (R292, R314). -/
def Mach.castLinks (m : Mach) (e : CastEnv) : Mach :=
  let lost := ((m.entries 5).map (fun x => x.unit)).filter (fun l => !m.offLinks.contains l)
  let m := { m with offLinks := m.offLinks ++ lost.dedup }
  let dark : LinkEnv := { fail := 1, farAddr := 0, farValid := false, farLink := 0, farVersions := 0, probes := [] }
  (List.range 64).foldl (fun (a : Mach) l =>
    if !a.linkExists l || !a.objBit (0x4840 + l) 1 0 then a
    else
      let a := (a.trainLink l).finishTraining l (e.links.getD l dark)
      a.setLrt l { a.lrt l with reported := true }) m

/-- Step 10: each port whose PERST is deasserted trains (R517). -/
def Mach.castPorts (m : Mach) (e : CastEnv) : Mach :=
  let train (x : Nat) (ok : Bool) (a : Mach) : Mach :=
    a.setHost x { Port.init (ok && !(a.host x).perst) with perst := (a.host x).perst }
  train 0 e.portA (train 1 e.portB m)

/-- The reasons of a replacement request that the repair map and the supervisors give; units off with their die give DIE and BRIDGE alone
(R28, R503). -/
def Mach.castReasons (m : Mach) : List Nat :=
  let dies := (m.entries 6).map (fun x => x.die)
  [(0, m.offClusters.any (fun g => !dies.contains (g / 16))), (1, m.offStacks.any (fun s => !dies.contains (s / 6))),
   (2, !(m.entries 5).isEmpty), (4, !m.supLost.isEmpty), (5, !(m.entries 3).isEmpty || !dies.isEmpty), (6, !dies.isEmpty)].filterMap
    (fun x => if x.2 then some x.1 else none)

/-- Step 11: the first replan, boot-up, the replacement request for every reason. -/
def Mach.castService (m : Mach) : Mach :=
  let m := { m with phase := .running, beats := [], can := { m.can with nmt := if m.can.listen then 0 else 0x7F } }
  let m := if m.can.listen then m.replan else m.replan.bootUp.autostart
  match m.castReasons with
  | [] => m
  | r :: rs => (rs.foldl (fun (a : Mach) x => a.setBit 0x7000 2 x true) m).replacement r

/-- Steps 4 to 11; the rc counter starts at 0 as REFCLK is qualified (R448). -/
def Mach.castRest (m : Mach) (e : CastEnv) : Mach :=
  let m := { m with rc := 0 }.castMasters e
  if m.phase ≠ .waiting then m
  else ((((((m.castDies e).castStacks e).castCores e).castMemories e).castLinks e).castPorts e).castService

/-- What a reset or a loss of power leaves: the flash, the PERST lines as they stand, and with power the test access port and the comparator's
THERM_TRIP_N (R514, R516, R526). -/
def Mach.cleared (m : Mach) (power : Bool) (ph : Phase) : Mach :=
  let lines := [0, 1].map (fun x => (x, { Port.init false with perst := (m.host x).perst }))
  let b := { Mach.blank m.flash (if power then m.tap else Tap.init) lines m.free with phase := ph }
  if power && m.tripped then b.setBit 0x2280 2 3 true else b

/-- A cast-on from its first step that matters to the state: step 2, the wait for REFCLK, and the rest. -/
def Mach.castOn (m : Mach) (power : Bool) (e : CastEnv) : Mach :=
  let m := m.cleared power .waiting
  let m := ({ m with tap := { m.tap with pins := false } }).castSup e
  if m.phase = .waiting && e.refclk then m.castRest e else m

/-- VIN_48 lies within 40 to 60 V. -/
def vinGood (tenMv : Nat) : Bool := 4000 ≤ tenMv && tenMv ≤ 6000

/-- CAST_ON: MOD_EN goes high, or MOD_RST_N is released (R514, R516). -/
def doCastOn (e : CastEnv) (m : Mach) : Mach :=
  match m.phase with
  | .off => if vinGood e.tenMv then m.castOn false e else { m with phase := .lowVin }
  | .held => m.castOn true e
  | _ => m

/-- REFCLK_QUALIFY: a cast-on that waits goes on (R448). -/
def doQualify (e : CastEnv) (m : Mach) : Mach := if m.phase = .waiting then m.castRest e else m

/-- SHUTDOWN: MOD_EN goes low (R514). -/
def doShutdown (m : Mach) : Mach := m.cleared false .off

/-- VIN_OUT_OF_RANGE (R515). -/
def doVinOut (tenMv : Nat) (m : Mach) : Mach :=
  if m.phase = .off || (3800 ≤ tenMv && tenMv ≤ 6200) then m else m.cleared false .lowVin

/-- VIN_RETURN (R515). -/
def doVinBack (tenMv : Nat) (e : CastEnv) (m : Mach) : Mach :=
  if m.phase = .lowVin && vinGood tenMv then m.castOn false e else m

/-- MOD_RST_ASSERT (R516). -/
def doModRst (m : Mach) : Mach := if m.phase = .off || m.phase = .lowVin then m else m.cleared true .held

/-! ## Status outputs (Tables 18-2 and 18-3) -/

/-- PWR_GOOD. -/
def Mach.pwrGood (m : Mach) : Bool := m.phase = .running

/-- ALERT_N is driven low. -/
def Mach.alert (m : Mach) : Bool := m.phase = .running && (m.obj 0x2007 0 ≠ 0 || m.obj 0x7000 1 = 1)

/-- THERM_TRIP_N is driven low. -/
def Mach.thermTrip (m : Mach) : Bool := m.tripped

/-- LED[3:0]: the code and whether it blinks. -/
def Mach.led (m : Mach) : Nat × Bool :=
  match m.phase with
  | .halted n => (n, true)
  | .waiting => (3, true)
  | .running => if m.tripped then (0xF, false) else (0xB + max 1 m.modState, false)
  | _ => (0, false)

/-! ## The meanings -/

/-- CAST_ON (R521). -/
def execCastOn (env : CastEnv) (s : State) : Result := s.always (doCastOn env)

/-- REFCLK_QUALIFY (R448). -/
def execRefclkQualify (env : CastEnv) (s : State) : Result := s.always (doQualify env)

/-- SHUTDOWN (R514). -/
def execShutdown (s : State) : Result := s.always doShutdown

/-- VIN_OUT_OF_RANGE (R515). -/
def execVinOutOfRange (tenMv : Nat) (s : State) : Result := s.always (doVinOut tenMv)

/-- VIN_RETURN (R515). -/
def execVinReturn (tenMv : Nat) (env : CastEnv) (s : State) : Result := s.always (doVinBack tenMv env)

/-- MOD_RST_ASSERT (R516). -/
def execModRstAssert (s : State) : Result := s.always doModRst

end Sys2Proof.Machine
end

