-- ==== Sys2Proof/Machine/TestAccess.lean ====
section
/-! DEFINITION. The test access port (R530 to R532). -/

namespace Sys2Proof.Machine

/-- The identification code (R531). -/
def idcode : Nat := 0x26402C55

/-- The port is powered from step 1 of cast-on (R530). -/
def Mach.tapOn (m : Mach) : Bool := m.phase ≠ .off && m.phase ≠ .lowVin

/-- The pins may be taken: MOD_RST_N low with MOD_EN high, or TEST boot mode (R532). -/
def Mach.pinsFree (m : Mach) : Bool := m.phase = .held || (m.phase = .running && m.testMode)

/-- The interfaces behind the pins come back when the instruction that held them is replaced: links and ports train, CAN recovers. -/
def Mach.releasePins (m : Mach) : Mach :=
  if !m.tap.pins then m
  else
    let m := { m with tap := { m.tap with pins := false } }
    if m.phase ≠ .running then m
    else
      let m := ((List.range 64).filter (fun l => m.linkExists l && m.objBit (0x4840 + l) 1 0)).foldl (fun (a : Mach) l => a.trainLink l) m
      doBusOff ((m.portRetrain 0).portRetrain 1)

/-- Taking the pins of a module that runs loses the interfaces behind them: link losses, port resets, CAN bus-off. -/
def Mach.takePins (m : Mach) : Mach :=
  let held := m.tap.pins
  let m := { m with tap := { m.tap with pins := true } }
  if held || m.phase ≠ .running then m
  else
    let m := ((List.range 64).filter (fun l => m.linkState l = 2)).foldl (fun (a : Mach) l => a.failLink l 1) m
    { (m.portDown 0).portDown 1 with can := { m.can with busOff := true, usdo := none } }

/-- An instruction that leaves the pins with the logic. -/
def doTapPlain (code data : Nat) (m : Mach) : Mach :=
  if !m.tapOn then m
  else let m := m.releasePins; { m.emit (.tap data) with tap := { instr := code, data := data, pins := false } }

/-- An instruction that takes the pins where R532 allows it; elsewhere the load is counted in A000h.02. -/
def doTapPins (code data : Nat) (m : Mach) : Mach :=
  if !m.tapOn then m
  else if m.pinsFree then let m := m.takePins; { m with tap := { instr := code, data := data, pins := true } }
  else { m.addObj32 0xA000 2 1 with tap := { instr := code, data := data, pins := false } }

/-- TAP_RESET: IDCODE is selected. -/
def doTapReset (m : Mach) : Mach := if !m.tapOn then m else { m.releasePins with tap := Tap.init }

/-- SAMPLE/PRELOAD keeps the pins with whatever holds them and loads the boundary register; what it samples is what the pins carry, which the
model does not hold (a free value). -/
def doSample (data : Nat) (m : Mach) : Mach :=
  if !m.tapOn then m
  else
    let m := m.releasePins
    { m.emit (.tap (Config.freeNat m.free 0)) with free := m.free + 1, tap := { instr := 2, data := data, pins := false } }

/-! ## The meanings -/

/-- TAP_RESET (R530). -/
def execTapReset (s : State) : Result := s.always doTapReset

/-- IDCODE (R531). -/
def execIdcode (s : State) : Result := s.always (doTapPlain 1 idcode)

/-- SAMPLE_PRELOAD (R531). -/
def execSamplePreload (data : Nat) (s : State) : Result := s.always (doSample data)

/-- EXTEST (R532). -/
def execExtest (data : Nat) (s : State) : Result := s.always (doTapPins 3 data)

/-- CLAMP (R532). -/
def execClamp (data : Nat) (s : State) : Result := s.always (doTapPins 4 data)

/-- HIGHZ (R532). -/
def execHighz (data : Nat) (s : State) : Result := s.always (doTapPins 5 data)

/-- EXTEST_PULSE (R532). -/
def execExtestPulse (data : Nat) (s : State) : Result := s.always (doTapPins 6 data)

/-- EXTEST_TRAIN (R532). -/
def execExtestTrain (data : Nat) (s : State) : Result := s.always (doTapPins 7 data)

/-- BYPASS (R531): one bit. -/
def execBypass (data : Nat) (s : State) : Result := s.always (doTapPlain 0xFF (data % 2))

end Sys2Proof.Machine
end

