-- ==== Sys2Proof/Machine/Dispatch.lean ====
section
/-! DEFINITION. The meaning of each command: one arm a row of the opcode table. -/

namespace Sys2Proof.Machine

def exec (i : Instr) (s : State) : Host.Outcome State Fault Refusal :=
  match i with
  | .castOn env => Sys2Proof.Machine.execCastOn env s
  | .refclkQualify env => Sys2Proof.Machine.execRefclkQualify env s
  | .linkTrain link env => Sys2Proof.Machine.execLinkTrain link env s
  | .shutdown => Sys2Proof.Machine.execShutdown s
  | .vinOutOfRange tenMv => Sys2Proof.Machine.execVinOutOfRange tenMv s
  | .vinReturn tenMv env => Sys2Proof.Machine.execVinReturn tenMv env s
  | .modRstAssert => Sys2Proof.Machine.execModRstAssert s
  | .perstDeassert port trained => Sys2Proof.Machine.execPerstDeassert port trained s
  | .portReset port cause => Sys2Proof.Machine.execPortReset port cause s
  | .nop core => Sys2Proof.Machine.execNop core s
  | .halt core => Sys2Proof.Machine.execHalt core s
  | .fault core => Sys2Proof.Machine.execFault core s
  | .set core => Sys2Proof.Machine.execSet core s
  | .add core => Sys2Proof.Machine.execAdd core s
  | .dbnz core => Sys2Proof.Machine.execDbnz core s
  | .bcmp core => Sys2Proof.Machine.execBcmp core s
  | .rctx core => Sys2Proof.Machine.execRctx core s
  | .streamEnd core => Sys2Proof.Machine.execStreamEnd core s
  | .streamFetchReturn core lost => Sys2Proof.Machine.execStreamFetchReturn core lost s
  | .msig core => Sys2Proof.Machine.execMsig core s
  | .mwait core => Sys2Proof.Machine.execMwait core s
  | .mrst core => Sys2Proof.Machine.execMrst core s
  | .markerUpdate g n => Sys2Proof.Machine.execMarkerUpdate g n s
  | .waitTimeout core => Sys2Proof.Machine.execWaitTimeout core s
  | .ax core => Sys2Proof.Machine.execAx core s
  | .ar core => Sys2Proof.Machine.execAr core s
  | .tileStart core wait => Sys2Proof.Machine.execTileStart core wait s
  | .tileComplete core => Sys2Proof.Machine.execTileComplete core s
  | .drainRowWrite core => Sys2Proof.Machine.execDrainRowWrite core s
  | .arrayEcc core half => Sys2Proof.Machine.execArrayEcc core half s
  | .arrayParity core => Sys2Proof.Machine.execArrayParity core s
  | .rampDown core => Sys2Proof.Machine.execRampDown core s
  | .rampColumnStep core => Sys2Proof.Machine.execRampColumnStep core s
  | .rampUp core late => Sys2Proof.Machine.execRampUp core late s
  | .vopAdd core => Sys2Proof.Machine.execVopAdd core s
  | .vopSub core => Sys2Proof.Machine.execVopSub core s
  | .vopMul core => Sys2Proof.Machine.execVopMul core s
  | .vopFma core => Sys2Proof.Machine.execVopFma core s
  | .vopMax core => Sys2Proof.Machine.execVopMax core s
  | .vopMin core => Sys2Proof.Machine.execVopMin core s
  | .vopAbs core => Sys2Proof.Machine.execVopAbs core s
  | .vopNeg core => Sys2Proof.Machine.execVopNeg core s
  | .vopCvt core => Sys2Proof.Machine.execVopCvt core s
  | .vopRsum core => Sys2Proof.Machine.execVopRsum core s
  | .vopRmax core => Sys2Proof.Machine.execVopRmax core s
  | .vopRmin core => Sys2Proof.Machine.execVopRmin core s
  | .vopRssq core => Sys2Proof.Machine.execVopRssq core s
  | .sfnExp2 core => Sys2Proof.Machine.execSfnExp2 core s
  | .sfnLog2 core => Sys2Proof.Machine.execSfnLog2 core s
  | .sfnReciprocal core => Sys2Proof.Machine.execSfnReciprocal core s
  | .sfnRsqrt core => Sys2Proof.Machine.execSfnRsqrt core s
  | .sfnTanh core => Sys2Proof.Machine.execSfnTanh core s
  | .sfnSigmoid core => Sys2Proof.Machine.execSfnSigmoid core s
  | .sfnErf core => Sys2Proof.Machine.execSfnErf core s
  | .sfnGeluErf core => Sys2Proof.Machine.execSfnGeluErf core s
  | .sfnGeluTanh core => Sys2Proof.Machine.execSfnGeluTanh core s
  | .sfnUserFunction core => Sys2Proof.Machine.execSfnUserFunction core s
  | .ldma core => Sys2Proof.Machine.execLdma core s
  | .cdmaLinear core => Sys2Proof.Machine.execCdmaLinear core s
  | .cdmaCopy2d core => Sys2Proof.Machine.execCdmaCopy2d core s
  | .cdmaWindow core => Sys2Proof.Machine.execCdmaWindow core s
  | .cdmaPool core => Sys2Proof.Machine.execCdmaPool core s
  | .cdmaCombine core => Sys2Proof.Machine.execCdmaCombine core s
  | .cdmaZpack core => Sys2Proof.Machine.execCdmaZpack core s
  | .cdmaZunpack core => Sys2Proof.Machine.execCdmaZunpack core s
  | .rdmaRemoteWrite core => Sys2Proof.Machine.execRdmaRemoteWrite core s
  | .rdmaReduceAddFp32 core => Sys2Proof.Machine.execRdmaReduceAddFp32 core s
  | .rdmaReduceAddBf16 core => Sys2Proof.Machine.execRdmaReduceAddBf16 core s
  | .ptld core => Sys2Proof.Machine.execPtld core s
  | .fwpost core => Sys2Proof.Machine.execFwpost core s
  | .fwPostAccept part win => Sys2Proof.Machine.execFwPostAccept part win s
  | .fwDeadline part win => Sys2Proof.Machine.execFwDeadline part win s
  | .fwBufferFree part win buf => Sys2Proof.Machine.execFwBufferFree part win buf s
  | .dmaComplete core n => Sys2Proof.Machine.execDmaComplete core n s
  | .dmaEcc core n unit => Sys2Proof.Machine.execDmaEcc core n unit s
  | .jobStopComplete part => Sys2Proof.Machine.execJobStopComplete part s
  | .sqTail client v => Sys2Proof.Machine.execSqTail client v s
  | .cqHead client v => Sys2Proof.Machine.execCqHead client v s
  | .cancel client v => Sys2Proof.Machine.execCancel client v s
  | .completionRecord client => Sys2Proof.Machine.execCompletionRecord client s
  | .run part => Sys2Proof.Machine.execRun part s
  | .load part hw => Sys2Proof.Machine.execLoad part hw s
  | .unload part => Sys2Proof.Machine.execUnload part s
  | .media part => Sys2Proof.Machine.execMedia part s
  | .input part => Sys2Proof.Machine.execInput part s
  | .guestLoad part hw => Sys2Proof.Machine.execGuestLoad part hw s
  | .guestUnload part => Sys2Proof.Machine.execGuestUnload part s
  | .guestRun part => Sys2Proof.Machine.execGuestRun part s
  | .guestSwitch core => Sys2Proof.Machine.execGuestSwitch core s
  | .guestReturn core => Sys2Proof.Machine.execGuestReturn core s
  | .guestJobEnd part => Sys2Proof.Machine.execGuestJobEnd part s
  | .form part v => Sys2Proof.Machine.execForm part v s
  | .formationDone part => Sys2Proof.Machine.execFormationDone part s
  | .dissolve part v => Sys2Proof.Machine.execDissolve part v s
  | .preempt part v => Sys2Proof.Machine.execPreempt part v s
  | .save part cuts => Sys2Proof.Machine.execSave part cuts s
  | .saveComplete part => Sys2Proof.Machine.execSaveComplete part s
  | .restore part => Sys2Proof.Machine.execRestore part s
  | .clientBindingWrite path client sub v => Sys2Proof.Machine.execClientBindingWrite path client sub v s
  | .appendRound part cix => Sys2Proof.Machine.execAppendRound part cix s
  | .append part cix => Sys2Proof.Machine.execAppend part cix s
  | .refill part cix => Sys2Proof.Machine.execRefill part cix s
  | .engineStallRetry part cix => Sys2Proof.Machine.execEngineStallRetry part cix s
  | .release part v => Sys2Proof.Machine.execRelease part v s
  | .pin part v => Sys2Proof.Machine.execPin part v s
  | .unpin part v => Sys2Proof.Machine.execUnpin part v s
  | .contributionAdd part rid tile => Sys2Proof.Machine.execContributionAdd part rid tile s
  | .creditGrant link msg => Sys2Proof.Machine.execCreditGrant link msg s
  | .stateReadComplete part rid tile => Sys2Proof.Machine.execStateReadComplete part rid tile s
  | .sweepStart part => Sys2Proof.Machine.execSweepStart part s
  | .tileUpdate part rid tile => Sys2Proof.Machine.execTileUpdate part rid tile s
  | .roundClose part => Sys2Proof.Machine.execRoundClose part s
  | .formatCommand part v => Sys2Proof.Machine.execFormatCommand part v s
  | .dataFlitReceive link flit fec => Sys2Proof.Machine.execDataFlitReceive link flit fec s
  | .retry link seq => Sys2Proof.Machine.execRetry link seq s
  | .retryRepeat link => Sys2Proof.Machine.execRetryRepeat link s
  | .hello link lane hello => Sys2Proof.Machine.execHello link lane hello s
  | .echoReq link probe => Sys2Proof.Machine.execEchoReq link probe s
  | .echoRsp link probe turnNs rttNs => Sys2Proof.Machine.execEchoRsp link probe turnNs rttNs s
  | .loopReq link enter => Sys2Proof.Machine.execLoopReq link enter s
  | .loopAck link accepted => Sys2Proof.Machine.execLoopAck link accepted s
  | .farLoopTimeout link => Sys2Proof.Machine.execFarLoopTimeout link s
  | .linkRetrain link => Sys2Proof.Machine.execLinkRetrain link s
  | .retrainTimeout link => Sys2Proof.Machine.execRetrainTimeout link s
  | .write link msg => Sys2Proof.Machine.execWrite link msg s
  | .radd32 link msg => Sys2Proof.Machine.execRadd32 link msg s
  | .radd16 link msg => Sys2Proof.Machine.execRadd16 link msg s
  | .signal link msg => Sys2Proof.Machine.execSignal link msg s
  | .resp link msg => Sys2Proof.Machine.execResp link msg s
  | .ping link msg => Sys2Proof.Machine.execPing link msg s
  | .pingReply link msg => Sys2Proof.Machine.execPingReply link msg s
  | .messageForward link msg => Sys2Proof.Machine.execMessageForward link msg s
  | .responseTimeout core n => Sys2Proof.Machine.execResponseTimeout core n s
  | .linkRetrainCommand path link v => Sys2Proof.Machine.execLinkRetrainCommand path link v s
  | .linkEnable path link v => Sys2Proof.Machine.execLinkEnable path link v s
  | .linkLoopBack path link v seen => Sys2Proof.Machine.execLinkLoopBack path link v seen s
  | .fabricAddressWrite path v => Sys2Proof.Machine.execFabricAddressWrite path v s
  | .lifelineData link msg => Sys2Proof.Machine.execLifelineData link msg s
  | .commit link msg => Sys2Proof.Machine.execCommit link msg s
  | .acknowledge link msg => Sys2Proof.Machine.execAcknowledge link msg s
  | .restoreRequest link msg => Sys2Proof.Machine.execRestoreRequest link msg s
  | .restoreData link msg => Sys2Proof.Machine.execRestoreData link msg s
  | .lifelineStream part => Sys2Proof.Machine.execLifelineStream part s
  | .lifelineIntervalExpiry part => Sys2Proof.Machine.execLifelineIntervalExpiry part s
  | .memoryAccess chan reqs => Sys2Proof.Machine.execMemoryAccess chan reqs s
  | .channelRetrain chan ok => Sys2Proof.Machine.execChannelRetrain chan ok s
  | .scrubRead addr err => Sys2Proof.Machine.execScrubRead addr err s
  | .perBankRefresh chan bank class1 rate => Sys2Proof.Machine.execPerBankRefresh chan bank class1 rate s
  | .selfRefreshEntry stack => Sys2Proof.Machine.execSelfRefreshEntry stack s
  | .selfRefreshExit stack => Sys2Proof.Machine.execSelfRefreshExit stack s
  | .swatchStart path chan v => Sys2Proof.Machine.execSwatchStart path chan v s
  | .swatchStop path chan v => Sys2Proof.Machine.execSwatchStop path chan v s
  | .swatchDone chan seen => Sys2Proof.Machine.execSwatchDone chan seen s
  | .mediaOpen engine => Sys2Proof.Machine.execMediaOpen engine s
  | .mediaClose engine => Sys2Proof.Machine.execMediaClose engine s
  | .decode engine fault => Sys2Proof.Machine.execDecode engine fault s
  | .encode engine fault => Sys2Proof.Machine.execEncode engine fault s
  | .jpeg engine fault => Sys2Proof.Machine.execJpeg engine fault s
  | .voxel engine fault => Sys2Proof.Machine.execVoxel engine fault s
  | .mediaSchedule engine => Sys2Proof.Machine.execMediaSchedule engine s
  | .mediaWatchdog engine => Sys2Proof.Machine.execMediaWatchdog engine s
  | .mediaComplete engine => Sys2Proof.Machine.execMediaComplete engine s
  | .inputOpen part => Sys2Proof.Machine.execInputOpen part s
  | .submit part => Sys2Proof.Machine.execSubmit part s
  | .inputClose part => Sys2Proof.Machine.execInputClose part s
  | .batchPublish part => Sys2Proof.Machine.execBatchPublish part s
  | .consumedPoll part => Sys2Proof.Machine.execConsumedPoll part s
  | .mailboxRead port req => Sys2Proof.Machine.execMailboxRead port req s
  | .mailboxWrite port req => Sys2Proof.Machine.execMailboxWrite port req s
  | .objectWrite path idx sub data => Sys2Proof.Machine.execObjectWrite path idx sub data s
  | .rwpWrite path idx sub data commits => Sys2Proof.Machine.execRwpWrite path idx sub data commits s
  | .restoreDefaults path v => Sys2Proof.Machine.execRestoreDefaults path v s
  | .errorHistoryClear path v => Sys2Proof.Machine.execErrorHistoryClear path v s
  | .usdo req => Sys2Proof.Machine.execUsdo req s
  | .usdoTimeout => Sys2Proof.Machine.execUsdoTimeout s
  | .nmtStart node => Sys2Proof.Machine.execNmtStart node s
  | .nmtStop node => Sys2Proof.Machine.execNmtStop node s
  | .nmtEnterPreOperational node => Sys2Proof.Machine.execNmtEnterPreOperational node s
  | .nmtResetCommunication node => Sys2Proof.Machine.execNmtResetCommunication node s
  | .nmtResetNode node => Sys2Proof.Machine.execNmtResetNode node s
  | .heartbeat => Sys2Proof.Machine.execHeartbeat s
  | .emcy cond active detail => Sys2Proof.Machine.execEmcy cond active detail s
  | .tpdo n => Sys2Proof.Machine.execTpdo n s
  | .busOffRecovery => Sys2Proof.Machine.execBusOffRecovery s
  | .bar2Access port acc => Sys2Proof.Machine.execBar2Access port acc s
  | .vectorUnmask port vec => Sys2Proof.Machine.execVectorUnmask port vec s
  | .refclkLoss => Sys2Proof.Machine.execRefclkLoss s
  | .refclkReturn => Sys2Proof.Machine.execRefclkReturn s
  | .masterLockLoss master => Sys2Proof.Machine.execMasterLockLoss master s
  | .sourceSwitch path island v => Sys2Proof.Machine.execSourceSwitch path island v s
  | .pendingSwitchStart island => Sys2Proof.Machine.execPendingSwitchStart island s
  | .switchTimeout island => Sys2Proof.Machine.execSwitchTimeout island s
  | .synthLockLoss island => Sys2Proof.Machine.execSynthLockLoss island s
  | .clockGate island => Sys2Proof.Machine.execClockGate island s
  | .g1Entry g => Sys2Proof.Machine.execG1Entry g s
  | .g2Entry g => Sys2Proof.Machine.execG2Entry g s
  | .g3Entry g => Sys2Proof.Machine.execG3Entry g s
  | .idleWake island => Sys2Proof.Machine.execIdleWake island s
  | .opMove island slack => Sys2Proof.Machine.execOpMove island slack s
  | .limiterCompute env => Sys2Proof.Machine.execLimiterCompute env s
  | .fastShed watts => Sys2Proof.Machine.execFastShed watts s
  | .thermalCap temps => Sys2Proof.Machine.execThermalCap temps s
  | .thermalTrip temps => Sys2Proof.Machine.execThermalTrip temps s
  | .thermalTripRelease temps => Sys2Proof.Machine.execThermalTripRelease temps s
  | .energyWindow mJ => Sys2Proof.Machine.execEnergyWindow mJ s
  | .gaugeSample island slack ring => Sys2Proof.Machine.execGaugeSample island slack ring s
  | .replan => Sys2Proof.Machine.execReplan s
  | .replanNow path v => Sys2Proof.Machine.execReplanNow path v s
  | .hardwareFault cause code => Sys2Proof.Machine.execHardwareFault cause code s
  | .bridgeFailure bridge => Sys2Proof.Machine.execBridgeFailure bridge s
  | .linkLoss link => Sys2Proof.Machine.execLinkLoss link s
  | .frog part v => Sys2Proof.Machine.execFrog part v s
  | .autoFrog part => Sys2Proof.Machine.execAutoFrog part s
  | .supervisorHeartbeat sup => Sys2Proof.Machine.execSupervisorHeartbeat sup s
  | .takeover => Sys2Proof.Machine.execTakeover s
  | .firmwareWrite path sup v => Sys2Proof.Machine.execFirmwareWrite path sup v s
  | .trial path sup v => Sys2Proof.Machine.execTrial path sup v s
  | .reboot path sup v => Sys2Proof.Machine.execReboot path sup v s
  | .confirm path sup v => Sys2Proof.Machine.execConfirm path sup v s
  | .handover path sup v => Sys2Proof.Machine.execHandover path sup v s
  | .censusDump part v => Sys2Proof.Machine.execCensusDump part v s
  | .censusClear part v => Sys2Proof.Machine.execCensusClear part v s
  | .censusDumpClear part v => Sys2Proof.Machine.execCensusDumpClear part v s
  | .censusCommandDone part => Sys2Proof.Machine.execCensusCommandDone part s
  | .selectedSlotRecordRead part => Sys2Proof.Machine.execSelectedSlotRecordRead part s
  | .pcieLoopBack path port v seen => Sys2Proof.Machine.execPcieLoopBack path port v seen s
  | .loopBackTimeout which seen => Sys2Proof.Machine.execLoopBackTimeout which seen s
  | .canLoopBack path v => Sys2Proof.Machine.execCanLoopBack path v s
  | .canTestFrame intact => Sys2Proof.Machine.execCanTestFrame intact s
  | .tapReset => Sys2Proof.Machine.execTapReset s
  | .idcode => Sys2Proof.Machine.execIdcode s
  | .samplePreload data => Sys2Proof.Machine.execSamplePreload data s
  | .extest data => Sys2Proof.Machine.execExtest data s
  | .clamp data => Sys2Proof.Machine.execClamp data s
  | .highz data => Sys2Proof.Machine.execHighz data s
  | .extestPulse data => Sys2Proof.Machine.execExtestPulse data s
  | .extestTrain data => Sys2Proof.Machine.execExtestTrain data s
  | .bypass data => Sys2Proof.Machine.execBypass data s
  | .healthSample env => Sys2Proof.Machine.execHealthSample env s
  | .emcyInhibitExpiry => Sys2Proof.Machine.execEmcyInhibitExpiry s
  | .supervisorLost => Sys2Proof.Machine.execSupervisorLost s
  | .bar2WindowBaseWrite port v => Sys2Proof.Machine.execBar2WindowBaseWrite port v s

end Sys2Proof.Machine
end

