-- ==== Sys2Proof/Machine/Time.lean ====
section
/-! DEFINITION. What time alone does: the rc counter, and the wait that no command of the table ends. -/

namespace Sys2Proof.Machine

/-- One rc passes: the counter of a running module advances (R448), and a frog whose partner does not answer fails (R501). -/
def Mach.tick (m : Mach) : Mach :=
  if m.phase ≠ .running then m
  else (List.range 64).foldl (fun (a : Mach) p => a.frogTimeout p) { m with rc := m.rc + 1 }

/-- The block with no command waiting: one rc passes (log entry 2, DESIGN CHOICE). -/
def State.idle (s : State) : State := { s with mach := s.mach.tick }

end Sys2Proof.Machine
end

