-- ==== Sys2Proof/WellFormed.lean ====
section
/-! DEFINITION. What a command's operands may be: units that exist in the block's numbering, values as wide as the register they go to,
fields as wide as the message or table they stand in. -/

namespace Sys2Proof

/-- A lane's HELLO: a 12-bit fabric address, a link, a lane (Table 10-4). -/
def Hello.wf (h : Hello) : Bool := h.addr < 4096 && h.link < 64 && h.lane < 2 && h.versions < 256

/-- Training results: a FAIL reason of Table 10-7, a far address, a far link, sixteen probes. -/
def LinkEnv.wf (e : LinkEnv) : Bool :=
  e.fail < 16 && e.farAddr < 4096 && e.farLink < 64 && e.farVersions < 256 && (e.fail ≠ 0 || e.probes.length = 16)

/-- The pins and tests of cast-on (Table 18-1): straps of 7 and 2 bits, units by their numbers. -/
def CastEnv.wf (e : CastEnv) : Bool :=
  e.pos < 128 && e.boot < 4 && e.deadBridges.all (· < 10) && e.deadSlots.all (· < 2176) && e.deadClusters.all (· < 128) &&
  e.deadChannels.all (· < 192) && e.deadStacks.all (· < 48) && e.deadEngines.all (· < 10) && e.badRows.all (fun r => r.1 < 48) &&
  e.links.length ≤ 64 && e.links.all LinkEnv.wf && e.deadSup.all (· < 2)

/-- A message: the header's fields within their widths (Table 10-8). -/
def Msg.wf (x : Msg) : Bool :=
  x.op < 16 && x.mv < 4 && x.dfa < 4096 && x.sfa < 4096 && x.dpart < 64 && x.spart < 64 && x.tag < 2 ^ 16 && x.genr < 256 &&
  x.pidx < 256 && x.srcu < 2 ^ 16 && x.fbuf < 4096 && x.foff < 2 ^ 24 && x.lenq < 4096 && x.fmk < 2 ^ 16 && x.arg < 2 ^ 32 &&
  x.mid < 2 ^ 32 && x.data.length % 16 = 0

/-- A memory request: an address of device memory and a class of Table 11-2. -/
def MemReq.wf (r : MemReq) : Bool := r.addr < 2 ^ 52 && 1 ≤ r.cls && r.cls ≤ 4 && r.data.length ≤ 64

/-- A swatch's results: the 32 bytes of the first failing half at most. -/
def SwatchSeen.wf (x : SwatchSeen) : Bool := x.errBursts ≤ x.bursts && x.first.length ≤ 32

/-- A loop-back's results: sixteen lanes. -/
def LoopSeen.wf (x : LoopSeen) : Bool := x.lanes < 2 ^ 16

/-- A mailbox request: the fields of Table 15-10 within their widths. -/
def MbReq.wf (q : MbReq) : Bool :=
  q.cmd < 256 && q.idx < 2 ^ 16 && q.sub < 256 && q.seg < 2 ^ 32 && q.len < 2 ^ 32 && q.data.length ≤ 4080 && q.seq < 2 ^ 16

/-- A USDO request: an index, a sub-index, at most 4080 data bytes. -/
def UsdoReq.wf : UsdoReq → Bool
  | .read i s => i < 2 ^ 16 && s < 256
  | .write i s d => i < 2 ^ 16 && s < 256 && d.length ≤ 4080
  | .start i s _ => i < 2 ^ 16 && s < 256
  | .segment d _ => d.length ≤ 4080
  | .more _ => true
  | .abort => true
  | .other => true

/-- A BAR2 access: as many bytes as it says. -/
def BarAcc.wf (a : BarAcc) : Bool := !a.write || a.data.length = a.len

/-- A unit that a hardware fault names. -/
def HwCause.wf : HwCause → Bool
  | .slot g k _ => g < 128 && k < 17
  | .cluster g _ => g < 128
  | .row s _ _ => s < 48
  | .link l _ => l < 64
  | .engine e _ => e < 10

/-- What the limiter reads: estimates of at most 64 partitions at eight operating points. -/
def LimitEnv.wf (e : LimitEnv) : Bool := e.est.length ≤ 64 && e.est.all (fun x => x.length ≤ 8)

/-- Health samples: ten temperature sensors. -/
def HealthEnv.wf (e : HealthEnv) : Bool := e.temps.length ≤ 10

/-- A well-formed command. A message comes on link 0 to 63, or by local delivery, which the model numbers 64. -/
def Instr.wf : Instr → Bool
  | .castOn env => env.wf
  | .refclkQualify env => env.wf
  | .linkTrain link env => link < 64 && env.wf
  | .shutdown => true
  | .vinOutOfRange _ => true
  | .vinReturn _ env => env.wf
  | .modRstAssert => true
  | .perstDeassert port _ => port < 2
  | .portReset port _ => port < 2
  | .nop core => core < 2048
  | .halt core => core < 2048
  | .fault core => core < 2048
  | .set core => core < 2048
  | .add core => core < 2048
  | .dbnz core => core < 2048
  | .bcmp core => core < 2048
  | .rctx core => core < 2048
  | .streamEnd core => core < 2048
  | .streamFetchReturn core lost => core < 2048 && lost.all (· < 2 ^ 52)
  | .msig core => core < 2048
  | .mwait core => core < 2048
  | .mrst core => core < 2048
  | .markerUpdate g _ => g < 128
  | .waitTimeout core => core < 2048
  | .ax core => core < 2048
  | .ar core => core < 2048
  | .tileStart core _ => core < 2048
  | .tileComplete core => core < 2048
  | .drainRowWrite core => core < 2048
  | .arrayEcc core _ => core < 2048
  | .arrayParity core => core < 2048
  | .rampDown core => core < 2048
  | .rampColumnStep core => core < 2048
  | .rampUp core _ => core < 2048
  | .vopAdd core => core < 2048
  | .vopSub core => core < 2048
  | .vopMul core => core < 2048
  | .vopFma core => core < 2048
  | .vopMax core => core < 2048
  | .vopMin core => core < 2048
  | .vopAbs core => core < 2048
  | .vopNeg core => core < 2048
  | .vopCvt core => core < 2048
  | .vopRsum core => core < 2048
  | .vopRmax core => core < 2048
  | .vopRmin core => core < 2048
  | .vopRssq core => core < 2048
  | .sfnExp2 core => core < 2048
  | .sfnLog2 core => core < 2048
  | .sfnReciprocal core => core < 2048
  | .sfnRsqrt core => core < 2048
  | .sfnTanh core => core < 2048
  | .sfnSigmoid core => core < 2048
  | .sfnErf core => core < 2048
  | .sfnGeluErf core => core < 2048
  | .sfnGeluTanh core => core < 2048
  | .sfnUserFunction core => core < 2048
  | .ldma core => core < 2048
  | .cdmaLinear core => core < 2048
  | .cdmaCopy2d core => core < 2048
  | .cdmaWindow core => core < 2048
  | .cdmaPool core => core < 2048
  | .cdmaCombine core => core < 2048
  | .cdmaZpack core => core < 2048
  | .cdmaZunpack core => core < 2048
  | .rdmaRemoteWrite core => core < 2048
  | .rdmaReduceAddFp32 core => core < 2048
  | .rdmaReduceAddBf16 core => core < 2048
  | .ptld core => core < 2048
  | .fwpost core => core < 2048
  | .fwPostAccept part win => part < 64 && win < 8
  | .fwDeadline part win => part < 64 && win < 8
  | .fwBufferFree part win _ => part < 64 && win < 8
  | .dmaComplete core n => core < 2048 && n < 8
  | .dmaEcc core n _ => core < 2048 && n < 8
  | .jobStopComplete part => part < 64
  | .sqTail client v => client < 512 && v < 2 ^ 32
  | .cqHead client v => client < 512 && v < 2 ^ 32
  | .cancel client v => client < 512 && v < 2 ^ 32
  | .completionRecord client => client < 512
  | .run part => part < 64
  | .load part _ => part < 64
  | .unload part => part < 64
  | .media part => part < 64
  | .input part => part < 64
  | .guestLoad part _ => part < 64
  | .guestUnload part => part < 64
  | .guestRun part => part < 64
  | .guestSwitch core => core < 2048
  | .guestReturn core => core < 2048
  | .guestJobEnd part => part < 64
  | .form part v => part < 64 && v < 2 ^ 32
  | .formationDone part => part < 64
  | .dissolve part v => part < 64 && v < 2 ^ 32
  | .preempt part v => part < 64 && v < 2 ^ 32
  | .save part cuts => part < 64 && cuts.length ≤ 2048
  | .saveComplete part => part < 64
  | .restore part => part < 64
  | .clientBindingWrite _ client sub v => client < 512 && sub < 2 ^ 8 && v < 2 ^ 64
  | .appendRound part cix => part < 64 && cix < 64
  | .append part cix => part < 64 && cix < 64
  | .refill part cix => part < 64 && cix < 64
  | .engineStallRetry part cix => part < 64 && cix < 64
  | .release part v => part < 64 && v < 2 ^ 32
  | .pin part v => part < 64 && v < 2 ^ 32
  | .unpin part v => part < 64 && v < 2 ^ 32
  | .contributionAdd part rid tile => part < 64 && rid < 4096 && tile < 65536
  | .creditGrant link msg => link < 65 && msg.wf
  | .stateReadComplete part rid tile => part < 64 && rid < 4096 && tile < 65536
  | .sweepStart part => part < 64
  | .tileUpdate part rid tile => part < 64 && rid < 4096 && tile < 65536
  | .roundClose part => part < 64
  | .formatCommand part v => part < 64 && v < 2 ^ 64
  | .dataFlitReceive link flit _ => link < 64 && flit.length = 256
  | .retry link seq => link < 64 && seq < 4096
  | .retryRepeat link => link < 64
  | .hello link lane h => link < 64 && lane < 2 && h.wf
  | .echoReq link probe => link < 64 && probe < 16
  | .echoRsp link probe _ _ => link < 64 && probe < 16
  | .loopReq link _ => link < 64
  | .loopAck link _ => link < 64
  | .farLoopTimeout link => link < 64
  | .linkRetrain link => link < 64
  | .retrainTimeout link => link < 64
  | .write link msg => link < 65 && msg.wf
  | .radd32 link msg => link < 65 && msg.wf
  | .radd16 link msg => link < 65 && msg.wf
  | .signal link msg => link < 65 && msg.wf
  | .resp link msg => link < 65 && msg.wf
  | .ping link msg => link < 65 && msg.wf
  | .pingReply link msg => link < 65 && msg.wf
  | .messageForward link msg => link < 65 && msg.wf
  | .responseTimeout core n => core < 2048 && n < 8
  | .linkRetrainCommand _ link v => link < 64 && v < 2 ^ 32
  | .linkEnable _ link v => link < 64 && v < 2 ^ 32
  | .linkLoopBack _ link v seen => link < 64 && v < 2 ^ 32 && seen.wf
  | .fabricAddressWrite _ v => v < 2 ^ 16
  | .lifelineData link msg => link < 65 && msg.wf
  | .commit link msg => link < 65 && msg.wf
  | .acknowledge link msg => link < 65 && msg.wf
  | .restoreRequest link msg => link < 65 && msg.wf
  | .restoreData link msg => link < 65 && msg.wf
  | .lifelineStream part => part < 64
  | .lifelineIntervalExpiry part => part < 64
  | .memoryAccess chan reqs => chan < 192 && reqs.all MemReq.wf
  | .channelRetrain chan _ => chan < 192
  | .scrubRead addr _ => addr < 2 ^ 52
  | .perBankRefresh chan bank _ _ => chan < 192 && bank < 32
  | .selfRefreshEntry stack => stack < 48
  | .selfRefreshExit stack => stack < 48
  | .swatchStart _ chan v => chan < 192 && v < 2 ^ 32
  | .swatchStop _ chan v => chan < 192 && v < 2 ^ 32
  | .swatchDone chan seen => chan < 192 && seen.wf
  | .mediaOpen engine => engine < 10
  | .mediaClose engine => engine < 10
  | .decode engine _ => engine < 10
  | .encode engine _ => engine < 10
  | .jpeg engine _ => engine < 10
  | .voxel engine _ => engine < 10
  | .mediaSchedule engine => engine < 10
  | .mediaWatchdog engine => engine < 10
  | .mediaComplete engine => engine < 10
  | .inputOpen part => part < 64
  | .submit part => part < 64
  | .inputClose part => part < 64
  | .batchPublish part => part < 64
  | .consumedPoll part => part < 64
  | .mailboxRead port req => port < 2 && req.wf
  | .mailboxWrite port req => port < 2 && req.wf
  | .objectWrite _ idx sub data => idx < 2 ^ 16 && sub < 2 ^ 8 && data.length ≤ 4080
  | .rwpWrite _ idx sub data _ => idx < 2 ^ 16 && sub < 2 ^ 8 && data.length ≤ 4080
  | .restoreDefaults _ v => v < 2 ^ 32
  | .errorHistoryClear _ v => v < 2 ^ 32
  | .usdo req => req.wf
  | .usdoTimeout => true
  | .nmtStart node => node < 128
  | .nmtStop node => node < 128
  | .nmtEnterPreOperational node => node < 128
  | .nmtResetCommunication node => node < 128
  | .nmtResetNode node => node < 128
  | .heartbeat => true
  | .emcy _ _ _ => true
  | .tpdo n => n < 4
  | .busOffRecovery => true
  | .bar2Access port acc => port < 2 && acc.wf
  | .vectorUnmask port vec => port < 2 && vec < 2048
  | .refclkLoss => true
  | .refclkReturn => true
  | .masterLockLoss master => master < 2
  | .sourceSwitch _ island v => island < 180 && v < 2 ^ 32
  | .pendingSwitchStart island => island < 180
  | .switchTimeout island => island < 180
  | .synthLockLoss island => island < 180
  | .clockGate island => island < 180
  | .g1Entry g => g < 128
  | .g2Entry g => g < 128
  | .g3Entry g => g < 128
  | .idleWake island => island < 180
  | .opMove island _ => island < 180
  | .limiterCompute env => env.wf
  | .fastShed _ => true
  | .thermalCap temps => temps.length ≤ 10
  | .thermalTrip temps => temps.length ≤ 10
  | .thermalTripRelease temps => temps.length ≤ 10
  | .energyWindow _ => true
  | .gaugeSample island _ ring => island < 180 && 150 ≤ ring && ring ≤ 200
  | .replan => true
  | .replanNow _ v => v < 2 ^ 8
  | .hardwareFault cause code => cause.wf && code < 2 ^ 8
  | .bridgeFailure bridge => bridge < 10
  | .linkLoss link => link < 64
  | .frog part v => part < 64 && v < 2 ^ 64
  | .autoFrog part => part < 64
  | .supervisorHeartbeat sup => sup < 2
  | .takeover => true
  | .firmwareWrite _ sup v => sup < 2 && v < 2 ^ 32
  | .trial _ sup v => sup < 2 && v < 2 ^ 32
  | .reboot _ sup v => sup < 2 && v < 2 ^ 32
  | .confirm _ sup v => sup < 2 && v < 2 ^ 32
  | .handover _ sup v => sup < 2 && v < 2 ^ 32
  | .censusDump part v => part < 64 && v < 2 ^ 32
  | .censusClear part v => part < 64 && v < 2 ^ 32
  | .censusDumpClear part v => part < 64 && v < 2 ^ 32
  | .censusCommandDone part => part < 64
  | .selectedSlotRecordRead part => part < 64
  | .pcieLoopBack _ port v seen => port < 2 && v < 2 ^ 32 && seen.wf
  | .loopBackTimeout which seen => which < 3 && seen.wf
  | .canLoopBack _ v => v < 2 ^ 8
  | .canTestFrame _ => true
  | .tapReset => true
  | .idcode => true
  | .samplePreload _ => true
  | .extest _ => true
  | .clamp _ => true
  | .highz _ => true
  | .extestPulse _ => true
  | .extestTrain _ => true
  | .bypass _ => true
  | .healthSample env => env.wf
  | .emcyInhibitExpiry => true
  | .supervisorLost => true
  | .bar2WindowBaseWrite port v => port < 2 && v < 2 ^ 64

end Sys2Proof
end

