-- ==== Sys2Proof/Safety.lean ====
section
/-! DEFINITION. The terms in which statements speak of the block: a command's outcome, a word that issues, a fault that is taken, what a command
leaves as it was, the memory's canonical form, and the invariant that every step keeps. -/

namespace Sys2Proof.Machine

/-- The command answers a next state with module `m`, its queue as it was. -/
def Gives (c : Instr) (s : State) (m : Mach) : Prop := exec c s = .next { s with mach := m }

/-- Core `core` issues the word of `x` now: the module is in service, the word at PC raises no fault of its row's checks and waits for
nothing (R151, R86, R124, R133). -/
structure Issues (s : State) (core : Nat) (x : Wx) (checks : Mach → Wx → List (Nat × Nat)) (stall : Mach → Wx → Bool) : Prop where
  up : s.mach.phase = .running
  word : s.mach.wx core = some x
  sound : pickFault (checks s.mach x) = none
  free : stall s.mach x = false

/-- The command takes a fault of a core's context for its running job: the fault record of the partition (of the guest, 3000h + 40h p.18)
holds it, the context stops, the job will complete with the code, and a hardware fault waits for the recovery path (R151 to R153, R412). -/
def Faults (c : Instr) (s : State) (p core : Nat) (guest : Bool) (code opc pc info : Nat) : Prop :=
  ∀ j, s.mach.jobOf p guest = some j → j.st = .running →
    ∃ m, Gives c s m ∧
      (if guest then m.obj (pix p) 0x18 else m.obj (0x6280 + p) 1) = leNat (faultRecord s.mach core code opc pc j.tag j.genr info) ∧
      ((m.core core).ctx guest).run = (((s.mach.core core).ctx guest).stop).run ∧
      (∀ k ∈ m.jobs, k.same j = true → k.st = .stopping 1 code) ∧
      (hwCode code = true → (code, p, core) ∈ m.hwWait)

/-- The memory of the module is in canonical form: keys rise strictly and no entry holds the value that an unlisted byte reads. -/
abbrev Memory.wf (m : Mach) : Prop := Mem.wf m.mem = true

/-- The invariant of the block: its memory is in canonical form. -/
abbrev State.Inv (s : State) : Prop := Memory.wf s.mach

/-- Bytes outside the ranges `ws` read in `m'` as in `m`. -/
def SameOutside (ws : List (Nat × Nat)) (m m' : Mach) : Prop :=
  ∀ a, (∀ w ∈ ws, ¬ (w.1 ≤ a ∧ a < w.1 + w.2)) → m'.rd a 1 = m.rd a 1

/-- Exactly the pieces `ws` are stored, in order; every other byte reads as before. -/
def Stores (ws : List (Nat × List Byte)) (m m' : Mach) : Prop :=
  m'.mem = (m.wrAll ws).mem ∧ (Memory.wf m → SameOutside (ws.map (fun w => (w.1, w.2.length))) m m')

/-- Every object of the register file but those with keys `ks` reads as before. -/
def SameObjs (ks : List Nat) (m m' : Mach) : Prop := ∀ idx sub, okey idx sub ∉ ks → m'.obj idx sub = m.obj idx sub

/-- Core `core` becomes `k`, and no other core changes. -/
def OneCore (core : Nat) (k : Core) (m m' : Mach) : Prop := m'.core core = k ∧ ∀ c, c ≠ core → m'.core c = m.core c

/-- Partition `p` becomes `q`, and the unit state of no other partition changes. -/
def OnePart (p : Nat) (q : Part) (m m' : Mach) : Prop := m'.part p = q ∧ ∀ r, r ≠ p → m'.part r = m.part r

/-- The row that takes VOP words of a FUNC (Table 4-14). -/
def vopRow (f core : Nat) : Option Instr :=
  match f with
  | 0x00 => some (.vopAdd core)
  | 0x01 => some (.vopSub core)
  | 0x02 => some (.vopMul core)
  | 0x03 => some (.vopFma core)
  | 0x04 => some (.vopMax core)
  | 0x05 => some (.vopMin core)
  | 0x06 => some (.vopAbs core)
  | 0x07 => some (.vopNeg core)
  | 0x08 => some (.vopCvt core)
  | 0x10 => some (.vopRsum core)
  | 0x11 => some (.vopRmax core)
  | 0x12 => some (.vopRmin core)
  | 0x13 => some (.vopRssq core)
  | _ => none

/-- The row that takes SFN words of a FUNC (Table 4-15). -/
def sfnRow (f core : Nat) : Option Instr :=
  match f with
  | 0x00 => some (.sfnExp2 core)
  | 0x01 => some (.sfnLog2 core)
  | 0x02 => some (.sfnReciprocal core)
  | 0x03 => some (.sfnRsqrt core)
  | 0x04 => some (.sfnTanh core)
  | 0x05 => some (.sfnSigmoid core)
  | 0x06 => some (.sfnErf core)
  | 0x07 => some (.sfnGeluErf core)
  | 0x08 => some (.sfnGeluTanh core)
  | _ => if 0x10 ≤ f ∧ f ≤ 0x1F then some (.sfnUserFunction core) else none

/-- The row that takes CDMA words whose shape has an STYPE (Table 7-6). -/
def cdmaRow (st core : Nat) : Option Instr :=
  match st with
  | 1 => some (.cdmaLinear core)
  | 2 => some (.cdmaCopy2d core)
  | 3 => some (.cdmaWindow core)
  | 4 => some (.cdmaPool core)
  | 5 => some (.cdmaCombine core)
  | 6 => some (.cdmaZpack core)
  | 7 => some (.cdmaZunpack core)
  | _ => none

/-- The row that takes a message that arrives on a link, by its operation (Table 10-9, Table 17-2). -/
def msgRow (link : Nat) (x : Msg) : Option Instr :=
  match x.op with
  | 1 => some (.radd32 link x)
  | 2 => some (.radd16 link x)
  | 3 => some (.signal link x)
  | 4 => some (.resp link x)
  | 5 =>
    if x.fbuf = 1 then some (.restoreData link x)
    else if x.fbuf = 0xFFC then some (.restoreRequest link x)
    else if x.fbuf < 0xFFE then some (.lifelineData link x)
    else if x.fbuf = 0xFFE then some (.commit link x)
    else if x.fbuf = 0xFFF then some (.acknowledge link x) else none
  | 6 =>
    if x.arg % 256 = 2 then some (.pingReply link x)
    else if x.arg % 256 = 3 then some (.creditGrant link x) else some (.ping link x)
  | _ => some (.write link x)

end Sys2Proof.Machine
end

