-- ==== Sys2Proof/Certificates/Slice0/Obligations.lean ====
section
/-! DEFINITION. The statements for the provers, one definition each, family by family. -/

open Sys2Proof Sys2Proof.Machine


/-- The queue's law: a step takes the command at the front of the queue, and has its effect on the module with the queue's rest. -/
def Obligations.StepTakesFront : Prop :=
  ∀ (c : Instr) (rest : List Instr) (s : State),
    step { s with pending := c :: rest } = exec c { s with pending := rest }

/-- A step on an empty queue is one REFCLK cycle of a module in service: rc moves on by one, and in no other phase does anything change but a frog's
wait for its partner, which ends when 4800h.06 has passed (the model's choice, log entry 2). -/
def Obligations.IdleStep : Prop :=
  ∀ (m : Mach),
    (m.phase ≠ .running → step ⟨[], m⟩ = .next ⟨[], m⟩) ∧
    (m.phase = .running → (∀ p, p < 64 → (m.life p).frog = none) → step ⟨[], m⟩ = .next ⟨[], { m with rc := m.rc + 1 }⟩)

/-- No command touches the queue, and none is refused or stops the module: every command answers a next state whose queue is the one it was given. -/
def Obligations.EveryCommandCompletes : Prop :=
 ∀ (c : Instr) (s : State), ∃ m, Gives c s m

/-- NOP, SET, ADD, DBNZ, BCMP, RCTX and AX: each changes its own context as Table 4-10 and Table 4-11 say, and nothing else of the block. -/
def Obligations.ControlWords : Prop :=
  ∀ (s : State) (core : Nat) (x : Wx),
    (Issues s core x checksNop noStall → opcOf x.w = 0 →
      Gives (.nop core) s (s.mach.modCtx core x.guest (fun c => { c with pc := c.pc + 1 }))) ∧
    (Issues s core x checksSet noStall → opcOf x.w = 3 → x.f 119 115 ≠ 16 ∧
      Gives (.set core) s (s.mach.modCtx core x.guest (fun c =>
        if x.f 119 115 < 16 then { c with c := c.c.set (x.f 119 115) (x.f 114 83), pc := c.pc + 1 }
        else { c with ix := c.ix.set (x.f 119 115 - 16) (x.f 114 83), pc := c.pc + 1 }))) ∧
    (Issues s core x checksSet noStall → opcOf x.w = 4 →
      Gives (.add core) s (s.mach.modCtx core x.guest (fun c =>
        if x.f 119 115 < 16 then
          { c with c := c.c.set (x.f 119 115) ((c.c.getD (x.f 119 115) 0 + x.f 114 83) % 2 ^ 32), pc := c.pc + 1 }
        else
          { c with ix := c.ix.set (x.f 119 115 - 16) ((c.ix.getD (x.f 119 115 - 16) 0 + x.f 114 83) % 2 ^ 32), pc := c.pc + 1 }))) ∧
    (Issues s core x checksDbnz noStall → opcOf x.w = 5 → x.f 119 115 < 16 ∧
      Gives (.dbnz core) s (s.mach.modCtx core x.guest (fun c =>
        let v := (c.c.getD (x.f 119 115) 0 + (2 ^ 32 - 1)) % 2 ^ 32
        { c with
          c := c.c.set (x.f 119 115) v
          pc := if v = 0 then c.pc + 1 else x.f 114 95
          fetch := if v = 0 then c.fetch else !inBuffer c.pc (x.f 114 95) }))) ∧
    (Issues s core x checksBcmp noStall → opcOf x.w = 6 →
      Gives (.bcmp core) s (s.mach.modCtx core x.guest (fun c =>
        let r := x.f 119 115
        let a : Int := if r < 16 then c.c.getD r 0 else toSigned 32 (c.ix.getD (r - 16) 0)
        let b : Int := if r < 16 then x.f 112 81 else toSigned 32 (x.f 112 81)
        let holds : Bool := match x.f 114 113 with
          | 0 => a = b
          | 1 => a ≠ b
          | 2 => a < b
          | _ => b ≤ a
        { c with
          pc := if holds then x.f 80 61 else c.pc + 1
          fetch := if holds then !inBuffer c.pc (x.f 80 61) else c.fetch }))) ∧
    (Issues s core x checksRctx noStall → opcOf x.w = 7 →
      Gives (.rctx core) s (s.mach.modCtx core x.guest (fun c =>
        { c with stream := x.f 119 100, ebase := x.f 99 60, auto := bit x.w 59, pc := c.pc + 1 }))) ∧
    (Issues s core x checksAx noStall → opcOf x.w = 0x10 →
      Gives (.ax core) s (s.mach.modCtx core x.guest (fun c =>
        { c with ax := some (BitVec.ofNat 128 x.w), pc := c.pc + 1 })))

/-- HALT: the context halts, and a resident RUN job ends DONE when this was the last of its streams with every operation complete. STREAM_FETCH_RETURN:
the word that waited may issue; a fetch that meets an uncorrectable half at device address `a` raises 11h with that address instead, and the
controller records the read (Table 4-10, R122, Table 11-4, R328). -/
def Obligations.HaltAndStreamFetch : Prop :=
  (∀ (s : State) (core : Nat) (x : Wx), Issues s core x checksNop noStall → opcOf x.w = 1 →
    let m := s.mach.modCtx core x.guest (fun c => { c with run := .halted })
    (∀ j, m.resJob x.p = some j → j.kind = 1 → j.st = .running → m.streamsDone x.p false = true →
      Gives (.halt core) s (m.endRun j 0 0) ∧ ∀ k ∈ (m.endRun j 0 0).jobs, k.same j = true → ∃ q, k.st = .done 0 0 q) ∧
    ((∀ j, m.resJob x.p = some j → ¬ (j.kind = 1 ∧ j.st = .running ∧ m.streamsDone x.p false = true)) → Gives (.halt core) s m)) ∧
  (∀ (s : State) (core : Nat), s.mach.phase = .running →
    ((s.mach.core core).ctx (s.mach.core core).inGuest).fetch = true →
    Gives (.streamFetchReturn core none) s (s.mach.modCtx core (s.mach.core core).inGuest (fun c => { c with fetch := false })) ∧
    (∀ a p, a < 48 * 2 ^ 35 → s.mach.partOf (core / 16) = some p → ∃ m, Gives (.streamFetchReturn core (some a)) s m ∧
      a / 32 ∈ m.bad ∧ (0x11, p, core) ∈ m.hwWait ∧ ((m.core core).ctx (s.mach.core core).inGuest).fetch = false ∧
      (s.mach.offStacks.contains (a / 2 ^ 35) = false →
        m.obj (0x4100 + a / 2 ^ 35) 4 = min (s.mach.obj (0x4100 + a / 2 ^ 35) 4 + 1) (2 ^ 64 - 1))))

/-- A word that raises faults: the lowest code is taken with the word's PC, OPC and INFO (R151, R152, R153, Table 4-27). Shown for the control and
marker words. FAULT raises its CODE with word bits [127:64]; a stream that runs past its end raises 07h with its length; a wait beyond the limit of
6200h + p.01 raises 21h with its relative marker and the counter (R151, R148, Table 4-26). -/
def Obligations.CoreFaults : Prop :=
  (∀ (s : State) (core : Nat) (x : Wx) (code info : Nat), s.mach.phase = .running → s.mach.wx core = some x →
    let stopped (c : Instr) : Prop := Faults c s x.p core x.guest code (opcOf x.w) x.ctx.pc info
    code ≠ 0x11 →
    (opcOf x.w = 0 → pickFault (checksNop s.mach x) = some (code, info) → stopped (.nop core)) ∧
    (opcOf x.w = 1 → pickFault (checksNop s.mach x) = some (code, info) → stopped (.halt core)) ∧
    (opcOf x.w = 3 → pickFault (checksSet s.mach x) = some (code, info) → stopped (.set core)) ∧
    (opcOf x.w = 4 → pickFault (checksSet s.mach x) = some (code, info) → stopped (.add core)) ∧
    (opcOf x.w = 5 → pickFault (checksDbnz s.mach x) = some (code, info) → stopped (.dbnz core)) ∧
    (opcOf x.w = 6 → pickFault (checksBcmp s.mach x) = some (code, info) → stopped (.bcmp core)) ∧
    (opcOf x.w = 7 → pickFault (checksRctx s.mach x) = some (code, info) → stopped (.rctx core)) ∧
    (opcOf x.w = 8 → pickFault (checksMsig s.mach x) = some (code, info) → stopped (.msig core)) ∧
    (opcOf x.w = 9 → pickFault (checksMwait s.mach x) = some (code, info) → stopped (.mwait core)) ∧
    (opcOf x.w = 10 → pickFault (checksMrst s.mach x) = some (code, info) → stopped (.mrst core))) ∧
  (∀ (s : State) (core : Nat), s.mach.phase = .running →
    (∀ x, Issues s core x checksFault noStall → opcOf x.w = 2 →
      Faults (.fault core) s x.p core x.guest (x.f 119 112) 2 x.ctx.pc (x.w >>> 64)) ∧
    (∀ x, s.mach.seat core = some x → x.words ≤ x.ctx.pc → Faults (.streamEnd core) s x.p core x.guest 7 0 x.words x.words) ∧
    (∀ p k guest, s.mach.partOf (core / 16) = some p → s.mach.overdue p core guest = some k →
      (guest = true → s.mach.overdue p core false = none) →
      Faults (.waitTimeout core) s p core guest 0x21 9 ((s.mach.core core).ctx guest).pc
        (512 * (s.mach.clusters p).idxOf (k / 512) + k % 512 + 65536 * s.mach.markers.get 0 k)))

/-- MSIG here, MWAIT and MRST: the word sends its message to the marker's block, from the core's die; a signal merges into the newest waiting message
of that die, when that is a signal to the same marker, and else waits behind all others (R140, R143). MWAIT keeps PC until its wait is satisfied.
MSIG to a peer: it changes no marker here; a signal with the peer's marker and the count goes out, or is lost with its route; PC moves on (R145). -/
def Obligations.MarkerAndRemoteSignalWords : Prop :=
  (∀ (s : State) (core : Nat) (x : Wx),
    let k := (s.mach.clusters x.p).getD (x.f 119 104 / 512) 0 * 512 + x.f 119 104 % 512
    let q := s.mach.ports.get [] (k / 512)
    let sent (m : Mach) (q' : List MkMsg) : Mach := { m with ports := s.mach.ports.put (k / 512) q' }
    let on := s.mach.modCtx core x.guest (fun c => { c with pc := c.pc + 1 })
    let merges (older newer : List MkMsg) (n : Nat) : Prop :=
      q = older ++ .signal (core / 256) k n :: newer ∧ ∀ y ∈ newer, y.src ≠ core / 256
    (Issues s core x checksMsig stallMsig → opcOf x.w = 8 → bit x.w 71 = false → x.f 103 72 ≠ 0 ∧
      (∀ older newer n, merges older newer n →
        Gives (.msig core) s (sent on (older ++ .signal (core / 256) k (min (x.f 103 72 + n) 0xFFFFFFFF) :: newer))) ∧
      ((∀ older newer n, ¬ merges older newer n) → Gives (.msig core) s (sent on (q ++ [.signal (core / 256) k (x.f 103 72)])))) ∧
    (Issues s core x checksMrst noStall → opcOf x.w = 10 → Gives (.mrst core) s (sent on (q ++ [.reset (core / 256) k]))) ∧
    (Issues s core x checksMwait noStall → opcOf x.w = 9 →
      Gives (.mwait core) s (sent
        (s.mach.modCtx core x.guest (fun c => { c with run := .waiting k (x.f 103 72) s.mach.rc c.carry, carry := 0 }))
        (q ++ [.wait (core / 256) k (x.f 103 72) core x.guest])))) ∧
  (∀ (s : State) (core : Nat) (x : Wx), Issues s core x checksMsig stallMsig → opcOf x.w = 8 → bit x.w 71 = true →
    let on := s.mach.modCtx core x.guest (fun c => { c with pc := c.pc + 1 })
    ∃ r m, x.pk.peerRec (x.f 70 63) = some r ∧ Gives (.msig core) s m ∧
      m = { on with mid := s.mach.mid + 1 }.sendOrLose { msgBlank 3 (s.mach.pv x.p) (peerAt r).1 s.mach.ownAddr (peerAt r).2 x.p
        (s.mach.jobId x.p).1 (s.mach.jobId x.p).2 core (s.mach.mid % 2 ^ 32) with
        fmk := x.f 119 104
        arg := x.f 103 72 } ∧
      m.markers = s.mach.markers ∧ m.ports = s.mach.ports ∧ m.mem = s.mach.mem ∧ m.jobs = s.mach.jobs ∧ m.cores = on.cores)

/-- MARKER_UPDATE: in one ic a block takes waiting messages, at most ten and one of a source, and keeps the others in their order; each counter they
name becomes the sum of its signals, from 0 if a reset is among them and else from its value, and saturates at FFFFFFFFh; every other marker keeps its
value; a wait is gone from the block exactly when its marker now holds its N or more, and its context goes on behind its MWAIT (R141, R143, R144,
R149). -/
def Obligations.MarkerBlock : Prop :=
  ∀ (s : State) (g n : Nat), s.mach.phase = .running → ∃ m, Gives (.markerUpdate g n) s m ∧
    let r := takeIc (min n 10) [] (s.mach.ports.get [] g)
    let xs := r.1
    xs.length ≤ min n 10 ∧ (xs.map MkMsg.src).Nodup ∧ List.Perm (xs ++ r.2) (s.mach.ports.get [] g) ∧
      List.Sublist r.2 (s.mach.ports.get [] g) ∧ m.ports.get [] g = r.2 ∧
    (∀ k, k / 512 = g → m.markers.get 0 k =
      min ((if xs.any (fun x => match x with | .reset _ a => a = k | _ => false) then 0 else s.mach.markers.get 0 k) +
        (xs.map (fun x => match x with | .signal _ a v => if a = k then v else 0 | _ => 0)).sum) 0xFFFFFFFF ∨
      (m.markers.get 0 k = s.mach.markers.get 0 k ∧
        xs.all (fun x => match x with | .reset _ a => a ≠ k | .signal _ a _ => a ≠ k | _ => true) = true)) ∧
    (∀ k, k / 512 ≠ g → m.markers.get 0 k = s.mach.markers.get 0 k) ∧
    (∀ w, w ∈ m.waits.get [] g → m.markers.get 0 w.marker < w.n) ∧
    (∀ w, w ∈ s.mach.waits.get [] g → m.markers.get 0 w.marker < w.n → w ∈ m.waits.get [] g) ∧
    (∀ w, w ∈ s.mach.waits.get [] g → w.n ≤ m.markers.get 0 w.marker → ∀ n' t0 c,
      ((s.mach.core w.core).ctx w.guest).run = .waiting w.marker n' t0 c →
      (m.core w.core).ctx w.guest = { (s.mach.core w.core).ctx w.guest with
        run := .running
        pc := ((s.mach.core w.core).ctx w.guest).pc + 1 })

/-- AR: the operation joins the core's queue of at most three, EBASE moves on by T tiles of 64 rows (of a fill-window batch: of its real rows) when AUTO
is set, PC moves on, and a batch counts as taken by the core. Nothing else changes but the time of the cluster's last activity (R86, R100, R123,
R126). TILE_START of an operation whose job is not being saved: the first beat of the next tile is latched; with picot cycles off at once, in the
hold while operands come within HOLD ic, after a ramp-up once all 64 columns run. The gap is at least the drain of the last tile less the beats of
this one, and the counters of 6040h take the picot ic of the gap and the ic R81 bound it (R81, R92, R93, R96, R108). TILE_COMPLETE of a tile whose
operands are good: the bank of the tile holds its sums and is held when the last tile does not drain; a tile that drains joins the drains with 64 rows
to write; 64 K work (of a batch: of its real rows; BIN mode an eighth) goes to the cluster; the next tile is in hand, and the gap takes the array
control in force. Only the tag list of a batch that has nothing left to drain is stored. `m` is the module before a job that is now complete ends
(R62, R78, R80, R87, R90, R101, R107, R108). -/
def Obligations.ArrayTiles : Prop :=
  (∀ (s : State) (core : Nat) (x : Wx), Issues s core x checksAr stallAr → opcOf x.w = 0x11 →
    let k := s.mach.core core
    let o := arOpOf s.mach x
    let n := arT x.w * (match o.batch with | none => 4096 | some b => 64 * b.rows.length)
    let c : Ctx := { k.ctx x.guest with
      pc := x.ctx.pc + 1
      ebase := if (k.ctx x.guest).auto then ((k.ctx x.guest).ebase + n) % 2 ^ 40 else (k.ctx x.guest).ebase }
    let used := match o.batch with | none => k.fwUsed | some b => k.fwUsed.put b.win (k.fwUsed.get 0 b.win + 1)
    k.arr.queue.length < 3 ∧ ∃ m, Gives (.ar core) s m ∧ m = { s.mach with
        cores := m.cores
        acts := m.acts } ∧
      OneCore core ({ k with
        arr := { k.arr with queue := k.arr.queue ++ [o] }
        fwUsed := used }.setCtx x.guest c) s.mach m) ∧
  (∀ (s : State) (core wait : Nat) (o : ArOp) (rest : List ArOp), s.mach.phase = .running →
    let a := (s.mach.core core).arr
    let r81 := a.ddr - beatsOf o.mode (axFA o.ax.toNat) (axFB o.ax.toNat) o.k
    let starts (gap picot bound : Nat) : Prop := ∃ m, Gives (.tileStart core wait) s m ∧
      m = { s.mach with
        cores := m.cores
        acts := m.acts
        objs := m.objs } ∧
      OneCore core { s.mach.core core with arr := { a with
        busy := true
        gap := gap
        ramp := .hold } } s.mach m ∧
      m.obj 0x6040 1 = min (s.mach.obj 0x6040 1 + picot) (2 ^ 64 - 1) ∧ m.obj 0x6040 3 = min (s.mach.obj 0x6040 3 + bound) (2 ^ 64 - 1) ∧
      SameObjs [okey 0x6040 1, okey 0x6040 3] s.mach m
    a.queue = o :: rest → a.busy = false → (∀ d ∈ a.drains, d.bank ≠ o.bankOf o.tile) → s.mach.arrCut core o = false →
      (bit a.ctl 0 = false → starts (max wait r81) 0 (r81 - wait)) ∧
      (bit a.ctl 0 = true → a.ramp = .hold → wait ≤ fld a.ctl 14 8 → starts (max wait r81) (max wait r81) (r81 - wait)) ∧
      (∀ c, bit a.ctl 0 = true → a.ramp = .up c → 64 ≤ c → starts (max a.gap r81) (r81 - a.gap) (r81 - a.gap))) ∧
  (∀ (s : State) (core p : Nat) (o : ArOp) (rest : List ArOp), s.mach.phase = .running → s.mach.partOf (core / 16) = some p →
    let k := s.mach.core core
    let b := o.bankOf o.tile
    let held : Bool := o.tile + 1 = o.t && !o.drainBit
    let rows := match o.batch with | some w => w.rows.length | none => 64
    k.arr.queue = o :: rest → k.arr.busy = true → s.mach.badRead o.tileReads = none →
    ∃ m, Gives (.tileComplete core) s (m.settle p) ∧
      Stores (match o.batch with
        | some w => if (m.core core).arr.offBatch w then [(o.tkey, tagList w)] else []
        | none => []) s.mach m ∧
      (m.core core).arr.queue = (if o.tile + 1 = o.t then rest else { o with
        tile := o.tile + 1
        kdone := 0 } :: rest) ∧
      (m.core core).arr.busy = false ∧ (m.core core).arr.ramp = .hold ∧ (m.core core).arr.gap = 0 ∧
      (m.core core).arr.ctl = s.mach.obj (0x6180 + p) 1 ∧
      (m.core core).arr.drains = k.arr.drains ++ (if o.drains o.tile then [⟨o, o.tile, b, 64⟩] else []) ∧
      (m.core core).arr.banks = k.arr.banks.set b
        (if held || o.drains o.tile then { (tileBank s.mach o (k.arr.banks.getD b Bank.idle) o.k).1 with held := held } else Bank.idle) ∧
      (m.core core).host = k.host ∧ (m.core core).guest = k.guest ∧ (∀ c, c ≠ core → m.core c = s.mach.core c) ∧
      m.work.get 0 (core / 16) = s.mach.work.get 0 (core / 16) + (if o.mode = 5 then 64 * rows * o.k / 8 else 64 * rows * o.k))

/-- RAMP_DOWN begins to stop columns when the hold has passed: column 63 stops; RAMP_COLUMN_STEP stops or starts one column in 8 ic, to quiescence and
to 64 columns; RAMP_UP turns a ramp-down round, `late` ic after its last column was due to stop, where that column runs on when `late` is 0, or starts
from quiescence. The counters of 6040h take the ic of the hold and of the ramps (R92, R93, R96). A tile that reads an uncorrectable half, as it
completes or as ARRAY_ECC finds one while it streams: 45h with the offset of the half, which is uncorrectable from then on; ARRAY_PARITY: 46h with a
free value, for which the spec states no INFO (R107, R535, Table 4-26). -/
def Obligations.RampsAndArrayFaults : Prop :=
  (∀ (s : State) (core late : Nat), s.mach.phase = .running →
    let k := s.mach.core core
    let now (c : Instr) (sub n : Nat) (ramp : Ramp) (gap : Nat) : Prop := ∃ m, Gives c s m ∧
      m = { s.mach with
        cores := m.cores
        acts := m.acts
        objs := m.objs } ∧
      OneCore core { k with arr := { k.arr with
        ramp := ramp
        gap := gap } } s.mach m ∧
      m.obj 0x6040 sub = min (s.mach.obj 0x6040 sub + n) (2 ^ 64 - 1) ∧ SameObjs [okey 0x6040 sub] s.mach m
    let hold := fld k.arr.ctl 14 8
    (k.arr.busy = false → k.arr.ramp = .hold → bit k.arr.ctl 0 = true →
      now (.rampDown core) 1 (hold - k.arr.gap) (.down 63) (max k.arr.gap hold)) ∧
    (∀ c, k.arr.ramp = .down c → now (.rampColumnStep core) 2 8 (if c = 0 then .quiet else .down (c - 1)) (k.arr.gap + 8)) ∧
    (∀ c, k.arr.ramp = .up c → c < 64 → now (.rampColumnStep core) 2 8 (.up (c + 1)) (k.arr.gap + 8)) ∧
    (∀ o rest, k.arr.queue = o :: rest → k.arr.busy = false → s.mach.arrCut core o = false →
      (∀ c, k.arr.ramp = .down c →
        now (.rampUp core late) 2 (min late 8) (.up (if late = 0 then c + 1 else c)) (k.arr.gap + min late 8)) ∧
      (k.arr.ramp = .quiet → s.mach.obj 0x6040 2 < 2 ^ 64 → now (.rampUp core late) 2 0 (.up 0) (k.arr.gap + late)))) ∧
  (∀ (s : State) (core p : Nat) (o : ArOp) (rest : List ArOp), s.mach.phase = .running → s.mach.partOf (core / 16) = some p →
    (s.mach.core core).arr.queue = o :: rest → (s.mach.core core).arr.busy = true →
    (∀ b, s.mach.badRead o.tileReads = some b → Faults (.tileComplete core) s p core o.guest 0x45 0x11 o.pc (chipOff b)) ∧
    (∀ half, overlaps o.tileReads [(half * 32, 32)] = true →
      Faults (.arrayEcc core half) s p core o.guest 0x45 0x11 o.pc (chipOff (half * 32)) ∧
      (∃ m, Gives (.arrayEcc core half) s m ∧ half ∈ m.bad ∧ m.mem = s.mach.mem)) ∧
    Faults (.arrayParity core) s p core o.guest 0x46 0x11 o.pc (Config.freeNat s.mach.free 0 % 2 ^ 64))

/-- DRAIN_ROW_WRITE: rows leave from 63 down to 0; a row to memory, and a real row of a batch, is converted under the rounding of each element and
stored as the layout says; a padding row stores nothing; a real row of the last tile of a batch signals its marker, and the last row of a batch that
has nothing left to drain stores its tag list; a row that would rewrite part of an uncorrectable half faults 45h. The drain keeps its remaining rows,
or ends, and its bank is idle again; `m` is the module before a job that is now complete ends (R65, R80, R83 to R85, R101, R123, R199, R535). A drain
to a reduction buffer: the row stalls while its contributor has no contribution open and no credit; else its 256 bytes reach the contribution's
staging tile, and no other byte changes (R256, R257, R260). -/
def Obligations.Drains : Prop :=
  (∀ (s : State) (core p : Nat) (d : Drain) (rest : List Drain), s.mach.phase = .running → s.mach.partOf (core / 16) = some p →
    let k := s.mach.core core
    let o := d.op
    let i := d.left - 1
    let ax := o.ax.toNat
    let bank := k.arr.banks.getD d.bank Bank.idle
    let rs := (List.range 64).map (fun j => rndAt (s.mach.srKeyOf p o.guest) (fld ax 101 100) (bit ax 99) o.stream (o.elem d.tile i j))
    let st := encodeStore (axFD ax) rs (drainVals bank o.cmps i)
    let idx := if o.cmps then (List.range 64).flatMap (fun j => leBytes 4 (bank.idx.getD (64 * i + j) 0xFFFFFFFF)) else []
    let ws := rowWrites o d.tile i st.1 st.2.1 idx
    let tags (m : Mach) := match o.batch with
      | some b => if i = 0 ∧ (m.core core).arr.offBatch b = true then [(o.tkey, tagList b)] else []
      | none => []
    let next (m : Mach) : Prop :=
      (m.core core).arr.drains = (if i = 0 then rest else { d with left := i } :: rest) ∧ (m.core core).arr.queue = k.arr.queue ∧
      (i = 0 → (m.core core).arr.banks = k.arr.banks.set d.bank { bank with
        held := false
        vals := []
        idx := [] }) ∧
      (i ≠ 0 → (m.core core).arr.banks = k.arr.banks) ∧ (m.core core).host = k.host ∧ (∀ c, c ≠ core → m.core c = s.mach.core c) ∧
      m.ports = (match o.batch.bind (fun b => b.rows[i]?) with
        | some r => if d.tile + 1 = o.t then (s.mach.signal (core / 256) r.marker 1).ports else s.mach.ports
        | none => s.mach.ports)
    k.arr.drains = d :: rest → o.rbuf = none →
      (∀ b, o.batch = some b → b.rows.length ≤ i → ∃ m, Gives (.drainRowWrite core) s (m.settle p) ∧ Stores (tags m) s.mach m ∧ next m) ∧
      ((∀ b, o.batch = some b → i < b.rows.length) →
        (s.mach.badWrite ws = none → ∃ m, Gives (.drainRowWrite core) s (m.settle p) ∧ Stores (ws ++ tags m) s.mach m ∧ next m) ∧
        (∀ b, s.mach.badWrite ws = some b → Faults (.drainRowWrite core) s p core o.guest 0x45 0x11 o.pc (chipOff b)))) ∧
  (∀ (s : State) (core p id c : Nat) (d : Drain) (rest : List Drain) (b : RBuf) (r : List Byte), s.mach.phase = .running →
    s.mach.partOf (core / 16) = some p → (s.mach.core core).arr.drains = d :: rest → d.op.rbuf = some id → d.op.batch = none →
    s.mach.rb p id = some b → s.mach.rbRec p id = some r → s.mach.rbLocal p r core = some c →
    let i := d.left - 1
    let ax := d.op.ax.toNat
    let rs := (List.range 64).map (fun j => rndAt (s.mach.srKeyOf p d.op.guest) (fld ax 101 100) (bit ax 99) d.op.stream (d.op.elem d.tile i j))
    let els := (encodeStore (axFD ax) rs (drainVals ((s.mach.core core).arr.banks.getD d.bank Bank.idle) d.op.cmps i)).1
    let b' := if (b.open? c).isSome then b else b.begin' c
    (b.open? c = none → b.credits.getD c 0 = 0 → ∃ m, Gives (.drainRowWrite core) s m ∧ m.mem = s.mach.mem ∧ m.cores = s.mach.cores) ∧
    (∀ t, b.open? c ≠ none ∨ 0 < b.credits.getD c 0 → b'.open? c = some t → ∃ m, Gives (.drainRowWrite core) s (m.settle p) ∧
      Stores [(s.mach.rbStageKey p r c t.place + 256 * i, els)] s.mach m ∧
      (m.core core).arr.drains = (if i = 0 then rest else { d with left := i } :: rest)))

/-- The thirteen VOP rows: the values of the word, converted to FO under the rounding of each element, are stored at D and nowhere else; PC moves on,
EBASE moves on by the stored elements when AUTO is set, and the conversion's and the function's flags are set (R57, R66, R123, R128 to R130). The
values of the VOP functions before the output conversion (Table 4-14): element by element over A, B (one broadcast element where bit 91 is set) and
the old D, each FP32 result rounded once; the reductions store one value. -/
def Obligations.VectorOperations : Prop :=
  (∀ (s : State) (core : Nat) (x : Wx) (c : Instr), Issues s core x checksVop stallVop → opcOf x.w = 0x18 →
    vopRow (x.f 119 114) core = some c →
    let v := vopVals s.mach x
    let st := vecOut s.mach x v.1 (x.f 108 104) (x.f 103 102) (bit x.w 101) (x.ref s.mach (x.f 30 7)).key (vopReduces (x.f 119 114))
    let k := s.mach.core core
    s.mach.badWrite st.1 = none → ∃ m, Gives c s m ∧ Stores st.1 s.mach m ∧
      OneCore core (k.setCtx x.guest { (k.ctx x.guest).bumpBase v.1.length with pc := x.ctx.pc + 1 }) s.mach m ∧
      m = { s.mach with
        cores := m.cores
        acts := m.acts
        mem := m.mem
        bad := m.bad
        objs := m.objs
        census := m.census } ∧
      SameObjs [okey (0x6080 + x.p) 2] s.mach m ∧
      (bit x.w 100 = false → m.census = s.mach.census ∧ m.obj (0x6080 + x.p) 2 = s.mach.obj (0x6080 + x.p) 2 ||| (v.2 ||| st.2))) ∧
  (∀ (m : Mach) (x : Wx),
    let f := x.f 119 114
    let n := vopN x.w
    let a := m.vecVals (x.ref m (x.f 78 55)).key (x.f 113 109) n
    let b := if bit x.w 91 then List.replicate n ((m.vecVals (x.ref m (x.f 54 31)).key (x.f 113 109) 1).headD (.zero false))
      else m.vecVals (x.ref m (x.f 54 31)).key (x.f 113 109) n
    let d := m.vecVals (x.ref m (x.f 30 7)).key (x.f 108 104) n
    let r32 (v : Val) : Val := val32 (convertF fFP32 rne v).1
    (f = 0 → (vopVals m x).1 = List.zipWith (fun u v => r32 (addV u v)) a b) ∧
    (f = 1 → (vopVals m x).1 = List.zipWith (fun u v => r32 (addV u v.negate)) a b) ∧
    (f = 2 → (vopVals m x).1 = List.zipWith (fun u v => r32 (mulV u v)) a b) ∧
    (f = 3 → (vopVals m x).1 = List.zipWith (fun u v => r32 (addV (mulV u.1 u.2) v)) (a.zip b) d) ∧
    (f = 4 → (vopVals m x).1 = List.zipWith maxV a b) ∧
    (f = 5 → (vopVals m x).1 = List.zipWith minV a b) ∧
    (f = 6 → (vopVals m x).1 = a.map Val.abs) ∧
    (f = 7 → (vopVals m x).1 = a.map Val.negate) ∧
    (f = 8 → (vopVals m x).1 = a) ∧
    (0x10 ≤ f → (vopVals m x).1 = [(reduceVals f a).1]) ∧
    a.length = n ∧ n = 64 * (x.f 90 79 + 1))

/-- The ten SFN rows: the function of each element, converted to FO under its rounding, is stored at D and nowhere else; PC and EBASE move on as for a
vector word, and the flags of R159 and of the conversion are set (R131, R155, R159, R161, R166). -/
def Obligations.SpecialWords : Prop :=
  ∀ (s : State) (core : Nat) (x : Wx) (c : Instr), Issues s core x checksSfn stallSfn → opcOf x.w = 0x20 →
    sfnRow (x.f 119 115) core = some c →
    let a := s.mach.vecVals (x.ref s.mach (x.f 80 57)).key (x.f 114 110) (64 * (x.f 92 81 + 1))
    let v := sfnVals s.mach x
    let st := vecOut s.mach x v.1 (x.f 109 105) (x.f 104 103) (bit x.w 102) (x.ref s.mach (x.f 56 33)).key false
    let k := s.mach.core core
    v.1 = a.map (sfnElem s.mach x) ∧
    (s.mach.badWrite st.1 = none → ∃ m, Gives c s m ∧ Stores st.1 s.mach m ∧
      OneCore core (k.setCtx x.guest { (k.ctx x.guest).bumpBase v.1.length with pc := x.ctx.pc + 1 }) s.mach m ∧
      m = { s.mach with
        cores := m.cores
        acts := m.acts
        mem := m.mem
        bad := m.bad
        objs := m.objs
        census := m.census } ∧
      SameObjs [okey (0x6080 + x.p) 2] s.mach m ∧
      (bit x.w 101 = false → m.census = s.mach.census ∧ m.obj (0x6080 + x.p) 2 = s.mach.obj (0x6080 + x.p) 2 ||| (v.2 ||| st.2)))

/-- LDMA, CDMA and PTLD: the operation joins the context's outstanding operations, of which there are never more than eight, with its completion marker,
and PC moves on; no byte moves yet (R133 to R135, R240). FWPOST: the post is outstanding, and its core waits last in its window's posts (R98, R138). -/
def Obligations.DataMovementIssues : Prop :=
  (∀ (s : State) (core : Nat) (x : Wx),
    let k := s.mach.core core
    let launched (c : Instr) (plan : DmaPlan) (mk : Option Nat) : Prop :=
      x.ctx.dma.length < 8 ∧ Gives c s (s.mach.modCtx core x.guest (fun c => { c with
        dma := c.dma ++ [⟨BitVec.ofNat 128 x.w, x.ctx.pc, plan, mk⟩]
        pc := c.pc + 1 })) ∧ k.ctx x.guest = x.ctx
    let mark (en hi lo : Nat) : Option Nat :=
      if bit x.w en then some ((s.mach.clusters x.p).getD (x.f hi lo / 512) 0 * 512 + x.f hi lo % 512) else none
    (Issues s core x checksLdma (fun m x => stallPlan m x (planLdma m x)) → opcOf x.w = 0x28 →
      launched (.ldma core) (.copy (x.ref s.mach (x.f 119 96)).key (x.ref s.mach (x.f 95 72)).key 0 0 1 (64 * (x.f 71 56 + 1)))
        (mark 55 54 39)) ∧
    (∀ st c, Issues s core x checksCdma stallCdma → opcOf x.w = 0x29 → s.mach.stypeOf x = some st → cdmaRow st core = some c →
      launched c (cdmaPlan s.mach x) (mark 19 18 3)) ∧
    (Issues s core x checksPtld (fun m x => stallPlan m x (planPtld m x)) → opcOf x.w = 0x2B → 
      launched (.ptld core) (planPtld s.mach x) (mark 43 42 27))) ∧
  (∀ (s : State) (core : Nat) (x : Wx) (f : FillWin), Issues s core x checksFwpost stallFwpost → opcOf x.w = 0x2C →
    fwPosts x s.mach = some f → ∃ m, Gives (.fwpost core) s m ∧ m.mem = s.mach.mem ∧
      OneCore core ((s.mach.core core).setCtx x.guest { (s.mach.core core).ctx x.guest with
        dma := x.ctx.dma ++ [⟨BitVec.ofNat 128 x.w, x.ctx.pc, planFwpost s.mach x, none⟩]
        pc := x.ctx.pc + 1 }) s.mach m ∧
      OnePart x.p { s.mach.part x.p with
        wins := (s.mach.part x.p).wins.put (x.f 119 117) { f with posts := f.posts ++ [core] } } s.mach m)

/-- DMA_COMPLETE: the pieces of the operation are stored and nothing else is; it is outstanding no longer, its flags are set, and its marker is
signalled by 1 from the core's die; `m` is the module before a job that is now complete ends (R66, R133, R143). DMA_ECC: an operation that meets an
uncorrectable half stores the pieces before the one that reads it, is outstanding no longer, and its core faults 11h with the offset of the half; its
marker is not signalled (R139, R535). -/
def Obligations.DataMovementEnds : Prop :=
  (∀ (s : State) (core n p i : Nat) (guest : Bool) (e : DmaEntry), s.mach.phase = .running → s.mach.partOf (core / 16) = some p →
    s.mach.dmaAt core n = some (guest, i, e) → (∀ w a l r t k, e.plan ≠ .post w a l r t k) → (∀ q d l t, e.plan ≠ .remote q d l t) →
    let mv := e.plan.moved s.mach
    s.mach.badPieceOf mv = none →
    ∃ m, Gives (.dmaComplete core n) s (m.settle p) ∧ Stores mv.writes s.mach m ∧
      OneCore core ((s.mach.core core).setCtx guest { (s.mach.core core).ctx guest with
        dma := ((s.mach.core core).ctx guest).dma.eraseIdx i }) s.mach m ∧
      m.obj (0x6080 + p) 2 = s.mach.obj (0x6080 + p) 2 ||| mv.flags ∧
      (e.marker = none → m.ports = s.mach.ports) ∧
      (∀ k, e.marker = some k → m.ports = s.mach.ports.put (k / 512) (sendTo (s.mach.ports.get [] (k / 512)) (.signal (core / 256) k 1))) ∧
      m.markers = s.mach.markers ∧ m.jobs = s.mach.jobs) ∧
  (∀ (s : State) (core n unit p i u b : Nat) (guest : Bool) (e : DmaEntry), s.mach.phase = .running → s.mach.partOf (core / 16) = some p →
    s.mach.dmaAt core n = some (guest, i, e) → (guest = true → ∀ w a l r t k, e.plan ≠ .post w a l r t k) →
    let mv := s.mach.movedNow p core e.plan
    s.mach.eccPiece mv unit = some (u, b) →
    Faults (.dmaEcc core n unit) s p core guest 0x11 (opcOf e.word.toNat) e.pc (chipOff b) ∧
    ∃ m, Gives (.dmaEcc core n unit) s m ∧ Stores ((mv.writes).take u) s.mach m ∧
      ((m.core core).ctx guest).dma = ((s.mach.core core).ctx guest).dma.eraseIdx i ∧ m.markers = s.mach.markers)

/-- R213 whole, and the result of R214. A CDMA word of STYPE 1 copies LEN units, one of STYPE 2 ROWS rows of RLEN units, source row r at SOFF + r SPITCH
and destination row r at DOFF + r DPITCH of their buffers, the index registers added; when the copy completes, every destination byte holds what its
source byte held before, and no other byte has changed; `m` is the module before a job that is now complete ends. DPITCH is RLEN or more (Table
7-8). -/
def Obligations.CopyRows : Prop :=
  (∀ (m : Mach) (x : Wx) (a b : BufAt), x.sbuf m = some a → x.dbuf m = some b →
    let sh := m.shapeOf x
    let src := a.key + ((x.f 107 80 : Int) + x.ix (x.f 79 76)).toNat * 64
    let dst := b.key + ((x.f 63 36 : Int) + x.ix (x.f 35 32)).toNat * 64
    (leAt sh 0 1 = 1 → cdmaPlan m x = .copy src dst 0 0 1 (64 * leAt sh 4 4)) ∧
    (leAt sh 0 1 = 2 → cdmaPlan m x = .copy src dst (64 * leAt sh 12 4) (64 * leAt sh 16 4) (leAt sh 4 4) (64 * leAt sh 8 4))) ∧
  (∀ (s : State) (core n p i : Nat) (guest : Bool) (e : DmaEntry) (src dst sp dp rows units : Nat), s.mach.phase = .running →
    Memory.wf s.mach → s.mach.partOf (core / 16) = some p → s.mach.dmaAt core n = some (guest, i, e) →
    e.plan = .copy src dst sp dp rows (64 * units) → (rows ≤ 1 ∨ 64 * units ≤ dp) →
    s.mach.badPieceOf (e.plan.moved s.mach) = none →
    ∃ m : Mach, Gives (.dmaComplete core n) s (m.settle p) ∧
      (∀ r j, r < rows → j < 64 * units → m.rd (dst + r * dp + j) 1 = s.mach.rd (src + r * sp + j) 1) ∧
      (∀ a, (∀ r j, r < rows → j < 64 * units → a ≠ dst + r * dp + j) → m.rd a 1 = s.mach.rd a 1))

/-- FW_POST_ACCEPT of a window with no batch past its deadline: the oldest waiting post's row is copied, block by block, into the next slot of the open
buffer, or of the first free one, which opens with its deadline; the 64th row makes the buffer ready; the post is outstanding no longer; `m` is the
module before a job that is now complete ends (R98, R99, R200; the order of posts is the model's, log entry 223). FW_DEADLINE: the open buffer whose
deadline has passed becomes ready with padding rows, which are counted; FW_BUFFER_FREE: a ready buffer that every consumer has finished with is free
again (R99, R102, R103). -/
def Obligations.PostsAndWindows : Prop :=
  (∀ (s : State) (p w core bi ei src len ret tag mk : Nat) (f : FillWin) (rest : List Nat) (b : FwBuf) (e : DmaEntry),
    s.mach.phase = .running → (s.mach.part p).wins.get? w = some f → f.posts = core :: rest → f.bufs[bi]? = some b →
    ((∃ t, b.st = .opened t) ∧ (∀ j u, f.bufs[j]? = some u → j < bi → ∀ t, u.st ≠ .opened t)) ∨
      (b.st = .free ∧ (∀ u ∈ f.bufs, ∀ t, u.st ≠ .opened t) ∧ (∀ j u, f.bufs[j]? = some u → j < bi → u.st ≠ .free)) →
    (∀ u ∈ f.bufs, ∀ t, u.st = .opened t → s.mach.fwNow p ≤ t) →
    findPost (s.mach.core core).host.dma w = some (ei, e) → e.plan = .post w src len ret tag mk →
    (∃ j, s.mach.resJob p = some j) → b.rows.length < 64 →
    let st := match b.st with | .opened t => FwSt.opened t | _ => FwSt.opened (s.mach.fwNow p + 25 * s.mach.obj (0x6180 + p) 2)
    let base := clusterKey ((s.mach.clusters p).getD f.home 0) (f.base + bi * blockBytes f.fmt f.k)
    let wd := widthOf f.fmt
    s.mach.badPieceOf (movedPost s.mach f.fmt f.k base b.rows.length src) = none →
    ∃ (m : Mach) (f' : FillWin) (b' : FwBuf), Gives (.fwPostAccept p w) s (m.settle p) ∧ (m.part p).wins.get? w = some f' ∧ f'.posts = rest ∧ f'.bufs[bi]? = some b' ∧
      b'.rows = b.rows ++ [⟨core, ret, tag, mk⟩] ∧ b'.st = (if b.rows.length = 63 then .ready f.made else st) ∧
      f'.made = f.made + (if b.rows.length = 63 then 1 else 0) ∧
      (m.core core).host.dma = (s.mach.core core).host.dma.eraseIdx ei ∧
      (b.rows.length = 63 → m.obj (0x6180 + p) 3 = min (s.mach.obj (0x6180 + p) 3 + 1) (2 ^ 64 - 1)) ∧
      (Memory.wf s.mach → SameOutside [(base, blockBytes f.fmt f.k)] s.mach m ∧
        (∀ q, q < f.k / 64 → m.rd (base + (64 * q + b.rows.length) * 8 * wd) (8 * wd) = s.mach.rd (src + q * 8 * wd) (8 * wd)))) ∧
  (∀ (s : State) (p w bi : Nat) (f : FillWin) (b : FwBuf), s.mach.phase = .running → (s.mach.part p).wins.get? w = some f →
    f.bufs[bi]? = some b →
    let with' (b' : FwBuf) (made : Nat) (m : Mach) : Prop := (m.part p).wins.get? w = some { f with
      bufs := f.bufs.set bi b'
      made := made } ∧ m.mem = s.mach.mem ∧ m.cores = s.mach.cores ∧ m.jobs = s.mach.jobs
    (∀ t, b.st = .opened t → t ≤ s.mach.rc → (∀ j u, f.bufs[j]? = some u → j < bi → ∀ t', u.st = .opened t' → s.mach.rc < t') →
      s.mach.switching p = false →
      ∃ m, Gives (.fwDeadline p w) s m ∧ with' { b with st := .ready f.made } (f.made + 1) m ∧
        m.obj (0x6180 + p) 4 = min (s.mach.obj (0x6180 + p) 4 + 1) (2 ^ 64 - 1) ∧
        m.obj (0x6180 + p) 5 = min (s.mach.obj (0x6180 + p) 5 + (64 - b.rows.length)) (2 ^ 64 - 1)) ∧
    (∀ n, b.st = .ready n → (∀ j, j < 16 → bit f.cons j = true → 16 * (s.mach.clusters p).getD f.home 0 + j ∈ b.used) →
      ∃ m, Gives (.fwBufferFree p w bi) s m ∧ with' ⟨.free, [], []⟩ f.made m ∧ m.objs = s.mach.objs))

/-- RDMA, once its source has been read (`t` is the module with that request made): a remote write sends its packets, or with no way there faults 13h
with its peer and the far code; a reduce-add waits for the credits of its buffer and goes on as they allow. The operation stays outstanding until its
response (R136, R257, R260, R300, R307). -/
def Obligations.RemoteWords : Prop :=
  ∀ (s : State) (core : Nat) (x : Wx) (pr : List Byte), Issues s core x checksRdma stallRdma → opcOf x.w = 0x2A →
    x.pk.peerRec (x.f 119 112) = some pr →
    let op := x.f 111 110
    let len := 64 * (x.f 33 22 + 1)
    let t := s.mach.touch [(rdSrc s.mach x, len)]
    let mid := t.mid % 2 ^ 32
    let h : Msg := { msgBlank op (t.pv x.p) (peerAt pr).1 t.ownAddr (peerAt pr).2 x.p (t.jobId x.p).1 (t.jobId x.p).2 core mid with
      fbuf := x.f 69 58
      foff := x.f 57 34
      lenq := x.f 33 22
      fmken := bit x.w 21
      fmk := x.f 20 5 }
    let m1 : Mach := { t with mid := t.mid + 1 }
    let bs := t.rd (rdSrc t x) len
    let kept (m : Mach) (l : Nat) : Mach := m.modCtx core x.guest (fun c => { c with
      dma := c.dma ++ [⟨BitVec.ofNat 128 x.w, x.ctx.pc, .remote (x.f 119 112) mid l m.rc, none⟩]
      pc := c.pc + 1 })
    let lost (c : Instr) (code : Nat) : Prop := Faults c s x.p core x.guest 0x13 0x2A x.ctx.pc (x.f 119 112 + 256 * code)
    (op = 2 → t.pv x.p < 2 → lost (.rdmaReduceAddBf16 core) 9) ∧
    (∀ c, (op = 0 ∧ c = .rdmaRemoteWrite core) ∨ (op = 1 ∧ c = .rdmaReduceAddFp32 core) ∨
        (op = 2 ∧ 2 ≤ t.pv x.p ∧ c = .rdmaReduceAddBf16 core) →
      (op = 0 ∨ len % contribBytes op ≠ 0 →
        (∀ l m2, m1.sendAll (msgPackets h bs) = (0, l, m2) → Gives c s (kept m2 l)) ∧
        (∀ code l m2, code ≠ 0 → m1.sendAll (msgPackets h bs) = (code, l, m2) → lost c code)) ∧
      (op ≠ 0 → len % contribBytes op = 0 →
        (t.hop (peerAt pr).1 core = none → lost c 0xFE) ∧
        (∀ l, t.hop (peerAt pr).1 core = some l → l < 64 → t.linkVer l < t.pv x.p → lost c 9) ∧
        (∀ l, t.hop (peerAt pr).1 core = some l → (l < 64 → t.pv x.p ≤ t.linkVer l) →
          Gives c s (((kept m1 l).modPart x.p (fun q => { q with
            radds := q.radds ++ [⟨x.f 119 112, x.f 69 58, core, some core, mid,
              chunks (contribBytes op / packetBytes (t.pv x.p)) 17 (msgPackets h bs), false⟩] })).raddAll x.p))))

/-- SQ_TAIL of a bound client: every descriptor from SQ_HEAD up to the new tail is fetched in ring order, each copied into a job of its own, and SQ_HEAD
passes it. CQ_HEAD takes the new completion head. Doorbells of an unbound client change nothing (R392, R393, R415). CANCEL: a job that is ready or
waits on a fence ends WITHDRAWN; a saved one ends CANCELLED and its slot is free; a running RUN or guest RUN stops every context of its partition
and will end CANCELLED; a running MEDIA or INPUT job runs no longer; a cancel that finds no such job, or whose reserved bits are not 0, only sets
CANCEL_MISS (R392, R402). COMPLETION_RECORD: the record of the client's next ended job is stored at CQ_TAIL and nowhere else, CQ_TAIL advances, the
job is gone and its record counted; in a full ring the record waits and CQ_FULL is set (R400, Table 14-7). -/
def Obligations.JobRecords : Prop :=
  (∀ (s : State) (n v : Nat), s.mach.phase = .running →
    (s.mach.clientPart n = none → Gives (.sqTail n v) s s.mach ∧ Gives (.cqHead n v) s s.mach ∧ Gives (.cancel n v) s s.mach) ∧
    (∀ p, s.mach.clientPart n = some p →
      let k := (v % 64 + 64 - s.mach.sqHead n) % 64
      (∃ m, Gives (.sqTail n v) s m ∧ m.sqHead n = v % 64 ∧ m.sqTail n = v % 64 ∧ m.cqHead n = s.mach.cqHead n ∧ m.cqTail n = s.mach.cqTail n ∧
        m.mem = s.mach.mem ∧ m.cores = s.mach.cores ∧ m.jobSeq = s.mach.jobSeq + k ∧ m.jobs.length = s.mach.jobs.length + k ∧
        (∀ i, i < k → let slot := (s.mach.sqHead n + i) % 64
          s.mach.badRead [(s.mach.obj (cix n) 2 + 128 * slot, 128)] = none →
          (m.jobs[s.mach.jobs.length + i]?).map (fun j => (j.client, j.part, j.sqidx, j.seq, j.desc)) =
            some (n, p, slot, s.mach.jobSeq + i, s.mach.rd (s.mach.obj (cix n) 2 + 128 * slot) 128))) ∧
      (∃ m, Gives (.cqHead n v) s m ∧ m.cqHead n = v % 64 ∧ m.cqTail n = s.mach.cqTail n ∧ m.sqHead n = s.mach.sqHead n ∧
        m.sqTail n = s.mach.sqTail n ∧ SameObjs [okey (cix n) 4] s.mach m ∧ m = { s.mach with objs := m.objs }))) ∧
  (∀ (s : State) (n v p : Nat), s.mach.phase = .running → s.mach.clientPart n = some p →
    let named (j : Job) : Bool := j.client = n && j.tag = fld v 15 0 && j.genr = fld v 23 16 && !j.isDone
    (fld v 31 24 ≠ 0 ∨ s.mach.jobs.find? named = none → Gives (.cancel n v) s (s.mach.setBit (cix n) 4 29 true)) ∧
    (∀ j, fld v 31 24 = 0 → s.mach.jobs.find? named = some j →
      let ends (st : Nat) (m : Mach) : Prop := Gives (.cancel n v) s m ∧ m.objBit (cix n) 4 29 = false ∧
        (∀ k ∈ m.jobs, k.same j = true → ∃ q, k.st = .done st 0 q)
      let stops (guest : Bool) : Prop := ∃ m, Gives (.cancel n v) s m ∧ m.objBit (cix n) 4 29 = false ∧ m.mem = s.mach.mem ∧
        (∀ k ∈ m.jobs, k.same j = true → k.st = .stopping 3 0) ∧
        (∀ c ∈ s.mach.coresOf j.part, ((m.core c).ctx guest).run = (((s.mach.core c).ctx guest).cut s.mach.rc).run)
      (j.st = .queued ∨ j.st = .fenced → ∃ m, ends 2 m ∧ m.mem = s.mach.mem ∧ m.cores = s.mach.cores) ∧
      (∀ slot o, j.st = .saved slot o → ∃ m, ends 3 m ∧ (m.part j.part).saves.get? slot = none ∧ (j.pins = [] → m.mem = s.mach.mem)) ∧
      (j.st = .running → j.kind = 1 → stops false) ∧
      (j.st = .running → j.kind = 8 → stops true) ∧
      (j.st = .running → j.kind = 4 ∨ j.kind = 5 → ∃ m, Gives (.cancel n v) s m ∧ m.objBit (cix n) 4 29 = false ∧
        ∀ k ∈ m.jobs, k.same j = true → k.st ≠ .running))) ∧
  (∀ (s : State) (n st d q : Nat) (j : Job), s.mach.phase = .running → n < 512 → s.mach.nextDone n = some j → j.st = .done st d q →
    let t := s.mach.cqTail n
    ((t + 1) % 64 = s.mach.cqHead n → Gives (.completionRecord n) s (s.mach.setBit (cix n) 4 28 true)) ∧
    ((t + 1) % 64 ≠ s.mach.cqHead n → ∃ m, Gives (.completionRecord n) s m ∧
      Stores [(s.mach.obj (cix n) 3 + 32 * t, s.mach.jobRecord j st d)] s.mach m ∧ m.cqTail n = (t + 1) % 64 ∧ m.objBit (cix n) 4 28 = false ∧
      m.sqHead n = s.mach.sqHead n ∧ (∀ k ∈ m.jobs, k.same j = false) ∧ m.jobs.length = (s.mach.jobs.filter (fun k => !k.same j)).length ∧
      m.cqCount.get 0 n = s.mach.cqCount.get 0 n + 1 ∧ m.cores = s.mach.cores))

/-- RUN: the chosen ready job of a free resident slot runs: markers outside the guest range read 0, and every core that the pricking gives a stream
starts at PC 0 with its registers 0 and its stream to be fetched, every other one has none. Shown for a pricking with no length table (R113, R150,
R399, Table 9-8). RUN with an open update round: the job ends FAULT FEh without starting (Table 9-8). -/
def Obligations.RunDispatch : Prop :=
  (∀ (s : State) (p : Nat) (j : Job) (k : Pricking), s.mach.phase = .running → p < 64 → s.mach.nextRes p = some j → j.kind = 1 → j.st = .queued →
    (s.mach.part p).resident = some k → k.lengths = none → s.mach.objBit (0x6480 + p) 0xF 8 = false →
    ∃ m, Gives (.run p) s m ∧ m.mem = s.mach.mem ∧ m.obj (0x6280 + p) 1 = 0 ∧ m.obj (0x6280 + p) 2 = 0 ∧
      (∀ g i, g ∈ s.mach.clusters p → i < 512 - s.mach.gmk p → m.markers.get 0 (512 * g + i) = 0) ∧
      (∀ a, a / 512 ∉ s.mach.clusters p → m.markers.get 0 a = s.mach.markers.get 0 a) ∧
      (∀ i c, (s.mach.coresOf p)[i]? = some c → (m.core c).host =
        if (k.streams.getD i []).isEmpty then Ctx.init else { Ctx.init with
          run := .running
          fetch := true }) ∧
      (∀ c, c ∉ s.mach.coresOf p → m.core c = s.mach.core c) ∧
      (∀ b ∈ m.jobs, b.same j = true → b.st = .running ∨ ∃ q, b.st = .done 0 0 q)) ∧
  (∀ (s : State) (p : Nat) (j : Job) (k : Pricking), s.mach.phase = .running → s.mach.nextRes p = some j → j.kind = 1 → j.st = .queued →
    (s.mach.part p).resident = some k → s.mach.objBit (0x6480 + p) 0xF 8 = true →
    Gives (.run p) s (s.mach.endJob j 1 0xFE))

/-- LOAD: the report is written for every load; a load accepted installs the pricking in the partition and its job ends DONE; a refused one leaves the
partition without it and its job ends with status 5 and the report's code, which 6400h + p.01 holds with FIRST; an unreadable image enters the
recovery path (R216, R219, R223, R224). -/
def Obligations.Loads : Prop :=
  ∀ (s : State) (p : Nat) (hw : Bool) (j : Job), s.mach.phase = .running → p < 64 → s.mach.nextRes p = some j → j.kind = 2 → j.part = p →
    let m0 := s.mach.setBit (pix p) 2 6 false
    let r := m0.loadResult p false hw j.arg0 j.arg2
    let n := imLen (s.mach.rd j.arg0 128)
    let m1 := m0.touch [(j.arg0, n)]
    ∃ m, Gives (.load p hw) s m ∧ (Memory.wf s.mach → m.rd j.arg1 r.report.length = r.report) ∧
      m.obj (0x6400 + p) 1 = r.code + 256 * (r.first % 65536) ∧
      (∀ k ∈ m.jobs, k.same j = true → ∃ q, k.st = .done (if r.code = 0 then 0 else 5) r.code q) ∧
      (r.code = 0 → (m.part p).resident = some (m1.pricking p false (s.mach.rd j.arg0 n) j.arg0 j.arg2)) ∧
      (r.code ≠ 0 → (m.part p).resident = (s.mach.part p).resident) ∧ (r.code = 0x17 → (0x17, p, 0xFFFF) ∈ m.hwWait) ∧
      (r.code ≠ 0 → r.code ≠ 0x17 → Memory.wf s.mach → SameOutside [(j.arg1, r.report.length)] s.mach m)

/-- R225 whole: after a cast-on no pricking is installed, so that no shape table is held; a formation sets the loader objects to their defaults; an
unload takes the pricking out, clears 6400h + p.04 and leaves the loader's counters as they are. -/
def Obligations.LoaderObjects : Prop :=
  (∀ (s : State) (e : CastEnv) (mv : Nat),
    ((s.mach.phase = .off ∧ vinGood e.tenMv = true) ∨ s.mach.phase = .held →
      ∃ m, Gives (.castOn e) s m ∧ ∀ p, (m.part p).resident = none ∧ (m.part p).guest = none) ∧
    (s.mach.phase = .lowVin → vinGood mv = true →
      ∃ m, Gives (.vinReturn mv e) s m ∧ ∀ p, (m.part p).resident = none ∧ (m.part p).guest = none)) ∧
  (∀ p, (State.reset.mach.part p).resident = none ∧ (State.reset.mach.part p).guest = none) ∧
  (∀ (s : State) (p : Nat), s.mach.phase = .running → p < 64 → s.mach.pstate p = 1 →
    ∃ m, Gives (.formationDone p) s m ∧ (m.part p).resident = none ∧ ∀ sub, sub < 256 → m.obj (0x6400 + p) sub = objReset (okey (0x6400 + p) sub)) ∧
  (∀ (s : State) (p : Nat) (j : Job), s.mach.phase = .running → p < 64 → s.mach.nextRes p = some j → j.kind = 3 →
    ∃ m, Gives (.unload p) s m ∧ (m.part p).resident = none ∧ m.obj (0x6400 + p) 4 = 0 ∧ m.mem = s.mach.mem ∧
      SameObjs [okey (pix p) 2, okey (0x6400 + p) 4, okey (0x6300 + p) 1, okey (0x6300 + p) 2] s.mach m ∧
      ∀ k ∈ m.jobs, k.same j = true → ∃ q, k.st = .done 0 0 q)

/-- The end of a job changes its state, clears the sequences it alone has pinned and marks when its slot became free: nothing else (R235, Table 14-8).
JOB_STOP_COMPLETE: a stopping job whose every stream is complete ends with the status it stops with; a save of it that was under way is given up, and a
dissolve that waited for that save is carried out (R152, R402, R413). MEDIA and INPUT: a ready list job
runs and its commands are taken in list order: a MEDIA job's enter the queues of their engines until one is full (each holds 256), an INPUT job's
all enter the queue of the partition's stream; a list that cannot be read ends its job FAULT 11h (R344, R364). -/
def Obligations.JobEnds : Prop :=
  (∀ (m : Mach) (j : Job) (st d : Nat),
    let m' := m.endRun j st d
    m' = { m with
      mem := m'.mem
      bad := m'.bad
      jobs := m'.jobs
      parts := m'.parts } ∧ (j.pins = [] → m'.mem = m.mem ∧ m'.bad = m.bad) ∧
    (∀ p, m'.part p = if p = j.part then { m.part p with jobT0 := m.rc } else m.part p) ∧
    ∀ k ∈ m'.jobs, k ∈ m.jobs ∧ k.same j = false ∨ k.same j = true ∧ ∃ q, k.st = .done st d q) ∧
  (∀ (s : State) (p st d : Nat) (j : Job), s.mach.phase = .running → s.mach.resJob p = some j → j.st = .stopping st d →
    s.mach.streamsDone p false = true →
    let m := s.mach.endRun j st d
    let given := m.setBit (pix p) 2 6 false
    (m.resJob p ≠ none → Gives (.jobStopComplete p) s m) ∧
    (m.resJob p = none → ¬ (s.mach.pstate p = 2 ∧ s.mach.objBit (pix p) 2 0 = true) → Gives (.jobStopComplete p) s given) ∧
    (m.resJob p = none → s.mach.pstate p = 2 → s.mach.objBit (pix p) 2 0 = true → Gives (.jobStopComplete p) s (given.dissolve p))) ∧
  (∀ (s : State) (p : Nat) (j : Job), s.mach.phase = .running → s.mach.canDispatch p = true →
    (∀ k ∈ s.mach.jobs, k.same j = true → k = j) →
    let list := [(j.arg0, 64 * j.arg2)]
    (s.mach.nextList p 4 = some j → s.mach.badRead list = none → ∃ m, Gives (.media p) s m ∧ m.mem = s.mach.mem ∧
      (∀ k ∈ m.jobs, k.same j = true → k.st = .running ∧ j.fed ≤ k.fed) ∧
      (j.fed < j.arg2 → (∀ e, (s.mach.med e).queue.length < 256) → ∀ k ∈ m.jobs, k.client = j.client ∧ k.seq = j.seq → j.fed < k.fed)) ∧
    (s.mach.nextList p 5 = some j → s.mach.badRead list = none → ∃ m, Gives (.input p) s m ∧ m.mem = s.mach.mem ∧
      (m.part p).inQueue = (s.mach.part p).inQueue ++
        (List.range j.arg2).map (fun i => ⟨j.client, j.seq, s.mach.rd (j.arg0 + 64 * i) 64⟩) ∧
      (∀ k ∈ m.jobs, k.same j = true → k.st = .running ∧ k.fed = j.arg2)) ∧
    (∀ a, s.mach.badRead list = some a →
      (s.mach.nextList p 5 = some j → ∃ m, Gives (.input p) s m ∧ (0x11, j.part, 0xFFFF) ∈ m.hwWait ∧
        ∀ k ∈ m.jobs, k.same j = true → ∃ q, k.st = .done 1 0x11 q) ∧
      (s.mach.nextList p 4 = some j → ∃ m, Gives (.media p) s m ∧ (0x11, j.part, 0xFFFF) ∈ m.hwWait ∧
        ∀ k ∈ m.jobs, k.same j = true → ∃ q, k.st = .done 1 0x11 q)))

/-- GUEST_LOAD installs a guest beside its resident, or reports why not; GUEST_UNLOAD takes it out; GUEST_RUN starts every guest stream with the guest
markers 0 (R150, R395, R409, R410). GUEST_SWITCH: a core whose host has waited the threshold with an idle array goes into its guest context, and is
counted; GUEST_RETURN: it goes back when the host's wait is satisfied and the guest's array operations have drained, and the rc spent there are counted;
GUEST_JOB_END: a guest job whose every stream is complete ends, and its contexts are fresh (R106, R410 to R412). -/
def Obligations.Guests : Prop :=
  (∀ (s : State) (p : Nat) (j : Job), s.mach.phase = .running → p < 64 → s.mach.nextGuest p = some j → j.part = p →
    (∀ hw, j.kind = 6 →
      let r := s.mach.loadResult p true hw j.arg0 j.arg2
      let n := imLen (s.mach.rd j.arg0 128)
      ∃ m, Gives (.guestLoad p hw) s m ∧ (Memory.wf s.mach → m.rd j.arg1 r.report.length = r.report) ∧
        (r.code = 0 → (m.part p).guest = some ((s.mach.touch [(j.arg0, n)]).pricking p true (s.mach.rd j.arg0 n) j.arg0 j.arg2)) ∧
        (r.code ≠ 0 → (m.part p).guest = (s.mach.part p).guest) ∧ (m.part p).resident = (s.mach.part p).resident ∧
        ∀ k ∈ m.jobs, k.same j = true → ∃ q, k.st = .done (if r.code = 0 then 0 else 5) r.code q) ∧
    (j.kind = 7 → ∃ m, Gives (.guestUnload p) s m ∧ (m.part p).guest = none ∧ (m.part p).resident = (s.mach.part p).resident ∧ m.mem = s.mach.mem ∧
      SameObjs [okey (0x6300 + p) 3, okey (0x6300 + p) 4] s.mach m ∧ ∀ k ∈ m.jobs, k.same j = true → ∃ q, k.st = .done 0 0 q) ∧
    (∀ k, j.kind = 8 → (s.mach.part p).guest = some k → ∃ m, Gives (.guestRun p) s m ∧ m.mem = s.mach.mem ∧ m.objs = s.mach.objs ∧
      (∀ b ∈ m.jobs, b.same j = true → b.st = .running) ∧
      (∀ g i, g ∈ s.mach.clusters p → i < 512 → 512 - s.mach.gmk p ≤ i → m.markers.get 0 (512 * g + i) = 0) ∧
      (∀ i c, (s.mach.coresOf p)[i]? = some c → (m.core c).host = (s.mach.core c).host ∧ (m.core c).guest =
        if (k.streams.getD i []).isEmpty then Ctx.init else { Ctx.init with
          run := .running
          fetch := true }))) ∧
  (∀ (s : State) (core p : Nat), s.mach.phase = .running → s.mach.partOf (core / 16) = some p →
    let k := s.mach.core core
    (core < 2048 → s.mach.jobRuns p true = true → s.mach.switching p = false → k.inGuest = false → k.back = false → k.guest.alive = true →
      k.arr.queue = [] → k.arr.busy = false → (∀ b ∈ k.arr.banks, b.held = false) → s.mach.guestDue p core = true →
      ∃ m, Gives (.guestSwitch core) s m ∧ m = { s.mach with
          cores := m.cores
          acts := m.acts
          objs := m.objs } ∧
        OneCore core { k with
          inGuest := true
          tGuest := s.mach.rc } s.mach m ∧ m.obj (pix p) 0x1A = min (s.mach.obj (pix p) 0x1A + 1) (2 ^ 64 - 1) ∧
        SameObjs [okey (pix p) 0x1A] s.mach m) ∧
    (k.inGuest = true → (k.back = true ∨ s.mach.switching p = true) → (∀ o ∈ k.arr.queue, o.guest = false) →
      (∀ d ∈ k.arr.drains, d.op.guest = false) →
      ∃ m, Gives (.guestReturn core) s m ∧ m = { s.mach with
          cores := m.cores
          acts := m.acts
          parts := m.parts } ∧
        OneCore core { k with
          inGuest := false
          back := false } s.mach m ∧
        OnePart p { s.mach.part p with guestRc := (s.mach.part p).guestRc + (s.mach.rc - k.tGuest) } s.mach m) ∧
    (∀ j st d, s.mach.guestJob p = some j → (j.st = .running ∧ st = 0 ∧ d = 0) ∨ j.st = .stopping st d → s.mach.streamsDone p true = true →
      ∃ m, Gives (.guestJobEnd p) s m ∧ m = { s.mach with
          cores := m.cores
          acts := m.acts
          jobs := m.jobs
          parts := m.parts } ∧ OnePart p { s.mach.part p with jobT0 := s.mach.rc } s.mach m ∧
        (∀ b ∈ m.jobs, b.same j = true → ∃ q, b.st = .done st d q) ∧
        (∀ c, c ∈ s.mach.coresOf p → (m.core c).guest = Ctx.init ∧ (m.core c).host = (s.mach.core c).host)))

/-- FORM of a free partition: refused with ERROR and the reason, and nothing else changes; or accepted, and it forms with BUSY set; reserved bits and
a command under way refuse the write itself (R386, R387, Tables 14-1 and 14-13). FORMATION_DONE: every byte of the local memories, cluster memories
and units of the partition reads 0, its formation and lifeline objects keep their values, PCAP is the highest link version, every other object of it
has its default, its markers read 0, and STATE is formed with DONE (R387, R297). DISSOLVE of a formed partition with no save under way: the partition
is free, no pricking, guest or save is left in it, and no job of it is left ready or saved; DISSOLVE of one that is not formed is refused with reason
6 (R389). -/
def Obligations.PartitionCommands : Prop :=
  (∀ (s : State) (p v : Nat), s.mach.phase = .running → p < 64 → s.mach.online = true → fld v 19 16 = 1 →
    (v / 2 ^ 20 ≠ 0 ∨ v % 2 ^ 16 ≠ 0 → Gives (.form p v) s { s.mach with answer := ⟨0x06090030, []⟩ }) ∧
    (v / 2 ^ 20 = 0 → v % 2 ^ 16 = 0 → s.mach.objBit (pix p) 2 0 = true → Gives (.form p v) s { s.mach with answer := ⟨0x08000022, []⟩ }) ∧
    (v / 2 ^ 20 = 0 → v % 2 ^ 16 = 0 → s.mach.objBit (pix p) 2 0 = false → s.mach.testMode = true →
      Gives (.form p v) s { s.mach with answer := ⟨0x08000022, []⟩ }) ∧
    (v / 2 ^ 20 = 0 → v % 2 ^ 16 = 0 → s.mach.objBit (pix p) 2 0 = false → s.mach.testMode = false → ∃ m, Gives (.form p v) s m ∧
      m = { s.mach with
        answer := ⟨0, []⟩
        objs := m.objs } ∧ SameObjs [okey (pix p) 2] s.mach m ∧
      (s.mach.formReason p = 0 → m.pstate p = 1 ∧ m.field (pix p) 2 2 0 = 1) ∧
      (s.mach.formReason p ≠ 0 → m.pstate p = s.mach.pstate p ∧ m.field (pix p) 2 2 0 = 4 ∧ m.field (pix p) 2 23 16 = s.mach.formReason p % 256))) ∧
  (∀ (s : State) (p : Nat), s.mach.phase = .running → p < 64 → s.mach.pstate p = 1 → Memory.wf s.mach →
    ∃ m, Gives (.formationDone p) s m ∧ m.pstate p = 2 ∧ m.field (pix p) 2 2 0 = 2 ∧
      (∀ c ∈ s.mach.coresOf p, ∀ o, o < 524288 → m.rd (localKey c o) 1 = zeros 1) ∧
      (∀ g ∈ s.mach.clusters p, ∀ o, o < 8388608 → m.rd (clusterKey g o) 1 = zeros 1) ∧
      (∀ t ∈ s.mach.stacks p, ∀ o, o < stackUsable → m.rd (stackBase t + o) 1 = zeros 1) ∧
      (∀ g i, g ∈ s.mach.clusters p → i < 512 → m.markers.get 0 (512 * g + i) = 0) ∧
      (∀ sub, 3 ≤ sub → sub ≤ 0xA → m.obj (pix p) sub = s.mach.obj (pix p) sub) ∧
      (∀ sub, 2 ≤ sub → sub ≤ 5 → m.obj (0x7200 + p) sub = s.mach.obj (0x7200 + p) sub) ∧
      m.obj (0x4880 + p) 1 = (if s.mach.objBit 0x4800 1 1 then 2 else 1) ∧
      (∀ b ∈ partBases, ∀ sub, sub < 256 → ¬ (b = 0x7200 ∧ 2 ≤ sub ∧ sub ≤ 5) → ¬ (b = 0x4880 ∧ sub = 1) →
        m.obj (b + p) sub = objReset (okey (b + p) sub)) ∧
      (m.part p).resident = none ∧ (m.part p).guest = none ∧ (∀ q, q ≠ p → m.part q = s.mach.part q)) ∧
  (∀ (s : State) (p : Nat), s.mach.phase = .running → p < 64 → s.mach.online = true → s.mach.objBit (pix p) 2 0 = false →
    (s.mach.pstate p ≠ 2 → ∃ m, Gives (.dissolve p 0x20000) s m ∧ SameObjs [okey (pix p) 2] s.mach m ∧ m.field (pix p) 2 2 0 = 4 ∧
      m.field (pix p) 2 23 16 = 6 ∧ m.pstate p = s.mach.pstate p ∧ m = { s.mach with
        answer := ⟨0, []⟩
        objs := m.objs }) ∧
    (s.mach.pstate p = 2 → s.mach.saving p = false → ∃ m, Gives (.dissolve p 0x20000) s m ∧ m.pstate p = 0 ∧ m.field (pix p) 2 2 0 = 2 ∧
      (m.part p).resident = none ∧ (m.part p).guest = none ∧ (m.part p).saves = [] ∧
      (∀ k ∈ m.jobs, k.part = p → k.st ≠ .queued ∧ k.st ≠ .fenced ∧ k.isSaved = false)) ∧
    (s.mach.pstate p = 2 → s.mach.saving p = true → ∃ m, Gives (.dissolve p 0x20000) s m ∧ m.field (pix p) 2 2 0 = 1 ∧ m.pstate p = 2 ∧
      m.jobs = s.mach.jobs ∧ m.parts = s.mach.parts))

/-- PREEMPT of a partition whose running job can be saved asks for its save; without one it is refused with reason 7, before formation with 6; a save
begins by showing SWITCHING, and every waiting host context takes its place at its MWAIT again; a tile in flight is cut at the K-step named, or
completes where that lies at its end (R104, R147, R403, R404). SAVE_COMPLETE: the job is in the lowest free slot with its contexts, arrays, windows,
buffers and cache engines, every core of the partition has a fresh host context, and the save is counted; RESTORE: a saved job runs again, its
contexts as they were saved with their streams to be fetched and their response timers moved on; it ends FAULT 11h when its image cannot be read, and
FEh with an update round left open (R404 to R406, R307, Table 9-8). -/
def Obligations.Saves : Prop :=
  (∀ (s : State) (p : Nat), s.mach.phase = .running → p < 64 →
    (s.mach.online = true → s.mach.objBit (pix p) 2 0 = false →
      (s.mach.pstate p = 2 → s.mach.victim p ≠ none → s.mach.switching p = false → ∃ m, Gives (.preempt p 0x30000) s m ∧
        OnePart p { s.mach.part p with wantSave := true } s.mach m ∧ m.field (pix p) 2 2 0 = 2 ∧ SameObjs [okey (pix p) 2] s.mach m ∧
        m.cores = s.mach.cores ∧ m.jobs = s.mach.jobs) ∧
      (s.mach.pstate p ≠ 2 → ∃ m, Gives (.preempt p 0x30000) s m ∧ m.field (pix p) 2 23 16 = 6 ∧ m.parts = s.mach.parts) ∧
      (s.mach.pstate p = 2 → s.mach.victim p = none ∨ s.mach.switching p = true → ∃ m, Gives (.preempt p 0x30000) s m ∧
        m.field (pix p) 2 23 16 = 7 ∧ m.parts = s.mach.parts)) ∧
    (∀ cuts j, s.mach.victim p = some j → s.mach.switching p = false →
      (s.mach.part p).wantSave = true ∨ (∃ x ∈ s.mach.jobs, x.part = p ∧ x.kind = 1 ∧ x.st = .queued ∧ j.pri < x.pri) →
      let inside : Prop := ∀ i c o rest, (s.mach.coresOf p)[i]? = some c → (s.mach.core c).arr.queue = o :: rest → (s.mach.core c).arr.busy = true →
        o.guest = false → max (64 * cuts.getD i 0) (o.kdone + 64) < o.k
      inside → ∃ m, Gives (.save p cuts) s m ∧ m.switching p = true ∧
        OnePart p { s.mach.part p with
          wantSave := false
          saveT0 := s.mach.rc } s.mach m ∧ m.mem = s.mach.mem ∧ m.jobs = s.mach.jobs ∧
        (∀ c ∈ s.mach.coresOf p, (m.core c).host = (s.mach.core c).host.unwait s.mach.rc) ∧
        (∀ i c o rest, (s.mach.coresOf p)[i]? = some c → (s.mach.core c).arr.queue = o :: rest → (s.mach.core c).arr.busy = true →
          o.guest = false → (m.core c).arr.busy = false ∧ (m.core c).arr.queue = { o with
            kdone := max (64 * cuts.getD i 0) (o.kdone + 64) } :: rest))) ∧
  (∀ (m : Mach) (core cut : Nat) (o : ArOp) (rest : List ArOp), (m.core core).arr.queue = o :: rest → (m.core core).arr.busy = true →
    o.guest = false → o.k ≤ max (64 * cut) (o.kdone + 64) → m.cutArray core cut = doTileComplete m core) ∧
  (∀ (s : State) (p slot : Nat), s.mach.phase = .running → p < 64 →
    (∀ j k, s.mach.victim p = some j → s.mach.freeSlot p = some slot → (s.mach.part p).resident = some k → s.mach.switching p = true →
      s.mach.saveReady p = true → s.mach.objBit (pix p) 2 0 = false →
      ∃ m o, Gives (.saveComplete p) s m ∧ (∀ b ∈ m.jobs, b.same j = true → b.st = .saved slot o) ∧
        (∀ c ∈ s.mach.coresOf p, (m.core c).host = Ctx.init ∧ (m.core c).arr.queue = [] ∧ (m.core c).arr.beats = (s.mach.core c).arr.beats) ∧
        (m.part p).saves.get? slot = some (s.mach.saveSlot p) ∧ m.obj (pix p) 0x19 = min (s.mach.obj (pix p) 0x19 + 1) (2 ^ 64 - 1)) ∧
    (∀ j o v, s.mach.nextRes p = some j → j.st = .saved slot o → (s.mach.part p).saves.get? slot = some v →
      (s.mach.objBit (0x6480 + p) 0xF 8 = false → s.mach.slotLost p slot = none → ∃ m, Gives (.restore p) s m ∧
        (∀ b ∈ m.jobs, b.same j = true → b.st = .running) ∧ (m.part p).saves.get? slot = none ∧ (m.part p).rbufs = v.rbufs ∧
        (m.part p).closed = v.closed ∧ m.switching p = false ∧
        ((v.cores.map (fun c => c.core)).Nodup → ∀ c ∈ v.cores, c.core / 16 ∈ s.mach.clusters p → (m.core c.core).host = { c.ctx with
          fetch := true
          dma := c.ctx.dma.map (fun e => e.resume (s.mach.rc - v.at')) })) ∧
      (s.mach.objBit (0x6480 + p) 0xF 8 = false → s.mach.slotLost p slot ≠ none → ∃ m, Gives (.restore p) s m ∧
        (0x11, p, 0xFFFF) ∈ m.hwWait ∧ (∀ b ∈ m.jobs, b.same j = true → ∃ q, b.st = .done 1 0x11 q) ∧
        (m.part p).saves.get? slot = none) ∧
      (s.mach.objBit (0x6480 + p) 0xF 8 = true → ∃ m, Gives (.restore p) s m ∧
        (∀ b ∈ m.jobs, b.same j = true → ∃ q, b.st = .done 1 0xFE q) ∧ (m.part p).saves.get? slot = none)))

/-- CLIENT_BINDING_WRITE of an idle client: the binding or ring address is stored, the reserved bits of a binding read 0, and the client's heads, tails
and counters are 0; a client with jobs or with descriptors to fetch refuses it; a ring that is not aligned, or of a bound client not in its
partition's stacks, is out of range (R390, R391, Table 14-11). -/
def Obligations.BindingWrites : Prop :=
  ∀ (s : State) (path : Path) (n sub v : Nat), s.mach.phase = .running → s.mach.serves path = true → n < 512 → 1 ≤ sub → sub ≤ 3 →
    v < 2 ^ 64 →
    let lies : Prop := ∀ p, s.mach.clientPart n = some p → s.mach.formed p = true →
      (sub = 2 → s.mach.holds p v 8192 = true) ∧ (sub = 3 → s.mach.holds p v 2048 = true)
    let good : Prop := (sub = 2 → v % 8192 = 0) ∧ (sub = 3 → v % 2048 = 0) ∧ lies
    let idle : Prop := (∀ j ∈ s.mach.jobs, j.client ≠ n) ∧ s.mach.sqHead n = s.mach.sqTail n
    (¬ good → Gives (.clientBindingWrite path n sub v) s { s.mach with answer := ⟨0x06090030, []⟩ }) ∧
    (good → ¬ idle → Gives (.clientBindingWrite path n sub v) s { s.mach with answer := ⟨0x08000022, []⟩ }) ∧
    (good → idle → ∃ m, Gives (.clientBindingWrite path n sub v) s m ∧
      m.answer.abort = 0 ∧ m.obj (cix n) sub = (if sub = 1 then v % 64 + 32768 * b2n (bit v 15) else v) ∧
      m.field (cix n) 4 27 0 = 0 ∧ (∀ i, 5 ≤ i → i ≤ 8 → m.obj (cix n) i = 0) ∧ m.jobs = s.mach.jobs ∧ m.mem = s.mach.mem)

/-- APPEND_ROUND: an idle engine whose marker has reached its round takes the entries of the list; at the end of the list it signals DMK and waits for
the next round (R244). APPEND and REFILL of an entry whose fields are good: with every page placed its tokens are stored, an append moves CLEN on by
NTOK, a refill clears DROP of its pages, the stamp of the sequence becomes U and the engine goes to the next entry; a page that finds no slot stalls
the engine, shows the stall and raises the event vector; a page table that reads uncorrectable there is fault 11h. A token slot that an outstanding
PTLD still reads holds the engine (R242, R245, R246, R248, R250, R251). ENGINE_STALL_RETRY: after a cache command the engine tries its entry again
from its page; before one it does nothing (R250). RELEASE, PIN and UNPIN of a sequence of the selected cache: refused while a command is under way;
RELEASE leaves its record and page entries 0, and is an error while a job pins it; PIN and UNPIN write its host pin; each ends DONE and lets a stalled
engine try again; a sequence the cache does not have is an error (R253). -/
def Obligations.KeyValueCache : Prop :=
  (∀ (s : State) (p cix : Nat) (c : CacheAt), s.mach.phase = .running → s.mach.cacheAt p cix = some c → s.mach.enginesRun p = true →
    let st := s.mach.cacheSt p cix
    (st.entry = none → st.round + 1 ≤ s.mach.markers.get 0 (s.mach.absMk p (leAt c.r 20 2)) → s.mach.badRead [(c.listKey, 64)] = none →
      s.mach.rdNat c.listKey 2 ≤ 256 →
      Gives (.appendRound p cix) s (s.mach.setCache p cix { st with
        entry := some 0
        count := s.mach.rdNat c.listKey 2 })) ∧
    (st.entry = none → s.mach.markers.get 0 (s.mach.absMk p (leAt c.r 20 2)) ≤ st.round → Gives (.appendRound p cix) s s.mach) ∧
    (∀ n, st.entry = some n → st.count ≤ n →
      Gives (.appendRound p cix) s ((s.mach.setCache p cix { st with
        entry := none
        round := st.round + 1
        rounds := st.rounds + 1 }).signal (c.g / 16) (s.mach.absMk p (leAt c.r 22 2)) 1))) ∧
  (∀ (s : State) (p cix n : Nat) (c : CacheAt), s.mach.phase = .running → s.mach.cacheAt p cix = some c →
    let st := s.mach.cacheSt p cix
    let e := c.entryAt s.mach n
    let row := if e.mode = 1 then Instr.refill p cix else Instr.append p cix
    st.entry = some n → n < st.count → st.stall = none → s.mach.enginesRun p = true → Memory.wf s.mach →
    s.mach.badRead ((c.listKey + 64 + 16 * n, 16) :: (c.recKey e.seq, 32) :: c.entReads s.mach e) = none → c.entryFault s.mach e = none →
    s.mach.badRead (c.staged e) = none →
    (∀ m', c.place p e.seq (e.mode = 1) s.mach (c.pagesOf s.mach e) = (.all, m') →
      let ws := c.tokWrites m' e
      (overlaps (ws.map (fun w => (w.1, w.2.length))) (s.mach.ptReads p) = true → Gives row s s.mach) ∧
      (overlaps (ws.map (fun w => (w.1, w.2.length))) (s.mach.ptReads p) = false → ∃ m, Gives row s m ∧
        (m.cacheSt p cix).entry = some (n + 1) ∧ (m.cacheSt p cix).stall = none ∧
        c.stamp m e.seq = s.mach.obj (0x6440 + p) 7 % 2 ^ 64 ∧
        (e.mode = 0 → c.clen m e.seq = (c.clen (m'.wrAll ws) e.seq + e.ntok) % 2 ^ 32) ∧
        (e.mode = 1 → ∀ g ∈ c.pagesOf s.mach e, entDrop (c.ent m e.seq g) = false) ∧ m.cores = s.mach.cores)) ∧
    (∀ g m', c.place p e.seq (e.mode = 1) s.mach (c.pagesOf s.mach e) = (.stall g, m') → ∃ m, Gives row s m ∧
      (m.cacheSt p cix).stall = some g ∧ (m.cacheSt p cix).entry = some n ∧ bit (c.flags m e.seq) 3 = true ∧
      m.obj (0x6440 + p) 6 = 2 ^ 31 + 65536 * c.cix + e.seq) ∧
    (∀ k m', c.place p e.seq (e.mode = 1) s.mach (c.pagesOf s.mach e) = (.lost k, m') → ∃ m, Gives row s m ∧ (0x11, p, 0xFFFF) ∈ m.hwWait)) ∧
  (∀ (s : State) (p cix n : Nat) (c : CacheAt), s.mach.phase = .running → s.mach.cacheAt p cix = some c →
    let st := s.mach.cacheSt p cix
    st.entry = some n → st.stall.isSome = true → s.mach.enginesRun p = true →
    (st.retry = false → Gives (.engineStallRetry p cix) s s.mach) ∧
    (st.retry = true →
      let e := c.entryAt s.mach n
      (∀ m', c.place p e.seq (e.mode = 1) s.mach (c.pagesOf s.mach e) = (.all, m') →
        overlaps ((c.tokWrites m' e).map (fun w => (w.1, w.2.length))) (s.mach.ptReads p) = false → ∃ m, Gives (.engineStallRetry p cix) s m ∧
          (m.cacheSt p cix).entry = some (n + 1) ∧ (m.cacheSt p cix).stall = none ∧ bit (m.obj (0x6440 + p) 6) 31 = false) ∧
      (∀ g m', c.place p e.seq (e.mode = 1) s.mach (c.pagesOf s.mach e) = (.stall g, m') → ∃ m, Gives (.engineStallRetry p cix) s m ∧
        (m.cacheSt p cix).stall = some g ∧ (m.cacheSt p cix).retry = false))) ∧
  (∀ (s : State) (p q : Nat) (c : CacheAt), s.mach.phase = .running → p < 64 → s.mach.online = true → s.mach.pstate p ≠ 0 → q < 2 ^ 16 →
    Memory.wf s.mach → s.mach.cacheAt p (s.mach.obj (0x6440 + p) 1) = some c →
    let done (row : Instr) (m : Mach) : Prop := Gives row s m ∧ m.answer = ⟨0, []⟩ ∧ m.field (0x6440 + p) 4 2 0 = 2
    let fails (row : Instr) : Prop := ∃ m, Gives row s m ∧ m.answer = ⟨0, []⟩ ∧ m.field (0x6440 + p) 4 2 0 = 4 ∧ m.mem = s.mach.mem ∧
      m.parts = s.mach.parts
    let busy (row : Instr) : Prop := Gives row s { s.mach with answer := ⟨0x08000022, []⟩ }
    (s.mach.objBit (0x6440 + p) 4 0 = true → busy (.release p (0x10000 + q)) ∧ busy (.pin p (0x20000 + q)) ∧ busy (.unpin p (0x30000 + q))) ∧
    (s.mach.objBit (0x6440 + p) 4 0 = false →
      (ccNseq c.r ≤ q → fails (.release p (0x10000 + q)) ∧ fails (.pin p (0x20000 + q)) ∧ fails (.unpin p (0x30000 + q))) ∧
      (q < ccNseq c.r →
        (bit (c.flags s.mach q) 1 = true → fails (.release p (0x10000 + q))) ∧
        (bit (c.flags s.mach q) 1 = false → ∃ m, done (.release p (0x10000 + q)) m ∧ (∀ o, o < 32 → m.rd (c.recKey q + o) 1 = zeros 1) ∧
          (∀ o, o < 4 * ccMaxpg c.r → m.rd (c.entKey q 0 + o) 1 = zeros 1)) ∧
        (∃ m, done (.pin p (0x20000 + q)) m ∧ bit (c.flags m q) 0 = true ∧ SameOutside [(c.recKey q + 16, 2)] s.mach m) ∧
        (∃ m, done (.unpin p (0x30000 + q)) m ∧ bit (c.flags m q) 0 = false ∧ SameOutside [(c.recKey q + 16, 2)] s.mach m))))

/-- CONTRIBUTION_ADD: the contribution whose turn has come at a tile is added to its slot, or with the first one fills it, each element rounded once;
its credit returns, and the last one completes the tile's sum (R259, R260, R261). A grant of credits from a far buffer: its count grows by the
message's, less the credit that a first contribution has taken before it (log entry 229, the model's choice), and what waits for it goes on while the
partition has a job and is not switching (R260). -/
def Obligations.Contributions : Prop :=
  (∀ (s : State) (p id t c k slot : Nat) (area : Option Nat) (b : RBuf) (r : List Byte) (st : Staged), s.mach.phase = .running →
    s.mach.rb p id = some b → s.mach.rbRec p id = some r →
    let cur := b.tiles.get? t
    let old := match cur with | some u => u.added | none => 0
    let round := b.rounds.get 0 t
    let con := rbCon r c
    let j := round * conN con * conSpan con + (t - conFirst con) * conN con + k
    let slow := s.mach.slowTile p r (s.mach.rbEntry p r t)
    (turnsOf r t)[old]? = some (c, k) → (b.staged.getD c []).find? (fun x => x.j = j && x.got ≥ 16384) = some st →
    s.mach.switching p = false → (cur.isSome = true ∨ rbMode r ≠ 2 ∨ round ≤ (s.mach.part p).closed) →
    (match cur with | some u => some (u.slot, u.area) | none => slotFor r b slow) = some (slot, area) →
    let sk := s.mach.rbStageKey p r c st.place
    let dk := s.mach.rbSlotKey p r slot
    s.mach.badRead [(sk, 16384), (s.mach.rbEntryKey p r t, 32)] = none → (cur.isSome = true → s.mach.firstBad dk 16384 = none) →
    let full : Bool := old + 1 = (turnsOf r t).length
    let sum := if cur.isSome then addTiles (tileVals (s.mach.rd dk 16384)) (tileVals (s.mach.rd sk 16384)) else (tileVals (s.mach.rd sk 16384), 0)
    let tile : TileSt := ⟨round, slot, area, old + 1, (match cur with | some u => u.loaded | none => !slow), full⟩
    let b' : RBuf := { b with
      staged := b.staged.set c ((b.staged.getD c []).filter (fun x => x.j ≠ j))
      tiles := b.tiles.put t tile
      rounds := if full then b.rounds.put t (round + 1) else b.rounds }
    let added := (((s.mach.wr dk (packElems 32 sum.1)).setFlags p sum.2).setRb p id b').creditBack p id c con
    Gives (.contributionAdd p id t) s ((if full then added.tileReduced p id t slot r else added).fwdAll p)) ∧
  (∀ (s : State) (l : Nat) (x : Msg), s.mach.phase = .running → s.mach.arrives l x = true → x.op = 6 → x.arg % 256 = 3 →
    s.mach.malformed l x = false →
    let p := x.dpart
    let g : Grant := ⟨x.sfa, x.spart, x.tag, x.genr, x.srcu - 0x1000, fld x.arg 23 8, fld x.arg 31 24, 0⟩
    let old := (s.mach.part p).grants.find? (fun h => h.alike g)
    let got := (s.mach.taken l x).modPart p (fun q => { q with
      grants := match old with
        | some o => q.grants.map (fun h => if h = o then { h with
            n := h.n + (g.n - h.owed)
            owed := h.owed - g.n } else h)
        | none => q.grants ++ [g] })
    Gives (.creditGrant l x) s (if (got.resJob p).isSome && !got.switching p then (got.raddAll p).fwdAll p else got))

/-- STATE_READ_COMPLETE: the state image of a slow-tier tile is in its state area, and no other byte has changed (R262). SWEEP_START: with sweep
timing, once every UPDATE tile has its sum and its state, the updates begin (R264). TILE_UPDATE: the new W, M and V of the 4096 elements replace the
state image, the working copy is stored in its format when the tile has one, a slow tile's image is written back; nothing else is stored. The tile
leaves its slot, and its CRC is kept for the digests (R264, R265, R270 to R272, R276). ROUND_CLOSE: once every UPDATE tile has been updated, 6480h +
p.02 counts the round, every recipe advances with its values, and the update timing starts over, the job running or not; nothing happens before. Shown
without a lifeline due (R266, R269). -/
def Obligations.UpdateRounds : Prop :=
  (∀ (s : State) (p id t a : Nat) (b : RBuf) (r : List Byte) (ts : TileSt), s.mach.phase = .running → s.mach.rb p id = some b →
    s.mach.rbRec p id = some r → b.tiles.get? t = some ts → ts.area = some a → ts.loaded = false →
    let e := s.mach.rbEntry p r t
    let n := imageBytes (s.mach.tileOpt p e)
    let src := s.mach.bufKey p (teSbuf e) (64 * teSoff e)
    s.mach.badRead [(s.mach.rbEntryKey p r t, 32), (src, n)] = none → ∃ m, Gives (.stateReadComplete p id t) s m ∧
      Stores [(s.mach.rbAreaKey p r a, s.mach.rd src n)] s.mach m ∧
      m.rb p id = some { b with tiles := b.tiles.put t { ts with loaded := true } } ∧ m.cores = s.mach.cores ∧
      SameObjs [okey (0x4100 + src / 2 ^ 35) 2] s.mach m) ∧
  (∀ (s : State) (p : Nat) (k : Pricking), s.mach.phase = .running → (s.mach.part p).resident = some k →
    (s.mach.obj (0x6480 + p) 1 = 1 → k.updates ≠ [] → (s.mach.part p).sweep = false → (∀ it ∈ k.updateTiles, s.mach.tileReady p it = true) →
      Gives (.sweepStart p) s (s.mach.setPart p { s.mach.part p with sweep := true })) ∧
    ((∃ it ∈ k.updateTiles, s.mach.tileReady p it = false) → Gives (.sweepStart p) s s.mach)) ∧
  (∀ (s : State) (p id t : Nat) (k : Pricking) (b : RBuf) (r rc : List Byte) (ts : TileSt), s.mach.phase = .running → p < 64 →
    s.mach.rb p id = some b → (s.mach.part p).resident = some k → k.rbuf id = some r → b.tiles.get? t = some ts → rbMode r = 2 →
    ts.full = true → ts.loaded = true → s.mach.switching p = false →
    (s.mach.obj (0x6480 + p) 1 = 0 ∨ ((s.mach.part p).sweep = true ∧ k.updateTiles.find? (fun it => s.mach.tileReady p it) = some (id, t))) →
    let e := s.mach.rbEntry p r t
    k.recipe (teRid e) = some rc →
    let gk := s.mach.rbSlotKey p r ts.slot
    let sb := s.mach.bufKey p (teSbuf e) (64 * teSoff e)
    let sk := match ts.area with | some a => s.mach.rbAreaKey p r a | none => sb
    let n := imageBytes (rcOpt rc)
    s.mach.badRead [(gk, 16384), (sk, n), (s.mach.rbEntryKey p r t, 32)] = none →
    let vals (key : Nat) : List Val := (tileVals (s.mach.rd key 16384)).map val32
    let vs := if n = 49152 then vals (sk + 32768) else (vals gk).map (fun _ => Val.zero false)
    let new := (((vals gk).zip (vals sk)).zip ((vals (sk + 16384)).zip vs)).map
      (fun q => updateElem rc (s.mach.recipeSt p (teRid e)) q.1.1 q.1.2 q.2.1 q.2.2)
    let image := packElems 32 (new.map (fun q => rne32 q.1)) ++ packElems 32 (new.map (fun q => rne32 q.2.1)) ++
      (if n = 49152 then packElems 32 (new.map (fun q => rne32 q.2.2.1)) else [])
    let copy := (tileImage (teWfmt e) (bit (teFlags e) 1)
      (wcRounds id (s.mach.obj (0x6480 + p) 2) t (s.mach.srKeyOf p false) (leAt rc 48 1)) (new.map (fun q => q.1))).1
    let ws := [(sk, image)] ++ (if teWbuf e = 0xFFFF ∨ teWfmt e = 0xFF then [] else [(s.mach.bufKey p (teWbuf e) (64 * teWoff e), copy)]) ++
      (if ts.area.isSome then [(sb, image)] else [])
    ∃ m, Gives (.tileUpdate p id t) s m ∧ Stores ws s.mach m ∧ m.rb p id = some { b with
      tiles := b.tiles.del t
      crcs := b.crcs.put t (crc64 0 (image.take 16384)) } ∧ m.cores = s.mach.cores) ∧
  (∀ (s : State) (p : Nat) (k : Pricking), s.mach.phase = .running → p < 64 → s.mach.switching p = false →
    (s.mach.part p).resident = some k →
    (s.mach.roundFull p = false → Gives (.roundClose p) s s.mach) ∧
    (s.mach.roundFull p = true → (s.mach.digestDue p (s.mach.obj (0x6480 + p) 2 + 1) = true → s.mach.digestLost p k = none) →
      (s.mach.closeRound p).lifeDue p ((s.mach.closeRound p).obj (0x6480 + p) 2) = false →
      (k.recipes.map (fun r => leAt r 5 1)).Nodup →
      ∃ m, Gives (.roundClose p) s m ∧ m.obj (0x6480 + p) 2 = s.mach.obj (0x6480 + p) 2 + 1 ∧ (m.part p).closed = (s.mach.part p).closed + 1 ∧
        (m.part p).sweep = false ∧ m.mem = s.mach.mem ∧ m.cores = s.mach.cores ∧
        (∀ r ∈ k.recipes, m.recipeSt p (leAt r 5 1) = recipeValues r (recipeAdvance r (s.mach.recipeSt p (leAt r 5 1))))))

/-- R280 whole: the format command sets WFMT of COUNT tiles of an UPDATE buffer from FIRST and ends DONE; while a job of the partition runs, or for a
buffer that is not an UPDATE buffer of the installed pricking, FIRST + COUNT > NTILE, or a WFMT that is no legal working-copy format, it ends in
ERROR and changes nothing else. Reserved bits refuse the write. -/
def Obligations.FormatCommands : Prop :=
  ∀ (s : State) (p v : Nat), s.mach.phase = .running → p < 64 → s.mach.online = true →
    let id := fld v 59 48
    let fmt := fld v 47 40
    let first := fld v 27 14
    let n := fld v 13 0 + 1
    let rec? := ((s.mach.part p).resident).bind (fun k => k.rbuf id)
    (fld v 63 60 ≠ 0 ∨ fld v 39 28 ≠ 0 → Gives (.formatCommand p v) s { s.mach with answer := ⟨0x06090030, []⟩ }) ∧
    (fld v 63 60 = 0 → fld v 39 28 = 0 → s.mach.pstate p ≠ 0 →
      (rec? = none → ∃ m, Gives (.formatCommand p v) s m ∧ m.field (0x6480 + p) 0xF 2 0 = 4 ∧
        m.mem = s.mach.mem ∧ m.parts = s.mach.parts ∧ SameObjs [okey (0x6480 + p) 0xF] s.mach m) ∧
      (∀ r, rec? = some r →
        ((s.mach.resJob p).isSome = true ∨ (s.mach.guestJob p).isSome = true ∨ rbMode r ≠ 2 ∨ rbTiles r < first + n ∨
            (fmt ≠ 0xFF ∧ legalDrain false false fmt = false) →
          ∃ m, Gives (.formatCommand p v) s m ∧ m.field (0x6480 + p) 0xF 2 0 = 4 ∧
        m.mem = s.mach.mem ∧ m.parts = s.mach.parts ∧ SameObjs [okey (0x6480 + p) 0xF] s.mach m) ∧
        (s.mach.resJob p = none → s.mach.guestJob p = none → rbMode r = 2 → first + n ≤ rbTiles r →
            (fmt = 0xFF ∨ legalDrain false false fmt = true) → Memory.wf s.mach →
          ∃ m, Gives (.formatCommand p v) s m ∧ m.field (0x6480 + p) 0xF 2 0 = 2 ∧
            (∀ i, i < n → m.rd (s.mach.rbEntryKey p r (first + i) + 3) 1 = leBytes 1 fmt) ∧ m.parts = s.mach.parts ∧
            SameObjs [okey (0x6480 + p) 0xF] s.mach m ∧ SameOutside ((List.range n).map (fun i => (s.mach.rbEntryKey p r (first + i) + 3, 1))) s.mach m)))

/-- LINK_TRAIN: a link that trains ends up with the highest version both ends offer, its class by the latency that its probes have measured, and its far
end's identity, and its messages of higher versions that ask for no answer are lost; or it fails with the reason of the step that failed, 6 without a
common version, 7 beyond 1,200 ns (R292, R294, R295, R308). HELLO: two like HELLOs on both lanes set the far identity, a training whose lanes disagree
fails with reason 5; ECHO_REQ is answered with a turnaround that is a free value; ECHO_RSP: the sixteenth probe of a training sets latency and class,
or fails the link with LATENCY (R292 to R294). -/
def Obligations.LinkTraining : Prop :=
  (∀ (s : State) (l : Nat) (env : LinkEnv), s.mach.phase = .running → s.mach.linkExists l = true → s.mach.linkState l = 1 →
    let ver := commonVer (s.mach.offered l) env.farVersions
    let lat := latencyOf ((s.mach.lrt l).measured env)
    let fails (why : Nat) : Prop := ∃ m, Gives (.linkTrain l env) s m ∧ m.linkState l = 4 ∧ m.field (0x4840 + l) 2 15 12 = why % 16 ∧
      SameObjs [okey (0x4840 + l) 2] s.mach m ∧ (m.lrt l).queue = [] ∧ (m.lrt l).replay = []
    (env.fail ≠ 0 → fails env.fail) ∧
    (env.fail = 0 → ver = 0 → fails 6) ∧
    (env.fail = 0 → ver ≠ 0 → 1200 < lat → fails 7) ∧
    (env.fail = 0 → ver ≠ 0 → lat ≤ 1200 → (∀ x ∈ (s.mach.lrt l).queue, ver < x.mv → 2 < x.op) →
      ∃ m, Gives (.linkTrain l env) s m ∧ m.linkState l = 2 ∧ m.linkVer l = ver ∧
        m.objBit (0x4840 + l) 2 7 = decide (150 < lat) ∧ m.obj (0x4840 + l) 3 = lat ∧
        m.obj (0x4840 + l) 4 = identOf env.farAddr env.farValid env.farLink ∧ m.cores = s.mach.cores ∧ m.mem = s.mach.mem ∧
        (∀ x ∈ (m.lrt l).queue, x.mv ≤ ver))) ∧
  (∀ (s : State) (l : Nat), s.mach.phase = .running → s.mach.linkExists l = true →
    (∀ lane h a a' b b', lane ≤ 1 → (s.mach.linkState l = 1 ∨ s.mach.linkState l = 2) →
      let hs := (s.mach.lrt l).hellos.put lane ((h :: (s.mach.lrt l).hellos.get [] lane).take 2)
      hs.get [] 0 = [a, a'] → hs.get [] 1 = [b, b'] → a = a' → b = b' →
      (a.addr = b.addr → a.link = b.link → a.lane ≠ b.lane → ∃ m, Gives (.hello l lane h) s m ∧
        m.obj (0x4840 + l) 4 = identOf a.addr a.valid a.link ∧ m.linkState l = s.mach.linkState l) ∧
      (¬ (a.addr = b.addr ∧ a.link = b.link ∧ a.lane ≠ b.lane) → s.mach.linkState l = 1 → ∃ m, Gives (.hello l lane h) s m ∧
        m.linkState l = 4 ∧ m.field (0x4840 + l) 2 15 12 = 5)) ∧
    (∀ probe, s.mach.linkState l = 1 ∨ s.mach.linkState l = 2 → Gives (.echoReq l probe) s { s.mach with
      free := s.mach.free + 1
      outbox := s.mach.outbox ++ [.flit l 3 (probe % 65536 + 65536 * (Config.freeNat s.mach.free 0 % 65536))] }) ∧
    (∀ probe turn rtt, s.mach.linkState l = 1 →
      let ps := (s.mach.lrt l).probes ++ [rtt - turn]
      ∃ m, Gives (.echoRsp l probe turn rtt) s m ∧ (m.lrt l).probes = ps ∧
        (ps.length = 16 → latencyOf ps ≤ 1200 → m.linkState l = 1 ∧ m.obj (0x4840 + l) 3 = latencyOf ps ∧
          m.objBit (0x4840 + l) 2 7 = decide (150 < latencyOf ps)) ∧
        (ps.length = 16 → 1200 < latencyOf ps → m.linkState l = 4 ∧ m.field (0x4840 + l) 2 15 12 = 7) ∧
        (ps.length ≠ 16 → m.objs = s.mach.objs)))

/-- DATA_FLIT_RECEIVE on an up link: corrected symbols, or an uncorrectable codeword, are counted; a bad flit does nothing more; a good one acknowledges
and returns credits; a DATA flit with the SEQ expected is accepted and counted, and the messages it completes have arrived; any other DATA flit is
answered with a RETRY that names the SEQ expected (R288, R289, R291, R299). RETRY: the flits from the SEQ it names, when that lies among those not
acknowledged, leave again in order; the eighth for one SEQ retrains the link; RETRY_REPEAT names the SEQ expected again while it is awaited (R289,
R290). -/
def Obligations.LinkRetry : Prop :=
  (∀ (s : State) (l : Nat) (f : List Byte) (fec : Option Nat), s.mach.phase = .running → s.mach.linkExists l = true → s.mach.linkState l = 2 →
    let top (v n : Nat) : Nat := min (v + n) (2 ^ 64 - 1)
    let r := s.mach.lrt l
    (goodFlit f fec.isSome = false → ∃ m, Gives (.dataFlitReceive l f fec) s m ∧ m.linkRt = s.mach.linkRt ∧ m.outbox = s.mach.outbox ∧
      (fec = none → m.obj (0x4840 + l) 9 = top (s.mach.obj (0x4840 + l) 9) 1) ∧
      (∀ n, fec = some n → m.obj (0x4840 + l) 8 = top (s.mach.obj (0x4840 + l) 8) n) ∧
      SameObjs [okey (0x4840 + l) 8, okey (0x4840 + l) 9] s.mach m) ∧
    (goodFlit f fec.isSome = true → leAt f 4 1 % 4 ≠ 1 → r.queue = [] →
      ∃ m, Gives (.dataFlitReceive l f fec) s m ∧ m.lrt l = r.acked f ∧ m.outbox = s.mach.outbox) ∧
    (goodFlit f fec.isSome = true → leAt f 4 1 % 4 = 1 →
      (leAt f 0 2 = r.rx → ∃ m, Gives (.dataFlitReceive l f fec) s m ∧ (m.lrt l).rx = (r.rx + 1) % 4096 ∧
        (m.lrt l).await = false ∧ m.obj (0x4840 + l) 6 = top (s.mach.obj (0x4840 + l) 6) 1 ∧
        (let vc := leAt f 4 1 / 4 % 4
         let old := r.rxPart.get ([], 0) vc
         let t := takeSlots (chunks 16 15 ((f.drop 8).take 240)) old.1 []
         (m.lrt l).arrived = r.arrived ++ flitCredits vc old.2 t.1.isEmpty t.2)) ∧
      (leAt f 0 2 ≠ r.rx → ∃ m, Gives (.dataFlitReceive l f fec) s m ∧ (m.lrt l).rx = r.rx ∧ (m.lrt l).arrived = r.arrived ∧
        (m.lrt l).await = true ∧ m.outbox.getLast? = some (.flit l 4 r.rx) ∧
        m.obj (0x4840 + l) 7 = top (s.mach.obj (0x4840 + l) 7) 1))) ∧
  (∀ (s : State) (l seq : Nat), s.mach.phase = .running → s.mach.linkState l = 2 →
    let r := s.mach.lrt l
    let n := (r.tx + 4096 - seq % 4096) % 4096
    let again := if r.again.1 = seq ∧ r.again.2 ≠ 0 then (seq, r.again.2 + 1) else (seq, 1)
    (n ≤ r.replay.length → again.2 < 8 → ∃ m, Gives (.retry l seq) s m ∧ m.lrt l = { r with again := again } ∧
      m.obj (0x4840 + l) 5 = min (s.mach.obj (0x4840 + l) 5 + n) (2 ^ 64 - 1) ∧
      m.outbox = s.mach.outbox ++ (r.replay.drop (r.replay.length - n)).zipIdx.map (fun c =>
        .data l ((r.tx + 4096 - n + c.2) % 4096) c.1.1 c.1.2) ∧
      SameObjs [okey (0x4840 + l) 5] s.mach m) ∧
    (n ≤ r.replay.length → 8 ≤ again.2 → ∃ m, Gives (.retry l seq) s m ∧ m.linkState l = (if r.worn s.mach.rc = true then 4 else 1) ∧
      (r.worn s.mach.rc = false → (m.lrt l).keep = true ∧ (m.lrt l).replay = r.replay ∧ (m.lrt l).queue = r.queue)) ∧
    (r.replay.length < n → Gives (.retry l seq) s s.mach) ∧
    (r.await = true → ∃ m, Gives (.retryRepeat l) s m ∧ m.outbox = s.mach.outbox ++ [.flit l 4 r.rx] ∧ m.linkRt = s.mach.linkRt ∧
      m.obj (0x4840 + l) 7 = min (s.mach.obj (0x4840 + l) 7 + 1) (2 ^ 64 - 1) ∧ SameObjs [okey (0x4840 + l) 7] s.mach m) ∧
    (r.await = false → Gives (.retryRepeat l) s s.mach))

/-- LINK_RETRAIN: an up link trains again with its replay state, and the fourth retrain within 60 s fails it with 8; RETRAIN_TIMEOUT: a retrain of 1 s
fails it with 8 (R290). The far-end loop-back: a request is accepted only by an up link with FARLOOP_OK, a leave request ends the loop-back in a
training; a refusal, or no answer for 1 ms, shows FAR_REFUSED and trains the link; the far end leaves after 60 s (R311, R312). LINK_LOSS: a failed
link is reported once, in 2007h and as a health event; no RDMA waits for an answer over it, no lifeline streams over it, and no memory changes but the
destinations of the writes that it brought and cut (R136, R290, R307, Table 17-6). -/
def Obligations.LinkFailures : Prop :=
  (∀ (s : State) (l : Nat), s.mach.phase = .running →
    let r := s.mach.lrt l
    let failed (c : Instr) : Prop := ∃ m, Gives c s m ∧ m.linkState l = 4 ∧ m.field (0x4840 + l) 2 15 12 = 8 ∧ (m.lrt l).queue = []
    (s.mach.linkExists l = true → s.mach.linkState l = 2 → r.worn s.mach.rc = false → ∃ m, Gives (.linkRetrain l) s m ∧ m.linkState l = 1 ∧
      (m.lrt l).keep = true ∧ (m.lrt l).replay = r.replay ∧ (m.lrt l).queue = r.queue ∧ (m.lrt l).tx = r.tx ∧ (m.lrt l).rx = r.rx ∧
      m.obj (0x4840 + l) 0xA = min (s.mach.obj (0x4840 + l) 0xA + 1) (2 ^ 32 - 1)) ∧
    (s.mach.linkExists l = true → s.mach.linkState l = 2 → r.worn s.mach.rc = true → failed (.linkRetrain l)) ∧
    (s.mach.linkState l = 1 → r.keep = true → 25000000 ≤ s.mach.rc - r.t0 → failed (.retrainTimeout l)) ∧
    (s.mach.rc - r.t0 < 25000000 → Gives (.retrainTimeout l) s s.mach)) ∧
  (∀ (s : State) (l : Nat), s.mach.phase = .running →
    let r := s.mach.lrt l
    (s.mach.linkExists l = true →
      (s.mach.linkState l = 2 → s.mach.objBit (0x4840 + l) 1 2 = true → ∃ m, Gives (.loopReq l true) s m ∧ m.linkState l = 3 ∧
        (m.lrt l).farLoop = true ∧ m.outbox = s.mach.outbox ++ [.flit l 6 0]) ∧
      (s.mach.linkState l ≠ 2 ∨ s.mach.objBit (0x4840 + l) 1 2 = false →
        Gives (.loopReq l true) s { s.mach with outbox := s.mach.outbox ++ [.flit l 6 1] }) ∧
      (s.mach.linkState l = 3 → r.farLoop = true → ∃ m, Gives (.loopReq l false) s m ∧ m.linkState l = 1 ∧
        m.outbox = s.mach.outbox ++ [.flit l 6 0])) ∧
    (s.mach.linkState l = 3 → r.loopAsk = true →
      (∃ m, Gives (.loopAck l true) s m ∧ (m.lrt l).loopAsk = false ∧ m.linkState l = 3 ∧ m.objs = s.mach.objs) ∧
      (∃ m, Gives (.loopAck l false) s m ∧ m.linkState l = 1 ∧ m.field (0x4840 + l) 2 15 12 = 9 ∧ m.field (0x4840 + l) 1 10 8 = 0) ∧
      (25000 ≤ s.mach.rc - r.t0 → r.farLoop = false → ∃ m, Gives (.farLoopTimeout l) s m ∧ m.linkState l = 1 ∧ m.field (0x4840 + l) 2 15 12 = 9)) ∧
    (s.mach.linkState l = 3 → r.farLoop = true → 1500000000 ≤ s.mach.rc - r.t0 → ∃ m, Gives (.farLoopTimeout l) s m ∧ m.linkState l = 1)) ∧
  (∀ (s : State) (l : Nat), s.mach.phase = .running → l < 64 → s.mach.linkState l = 4 →
    ((s.mach.lrt l).reported = true → Gives (.linkLoss l) s s.mach) ∧
    ((s.mach.lrt l).reported = false → ∃ m, Gives (.linkLoss l) s m ∧ (m.lrt l).reported = true ∧ m.objBit 0x2007 0 8 = true ∧
      m.obj 0x200A 0 = min (s.mach.obj 0x200A 0 + 1) (2 ^ 32 - 1) ∧
      ((∀ p, ∀ f ∈ (s.mach.part p).flows, f.link ≠ l) → m.mem = s.mach.mem) ∧
      (Memory.wf s.mach → ∀ a, (∀ p, ∀ f ∈ (s.mach.part p).flows, f.link = l → ¬ (f.dst ≤ a ∧ a < f.dst + f.len)) →
        m.rd a 1 = s.mach.rd a 1) ∧
      (∀ c, ∀ e ∈ (m.core c).host.dma, ∀ pe mid t, e.plan ≠ .remote pe mid l t) ∧
      (∀ p, p < 64 → (m.life p).stream ≠ none → (m.life p).hop ≠ l)))

/-- A write to 4840h + l.01: out of range, or refused for a link that is bound off or a loop-back of a bundled link while a job runs; else the register
keeps it, and the link trains when it is enabled or leaves a loop-back, goes down when it is disabled, enters the loop-back that is set with EN, or is
retrained (counted; with its replay state where it is up; once only where it is retraining) (R290, R292, R311, Table 10-15). A write to 4800h.02:
refused while a job is dispatched; else the address is kept with VALID, and every up link says HELLO again (R293). -/
def Obligations.LinkCommandsAndAddress : Prop :=
  (∀ (s : State) (path : Path) (l v : Nat) (seen : LoopSeen), s.mach.phase = .running → s.mach.serves path = true → l < 64 →
    let old := s.mach.obj (0x4840 + l) 1
    let loop := fld v 10 8
    let r := s.mach.lrt l
    let kind := s.mach.linkWriteKind l v
    let row := if kind = 2 then Instr.linkLoopBack path l v seen else if kind = 1 then .linkRetrainCommand path l v else .linkEnable path l v
    let good : Prop := loop ≤ 4 ∧ fld v 5 4 ≠ 0 ∧ fld v 5 4 ≠ 3
    let free : Prop := s.mach.linkExists l = true ∧ ¬ (loop ≠ 0 ∧ loop ≠ fld old 10 8 ∧ s.mach.inBundle l = true ∧ s.mach.anyJob = true)
    (¬ good → ∃ m, Gives row s m ∧ m.answer = ⟨0x06090030, []⟩ ∧ m.linkRt = s.mach.linkRt ∧ m.obj (0x4840 + l) 1 = old) ∧
    (good → ¬ free → ∃ m, Gives row s m ∧ m.answer = ⟨0x08000022, []⟩ ∧ m.linkRt = s.mach.linkRt ∧ m.obj (0x4840 + l) 1 = old) ∧
    (good → free → ∃ m, Gives row s m ∧ m.answer = ⟨0, []⟩ ∧ m.obj (0x4840 + l) 1 = linkCtlKept v ∧
      (bit v 0 = false → bit old 0 = true → m.linkState l = 0 ∧ (m.lrt l).queue = []) ∧
      (bit v 0 = true → loop ≠ 0 → loop ≠ fld old 10 8 ∨ bit old 0 = false → m.linkState l = 3) ∧
      (bit v 0 = true → loop ≠ 0 → loop = fld old 10 8 → bit old 0 = true → m.linkState l = s.mach.linkState l) ∧
      (bit v 0 = true → loop = 0 → fld old 10 8 ≠ 0 → m.linkState l = 1) ∧
      (bit v 0 = true → loop = 0 → fld old 10 8 = 0 → bit v 1 = true →
        (s.mach.linkState l = 2 → m.linkState l = (if r.worn s.mach.rc = true then 4 else 1) ∧
          (r.worn s.mach.rc = false → (m.lrt l).keep = true ∧ (m.lrt l).replay = r.replay ∧ (m.lrt l).queue = r.queue ∧ (m.lrt l).tx = r.tx)) ∧
        (s.mach.linkState l = 1 → r.keep = true → m.linkState l = 1 ∧ m.linkRt = s.mach.linkRt) ∧
        (s.mach.linkState l ≠ 2 → ¬ (s.mach.linkState l = 1 ∧ r.keep = true) → m.linkState l = 1) ∧
        (¬ (s.mach.linkState l = 1 ∧ r.keep = true) →
          m.obj (0x4840 + l) 0xA = min (s.mach.obj (0x4840 + l) 0xA + 1) (2 ^ 32 - 1))) ∧
      (bit v 0 = true → loop = 0 → fld old 10 8 = 0 → bit v 1 = false → bit old 0 = false → m.linkState l = 1) ∧
      (bit v 0 = true → loop = 0 → fld old 10 8 = 0 → bit v 1 = false → bit old 0 = true → m.linkState l = s.mach.linkState l))) ∧
  (∀ (s : State) (path : Path) (v : Nat), s.mach.phase = .running → s.mach.serves path = true →
    (s.mach.anyJob = true → Gives (.fabricAddressWrite path v) s { s.mach with answer := ⟨0x08000022, []⟩ }) ∧
    (s.mach.anyJob = false → ∃ m, Gives (.fabricAddressWrite path v) s m ∧ m.answer = ⟨0, []⟩ ∧
      m.obj 0x4800 2 = v % 4096 + 2 ^ 15 * fld v 15 15 ∧ SameObjs [okey 0x4800 2] s.mach m ∧
      m.outbox = s.mach.outbox ++ ((List.range 64).filter (fun l => s.mach.linkState l = 2)).map (fun l => .flit l 1 (v % 65536))))

/-- A message that is not the next of its channel, or not for this module, has no effect; a malformed one is discarded and counted, and a malformed
request is answered 0Ah (R299, R301, R304). PING is answered with a reply of its kind; a reply asks for nothing more; a message for another module
goes on by its route and is counted, or is dropped, counted, and a request's first packet answered with the code that stopped it (R299, R303, R307). -/
def Obligations.MessagesAndForwards : Prop :=
  (∀ (s : State) (l : Nat) (x : Msg) (c : Instr), s.mach.phase = .running → msgRow l x = some c →
    (s.mach.arrives l x = false → Gives c s s.mach) ∧
    (s.mach.arrives l x = true → s.mach.malformed l x = true →
      let m := (s.mach.taken l x).addObj 0x4800 0xA 1
      Gives c s (if x.op ≤ 2 then m.respond x 0xA else m))) ∧
  (∀ (s : State) (l : Nat) (x : Msg), s.mach.phase = .running →
    let t := s.mach.taken l x
    (s.mach.malformed l x = false → s.mach.arrives l x = true → x.op = 6 → x.arg % 256 = 1 →
      Gives (.ping l x) s (({ t with mid := t.mid + 1 } : Mach).sendOrLose
        { msgBlank 6 x.mv x.sfa s.mach.ownAddr x.spart x.dpart x.tag x.genr 0x3000 (t.mid % 2 ^ 32) with arg := 2 + 256 * (x.arg / 256) })) ∧
    (s.mach.malformed l x = false → s.mach.arrives l x = true → x.op = 6 → x.arg % 256 = 2 → Gives (.pingReply l x) s t) ∧
    (l < 64 → s.mach.nextIn l x = true → x.dfa ≠ s.mach.ownAddr →
      (s.mach.malformed l x = true → Gives (.messageForward l x) s
        (if x.op ≤ 2 then (t.addObj 0x4800 0xA 1).respond x 0xA else t.addObj 0x4800 0xA 1)) ∧
      (s.mach.malformed l x = false → ∀ h m, t.sendMsg x = (0, h, m) → Gives (.messageForward l x) s (m.addObj 0x4800 7 1)) ∧
      (s.mach.malformed l x = false → ∀ code h m, code ≠ 0 → t.sendMsg x = (code, h, m) →
        Gives (.messageForward l x) s
          (if x.op ≤ 2 ∧ x.pidx = 0 then (t.addObj 0x4800 8 1).respond x code else t.addObj 0x4800 8 1))) ∧
    (64 ≤ l ∨ s.mach.nextIn l x = false ∨ x.dfa = s.mach.ownAddr → Gives (.messageForward l x) s s.mach))

/-- WRITE, RADD32 and RADD16: an RDMA is refused once, by its packet 0, with 9 for a version the operation needs, with 8 where no job runs, with 7
(counted) by a job that does not take the sender; a packet is held for a pre-empted job while its 256 KiB have room; else it is the running job's,
unless its buffer has no credit (R260, R300, R306, Tables 10-11 and 10-12). An accepted packet of a remote write: its bytes are in the buffer at FOFF
and its packet's place, and nowhere else; a write that begins makes the destination of a write of the same unit that was cut undefined (R136, R300,
R306). -/
def Obligations.RequestsLand : Prop :=
  (∀ (s : State) (l : Nat) (x : Msg) (c : Instr), s.mach.phase = .running → msgRow l x = some c → x.op ≤ 2 → s.mach.arrives l x = true →
    s.mach.malformed l x = false →
    let p := x.dpart
    let t := s.mach.taken l x
    let busy : Prop := s.mach.formed p = true ∧ ∃ j ∈ s.mach.jobs, j.part = p ∧ j.kind = 1 ∧ (j.st = .running ∨ ∃ a b, j.st = .saved a b)
    (x.op = 2 → x.mv < 2 → Gives c s (if x.pidx = 0 then t.respond x 9 else t)) ∧
    (¬ (x.op = 2 ∧ x.mv < 2) → ¬ busy → Gives c s (if x.pidx = 0 then t.respond x 8 else t)) ∧
    (¬ (x.op = 2 ∧ x.mv < 2) → busy →
      (s.mach.taker x = .none → Gives c s (if x.pidx = 0 then (t.addObj (pix p) 0x1C 1).respond x 7 else t)) ∧
      (s.mach.taker x = .hold → s.mach.heldBytes p + x.data.length ≤ 262144 →
        Gives c s (t.modPart p (fun q => { q with heldMsgs := q.heldMsgs ++ [x] }))) ∧
      (s.mach.taker x = .hold → 262144 < s.mach.heldBytes p + x.data.length → Gives c s s.mach) ∧
      (∀ k, s.mach.taker x = .run → (s.mach.part p).resident = some k →
        (s.mach.noCredit p k x = true → Gives c s s.mach) ∧
        (s.mach.noCredit p k x = false → Gives c s (t.applyPacket l x))))) ∧
  (∀ (m : Mach) (l p : Nat) (x : Msg) (k : Pricking) (b : BufAt), x.dpart = p → x.op = 0 → (m.part p).resident = some k →
    m.buf p false k x.fbuf = some b → (x.pidx = 0 → m.farCode p k x = 0) →
    (x.pidx = 0 ∨ ∃ f ∈ (m.part p).flows, f.of x = true ∧ f.next = x.pidx) →
    Stores [(b.key + x.foff * 64 + x.pidx * packetBytes x.mv, x.data)] (if x.pidx = 0 then m.cutOlder p x else m) (m.applyPacket l x)) ∧
  (∀ (m : Mach) (p : Nat) (f : Flow), Memory.wf m → SameOutside [(f.dst, f.len)] m (m.cutFlow p f))

/-- SIGNAL: the running job's marker gets the count from the link's aggregator; a pre-empted job's signals are held, 256 of them; one that no job takes
is counted (R145, R146; a signal to a marker that the partition has not is dropped, which is the model's, log entry 230). RESP: the RDMA it answers is
outstanding no longer, and faults 13h with its peer and the code when that is not 0; a saved job's is kept for it; a response that answers nothing is
counted. RESPONSE_TIMEOUT: an RDMA without an answer for 4800h.06 ms faults 13h with FCh (R307). -/
def Obligations.SignalsAndResponses : Prop :=
  (∀ (s : State) (l : Nat) (x : Msg), s.mach.phase = .running → x.op = 3 → s.mach.arrives l x = true → s.mach.malformed l x = false →
    let p := x.dpart
    let t := s.mach.taken l x
    (s.mach.taker x = .none → Gives (.signal l x) s (t.addObj (pix p) 0x1C 1)) ∧
    (s.mach.taker x = .hold → (s.mach.part p).held.length < 256 →
      Gives (.signal l x) s (t.modPart p (fun q => { q with held := q.held ++ [x] }))) ∧
    (s.mach.taker x = .hold → 256 ≤ (s.mach.part p).held.length → Gives (.signal l x) s s.mach) ∧
    (s.mach.taker x = .run → x.fmk < 512 * (s.mach.clusters p).length →
      let k := (s.mach.clusters p).getD (x.fmk / 512) 0 * 512 + x.fmk % 512
      Gives (.signal l x) s { t with
        ports := s.mach.ports.put (k / 512) (sendTo (s.mach.ports.get [] (k / 512)) (.signal (aggOf l) k x.arg)) }) ∧
    (s.mach.taker x = .run → 512 * (s.mach.clusters p).length ≤ x.fmk → Gives (.signal l x) s t)) ∧
  (∀ (s : State) (core p peer mid hop t0 : Nat) (e : DmaEntry), s.mach.phase = .running → s.mach.partOf (core / 16) = some p →
    e.plan = .remote peer mid hop t0 →
    (∀ l x, x.op = 4 → s.mach.arrives l x = true → s.mach.malformed l x = false → s.mach.remoteCore x.mid = some (core, e) → x.mid = mid →
      (∃ m, Gives (.resp l x) s m ∧ (∀ d ∈ (m.core core).host.dma, isRemote mid d = false)) ∧
      (x.arg % 256 ≠ 0 → Faults (.resp l x) s p core false 0x13 0x2A e.pc (peer + 256 * (x.arg % 256)))) ∧
    (∀ l x, x.op = 4 → s.mach.arrives l x = true → s.mach.malformed l x = false → s.mach.remoteCore x.mid = none →
      s.mach.remoteTile x.mid = none →
      (s.mach.savedRemote x.mid = none → Gives (.resp l x) s ((s.mach.taken l x).addObj 0x4800 9 1)) ∧
      (∀ q, s.mach.savedRemote x.mid = some q →
        Gives (.resp l x) s ((s.mach.taken l x).modPart q (fun y => { y with heldMsgs := y.heldMsgs ++ [x] })))) ∧
    (∀ n, (s.mach.core core).host.dma[n]? = some e → s.mach.jobRuns p false = true → s.mach.switching p = false →
      (∀ w ∈ (s.mach.part p).radds, w.mid ≠ mid) → 25000 * s.mach.obj 0x4800 6 ≤ s.mach.rc - t0 →
      Faults (.responseTimeout core n) s p core false 0x13 0x2A e.pc (peer + 256 * 0xFC) ∧
      ∃ m, Gives (.responseTimeout core n) s m ∧ m.obj (0x4880 + p) 3 = min (s.mach.obj (0x4880 + p) 3 + 1) (2 ^ 64 - 1)))

/-- LIFELINE_DATA of a partner in a format the partition takes: its bytes are stored at their offset of the partner slot that does not hold the newest
complete lifeline; the STATE byte of what begins a lifeline is 0. RESTORE_DATA goes into the slot that a waiting frog fills (R492 to R494, R501).
COMMIT of a stream: the slot that fills is complete when its lifeline passes its checks, and 7200h + p.0A shows the newest round; else memory is as
it was; the partner gets the status. ACKNOWLEDGE: the stream ends; status 00h advances the mirrored round, any other shows the mirror failed (R493,
R494, Table 17-3). RESTORE_REQUEST: not from the partner it is answered 5, without the round asked for 3, in another format 4; else the lifeline
goes back as restore data and a commit (R501). LIFELINE_STREAM: the lifeline last taken goes to the partner and MIRRORING shows, or the mirror fails
when it cannot be read or sent; LIFELINE_INTERVAL_EXPIRY: with ALIGN 0 a lifeline is due, else LATE is set and the event vector raised once (R489,
R494, Table 17-6). -/
def Obligations.Lifelines : Prop :=
  (∀ (s : State) (l : Nat) (x : Msg), s.mach.phase = .running → x.op = 5 → s.mach.arrives l x = true → s.mach.malformed l x = false →
    s.mach.fromPartner x = true →
    let p := x.dpart
    let off := 64 * (x.foff + 2 ^ 24 * x.fmk)
    let bs := if off = 0 then putAt x.data 6 [0] else x.data
    (∀ slot, x.fbuf = 0 → s.mach.takesFmt p (x.arg % 256) = true →
      (off = 0 → slot = s.mach.otherOf p 2 3) → (off ≠ 0 → (s.mach.life p).filling = some slot) → off + x.data.length ≤ s.mach.lifeCap p →
      s.mach.badWrite [(s.mach.lifeKey p slot off, bs)] = none →
      ∃ m, Gives (.lifelineData l x) s m ∧ Stores [(s.mach.lifeKey p slot off, bs)] s.mach m ∧ (m.life p).filling = some slot) ∧
    (∀ f, x.fbuf = 1 → (s.mach.life p).frog = some f → off + x.data.length ≤ s.mach.lifeCap p →
      s.mach.badWrite [(s.mach.lifeKey p f.slot off, bs)] = none →
      ∃ m, Gives (.restoreData l x) s m ∧ Stores [(s.mach.lifeKey p f.slot off, bs)] s.mach m ∧
        (m.life p).frog = some { f with
          got := f.got + x.data.length
          t0 := s.mach.rc })) ∧
  (∀ (s : State) (l : Nat) (x : Msg), s.mach.phase = .running → x.op = 5 → s.mach.arrives l x = true → s.mach.malformed l x = false →
    s.mach.fromPartner x = true →
    let p := x.dpart
    (s.mach.life p).frog = none →
    (∀ slot, x.fbuf = 0xFFE → s.mach.takesFmt p (x.arg % 256) = true → (s.mach.life p).filling = some slot →
      let st := s.mach.commitStatus p slot (leAt x.data 0 8)
      ∃ m, Gives (.commit l x) s m ∧ (m.life p).filling = none ∧ (st ≠ 0 → m.mem = s.mach.mem) ∧
        (st = 0 → Stores [(s.mach.lifeKey p slot 0 + 6, [1])] s.mach m)) ∧
    (x.fbuf = 0xFFF → (s.mach.life p).stream.isSome = true →
      ∃ m, Gives (.acknowledge l x) s m ∧ (m.life p).stream = none ∧ m.objBit (0x7200 + p) 7 2 = false ∧ m.mem = s.mach.mem ∧
        m.field (0x7200 + p) 0x10 31 24 = leAt x.data 8 1 ∧
        (leAt x.data 8 1 = 0 → m.obj (0x7200 + p) 9 = leAt x.data 0 8 ∧ m.objBit (0x7200 + p) 7 4 = false) ∧
        (leAt x.data 8 1 ≠ 0 → m.objBit (0x7200 + p) 7 4 = true))) ∧
  (∀ (s : State) (l : Nat) (x : Msg), s.mach.phase = .running → x.op = 5 → x.fbuf = 0xFFC → s.mach.arrives l x = true →
    s.mach.malformed l x = false →
    let p := x.dpart
    let t := s.mach.taken l x
    let round := leAt x.data 0 8
    let slot := if round = 0 then s.mach.newestOf p 2 3 else [2, 3].find? (fun i => s.mach.lifeRound p i = some round)
    let ack (st : Nat) : Mach := (t.lifeSend p x.sfa x.spart 0xFFF (x.arg % 256) round st).2
    (s.mach.fromPartner x = false → Gives (.restoreRequest l x) s (ack 5)) ∧
    (s.mach.fromPartner x = true → slot = none → Gives (.restoreRequest l x) s (ack 3)) ∧
    (∀ i, s.mach.fromPartner x = true → slot = some i →
      let h := s.mach.rd (s.mach.lifeKey p i 0) 4096
      let bad := s.mach.lifeBad p i (lhSize h)
      (bad = false → lhFmt h ≠ x.arg % 256 → lhFmt h + 1 ≠ x.arg % 256 → Gives (.restoreRequest l x) s (ack 4)) ∧
      (bad = false → (lhFmt h = x.arg % 256 ∨ lhFmt h + 1 = x.arg % 256) →
        Gives (.restoreRequest l x) s (t.lifeStreamOut p i x.sfa x.spart 1).2.2) ∧
      (bad = true → Gives (.restoreRequest l x) s
        ((t.lostAny 4 (t.lifeLost p i (lhSize h))).lifeSend p x.sfa x.spart 0xFFF (x.arg % 256) round 3).2))) ∧
  (∀ (s : State) (p : Nat), s.mach.phase = .running → s.mach.formed p = true →
    (∀ fa fp slot, s.mach.partner p = some (fa, fp) → (s.mach.life p).ready = some slot → (s.mach.life p).stream = none →
      (s.mach.life p).frog = none →
      let h := s.mach.rd (s.mach.lifeKey p slot 0) 4096
      (s.mach.lifeBad p slot (lhSize h) = false → ∀ k m', s.mach.lifeStreamOut p slot fa fp 0 = (0, k, m') →
        ∃ m, Gives (.lifelineStream p) s m ∧ (m.life p).stream = some slot ∧ (m.life p).ready = none ∧ (m.life p).hop = k ∧
          m.objBit (0x7200 + p) 7 2 = true ∧ m.mem = m'.mem) ∧
      (s.mach.lifeBad p slot (lhSize h) = false → ∀ code k m', code ≠ 0 → s.mach.lifeStreamOut p slot fa fp 0 = (code, k, m') →
        ∃ m, Gives (.lifelineStream p) s m ∧ (m.life p).stream = none ∧ m.objBit (0x7200 + p) 7 4 = true ∧ m.mem = m'.mem) ∧
      (s.mach.lifeBad p slot (lhSize h) = true → ∃ m, Gives (.lifelineStream p) s m ∧ (m.life p).stream = none ∧
        m.objBit (0x7200 + p) 7 4 = true ∧ m.mem = s.mach.mem)) ∧
    (s.mach.rc < (s.mach.life p).t0 + 25000000 * s.mach.obj (0x7200 + p) 1 ∨ s.mach.online = false →
      Gives (.lifelineIntervalExpiry p) s s.mach) ∧
    ((s.mach.life p).t0 + 25000000 * s.mach.obj (0x7200 + p) 1 ≤ s.mach.rc → s.mach.online = true →
      (s.mach.obj (0x7200 + p) 2 = 0 → Gives (.lifelineIntervalExpiry p) s (s.mach.setLife p (fun q => { q with due := true }))) ∧
      (s.mach.obj (0x7200 + p) 2 ≠ 0 → s.mach.objBit (0x7200 + p) 7 5 = false →
        Gives (.lifelineIntervalExpiry p) s ((s.mach.setBit (0x7200 + p) 7 5 true).raise (576 + p))) ∧
      (s.mach.obj (0x7200 + p) 2 ≠ 0 → s.mach.objBit (0x7200 + p) 7 5 = true → Gives (.lifelineIntervalExpiry p) s s.mach)))

/-- FROG: a write with reserved bits or SRC 11b is out of range, one of a free partition or while BUSY refused; without a pricking, or in a recovery
state that does not allow it, it ends in ERROR; else it is carried out. AUTO_FROG carries one out for a READY partition with AUTO 1 whose pricking has
no peer, and does nothing for any other (R499, R500). What a frog restores from a lifeline: the round counter, the seed, CTR and INPOS of its header,
no open round, an empty census whose clears are counted and which shows no saturation, and the partition is out of recovery with DONE and the event
vector raised (R488, R500). -/
def Obligations.FrogRecovery : Prop :=
  (∀ (s : State) (p v : Nat), s.mach.phase = .running → p < 64 → s.mach.online = true →
    let good : Prop := v / 2 ^ 50 = 0 ∧ fld v 49 48 ≠ 3
    let busy : Bool := s.mach.objBit (0x7200 + p) 0x10 0
    let st := s.mach.recState p
    let r : Mach := { s.mach with answer := ⟨0, []⟩ }
    (¬ good → Gives (.frog p v) s { s.mach with answer := ⟨0x06090030, []⟩ }) ∧
    (good → s.mach.pstate p = 0 ∨ busy = true → Gives (.frog p v) s { s.mach with answer := ⟨0x08000022, []⟩ }) ∧
    (good → s.mach.pstate p ≠ 0 → busy = false →
      ((s.mach.part p).resident = none ∨ s.mach.formed p = false ∨ st = 1 ∨ st = 2 ∨ st = 4 →
        Gives (.frog p v) s (r.setBit (0x7200 + p) 0x10 2 true)) ∧
      (∀ k, (s.mach.part p).resident = some k → s.mach.formed p = true → st ≠ 1 → st ≠ 2 → st ≠ 4 →
        Gives (.frog p v) s (r.frogGo p (v % 2 ^ 48) (fld v 49 48) k))) ∧
    (∀ k, (s.mach.part p).resident = some k →
      (s.mach.formed p = true → st = 3 → s.mach.obj (0x7200 + p) 0x12 = 1 → k.recsOf 4 = [] → busy = false →
        Gives (.autoFrog p) s (s.mach.frogGo p 0 0 k)) ∧
      (st ≠ 3 ∨ s.mach.obj (0x7200 + p) 0x12 ≠ 1 ∨ k.recsOf 4 ≠ [] → Gives (.autoFrog p) s s.mach))) ∧
  (∀ (m : Mach) (p slot used : Nat) (k : Pricking), p < 64 → used < 4 →
    let h := m.rd (m.lifeKey p slot 0) 4096
    let m' := m.frogFinish p slot used k
    m'.obj (0x6480 + p) 2 = lhRound h ∧ m'.obj (0x6080 + p) 1 = leAt h 16 8 ∧ m'.obj (0x7200 + p) 0xD = lhCtr h ∧
    m'.obj (0x7200 + p) 0xE = leAt h 32 8 ∧ m'.objBit (0x6480 + p) 0xF 8 = false ∧ m'.field (0x7200 + p) 0x10 2 0 = 2 ∧
    m'.objBit (0x6080 + p) 2 4 = false ∧ m'.obj (0x6100 + p) 6 = min (m.obj (0x6100 + p) 6 + 1) (2 ^ 32 - 1) ∧
    m'.field (0x7200 + p) 0x10 7 6 = used ∧ m'.recState p = 0 ∧ (m'.life p).frog = none ∧ (m'.part p).rbufs = [] ∧
    (∀ t i, t < 256 → i < 16 → m'.census.get 0 (censusKey p t i) = 0) ∧ m'.jobs = m.jobs ∧ m'.cores = m.cores)

/-- HARDWARE_FAULT: the fault is in the fault log of every supervisor that lives and counted, and the partition that holds the unit is READY, or in
REFORM when it has lost a cluster or a stack or was in REFORM before; with both supervisors lost nothing happens (R496, R497). BRIDGE_FAILURE: the
bridge is in the repair map of every supervisor that lives, the failure in its fault log and counted, and the replacement request shows it (R27, R33,
R503). SUPERVISOR_HEARTBEAT is noted; after two missing heartbeats the standby takes over from the active supervisor and the takeover is counted, or
the lost standby is; jobs go on (R505, R506). -/
def Obligations.HardwareRecovery : Prop :=
  (∀ (s : State) (c : HwCause) (code : Nat), s.mach.phase = .running →
    (2 ≤ s.mach.supLost.length → Gives (.hardwareFault c code) s s.mach) ∧
    (s.mach.supLost.length < 2 → ∃ m, Gives (.hardwareFault c code) s m ∧
      (∀ x, x < 2 → s.mach.alive x = true → s.mach.recoveryRecord c code ((s.mach.holder c).getD 0xFF) ∈ (m.flash.store x).log) ∧
      m.obj 0x7000 3 = min (s.mach.obj 0x7000 3 + 1) (2 ^ 32 - 1) ∧
      (∀ p, s.mach.holder c = some p → s.mach.objBit (pix p) 2 0 = false → m.recState p =
        (if (m.clusters p).any (fun g => m.offClusters.contains g) || (m.stacks p).any (fun t => m.offStacks.contains t) ||
            decide (s.mach.recState p = 4) then 4 else 3)))) ∧
  (∀ (s : State) (b : Nat), s.mach.phase = .running → b < 10 → s.mach.supLost.length < 2 →
    ∃ m, Gives (.bridgeFailure b) s m ∧ m.objBit 0x7000 2 5 = true ∧
      (∀ x, x < 2 → s.mach.alive x = true →
        (m.flash.store x).log = (s.mach.unitRecord 0 0xFF 0xFFFF none :: (s.mach.flash.store x).log).take 256 ∧
        ((s.mach.flash.store x).repair.length < 1024 →
          ∃ e ∈ (m.flash.store x).repair, e.level = 3 ∧ e.die = 0 ∧ e.clus = 0 ∧ e.unit = b)) ∧
      (∀ x, x < 2 → s.mach.alive x = false → m.flash.store x = s.mach.flash.store x) ∧
      m.obj 0x7000 3 = min (s.mach.obj 0x7000 3 + 1) (2 ^ 32 - 1) ∧ m.mem = s.mach.mem ∧ m.jobs = s.mach.jobs ∧ m.cores = s.mach.cores) ∧
  (∀ (s : State), s.mach.phase = .running →
    let a := s.mach.active
    (∀ x, x < 2 → s.mach.alive x = true → Gives (.supervisorHeartbeat x) s { s.mach with beats := s.mach.beats.put x s.mach.rc }) ∧
    (s.mach.alive a = true → s.mach.beats.get 0 a + 500000 ≤ s.mach.rc → ∃ m, Gives .takeover s m ∧ m.supLost = s.mach.supLost ++ [a] ∧
      m.jobs = s.mach.jobs ∧ m.mem = s.mach.mem ∧ m.cores = s.mach.cores ∧
      (a < 2 → s.mach.alive (1 - a) = true → m.active = 1 - a ∧ m.can.usdo = none ∧
        m.obj 0x7000 4 = min (s.mach.obj 0x7000 4 + 1) (2 ^ 32 - 1) ∧ m.objBit 0x7000 2 4 = true)) ∧
    (s.mach.rc < s.mach.beats.get 0 a + 500000 → Gives .takeover s s.mach) ∧
    (s.mach.alive a = true → s.mach.alive (1 - a) = true → s.mach.beats.get 0 (1 - a) + 500000 ≤ s.mach.rc → ∃ m, Gives .supervisorLost s m ∧
      m.supLost = s.mach.supLost ++ [1 - a] ∧ m.active = a ∧ m.objBit 0x7000 2 4 = true ∧ m.jobs = s.mach.jobs ∧ m.mem = s.mach.mem))

/-- The firmware commands of a standby that lives: WRITE puts the image in the bank that does not run, TRIAL marks a bank for one boot, REBOOT boots it
(from the marked bank when its image is valid and reads the settings), CONFIRM makes the bank that runs the default; HANDOVER makes the standby
active. Each shows DONE; at the active supervisor all but HANDOVER are errors (R507, R510, Table 17-14). -/
def Obligations.FirmwareCommands : Prop :=
  ∀ (s : State) (path : Path) (b : Nat), s.mach.phase = .running → s.mach.serves path = true → s.mach.active < 2 → b < 2 →
    let a := s.mach.active
    let y := 1 - a
    let done (c : Instr) (m : Mach) : Prop := Gives c s m ∧ m.answer = ⟨0, []⟩ ∧ m.field (0x7300 + y) 8 2 0 = 2
    (s.mach.alive y = true → s.mach.objBit (0x7300 + y) 8 0 = false →
      (b ≠ s.mach.runBank y → s.mach.obj (0x7300 + y) 6 % 4096 = 0 → ∃ m, done (.firmwareWrite path y (0x10000 + b)) m ∧
        m.sup y = { s.mach.sup y with banks := (s.mach.sup y).banks.set b s.mach.imageBank.2 }) ∧
      (b = s.mach.runBank y ∨ s.mach.obj (0x7300 + y) 6 % 4096 ≠ 0 → ∃ m, Gives (.firmwareWrite path y (0x10000 + b)) s m ∧
        m.field (0x7300 + y) 8 2 0 = 4 ∧ m.flash = s.mach.flash) ∧
      (∃ m, done (.trial path y (0x20000 + b)) m ∧ m.sup y = { s.mach.sup y with trial := some b }) ∧
      (∀ t, (s.mach.sup y).trial = some t → ((s.mach.sup y).bank t).valid = true → (s.mach.flash.store y).unread ((s.mach.sup y).bank t) = false →
        ∃ m, done (.reboot path y 0x30000) m ∧ m.runBank y = t ∧ (m.sup y).trial = none ∧ m.active = a ∧ m.jobs = s.mach.jobs) ∧
      (∃ m, done (.confirm path y 0x40000) m ∧ (m.sup y).dflt = s.mach.runBank y) ∧
      (∃ m, done (.handover path y 0x50000) m ∧ m.active = y ∧ m.obj 0x7000 4 = min (s.mach.obj 0x7000 4 + 1) (2 ^ 32 - 1))) ∧
    (s.mach.alive a = true → s.mach.objBit (0x7300 + a) 8 0 = false →
      ∀ c ∈ [Instr.firmwareWrite path a (0x10000 + b), .trial path a (0x20000 + b), .reboot path a 0x30000, .confirm path a 0x40000],
        ∃ m, Gives c s m ∧ m.field (0x7300 + a) 8 2 0 = 4 ∧ m.flash = s.mach.flash)

/-- REFCLK_LOSS: masters that are locked hold, the loss is counted and is a health event, and nothing stops; REFCLK_RETURN: masters that hold are
locked. MASTER_LOCK_LOSS: the islands of the master go to the other one; with neither left every island runs from its ring oscillator, links and
ports are down, CAN is silent and every context of a formed partition has stopped where it stands. SYNTH_LOCK_LOSS: the island goes on from its ring
oscillator. CLOCK_GATE: an island gates its clock once, and nothing else changes (R449, R450, R457, R458). SOURCE_SWITCH: a write to an island that is
not there, and in compatibility mode one that names a source that is not ready, is refused; a ready source is switched to, one that is not ready
waits as pending, and the island's own source cancels what is pending. PENDING_SWITCH_START: the pending source is taken once it is ready;
SWITCH_TIMEOUT: after 1 ms the pending switch is given up and SWERR set (R455, R456). -/
def Obligations.ClockSources : Prop :=
  (∀ (s : State), s.mach.phase = .running →
    let v := s.mach.obj 0x2210 1
    let masters := fld v 3 2 ||| fld v 5 4
    let moved (i src : Nat) (m : Mach) : Prop := m.island i = { s.mach.island i with
      src := src
      pend := none
      swerr := false
      switches := (s.mach.island i).switches + 1 }
    (bit v 1 = false → ∃ m, Gives .refclkLoss s m ∧ fld (m.obj 0x2210 1) 1 0 = 2 ∧ fld (m.obj 0x2210 1) 3 2 = 0 ∧
      fld (m.obj 0x2210 1) 5 4 = masters ∧ m.obj 0x2210 4 = min (s.mach.obj 0x2210 4 + 1) (2 ^ 32 - 1) ∧
      m.obj 0x200A 0 = min (s.mach.obj 0x200A 0 + 1) (2 ^ 32 - 1) ∧ SameObjs [okey 0x2210 1, okey 0x2210 4, okey 0x200A 0] s.mach m ∧
      m.islands = s.mach.islands ∧ m.cores = s.mach.cores ∧ m.jobs = s.mach.jobs ∧ m.mem = s.mach.mem) ∧
    (bit v 1 = true → Gives .refclkLoss s s.mach) ∧
    (bit v 1 = true → ∃ m, Gives .refclkReturn s m ∧ fld (m.obj 0x2210 1) 1 0 = 1 ∧ fld (m.obj 0x2210 1) 3 2 = masters ∧
      fld (m.obj 0x2210 1) 5 4 = 0 ∧ m = { s.mach with objs := m.objs } ∧ SameObjs [okey 0x2210 1] s.mach m) ∧
    (bit v 1 = false → Gives .refclkReturn s s.mach) ∧
    (∀ which, which ≤ 1 → s.mach.srcReady (which + 1) = true →
      (s.mach.srcReady (2 - which) = true → ∃ m, Gives (.masterLockLoss which) s m ∧ m.objBit 0x2210 1 (2 + which) = false ∧
        m.objBit 0x2210 1 (4 + which) = false ∧ (∀ i, i < 180 → (s.mach.island i).src = which + 1 → moved i (2 - which) m) ∧
        (∀ i, (s.mach.island i).src ≠ which + 1 → m.island i = s.mach.island i) ∧ m.cores = s.mach.cores ∧ m.jobs = s.mach.jobs ∧
        m.mem = s.mach.mem) ∧
      (s.mach.srcReady (2 - which) = false → ∃ m, Gives (.masterLockLoss which) s m ∧ (∀ i, i < 180 → (m.island i).src = 3) ∧
        (∀ l, l < 64 → s.mach.linkState l ≠ 4 → m.linkState l = 0) ∧ (m.host 0).up = false ∧ (m.host 1).up = false ∧ m.can.nmt = 0 ∧
        (∀ p c, s.mach.formed p = true → c ∈ s.mach.coresOf p → (m.core c).host.dma = [] ∧ (m.core c).guest.dma = [] ∧
          (m.core c).host.run = ((s.mach.core c).host.stop).run ∧ (m.core c).guest.run = ((s.mach.core c).guest.stop).run) ∧
        m.jobs = s.mach.jobs ∧ m.mem = s.mach.mem)) ∧
    (∀ i, s.mach.islandThere i = true → (s.mach.island i).src ≠ 3 → ∃ m, Gives (.synthLockLoss i) s m ∧ moved i 3 m ∧
      (∀ j, j ≠ i → m.island j = s.mach.island j) ∧ m.obj 0x200A 0 = min (s.mach.obj 0x200A 0 + 1) (2 ^ 32 - 1) ∧ SameObjs [okey 0x200A 0] s.mach m) ∧
    (∀ i, s.mach.islandThere i = true → (s.mach.island i).on = true →
      ((s.mach.island i).gated = false → Gives (.clockGate i) s (s.mach.setIsland i { s.mach.island i with
        gated := true
        gateT0 := s.mach.rc })) ∧
      ((s.mach.island i).gated = true → Gives (.clockGate i) s s.mach))) ∧
  (∀ (s : State) (path : Path) (i v : Nat), s.mach.phase = .running → i < 180 →
    let src := if v % 4 = 0 then islandSource i else v % 4
    let x := s.mach.island i
    let taken (k : Nat) : Island := { x with
      src := k
      pend := none
      swerr := false
      switches := x.switches + 1 }
    (s.mach.serves path = true →
      (s.mach.islandThere i = false → Gives (.sourceSwitch path i v) s { s.mach with answer := ⟨0x08000022, []⟩ }) ∧
      (s.mach.islandThere i = true → s.mach.obj 0x2210 2 = 1 → s.mach.srcReady src = false →
        Gives (.sourceSwitch path i v) s { s.mach with answer := ⟨0x08000022, []⟩ }) ∧
      (s.mach.islandThere i = true → s.mach.obj 0x2210 2 ≠ 1 ∨ s.mach.srcReady src = true →
        ∃ m, Gives (.sourceSwitch path i v) s m ∧ m.answer = ⟨0, []⟩ ∧ m.obj (0x2400 + i) 1 = v % 4 ∧ SameObjs [okey (0x2400 + i) 1] s.mach m ∧
          (∀ j, j ≠ i → m.island j = s.mach.island j) ∧ m.cores = s.mach.cores ∧
          (src = x.src → m.island i = { x with pend := none }) ∧
          (src ≠ x.src → s.mach.srcReady src = true → m.island i = taken src) ∧
          (src ≠ x.src → s.mach.srcReady src = false → m.island i = { x with
            pend := some (src, s.mach.rc)
            swerr := false }))) ∧
    (s.mach.serves path = false → Gives (.sourceSwitch path i v) s s.mach) ∧
    (∀ k t0, x.pend = some (k, t0) →
      (s.mach.srcReady k = true → Gives (.pendingSwitchStart i) s (s.mach.setIsland i (taken k)) ∧ Gives (.switchTimeout i) s s.mach) ∧
      (s.mach.srcReady k = false → Gives (.pendingSwitchStart i) s s.mach ∧
        (t0 + 25000 ≤ s.mach.rc → Gives (.switchTimeout i) s (s.mach.setIsland i { x with
          pend := none
          swerr := true })) ∧
        (s.mach.rc < t0 + 25000 → Gives (.switchTimeout i) s s.mach))))

/-- G1_ENTRY and G2_ENTRY: a cluster's island that has been idle for 4 µs, or without a job for 1 ms, enters the state when its partition tolerates the
wake latency, and not before, and not while a core of it works; G3_ENTRY: after 100 ms with no job, every cluster of the partition turns off with its
memories in a free save slot; IDLE_WAKE brings an island, and from G3 the whole partition, back (R459 to R461). -/
def Obligations.IdleStates : Prop :=
  ∀ (s : State) (g p : Nat), s.mach.phase = .running → g < 128 → s.mach.partOf g = some p → s.mach.formed p = true →
    let x := s.mach.island g
    let slept (st : Nat) : Mach := s.mach.setIsland g { x with gst := st }
    let awake : Prop := ∀ t ∈ s.mach.saveStacks p, s.mach.stackState t ≠ 2
    (x.on = true →
      (s.mach.clusterIdle p g = true → s.mach.acts.get 0 g + 100 ≤ s.mach.rc → x.gst = 0 → 2000 ≤ s.mach.wakeLimit p →
        Gives (.g1Entry g) s (slept 1)) ∧
      (s.mach.clusterIdle p g = true → s.mach.noJobFor p 25000 = true → x.gst < 2 → 50000 ≤ s.mach.wakeLimit p →
        Gives (.g2Entry g) s (slept 2))) ∧
    (s.mach.rc < s.mach.acts.get 0 g + 100 → Gives (.g1Entry g) s s.mach) ∧
    (s.mach.noJobFor p 25000 = false → Gives (.g2Entry g) s s.mach) ∧
    (s.mach.noJobFor p 2500000 = false → Gives (.g3Entry g) s s.mach) ∧
    (∀ c, c < 16 → (s.mach.core (16 * g + c)).host.run = .running → Gives (.g1Entry g) s s.mach ∧ Gives (.g2Entry g) s s.mach ∧
      (g ∈ s.mach.clusters p → Gives (.g3Entry g) s s.mach)) ∧
    (∀ slot, s.mach.freeSlot p = some slot → (s.mach.part p).g3 = none → s.mach.noJobFor p 2500000 = true → s.mach.g3Open p = true →
      (∀ c ∈ s.mach.clusters p, s.mach.clusterIdle p c = true) → s.mach.canDispatch p = true →
      ∃ m, Gives (.g3Entry g) s m ∧ (∀ c ∈ s.mach.clusters p, (m.island c).gst = 3) ∧ (m.part p).g3 = some slot ∧
        ((m.part p).saves.get? slot).isSome = true ∧ (m.part p).resident = (s.mach.part p).resident ∧ m.jobs = s.mach.jobs ∧
        m.cores = s.mach.cores ∧ (awake → m.objs = s.mach.objs)) ∧
    (∀ i, i < 180 → (s.mach.island i).on = true → (s.mach.island i).gst ≠ 3 →
      Gives (.idleWake i) s (s.mach.setIsland i { (s.mach.island i).ungate s.mach.rc with gst := 0 })) ∧
    (∀ slot, x.on = true → x.gst = 3 → (s.mach.part p).g3 = some slot → s.mach.slotLost p slot = none →
      ∃ m, Gives (.idleWake g) s m ∧ (∀ c ∈ s.mach.clusters p, (m.island c).gst = 0) ∧ (m.part p).g3 = none ∧
        (m.part p).saves.get? slot = none ∧ m.jobs = s.mach.jobs ∧ (awake → m.objs = s.mach.objs))

/-- OP_MOVE: an island moves to its target, up only with a confirmed slack of 10 ps; without it GAUGE_FAIL is set, the island is capped and a replan
asked for (R465, R466, R482). LIMITER_COMPUTE, once a millisecond: with enough power every partition is granted what it asks for up to the caps of its
islands, no grant is above its request, and the limiting bit shows any below it; nothing while a trip is asserted (R468, R470). FAST_SHED, every 20 µs
at most: input power over the limit by more than 5% takes every compute island that runs down one point. THERMAL_CAP, every 10 ms: a die above the
threshold is capped one point lower, a cooled one is let up one point. THERMAL_TRIP: a junction at 105.0 °C takes every compute island to OP0 and
asserts the trip, and THERMAL_TRIP_RELEASE clears it at 95.0 °C. ENERGY_WINDOW publishes energy, work and their quotient at the boundary of the window
in force and not before (R469 to R471). -/
def Obligations.PowerAndHeat : Prop :=
  (∀ (s : State), s.mach.phase = .running →
    (∀ i slack, i < 136 → s.mach.islandThere i = true → s.mach.powered i = true →
      let x := s.mach.island i
      let b := s.mach.opTarget i
      (x.op = b → Gives (.opMove i slack) s s.mach) ∧
      (b < x.op ∨ (x.op < b ∧ 10 ≤ slack) → Gives (.opMove i slack) s (s.mach.setIsland i { x with op := b })) ∧
      (x.op < b → slack < 10 → ∃ m, Gives (.opMove i slack) s m ∧ m.wantReplan = true ∧ m.mem = s.mach.mem ∧ m.cores = s.mach.cores ∧
        m.island i = { x with
          gaugeFail := true
          cap := x.op } ∧ ∀ j, j ≠ i → m.island j = s.mach.island j)) ∧
    (∀ env : LimitEnv,
      let start : Mach := { s.mach with timers := s.mach.timers.put everyLimiter s.mach.rc }
      let due : Prop := s.mach.timers.get 0 everyLimiter + 25000 ≤ s.mach.rc
      (¬ due → Gives (.limiterCompute env) s s.mach) ∧
      (due → s.mach.tripped = true → Gives (.limiterCompute env) s start) ∧
      (due → s.mach.tripped = false → s.mach.online = true → ∃ m, Gives (.limiterCompute env) s m ∧ m = { start with objs := m.objs } ∧
        let est (p k : Nat) : Int := ((env.est.getD p []).getD k 0 : Nat)
        let ps := (List.range 64).filter start.formed
        let req (p : Nat) : Nat := s.mach.obj (0x2500 + p) 1
        let other : Int := ps.foldl (fun a p => a - est p (s.mach.obj (0x2500 + p) 2)) env.power
        let cap (p : Nat) : Nat := (start.clusters p).foldl (fun c g => min c (min (start.island g).cap (start.droopCap g))) 7
        (∀ p ∈ ps, m.obj (0x2500 + p) 2 ≤ req p ∧ m.obj (0x2500 + p) 2 ≤ cap p) ∧
        (ps.foldl (fun (a : Int) p => a + est p (req p)) 0 ≤ 1000 * s.mach.obj 0x2280 1 - other →
          ∀ p ∈ ps, m.obj (0x2500 + p) 2 = min (req p) (cap p)) ∧
        (∀ p ∈ ps, m.obj (0x2500 + p) 7 = if m.obj (0x2500 + p) 2 < req p then min (s.mach.obj (0x2500 + p) 7 + 1) (2 ^ 32 - 1)
          else s.mach.obj (0x2500 + p) 7) ∧
        m.objBit 0x2280 2 0 = ps.any (fun p => m.obj (0x2500 + p) 2 < req p)))) ∧
  (∀ (s : State), s.mach.phase = .running →
    let every (m : Mach) (f : Nat → Nat) : Prop := ∀ i, m.island i =
      if i ∈ s.mach.computeIslands then { s.mach.island i with op := f (s.mach.island i).op } else s.mach.island i
    (∀ watts, s.mach.online = true →
      (s.mach.rc < s.mach.timers.get 0 everyShed + 500 → Gives (.fastShed watts) s s.mach) ∧
      (s.mach.timers.get 0 everyShed + 500 ≤ s.mach.rc → 100 * watts ≤ 105 * s.mach.obj 0x2280 1 →
        Gives (.fastShed watts) s (({ s.mach with timers := s.mach.timers.put everyShed s.mach.rc } : Mach).setBit 0x2280 2 1 false)) ∧
      (s.mach.timers.get 0 everyShed + 500 ≤ s.mach.rc → 105 * s.mach.obj 0x2280 1 < 100 * watts → ∃ m, Gives (.fastShed watts) s m ∧ every m (· - 1) ∧ m.objBit 0x2280 2 1 = true ∧
        m.obj 0x2280 3 = min (s.mach.obj 0x2280 3 + 1) (2 ^ 32 - 1) ∧ SameObjs [okey 0x2280 2, okey 0x2280 3] s.mach m)) ∧
    (∀ temps : List Int, s.mach.rc < s.mach.timers.get 0 everyCap + 250000 → Gives (.thermalCap temps) s s.mach) ∧
    (∀ temps : List Int, s.mach.online = true → s.mach.timers.get 0 everyCap + 250000 ≤ s.mach.rc → ∃ m, Gives (.thermalCap temps) s m ∧ SameObjs [okey 0x2280 2] s.mach m ∧ m.islands = s.mach.islands ∧
      m.objBit 0x2280 2 2 = (List.range 8).any (fun d => (m.dieLimit d).1 < 7) ∧
      ∀ d, d < 8 →
        let t := temps.getD d 0
        let thr := toSigned 16 (s.mach.obj 0x2006 1)
        let lim := s.mach.dieLimit d
        let top := (List.range 16).foldl (fun a c => max a (s.mach.island (16 * d + c)).op) 0
        (thr < t ∨ (lim.2 = true ∧ thr - 20 < t) → m.dieLimit d = (min lim.1 top - 1, true)) ∧
        (t ≤ thr - 20 ∨ (t ≤ thr ∧ lim.2 = false) → lim.1 < 7 → m.dieLimit d = (lim.1 + 1, false)) ∧
        (t ≤ thr - 20 ∨ (t ≤ thr ∧ lim.2 = false) → 7 ≤ lim.1 → m.dieLimit d = lim)) ∧
    (∀ temps : List Int, s.mach.tripped = false →
      ((∀ t ∈ temps, t < 1050) → Gives (.thermalTrip temps) s s.mach) ∧
      ((∃ t ∈ temps, 1050 ≤ t) → ∃ m, Gives (.thermalTrip temps) s m ∧ m.tripped = true ∧ every m (fun _ => 0) ∧ m.objBit 0x2007 0 3 = true ∧
        EmcyCond.trip ∈ m.can.active ∧ m.jobs = s.mach.jobs ∧ m.mem = s.mach.mem ∧ m.cores = s.mach.cores)) ∧
    (∀ temps : List Int, s.mach.tripped = true →
      ((∀ t ∈ temps, t ≤ 950) → ∃ m, Gives (.thermalTripRelease temps) s m ∧ m.tripped = false ∧ EmcyCond.trip ∉ m.can.active ∧
        m.islands = s.mach.islands ∧ m.jobs = s.mach.jobs ∧ m.cores = s.mach.cores) ∧
      ((∃ t ∈ temps, 950 < t) → Gives (.thermalTripRelease temps) s s.mach)) ∧
    (∀ mJ : Nat, s.mach.rc < s.mach.winT0 + 25000 * s.mach.winLen → Gives (.energyWindow mJ) s s.mach) ∧
    (∀ mJ : Nat, s.mach.winT0 + 25000 * s.mach.winLen ≤ s.mach.rc → ∃ m, Gives (.energyWindow mJ) s m ∧ m.obj 0x2300 2 = mJ ∧ m.obj 0x2300 3 = s.mach.workSum - s.mach.winWork ∧
      (s.mach.winWork < s.mach.workSum →
        m.obj 0x2300 4 = rne32 (div32 (.ofInt (mJ * 10 ^ 9)) (.ofInt ((s.mach.workSum - s.mach.winWork : Nat) : Int)))) ∧
      m.obj 0x2300 5 = min (s.mach.obj 0x2300 5 + 1) (2 ^ 32 - 1) ∧ m.obj 0x2300 6 = b2n (500 * s.mach.winLen ≤ mJ) ∧
      (s.mach.workSum ≤ s.mach.winWork → m.obj 0x2300 4 = Config.freeNat s.mach.free 0 % 2 ^ 32) ∧
      m.winT0 = s.mach.winT0 + 25000 * s.mach.winLen ∧ m.winLen = s.mach.obj 0x2300 1 ∧ m.winWork = s.mach.workSum ∧ m.cores = s.mach.cores))

/-- GAUGE_SAMPLE, every 10 s at most: the sample, of the class that the island's load of the last 10 ms has (R480), joins those of the last 24 h and
the objects show it and the least slacks; the first H sample asks for a replan. REPLAN, when it is asked for or 7020h.01 seconds have passed: the
running table takes the settled frequencies and the largest voltages, GAUGE_FAIL caps are cleared, the replan is counted, and an OP5 below 1,100 MHz
is a replacement reason. REPLAN_NOW asks for one. HEALTH_SAMPLE, once a millisecond: the sampled objects, the warnings that hold join 2007h, and the
conditions 3100h and 4200h follow the sample (R443, R479 to R487). -/
def Obligations.GaugesAndHealth : Prop :=
  ∀ (s : State), s.mach.phase = .running →
    (∀ i slack ring, s.mach.islandThere i = true → s.mach.powered i = true →
      (∃ y ∈ (s.mach.gauge i).samples, s.mach.rc < y.t + 250000000) → Gives (.gaugeSample i slack ring) s s.mach) ∧
    (∀ i slack ring, s.mach.islandThere i = true → s.mach.powered i = true → (∀ y ∈ (s.mach.gauge i).samples, y.t + 250000000 ≤ s.mach.rc) →
      let cls := s.mach.loadClass i ring
      let x : Sample := ⟨slack, (s.mach.island i).op, s.mach.rc, cls⟩
      ∃ m, cls ≤ 2 ∧ Gives (.gaugeSample i slack ring) s m ∧ m = { s.mach with
          gauges := m.gauges
          wantReplan := m.wantReplan
          objs := m.objs } ∧
        (m.gauge i).samples = x :: (s.mach.gauge i).samples.filter (fun y => s.mach.rc ≤ y.t + 86400 * 25000000) ∧
        (m.gauge i).margin = (s.mach.gauge i).margin ∧ (∀ j, j ≠ i → m.gauge j = s.mach.gauge j) ∧
        m.wantReplan = (s.mach.wantReplan || (decide (cls = 2) && !(s.mach.gauge i).hot)) ∧
        m.obj (0x7100 + i) 1 = ofSigned 16 slack ∧ (∀ c, c ≤ 2 → m.obj (0x7100 + i) (3 + c) = ofSigned 16 ((m.gauge i).least c)) ∧
        SameObjs ((List.range' 1 5).map (okey (0x7100 + i))) s.mach m) ∧
    (s.mach.online = true → s.mach.wantReplan = false → s.mach.rc < s.mach.timers.get 0 everyReplan + 25000000 * s.mach.obj 0x7020 1 →
      Gives .replan s s.mach) ∧
    (s.mach.online = true →
      s.mach.wantReplan = true ∨ s.mach.timers.get 0 everyReplan + 25000000 * s.mach.obj 0x7020 1 ≤ s.mach.rc →
      let start : Mach := { s.mach with timers := s.mach.timers.put everyReplan s.mach.rc }
      let plan := start.settlePlan 64 ((List.range 8).map start.opMhz)
      ∃ m, Gives .replan s m ∧ m.wantReplan = false ∧ (∀ k, k < 8 → m.obj 0x2200 (k + 1) = 2 ^ 16 * plan.freq.getD k 0 + plan.top k) ∧
        (∀ i, i < 136 → s.mach.islandThere i = true → (m.island i).gaugeFail = false ∧ (m.island i).cap = 7 ∧
          (m.island i).op = (s.mach.island i).op) ∧
        m.obj 0x7020 5 = min (s.mach.obj 0x7020 5 + 1) (2 ^ 32 - 1) ∧ (plan.freq.getD 5 0 < 1100 → m.objBit 0x7000 2 3 = true) ∧
        m.jobs = s.mach.jobs ∧ m.cores = s.mach.cores ∧ m.mem = s.mach.mem) ∧
    (∀ path v, s.mach.serves path = true →
      Gives (.replanNow path v) s (if v = 1 then { s.mach with
        answer := ⟨0, []⟩
        wantReplan := true } else { s.mach with answer := ⟨0x06090030, []⟩ })) ∧
    (∀ e : HealthEnv, s.mach.rc < s.mach.timers.get 0 everyHealth + 25000 → Gives (.healthSample e) s s.mach) ∧
    (∀ e : HealthEnv, s.mach.timers.get 0 everyHealth + 25000 ≤ s.mach.rc → ∃ m, Gives (.healthSample e) s m ∧
      (∀ d, d < 10 → m.obj 0x2005 (d + 1) = ofSigned 16 (e.temps.getD d 0)) ∧ m.obj 0x2001 0 = ofSigned 16 (hottest e.temps).2 ∧
      m.obj 0x2002 0 = e.tenMv % 65536 ∧ m.obj 0x2003 0 = e.watts % 65536 ∧ m.obj 0x2004 0 = e.tenMa % 65536 ∧
      m.energy = s.mach.energy + e.watts ∧
      m.objBit 0x2007 0 0 = (s.mach.objBit 0x2007 0 0 || decide (e.tenMv < 4200)) ∧
      m.objBit 0x2007 0 1 = (s.mach.objBit 0x2007 0 1 || decide (5800 < e.tenMv)) ∧
      m.objBit 0x2007 0 2 = (s.mach.objBit 0x2007 0 2 || decide (toSigned 16 (s.mach.obj 0x2006 1) < (hottest e.temps).2)) ∧
      (EmcyCond.vin ∈ m.can.active ↔ e.tenMv < 4000 ∨ 6000 < e.tenMv) ∧
      (EmcyCond.junction ∈ m.can.active ↔ toSigned 16 (s.mach.obj 0x2006 1) < (hottest e.temps).2) ∧
      m.jobs = s.mach.jobs ∧ m.mem = s.mach.mem ∧ m.cores = s.mach.cores)

/-- MEMORY_ACCESS of one request that reaches the channel: a clean read answers its 64 bytes, a clean write stores its bytes and nothing else, a read
with an uncorrectable half makes the half uncorrectable, counts it and answers nothing, as does one whose retries are exhausted; with credit for class
1 its oldest request is served first; a slot that no request waits for raises that credit. CHANNEL_RETRAIN repairs a channel that has failed three
times in 1 s, or its stack is lost. SCRUB_READ corrects or counts, and faults no job (R324, R326 to R329, R333). PER_BANK_REFRESH: put off for a class
1 request at most four times, and the highest rate its dies ask for is shown; SELF_REFRESH_ENTRY of a stack that has been idle for 4000h.05, and
SELF_REFRESH_EXIT; SWATCH_START: refused for a value out of range, while the channel runs or its stack is not ready, and a destructive run with
REFUSED set where a partition holds the stack; else the run is on; one that does not write changes no byte, and one that writes SEED leaves it in
every unit of its pages. SWATCH_STOP lets a run end; SWATCH_DONE ends one with passes, or one that stops, DONE or FAIL with its counts (R325, R334 to
R336, Table 11-7). -/
def Obligations.DeviceMemory : Prop :=
  (∀ (s : State) (n : Nat), s.mach.phase = .running →
    (∀ reqs r, reqs.filter (s.mach.reaches n) = [r] →
      (r.write = false → r.seen = .clean → s.mach.firstBad (r.addr / 64 * 64) 64 = none → ∃ m, Gives (.memoryAccess n reqs) s m ∧
        m.answer = ⟨0, s.mach.rd (r.addr / 64 * 64) 64⟩ ∧ m.mem = s.mach.mem ∧ m.bad = s.mach.bad ∧ m.jobs = s.mach.jobs) ∧
      (r.write = true → r.seen = .clean → ∃ m, Gives (.memoryAccess n reqs) s m ∧ Stores [(r.addr, r.data)] s.mach m ∧ m.answer = s.mach.answer) ∧
      (r.write = false → r.seen = .uncorrectable → s.mach.firstBad (r.addr / 64 * 64) 64 = none → ∃ m, Gives (.memoryAccess n reqs) s m ∧
        r.addr / 32 ∈ m.bad ∧ m.mem = s.mach.mem ∧ m.answer = s.mach.answer ∧
        m.obj (0x4100 + n / 4) 4 = min (s.mach.obj (0x4100 + n / 4) 4 + 1) (2 ^ 64 - 1)) ∧
      (∀ h, r.write = false → s.mach.firstBad (r.addr / 64 * 64) 64 = some h → ∃ m, Gives (.memoryAccess n reqs) s m ∧
        m.mem = s.mach.mem ∧ m.answer = s.mach.answer ∧ m.obj (0x4100 + n / 4) 4 = min (s.mach.obj (0x4100 + n / 4) 4 + 1) (2 ^ 64 - 1)) ∧
      (∀ k, 4 < k → r.write = false → r.seen = .retried k → s.mach.firstBad (r.addr / 64 * 64) 64 = none →
        ∃ m, Gives (.memoryAccess n reqs) s m ∧ r.addr / 64 * 2 ∈ m.bad ∧ r.addr / 64 * 2 + 1 ∈ m.bad ∧ m.mem = s.mach.mem ∧
          m.answer = s.mach.answer ∧ m.obj (0x4100 + n / 4) 7 = min (s.mach.obj (0x4100 + n / 4) 7 + 1) (2 ^ 64 - 1) ∧
          m.obj (0x4100 + n / 4) 4 = min (s.mach.obj (0x4100 + n / 4) 4 + 1) (2 ^ 64 - 1))) ∧
    (∀ reqs r, (∀ q ∈ reqs, s.mach.reaches n q = true ∧ q.write = false ∧ q.seen = .clean ∧ s.mach.firstBad (q.addr / 64 * 64) 64 = none) →
      reqs.find? (fun q => decide (q.cls = 1)) = some r → 3 ≤ (s.mach.chan n).k1 →
      ∃ m, Gives (.memoryAccess n reqs) s m ∧ m.answer = ⟨0, s.mach.rd (r.addr / 64 * 64) 64⟩ ∧ (m.chan n).k1 = min ((s.mach.chan n).k1 + 2) 512 - 5) ∧
    (∀ reqs, reqs.filter (s.mach.reaches n) = [] →
      (n < 192 → s.mach.inService (n / 4) = true → ∃ m, Gives (.memoryAccess n reqs) s m ∧ m = { s.mach with chans := m.chans } ∧
        (m.chan n).k1 = min ((s.mach.chan n).k1 + 2) 512 ∧ (∀ c, c ≠ n → m.chan c = s.mach.chan c)) ∧
      (192 ≤ n ∨ s.mach.inService (n / 4) = false → Gives (.memoryAccess n reqs) s s.mach)) ∧
    (n < 192 → s.mach.inService (n / 4) = true →
      ((s.mach.chan n).worn s.mach.rc = false → ∀ ok, Gives (.channelRetrain n ok) s s.mach) ∧
      ((s.mach.chan n).worn s.mach.rc = true →
        (∃ m, Gives (.channelRetrain n true) s m ∧ (m.chan n).fails = [] ∧ m.stackState (n / 4) = 1 ∧ m.offStacks = s.mach.offStacks) ∧
        (n / 4 ∉ s.mach.offStacks → ∃ m, Gives (.channelRetrain n false) s m ∧ m.stackState (n / 4) = 5 ∧ n / 4 ∈ m.offStacks ∧
          m.field (0x4100 + n / 4) 2 11 8 = 2 ∧ m.objBit 0x2007 0 7 = true ∧ m.objBit 0x7000 2 1 = true))) ∧
    (∀ addr, addr / 2 ^ 35 < 48 → s.mach.stackState (addr / 2 ^ 35) = 1 → addr % 2 ^ 35 < stackUsable →
      s.mach.objBit (0x4100 + addr / 2 ^ 35) 1 1 = true → s.mach.swatchOn (addr / 2 ^ 35) = false →
      firstBad s.mach.bad (addr / 64 * 64) 64 = none →
      let i := 0x4100 + addr / 2 ^ 35
      Gives (.scrubRead addr .clean) s s.mach ∧
      (∃ m, Gives (.scrubRead addr .corrected) s m ∧ m.obj i 3 = min (s.mach.obj i 3 + 1) (2 ^ 64 - 1) ∧ m.bad = s.mach.bad ∧ m.mem = s.mach.mem ∧
        m.jobs = s.mach.jobs ∧ m.hwWait = s.mach.hwWait) ∧
      (∃ m, Gives (.scrubRead addr .uncorrectable) s m ∧ m.obj i 4 = min (s.mach.obj i 4 + 1) (2 ^ 64 - 1) ∧ addr / 32 ∈ m.bad ∧
        m.mem = s.mach.mem ∧ m.jobs = s.mach.jobs ∧ m.cores = s.mach.cores ∧ m.hwWait = s.mach.hwWait))) ∧
  (∀ (s : State) (n : Nat), s.mach.phase = .running → n < 192 →
    let t := n / 4
    let i := 0x4400 + n
    (∀ bank rate b, bank < 32 → s.mach.stackState t = 1 → ∃ m, Gives (.perBankRefresh n bank b rate) s m ∧
      m.srt t = { s.mach.srt t with rates := (s.mach.srt t).rates.put (n % 4 + 4 * (bank / 16)) (rate % 256) } ∧ m.obj (0x4100 + t) 0xC = (m.srt t).rate ∧
      SameObjs [okey (0x4100 + t) 0xC] s.mach m ∧ m.mem = s.mach.mem ∧
      (m.chan n).late.get 0 bank = if b = true ∧ (s.mach.chan n).late.get 0 bank < 4 then (s.mach.chan n).late.get 0 bank + 1 else 0) ∧
    (s.mach.rc < (s.mach.srt t).last + 25 * s.mach.obj 0x4000 5 → Gives (.selfRefreshEntry t) s s.mach) ∧
    (s.mach.stackState t = 1 → s.mach.obj 0x4000 5 ≠ 0 → (s.mach.srt t).last + 25 * s.mach.obj 0x4000 5 ≤ s.mach.rc → (∀ c, c < 4 → s.mach.swatchRuns (4 * t + c) = false) →
      ∃ m, Gives (.selfRefreshEntry t) s m ∧ m.stackState t = 2 ∧ m = { s.mach with objs := m.objs } ∧ SameObjs [okey (0x4100 + t) 2] s.mach m) ∧
    (s.mach.stackState t = 2 → ∃ m, Gives (.selfRefreshExit t) s m ∧ m.stackState t = 1 ∧ m = { s.mach with objs := m.objs } ∧
      SameObjs [okey (0x4100 + t) 2] s.mach m) ∧
    (∀ path v, s.mach.serves path = true →
      (bit v 0 = true →
        (swRefused v = true → Gives (.swatchStart path n v) s { s.mach with answer := ⟨0x06090030, []⟩ }) ∧
        (swRefused v = false → s.mach.swReady t = false ∨ s.mach.swatchRuns n = true →
          Gives (.swatchStart path n v) s { s.mach with answer := ⟨0x08000022, []⟩ }) ∧
        (swRefused v = false → s.mach.swReady t = true → s.mach.swatchRuns n = false → swDestructive v = true → s.mach.swFree n (fld v 28 27) = false →
          ∃ m, Gives (.swatchStart path n v) s m ∧ m.answer = ⟨0x08000022, []⟩ ∧ m.objBit i 5 3 = true ∧ m.mem = s.mach.mem ∧
            SameObjs [okey i 5] s.mach m) ∧
        (swRefused v = false → s.mach.swReady t = true → s.mach.swatchRuns n = false →
          swDestructive v = false ∨ s.mach.swFree n (fld v 28 27) = true →
          ∃ m, Gives (.swatchStart path n v) s m ∧ m.answer = ⟨0, []⟩ ∧ m.swatchRuns n = true ∧ m.obj i 1 = swKept v ∧
            (m.chan n).swatch = v ∧ (m.chan n).stopping = false ∧ (s.mach.stackState t = 2 → m.stackState t = 1) ∧
            (swWrites v = false → m.mem = s.mach.mem ∧ m.bad = s.mach.bad) ∧
            (swWrites v = true → fld v 9 7 = 0 → Memory.wf s.mach →
              let word : List Byte := (List.range 64).map (fun j => BitVec.ofNat 8 (s.mach.obj i 4 / 2 ^ (8 * (j % 4))))
              ∀ pg ∈ s.mach.swPages n, ∀ u, u < 30 →
                m.rd (unitAddr t (n % 4) pg u) 64 = if fld v 12 10 = 4 then word.map (fun b => ~~~b) else word))) ∧
      (bit v 0 = false → bit v 1 = true → swRefused v = false → t ∉ s.mach.offStacks →
        ∃ m, Gives (.swatchStop path n v) s m ∧ m.answer = ⟨0, []⟩ ∧ m.obj i 1 = swKept v ∧ m.mem = s.mach.mem ∧
          SameObjs [okey i 1] s.mach m ∧ (s.mach.swatchRuns n = true → (m.chan n).stopping = true))) ∧
    (∀ x : SwatchSeen, s.mach.swatchRuns n = false ∨ (fld (s.mach.chan n).swatch 23 16 = 0 ∧ (s.mach.chan n).stopping = false) →
      Gives (.swatchDone n x) s s.mach) ∧
    (∀ x : SwatchSeen, s.mach.swatchRuns n = true → fld (s.mach.chan n).swatch 23 16 ≠ 0 ∨ (s.mach.chan n).stopping = true →
      ∃ m, Gives (.swatchDone n x) s m ∧ (m.chan n).stopping = false ∧
      m.field i 5 2 0 = (if x.errBursts = 0 then 2 else 4) ∧ m.obj i 6 = min (s.mach.obj i 6 + x.bursts) (2 ^ 64 - 1) ∧
      m.obj i 7 = min (s.mach.obj i 7 + x.errBursts) (2 ^ 64 - 1) ∧ m.obj i 8 = min (s.mach.obj i 8 + x.errBits) (2 ^ 64 - 1) ∧ m.mem = s.mach.mem))

/-- MEDIA_SCHEDULE takes a command that may run into the engine, whose island wakes; unless a batch command is owed its share, none that may run has a
higher priority. MEDIA_COMPLETE makes the record of a finished command visible at RBASE with its TIME, and the engine is at a picture boundary (R346,
R359). The command an engine has in hand, by its MOP. A command that a check of R345 refuses ends with the lowest status and changes no stream and no
byte; OPEN enters its stream, CLOSE takes it out; DECODE, ENCODE, JPEG and VOXEL finish with a result and store only into their output and map and the
frame store of their stream; an engine fault fails the engine and ends the command with 14h, as an uncorrectable read of its input does without
failing the engine; MEDIA_WATCHDOG finishes a picture past its limit (R345, R350, R351, R356, R357, R359). -/
def Obligations.Media : Prop :=
  (∀ (s : State) (e : Nat), s.mach.phase = .running → e < 10 →
    let x := s.mach.med e
    let pri (i : Nat) : Nat := match x.queue[i]? with | some c => mcPri c.bytes | none => 0
    (∀ i c, x.run = none → s.mach.ioUp (engAgg e - 8) = true → s.mach.medPick e = some i → x.queue[i]? = some c →
      s.mach.medFree e x.queue i = true ∧
      (s.mach.obj 0x5000 3 * 2500000 ≤ x.batchRc s.mach.rc * 100 → ∀ j, j < x.queue.length → s.mach.medFree e x.queue j = true → pri j ≤ pri i) ∧
      ∃ m, Gives (.mediaSchedule e) s m ∧ (m.med e).queue = x.queue.eraseIdx i ∧ (m.med e).run = some ⟨c, s.mach.rc, none⟩ ∧
        (m.island (164 + e)).gst = 0 ∧ (m.island (164 + e)).gated = false ∧
        (∀ d, d ≠ e → m.med d = s.mach.med d) ∧ m.mem = s.mach.mem ∧ m.jobs = s.mach.jobs) ∧
    (x.run ≠ none → Gives (.mediaSchedule e) s s.mach) ∧
    (∀ r, x.run = some r → r.result = none → Gives (.mediaComplete e) s s.mach) ∧
    (∀ r bs, x.run = some r → r.result = some bs → ∃ m, Gives (.mediaComplete e) s m ∧ (m.med e).run = none ∧ (m.med e).queue = x.queue ∧
      m.obj (0x5100 + e) 2 = min (s.mach.obj (0x5100 + e) 2 + 1) (2 ^ 64 - 1) ∧ m.streams = s.mach.streams ∧ m.cores = s.mach.cores ∧
      (s.mach.holds r.cmd.part (mcRbase r.cmd.bytes) 64 = true →
        Stores [(mcRbase r.cmd.bytes, putAt bs 40 (leBytes 8 s.mach.rc))] s.mach m) ∧
      (s.mach.holds r.cmd.part (mcRbase r.cmd.bytes) 64 = false → m.mem = s.mach.mem))) ∧
  (∀ (s : State) (e : Nat) (r : MedRun), s.mach.phase = .running → (s.mach.med e).run = some r → r.result = none →
    s.mach.ioUp (engAgg e - 8) = true →
    let b := r.cmd.bytes
    let k := streamKey e (mcStream b)
    let row (fault : Bool) : Instr := match mcMop b with
      | 2 => .mediaClose e
      | 3 => .decode e fault
      | 4 => .encode e fault
      | 5 => .jpeg e fault
      | 6 => .voxel e fault
      | _ => .mediaOpen e
    let ends (m : Mach) (bs : List Byte) : Prop := (m.med e).run = some { r with result := some bs } ∧ (m.med e).queue = (s.mach.med e).queue ∧
      m.jobs = s.mach.jobs ∧ m.cores = s.mach.cores
    let store := match s.mach.streams.get? k with | some t => openBuf (engClass e) t.block | none => (0, 0)
    (∀ c, s.mach.medRefusal r.cmd.part e b = some c → ∀ fault, ∃ m, Gives (row fault) s m ∧ ends m ((MedOut.plain c).record b) ∧
      m.streams = s.mach.streams ∧ m.mem = s.mach.mem) ∧
    (s.mach.medRefusal r.cmd.part e b = none → s.mach.medBadRead e b = none →
      (mcMop b = 1 → ∃ m st, Gives (.mediaOpen e) s m ∧ ends m ({ MedOut.plain 0 with bytesIn := 64 }.record b) ∧ m.mem = s.mach.mem ∧
        m.streams.get? k = some st ∧ st.part = r.cmd.part ∧ st.block = s.mach.rd (mcSrc b) 64 ∧ st.hist = []) ∧
      (mcMop b = 2 → ∃ m, Gives (.mediaClose e) s m ∧ ends m ((MedOut.plain 0).record b) ∧ m.mem = s.mach.mem ∧ m.streams.get? k = none ∧
        ∀ j, j ≠ k → m.streams.get? j = s.mach.streams.get? j) ∧
      (3 ≤ mcMop b → mcMop b ≤ 6 →
        (∃ m o, Gives (row false) s m ∧ ends m (MedOut.record o b) ∧ (∀ j, j ≠ k → m.streams.get? j = s.mach.streams.get? j) ∧
          (Memory.wf s.mach → SameOutside [(mcDbase b, mcDsize b), (mcEbase b, if mcEbase b = 0 then 0 else mcEsize b), store] s.mach m)) ∧
        (∃ m bs, Gives (row true) s m ∧ (m.med e).run = some { r with result := some bs } ∧ leAt bs 0 1 = 0x14 ∧ (m.med e).failed = true ∧
          (0x14, r.cmd.part, 0xFFFF) ∈ m.hwWait ∧ m.objBit (0x5100 + e) 1 2 = true))) ∧
    (∀ h, 3 ≤ mcMop b → mcMop b ≤ 6 → s.mach.medRefusal r.cmd.part e b = none → s.mach.medBadRead e b = some h →
      ∃ m bs, Gives (row false) s m ∧ (m.med e).run = some { r with result := some bs } ∧ leAt bs 0 1 = 0x14 ∧ (m.med e).failed = false ∧
        (0x14, r.cmd.part, 0xFFFF) ∈ m.hwWait) ∧
    (∀ n, s.mach.medLimit e b = some n → s.mach.medRefusal r.cmd.part e b = none → s.mach.medBadRead e b = none →
      (s.mach.rc < r.t0 + n → Gives (.mediaWatchdog e) s s.mach) ∧
      (r.t0 + n ≤ s.mach.rc → ∃ m bs, Gives (.mediaWatchdog e) s m ∧ ends m bs ∧ leAt bs 0 1 ∈ [3, 4, 5] ∧
        m.obj (0x5100 + e) 4 = min (s.mach.obj (0x5100 + e) 4 + 1) (2 ^ 32 - 1))))

/-- INPUT_OPEN, SUBMIT, INPUT_CLOSE, BATCH_PUBLISH and CONSUMED_POLL of a partition's input stream: a refused command ends with its status; an OPEN
enters the stream with its counters 0, a CLOSE takes it out with its media streams; a SUBMIT begins with the next batch number, writes a batch when
its ring slot is free and waits when none is; the oldest written batch is published by the count at STAT; a poll lets a waiting stream go on once
the ring has room (R371, R375, R376). -/
def Obligations.InputStreams : Prop :=
  ∀ (s : State) (p : Nat), s.mach.phase = .running → s.mach.inWorks p = true →
    let q := s.mach.part p
    let i := 0x5280 + p
    (∀ c rest, q.inQueue = c :: rest →
      let b := c.bytes
      let spec := s.mach.rd (icList b) (bsLen (s.mach.rd (icList b) 64))
      let vox := (bsOuts spec).map (fun o => if ouKind o = 4 then s.mach.rd (ouVoxp o) 96 else [])
      (icIop b = 1 → ∀ st, s.mach.inRefusal p b spec vox = some st → ∃ m, Gives (.inputOpen p) s m ∧ (m.part p).inStream = q.inStream ∧
        (m.part p).inQueue = rest ∧ m.streams = s.mach.streams) ∧
      (icIop b = 1 → s.mach.inRefusal p b spec vox = none →
        s.mach.badRead ((icList b, bsLen spec) :: (bsOuts spec).map (fun o => (ouVoxp o, if ouKind o = 4 then 96 else 0))) = none →
        (openVids s.mach p (vidKeys spec)).1 = none → ∃ m, Gives (.inputOpen p) s m ∧ (m.part p).inQueue = rest ∧
          (m.part p).inStream = some ⟨icHalf b, spec, vox, (vidKeys spec).map Prod.fst, 0, none⟩ ∧ m.obj i 1 = 1 + 2 * icHalf b ∧
          (∀ sub, 2 ≤ sub → sub ≤ 6 → m.obj i sub = 0)) ∧
      (icIop b = 2 → ∀ t, q.inStream = some t →
        (∀ st, t.build = none → s.mach.inRefusal p b [] [] = some st → ∃ m, Gives (.submit p) s m ∧ (m.part p).inQueue = rest ∧
          (m.part p).inStream = some t) ∧
        (t.build = none → s.mach.inRefusal p b [] [] = none → ∃ m, Gives (.submit p) s m ∧
          (m.part p).inStream = some { t with build := some ⟨c, t.next, 0, 0, 0, 0, 0, 0, 0, 0⟩ } ∧ (m.part p).inQueue = q.inQueue ∧
          m.obj i 2 = min (s.mach.obj i 2 + icNs b) (2 ^ 64 - 1) ∧ m.mem = s.mach.mem) ∧
        (∀ x, t.build = some x → x.made < batches t.spec b → s.mach.objBit i 1 2 = false → s.mach.badRead [(bsStat t.spec + 8, 8)] = none →
          (s.mach.ringFree t.spec (x.first + x.made) = false → Gives (.submit p) s (s.mach.setBit i 1 2 true)) ∧
          (s.mach.ringFree t.spec (x.first + x.made) = true →
            (∀ j, j < bsBs t.spec → x.made * bsBs t.spec + j < icNs x.cmd.bytes →
              (s.mach.sampleOf p t x.cmd.bytes (x.made * bsBs t.spec + j)).hard = false) →
            s.mach.badRead [(icList x.cmd.bytes + 16 * (x.made * bsBs t.spec),
              16 * min (bsBs t.spec) (icNs x.cmd.bytes - x.made * bsBs t.spec))] = none →
            ∃ m y, Gives (.submit p) s m ∧ (m.part p).inStream = some { t with
                next := x.first + x.made + 1
                build := some y } ∧
              y.made = x.made + 1 ∧ y.published = x.published ∧ y.cmd = x.cmd ∧ y.first = x.first))) ∧
      (icIop b = 3 → ∀ t, q.inStream = some t → s.mach.inRefusal p b [] [] = none → ∃ m, Gives (.inputClose p) s m ∧
        (m.part p).inStream = none ∧ (m.part p).inQueue = rest ∧ m.obj i 1 = 0 ∧ (∀ k ∈ t.keys, m.streams.get? k = none))) ∧
    (∀ t x, q.inStream = some t → t.build = some x → x.published < x.made → x.published + 1 ≠ batches t.spec x.cmd.bytes →
      ∃ m, Gives (.batchPublish p) s m ∧ Stores [(bsStat t.spec, leBytes 8 (x.first + x.published + 1))] s.mach m ∧
        (m.part p).inStream = some { t with build := some { x with published := x.published + 1 } } ∧
        m.obj i 4 = min (s.mach.obj i 4 + 1) (2 ^ 64 - 1) ∧ m.markers = s.mach.markers) ∧
    (∀ t x, q.inStream = some t → t.build = some x → x.published < x.made → x.published + 1 = batches t.spec x.cmd.bytes →
      ∃ m, Gives (.batchPublish p) s m ∧ (m.part p).inStream = some { t with build := none } ∧ (m.part p).inQueue = q.inQueue.drop 1) ∧
    (∀ t x, q.inStream = some t → t.build = some x → s.mach.objBit i 1 2 = true → s.mach.badRead [(bsStat t.spec + 8, 8)] = none →
      (s.mach.ringFree t.spec (x.first + x.made) = true → Gives (.consumedPoll p) s (s.mach.setBit i 1 2 false)) ∧
      (s.mach.ringFree t.spec (x.first + x.made) = false → Gives (.consumedPoll p) s s.mach))

/-- OBJECT_WRITE: the first refusal of Table 15-3 that applies answers the write and changes nothing; a register keeps what its field map keeps of the
value, and nothing else changes. RWP_WRITE also commits a setting to the store, or answers 08000020h and changes nothing. RESTORE_DEFAULTS takes the
signature alone, and marks the store of every supervisor that lives; ERROR_HISTORY_CLEAR takes 0 alone (R33, R418 to R421, R442). -/
def Obligations.ObjectWrites : Prop :=
  ∀ (s : State) (path : Path) (idx sub : Nat) (data : List Byte), s.mach.phase = .running → s.mach.serves path = true →
    let f := objFind idx sub
    let row := f.2.1
    let u := f.2.2
    let v := leNat data
    let answers (c : Instr) (code : Nat) : Prop := Gives c s { s.mach with answer := ⟨code, []⟩ }
    let w : Instr := .objectWrite path idx sub data
    (f.1 ≠ 0 → answers w f.1) ∧
    (f.1 = 0 → row.acc = .const ∨ row.acc = .ro → answers w 0x06010002) ∧
    (f.1 = 0 → row.acc ≠ .const → row.acc ≠ .ro → data.length ≠ row.size → answers w 0x06070010) ∧
    (f.1 = 0 → row.acc ≠ .const → row.acc ≠ .ro → data.length = row.size → s.mach.writeSpecial path row u v = none →
      let wrong : Bool := outOfBounds row v || s.mach.refusedValue row u v
      let kept := s.mach.keptValue idx row v
      (wrong = true → answers w 0x06090030) ∧
      (wrong = false → s.mach.targetTakes row u = false → answers w 0x08000022) ∧
      (wrong = false → s.mach.targetTakes row u = true → s.mach.writeSelected row u kept = none →
        (row.acc ≠ .rwp → ∃ m, Gives w s m ∧ m = { s.mach with
          answer := ⟨0, []⟩
          objs := m.objs } ∧ m.obj idx row.sub = kept ∧ SameObjs [okey idx row.sub] s.mach m) ∧
        (row.acc = .rwp →
          (∃ m, Gives (.rwpWrite path idx sub data true) s m ∧ m.answer = ⟨0, []⟩ ∧ m.obj idx row.sub = kept ∧
            SameObjs [okey idx row.sub] s.mach m ∧ m.flash = (s.mach.commit (okey idx row.sub) kept).flash ∧ m.mem = s.mach.mem ∧
            m.jobs = s.mach.jobs) ∧
          answers (.rwpWrite path idx sub data false) 0x08000020))) ∧
    (∃ m, Gives (.restoreDefaults path 0x64616F6C) s m ∧ m = { s.mach with
        answer := ⟨0, []⟩
        flash := m.flash } ∧ (∀ x, x < 2 → m.flash.store x =
          if s.mach.alive x = true then { s.mach.flash.store x with restore := true } else s.mach.flash.store x)) ∧
    (∀ n, n ≠ 0x64616F6C → answers (.restoreDefaults path n) 0x06090030) ∧
    (∃ m, Gives (.errorHistoryClear path 0) s m ∧ m.answer = ⟨0, []⟩ ∧ (∀ i, i < 9 → m.obj 0x1003 i = 0) ∧
      SameObjs ((List.range 9).map (okey 0x1003)) s.mach m) ∧
    (∀ n, n ≠ 0 → answers (.errorHistoryClear path n) 0x06090030)

/-- The mailbox of a port that is up: a doorbell while BUSY sets OVERRUN alone; a read answers the value with its length, whole or from its offset of
the latch; a write answers as the dictionary does; each response carries the SEQ of its command (R424, R437, Table 15-12). -/
def Obligations.Mailboxes : Prop :=
  ∀ (s : State) (port : Nat) (q : MbReq), s.mach.phase = .running → port < 2 → (s.mach.host port).up = true →
    let x := s.mach.host port
    let row : Instr := if q.cmd = 2 then .mailboxWrite port q else .mailboxRead port q
    let f := objFind q.idx q.sub
    let tells (m : Mach) (abort total : Nat) (data : List Byte) : Prop := Gives row s m ∧ (m.host port).doneSeq = q.seq % 65536 ∧
      (m.host port).resp = ⟨abort, total, q.seq % 65536, data⟩ ∧ m.answer = ⟨abort, data⟩
    (x.busy = true → Gives row s (s.mach.setHost port { x with overrun := true })) ∧
    (x.busy = false → s.mach.online = false → Gives row s (s.mach.setHost port { x with busy := true })) ∧
    (x.busy = false → s.mach.online = true →
      (q.cmd ≠ 1 → q.cmd ≠ 2 → ∃ m, tells m 0x05040001 0 [] ∧ m.objs = s.mach.objs) ∧
      (q.cmd = 1 → f.1 ≠ 0 → ∃ m, tells m f.1 0 [] ∧ m.objs = s.mach.objs) ∧
      (q.cmd = 1 → f.1 = 0 → f.2.1.acc = .wo → ∃ m, tells m 0x06010001 0 [] ∧ m.objs = s.mach.objs) ∧
      (q.cmd = 1 → f.1 = 0 → f.2.1.acc ≠ .wo → q.seg = 0 →
        let bs := leBytes f.2.1.size (s.mach.live q.idx f.2.1 f.2.2)
        ∃ m, tells m 0 f.2.1.size (bs.take 4080) ∧ (m.host port).latch = some (q.idx, q.sub, bs) ∧ m.objs = s.mach.objs ∧ m.mem = s.mach.mem) ∧
      (∀ bs, q.cmd = 1 → f.1 = 0 → f.2.1.acc ≠ .wo → f.2.1.ty = .domain → 0 < q.seg → q.seg < bs.length → x.latch = some (q.idx, q.sub, bs) →
        ∃ m, tells m 0 bs.length ((bs.drop q.seg).take 4080) ∧ m.objs = s.mach.objs) ∧
      (q.cmd = 2 → f.1 = 0 → f.2.1.acc ≠ .const → f.2.1.acc ≠ .ro → f.2.1.ty ≠ .domain → q.seg = 0 → q.len = f.2.1.size → 0 < q.len → q.len ≤ 4080 →
        let m0 := (s.mach.setPartial port none).writeObj (portPath port) q.idx q.sub (padTo q.len q.data) true
        ∃ m, tells m m0.answer.abort 0 [] ∧ m.objs = m0.objs ∧ m.flash = m0.flash ∧ m.mem = m0.mem ∧ m.jobs = m0.jobs))

/-- USDO: an upload of up to four bytes is answered whole and a longer one latched, a download answers as the dictionary does, a further start of a
transfer is refused while one is under way, the next segment is the next bytes of the latch; USDO_TIMEOUT abandons a transfer that has waited 1 s
(R424, R427, R429). The NMT commands move a port that hears them to Operational, Stopped or Pre-operational, and change nothing at one that does not;
a reset of communication or of the node abandons a transfer, and a reset of the node also carries out a pending restore. HEARTBEAT and TPDO send their
frames from a port that may send, as their times run out; EMCY and EMCY_INHIBIT_EXPIRY send the oldest waiting frame and enter it in the history;
BUS_OFF_RECOVERY brings the port back (R421, R428, R431 to R434). -/
def Obligations.CanTransfers : Prop :=
  (∀ (s : State), s.mach.phase = .running → s.mach.serves .can = true →
    let sent (c : Instr) (m : Mach) (abort size : Nat) (bs : List Byte) : Prop := Gives c s m ∧ m.answer = ⟨abort, bs⟩ ∧
      m.outbox = s.mach.outbox ++ [.usdo abort size bs]
    (s.mach.can.usdo = none →
      (∀ idx sub bs m', s.mach.readObj idx sub = (0, bs, m') →
        (bs.length ≤ 4 → ∃ m, sent (.usdo (.read idx sub)) m 0 bs.length bs ∧ m.can.usdo = none) ∧
        (4 < bs.length → ∃ m, sent (.usdo (.read idx sub)) m 0 bs.length [] ∧
          m.can.usdo = some ⟨idx, sub, false, bs, 0, bs.length, s.mach.rc⟩)) ∧
      (∀ idx sub code bs m', code ≠ 0 → s.mach.readObj idx sub = (code, bs, m') → ∃ m, sent (.usdo (.read idx sub)) m code 0 [] ∧ m.objs = s.mach.objs) ∧
      (∀ idx sub data, data ≠ [] → data.length ≤ 4 →
        let m0 := s.mach.writeObj .can idx sub data true
        ∃ m, Gives (.usdo (.write idx sub data)) s m ∧ m.answer.abort = m0.answer.abort ∧ m.objs = m0.objs ∧ m.mem = m0.mem ∧ m.flash = m0.flash)) ∧
    (∀ x, s.mach.can.usdo = some x →
      (∀ idx sub, ∃ m, sent (.usdo (.read idx sub)) m 0x08000022 0 [] ∧ m.can.usdo = some x) ∧
      (x.write = false → ∀ n, ∃ m, sent (.usdo (.more n)) m 0 0 ((x.data.drop x.moved).take n) ∧
        (∀ y, m.can.usdo = some y → y.moved = x.moved + ((x.data.drop x.moved).take n).length)) ∧
      (∃ m, Gives (.usdo .abort) s m ∧ m.can.usdo = none ∧ m.objs = s.mach.objs) ∧
      (x.t0 + 25000000 ≤ s.mach.rc → ∃ m, sent .usdoTimeout m 0x05040000 0 [] ∧ m.can.usdo = none) ∧
      (s.mach.rc < x.t0 + 25000000 → Gives .usdoTimeout s s.mach))) ∧
  (∀ (s : State), s.mach.phase = .running →
    (∀ node, s.mach.hears node = true →
      (∃ m, Gives (.nmtStart node) s m ∧ m.can.nmt = 5 ∧ m.objs = s.mach.objs) ∧
      (∃ m, Gives (.nmtStop node) s m ∧ m.can.nmt = 4 ∧ m.can.usdo = none ∧ m.objs = s.mach.objs) ∧
      (∃ m, Gives (.nmtEnterPreOperational node) s m ∧ m.can.nmt = 0x7F ∧ m.objs = s.mach.objs) ∧
      (∃ m, Gives (.nmtResetCommunication node) s m ∧ m.can.nmt = (if s.mach.obj 0x2100 3 = 1 then 5 else 0x7F) ∧ m.can.usdo = none ∧
        m.flash = s.mach.flash ∧ m.jobs = s.mach.jobs) ∧
      (s.mach.store.restore = false → ∃ m, Gives (.nmtResetNode node) s m ∧ m.can.nmt = (if s.mach.obj 0x2100 3 = 1 then 5 else 0x7F) ∧
        m.can.usdo = none ∧ m.flash = s.mach.flash ∧ m.jobs = s.mach.jobs) ∧
      (s.mach.store.restore = true → ∃ m, Gives (.nmtResetNode node) s m ∧ m.can.usdo = none ∧
        (∀ x, x < 2 → s.mach.alive x = true → (m.flash.store x).restore = false ∧ (m.flash.store x).sets = []) ∧ m.jobs = s.mach.jobs)) ∧
    (∀ node, s.mach.hears node = false → ∀ c ∈ [Instr.nmtStart node, .nmtStop node, .nmtEnterPreOperational node, .nmtResetCommunication node,
      .nmtResetNode node], Gives c s s.mach) ∧
    (s.mach.canSends = true →
      (s.mach.timers.get 0 everyHeartbeat + 25000 * s.mach.obj 0x1017 0 ≤ s.mach.rc → Gives .heartbeat s { s.mach with
        timers := s.mach.timers.put everyHeartbeat s.mach.rc
        outbox := s.mach.outbox ++ [.can (leBytes 2 (0x700 + s.mach.node) ++ leBytes 1 s.mach.can.nmt)] }) ∧
      (s.mach.rc < s.mach.timers.get 0 everyHeartbeat + 25000 * s.mach.obj 0x1017 0 → Gives .heartbeat s s.mach) ∧
      (∀ t, t < 4 → s.mach.can.nmt = 5 → s.mach.obj (0x1800 + t) 5 ≠ 0 →
        let wait := max (25000 * s.mach.obj (0x1800 + t) 5) (2500 * s.mach.obj (0x1800 + t) 3)
        let start : Mach := { s.mach with timers := s.mach.timers.put (everyTpdo t) s.mach.rc }
        (s.mach.timers.get 0 (everyTpdo t) + wait ≤ s.mach.rc → ∃ m, Gives (.tpdo t) s m ∧
          m.outbox = s.mach.outbox ++ [.can (leBytes 2 (0x180 + 0x100 * t + s.mach.node) ++ start.tpdoData t)] ∧ m.objs = s.mach.objs) ∧
        (s.mach.rc < s.mach.timers.get 0 (everyTpdo t) + wait → Gives (.tpdo t) s s.mach)) ∧
      (∀ code detail rest, s.mach.can.queue = (code, detail) :: rest →
        (∀ t, s.mach.can.lastEmcy = some t → t + 2500 * s.mach.obj 0x1015 0 ≤ s.mach.rc) → ∃ m, Gives .emcyInhibitExpiry s m ∧
          m.outbox = s.mach.outbox ++ [.can (leBytes 2 (0x80 + s.mach.obj 0x2101 1) ++ (leBytes 2 code ++ leBytes 1 s.mach.errReg ++ leBytes 4 detail))] ∧
          m.can.lastEmcy = some s.mach.rc ∧ m.obj 0x1003 1 = code + 2 ^ 16 * (detail % 2 ^ 16))) ∧
    (s.mach.canSends = false → Gives .heartbeat s s.mach ∧ Gives .emcyInhibitExpiry s s.mach) ∧
    (∀ t, s.mach.obj (0x1800 + t) 5 = 0 → Gives (.tpdo t) s s.mach) ∧
    (s.mach.online = true → ∀ c detail, c ≠ .hw → c ≠ .takeover →
      (c ∉ s.mach.can.active → ∃ m, Gives (.emcy c true detail) s m ∧ c ∈ m.can.active ∧ m.obj 0x200B 0 = emcyCode c + 2 ^ 16 * (detail % 2 ^ 16) ∧
        m.obj 0x200A 0 = min (s.mach.obj 0x200A 0 + 1) (2 ^ 32 - 1)) ∧
      (c ∈ s.mach.can.active → Gives (.emcy c true detail) s s.mach ∧ ∃ m, Gives (.emcy c false detail) s m ∧ c ∉ m.can.active)) ∧
    (s.mach.can.listen = false → s.mach.can.nmt ≠ 0 → ∃ m, Gives .busOffRecovery s m ∧ m.can.busOff = false ∧ m.obj 0x2101 3 = 0 ∧
      m.obj 0x2101 4 = 0 ∧ m.obj 0x2101 5 = min (s.mach.obj 0x2101 5 + 1) (2 ^ 32 - 1)))

/-- The loop-backs of the ports and of CAN: a depth that does not exist is out of range, one asked for by the path itself refused; a port in loop-back
is down, and trains when the loop-back is left or after 60 s; CAN test frames, every 10 ms at most, are counted, and lost ones again (R528, R529).
BAR2_ACCESS: outside the window, across stacks or into a stack it does not reach it is an Unsupported Request that changes nothing but the AER record
of the port; a read answers the bytes, or zeros with every uncorrectable unit counted; a write stores its bytes unless they are poisoned or their half
is uncorrectable, whose unit is counted once (R319). VECTOR_UNMASK sends a pending message. BAR2_WINDOW_BASE_WRITE takes an aligned base alone.
PORT_RESET clears mailbox, vectors and WBASE, and takes the link down unless it is an FLR; PERST_DEASSERT lets the port train (R328, R438 to R440,
R517). -/
def Obligations.HostPorts : Prop :=
  (∀ (s : State), s.mach.phase = .running →
    (∀ path x v seen, x < 2 → s.mach.serves path = true →
      let loop := v % 8
      let c : Instr := .pcieLoopBack path x v seen
      (3 < loop → Gives c s { s.mach with answer := ⟨0x06090030, []⟩ }) ∧
      (loop ≤ 3 → loop ≠ 0 → pathPort path = x → Gives c s { s.mach with answer := ⟨0x08000022, []⟩ }) ∧
      (loop ≤ 3 → loop ≠ 0 → pathPort path ≠ x → s.mach.looping x = false → ∃ m, Gives c s m ∧ m.answer = ⟨0, []⟩ ∧
        m.obj (0xA100 + x) 1 = loop ∧ m.loopSt x = (if loop = 3 then 1 else 2) ∧ (m.host x).up = false ∧ (m.host x).loopT0 = s.mach.rc ∧
        m.host (1 - x) = s.mach.host (1 - x)) ∧
      (loop = 0 → s.mach.obj (0xA100 + x) 1 ≠ 0 → s.mach.looping x = true → ∃ m, Gives c s m ∧ m.answer = ⟨0, []⟩ ∧ m.obj (0xA100 + x) 1 = 0 ∧
        m.loopSt x = 0 ∧ (m.host x).up = !(s.mach.host x).perst ∧
        m.obj (0xA100 + x) 3 = min (s.mach.obj (0xA100 + x) 3 + seen.errors) (2 ^ 64 - 1))) ∧
    (∀ x seen, x < 2 →
      (s.mach.looping x = false → Gives (.loopBackTimeout x seen) s s.mach) ∧
      (s.mach.looping x = true → 1500000000 ≤ s.mach.rc - (s.mach.host x).loopT0 → ∃ m, Gives (.loopBackTimeout x seen) s m ∧
        m.obj (0xA100 + x) 1 = 0 ∧ m.loopSt x = 0 ∧ (m.host x).up = !(s.mach.host x).perst) ∧
      (s.mach.loopSt x = 1 → s.mach.rc - (s.mach.host x).loopT0 < 1500000000 →
        (seen.entered = true → ∃ m, Gives (.loopBackTimeout x seen) s m ∧ m.loopSt x = 2) ∧
        (seen.entered = false → 2500000 ≤ s.mach.rc - (s.mach.host x).loopT0 → ∃ m, Gives (.loopBackTimeout x seen) s m ∧ m.loopSt x = 3 ∧
          m.obj (0xA100 + x) 1 = s.mach.obj (0xA100 + x) 1))) ∧
    (∀ path v, s.mach.serves path = true →
      (v % 4 = 3 → Gives (.canLoopBack path v) s { s.mach with answer := ⟨0x06090030, []⟩ }) ∧
      (v % 4 ≠ 3 → v % 4 ≠ 0 → path = .can → Gives (.canLoopBack path v) s { s.mach with answer := ⟨0x08000022, []⟩ }) ∧
      (v % 4 ≠ 3 → v % 4 = 0 ∨ path ≠ .can → ∃ m, Gives (.canLoopBack path v) s m ∧ m.answer = ⟨0, []⟩ ∧ m.obj 0xA200 1 = v % 4)) ∧
    (∀ seen, s.mach.obj 0xA200 1 ≠ 0 → s.mach.can.loopT0 + 1500000000 ≤ s.mach.rc → ∃ m, Gives (.loopBackTimeout 2 seen) s m ∧ m.obj 0xA200 1 = 0) ∧
    (∀ intact,
      let due : Prop := s.mach.timers.get 0 everyTest + 250000 ≤ s.mach.rc
      (¬ due → Gives (.canTestFrame intact) s s.mach) ∧
      (due → s.mach.obj 0xA200 1 = 0 → Gives (.canTestFrame intact) s { s.mach with timers := s.mach.timers.put everyTest s.mach.rc }) ∧
      (due → s.mach.obj 0xA200 1 ≠ 0 → ∃ m, Gives (.canTestFrame intact) s m ∧ m.obj 0xA200 2 = min (s.mach.obj 0xA200 2 + 1) (2 ^ 32 - 1) ∧
        m.obj 0xA200 3 = (if intact = true then s.mach.obj 0xA200 3 else min (s.mach.obj 0xA200 3 + 1) (2 ^ 32 - 1))))) ∧
  (∀ (s : State) (x : Nat), s.mach.phase = .running → x < 2 →
    let h := s.mach.host x
    (h.up = true →
      (∀ a : BarAcc,
        let key := h.wbase + a.off
        let stack := key / 2 ^ 35
        (s.mach.unsupported x a = true → Gives (.bar2Access x a) s { s.mach.report x .unsupported with answer := ⟨1, []⟩ }) ∧
        (s.mach.unsupported x a = false → a.write = false → s.mach.barLost stack key a.len = [] → ∃ m, Gives (.bar2Access x a) s m ∧
          m.answer = ⟨0, s.mach.rd key a.len⟩ ∧ m.mem = s.mach.mem ∧ m.bad = s.mach.bad) ∧
        (s.mach.unsupported x a = false → a.write = false → s.mach.barLost stack key a.len ≠ [] → ∃ m, Gives (.bar2Access x a) s m ∧
          m.answer = ⟨2, zeros a.len⟩ ∧ m.mem = s.mach.mem ∧
          m.obj (0x4100 + stack) 4 = min (s.mach.obj (0x4100 + stack) 4 + (s.mach.barLost stack key a.len).length) (2 ^ 64 - 1)) ∧
        (s.mach.unsupported x a = false → a.write = true → a.ep = false → s.mach.stackState stack = 6 → ∃ m, Gives (.bar2Access x a) s m ∧
          Stores [(key, padTo a.len a.data)] s.mach m ∧ m.answer = ⟨0, []⟩) ∧
        (s.mach.unsupported x a = false → a.write = true → a.ep = false → s.mach.stackState stack ≠ 6 →
          let ws := halves key (padTo a.len a.data)
          ∃ m, Gives (.bar2Access x a) s m ∧ Stores (ws.filter (fun w => (s.mach.badWrite [w]).isNone)) s.mach m ∧ m.answer = ⟨0, []⟩ ∧
            (a.data.length ≤ a.len → key / 64 = (key + a.len - 1) / 64 →
              m.obj (0x4100 + stack) 4 =
                min (s.mach.obj (0x4100 + stack) 4 + b2n (ws.any (fun w => (s.mach.badWrite [w]).isSome))) (2 ^ 64 - 1))) ∧
        (s.mach.unsupported x a = false → a.write = true → a.ep = true → ∃ m, Gives (.bar2Access x a) s m ∧ m.mem = s.mach.mem ∧ m.answer = ⟨0, []⟩)) ∧
      (∀ vec, vec < 2048 → ∃ m, Gives (.vectorUnmask x vec) s m ∧ vec ∈ (m.host x).unmasked ∧ vec ∉ (m.host x).pend ∧
        m.outbox = s.mach.outbox ++ (if vec ∈ h.pend then [.msix x vec] else []) ∧ m.host (1 - x) = s.mach.host (1 - x)) ∧
      (∀ v, v % 2 ^ 64 % h.bar2 = 0 → Gives (.bar2WindowBaseWrite x v) s (s.mach.setHost x { h with wbase := v % 2 ^ 64 })) ∧
      (∀ v, v % 2 ^ 64 % h.bar2 ≠ 0 → Gives (.bar2WindowBaseWrite x v) s s.mach)) ∧
    (h.up = false → ∀ c ∈ [Instr.bar2Access x ⟨false, false, 0, 64, []⟩, .vectorUnmask x 0, .bar2WindowBaseWrite x 0], Gives c s s.mach) ∧
    (∀ cause, ∃ m, Gives (.portReset x cause) s m ∧ (m.host x).unmasked = [] ∧ (m.host x).pend = [] ∧ (m.host x).wbase = 0 ∧
      (m.host x).busy = false ∧ (m.host x).latch = none ∧ (m.host x).part = none ∧ (m.host x).bar2 = h.bar2 ∧
      (m.host x).up = (decide (cause = .flr) && h.up) ∧ (m.host x).perst = (decide (cause = .perst) || h.perst) ∧
      m.host (1 - x) = s.mach.host (1 - x) ∧ m = { s.mach with hosts := m.hosts }) ∧
    (∀ trained, s.mach.looping x = false → Gives (.perstDeassert x trained) s (s.mach.setHost x { h with
      perst := false
      up := h.up || trained })))

/-- CAST_ON from MOD_EN low or from the module reset, REFCLK_QUALIFY and VIN_RETURN: with a supervisor, REFCLK and a master the module comes into
service with rc at 0, empty memories and no job, the cast-on counted in the store of every supervisor that lives; without REFCLK it waits, without a
supervisor it halts at step 2, without a master at step 4; VIN_48 out of range keeps it down. SHUTDOWN, VIN_OUT_OF_RANGE and MOD_RST_ASSERT end
service and keep the flash (R448, R514 to R516, R521, R526). -/
def Obligations.CastOns : Prop :=
  ∀ (s : State) (e : CastEnv),
    let sup : Prop := ∃ x, x < 2 ∧ x ∉ e.deadSup
    let seen := (([0, 1].filter (fun x => decide (x ∉ e.deadSup))).map (fun x => (s.mach.flash.store x).castOns)).foldl max 0
    let lock : Prop := e.maLock = true ∨ e.mbLock = true
    let starts (c : Instr) : Prop := ∃ m, Gives c s m ∧ m.mem = [] ∧ m.jobs = [] ∧ m.parts = [] ∧
      (∀ x, x < 2 → x ∉ e.deadSup → (m.flash.store x).castOns = seen + 1) ∧
      (¬ sup → m.phase = .halted 2) ∧ (sup → e.refclk = false → m.phase = .waiting) ∧ (sup → e.refclk = true → ¬ lock → m.phase = .halted 4) ∧
      (sup → e.refclk = true → lock → m.phase = .running ∧ m.rc = 0)
    let down (c : Instr) (ph : Phase) : Prop := ∃ m, Gives c s m ∧ m.phase = ph ∧ m.flash = s.mach.flash ∧ m.mem = [] ∧ m.jobs = [] ∧ m.parts = [] ∧
      m.cores = [] ∧ (m.host 0).perst = (s.mach.host 0).perst ∧ (m.host 1).perst = (s.mach.host 1).perst
    (s.mach.phase = .off → (vinGood e.tenMv = true → starts (.castOn e)) ∧
      (vinGood e.tenMv = false → Gives (.castOn e) s { s.mach with phase := .lowVin }) ∧ Gives .modRstAssert s s.mach) ∧
    (s.mach.phase = .held → starts (.castOn e)) ∧
    (s.mach.phase = .running → Gives (.castOn e) s s.mach ∧ Gives (.refclkQualify e) s s.mach ∧ down .modRstAssert .held ∧
      (∀ v, 3800 ≤ v → v ≤ 6200 → Gives (.vinOutOfRange v) s s.mach)) ∧
    (s.mach.phase = .waiting → ∃ m, Gives (.refclkQualify e) s m ∧ m.rc = 0 ∧ m.mem = s.mach.mem ∧ m.jobs = s.mach.jobs ∧
      (lock → m.phase = .running) ∧ (¬ lock → m.phase = .halted 4)) ∧
    (∀ v, s.mach.phase = .lowVin → (vinGood v = true → starts (.vinReturn v e)) ∧ (vinGood v = false → Gives (.vinReturn v e) s s.mach)) ∧
    down .shutdown .off ∧
    (∀ v, s.mach.phase ≠ .off → v < 3800 ∨ 6200 < v → down (.vinOutOfRange v) .lowVin)

/-- The test access port, powered from step 1 of cast-on: IDCODE shows 26402C55h and TAP_RESET selects it; BYPASS passes one bit; an instruction that
takes the pins does so only with the module in reset or in TEST boot mode, and elsewhere is counted in A000h.02 (R530 to R532). -/
def Obligations.TestAccess : Prop :=
  ∀ (s : State) (data : Nat),
    let pinRows : List (Instr × Nat) := [(.extest data, 3), (.clamp data, 4), (.highz data, 5), (.extestPulse data, 6), (.extestTrain data, 7)]
    let plain : List (Instr × Nat × Nat) := [(.idcode, 1, 0x26402C55), (.bypass data, 0xFF, data % 2)]
    (s.mach.tapOn = false → (∀ r ∈ pinRows, Gives r.1 s s.mach) ∧ (∀ r ∈ plain, Gives r.1 s s.mach) ∧ Gives .tapReset s s.mach ∧
      Gives (.samplePreload data) s s.mach) ∧
    (s.mach.tapOn = true →
      (∀ r ∈ pinRows, s.mach.pinsFree = true → ∃ m, Gives r.1 s m ∧ m.tap = ⟨r.2, data, true⟩ ∧ m.obj 0xA000 2 = s.mach.obj 0xA000 2 ∧
        m.mem = s.mach.mem ∧ m.jobs = s.mach.jobs) ∧
      (∀ r ∈ pinRows, s.mach.pinsFree = false → ∃ m, Gives r.1 s m ∧ m.tap = ⟨r.2, data, false⟩ ∧
        m.obj 0xA000 2 = min (s.mach.obj 0xA000 2 + 1) (2 ^ 32 - 1) ∧ m = { s.mach with
          tap := m.tap
          objs := m.objs }) ∧
      (∀ r ∈ plain, ∃ m, Gives r.1 s m ∧ m.tap = ⟨r.2.1, r.2.2, false⟩ ∧ m.outbox.getLast? = some (.tap r.2.2) ∧ m.mem = s.mach.mem ∧
        m.jobs = s.mach.jobs) ∧
      (∃ m, Gives .tapReset s m ∧ m.tap = ⟨1, 0, false⟩ ∧ m.mem = s.mach.mem ∧ m.jobs = s.mach.jobs) ∧
      (∃ m, Gives (.samplePreload data) s m ∧ m.tap = ⟨2, data, false⟩ ∧ m.mem = s.mach.mem ∧ m.jobs = s.mach.jobs))

/-- CENSUS_DUMP, CENSUS_CLEAR and CENSUS_DUMP_CLEAR: reserved bits are out of range, a free partition or a command under way refuses the write, slots
beyond 255 or a region that is not there end in ERROR; else the records of the slots are stored in order, the slots cleared where the command
clears, and BUSY shows until CENSUS_COMMAND_DONE; a read of the selected slot's record answers it and clears it with CLEAR_ON_READ (R71, Table
2-12). -/
def Obligations.CensusCommands : Prop :=
  ∀ (s : State) (p op start len : Nat), s.mach.phase = .running → p < 64 → s.mach.online = true → 1 ≤ op → op ≤ 3 → start < 256 → len < 256 →
    let i := 0x6100 + p
    let v := 2 ^ 16 * op + 256 * len + start
    let row (w : Nat) : Instr := if op = 1 then .censusDump p w else if op = 2 then .censusClear p w else .censusDumpClear p w
    let a := s.mach.obj i 2
    let slots := (List.range (len + 1)).map (start + ·)
    let there : Prop := start + len ≤ 255 ∧ (op ≠ 2 → a % 128 = 0 ∧ s.mach.holds p a (128 * (len + 1)) = true)
    Gives (row (v + 2 ^ 18)) s { s.mach with answer := ⟨0x06090030, []⟩ } ∧
    (s.mach.pstate p = 0 ∨ s.mach.objBit i 4 0 = true → Gives (row v) s { s.mach with answer := ⟨0x08000022, []⟩ }) ∧
    (s.mach.pstate p ≠ 0 → s.mach.objBit i 4 0 = false →
      (¬ there → ∃ m, Gives (row v) s m ∧ m.answer = ⟨0, []⟩ ∧ m.field i 4 2 0 = 4 ∧ m.census = s.mach.census ∧ m.mem = s.mach.mem ∧
        SameObjs [okey i 4] s.mach m) ∧
      (there → ∃ m, Gives (row v) s m ∧ m.answer = ⟨0, []⟩ ∧ m.field i 4 2 0 = 1 ∧
        SameObjs [okey i 4, okey (0x4100 + a / 2 ^ 35) 2] s.mach m ∧
        (op = 2 → m.mem = s.mach.mem) ∧ (op ≠ 2 → Stores [(a, slots.flatMap (s.mach.censusRecord p))] s.mach m) ∧
        (op = 1 → m.census = s.mach.census) ∧
        (op ≠ 1 → ∀ t n, t < 256 → n < 16 → m.census.get 0 (censusKey p t n) =
          if t ∈ slots then 0 else s.mach.census.get 0 (censusKey p t n)))) ∧
    (s.mach.objBit i 4 0 = true → ∃ m, Gives (.censusCommandDone p) s m ∧ m.field i 4 2 0 = 2 ∧ m = { s.mach with objs := m.objs } ∧
      SameObjs [okey i 4] s.mach m) ∧
    (s.mach.objBit i 4 0 = false → Gives (.censusCommandDone p) s s.mach) ∧
    (let t := s.mach.obj i 7
     ∃ m, Gives (.selectedSlotRecordRead p) s m ∧ m.answer = ⟨0, s.mach.censusRecord p t⟩ ∧ m.mem = s.mach.mem ∧ m.objs = s.mach.objs ∧
      (s.mach.objBit i 1 1 = false → m.census = s.mach.census) ∧
      (s.mach.objBit i 1 1 = true → t < 256 → ∀ n, n < 16 → m.census.get 0 (censusKey p t n) = 0))

/-- The module right after a cast-on: every partition is free with no job, save, pricking or guest, every client is unbound with empty rings, and its
doorbells change nothing; the partition and client objects hold their defaults; every marker reads 0 and every core is halted with registers 0
(R415, R109, R150). -/
def Obligations.AfterCastOn : Prop :=
  let m := State.reset.mach
  m.jobs = [] ∧ (∀ p, p < 64 → m.pstate p = 0 ∧ (m.part p).saves = [] ∧ (m.part p).resident = none ∧ (m.part p).guest = none) ∧
  (∀ n, n < 512 → m.clientPart n = none ∧ m.sqHead n = 0 ∧ m.sqTail n = 0 ∧ m.cqHead n = 0 ∧ m.cqTail n = 0 ∧
    ∀ v, Gives (.sqTail n v) State.reset m ∧ Gives (.cqHead n v) State.reset m ∧ Gives (.cancel n v) State.reset m) ∧
  (∀ idx sub, 0x3000 ≤ idx → idx < 0x4000 → sub < 256 → m.obj idx sub = objReset (okey idx sub)) ∧
  (∀ k, m.markers.get 0 k = 0) ∧ (∀ c, (m.core c).host = Ctx.init ∧ (m.core c).guest = Ctx.init)

/-- The invariant holds at reset. -/
def Obligations.InvReset : Prop :=
 State.reset.Inv

/-- Every step keeps the memory of the module in canonical form, whatever command is at the front of the queue. -/
def Obligations.InvStep : Prop :=
 ∀ s t : State, s.Inv → step s = .next t → t.Inv
end

