-- ==== Sys2Proof/Laws/Bits.lean ====
section
/-! SUPPORT. The laws of bit fields and of little-endian strings of bytes. -/

namespace Sys2Proof.Machine

@[simp] theorem length_leBytes (n v : Nat) : (leBytes n v).length = n := by
  induction n generalizing v with
  | zero => rfl
  | succ n ih => simp [leBytes, ih]

@[simp] theorem leNat_leBytes (n v : Nat) : leNat (leBytes n v) = v % 2 ^ (8 * n) := by
  induction n generalizing v with
  | zero => simp [leBytes, leNat, Nat.mod_one]
  | succ n ih =>
    simp only [leBytes, leNat, ih, BitVec.toNat_ofNat]
    have e : 2 ^ (8 * (n + 1)) = 256 * 2 ^ (8 * n) := by ring
    rw [e, Nat.mod_mul]

theorem leNat_lt (bs : List Byte) : leNat bs < 2 ^ (8 * bs.length) := by
  induction bs with
  | nil => simp [leNat]
  | cons b t ih =>
    have hb := b.isLt
    have e : 2 ^ (8 * (b :: t).length) = 256 * 2 ^ (8 * t.length) := by
      simp only [List.length_cons]; ring
    simp only [leNat]
    omega

/-- A field reads what was put into it. -/
@[simp] theorem fld_setFld_same (w hi lo v : Nat) (h : lo ≤ hi) : fld (setFld w hi lo v) hi lo = v % 2 ^ (hi + 1 - lo) := by
  apply Nat.eq_of_testBit_eq
  intro i
  simp only [fld, setFld, Nat.testBit_mod_two_pow, Nat.testBit_shiftRight]
  have hsplit : (w >>> (hi + 1)) <<< (hi + 1) + (v % 2 ^ (hi + 1 - lo)) <<< lo + w % 2 ^ lo =
      2 ^ lo * (2 ^ (hi + 1 - lo) * (w >>> (hi + 1)) + v % 2 ^ (hi + 1 - lo)) + w % 2 ^ lo := by
    simp only [Nat.shiftLeft_eq]
    have : 2 ^ (hi + 1) = 2 ^ lo * 2 ^ (hi + 1 - lo) := by rw [← pow_add]; congr 1; omega
    rw [this]; ring
  rw [hsplit, Nat.testBit_two_pow_mul_add _ (Nat.mod_lt _ (Nat.two_pow_pos lo))]
  simp only [show ¬ lo + i < lo by omega, if_false, show lo + i - lo = i by omega]
  by_cases hi' : i < hi + 1 - lo
  · rw [Nat.testBit_two_pow_mul_add _ (Nat.mod_lt _ (Nat.two_pow_pos _))]
    simp [hi', Nat.testBit_mod_two_pow]
  · simp [hi']

/-- Bit `i` of a word whose field [hi:lo] has been replaced. -/
theorem testBit_setFld (w hi lo v i : Nat) (h : lo ≤ hi) :
    (setFld w hi lo v).testBit i = if lo ≤ i ∧ i ≤ hi then v.testBit (i - lo) else w.testBit i := by
  have hsplit : setFld w hi lo v = 2 ^ lo * (2 ^ (hi + 1 - lo) * (w >>> (hi + 1)) + v % 2 ^ (hi + 1 - lo)) + w % 2 ^ lo := by
    simp only [setFld, Nat.shiftLeft_eq]
    have : 2 ^ (hi + 1) = 2 ^ lo * 2 ^ (hi + 1 - lo) := by rw [← pow_add]; congr 1; omega
    rw [this]; ring
  rw [hsplit, Nat.testBit_two_pow_mul_add _ (Nat.mod_lt _ (Nat.two_pow_pos lo))]
  by_cases h1 : i < lo
  · simp [h1, Nat.testBit_mod_two_pow, show ¬ lo ≤ i by omega]
  · simp only [h1, if_false]
    rw [Nat.testBit_two_pow_mul_add _ (Nat.mod_lt _ (Nat.two_pow_pos _))]
    by_cases h2 : i - lo < hi + 1 - lo
    · have : lo ≤ i ∧ i ≤ hi := by omega
      simp [h2, this, Nat.testBit_mod_two_pow]
    · have : ¬ (lo ≤ i ∧ i ≤ hi) := by omega
      simp only [h2, this, if_false, Nat.testBit_shiftRight]
      congr 1; omega

theorem bit_eq_testBit (w i : Nat) : bit w i = w.testBit i := by
  simp [bit, Nat.testBit_eq_decide_div_mod_eq, Nat.shiftRight_eq_div_pow]

theorem fld_eq_of_testBit {w w' hi lo : Nat} (h : ∀ i, lo ≤ i → i ≤ hi → w.testBit i = w'.testBit i) : fld w hi lo = fld w' hi lo := by
  apply Nat.eq_of_testBit_eq
  intro i
  simp only [fld, Nat.testBit_mod_two_pow, Nat.testBit_shiftRight]
  by_cases hi' : i < hi + 1 - lo
  · simp only [hi', decide_true, Bool.true_and]; exact h _ (by omega) (by omega)
  · simp [hi']

/-- A field apart from the one replaced keeps its value. -/
theorem fld_setFld_apart (w hi lo v hi' lo' : Nat) (h : lo ≤ hi) (ha : hi < lo' ∨ hi' < lo) :
    fld (setFld w hi lo v) hi' lo' = fld w hi' lo' := by
  apply fld_eq_of_testBit
  intro i h1 h2
  rw [testBit_setFld _ _ _ _ _ h, if_neg (by omega)]

@[simp] theorem bit_setBit_same (w i : Nat) (b : Bool) : bit (setBit w i b) i = b := by
  rw [bit_eq_testBit, setBit, testBit_setFld _ _ _ _ _ (le_refl i)]
  cases b <;> simp [b2n]

theorem bit_setBit_other (w i j : Nat) (b : Bool) (h : i ≠ j) : bit (setBit w i b) j = bit w j := by
  rw [bit_eq_testBit, setBit, testBit_setFld _ _ _ _ _ (le_refl i), if_neg (by omega), bit_eq_testBit]

end Sys2Proof.Machine
end

