-- ==== Sys2Proof/Laws/Maps.lean ====
section
/-! SUPPORT. The laws of tables by number: what an entry reads after a table has changed. -/

namespace Sys2Proof.Machine

variable {α : Type}

@[simp] theorem AMap.get_nil (d : α) (k : Nat) : AMap.get d k [] = d := rfl

@[simp] theorem AMap.get?_nil (k : Nat) : AMap.get? k ([] : AMap α) = none := rfl

theorem AMap.get_eq (d : α) (k : Nat) (m : AMap α) : AMap.get d k m = (AMap.get? k m).getD d := by
  induction m with
  | nil => rfl
  | cons e t ih =>
    obtain ⟨a, x⟩ := e
    simp only [AMap.get, AMap.get?]
    split <;> simp_all

theorem AMap.get?_put (k j : Nat) (v : α) (m : AMap α) : (AMap.put k v m).get? j = if k = j then some v else m.get? j := by
  induction m with
  | nil => simp [AMap.put, AMap.get?]
  | cons e t ih =>
    obtain ⟨a, x⟩ := e
    simp only [AMap.put]
    split
    · subst_vars; simp only [AMap.get?]; split <;> rfl
    · rename_i h
      simp only [AMap.get?, ih]
      split
      · subst_vars
        rw [if_neg (fun e => h e.symm)]
      · rfl

theorem AMap.get_put (d : α) (k j : Nat) (v : α) (m : AMap α) : (AMap.put k v m).get d j = if k = j then v else m.get d j := by
  rw [AMap.get_eq, AMap.get?_put, AMap.get_eq]
  split <;> rfl

@[simp] theorem AMap.get_put_same (d : α) (k : Nat) (v : α) (m : AMap α) : (AMap.put k v m).get d k = v := by
  simp [AMap.get_put]

@[simp] theorem AMap.get?_put_same (k : Nat) (v : α) (m : AMap α) : (AMap.put k v m).get? k = some v := by
  simp [AMap.get?_put]

theorem AMap.get_put_other (d : α) {k j : Nat} (h : k ≠ j) (v : α) (m : AMap α) : (AMap.put k v m).get d j = m.get d j := by
  simp [AMap.get_put, h]

theorem AMap.get?_put_other {k j : Nat} (h : k ≠ j) (v : α) (m : AMap α) : (AMap.put k v m).get? j = m.get? j := by
  simp [AMap.get?_put, h]

theorem AMap.get?_delIf (p : Nat → Bool) (j : Nat) (m : AMap α) : (AMap.delIf p m).get? j = if p j then none else m.get? j := by
  induction m with
  | nil => simp [AMap.delIf]
  | cons e t ih =>
    obtain ⟨a, x⟩ := e
    simp only [AMap.delIf, List.filter_cons] at ih ⊢
    by_cases hp : p a = true
    · simp only [hp, Bool.not_true, Bool.false_eq_true, if_false, ih, AMap.get?]
      by_cases haj : a = j
      · subst haj; simp [hp]
      · simp [haj]
    · simp only [Bool.not_eq_true] at hp
      simp only [hp, Bool.not_false, if_true, AMap.get?, ih]
      by_cases haj : a = j
      · subst haj; simp [hp]
      · simp [haj]

theorem AMap.get?_del (k j : Nat) (m : AMap α) : (AMap.del k m).get? j = if k = j then none else m.get? j := by
  have h := AMap.get?_delIf (fun a => decide (a = k)) j m
  have e : AMap.delIf (fun a => decide (a = k)) m = AMap.del k m := by
    simp [AMap.delIf, AMap.del]
  rw [e] at h
  rw [h]
  by_cases hk : k = j
  · subst hk; simp
  · have hk' : ¬ j = k := fun x => hk x.symm
    simp [hk, hk']

@[simp] theorem AMap.get?_del_same (k : Nat) (m : AMap α) : (AMap.del k m).get? k = none := by simp [AMap.get?_del]

theorem AMap.get?_del_other {k j : Nat} (h : k ≠ j) (m : AMap α) : (AMap.del k m).get? j = m.get? j := by
  simp [AMap.get?_del, h]

end Sys2Proof.Machine
end

