-- ==== Sys2Proof/Laws/Mem.lean ====
section
/-! SUPPORT. The laws of memory: every operation keeps the canonical form, a read gives what was written, and other bytes keep their values. -/

namespace Sys2Proof.Machine

/-- Canonical form, as order and values. -/
theorem Mem.wf_iff (m : List Host.Cell) : Mem.wf m = true ↔ m.Pairwise (fun a b => a.1 < b.1) ∧ ∀ c ∈ m, c.2 ≠ 0 := by
  induction m with
  | nil => simp [Mem.wf]
  | cons c t ih =>
    obtain ⟨k, v⟩ := c
    cases t with
    | nil => simp [Mem.wf]
    | cons c' t' =>
      obtain ⟨k', v'⟩ := c'
      simp only [Mem.wf, Bool.and_eq_true, bne_iff_ne, decide_eq_true_eq, ih, List.pairwise_cons, List.mem_cons, forall_eq_or_imp]
      constructor
      · rintro ⟨⟨hv, hk⟩, ⟨hp, hr⟩, hv', hvs⟩
        exact ⟨⟨⟨hk, fun a ha => lt_trans hk (hp a ha)⟩, hp, hr⟩, hv, hv', hvs⟩
      · rintro ⟨⟨⟨hk, -⟩, hp, hr⟩, hv, hv', hvs⟩
        exact ⟨⟨hv, hk⟩, ⟨hp, hr⟩, hv', hvs⟩

@[simp] theorem Mem.wf_nil : Mem.wf [] = true := rfl

/-- Lists joined at keys that rise are in canonical form. -/
theorem Mem.wf_append {x y : List Host.Cell} (hx : Mem.wf x = true) (hy : Mem.wf y = true) (h : ∀ a ∈ x, ∀ b ∈ y, a.1 < b.1) :
    Mem.wf (x ++ y) = true := by
  rw [Mem.wf_iff] at *
  refine ⟨List.pairwise_append.2 ⟨hx.1, hy.1, h⟩, ?_⟩
  intro c hc
  rcases List.mem_append.1 hc with hc | hc
  · exact hx.2 c hc
  · exact hy.2 c hc

theorem Mem.wf_sublist {x y : List Host.Cell} (h : x.Sublist y) (hy : Mem.wf y = true) : Mem.wf x = true := by
  rw [Mem.wf_iff] at *
  exact ⟨hy.1.sublist h, fun c hc => hy.2 c (h.subset hc)⟩

theorem Mem.lt_of_mem_takeWhile {m : List Host.Cell} {a : Nat} {c : Host.Cell} (h : c ∈ m.takeWhile (fun c => c.1 < a)) : c.1 < a := by
  simpa using List.mem_takeWhile_imp h

theorem Mem.le_of_mem_dropWhile {m : List Host.Cell} (hm : Mem.wf m = true) {a : Nat} {c : Host.Cell}
    (h : c ∈ m.dropWhile (fun c => c.1 < a)) : a ≤ c.1 := by
  induction m with
  | nil => simp at h
  | cons d t ih =>
    have ht : Mem.wf t = true := Mem.wf_sublist (List.sublist_cons_self d t) hm
    by_cases hd : d.1 < a
    · rw [List.dropWhile_cons_of_pos (by simpa using hd)] at h
      exact ih ht h
    · rw [List.dropWhile_cons_of_neg (by simpa using hd)] at h
      rcases List.mem_cons.1 h with rfl | h
      · omega
      · have := (List.pairwise_cons.1 ((Mem.wf_iff _).1 hm).1).1 c h
        omega

theorem Mem.mem_cells {a : Nat} {bs : List Byte} {c : Host.Cell} (h : c ∈ Mem.cells a bs) : a ≤ c.1 ∧ c.1 < a + bs.length ∧ c.2 ≠ 0 := by
  induction bs generalizing a with
  | nil => simp [Mem.cells] at h
  | cons b t ih =>
    simp only [Mem.cells] at h
    split at h
    · obtain ⟨h1, h2, h3⟩ := ih h
      simp only [List.length_cons]; exact ⟨by omega, by omega, h3⟩
    · rcases List.mem_cons.1 h with rfl | h
      · rename_i hb
        simp only [List.length_cons]; exact ⟨le_refl _, by omega, hb⟩
      · obtain ⟨h1, h2, h3⟩ := ih h
        simp only [List.length_cons]; exact ⟨by omega, by omega, h3⟩

theorem Mem.wf_cells (a : Nat) (bs : List Byte) : Mem.wf (Mem.cells a bs) = true := by
  induction bs generalizing a with
  | nil => rfl
  | cons b t ih =>
    simp only [Mem.cells]
    split
    · exact ih _
    · rename_i hb
      rw [Mem.wf_iff, List.pairwise_cons]
      refine ⟨⟨fun c hc => ?_, ((Mem.wf_iff _).1 (ih _)).1⟩, fun c hc => ?_⟩
      · have := (Mem.mem_cells hc).1; simp only; omega
      · rcases List.mem_cons.1 hc with rfl | hc
        · exact hb
        · exact (Mem.mem_cells hc).2.2

/-- New entries between those below `a` and those from `b` on keep the canonical form. -/
theorem Mem.wf_splice {m x : List Host.Cell} {a b : Nat} (hm : Mem.wf m = true) (hx : Mem.wf x = true) (hab : a ≤ b)
    (hk : ∀ c ∈ x, a ≤ c.1 ∧ c.1 < b) : Mem.wf (m.takeWhile (fun c => c.1 < a) ++ x ++ m.dropWhile (fun c => c.1 < b)) = true := by
  refine Mem.wf_append (Mem.wf_append (Mem.wf_sublist (List.takeWhile_sublist _) hm) hx ?_)
    (Mem.wf_sublist (List.dropWhile_sublist _) hm) ?_
  · intro c hc d hd
    have := Mem.lt_of_mem_takeWhile hc
    have := (hk d hd).1
    omega
  · intro c hc d hd
    have h1 := Mem.le_of_mem_dropWhile hm hd
    rcases List.mem_append.1 hc with hc | hc
    · have := Mem.lt_of_mem_takeWhile hc; omega
    · have := (hk c hc).2; omega

/-- A write keeps the canonical form. -/
theorem Mem.wf_write {m : List Host.Cell} (hm : Mem.wf m = true) (a : Nat) (bs : List Byte) : Mem.wf (Mem.write m a bs) = true :=
  Mem.wf_splice hm (Mem.wf_cells a bs) (by omega) (fun _ hc => ⟨(Mem.mem_cells hc).1, (Mem.mem_cells hc).2.1⟩)

/-- Writing zeros keeps the canonical form. -/
theorem Mem.wf_zero {m : List Host.Cell} (hm : Mem.wf m = true) (a n : Nat) : Mem.wf (Mem.zero m a n) = true := by
  have := Mem.wf_splice (x := []) (a := a) (b := a + n) hm rfl (by omega) (by simp)
  simpa [Mem.zero] using this

/-- A copy keeps the canonical form. -/
theorem Mem.wf_copy {m : List Host.Cell} (hm : Mem.wf m = true) (s d n : Nat) : Mem.wf (Mem.copy m s d n) = true := by
  refine Mem.wf_splice (b := d + n) hm ?_ (by omega) ?_
  · rw [Mem.wf_iff]
    refine ⟨?_, ?_⟩
    · rw [List.pairwise_map]
      refine List.Pairwise.imp_of_mem ?_ (((Mem.wf_iff m).1 hm).1.sublist List.filter_sublist)
      intro x y hx hy hxy
      have h1 := (List.mem_filter.1 hx).2
      have h2 := (List.mem_filter.1 hy).2
      simp only [Bool.and_eq_true, decide_eq_true_eq] at h1 h2
      simp only; omega
    · intro c hc
      obtain ⟨e, he, rfl⟩ := List.mem_map.1 hc
      exact ((Mem.wf_iff m).1 hm).2 e (List.mem_filter.1 he).1
  · intro c hc
    obtain ⟨e, he, rfl⟩ := List.mem_map.1 hc
    have h1 := (List.mem_filter.1 he).2
    simp only [Bool.and_eq_true, decide_eq_true_eq] at h1
    simp only; omega

/-! ## What a byte reads -/

theorem Mem.read1_of_mem {m : List Host.Cell} (hm : Mem.wf m = true) {c : Host.Cell} (h : c ∈ m) : Mem.read1 m c.1 = c.2 := by
  induction m with
  | nil => simp at h
  | cons e t ih =>
    obtain ⟨k, v⟩ := e
    have ht : Mem.wf t = true := Mem.wf_sublist (List.sublist_cons_self _ t) hm
    rcases List.mem_cons.1 h with rfl | h
    · simp [Mem.read1]
    · have := (List.pairwise_cons.1 ((Mem.wf_iff _).1 hm).1).1 c h
      simp only [Mem.read1]
      rw [if_neg (by simp only at this; omega)]
      exact ih ht h

theorem Mem.read1_of_no_key {m : List Host.Cell} {a : Nat} (h : ∀ c ∈ m, c.1 ≠ a) : Mem.read1 m a = 0 := by
  induction m with
  | nil => rfl
  | cons e t ih =>
    obtain ⟨k, v⟩ := e
    simp only [Mem.read1]
    rw [if_neg (h (k, v) List.mem_cons_self)]
    exact ih (fun c hc => h c (List.mem_cons_of_mem _ hc))

/-- A byte that reads other than 0 is listed. -/
theorem Mem.mem_of_read1 {m : List Host.Cell} {a : Nat} (h : Mem.read1 m a ≠ 0) : (a, Mem.read1 m a) ∈ m := by
  induction m with
  | nil => simp [Mem.read1] at h
  | cons e t ih =>
    obtain ⟨k, v⟩ := e
    simp only [Mem.read1] at h ⊢
    split
    · subst_vars; exact List.mem_cons_self
    · rename_i hk
      rw [if_neg hk] at h
      exact List.mem_cons_of_mem _ (ih h)

/-- Memories in canonical form that read alike are equal. -/
theorem Mem.eq_of_read1 {m m' : List Host.Cell} (hm : Mem.wf m = true) (hm' : Mem.wf m' = true) (h : ∀ a, Mem.read1 m a = Mem.read1 m' a) :
    m = m' := by
  have key : ∀ {x y : List Host.Cell}, Mem.wf x = true → (∀ a, Mem.read1 x a = Mem.read1 y a) → x ⊆ y := by
    intro x y hx hr c hc
    have e := Mem.read1_of_mem hx hc
    have hne : Mem.read1 y c.1 ≠ 0 := by rw [← hr, e]; exact ((Mem.wf_iff x).1 hx).2 c hc
    have := Mem.mem_of_read1 hne
    rwa [← hr, e] at this
  have p := ((Mem.wf_iff m).1 hm).1
  have p' := ((Mem.wf_iff m').1 hm').1
  have nd : ∀ {x : List Host.Cell}, x.Pairwise (fun a b => a.1 < b.1) → x.Nodup := fun hp =>
    hp.imp (fun hab e => by rw [e] at hab; exact lt_irrefl _ hab)
  refine List.Perm.eq_of_pairwise (le := fun a b : Host.Cell => a.1 < b.1) ?_ p p'
    ((List.perm_ext_iff_of_nodup (nd p) (nd p')).2 (fun c => ⟨fun hc => key hm h hc, fun hc => key hm' (fun a => (h a).symm) hc⟩))
  intro a b _ _ h1 h2
  omega

theorem Mem.read1_append {x y : List Host.Cell} (hx : ∀ c ∈ x, c.2 ≠ 0) (a : Nat) :
    Mem.read1 (x ++ y) a = if Mem.read1 x a = 0 then Mem.read1 y a else Mem.read1 x a := by
  induction x with
  | nil => simp [Mem.read1]
  | cons e t ih =>
    obtain ⟨k, v⟩ := e
    have hv : v ≠ 0 := hx (k, v) List.mem_cons_self
    have ht := ih (fun c hc => hx c (List.mem_cons_of_mem _ hc))
    by_cases hk : k = a
    · have e1 : Mem.read1 ((k, v) :: t) a = v := if_pos hk
      have e2 : Mem.read1 ((k, v) :: t ++ y) a = v := if_pos hk
      rw [e1, e2, if_neg hv]
    · have e1 : Mem.read1 ((k, v) :: t) a = Mem.read1 t a := if_neg hk
      have e2 : Mem.read1 ((k, v) :: t ++ y) a = Mem.read1 (t ++ y) a := if_neg hk
      rw [e1, e2, ht]

theorem Mem.read1_takeWhile {m : List Host.Cell} (hm : Mem.wf m = true) (a x : Nat) :
    Mem.read1 (m.takeWhile (fun c => c.1 < a)) x = if x < a then Mem.read1 m x else 0 := by
  have hw : Mem.wf (m.takeWhile (fun c => c.1 < a)) = true := Mem.wf_sublist (List.takeWhile_sublist _) hm
  split
  · rename_i hx
    have e : m = m.takeWhile (fun c => c.1 < a) ++ m.dropWhile (fun c => c.1 < a) := (List.takeWhile_append_dropWhile).symm
    conv_rhs => rw [e]
    rw [Mem.read1_append ((Mem.wf_iff _).1 hw).2]
    split
    · rename_i h0
      rw [h0, Mem.read1_of_no_key (fun c hc he => by have := Mem.le_of_mem_dropWhile hm hc; omega)]
    · rfl
  · exact Mem.read1_of_no_key (fun c hc he => by have := Mem.lt_of_mem_takeWhile hc; omega)

theorem Mem.read1_dropWhile {m : List Host.Cell} (hm : Mem.wf m = true) (a x : Nat) :
    Mem.read1 (m.dropWhile (fun c => c.1 < a)) x = if x < a then 0 else Mem.read1 m x := by
  split
  · exact Mem.read1_of_no_key (fun c hc he => by have := Mem.le_of_mem_dropWhile hm hc; omega)
  · rename_i hx
    have hw : Mem.wf (m.takeWhile (fun c => c.1 < a)) = true := Mem.wf_sublist (List.takeWhile_sublist _) hm
    have e : m = m.takeWhile (fun c => c.1 < a) ++ m.dropWhile (fun c => c.1 < a) := (List.takeWhile_append_dropWhile).symm
    conv_rhs => rw [e]
    rw [Mem.read1_append ((Mem.wf_iff _).1 hw).2, Mem.read1_takeWhile hm, if_neg hx, if_pos rfl]

theorem Mem.read1_cells (a : Nat) (bs : List Byte) (x : Nat) :
    Mem.read1 (Mem.cells a bs) x = if a ≤ x then bs.getD (x - a) 0 else 0 := by
  induction bs generalizing a with
  | nil => simp [Mem.cells, Mem.read1]
  | cons b t ih =>
    have hc : Mem.read1 (Mem.cells a (b :: t)) x = if a = x then b else Mem.read1 (Mem.cells (a + 1) t) x := by
      simp only [Mem.cells]
      split
      · rename_i hb
        split
        · rename_i hax
          rw [hb]
          exact Mem.read1_of_no_key (fun c hc he => by have := (Mem.mem_cells hc).1; omega)
        · rfl
      · simp only [Mem.read1]
    rw [hc, ih]
    by_cases h1 : a = x
    · subst h1; simp
    · by_cases h2 : a ≤ x
      · obtain ⟨d, rfl⟩ : ∃ d, x = a + 1 + d := ⟨x - a - 1, by omega⟩
        simp only [h1, if_false, show a + 1 ≤ a + 1 + d by omega, if_true, show a ≤ a + 1 + d by omega,
          show a + 1 + d - (a + 1) = d by omega, show a + 1 + d - a = d + 1 by omega, List.getD_cons_succ]
      · simp [h1, h2, show ¬ a + 1 ≤ x by omega]

/-- A byte after a splice of new entries into a range. -/
theorem Mem.read1_splice {m x : List Host.Cell} {a b : Nat} (hm : Mem.wf m = true) (hw : Mem.wf x = true) (hab : a ≤ b)
    (hk : ∀ c ∈ x, a ≤ c.1 ∧ c.1 < b) (i : Nat) :
    Mem.read1 (m.takeWhile (fun c => c.1 < a) ++ x ++ m.dropWhile (fun c => c.1 < b)) i =
      if a ≤ i ∧ i < b then Mem.read1 x i else Mem.read1 m i := by
  have hv : ∀ c ∈ m.takeWhile (fun c => c.1 < a) ++ x, c.2 ≠ 0 := by
    intro c hc
    rcases List.mem_append.1 hc with hc | hc
    · exact ((Mem.wf_iff m).1 hm).2 c ((List.takeWhile_sublist _).subset hc)
    · exact ((Mem.wf_iff x).1 hw).2 c hc
  have hx : ¬ (a ≤ i ∧ i < b) → Mem.read1 x i = 0 := fun hn =>
    Mem.read1_of_no_key (fun c hc he => by have := hk c hc; omega)
  rw [Mem.read1_append hv, Mem.read1_append (fun c hc => hv c (List.mem_append_left _ hc)), Mem.read1_takeWhile hm, Mem.read1_dropWhile hm]
  by_cases h1 : i < a
  · have h2 : i < b := by omega
    have h3 : ¬ (a ≤ i ∧ i < b) := by omega
    rw [hx h3, if_pos h1, if_neg h3, if_pos h2]
    by_cases h : Mem.read1 m i = 0
    · rw [if_pos h, if_pos rfl, h]
    · rw [if_neg h, if_neg h]
  · rw [if_neg h1, if_pos rfl]
    by_cases h2 : i < b
    · have h3 : a ≤ i ∧ i < b := by omega
      rw [if_pos h2, if_pos h3]
      by_cases h : Mem.read1 x i = 0
      · rw [if_pos h, h]
      · rw [if_neg h]
    · have h3 : ¬ (a ≤ i ∧ i < b) := by omega
      rw [hx h3, if_pos rfl, if_neg h2, if_neg h3]

/-- A byte after a write: the byte written there, else what it was. -/
theorem Mem.read1_write {m : List Host.Cell} (hm : Mem.wf m = true) (a : Nat) (bs : List Byte) (x : Nat) :
    Mem.read1 (Mem.write m a bs) x = if a ≤ x ∧ x < a + bs.length then bs.getD (x - a) 0 else Mem.read1 m x := by
  rw [Mem.write, Mem.read1_splice hm (Mem.wf_cells a bs) (by omega) (fun _ hc => ⟨(Mem.mem_cells hc).1, (Mem.mem_cells hc).2.1⟩), Mem.read1_cells]
  split
  · rename_i h; rw [if_pos h.1]
  · rfl

theorem Mem.read1_zero {m : List Host.Cell} (hm : Mem.wf m = true) (a n x : Nat) :
    Mem.read1 (Mem.zero m a n) x = if a ≤ x ∧ x < a + n then 0 else Mem.read1 m x := by
  have := Mem.read1_splice (x := []) (a := a) (b := a + n) hm rfl (by omega) (by simp) x
  simpa [Mem.zero, Mem.read1] using this

/-- A byte after a copy. -/
theorem Mem.read1_copy {m : List Host.Cell} (hm : Mem.wf m = true) (s d n x : Nat) :
    Mem.read1 (Mem.copy m s d n) x = if d ≤ x ∧ x < d + n then Mem.read1 m (x - d + s) else Mem.read1 m x := by
  have hk : ∀ c ∈ (m.filter (fun c => s ≤ c.1 && c.1 < s + n)).map (fun c => (c.1 - s + d, c.2)), d ≤ c.1 ∧ c.1 < d + n := by
    intro c hc
    obtain ⟨e, he, rfl⟩ := List.mem_map.1 hc
    have h1 := (List.mem_filter.1 he).2
    simp only [Bool.and_eq_true, decide_eq_true_eq] at h1
    simp only; omega
  have hw : Mem.wf ((m.filter (fun c => s ≤ c.1 && c.1 < s + n)).map (fun c => (c.1 - s + d, c.2))) = true := by
    rw [Mem.wf_iff]
    refine ⟨?_, ?_⟩
    · rw [List.pairwise_map]
      refine List.Pairwise.imp_of_mem ?_ (((Mem.wf_iff m).1 hm).1.sublist List.filter_sublist)
      intro x y hx hy hxy
      have h1 := (List.mem_filter.1 hx).2
      have h2 := (List.mem_filter.1 hy).2
      simp only [Bool.and_eq_true, decide_eq_true_eq] at h1 h2
      simp only; omega
    · intro c hc
      obtain ⟨e, he, rfl⟩ := List.mem_map.1 hc
      exact ((Mem.wf_iff m).1 hm).2 e (List.mem_filter.1 he).1
  rw [Mem.copy, Mem.read1_splice hm hw (by omega) hk]
  split
  · rename_i h
    by_cases h0 : Mem.read1 m (x - d + s) = 0
    · rw [h0]
      refine Mem.read1_of_no_key (fun c hc he => ?_)
      obtain ⟨e, hem, rfl⟩ := List.mem_map.1 hc
      have h1 := List.mem_filter.1 hem
      simp only [Bool.and_eq_true, decide_eq_true_eq] at h1
      simp only at he
      have : e.1 = x - d + s := by omega
      have hr := Mem.read1_of_mem hm h1.1
      rw [this, h0] at hr
      exact ((Mem.wf_iff m).1 hm).2 e h1.1 hr.symm
    · have hmem := Mem.mem_of_read1 h0
      have hin : ((x, Mem.read1 m (x - d + s)) : Host.Cell) ∈
          (m.filter (fun c => s ≤ c.1 && c.1 < s + n)).map (fun c => (c.1 - s + d, c.2)) := by
        refine List.mem_map.2 ⟨_, List.mem_filter.2 ⟨hmem, ?_⟩, ?_⟩
        · simp only [Bool.and_eq_true, decide_eq_true_eq]; omega
        · simp only [Prod.mk.injEq, and_true]; omega
      exact Mem.read1_of_mem hw hin
  · rfl

/-! ## What a range reads -/

theorem Mem.readFrom_eq {m : List Host.Cell} (hm : Mem.wf m = true) (n a : Nat) (h : ∀ c ∈ m, a ≤ c.1) :
    Mem.readFrom n m a = (List.range n).map (fun i => Mem.read1 m (a + i)) := by
  induction n generalizing m a with
  | zero => rfl
  | succ n ih =>
    rw [List.range_succ_eq_map, List.map_cons, List.map_map]
    cases m with
    | nil =>
      simp only [Mem.readFrom, Mem.read1, ih hm (a + 1) (by simp), List.cons.injEq, true_and]
      rfl
    | cons e t =>
      obtain ⟨k, v⟩ := e
      have ht : Mem.wf t = true := Mem.wf_sublist (List.sublist_cons_self _ t) hm
      have hk : ∀ c ∈ t, k < c.1 := fun c hc => (List.pairwise_cons.1 ((Mem.wf_iff _).1 hm).1).1 c hc
      simp only [Mem.readFrom]
      split
      · rename_i hka
        subst hka
        rw [ih ht (k + 1) (fun c hc => hk c hc)]
        simp only [Nat.add_zero, Mem.read1, if_true, List.cons.injEq, true_and]
        refine List.map_congr_left (fun i _ => ?_)
        simp only [Function.comp, Nat.succ_eq_add_one]
        rw [if_neg (by omega)]
        congr 1; omega
      · rename_i hka
        have hak : a < k := by
          have := h (k, v) List.mem_cons_self
          simp only at this; omega
        rw [ih hm (a + 1) (fun c hc => by
          rcases List.mem_cons.1 hc with rfl | hc
          · simp only; omega
          · have := hk c hc; omega)]
        simp only [Nat.add_zero, Mem.read1, if_neg hka, List.cons.injEq]
        refine ⟨(Mem.read1_of_no_key (fun c hc he => by have := hk c hc; omega)).symm, ?_⟩
        refine List.map_congr_left (fun i _ => ?_)
        simp only [Function.comp, Nat.succ_eq_add_one]
        rw [show a + 1 + i = a + (i + 1) by omega]

/-- A range reads its bytes in order. -/
theorem Mem.read_eq {m : List Host.Cell} (hm : Mem.wf m = true) (a n : Nat) :
    Mem.read m a n = (List.range n).map (fun i => Mem.read1 m (a + i)) := by
  rw [Mem.read, Mem.readFrom_eq (Mem.wf_sublist (List.dropWhile_sublist _) hm) n a (fun c hc => Mem.le_of_mem_dropWhile hm hc)]
  refine List.map_congr_left (fun i _ => ?_)
  rw [Mem.read1_dropWhile hm, if_neg (by omega)]

theorem Mem.length_readFrom (n : Nat) (m : List Host.Cell) (a : Nat) : (Mem.readFrom n m a).length = n := by
  induction n generalizing m a with
  | zero => rfl
  | succ n ih =>
    cases m with
    | nil => simp [Mem.readFrom, ih]
    | cons e t =>
      obtain ⟨k, v⟩ := e
      simp only [Mem.readFrom]
      split <;> simp [ih]

@[simp] theorem Mem.length_read (m : List Host.Cell) (a n : Nat) : (Mem.read m a n).length = n := Mem.length_readFrom _ _ _

/-- A range reads what was written to it. -/
theorem Mem.read_write_same {m : List Host.Cell} (hm : Mem.wf m = true) (a : Nat) (bs : List Byte) :
    Mem.read (Mem.write m a bs) a bs.length = bs := by
  rw [Mem.read_eq (Mem.wf_write hm a bs)]
  refine List.ext_getElem (by simp) (fun i h1 h2 => ?_)
  simp only [List.getElem_map, List.getElem_range, Mem.read1_write hm]
  rw [if_pos (by omega), Nat.add_sub_cancel_left, List.getD_eq_getElem _ _ h2]

/-- A range apart from a write reads as before. -/
theorem Mem.read_write_apart {m : List Host.Cell} (hm : Mem.wf m = true) (a : Nat) (bs : List Byte) (x n : Nat)
    (h : x + n ≤ a ∨ a + bs.length ≤ x) : Mem.read (Mem.write m a bs) x n = Mem.read m x n := by
  rw [Mem.read_eq (Mem.wf_write hm a bs), Mem.read_eq hm]
  refine List.map_congr_left (fun i hi => ?_)
  rw [Mem.read1_write hm, if_neg (by have := List.mem_range.1 hi; omega)]

theorem Mem.read_zero_apart {m : List Host.Cell} (hm : Mem.wf m = true) (a k x n : Nat) (h : x + n ≤ a ∨ a + k ≤ x) :
    Mem.read (Mem.zero m a k) x n = Mem.read m x n := by
  rw [Mem.read_eq (Mem.wf_zero hm a k), Mem.read_eq hm]
  refine List.map_congr_left (fun i hi => ?_)
  rw [Mem.read1_zero hm, if_neg (by have := List.mem_range.1 hi; omega)]

/-- A range copied reads what its source read. -/
theorem Mem.read_copy_same {m : List Host.Cell} (hm : Mem.wf m = true) (s d n : Nat) : Mem.read (Mem.copy m s d n) d n = Mem.read m s n := by
  rw [Mem.read_eq (Mem.wf_copy hm s d n), Mem.read_eq hm]
  refine List.map_congr_left (fun i hi => ?_)
  rw [Mem.read1_copy hm, if_pos (by have := List.mem_range.1 hi; omega)]
  congr 1; omega

end Sys2Proof.Machine
end

