-- ==== Sys2Proof/Laws/State.lean ====
section
/-! SUPPORT. What each update of the module does to each field of it: one lemma a field, true by definition. -/

namespace Sys2Proof.Machine

variable (m : Mach)

/-! ### setObj -/

@[simp] theorem Mach.setObj_flash (idx sub v : Nat) : (m.setObj idx sub v).flash = m.flash := rfl
@[simp] theorem Mach.setObj_tap (idx sub v : Nat) : (m.setObj idx sub v).tap = m.tap := rfl
@[simp] theorem Mach.setObj_chans (idx sub v : Nat) : (m.setObj idx sub v).chans = m.chans := rfl
@[simp] theorem Mach.setObj_stackRt (idx sub v : Nat) : (m.setObj idx sub v).stackRt = m.stackRt := rfl
@[simp] theorem Mach.setObj_islands (idx sub v : Nat) : (m.setObj idx sub v).islands = m.islands := rfl
@[simp] theorem Mach.setObj_gauges (idx sub v : Nat) : (m.setObj idx sub v).gauges = m.gauges := rfl
@[simp] theorem Mach.setObj_dieCap (idx sub v : Nat) : (m.setObj idx sub v).dieCap = m.dieCap := rfl
@[simp] theorem Mach.setObj_hosts (idx sub v : Nat) : (m.setObj idx sub v).hosts = m.hosts := rfl
@[simp] theorem Mach.setObj_can (idx sub v : Nat) : (m.setObj idx sub v).can = m.can := rfl
@[simp] theorem Mach.setObj_supLost (idx sub v : Nat) : (m.setObj idx sub v).supLost = m.supLost := rfl
@[simp] theorem Mach.setObj_active (idx sub v : Nat) : (m.setObj idx sub v).active = m.active := rfl
@[simp] theorem Mach.setObj_banks (idx sub v : Nat) : (m.setObj idx sub v).banks = m.banks := rfl
@[simp] theorem Mach.setObj_beats (idx sub v : Nat) : (m.setObj idx sub v).beats = m.beats := rfl
@[simp] theorem Mach.setObj_wantReplan (idx sub v : Nat) : (m.setObj idx sub v).wantReplan = m.wantReplan := rfl
@[simp] theorem Mach.setObj_winT0 (idx sub v : Nat) : (m.setObj idx sub v).winT0 = m.winT0 := rfl
@[simp] theorem Mach.setObj_winLen (idx sub v : Nat) : (m.setObj idx sub v).winLen = m.winLen := rfl
@[simp] theorem Mach.setObj_winWork (idx sub v : Nat) : (m.setObj idx sub v).winWork = m.winWork := rfl
@[simp] theorem Mach.setObj_energy (idx sub v : Nat) : (m.setObj idx sub v).energy = m.energy := rfl
@[simp] theorem Mach.setObj_timers (idx sub v : Nat) : (m.setObj idx sub v).timers = m.timers := rfl
@[simp] theorem Mach.setObj_acts (idx sub v : Nat) : (m.setObj idx sub v).acts = m.acts := rfl
@[simp] theorem Mach.setObj_phase (idx sub v : Nat) : (m.setObj idx sub v).phase = m.phase := rfl
@[simp] theorem Mach.setObj_rc (idx sub v : Nat) : (m.setObj idx sub v).rc = m.rc := rfl
@[simp] theorem Mach.setObj_free (idx sub v : Nat) : (m.setObj idx sub v).free = m.free := rfl
@[simp] theorem Mach.setObj_answer (idx sub v : Nat) : (m.setObj idx sub v).answer = m.answer := rfl
@[simp] theorem Mach.setObj_outbox (idx sub v : Nat) : (m.setObj idx sub v).outbox = m.outbox := rfl
@[simp] theorem Mach.setObj_dataRate (idx sub v : Nat) : (m.setObj idx sub v).dataRate = m.dataRate := rfl
@[simp] theorem Mach.setObj_offClusters (idx sub v : Nat) : (m.setObj idx sub v).offClusters = m.offClusters := rfl
@[simp] theorem Mach.setObj_offStacks (idx sub v : Nat) : (m.setObj idx sub v).offStacks = m.offStacks := rfl
@[simp] theorem Mach.setObj_offLinks (idx sub v : Nat) : (m.setObj idx sub v).offLinks = m.offLinks := rfl
@[simp] theorem Mach.setObj_dieRoutes (idx sub v : Nat) : (m.setObj idx sub v).dieRoutes = m.dieRoutes := rfl
@[simp] theorem Mach.setObj_hwWait (idx sub v : Nat) : (m.setObj idx sub v).hwWait = m.hwWait := rfl
@[simp] theorem Mach.setObj_objs (idx sub v : Nat) : (m.setObj idx sub v).objs = m.objs.put (okey idx sub) v := rfl
@[simp] theorem Mach.setObj_mem (idx sub v : Nat) : (m.setObj idx sub v).mem = m.mem := rfl
@[simp] theorem Mach.setObj_bad (idx sub v : Nat) : (m.setObj idx sub v).bad = m.bad := rfl
@[simp] theorem Mach.setObj_cores (idx sub v : Nat) : (m.setObj idx sub v).cores = m.cores := rfl
@[simp] theorem Mach.setObj_markers (idx sub v : Nat) : (m.setObj idx sub v).markers = m.markers := rfl
@[simp] theorem Mach.setObj_ports (idx sub v : Nat) : (m.setObj idx sub v).ports = m.ports := rfl
@[simp] theorem Mach.setObj_waits (idx sub v : Nat) : (m.setObj idx sub v).waits = m.waits := rfl
@[simp] theorem Mach.setObj_census (idx sub v : Nat) : (m.setObj idx sub v).census = m.census := rfl
@[simp] theorem Mach.setObj_work (idx sub v : Nat) : (m.setObj idx sub v).work = m.work := rfl
@[simp] theorem Mach.setObj_parts (idx sub v : Nat) : (m.setObj idx sub v).parts = m.parts := rfl
@[simp] theorem Mach.setObj_jobs (idx sub v : Nat) : (m.setObj idx sub v).jobs = m.jobs := rfl
@[simp] theorem Mach.setObj_jobSeq (idx sub v : Nat) : (m.setObj idx sub v).jobSeq = m.jobSeq := rfl
@[simp] theorem Mach.setObj_cqCount (idx sub v : Nat) : (m.setObj idx sub v).cqCount = m.cqCount := rfl
@[simp] theorem Mach.setObj_media (idx sub v : Nat) : (m.setObj idx sub v).media = m.media := rfl
@[simp] theorem Mach.setObj_streams (idx sub v : Nat) : (m.setObj idx sub v).streams = m.streams := rfl
@[simp] theorem Mach.setObj_recipes (idx sub v : Nat) : (m.setObj idx sub v).recipes = m.recipes := rfl
@[simp] theorem Mach.setObj_digests (idx sub v : Nat) : (m.setObj idx sub v).digests = m.digests := rfl
@[simp] theorem Mach.setObj_linkRt (idx sub v : Nat) : (m.setObj idx sub v).linkRt = m.linkRt := rfl
@[simp] theorem Mach.setObj_routes (idx sub v : Nat) : (m.setObj idx sub v).routes = m.routes := rfl
@[simp] theorem Mach.setObj_mid (idx sub v : Nat) : (m.setObj idx sub v).mid = m.mid := rfl
@[simp] theorem Mach.setObj_localMsgs (idx sub v : Nat) : (m.setObj idx sub v).localMsgs = m.localMsgs := rfl

/-! ### wr -/

@[simp] theorem Mach.wr_flash (key : Nat) (bs : List Byte) : (m.wr key bs).flash = m.flash := rfl
@[simp] theorem Mach.wr_tap (key : Nat) (bs : List Byte) : (m.wr key bs).tap = m.tap := rfl
@[simp] theorem Mach.wr_chans (key : Nat) (bs : List Byte) : (m.wr key bs).chans = m.chans := rfl
@[simp] theorem Mach.wr_stackRt (key : Nat) (bs : List Byte) : (m.wr key bs).stackRt = m.stackRt := rfl
@[simp] theorem Mach.wr_islands (key : Nat) (bs : List Byte) : (m.wr key bs).islands = m.islands := rfl
@[simp] theorem Mach.wr_gauges (key : Nat) (bs : List Byte) : (m.wr key bs).gauges = m.gauges := rfl
@[simp] theorem Mach.wr_dieCap (key : Nat) (bs : List Byte) : (m.wr key bs).dieCap = m.dieCap := rfl
@[simp] theorem Mach.wr_hosts (key : Nat) (bs : List Byte) : (m.wr key bs).hosts = m.hosts := rfl
@[simp] theorem Mach.wr_can (key : Nat) (bs : List Byte) : (m.wr key bs).can = m.can := rfl
@[simp] theorem Mach.wr_supLost (key : Nat) (bs : List Byte) : (m.wr key bs).supLost = m.supLost := rfl
@[simp] theorem Mach.wr_active (key : Nat) (bs : List Byte) : (m.wr key bs).active = m.active := rfl
@[simp] theorem Mach.wr_banks (key : Nat) (bs : List Byte) : (m.wr key bs).banks = m.banks := rfl
@[simp] theorem Mach.wr_beats (key : Nat) (bs : List Byte) : (m.wr key bs).beats = m.beats := rfl
@[simp] theorem Mach.wr_wantReplan (key : Nat) (bs : List Byte) : (m.wr key bs).wantReplan = m.wantReplan := rfl
@[simp] theorem Mach.wr_winT0 (key : Nat) (bs : List Byte) : (m.wr key bs).winT0 = m.winT0 := rfl
@[simp] theorem Mach.wr_winLen (key : Nat) (bs : List Byte) : (m.wr key bs).winLen = m.winLen := rfl
@[simp] theorem Mach.wr_winWork (key : Nat) (bs : List Byte) : (m.wr key bs).winWork = m.winWork := rfl
@[simp] theorem Mach.wr_energy (key : Nat) (bs : List Byte) : (m.wr key bs).energy = m.energy := rfl
@[simp] theorem Mach.wr_timers (key : Nat) (bs : List Byte) : (m.wr key bs).timers = m.timers := rfl
@[simp] theorem Mach.wr_acts (key : Nat) (bs : List Byte) : (m.wr key bs).acts = m.acts := rfl
@[simp] theorem Mach.wr_phase (key : Nat) (bs : List Byte) : (m.wr key bs).phase = m.phase := rfl
@[simp] theorem Mach.wr_rc (key : Nat) (bs : List Byte) : (m.wr key bs).rc = m.rc := rfl
@[simp] theorem Mach.wr_free (key : Nat) (bs : List Byte) : (m.wr key bs).free = m.free := rfl
@[simp] theorem Mach.wr_answer (key : Nat) (bs : List Byte) : (m.wr key bs).answer = m.answer := rfl
@[simp] theorem Mach.wr_outbox (key : Nat) (bs : List Byte) : (m.wr key bs).outbox = m.outbox := rfl
@[simp] theorem Mach.wr_dataRate (key : Nat) (bs : List Byte) : (m.wr key bs).dataRate = m.dataRate := rfl
@[simp] theorem Mach.wr_offClusters (key : Nat) (bs : List Byte) : (m.wr key bs).offClusters = m.offClusters := rfl
@[simp] theorem Mach.wr_offStacks (key : Nat) (bs : List Byte) : (m.wr key bs).offStacks = m.offStacks := rfl
@[simp] theorem Mach.wr_offLinks (key : Nat) (bs : List Byte) : (m.wr key bs).offLinks = m.offLinks := rfl
@[simp] theorem Mach.wr_dieRoutes (key : Nat) (bs : List Byte) : (m.wr key bs).dieRoutes = m.dieRoutes := rfl
@[simp] theorem Mach.wr_hwWait (key : Nat) (bs : List Byte) : (m.wr key bs).hwWait = m.hwWait := rfl
@[simp] theorem Mach.wr_objs (key : Nat) (bs : List Byte) : (m.wr key bs).objs = m.objs := rfl
@[simp] theorem Mach.wr_mem (key : Nat) (bs : List Byte) : (m.wr key bs).mem = Mem.write m.mem key bs := rfl
@[simp] theorem Mach.wr_bad (key : Nat) (bs : List Byte) : (m.wr key bs).bad = goodAfter m.bad key bs.length := rfl
@[simp] theorem Mach.wr_cores (key : Nat) (bs : List Byte) : (m.wr key bs).cores = m.cores := rfl
@[simp] theorem Mach.wr_markers (key : Nat) (bs : List Byte) : (m.wr key bs).markers = m.markers := rfl
@[simp] theorem Mach.wr_ports (key : Nat) (bs : List Byte) : (m.wr key bs).ports = m.ports := rfl
@[simp] theorem Mach.wr_waits (key : Nat) (bs : List Byte) : (m.wr key bs).waits = m.waits := rfl
@[simp] theorem Mach.wr_census (key : Nat) (bs : List Byte) : (m.wr key bs).census = m.census := rfl
@[simp] theorem Mach.wr_work (key : Nat) (bs : List Byte) : (m.wr key bs).work = m.work := rfl
@[simp] theorem Mach.wr_parts (key : Nat) (bs : List Byte) : (m.wr key bs).parts = m.parts := rfl
@[simp] theorem Mach.wr_jobs (key : Nat) (bs : List Byte) : (m.wr key bs).jobs = m.jobs := rfl
@[simp] theorem Mach.wr_jobSeq (key : Nat) (bs : List Byte) : (m.wr key bs).jobSeq = m.jobSeq := rfl
@[simp] theorem Mach.wr_cqCount (key : Nat) (bs : List Byte) : (m.wr key bs).cqCount = m.cqCount := rfl
@[simp] theorem Mach.wr_media (key : Nat) (bs : List Byte) : (m.wr key bs).media = m.media := rfl
@[simp] theorem Mach.wr_streams (key : Nat) (bs : List Byte) : (m.wr key bs).streams = m.streams := rfl
@[simp] theorem Mach.wr_recipes (key : Nat) (bs : List Byte) : (m.wr key bs).recipes = m.recipes := rfl
@[simp] theorem Mach.wr_digests (key : Nat) (bs : List Byte) : (m.wr key bs).digests = m.digests := rfl
@[simp] theorem Mach.wr_linkRt (key : Nat) (bs : List Byte) : (m.wr key bs).linkRt = m.linkRt := rfl
@[simp] theorem Mach.wr_routes (key : Nat) (bs : List Byte) : (m.wr key bs).routes = m.routes := rfl
@[simp] theorem Mach.wr_mid (key : Nat) (bs : List Byte) : (m.wr key bs).mid = m.mid := rfl
@[simp] theorem Mach.wr_localMsgs (key : Nat) (bs : List Byte) : (m.wr key bs).localMsgs = m.localMsgs := rfl

/-! ### wipe -/

@[simp] theorem Mach.wipe_flash (key n : Nat) : (m.wipe key n).flash = m.flash := rfl
@[simp] theorem Mach.wipe_tap (key n : Nat) : (m.wipe key n).tap = m.tap := rfl
@[simp] theorem Mach.wipe_chans (key n : Nat) : (m.wipe key n).chans = m.chans := rfl
@[simp] theorem Mach.wipe_stackRt (key n : Nat) : (m.wipe key n).stackRt = m.stackRt := rfl
@[simp] theorem Mach.wipe_islands (key n : Nat) : (m.wipe key n).islands = m.islands := rfl
@[simp] theorem Mach.wipe_gauges (key n : Nat) : (m.wipe key n).gauges = m.gauges := rfl
@[simp] theorem Mach.wipe_dieCap (key n : Nat) : (m.wipe key n).dieCap = m.dieCap := rfl
@[simp] theorem Mach.wipe_hosts (key n : Nat) : (m.wipe key n).hosts = m.hosts := rfl
@[simp] theorem Mach.wipe_can (key n : Nat) : (m.wipe key n).can = m.can := rfl
@[simp] theorem Mach.wipe_supLost (key n : Nat) : (m.wipe key n).supLost = m.supLost := rfl
@[simp] theorem Mach.wipe_active (key n : Nat) : (m.wipe key n).active = m.active := rfl
@[simp] theorem Mach.wipe_banks (key n : Nat) : (m.wipe key n).banks = m.banks := rfl
@[simp] theorem Mach.wipe_beats (key n : Nat) : (m.wipe key n).beats = m.beats := rfl
@[simp] theorem Mach.wipe_wantReplan (key n : Nat) : (m.wipe key n).wantReplan = m.wantReplan := rfl
@[simp] theorem Mach.wipe_winT0 (key n : Nat) : (m.wipe key n).winT0 = m.winT0 := rfl
@[simp] theorem Mach.wipe_winLen (key n : Nat) : (m.wipe key n).winLen = m.winLen := rfl
@[simp] theorem Mach.wipe_winWork (key n : Nat) : (m.wipe key n).winWork = m.winWork := rfl
@[simp] theorem Mach.wipe_energy (key n : Nat) : (m.wipe key n).energy = m.energy := rfl
@[simp] theorem Mach.wipe_timers (key n : Nat) : (m.wipe key n).timers = m.timers := rfl
@[simp] theorem Mach.wipe_acts (key n : Nat) : (m.wipe key n).acts = m.acts := rfl
@[simp] theorem Mach.wipe_phase (key n : Nat) : (m.wipe key n).phase = m.phase := rfl
@[simp] theorem Mach.wipe_rc (key n : Nat) : (m.wipe key n).rc = m.rc := rfl
@[simp] theorem Mach.wipe_free (key n : Nat) : (m.wipe key n).free = m.free := rfl
@[simp] theorem Mach.wipe_answer (key n : Nat) : (m.wipe key n).answer = m.answer := rfl
@[simp] theorem Mach.wipe_outbox (key n : Nat) : (m.wipe key n).outbox = m.outbox := rfl
@[simp] theorem Mach.wipe_dataRate (key n : Nat) : (m.wipe key n).dataRate = m.dataRate := rfl
@[simp] theorem Mach.wipe_offClusters (key n : Nat) : (m.wipe key n).offClusters = m.offClusters := rfl
@[simp] theorem Mach.wipe_offStacks (key n : Nat) : (m.wipe key n).offStacks = m.offStacks := rfl
@[simp] theorem Mach.wipe_offLinks (key n : Nat) : (m.wipe key n).offLinks = m.offLinks := rfl
@[simp] theorem Mach.wipe_dieRoutes (key n : Nat) : (m.wipe key n).dieRoutes = m.dieRoutes := rfl
@[simp] theorem Mach.wipe_hwWait (key n : Nat) : (m.wipe key n).hwWait = m.hwWait := rfl
@[simp] theorem Mach.wipe_objs (key n : Nat) : (m.wipe key n).objs = m.objs := rfl
@[simp] theorem Mach.wipe_mem (key n : Nat) : (m.wipe key n).mem = Mem.zero m.mem key n := rfl
@[simp] theorem Mach.wipe_bad (key n : Nat) : (m.wipe key n).bad = goodAfter m.bad key n := rfl
@[simp] theorem Mach.wipe_cores (key n : Nat) : (m.wipe key n).cores = m.cores := rfl
@[simp] theorem Mach.wipe_markers (key n : Nat) : (m.wipe key n).markers = m.markers := rfl
@[simp] theorem Mach.wipe_ports (key n : Nat) : (m.wipe key n).ports = m.ports := rfl
@[simp] theorem Mach.wipe_waits (key n : Nat) : (m.wipe key n).waits = m.waits := rfl
@[simp] theorem Mach.wipe_census (key n : Nat) : (m.wipe key n).census = m.census := rfl
@[simp] theorem Mach.wipe_work (key n : Nat) : (m.wipe key n).work = m.work := rfl
@[simp] theorem Mach.wipe_parts (key n : Nat) : (m.wipe key n).parts = m.parts := rfl
@[simp] theorem Mach.wipe_jobs (key n : Nat) : (m.wipe key n).jobs = m.jobs := rfl
@[simp] theorem Mach.wipe_jobSeq (key n : Nat) : (m.wipe key n).jobSeq = m.jobSeq := rfl
@[simp] theorem Mach.wipe_cqCount (key n : Nat) : (m.wipe key n).cqCount = m.cqCount := rfl
@[simp] theorem Mach.wipe_media (key n : Nat) : (m.wipe key n).media = m.media := rfl
@[simp] theorem Mach.wipe_streams (key n : Nat) : (m.wipe key n).streams = m.streams := rfl
@[simp] theorem Mach.wipe_recipes (key n : Nat) : (m.wipe key n).recipes = m.recipes := rfl
@[simp] theorem Mach.wipe_digests (key n : Nat) : (m.wipe key n).digests = m.digests := rfl
@[simp] theorem Mach.wipe_linkRt (key n : Nat) : (m.wipe key n).linkRt = m.linkRt := rfl
@[simp] theorem Mach.wipe_routes (key n : Nat) : (m.wipe key n).routes = m.routes := rfl
@[simp] theorem Mach.wipe_mid (key n : Nat) : (m.wipe key n).mid = m.mid := rfl
@[simp] theorem Mach.wipe_localMsgs (key n : Nat) : (m.wipe key n).localMsgs = m.localMsgs := rfl

/-! ### copyMem -/

@[simp] theorem Mach.copyMem_flash (a b n : Nat) : (m.copyMem a b n).flash = m.flash := rfl
@[simp] theorem Mach.copyMem_tap (a b n : Nat) : (m.copyMem a b n).tap = m.tap := rfl
@[simp] theorem Mach.copyMem_chans (a b n : Nat) : (m.copyMem a b n).chans = m.chans := rfl
@[simp] theorem Mach.copyMem_stackRt (a b n : Nat) : (m.copyMem a b n).stackRt = m.stackRt := rfl
@[simp] theorem Mach.copyMem_islands (a b n : Nat) : (m.copyMem a b n).islands = m.islands := rfl
@[simp] theorem Mach.copyMem_gauges (a b n : Nat) : (m.copyMem a b n).gauges = m.gauges := rfl
@[simp] theorem Mach.copyMem_dieCap (a b n : Nat) : (m.copyMem a b n).dieCap = m.dieCap := rfl
@[simp] theorem Mach.copyMem_hosts (a b n : Nat) : (m.copyMem a b n).hosts = m.hosts := rfl
@[simp] theorem Mach.copyMem_can (a b n : Nat) : (m.copyMem a b n).can = m.can := rfl
@[simp] theorem Mach.copyMem_supLost (a b n : Nat) : (m.copyMem a b n).supLost = m.supLost := rfl
@[simp] theorem Mach.copyMem_active (a b n : Nat) : (m.copyMem a b n).active = m.active := rfl
@[simp] theorem Mach.copyMem_banks (a b n : Nat) : (m.copyMem a b n).banks = m.banks := rfl
@[simp] theorem Mach.copyMem_beats (a b n : Nat) : (m.copyMem a b n).beats = m.beats := rfl
@[simp] theorem Mach.copyMem_wantReplan (a b n : Nat) : (m.copyMem a b n).wantReplan = m.wantReplan := rfl
@[simp] theorem Mach.copyMem_winT0 (a b n : Nat) : (m.copyMem a b n).winT0 = m.winT0 := rfl
@[simp] theorem Mach.copyMem_winLen (a b n : Nat) : (m.copyMem a b n).winLen = m.winLen := rfl
@[simp] theorem Mach.copyMem_winWork (a b n : Nat) : (m.copyMem a b n).winWork = m.winWork := rfl
@[simp] theorem Mach.copyMem_energy (a b n : Nat) : (m.copyMem a b n).energy = m.energy := rfl
@[simp] theorem Mach.copyMem_timers (a b n : Nat) : (m.copyMem a b n).timers = m.timers := rfl
@[simp] theorem Mach.copyMem_acts (a b n : Nat) : (m.copyMem a b n).acts = m.acts := rfl
@[simp] theorem Mach.copyMem_phase (a b n : Nat) : (m.copyMem a b n).phase = m.phase := rfl
@[simp] theorem Mach.copyMem_rc (a b n : Nat) : (m.copyMem a b n).rc = m.rc := rfl
@[simp] theorem Mach.copyMem_free (a b n : Nat) : (m.copyMem a b n).free = m.free := rfl
@[simp] theorem Mach.copyMem_answer (a b n : Nat) : (m.copyMem a b n).answer = m.answer := rfl
@[simp] theorem Mach.copyMem_outbox (a b n : Nat) : (m.copyMem a b n).outbox = m.outbox := rfl
@[simp] theorem Mach.copyMem_dataRate (a b n : Nat) : (m.copyMem a b n).dataRate = m.dataRate := rfl
@[simp] theorem Mach.copyMem_offClusters (a b n : Nat) : (m.copyMem a b n).offClusters = m.offClusters := rfl
@[simp] theorem Mach.copyMem_offStacks (a b n : Nat) : (m.copyMem a b n).offStacks = m.offStacks := rfl
@[simp] theorem Mach.copyMem_offLinks (a b n : Nat) : (m.copyMem a b n).offLinks = m.offLinks := rfl
@[simp] theorem Mach.copyMem_dieRoutes (a b n : Nat) : (m.copyMem a b n).dieRoutes = m.dieRoutes := rfl
@[simp] theorem Mach.copyMem_hwWait (a b n : Nat) : (m.copyMem a b n).hwWait = m.hwWait := rfl
@[simp] theorem Mach.copyMem_objs (a b n : Nat) : (m.copyMem a b n).objs = m.objs := rfl
@[simp] theorem Mach.copyMem_mem (a b n : Nat) : (m.copyMem a b n).mem = Mem.copy m.mem a b n := rfl
@[simp] theorem Mach.copyMem_bad (a b n : Nat) : (m.copyMem a b n).bad = badAfterCopy m.bad a b n := rfl
@[simp] theorem Mach.copyMem_cores (a b n : Nat) : (m.copyMem a b n).cores = m.cores := rfl
@[simp] theorem Mach.copyMem_markers (a b n : Nat) : (m.copyMem a b n).markers = m.markers := rfl
@[simp] theorem Mach.copyMem_ports (a b n : Nat) : (m.copyMem a b n).ports = m.ports := rfl
@[simp] theorem Mach.copyMem_waits (a b n : Nat) : (m.copyMem a b n).waits = m.waits := rfl
@[simp] theorem Mach.copyMem_census (a b n : Nat) : (m.copyMem a b n).census = m.census := rfl
@[simp] theorem Mach.copyMem_work (a b n : Nat) : (m.copyMem a b n).work = m.work := rfl
@[simp] theorem Mach.copyMem_parts (a b n : Nat) : (m.copyMem a b n).parts = m.parts := rfl
@[simp] theorem Mach.copyMem_jobs (a b n : Nat) : (m.copyMem a b n).jobs = m.jobs := rfl
@[simp] theorem Mach.copyMem_jobSeq (a b n : Nat) : (m.copyMem a b n).jobSeq = m.jobSeq := rfl
@[simp] theorem Mach.copyMem_cqCount (a b n : Nat) : (m.copyMem a b n).cqCount = m.cqCount := rfl
@[simp] theorem Mach.copyMem_media (a b n : Nat) : (m.copyMem a b n).media = m.media := rfl
@[simp] theorem Mach.copyMem_streams (a b n : Nat) : (m.copyMem a b n).streams = m.streams := rfl
@[simp] theorem Mach.copyMem_recipes (a b n : Nat) : (m.copyMem a b n).recipes = m.recipes := rfl
@[simp] theorem Mach.copyMem_digests (a b n : Nat) : (m.copyMem a b n).digests = m.digests := rfl
@[simp] theorem Mach.copyMem_linkRt (a b n : Nat) : (m.copyMem a b n).linkRt = m.linkRt := rfl
@[simp] theorem Mach.copyMem_routes (a b n : Nat) : (m.copyMem a b n).routes = m.routes := rfl
@[simp] theorem Mach.copyMem_mid (a b n : Nat) : (m.copyMem a b n).mid = m.mid := rfl
@[simp] theorem Mach.copyMem_localMsgs (a b n : Nat) : (m.copyMem a b n).localMsgs = m.localMsgs := rfl

/-! ### setCore -/

@[simp] theorem Mach.setCore_flash (c : Nat) (x : Core) : (m.setCore c x).flash = m.flash := rfl
@[simp] theorem Mach.setCore_tap (c : Nat) (x : Core) : (m.setCore c x).tap = m.tap := rfl
@[simp] theorem Mach.setCore_chans (c : Nat) (x : Core) : (m.setCore c x).chans = m.chans := rfl
@[simp] theorem Mach.setCore_stackRt (c : Nat) (x : Core) : (m.setCore c x).stackRt = m.stackRt := rfl
@[simp] theorem Mach.setCore_islands (c : Nat) (x : Core) : (m.setCore c x).islands = m.islands := rfl
@[simp] theorem Mach.setCore_gauges (c : Nat) (x : Core) : (m.setCore c x).gauges = m.gauges := rfl
@[simp] theorem Mach.setCore_dieCap (c : Nat) (x : Core) : (m.setCore c x).dieCap = m.dieCap := rfl
@[simp] theorem Mach.setCore_hosts (c : Nat) (x : Core) : (m.setCore c x).hosts = m.hosts := rfl
@[simp] theorem Mach.setCore_can (c : Nat) (x : Core) : (m.setCore c x).can = m.can := rfl
@[simp] theorem Mach.setCore_supLost (c : Nat) (x : Core) : (m.setCore c x).supLost = m.supLost := rfl
@[simp] theorem Mach.setCore_active (c : Nat) (x : Core) : (m.setCore c x).active = m.active := rfl
@[simp] theorem Mach.setCore_banks (c : Nat) (x : Core) : (m.setCore c x).banks = m.banks := rfl
@[simp] theorem Mach.setCore_beats (c : Nat) (x : Core) : (m.setCore c x).beats = m.beats := rfl
@[simp] theorem Mach.setCore_wantReplan (c : Nat) (x : Core) : (m.setCore c x).wantReplan = m.wantReplan := rfl
@[simp] theorem Mach.setCore_winT0 (c : Nat) (x : Core) : (m.setCore c x).winT0 = m.winT0 := rfl
@[simp] theorem Mach.setCore_winLen (c : Nat) (x : Core) : (m.setCore c x).winLen = m.winLen := rfl
@[simp] theorem Mach.setCore_winWork (c : Nat) (x : Core) : (m.setCore c x).winWork = m.winWork := rfl
@[simp] theorem Mach.setCore_energy (c : Nat) (x : Core) : (m.setCore c x).energy = m.energy := rfl
@[simp] theorem Mach.setCore_timers (c : Nat) (x : Core) : (m.setCore c x).timers = m.timers := rfl
@[simp] theorem Mach.setCore_acts (c : Nat) (x : Core) : (m.setCore c x).acts = m.acts.put (c / 16) m.rc := rfl
@[simp] theorem Mach.setCore_phase (c : Nat) (x : Core) : (m.setCore c x).phase = m.phase := rfl
@[simp] theorem Mach.setCore_rc (c : Nat) (x : Core) : (m.setCore c x).rc = m.rc := rfl
@[simp] theorem Mach.setCore_free (c : Nat) (x : Core) : (m.setCore c x).free = m.free := rfl
@[simp] theorem Mach.setCore_answer (c : Nat) (x : Core) : (m.setCore c x).answer = m.answer := rfl
@[simp] theorem Mach.setCore_outbox (c : Nat) (x : Core) : (m.setCore c x).outbox = m.outbox := rfl
@[simp] theorem Mach.setCore_dataRate (c : Nat) (x : Core) : (m.setCore c x).dataRate = m.dataRate := rfl
@[simp] theorem Mach.setCore_offClusters (c : Nat) (x : Core) : (m.setCore c x).offClusters = m.offClusters := rfl
@[simp] theorem Mach.setCore_offStacks (c : Nat) (x : Core) : (m.setCore c x).offStacks = m.offStacks := rfl
@[simp] theorem Mach.setCore_offLinks (c : Nat) (x : Core) : (m.setCore c x).offLinks = m.offLinks := rfl
@[simp] theorem Mach.setCore_dieRoutes (c : Nat) (x : Core) : (m.setCore c x).dieRoutes = m.dieRoutes := rfl
@[simp] theorem Mach.setCore_hwWait (c : Nat) (x : Core) : (m.setCore c x).hwWait = m.hwWait := rfl
@[simp] theorem Mach.setCore_objs (c : Nat) (x : Core) : (m.setCore c x).objs = m.objs := rfl
@[simp] theorem Mach.setCore_mem (c : Nat) (x : Core) : (m.setCore c x).mem = m.mem := rfl
@[simp] theorem Mach.setCore_bad (c : Nat) (x : Core) : (m.setCore c x).bad = m.bad := rfl
@[simp] theorem Mach.setCore_cores (c : Nat) (x : Core) : (m.setCore c x).cores = m.cores.put c x := rfl
@[simp] theorem Mach.setCore_markers (c : Nat) (x : Core) : (m.setCore c x).markers = m.markers := rfl
@[simp] theorem Mach.setCore_ports (c : Nat) (x : Core) : (m.setCore c x).ports = m.ports := rfl
@[simp] theorem Mach.setCore_waits (c : Nat) (x : Core) : (m.setCore c x).waits = m.waits := rfl
@[simp] theorem Mach.setCore_census (c : Nat) (x : Core) : (m.setCore c x).census = m.census := rfl
@[simp] theorem Mach.setCore_work (c : Nat) (x : Core) : (m.setCore c x).work = m.work := rfl
@[simp] theorem Mach.setCore_parts (c : Nat) (x : Core) : (m.setCore c x).parts = m.parts := rfl
@[simp] theorem Mach.setCore_jobs (c : Nat) (x : Core) : (m.setCore c x).jobs = m.jobs := rfl
@[simp] theorem Mach.setCore_jobSeq (c : Nat) (x : Core) : (m.setCore c x).jobSeq = m.jobSeq := rfl
@[simp] theorem Mach.setCore_cqCount (c : Nat) (x : Core) : (m.setCore c x).cqCount = m.cqCount := rfl
@[simp] theorem Mach.setCore_media (c : Nat) (x : Core) : (m.setCore c x).media = m.media := rfl
@[simp] theorem Mach.setCore_streams (c : Nat) (x : Core) : (m.setCore c x).streams = m.streams := rfl
@[simp] theorem Mach.setCore_recipes (c : Nat) (x : Core) : (m.setCore c x).recipes = m.recipes := rfl
@[simp] theorem Mach.setCore_digests (c : Nat) (x : Core) : (m.setCore c x).digests = m.digests := rfl
@[simp] theorem Mach.setCore_linkRt (c : Nat) (x : Core) : (m.setCore c x).linkRt = m.linkRt := rfl
@[simp] theorem Mach.setCore_routes (c : Nat) (x : Core) : (m.setCore c x).routes = m.routes := rfl
@[simp] theorem Mach.setCore_mid (c : Nat) (x : Core) : (m.setCore c x).mid = m.mid := rfl
@[simp] theorem Mach.setCore_localMsgs (c : Nat) (x : Core) : (m.setCore c x).localMsgs = m.localMsgs := rfl

/-! ### setPart -/

@[simp] theorem Mach.setPart_flash (p : Nat) (x : Part) : (m.setPart p x).flash = m.flash := rfl
@[simp] theorem Mach.setPart_tap (p : Nat) (x : Part) : (m.setPart p x).tap = m.tap := rfl
@[simp] theorem Mach.setPart_chans (p : Nat) (x : Part) : (m.setPart p x).chans = m.chans := rfl
@[simp] theorem Mach.setPart_stackRt (p : Nat) (x : Part) : (m.setPart p x).stackRt = m.stackRt := rfl
@[simp] theorem Mach.setPart_islands (p : Nat) (x : Part) : (m.setPart p x).islands = m.islands := rfl
@[simp] theorem Mach.setPart_gauges (p : Nat) (x : Part) : (m.setPart p x).gauges = m.gauges := rfl
@[simp] theorem Mach.setPart_dieCap (p : Nat) (x : Part) : (m.setPart p x).dieCap = m.dieCap := rfl
@[simp] theorem Mach.setPart_hosts (p : Nat) (x : Part) : (m.setPart p x).hosts = m.hosts := rfl
@[simp] theorem Mach.setPart_can (p : Nat) (x : Part) : (m.setPart p x).can = m.can := rfl
@[simp] theorem Mach.setPart_supLost (p : Nat) (x : Part) : (m.setPart p x).supLost = m.supLost := rfl
@[simp] theorem Mach.setPart_active (p : Nat) (x : Part) : (m.setPart p x).active = m.active := rfl
@[simp] theorem Mach.setPart_banks (p : Nat) (x : Part) : (m.setPart p x).banks = m.banks := rfl
@[simp] theorem Mach.setPart_beats (p : Nat) (x : Part) : (m.setPart p x).beats = m.beats := rfl
@[simp] theorem Mach.setPart_wantReplan (p : Nat) (x : Part) : (m.setPart p x).wantReplan = m.wantReplan := rfl
@[simp] theorem Mach.setPart_winT0 (p : Nat) (x : Part) : (m.setPart p x).winT0 = m.winT0 := rfl
@[simp] theorem Mach.setPart_winLen (p : Nat) (x : Part) : (m.setPart p x).winLen = m.winLen := rfl
@[simp] theorem Mach.setPart_winWork (p : Nat) (x : Part) : (m.setPart p x).winWork = m.winWork := rfl
@[simp] theorem Mach.setPart_energy (p : Nat) (x : Part) : (m.setPart p x).energy = m.energy := rfl
@[simp] theorem Mach.setPart_timers (p : Nat) (x : Part) : (m.setPart p x).timers = m.timers := rfl
@[simp] theorem Mach.setPart_acts (p : Nat) (x : Part) : (m.setPart p x).acts = m.acts := rfl
@[simp] theorem Mach.setPart_phase (p : Nat) (x : Part) : (m.setPart p x).phase = m.phase := rfl
@[simp] theorem Mach.setPart_rc (p : Nat) (x : Part) : (m.setPart p x).rc = m.rc := rfl
@[simp] theorem Mach.setPart_free (p : Nat) (x : Part) : (m.setPart p x).free = m.free := rfl
@[simp] theorem Mach.setPart_answer (p : Nat) (x : Part) : (m.setPart p x).answer = m.answer := rfl
@[simp] theorem Mach.setPart_outbox (p : Nat) (x : Part) : (m.setPart p x).outbox = m.outbox := rfl
@[simp] theorem Mach.setPart_dataRate (p : Nat) (x : Part) : (m.setPart p x).dataRate = m.dataRate := rfl
@[simp] theorem Mach.setPart_offClusters (p : Nat) (x : Part) : (m.setPart p x).offClusters = m.offClusters := rfl
@[simp] theorem Mach.setPart_offStacks (p : Nat) (x : Part) : (m.setPart p x).offStacks = m.offStacks := rfl
@[simp] theorem Mach.setPart_offLinks (p : Nat) (x : Part) : (m.setPart p x).offLinks = m.offLinks := rfl
@[simp] theorem Mach.setPart_dieRoutes (p : Nat) (x : Part) : (m.setPart p x).dieRoutes = m.dieRoutes := rfl
@[simp] theorem Mach.setPart_hwWait (p : Nat) (x : Part) : (m.setPart p x).hwWait = m.hwWait := rfl
@[simp] theorem Mach.setPart_objs (p : Nat) (x : Part) : (m.setPart p x).objs = m.objs := rfl
@[simp] theorem Mach.setPart_mem (p : Nat) (x : Part) : (m.setPart p x).mem = m.mem := rfl
@[simp] theorem Mach.setPart_bad (p : Nat) (x : Part) : (m.setPart p x).bad = m.bad := rfl
@[simp] theorem Mach.setPart_cores (p : Nat) (x : Part) : (m.setPart p x).cores = m.cores := rfl
@[simp] theorem Mach.setPart_markers (p : Nat) (x : Part) : (m.setPart p x).markers = m.markers := rfl
@[simp] theorem Mach.setPart_ports (p : Nat) (x : Part) : (m.setPart p x).ports = m.ports := rfl
@[simp] theorem Mach.setPart_waits (p : Nat) (x : Part) : (m.setPart p x).waits = m.waits := rfl
@[simp] theorem Mach.setPart_census (p : Nat) (x : Part) : (m.setPart p x).census = m.census := rfl
@[simp] theorem Mach.setPart_work (p : Nat) (x : Part) : (m.setPart p x).work = m.work := rfl
@[simp] theorem Mach.setPart_parts (p : Nat) (x : Part) : (m.setPart p x).parts = m.parts.put p x := rfl
@[simp] theorem Mach.setPart_jobs (p : Nat) (x : Part) : (m.setPart p x).jobs = m.jobs := rfl
@[simp] theorem Mach.setPart_jobSeq (p : Nat) (x : Part) : (m.setPart p x).jobSeq = m.jobSeq := rfl
@[simp] theorem Mach.setPart_cqCount (p : Nat) (x : Part) : (m.setPart p x).cqCount = m.cqCount := rfl
@[simp] theorem Mach.setPart_media (p : Nat) (x : Part) : (m.setPart p x).media = m.media := rfl
@[simp] theorem Mach.setPart_streams (p : Nat) (x : Part) : (m.setPart p x).streams = m.streams := rfl
@[simp] theorem Mach.setPart_recipes (p : Nat) (x : Part) : (m.setPart p x).recipes = m.recipes := rfl
@[simp] theorem Mach.setPart_digests (p : Nat) (x : Part) : (m.setPart p x).digests = m.digests := rfl
@[simp] theorem Mach.setPart_linkRt (p : Nat) (x : Part) : (m.setPart p x).linkRt = m.linkRt := rfl
@[simp] theorem Mach.setPart_routes (p : Nat) (x : Part) : (m.setPart p x).routes = m.routes := rfl
@[simp] theorem Mach.setPart_mid (p : Nat) (x : Part) : (m.setPart p x).mid = m.mid := rfl
@[simp] theorem Mach.setPart_localMsgs (p : Nat) (x : Part) : (m.setPart p x).localMsgs = m.localMsgs := rfl

/-! ### setHost -/

@[simp] theorem Mach.setHost_flash (x : Nat) (p : Port) : (m.setHost x p).flash = m.flash := rfl
@[simp] theorem Mach.setHost_tap (x : Nat) (p : Port) : (m.setHost x p).tap = m.tap := rfl
@[simp] theorem Mach.setHost_chans (x : Nat) (p : Port) : (m.setHost x p).chans = m.chans := rfl
@[simp] theorem Mach.setHost_stackRt (x : Nat) (p : Port) : (m.setHost x p).stackRt = m.stackRt := rfl
@[simp] theorem Mach.setHost_islands (x : Nat) (p : Port) : (m.setHost x p).islands = m.islands := rfl
@[simp] theorem Mach.setHost_gauges (x : Nat) (p : Port) : (m.setHost x p).gauges = m.gauges := rfl
@[simp] theorem Mach.setHost_dieCap (x : Nat) (p : Port) : (m.setHost x p).dieCap = m.dieCap := rfl
@[simp] theorem Mach.setHost_hosts (x : Nat) (p : Port) : (m.setHost x p).hosts = m.hosts.put x p := rfl
@[simp] theorem Mach.setHost_can (x : Nat) (p : Port) : (m.setHost x p).can = m.can := rfl
@[simp] theorem Mach.setHost_supLost (x : Nat) (p : Port) : (m.setHost x p).supLost = m.supLost := rfl
@[simp] theorem Mach.setHost_active (x : Nat) (p : Port) : (m.setHost x p).active = m.active := rfl
@[simp] theorem Mach.setHost_banks (x : Nat) (p : Port) : (m.setHost x p).banks = m.banks := rfl
@[simp] theorem Mach.setHost_beats (x : Nat) (p : Port) : (m.setHost x p).beats = m.beats := rfl
@[simp] theorem Mach.setHost_wantReplan (x : Nat) (p : Port) : (m.setHost x p).wantReplan = m.wantReplan := rfl
@[simp] theorem Mach.setHost_winT0 (x : Nat) (p : Port) : (m.setHost x p).winT0 = m.winT0 := rfl
@[simp] theorem Mach.setHost_winLen (x : Nat) (p : Port) : (m.setHost x p).winLen = m.winLen := rfl
@[simp] theorem Mach.setHost_winWork (x : Nat) (p : Port) : (m.setHost x p).winWork = m.winWork := rfl
@[simp] theorem Mach.setHost_energy (x : Nat) (p : Port) : (m.setHost x p).energy = m.energy := rfl
@[simp] theorem Mach.setHost_timers (x : Nat) (p : Port) : (m.setHost x p).timers = m.timers := rfl
@[simp] theorem Mach.setHost_acts (x : Nat) (p : Port) : (m.setHost x p).acts = m.acts := rfl
@[simp] theorem Mach.setHost_phase (x : Nat) (p : Port) : (m.setHost x p).phase = m.phase := rfl
@[simp] theorem Mach.setHost_rc (x : Nat) (p : Port) : (m.setHost x p).rc = m.rc := rfl
@[simp] theorem Mach.setHost_free (x : Nat) (p : Port) : (m.setHost x p).free = m.free := rfl
@[simp] theorem Mach.setHost_answer (x : Nat) (p : Port) : (m.setHost x p).answer = m.answer := rfl
@[simp] theorem Mach.setHost_outbox (x : Nat) (p : Port) : (m.setHost x p).outbox = m.outbox := rfl
@[simp] theorem Mach.setHost_dataRate (x : Nat) (p : Port) : (m.setHost x p).dataRate = m.dataRate := rfl
@[simp] theorem Mach.setHost_offClusters (x : Nat) (p : Port) : (m.setHost x p).offClusters = m.offClusters := rfl
@[simp] theorem Mach.setHost_offStacks (x : Nat) (p : Port) : (m.setHost x p).offStacks = m.offStacks := rfl
@[simp] theorem Mach.setHost_offLinks (x : Nat) (p : Port) : (m.setHost x p).offLinks = m.offLinks := rfl
@[simp] theorem Mach.setHost_dieRoutes (x : Nat) (p : Port) : (m.setHost x p).dieRoutes = m.dieRoutes := rfl
@[simp] theorem Mach.setHost_hwWait (x : Nat) (p : Port) : (m.setHost x p).hwWait = m.hwWait := rfl
@[simp] theorem Mach.setHost_objs (x : Nat) (p : Port) : (m.setHost x p).objs = m.objs := rfl
@[simp] theorem Mach.setHost_mem (x : Nat) (p : Port) : (m.setHost x p).mem = m.mem := rfl
@[simp] theorem Mach.setHost_bad (x : Nat) (p : Port) : (m.setHost x p).bad = m.bad := rfl
@[simp] theorem Mach.setHost_cores (x : Nat) (p : Port) : (m.setHost x p).cores = m.cores := rfl
@[simp] theorem Mach.setHost_markers (x : Nat) (p : Port) : (m.setHost x p).markers = m.markers := rfl
@[simp] theorem Mach.setHost_ports (x : Nat) (p : Port) : (m.setHost x p).ports = m.ports := rfl
@[simp] theorem Mach.setHost_waits (x : Nat) (p : Port) : (m.setHost x p).waits = m.waits := rfl
@[simp] theorem Mach.setHost_census (x : Nat) (p : Port) : (m.setHost x p).census = m.census := rfl
@[simp] theorem Mach.setHost_work (x : Nat) (p : Port) : (m.setHost x p).work = m.work := rfl
@[simp] theorem Mach.setHost_parts (x : Nat) (p : Port) : (m.setHost x p).parts = m.parts := rfl
@[simp] theorem Mach.setHost_jobs (x : Nat) (p : Port) : (m.setHost x p).jobs = m.jobs := rfl
@[simp] theorem Mach.setHost_jobSeq (x : Nat) (p : Port) : (m.setHost x p).jobSeq = m.jobSeq := rfl
@[simp] theorem Mach.setHost_cqCount (x : Nat) (p : Port) : (m.setHost x p).cqCount = m.cqCount := rfl
@[simp] theorem Mach.setHost_media (x : Nat) (p : Port) : (m.setHost x p).media = m.media := rfl
@[simp] theorem Mach.setHost_streams (x : Nat) (p : Port) : (m.setHost x p).streams = m.streams := rfl
@[simp] theorem Mach.setHost_recipes (x : Nat) (p : Port) : (m.setHost x p).recipes = m.recipes := rfl
@[simp] theorem Mach.setHost_digests (x : Nat) (p : Port) : (m.setHost x p).digests = m.digests := rfl
@[simp] theorem Mach.setHost_linkRt (x : Nat) (p : Port) : (m.setHost x p).linkRt = m.linkRt := rfl
@[simp] theorem Mach.setHost_routes (x : Nat) (p : Port) : (m.setHost x p).routes = m.routes := rfl
@[simp] theorem Mach.setHost_mid (x : Nat) (p : Port) : (m.setHost x p).mid = m.mid := rfl
@[simp] theorem Mach.setHost_localMsgs (x : Nat) (p : Port) : (m.setHost x p).localMsgs = m.localMsgs := rfl

/-! ### setIsland -/

@[simp] theorem Mach.setIsland_flash (i : Nat) (x : Island) : (m.setIsland i x).flash = m.flash := rfl
@[simp] theorem Mach.setIsland_tap (i : Nat) (x : Island) : (m.setIsland i x).tap = m.tap := rfl
@[simp] theorem Mach.setIsland_chans (i : Nat) (x : Island) : (m.setIsland i x).chans = m.chans := rfl
@[simp] theorem Mach.setIsland_stackRt (i : Nat) (x : Island) : (m.setIsland i x).stackRt = m.stackRt := rfl
@[simp] theorem Mach.setIsland_islands (i : Nat) (x : Island) : (m.setIsland i x).islands = m.islands.put i x := rfl
@[simp] theorem Mach.setIsland_gauges (i : Nat) (x : Island) : (m.setIsland i x).gauges = m.gauges := rfl
@[simp] theorem Mach.setIsland_dieCap (i : Nat) (x : Island) : (m.setIsland i x).dieCap = m.dieCap := rfl
@[simp] theorem Mach.setIsland_hosts (i : Nat) (x : Island) : (m.setIsland i x).hosts = m.hosts := rfl
@[simp] theorem Mach.setIsland_can (i : Nat) (x : Island) : (m.setIsland i x).can = m.can := rfl
@[simp] theorem Mach.setIsland_supLost (i : Nat) (x : Island) : (m.setIsland i x).supLost = m.supLost := rfl
@[simp] theorem Mach.setIsland_active (i : Nat) (x : Island) : (m.setIsland i x).active = m.active := rfl
@[simp] theorem Mach.setIsland_banks (i : Nat) (x : Island) : (m.setIsland i x).banks = m.banks := rfl
@[simp] theorem Mach.setIsland_beats (i : Nat) (x : Island) : (m.setIsland i x).beats = m.beats := rfl
@[simp] theorem Mach.setIsland_wantReplan (i : Nat) (x : Island) : (m.setIsland i x).wantReplan = m.wantReplan := rfl
@[simp] theorem Mach.setIsland_winT0 (i : Nat) (x : Island) : (m.setIsland i x).winT0 = m.winT0 := rfl
@[simp] theorem Mach.setIsland_winLen (i : Nat) (x : Island) : (m.setIsland i x).winLen = m.winLen := rfl
@[simp] theorem Mach.setIsland_winWork (i : Nat) (x : Island) : (m.setIsland i x).winWork = m.winWork := rfl
@[simp] theorem Mach.setIsland_energy (i : Nat) (x : Island) : (m.setIsland i x).energy = m.energy := rfl
@[simp] theorem Mach.setIsland_timers (i : Nat) (x : Island) : (m.setIsland i x).timers = m.timers := rfl
@[simp] theorem Mach.setIsland_acts (i : Nat) (x : Island) : (m.setIsland i x).acts = m.acts := rfl
@[simp] theorem Mach.setIsland_phase (i : Nat) (x : Island) : (m.setIsland i x).phase = m.phase := rfl
@[simp] theorem Mach.setIsland_rc (i : Nat) (x : Island) : (m.setIsland i x).rc = m.rc := rfl
@[simp] theorem Mach.setIsland_free (i : Nat) (x : Island) : (m.setIsland i x).free = m.free := rfl
@[simp] theorem Mach.setIsland_answer (i : Nat) (x : Island) : (m.setIsland i x).answer = m.answer := rfl
@[simp] theorem Mach.setIsland_outbox (i : Nat) (x : Island) : (m.setIsland i x).outbox = m.outbox := rfl
@[simp] theorem Mach.setIsland_dataRate (i : Nat) (x : Island) : (m.setIsland i x).dataRate = m.dataRate := rfl
@[simp] theorem Mach.setIsland_offClusters (i : Nat) (x : Island) : (m.setIsland i x).offClusters = m.offClusters := rfl
@[simp] theorem Mach.setIsland_offStacks (i : Nat) (x : Island) : (m.setIsland i x).offStacks = m.offStacks := rfl
@[simp] theorem Mach.setIsland_offLinks (i : Nat) (x : Island) : (m.setIsland i x).offLinks = m.offLinks := rfl
@[simp] theorem Mach.setIsland_dieRoutes (i : Nat) (x : Island) : (m.setIsland i x).dieRoutes = m.dieRoutes := rfl
@[simp] theorem Mach.setIsland_hwWait (i : Nat) (x : Island) : (m.setIsland i x).hwWait = m.hwWait := rfl
@[simp] theorem Mach.setIsland_objs (i : Nat) (x : Island) : (m.setIsland i x).objs = m.objs := rfl
@[simp] theorem Mach.setIsland_mem (i : Nat) (x : Island) : (m.setIsland i x).mem = m.mem := rfl
@[simp] theorem Mach.setIsland_bad (i : Nat) (x : Island) : (m.setIsland i x).bad = m.bad := rfl
@[simp] theorem Mach.setIsland_cores (i : Nat) (x : Island) : (m.setIsland i x).cores = m.cores := rfl
@[simp] theorem Mach.setIsland_markers (i : Nat) (x : Island) : (m.setIsland i x).markers = m.markers := rfl
@[simp] theorem Mach.setIsland_ports (i : Nat) (x : Island) : (m.setIsland i x).ports = m.ports := rfl
@[simp] theorem Mach.setIsland_waits (i : Nat) (x : Island) : (m.setIsland i x).waits = m.waits := rfl
@[simp] theorem Mach.setIsland_census (i : Nat) (x : Island) : (m.setIsland i x).census = m.census := rfl
@[simp] theorem Mach.setIsland_work (i : Nat) (x : Island) : (m.setIsland i x).work = m.work := rfl
@[simp] theorem Mach.setIsland_parts (i : Nat) (x : Island) : (m.setIsland i x).parts = m.parts := rfl
@[simp] theorem Mach.setIsland_jobs (i : Nat) (x : Island) : (m.setIsland i x).jobs = m.jobs := rfl
@[simp] theorem Mach.setIsland_jobSeq (i : Nat) (x : Island) : (m.setIsland i x).jobSeq = m.jobSeq := rfl
@[simp] theorem Mach.setIsland_cqCount (i : Nat) (x : Island) : (m.setIsland i x).cqCount = m.cqCount := rfl
@[simp] theorem Mach.setIsland_media (i : Nat) (x : Island) : (m.setIsland i x).media = m.media := rfl
@[simp] theorem Mach.setIsland_streams (i : Nat) (x : Island) : (m.setIsland i x).streams = m.streams := rfl
@[simp] theorem Mach.setIsland_recipes (i : Nat) (x : Island) : (m.setIsland i x).recipes = m.recipes := rfl
@[simp] theorem Mach.setIsland_digests (i : Nat) (x : Island) : (m.setIsland i x).digests = m.digests := rfl
@[simp] theorem Mach.setIsland_linkRt (i : Nat) (x : Island) : (m.setIsland i x).linkRt = m.linkRt := rfl
@[simp] theorem Mach.setIsland_routes (i : Nat) (x : Island) : (m.setIsland i x).routes = m.routes := rfl
@[simp] theorem Mach.setIsland_mid (i : Nat) (x : Island) : (m.setIsland i x).mid = m.mid := rfl
@[simp] theorem Mach.setIsland_localMsgs (i : Nat) (x : Island) : (m.setIsland i x).localMsgs = m.localMsgs := rfl

/-! ### emit -/

@[simp] theorem Mach.emit_flash (o : Out) : (m.emit o).flash = m.flash := rfl
@[simp] theorem Mach.emit_tap (o : Out) : (m.emit o).tap = m.tap := rfl
@[simp] theorem Mach.emit_chans (o : Out) : (m.emit o).chans = m.chans := rfl
@[simp] theorem Mach.emit_stackRt (o : Out) : (m.emit o).stackRt = m.stackRt := rfl
@[simp] theorem Mach.emit_islands (o : Out) : (m.emit o).islands = m.islands := rfl
@[simp] theorem Mach.emit_gauges (o : Out) : (m.emit o).gauges = m.gauges := rfl
@[simp] theorem Mach.emit_dieCap (o : Out) : (m.emit o).dieCap = m.dieCap := rfl
@[simp] theorem Mach.emit_hosts (o : Out) : (m.emit o).hosts = m.hosts := rfl
@[simp] theorem Mach.emit_can (o : Out) : (m.emit o).can = m.can := rfl
@[simp] theorem Mach.emit_supLost (o : Out) : (m.emit o).supLost = m.supLost := rfl
@[simp] theorem Mach.emit_active (o : Out) : (m.emit o).active = m.active := rfl
@[simp] theorem Mach.emit_banks (o : Out) : (m.emit o).banks = m.banks := rfl
@[simp] theorem Mach.emit_beats (o : Out) : (m.emit o).beats = m.beats := rfl
@[simp] theorem Mach.emit_wantReplan (o : Out) : (m.emit o).wantReplan = m.wantReplan := rfl
@[simp] theorem Mach.emit_winT0 (o : Out) : (m.emit o).winT0 = m.winT0 := rfl
@[simp] theorem Mach.emit_winLen (o : Out) : (m.emit o).winLen = m.winLen := rfl
@[simp] theorem Mach.emit_winWork (o : Out) : (m.emit o).winWork = m.winWork := rfl
@[simp] theorem Mach.emit_energy (o : Out) : (m.emit o).energy = m.energy := rfl
@[simp] theorem Mach.emit_timers (o : Out) : (m.emit o).timers = m.timers := rfl
@[simp] theorem Mach.emit_acts (o : Out) : (m.emit o).acts = m.acts := rfl
@[simp] theorem Mach.emit_phase (o : Out) : (m.emit o).phase = m.phase := rfl
@[simp] theorem Mach.emit_rc (o : Out) : (m.emit o).rc = m.rc := rfl
@[simp] theorem Mach.emit_free (o : Out) : (m.emit o).free = m.free := rfl
@[simp] theorem Mach.emit_answer (o : Out) : (m.emit o).answer = m.answer := rfl
@[simp] theorem Mach.emit_outbox (o : Out) : (m.emit o).outbox = m.outbox ++ [o] := rfl
@[simp] theorem Mach.emit_dataRate (o : Out) : (m.emit o).dataRate = m.dataRate := rfl
@[simp] theorem Mach.emit_offClusters (o : Out) : (m.emit o).offClusters = m.offClusters := rfl
@[simp] theorem Mach.emit_offStacks (o : Out) : (m.emit o).offStacks = m.offStacks := rfl
@[simp] theorem Mach.emit_offLinks (o : Out) : (m.emit o).offLinks = m.offLinks := rfl
@[simp] theorem Mach.emit_dieRoutes (o : Out) : (m.emit o).dieRoutes = m.dieRoutes := rfl
@[simp] theorem Mach.emit_hwWait (o : Out) : (m.emit o).hwWait = m.hwWait := rfl
@[simp] theorem Mach.emit_objs (o : Out) : (m.emit o).objs = m.objs := rfl
@[simp] theorem Mach.emit_mem (o : Out) : (m.emit o).mem = m.mem := rfl
@[simp] theorem Mach.emit_bad (o : Out) : (m.emit o).bad = m.bad := rfl
@[simp] theorem Mach.emit_cores (o : Out) : (m.emit o).cores = m.cores := rfl
@[simp] theorem Mach.emit_markers (o : Out) : (m.emit o).markers = m.markers := rfl
@[simp] theorem Mach.emit_ports (o : Out) : (m.emit o).ports = m.ports := rfl
@[simp] theorem Mach.emit_waits (o : Out) : (m.emit o).waits = m.waits := rfl
@[simp] theorem Mach.emit_census (o : Out) : (m.emit o).census = m.census := rfl
@[simp] theorem Mach.emit_work (o : Out) : (m.emit o).work = m.work := rfl
@[simp] theorem Mach.emit_parts (o : Out) : (m.emit o).parts = m.parts := rfl
@[simp] theorem Mach.emit_jobs (o : Out) : (m.emit o).jobs = m.jobs := rfl
@[simp] theorem Mach.emit_jobSeq (o : Out) : (m.emit o).jobSeq = m.jobSeq := rfl
@[simp] theorem Mach.emit_cqCount (o : Out) : (m.emit o).cqCount = m.cqCount := rfl
@[simp] theorem Mach.emit_media (o : Out) : (m.emit o).media = m.media := rfl
@[simp] theorem Mach.emit_streams (o : Out) : (m.emit o).streams = m.streams := rfl
@[simp] theorem Mach.emit_recipes (o : Out) : (m.emit o).recipes = m.recipes := rfl
@[simp] theorem Mach.emit_digests (o : Out) : (m.emit o).digests = m.digests := rfl
@[simp] theorem Mach.emit_linkRt (o : Out) : (m.emit o).linkRt = m.linkRt := rfl
@[simp] theorem Mach.emit_routes (o : Out) : (m.emit o).routes = m.routes := rfl
@[simp] theorem Mach.emit_mid (o : Out) : (m.emit o).mid = m.mid := rfl
@[simp] theorem Mach.emit_localMsgs (o : Out) : (m.emit o).localMsgs = m.localMsgs := rfl

/-! ### reply -/

@[simp] theorem Mach.reply_flash (abort : Nat) : (m.reply abort).flash = m.flash := rfl
@[simp] theorem Mach.reply_tap (abort : Nat) : (m.reply abort).tap = m.tap := rfl
@[simp] theorem Mach.reply_chans (abort : Nat) : (m.reply abort).chans = m.chans := rfl
@[simp] theorem Mach.reply_stackRt (abort : Nat) : (m.reply abort).stackRt = m.stackRt := rfl
@[simp] theorem Mach.reply_islands (abort : Nat) : (m.reply abort).islands = m.islands := rfl
@[simp] theorem Mach.reply_gauges (abort : Nat) : (m.reply abort).gauges = m.gauges := rfl
@[simp] theorem Mach.reply_dieCap (abort : Nat) : (m.reply abort).dieCap = m.dieCap := rfl
@[simp] theorem Mach.reply_hosts (abort : Nat) : (m.reply abort).hosts = m.hosts := rfl
@[simp] theorem Mach.reply_can (abort : Nat) : (m.reply abort).can = m.can := rfl
@[simp] theorem Mach.reply_supLost (abort : Nat) : (m.reply abort).supLost = m.supLost := rfl
@[simp] theorem Mach.reply_active (abort : Nat) : (m.reply abort).active = m.active := rfl
@[simp] theorem Mach.reply_banks (abort : Nat) : (m.reply abort).banks = m.banks := rfl
@[simp] theorem Mach.reply_beats (abort : Nat) : (m.reply abort).beats = m.beats := rfl
@[simp] theorem Mach.reply_wantReplan (abort : Nat) : (m.reply abort).wantReplan = m.wantReplan := rfl
@[simp] theorem Mach.reply_winT0 (abort : Nat) : (m.reply abort).winT0 = m.winT0 := rfl
@[simp] theorem Mach.reply_winLen (abort : Nat) : (m.reply abort).winLen = m.winLen := rfl
@[simp] theorem Mach.reply_winWork (abort : Nat) : (m.reply abort).winWork = m.winWork := rfl
@[simp] theorem Mach.reply_energy (abort : Nat) : (m.reply abort).energy = m.energy := rfl
@[simp] theorem Mach.reply_timers (abort : Nat) : (m.reply abort).timers = m.timers := rfl
@[simp] theorem Mach.reply_acts (abort : Nat) : (m.reply abort).acts = m.acts := rfl
@[simp] theorem Mach.reply_phase (abort : Nat) : (m.reply abort).phase = m.phase := rfl
@[simp] theorem Mach.reply_rc (abort : Nat) : (m.reply abort).rc = m.rc := rfl
@[simp] theorem Mach.reply_free (abort : Nat) : (m.reply abort).free = m.free := rfl
@[simp] theorem Mach.reply_answer (abort : Nat) : (m.reply abort).answer = { abort := abort, data := [] } := rfl
@[simp] theorem Mach.reply_outbox (abort : Nat) : (m.reply abort).outbox = m.outbox := rfl
@[simp] theorem Mach.reply_dataRate (abort : Nat) : (m.reply abort).dataRate = m.dataRate := rfl
@[simp] theorem Mach.reply_offClusters (abort : Nat) : (m.reply abort).offClusters = m.offClusters := rfl
@[simp] theorem Mach.reply_offStacks (abort : Nat) : (m.reply abort).offStacks = m.offStacks := rfl
@[simp] theorem Mach.reply_offLinks (abort : Nat) : (m.reply abort).offLinks = m.offLinks := rfl
@[simp] theorem Mach.reply_dieRoutes (abort : Nat) : (m.reply abort).dieRoutes = m.dieRoutes := rfl
@[simp] theorem Mach.reply_hwWait (abort : Nat) : (m.reply abort).hwWait = m.hwWait := rfl
@[simp] theorem Mach.reply_objs (abort : Nat) : (m.reply abort).objs = m.objs := rfl
@[simp] theorem Mach.reply_mem (abort : Nat) : (m.reply abort).mem = m.mem := rfl
@[simp] theorem Mach.reply_bad (abort : Nat) : (m.reply abort).bad = m.bad := rfl
@[simp] theorem Mach.reply_cores (abort : Nat) : (m.reply abort).cores = m.cores := rfl
@[simp] theorem Mach.reply_markers (abort : Nat) : (m.reply abort).markers = m.markers := rfl
@[simp] theorem Mach.reply_ports (abort : Nat) : (m.reply abort).ports = m.ports := rfl
@[simp] theorem Mach.reply_waits (abort : Nat) : (m.reply abort).waits = m.waits := rfl
@[simp] theorem Mach.reply_census (abort : Nat) : (m.reply abort).census = m.census := rfl
@[simp] theorem Mach.reply_work (abort : Nat) : (m.reply abort).work = m.work := rfl
@[simp] theorem Mach.reply_parts (abort : Nat) : (m.reply abort).parts = m.parts := rfl
@[simp] theorem Mach.reply_jobs (abort : Nat) : (m.reply abort).jobs = m.jobs := rfl
@[simp] theorem Mach.reply_jobSeq (abort : Nat) : (m.reply abort).jobSeq = m.jobSeq := rfl
@[simp] theorem Mach.reply_cqCount (abort : Nat) : (m.reply abort).cqCount = m.cqCount := rfl
@[simp] theorem Mach.reply_media (abort : Nat) : (m.reply abort).media = m.media := rfl
@[simp] theorem Mach.reply_streams (abort : Nat) : (m.reply abort).streams = m.streams := rfl
@[simp] theorem Mach.reply_recipes (abort : Nat) : (m.reply abort).recipes = m.recipes := rfl
@[simp] theorem Mach.reply_digests (abort : Nat) : (m.reply abort).digests = m.digests := rfl
@[simp] theorem Mach.reply_linkRt (abort : Nat) : (m.reply abort).linkRt = m.linkRt := rfl
@[simp] theorem Mach.reply_routes (abort : Nat) : (m.reply abort).routes = m.routes := rfl
@[simp] theorem Mach.reply_mid (abort : Nat) : (m.reply abort).mid = m.mid := rfl
@[simp] theorem Mach.reply_localMsgs (abort : Nat) : (m.reply abort).localMsgs = m.localMsgs := rfl

/-! ### send -/

@[simp] theorem Mach.send_flash (g : Nat) (x : MkMsg) : (m.send g x).flash = m.flash := rfl
@[simp] theorem Mach.send_tap (g : Nat) (x : MkMsg) : (m.send g x).tap = m.tap := rfl
@[simp] theorem Mach.send_chans (g : Nat) (x : MkMsg) : (m.send g x).chans = m.chans := rfl
@[simp] theorem Mach.send_stackRt (g : Nat) (x : MkMsg) : (m.send g x).stackRt = m.stackRt := rfl
@[simp] theorem Mach.send_islands (g : Nat) (x : MkMsg) : (m.send g x).islands = m.islands := rfl
@[simp] theorem Mach.send_gauges (g : Nat) (x : MkMsg) : (m.send g x).gauges = m.gauges := rfl
@[simp] theorem Mach.send_dieCap (g : Nat) (x : MkMsg) : (m.send g x).dieCap = m.dieCap := rfl
@[simp] theorem Mach.send_hosts (g : Nat) (x : MkMsg) : (m.send g x).hosts = m.hosts := rfl
@[simp] theorem Mach.send_can (g : Nat) (x : MkMsg) : (m.send g x).can = m.can := rfl
@[simp] theorem Mach.send_supLost (g : Nat) (x : MkMsg) : (m.send g x).supLost = m.supLost := rfl
@[simp] theorem Mach.send_active (g : Nat) (x : MkMsg) : (m.send g x).active = m.active := rfl
@[simp] theorem Mach.send_banks (g : Nat) (x : MkMsg) : (m.send g x).banks = m.banks := rfl
@[simp] theorem Mach.send_beats (g : Nat) (x : MkMsg) : (m.send g x).beats = m.beats := rfl
@[simp] theorem Mach.send_wantReplan (g : Nat) (x : MkMsg) : (m.send g x).wantReplan = m.wantReplan := rfl
@[simp] theorem Mach.send_winT0 (g : Nat) (x : MkMsg) : (m.send g x).winT0 = m.winT0 := rfl
@[simp] theorem Mach.send_winLen (g : Nat) (x : MkMsg) : (m.send g x).winLen = m.winLen := rfl
@[simp] theorem Mach.send_winWork (g : Nat) (x : MkMsg) : (m.send g x).winWork = m.winWork := rfl
@[simp] theorem Mach.send_energy (g : Nat) (x : MkMsg) : (m.send g x).energy = m.energy := rfl
@[simp] theorem Mach.send_timers (g : Nat) (x : MkMsg) : (m.send g x).timers = m.timers := rfl
@[simp] theorem Mach.send_acts (g : Nat) (x : MkMsg) : (m.send g x).acts = m.acts := rfl
@[simp] theorem Mach.send_phase (g : Nat) (x : MkMsg) : (m.send g x).phase = m.phase := rfl
@[simp] theorem Mach.send_rc (g : Nat) (x : MkMsg) : (m.send g x).rc = m.rc := rfl
@[simp] theorem Mach.send_free (g : Nat) (x : MkMsg) : (m.send g x).free = m.free := rfl
@[simp] theorem Mach.send_answer (g : Nat) (x : MkMsg) : (m.send g x).answer = m.answer := rfl
@[simp] theorem Mach.send_outbox (g : Nat) (x : MkMsg) : (m.send g x).outbox = m.outbox := rfl
@[simp] theorem Mach.send_dataRate (g : Nat) (x : MkMsg) : (m.send g x).dataRate = m.dataRate := rfl
@[simp] theorem Mach.send_offClusters (g : Nat) (x : MkMsg) : (m.send g x).offClusters = m.offClusters := rfl
@[simp] theorem Mach.send_offStacks (g : Nat) (x : MkMsg) : (m.send g x).offStacks = m.offStacks := rfl
@[simp] theorem Mach.send_offLinks (g : Nat) (x : MkMsg) : (m.send g x).offLinks = m.offLinks := rfl
@[simp] theorem Mach.send_dieRoutes (g : Nat) (x : MkMsg) : (m.send g x).dieRoutes = m.dieRoutes := rfl
@[simp] theorem Mach.send_hwWait (g : Nat) (x : MkMsg) : (m.send g x).hwWait = m.hwWait := rfl
@[simp] theorem Mach.send_objs (g : Nat) (x : MkMsg) : (m.send g x).objs = m.objs := rfl
@[simp] theorem Mach.send_mem (g : Nat) (x : MkMsg) : (m.send g x).mem = m.mem := rfl
@[simp] theorem Mach.send_bad (g : Nat) (x : MkMsg) : (m.send g x).bad = m.bad := rfl
@[simp] theorem Mach.send_cores (g : Nat) (x : MkMsg) : (m.send g x).cores = m.cores := rfl
@[simp] theorem Mach.send_markers (g : Nat) (x : MkMsg) : (m.send g x).markers = m.markers := rfl
@[simp] theorem Mach.send_ports (g : Nat) (x : MkMsg) : (m.send g x).ports = m.ports.put g (sendTo (m.ports.get [] g) x) := rfl
@[simp] theorem Mach.send_waits (g : Nat) (x : MkMsg) : (m.send g x).waits = m.waits := rfl
@[simp] theorem Mach.send_census (g : Nat) (x : MkMsg) : (m.send g x).census = m.census := rfl
@[simp] theorem Mach.send_work (g : Nat) (x : MkMsg) : (m.send g x).work = m.work := rfl
@[simp] theorem Mach.send_parts (g : Nat) (x : MkMsg) : (m.send g x).parts = m.parts := rfl
@[simp] theorem Mach.send_jobs (g : Nat) (x : MkMsg) : (m.send g x).jobs = m.jobs := rfl
@[simp] theorem Mach.send_jobSeq (g : Nat) (x : MkMsg) : (m.send g x).jobSeq = m.jobSeq := rfl
@[simp] theorem Mach.send_cqCount (g : Nat) (x : MkMsg) : (m.send g x).cqCount = m.cqCount := rfl
@[simp] theorem Mach.send_media (g : Nat) (x : MkMsg) : (m.send g x).media = m.media := rfl
@[simp] theorem Mach.send_streams (g : Nat) (x : MkMsg) : (m.send g x).streams = m.streams := rfl
@[simp] theorem Mach.send_recipes (g : Nat) (x : MkMsg) : (m.send g x).recipes = m.recipes := rfl
@[simp] theorem Mach.send_digests (g : Nat) (x : MkMsg) : (m.send g x).digests = m.digests := rfl
@[simp] theorem Mach.send_linkRt (g : Nat) (x : MkMsg) : (m.send g x).linkRt = m.linkRt := rfl
@[simp] theorem Mach.send_routes (g : Nat) (x : MkMsg) : (m.send g x).routes = m.routes := rfl
@[simp] theorem Mach.send_mid (g : Nat) (x : MkMsg) : (m.send g x).mid = m.mid := rfl
@[simp] theorem Mach.send_localMsgs (g : Nat) (x : MkMsg) : (m.send g x).localMsgs = m.localMsgs := rfl

/-! ### modJob -/

@[simp] theorem Mach.modJob_flash (j : Job) (f : Job → Job) : (m.modJob j f).flash = m.flash := rfl
@[simp] theorem Mach.modJob_tap (j : Job) (f : Job → Job) : (m.modJob j f).tap = m.tap := rfl
@[simp] theorem Mach.modJob_chans (j : Job) (f : Job → Job) : (m.modJob j f).chans = m.chans := rfl
@[simp] theorem Mach.modJob_stackRt (j : Job) (f : Job → Job) : (m.modJob j f).stackRt = m.stackRt := rfl
@[simp] theorem Mach.modJob_islands (j : Job) (f : Job → Job) : (m.modJob j f).islands = m.islands := rfl
@[simp] theorem Mach.modJob_gauges (j : Job) (f : Job → Job) : (m.modJob j f).gauges = m.gauges := rfl
@[simp] theorem Mach.modJob_dieCap (j : Job) (f : Job → Job) : (m.modJob j f).dieCap = m.dieCap := rfl
@[simp] theorem Mach.modJob_hosts (j : Job) (f : Job → Job) : (m.modJob j f).hosts = m.hosts := rfl
@[simp] theorem Mach.modJob_can (j : Job) (f : Job → Job) : (m.modJob j f).can = m.can := rfl
@[simp] theorem Mach.modJob_supLost (j : Job) (f : Job → Job) : (m.modJob j f).supLost = m.supLost := rfl
@[simp] theorem Mach.modJob_active (j : Job) (f : Job → Job) : (m.modJob j f).active = m.active := rfl
@[simp] theorem Mach.modJob_banks (j : Job) (f : Job → Job) : (m.modJob j f).banks = m.banks := rfl
@[simp] theorem Mach.modJob_beats (j : Job) (f : Job → Job) : (m.modJob j f).beats = m.beats := rfl
@[simp] theorem Mach.modJob_wantReplan (j : Job) (f : Job → Job) : (m.modJob j f).wantReplan = m.wantReplan := rfl
@[simp] theorem Mach.modJob_winT0 (j : Job) (f : Job → Job) : (m.modJob j f).winT0 = m.winT0 := rfl
@[simp] theorem Mach.modJob_winLen (j : Job) (f : Job → Job) : (m.modJob j f).winLen = m.winLen := rfl
@[simp] theorem Mach.modJob_winWork (j : Job) (f : Job → Job) : (m.modJob j f).winWork = m.winWork := rfl
@[simp] theorem Mach.modJob_energy (j : Job) (f : Job → Job) : (m.modJob j f).energy = m.energy := rfl
@[simp] theorem Mach.modJob_timers (j : Job) (f : Job → Job) : (m.modJob j f).timers = m.timers := rfl
@[simp] theorem Mach.modJob_acts (j : Job) (f : Job → Job) : (m.modJob j f).acts = m.acts := rfl
@[simp] theorem Mach.modJob_phase (j : Job) (f : Job → Job) : (m.modJob j f).phase = m.phase := rfl
@[simp] theorem Mach.modJob_rc (j : Job) (f : Job → Job) : (m.modJob j f).rc = m.rc := rfl
@[simp] theorem Mach.modJob_free (j : Job) (f : Job → Job) : (m.modJob j f).free = m.free := rfl
@[simp] theorem Mach.modJob_answer (j : Job) (f : Job → Job) : (m.modJob j f).answer = m.answer := rfl
@[simp] theorem Mach.modJob_outbox (j : Job) (f : Job → Job) : (m.modJob j f).outbox = m.outbox := rfl
@[simp] theorem Mach.modJob_dataRate (j : Job) (f : Job → Job) : (m.modJob j f).dataRate = m.dataRate := rfl
@[simp] theorem Mach.modJob_offClusters (j : Job) (f : Job → Job) : (m.modJob j f).offClusters = m.offClusters := rfl
@[simp] theorem Mach.modJob_offStacks (j : Job) (f : Job → Job) : (m.modJob j f).offStacks = m.offStacks := rfl
@[simp] theorem Mach.modJob_offLinks (j : Job) (f : Job → Job) : (m.modJob j f).offLinks = m.offLinks := rfl
@[simp] theorem Mach.modJob_dieRoutes (j : Job) (f : Job → Job) : (m.modJob j f).dieRoutes = m.dieRoutes := rfl
@[simp] theorem Mach.modJob_hwWait (j : Job) (f : Job → Job) : (m.modJob j f).hwWait = m.hwWait := rfl
@[simp] theorem Mach.modJob_objs (j : Job) (f : Job → Job) : (m.modJob j f).objs = m.objs := rfl
@[simp] theorem Mach.modJob_mem (j : Job) (f : Job → Job) : (m.modJob j f).mem = m.mem := rfl
@[simp] theorem Mach.modJob_bad (j : Job) (f : Job → Job) : (m.modJob j f).bad = m.bad := rfl
@[simp] theorem Mach.modJob_cores (j : Job) (f : Job → Job) : (m.modJob j f).cores = m.cores := rfl
@[simp] theorem Mach.modJob_markers (j : Job) (f : Job → Job) : (m.modJob j f).markers = m.markers := rfl
@[simp] theorem Mach.modJob_ports (j : Job) (f : Job → Job) : (m.modJob j f).ports = m.ports := rfl
@[simp] theorem Mach.modJob_waits (j : Job) (f : Job → Job) : (m.modJob j f).waits = m.waits := rfl
@[simp] theorem Mach.modJob_census (j : Job) (f : Job → Job) : (m.modJob j f).census = m.census := rfl
@[simp] theorem Mach.modJob_work (j : Job) (f : Job → Job) : (m.modJob j f).work = m.work := rfl
@[simp] theorem Mach.modJob_parts (j : Job) (f : Job → Job) : (m.modJob j f).parts = m.parts := rfl
@[simp] theorem Mach.modJob_jobs (j : Job) (f : Job → Job) : (m.modJob j f).jobs = m.jobs.map (fun x => if x.same j then f x else x) := rfl
@[simp] theorem Mach.modJob_jobSeq (j : Job) (f : Job → Job) : (m.modJob j f).jobSeq = m.jobSeq := rfl
@[simp] theorem Mach.modJob_cqCount (j : Job) (f : Job → Job) : (m.modJob j f).cqCount = m.cqCount := rfl
@[simp] theorem Mach.modJob_media (j : Job) (f : Job → Job) : (m.modJob j f).media = m.media := rfl
@[simp] theorem Mach.modJob_streams (j : Job) (f : Job → Job) : (m.modJob j f).streams = m.streams := rfl
@[simp] theorem Mach.modJob_recipes (j : Job) (f : Job → Job) : (m.modJob j f).recipes = m.recipes := rfl
@[simp] theorem Mach.modJob_digests (j : Job) (f : Job → Job) : (m.modJob j f).digests = m.digests := rfl
@[simp] theorem Mach.modJob_linkRt (j : Job) (f : Job → Job) : (m.modJob j f).linkRt = m.linkRt := rfl
@[simp] theorem Mach.modJob_routes (j : Job) (f : Job → Job) : (m.modJob j f).routes = m.routes := rfl
@[simp] theorem Mach.modJob_mid (j : Job) (f : Job → Job) : (m.modJob j f).mid = m.mid := rfl
@[simp] theorem Mach.modJob_localMsgs (j : Job) (f : Job → Job) : (m.modJob j f).localMsgs = m.localMsgs := rfl

/-! ### The state's two parts -/

@[simp] theorem State.pending_with_mach (s : State) (x : Mach) : { s with mach := x }.pending = s.pending := rfl
@[simp] theorem State.mach_with_mach (s : State) (x : Mach) : { s with mach := x }.mach = x := rfl
@[simp] theorem State.pending_with_pending (s : State) (q : List Instr) : { s with pending := q }.pending = q := rfl
@[simp] theorem State.mach_with_pending (s : State) (q : List Instr) : { s with pending := q }.mach = s.mach := rfl

end Sys2Proof.Machine
end

