-- ==== Sys2Proof/Laws/Ops.lean ====
section
/-! SUPPORT. What each shared operation does, said once: the register file, memory, cores, partitions, vectors, jobs, faults, the issue of a word
and the outcome of a command. -/

namespace Sys2Proof.Machine

variable (m : Mach)

/-! ## The outcome of a command -/

theorem gives_always (c : Instr) (s : State) (f : Mach → Mach) (h : exec c s = s.always f) : Gives c s (f s.mach) := h

theorem gives_step (c : Instr) (s : State) (f : Mach → Mach) (h : exec c s = s.step f) (hr : s.mach.phase = .running) :
    Gives c s (f s.mach) := by
  unfold Gives
  rw [h]
  simp only [State.step, State.always, hr, if_true]

/-- Out of service a command that acts only in service changes nothing. -/
theorem gives_step_off (c : Instr) (s : State) (f : Mach → Mach) (h : exec c s = s.step f) (hr : s.mach.phase ≠ .running) :
    Gives c s s.mach := by
  unfold Gives
  rw [h]
  simp only [State.step, State.always, if_neg hr]

/-! ## The register file -/

/-- Objects have different keys: a sub-index is one byte. -/
theorem okey_inj {i j a b : Nat} (ha : a < 256) (hb : b < 256) : okey i a = okey j b ↔ i = j ∧ a = b := by
  unfold okey; omega

theorem Mach.obj_eq_of_objs {m m' : Mach} (h : m'.objs = m.objs) (idx sub : Nat) : m'.obj idx sub = m.obj idx sub := by
  simp only [Mach.obj, h]

theorem Mach.obj_setObj (i a v j b : Nat) : (m.setObj i a v).obj j b = if okey i a = okey j b then v else m.obj j b := by
  simp only [Mach.obj, Mach.setObj_objs, AMap.get?_put]
  by_cases h : okey i a = okey j b
  · rw [if_pos h, if_pos h]
  · rw [if_neg h, if_neg h]

@[simp] theorem Mach.obj_setObj_same (i a v : Nat) : (m.setObj i a v).obj i a = v := by simp [Mach.obj_setObj]

theorem Mach.obj_setObj_other {i a j b : Nat} (h : okey i a ≠ okey j b) (v : Nat) : (m.setObj i a v).obj j b = m.obj j b := by
  simp [Mach.obj_setObj, h]

@[simp] theorem Mach.obj_setField_same (i a hi lo v : Nat) : (m.setField i a hi lo v).obj i a = setFld (m.obj i a) hi lo v := by
  simp [Mach.setField]

theorem Mach.obj_setField_other {i a j b : Nat} (h : okey i a ≠ okey j b) (hi lo v : Nat) :
    (m.setField i a hi lo v).obj j b = m.obj j b := by
  simp [Mach.setField, Mach.obj_setObj, h]

theorem Mach.field_setField_same (i a hi lo v : Nat) (h : lo ≤ hi) :
    (m.setField i a hi lo v).field i a hi lo = v % 2 ^ (hi + 1 - lo) := by
  simp [Mach.field, h]

theorem Mach.field_setField_apart (i a hi lo v hi' lo' : Nat) (h : lo ≤ hi) (ha : hi < lo' ∨ hi' < lo) :
    (m.setField i a hi lo v).field i a hi' lo' = m.field i a hi' lo' := by
  simp [Mach.field, fld_setFld_apart _ _ _ _ _ _ h ha]

theorem Mach.field_setField_other {i a j b : Nat} (h : okey i a ≠ okey j b) (hi lo v hi' lo' : Nat) :
    (m.setField i a hi lo v).field j b hi' lo' = m.field j b hi' lo' := by
  simp [Mach.field, Mach.obj_setField_other m h]

@[simp] theorem Mach.objBit_setBit_same (i a n : Nat) (b : Bool) : (m.setBit i a n b).objBit i a n = b := by
  have h := bit_setBit_same (m.obj i a) n b
  simp only [Machine.setBit] at h
  simp [Mach.objBit, Mach.setBit, h]

/-- A command's status after it has ended: DONE, or ERROR. -/
theorem Mach.field_cmdDone (i a : Nat) (ok : Bool) : (m.cmdDone i a ok).field i a 2 0 = if ok then 2 else 4 := by
  rw [Mach.cmdDone, Mach.field_setField_same _ _ _ _ _ _ (by omega)]
  cases ok <;> rfl

theorem SameObjs.refl (ks : List Nat) : SameObjs ks m m := fun _ _ _ => rfl

theorem SameObjs.trans {ks : List Nat} {a b c : Mach} (h : SameObjs ks a b) (h' : SameObjs ks b c) : SameObjs ks a c :=
  fun i n hn => (h' i n hn).trans (h i n hn)

theorem SameObjs.of_objs (ks : List Nat) {a b : Mach} (h : b.objs = a.objs) : SameObjs ks a b :=
  fun i n _ => Mach.obj_eq_of_objs h i n

theorem SameObjs.setObj {ks : List Nat} (i a v : Nat) (h : okey i a ∈ ks) : SameObjs ks m (m.setObj i a v) := by
  intro j b hb
  exact Mach.obj_setObj_other m (fun e => hb (e ▸ h)) v

theorem SameObjs.setField {ks : List Nat} (i a hi lo v : Nat) (h : okey i a ∈ ks) : SameObjs ks m (m.setField i a hi lo v) :=
  SameObjs.setObj m i a _ h

theorem SameObjs.setBit {ks : List Nat} (i a n : Nat) (b : Bool) (h : okey i a ∈ ks) : SameObjs ks m (m.setBit i a n b) :=
  SameObjs.setObj m i a _ h

theorem SameObjs.addObj {ks : List Nat} (i a n : Nat) (h : okey i a ∈ ks) : SameObjs ks m (m.addObj i a n) := SameObjs.setObj m i a _ h

/-! ## Memory -/

theorem Mach.rd_eq_of_mem {m m' : Mach} (h : m'.mem = m.mem) (a n : Nat) : m'.rd a n = m.rd a n := by
  simp only [Mach.rd, h]

theorem Memory.wf_of_mem {m m' : Mach} (h : m'.mem = m.mem) (hm : Memory.wf m) : Memory.wf m' := by
  unfold Memory.wf at *; rw [h]; exact hm

theorem Memory.wf_wr {m : Mach} (hm : Memory.wf m) (key : Nat) (bs : List Byte) : Memory.wf (m.wr key bs) := Mem.wf_write hm key bs

theorem Memory.wf_wrNat {m : Mach} (hm : Memory.wf m) (key n v : Nat) : Memory.wf (m.wrNat key n v) := Mem.wf_write hm key _

theorem Memory.wf_wipe {m : Mach} (hm : Memory.wf m) (key n : Nat) : Memory.wf (m.wipe key n) := Mem.wf_zero hm key n

theorem Memory.wf_copyMem {m : Mach} (hm : Memory.wf m) (a b n : Nat) : Memory.wf (m.copyMem a b n) := Mem.wf_copy hm a b n

/-- A fold keeps the canonical form when its step does. -/
theorem Memory.wf_foldl {α : Type} {f : Mach → α → Mach} (hf : ∀ m a, Memory.wf m → Memory.wf (f m a)) (l : List α) {m : Mach}
    (hm : Memory.wf m) : Memory.wf (l.foldl f m) := by
  induction l generalizing m with
  | nil => exact hm
  | cons a t ih => exact ih (hf m a hm)

theorem Memory.wf_wrAll {m : Mach} (hm : Memory.wf m) (ws : List (Nat × List Byte)) : Memory.wf (m.wrAll ws) :=
  Memory.wf_foldl (fun _ w h => Memory.wf_wr h w.1 w.2) ws hm

/-- A fold leaves a part of the module as it was when its step does. -/
theorem Mach.foldl_same {α β : Type} {f : Mach → α → Mach} (g : Mach → β) (hf : ∀ m a, g (f m a) = g m) (l : List α) (m : Mach) :
    g (l.foldl f m) = g m := by
  induction l generalizing m with
  | nil => rfl
  | cons a t ih => exact (ih (f m a)).trans (hf m a)

theorem Mach.rd1 {m : Mach} (hm : Memory.wf m) (a : Nat) : m.rd a 1 = [Mem.read1 m.mem a] := by
  simp [Mach.rd, Mem.read_eq hm]

/-- A range reads what was written to it. -/
theorem Mach.rd_wr_same {m : Mach} (hm : Memory.wf m) (key : Nat) (bs : List Byte) : (m.wr key bs).rd key bs.length = bs :=
  Mem.read_write_same hm key bs

theorem Mach.rd_wr_apart {m : Mach} (hm : Memory.wf m) (key : Nat) (bs : List Byte) (x n : Nat) (h : x + n ≤ key ∨ key + bs.length ≤ x) :
    (m.wr key bs).rd x n = m.rd x n := Mem.read_write_apart hm key bs x n h

theorem Mach.rdNat_wrNat_same {m : Mach} (hm : Memory.wf m) (key n v : Nat) : (m.wrNat key n v).rdNat key n = v % 2 ^ (8 * n) := by
  have h := Mem.read_write_same hm key (leBytes n v)
  rw [length_leBytes] at h
  simp only [Mach.rdNat, Mach.wrNat, Mach.wr_mem, Mem.readNat, h, leNat_leBytes]

theorem Mach.rdNat_wrNat_apart {m : Mach} (hm : Memory.wf m) (key n v x k : Nat) (h : x + k ≤ key ∨ key + n ≤ x) :
    (m.wrNat key n v).rdNat x k = m.rdNat x k := by
  have h' := Mem.read_write_apart hm key (leBytes n v) x k (by rw [length_leBytes]; exact h)
  simp only [Mach.rdNat, Mach.wrNat, Mach.wr_mem, Mem.readNat, h']

theorem SameOutside.refl (ws : List (Nat × Nat)) : SameOutside ws m m := fun _ _ => rfl

theorem SameOutside.of_mem (ws : List (Nat × Nat)) {a b : Mach} (h : b.mem = a.mem) : SameOutside ws a b :=
  fun x _ => Mach.rd_eq_of_mem h x 1

theorem SameOutside.trans {ws : List (Nat × Nat)} {a b c : Mach} (h : SameOutside ws a b) (h' : SameOutside ws b c) : SameOutside ws a c :=
  fun x hx => (h' x hx).trans (h x hx)

theorem SameOutside.mono {ws ws' : List (Nat × Nat)} {a b : Mach} (hs : ws ⊆ ws') (h : SameOutside ws a b) : SameOutside ws' a b :=
  fun x hx => h x (fun w hw => hx w (hs hw))

theorem SameOutside.wr {m : Mach} (hm : Memory.wf m) (key : Nat) (bs : List Byte) : SameOutside [(key, bs.length)] m (m.wr key bs) := by
  intro a ha
  have h := ha (key, bs.length) (by simp)
  exact Mach.rd_wr_apart hm key bs a 1 (by simp only at h; omega)

/-- The bytes outside the pieces that are stored in order keep their values. -/
theorem SameOutside.wrAll {m : Mach} (hm : Memory.wf m) (ws : List (Nat × List Byte)) :
    SameOutside (ws.map (fun w => (w.1, w.2.length))) m (m.wrAll ws) := by
  induction ws generalizing m with
  | nil => exact SameOutside.refl m _
  | cons w t ih =>
    have h1 : SameOutside ((w :: t).map (fun w => (w.1, w.2.length))) m (m.wr w.1 w.2) :=
      SameOutside.mono (by simp) (SameOutside.wr hm w.1 w.2)
    have h2 : SameOutside ((w :: t).map (fun w => (w.1, w.2.length))) (m.wr w.1 w.2) ((m.wr w.1 w.2).wrAll t) :=
      SameOutside.mono (by simp) (ih (Memory.wf_wr hm w.1 w.2))
    exact SameOutside.trans h1 h2

/-- What stores pieces and no more: the module whose memory is that of the pieces written in order. -/
theorem Stores.of_mem {ws : List (Nat × List Byte)} {m m' : Mach} (h : m'.mem = (m.wrAll ws).mem) : Stores ws m m' := by
  refine ⟨h, fun hm a ha => ?_⟩
  rw [Mach.rd_eq_of_mem h a 1]
  exact SameOutside.wrAll hm ws a ha

theorem Stores.none {m m' : Mach} (h : m'.mem = m.mem) : Stores [] m m' := Stores.of_mem h

/-! ## Units by number -/

theorem Mach.island_setIsland (i j : Nat) (x : Island) : (m.setIsland i x).island j = if i = j then x else m.island j := by
  simp only [Mach.island, Mach.setIsland_islands, AMap.get_put]

theorem Mach.lrt_setLrt (l k : Nat) (r : LinkRt) : (m.setLrt l r).lrt k = if l = k then r else m.lrt k := by
  simp only [Mach.lrt, Mach.setLrt, AMap.get_put]

theorem Mach.host_setHost (x y : Nat) (h : Port) : (m.setHost x h).host y = if x = y then h else m.host y := by
  simp only [Mach.host, Mach.setHost_hosts, AMap.get_put]

theorem Mach.chan_setChan (n c : Nat) (x : Chan) : (m.setChan n x).chan c = if n = c then x else m.chan c := by
  simp only [Mach.chan, Mach.setChan, AMap.get_put]

theorem Mach.srt_setSrt (s t : Nat) (x : StackRt) : (m.setSrt s x).srt t = if s = t then x else m.srt t := by
  simp only [Mach.srt, Mach.setSrt, AMap.get_put]

theorem Mach.med_setMed (e d : Nat) (x : MedEng) : (m.setMed e x).med d = if e = d then x else m.med d := by
  simp only [Mach.med, Mach.setMed, AMap.get_put]

/-! ## Periods -/

/-- Before its period has passed nothing happens. -/
theorem Mach.every_early {k period : Nat} (f : Mach → Mach) (h : m.rc < m.timers.get 0 k + period) : m.every k period f = m := by
  simp [Mach.every, h]

/-- Once its period has passed the period starts over and the effect follows. -/
theorem Mach.every_due {k period : Nat} (f : Mach → Mach) (h : m.timers.get 0 k + period ≤ m.rc) :
    m.every k period f = f { m with timers := m.timers.put k m.rc } := by
  simp [Mach.every, Nat.not_lt.mpr h]

/-! ## The stores of the supervisors -/

theorem Mach.eachStore_only (f : Nat → Store → Store) : m.eachStore f = { m with flash := (m.eachStore f).flash } := rfl

/-- Every supervisor that lives has written its own store, and no other store has changed. -/
theorem Mach.store_eachStore (f : Nat → Store → Store) (x : Nat) :
    (m.eachStore f).flash.store x = if x < 2 ∧ m.alive x = true then f x (m.flash.store x) else m.flash.store x := by
  have e : ([0, 1].filter m.alive) = (if m.alive 0 then [0] else []) ++ (if m.alive 1 then [1] else []) := by
    cases h0 : m.alive 0 <;> cases h1 : m.alive 1 <;> simp [List.filter, h0, h1]
  simp only [Mach.eachStore, e, Flash.store]
  match x with
  | 0 => cases h0 : m.alive 0 <;> cases h1 : m.alive 1 <;> simp [AMap.get_put]
  | 1 => cases h0 : m.alive 0 <;> cases h1 : m.alive 1 <;> simp [AMap.get_put]
  | n + 2 => cases h0 : m.alive 0 <;> cases h1 : m.alive 1 <;> simp [AMap.get_put]

/-! ## Requests to stacks -/

/-- A request changes when the stack was last used, and its state: nothing else. -/
theorem Mach.touchStack_only (s : Nat) : m.touchStack s = { m with
    stackRt := (m.touchStack s).stackRt
    objs := (m.touchStack s).objs } := by
  unfold Mach.touchStack
  dsimp only
  split <;> rfl

/-- Requests to ranges change when their stacks were last used, and their state: nothing else. -/
theorem Mach.touch_only (rs : List (Nat × Nat)) : m.touch rs = { m with
    stackRt := (m.touch rs).stackRt
    objs := (m.touch rs).objs } := by
  unfold Mach.touch
  generalize (((rs.filter (fun r => r.2 ≠ 0 && r.1 < 48 * 2 ^ 35)).map (fun r => r.1 / 2 ^ 35)).dedup) = l
  induction l generalizing m with
  | nil => rfl
  | cons s t ih =>
    simp only [List.foldl_cons]
    rw [ih (m.touchStack s), Mach.touchStack_only m s]

@[simp] theorem Mach.touch_mem (rs : List (Nat × Nat)) : (m.touch rs).mem = m.mem := by rw [Mach.touch_only]
@[simp] theorem Mach.touch_bad (rs : List (Nat × Nat)) : (m.touch rs).bad = m.bad := by rw [Mach.touch_only]
@[simp] theorem Mach.touch_cores (rs : List (Nat × Nat)) : (m.touch rs).cores = m.cores := by rw [Mach.touch_only]
@[simp] theorem Mach.touch_parts (rs : List (Nat × Nat)) : (m.touch rs).parts = m.parts := by rw [Mach.touch_only]
@[simp] theorem Mach.touch_jobs (rs : List (Nat × Nat)) : (m.touch rs).jobs = m.jobs := by rw [Mach.touch_only]
@[simp] theorem Mach.touch_rc (rs : List (Nat × Nat)) : (m.touch rs).rc = m.rc := by rw [Mach.touch_only]
@[simp] theorem Mach.touch_free (rs : List (Nat × Nat)) : (m.touch rs).free = m.free := by rw [Mach.touch_only]
@[simp] theorem Mach.touch_census (rs : List (Nat × Nat)) : (m.touch rs).census = m.census := by rw [Mach.touch_only]
@[simp] theorem Mach.touch_hwWait (rs : List (Nat × Nat)) : (m.touch rs).hwWait = m.hwWait := by rw [Mach.touch_only]

/-- On-chip ranges are no request to a stack. -/
theorem Mach.touch_chip (rs : List (Nat × Nat)) (h : ∀ r ∈ rs, 48 * 2 ^ 35 ≤ r.1) : m.touch rs = m := by
  have e : rs.filter (fun r => r.2 ≠ 0 && r.1 < 48 * 2 ^ 35) = [] := by
    rw [List.filter_eq_nil_iff]
    intro r hr
    have := h r hr
    simp only [Bool.and_eq_true, decide_eq_true_eq, not_and]
    omega
  unfold Mach.touch
  rw [e]
  rfl

@[simp] theorem Mach.put_mem (key : Nat) (bs : List Byte) : (m.put key bs).mem = (m.wr key bs).mem := by simp [Mach.put]

theorem Memory.wf_put {m : Mach} (hm : Memory.wf m) (key : Nat) (bs : List Byte) : Memory.wf (m.put key bs) :=
  Memory.wf_wr (Memory.wf_of_mem (Mach.touch_mem m _) hm) key bs

theorem SameOutside.put {m : Mach} (hm : Memory.wf m) (key : Nat) (bs : List Byte) : SameOutside [(key, bs.length)] m (m.put key bs) :=
  SameOutside.trans (SameOutside.of_mem _ (Mach.touch_mem m [(key, bs.length)])) (SameOutside.wr (Memory.wf_of_mem (Mach.touch_mem m _) hm) key bs)

/-! ## Uncorrectable halves -/

theorem Mach.lostAt_on (h : m.offStacks = []) (a n : Nat) : m.lostAt a n = none := by
  simp [Mach.lostAt, h]

/-- With no uncorrectable half and no stack out of service every read is good. -/
theorem Mach.badRead_clean (hb : m.bad = []) (hs : m.offStacks = []) (rs : List (Nat × Nat)) : m.badRead rs = none := by
  unfold Mach.badRead
  rw [List.findSome?_eq_none_iff]
  intro r _
  simp [Mach.firstBad, Machine.firstBad, hb, Mach.lostAt_on m hs]

/-- With no uncorrectable half and no stack out of service every write is good. -/
theorem Mach.badWrite_clean (hb : m.bad = []) (hs : m.offStacks = []) (ws : List (Nat × List Byte)) : m.badWrite ws = none := by
  unfold Mach.badWrite
  rw [List.findSome?_eq_none_iff]
  intro r _
  simp [firstBadPart, hb, Mach.lostAt_on m hs]

/-- With no uncorrectable half and no stack out of service every piece of an operation is good. -/
theorem Mach.badPieceOf_clean (hb : m.bad = []) (hs : m.offStacks = []) (mv : Moved) : m.badPieceOf mv = none := by
  unfold Mach.badPieceOf
  rw [List.findSome?_eq_none_iff]
  intro x _
  simp [Mach.badPiece, Mach.badRead_clean m hb hs, Mach.badWrite_clean m hb hs]

/-! ## Cores and partitions -/

theorem Mach.core_setCore (c d : Nat) (x : Core) : (m.setCore c x).core d = if c = d then x else m.core d := by
  simp only [Mach.core, Mach.setCore_cores, AMap.get_put]

@[simp] theorem Mach.core_setCore_same (c : Nat) (x : Core) : (m.setCore c x).core c = x := by simp [Mach.core_setCore]

theorem OneCore.setCore (c : Nat) (x : Core) : OneCore c x m (m.setCore c x) :=
  ⟨by simp, fun d hd => by rw [Mach.core_setCore, if_neg (fun e => hd e.symm)]⟩

theorem Mach.part_setPart (p q : Nat) (x : Part) : (m.setPart p x).part q = if p = q then x else m.part q := by
  simp only [Mach.part, Mach.setPart_parts, AMap.get_put]

@[simp] theorem Mach.part_setPart_same (p : Nat) (x : Part) : (m.setPart p x).part p = x := by simp [Mach.part_setPart]

theorem OnePart.setPart (p : Nat) (x : Part) : OnePart p x m (m.setPart p x) :=
  ⟨by simp, fun q hq => by rw [Mach.part_setPart, if_neg (fun e => hq e.symm)]⟩

@[simp] theorem Core.ctx_setCtx_same (k : Core) (guest : Bool) (y : Ctx) : (k.setCtx guest y).ctx guest = y := by cases guest <;> rfl

/-- A change of a context changes that core alone, and of it that context alone. -/
theorem Mach.ctx_modCtx (c : Nat) (guest : Bool) (f : Ctx → Ctx) : ((m.modCtx c guest f).core c).ctx guest = f ((m.core c).ctx guest) := by
  simp [Mach.modCtx]

@[simp] theorem Mach.modCtx_mem (c : Nat) (guest : Bool) (f : Ctx → Ctx) : (m.modCtx c guest f).mem = m.mem := rfl
@[simp] theorem Mach.modCtx_objs (c : Nat) (guest : Bool) (f : Ctx → Ctx) : (m.modCtx c guest f).objs = m.objs := rfl
@[simp] theorem Mach.modCtx_jobs (c : Nat) (guest : Bool) (f : Ctx → Ctx) : (m.modCtx c guest f).jobs = m.jobs := rfl
@[simp] theorem Mach.modCtx_parts (c : Nat) (guest : Bool) (f : Ctx → Ctx) : (m.modCtx c guest f).parts = m.parts := rfl
@[simp] theorem Mach.modArr_mem (c : Nat) (f : Arr → Arr) : (m.modArr c f).mem = m.mem := rfl
@[simp] theorem Mach.modArr_objs (c : Nat) (f : Arr → Arr) : (m.modArr c f).objs = m.objs := rfl

/-! ## Vectors -/

theorem Mach.raiseAt_only (port vec : Nat) :
    m.raiseAt port vec = { m with outbox := (m.raiseAt port vec).outbox, hosts := (m.raiseAt port vec).hosts } := by
  unfold Mach.raiseAt
  dsimp only
  split
  · rfl
  · split <;> rfl

/-- Raising a vector changes only what is sent and what pends at the ports. -/
theorem Mach.raise_only (vec : Nat) : m.raise vec = { m with outbox := (m.raise vec).outbox, hosts := (m.raise vec).hosts } := by
  unfold Mach.raise
  rw [Mach.raiseAt_only (m.raiseAt 0 vec) 1 vec, Mach.raiseAt_only m 0 vec]

@[simp] theorem Mach.raise_mem (vec : Nat) : (m.raise vec).mem = m.mem := by rw [Mach.raise_only]
@[simp] theorem Mach.raise_objs (vec : Nat) : (m.raise vec).objs = m.objs := by rw [Mach.raise_only]
@[simp] theorem Mach.raise_cores (vec : Nat) : (m.raise vec).cores = m.cores := by rw [Mach.raise_only]
@[simp] theorem Mach.raise_parts (vec : Nat) : (m.raise vec).parts = m.parts := by rw [Mach.raise_only]
@[simp] theorem Mach.raise_jobs (vec : Nat) : (m.raise vec).jobs = m.jobs := by rw [Mach.raise_only]
@[simp] theorem Mach.raise_hwWait (vec : Nat) : (m.raise vec).hwWait = m.hwWait := by rw [Mach.raise_only]

@[simp] theorem Mach.health_mem : m.health.mem = m.mem := by simp [Mach.health, Mach.addObj32]
@[simp] theorem Mach.health_cores : m.health.cores = m.cores := by simp [Mach.health, Mach.addObj32]
@[simp] theorem Mach.health_parts : m.health.parts = m.parts := by simp [Mach.health, Mach.addObj32]
@[simp] theorem Mach.health_jobs : m.health.jobs = m.jobs := by simp [Mach.health, Mach.addObj32]

/-! ## Stops and faults -/

@[simp] theorem Mach.dropWaits_mem (c : Nat) (g : Bool) : (m.dropWaits c g).mem = m.mem := rfl
@[simp] theorem Mach.dropWaits_objs (c : Nat) (g : Bool) : (m.dropWaits c g).objs = m.objs := rfl
@[simp] theorem Mach.dropWaits_jobs (c : Nat) (g : Bool) : (m.dropWaits c g).jobs = m.jobs := rfl
@[simp] theorem Mach.dropWaits_parts (c : Nat) (g : Bool) : (m.dropWaits c g).parts = m.parts := rfl
@[simp] theorem Mach.dropWaits_cores (c : Nat) (g : Bool) : (m.dropWaits c g).cores = m.cores := rfl
@[simp] theorem Mach.dropWaits_hwWait (c : Nat) (g : Bool) : (m.dropWaits c g).hwWait = m.hwWait := rfl

@[simp] theorem Mach.stopCores_mem (p : Nat) (g : Bool) : (m.stopCores p g).mem = m.mem := by
  unfold Mach.stopCores
  refine Mach.foldl_same Mach.mem ?_ _ m
  intro _ _
  rfl
@[simp] theorem Mach.stopCores_objs (p : Nat) (g : Bool) : (m.stopCores p g).objs = m.objs := by
  unfold Mach.stopCores
  refine Mach.foldl_same Mach.objs ?_ _ m
  intro _ _
  rfl
@[simp] theorem Mach.stopCores_jobs (p : Nat) (g : Bool) : (m.stopCores p g).jobs = m.jobs := by
  unfold Mach.stopCores
  refine Mach.foldl_same Mach.jobs ?_ _ m
  intro _ _
  rfl
@[simp] theorem Mach.stopCores_parts (p : Nat) (g : Bool) : (m.stopCores p g).parts = m.parts := by
  unfold Mach.stopCores
  refine Mach.foldl_same Mach.parts ?_ _ m
  intro _ _
  rfl
@[simp] theorem Mach.stopCores_hwWait (p : Nat) (g : Bool) : (m.stopCores p g).hwWait = m.hwWait := by
  unfold Mach.stopCores
  refine Mach.foldl_same Mach.hwWait ?_ _ m
  intro _ _
  rfl

@[simp] theorem Mach.stopRounds_mem (p : Nat) : (m.stopRounds p).mem = m.mem := by
  unfold Mach.stopRounds
  simp only [Mach.modPart, Mach.setPart_mem]
  split <;> rfl

@[simp] theorem Mach.jobLeft_mem (p : Nat) : (m.jobLeft p).mem = m.mem := rfl
@[simp] theorem Mach.jobLeft_objs (p : Nat) : (m.jobLeft p).objs = m.objs := rfl
@[simp] theorem Mach.jobLeft_cores (p : Nat) : (m.jobLeft p).cores = m.cores := rfl
@[simp] theorem Mach.jobLeft_jobs (p : Nat) : (m.jobLeft p).jobs = m.jobs := rfl

@[simp] theorem Mach.endJob_mem (j : Job) (a b : Nat) : (m.endJob j a b).mem = m.mem := rfl

@[simp] theorem Mach.stopJob_mem (j : Job) (g : Bool) (a b : Nat) : (m.stopJob j g a b).mem = m.mem := by
  unfold Mach.stopJob
  dsimp only
  split <;> simp

/-- A fault of a job changes no byte of memory. -/
@[simp] theorem Mach.jobFault_mem (p : Nat) (g : Bool) (code : Nat) (r : Job → List Byte) : (m.jobFault p g code r).mem = m.mem := by
  unfold Mach.jobFault
  split
  · rfl
  · dsimp only
    split
    · split <;> split <;> simp [Mach.addObj]
    · split <;> split <;> simp [Mach.addObj, Mach.addObj32]

@[simp] theorem Mach.fault_mem (p core : Nat) (g : Bool) (code opc pc info : Nat) : (m.fault p core g code opc pc info).mem = m.mem := by
  unfold Mach.fault
  dsimp only
  rw [Mach.jobFault_mem]
  split <;> rfl

/-! ## The issue of a word -/

/-- A word that issues has its effect. -/
theorem issue_issues {s : State} {core : Nat} {x : Wx} {checks : Mach → Wx → List (Nat × Nat)} {stall : Mach → Wx → Bool}
    {sel : Mach → Wx → Bool} {act : Mach → Wx → Mach} (h : Issues s core x checks stall) (hs : sel s.mach x = true) :
    issue s.mach core sel checks stall act = act s.mach x := by
  simp [issue, h.word, hs, shown, h.sound, h.free]

/-- A command whose word is another row's changes nothing. -/
theorem issue_other {core : Nat} {x : Wx} {checks : Mach → Wx → List (Nat × Nat)} {stall : Mach → Wx → Bool}
    {sel : Mach → Wx → Bool} {act : Mach → Wx → Mach} (hw : m.wx core = some x) (hs : sel m x = false) :
    issue m core sel checks stall act = m := by
  simp [issue, hw, hs]

/-- A core that may not issue, and that no fault of its job stopped in this rc, has no word, and the command changes nothing. -/
theorem issue_none {core : Nat} {checks : Mach → Wx → List (Nat × Nat)} {stall : Mach → Wx → Bool} {sel : Mach → Wx → Bool}
    {act : Mach → Wx → Mach} (hw : m.wx core = none) (hl : m.lateSeat core = none) : issue m core sel checks stall act = m := by
  simp [issue, hw, Mach.lateFault, hl]

/-- A word that waits keeps its place. -/
theorem issue_stalls {core : Nat} {x : Wx} {checks : Mach → Wx → List (Nat × Nat)} {stall : Mach → Wx → Bool}
    {sel : Mach → Wx → Bool} {act : Mach → Wx → Mach} (hw : m.wx core = some x)
    (hf : pickFault (shown true (checks m x)) = none) (hst : stall m x = true) : issue m core sel checks stall act = m := by
  simp only [issue, hw, hf, hst, if_true]
  split <;> rfl

/-- A word that raises a fault takes the lowest. -/
theorem issue_faults {core : Nat} {x : Wx} {f : Nat × Nat} {checks : Mach → Wx → List (Nat × Nat)} {stall : Mach → Wx → Bool}
    {sel : Mach → Wx → Bool} {act : Mach → Wx → Mach} (hw : m.wx core = some x) (hs : sel m x = true)
    (hf : pickFault (shown (stall m x) (checks m x)) = some f) (h : f.1 ≠ 0x11) :
    issue m core sel checks stall act = m.fault x.p x.core x.guest f.1 (opcOf x.w) x.ctx.pc f.2 := by
  simp [issue, hw, hs, hf, Mach.takeFault, h]

/-- A word waits for no range when its context has no earlier word under way. -/
theorem stalls_idle (x : Wx) (rs ws : List (Nat × Nat)) (h1 : m.pendingWrites x.core x.guest = []) (h2 : m.pendingReads x.core x.guest = []) :
    x.stalls m rs ws = false := by
  simp [Wx.stalls, overlaps, h1, h2]

/-- The issue of a word keeps the canonical form when the word's effect does. -/
theorem Memory.wf_issue {m : Mach} (hm : Memory.wf m) {core : Nat} {checks : Mach → Wx → List (Nat × Nat)} {stall : Mach → Wx → Bool}
    {sel : Mach → Wx → Bool} {act : Mach → Wx → Mach} (ha : ∀ x, Memory.wf (act m x)) (hl : ∀ k a, Memory.wf (m.lostRead k a)) :
    Memory.wf (issue m core sel checks stall act) := by
  have ht : ∀ x f, Memory.wf (m.takeFault x f) := fun x f => by
    unfold Mach.takeFault
    split
    · exact Memory.wf_of_mem (Mach.fault_mem _ _ _ _ _ _ _ _) (hl _ _)
    · exact Memory.wf_of_mem (Mach.fault_mem _ _ _ _ _ _ _ _) hm
  unfold issue
  split
  · unfold Mach.lateFault
    split
    · exact hm
    · split
      · exact hm
      · split
        · exact ht _ _
        · exact hm
  · split
    · exact hm
    · split
      · exact ht _ _
      · split
        · exact hm
        · exact ha _

end Sys2Proof.Machine
end

