-- ==== Sys2Proof/Tests/Slice0.lean ====
section
/-! SUPPORT. Tests: ill-formed commands that WellFormed refuses, the effect of single commands on small states, and for every statement with
hypotheses a state and operands that meet them (named after the statement). -/

namespace Sys2Proof.Tests

set_option Elab.async false

open Machine

/-! ## States -/

/-- The module in service with changed objects. -/
def objsOn (os : List (Nat × Nat)) (m : Mach) : Mach := { m with objs := os ++ m.objs }

def up (f : Mach → Mach) : State := { State.reset with mach := f State.reset.mach }

/-- A pricking with one core's stream and some records. -/
def pk (ws : List OpWord) (rs : List (List Byte)) : Pricking :=
  { prkver := 0, nclus := 1, ncore := 1, minlink := 0, recs := rs, streams := [ws], image := [ws], nshape := 0, place := [], funcs := [],
    nu := 0, keep := [], left := [], addr := 0, region := 0 }

def aJob : Job :=
  { client := 40, part := 5, sqidx := 0, kind := 1, tag := 2, genr := 0, pri := 0, flags := 0, ctr := 0, arg0 := 0, arg1 := 0, arg2 := 0,
    user := 0, desc := [], peers := [], seq := 0, saves := 0, st := .running, left := 0, hard := false, fed := 0, pins := [], faulted := false }

/-- Partition 5, formed with cluster 32 and stack 0. -/
def formed5 (x : Part) (m : Mach) : Mach :=
  { objsOn [(okey (pix 5) 2, 16), (okey (pix 5) 3, 2 ^ 32), (okey (pix 5) 4, 1)] m with parts := [(5, x)] }

/-- Core 512 runs stream `ws` of a RUN job of partition 5. -/
def runs (ws : List OpWord) (rs : List (List Byte)) : State :=
  up (fun m => { formed5 { Part.empty with resident := some (pk ws rs) } m with
    jobs := [aJob]
    cores := [(512, { Core.init 0 with host := { Ctx.init with run := .running } })] })

/-- A word: its completion bits and opcode, and its other fields as one number. -/
def word (opc rest : Nat) : OpWord := BitVec.ofNat 128 (2 ^ 126 + opc * 2 ^ 120 + rest)

/-- The module after a command. -/
def after (c : Instr) (s : State) : Mach := match exec c s with
  | .next t => t.mach
  | _ => s.mach

/-- A PARTITION record with all of local memory and cluster memory. -/
def partRec : List Byte := leBytes 1 1 ++ zeros 3 ++ leBytes 4 524288 ++ leBytes 4 8388608 ++ zeros 20

/-- A BUFFER record: ID, KIND, OWNER, size, base. -/
def bufRec (id kind owner size base : Nat) : List Byte :=
  leBytes 1 2 ++ zeros 3 ++ leBytes 2 id ++ leBytes 1 kind ++ zeros 1 ++ leBytes 2 owner ++ zeros 6 ++ leBytes 8 size ++ leBytes 8 base

/-- The state with the host context of core 512 changed. -/
def ctx512 (s : State) (f : Ctx → Ctx) : State := { pending := [], mach := s.mach.modCtx 512 false f }

/-- The state with the module changed. -/
def on (s : State) (f : Mach → Mach) : State := { pending := [], mach := f s.mach }

/-- Partition 5, its pricking, and jobs; client 40 is bound to it, with a completion ring at 4096. -/
def jobs5 (x : Part) (js : List Job) : State :=
  up (fun m => { formed5 x m with
    objs := (okey (cix 40) 1, 0x8005) :: (okey (cix 40) 2, 8192) :: (okey (cix 40) 3, 4096) :: (formed5 x m).objs
    jobs := js })

/-- A part with a pricking of one stream. -/
def withPk : Part := { Part.empty with resident := some (pk [word 0 0] [partRec]) }

/-! ## Control words and markers -/

theorem test_wit_ControlWords_nop : ∃ x, Issues (runs [word 0 0] []) 512 x checksNop noStall ∧ opcOf x.w = 0 :=
  ⟨_, ⟨rfl, rfl, by decide, rfl⟩, by decide⟩

theorem test_wit_ControlWords_set : ∃ x, Issues (runs [word 3 (31 * 2 ^ 115 + 5 * 2 ^ 83)] []) 512 x checksSet noStall ∧ opcOf x.w = 3 :=
  ⟨_, ⟨rfl, rfl, by decide, rfl⟩, by decide⟩

theorem test_wit_ControlWords_add : ∃ x, Issues (runs [word 4 (15 * 2 ^ 115 + 5 * 2 ^ 83)] []) 512 x checksSet noStall ∧ opcOf x.w = 4 :=
  ⟨_, ⟨rfl, rfl, by decide, rfl⟩, by decide⟩

theorem test_wit_ControlWords_dbnz : ∃ x, Issues (runs [word 5 (15 * 2 ^ 115)] []) 512 x checksDbnz noStall ∧ opcOf x.w = 5 :=
  ⟨_, ⟨rfl, rfl, by decide, rfl⟩, by decide⟩

theorem test_wit_ControlWords_bcmp : ∃ x, Issues (runs [word 6 (17 * 2 ^ 115 + 3 * 2 ^ 113)] []) 512 x checksBcmp noStall ∧ opcOf x.w = 6 :=
  ⟨_, ⟨rfl, rfl, by decide, rfl⟩, by decide⟩

theorem test_wit_ControlWords_rctx : ∃ x, Issues (runs [word 7 (2 ^ 59)] []) 512 x checksRctx noStall ∧ opcOf x.w = 7 :=
  ⟨_, ⟨rfl, rfl, by decide, rfl⟩, by decide⟩

theorem test_wit_ControlWords_ax : ∃ x, Issues (runs [word 0x10 0] []) 512 x checksAx noStall ∧ opcOf x.w = 0x10 :=
  ⟨_, ⟨rfl, rfl, by decide, rfl⟩, by decide⟩

theorem test_wit_HaltAndStreamFetch_done : ∃ x, Issues (runs [word 1 0] []) 512 x checksNop noStall ∧ opcOf x.w = 1 ∧
    ((runs [word 1 0] []).mach.modCtx 512 x.guest (fun c => { c with run := .halted })).resJob x.p = some aJob ∧
    ((runs [word 1 0] []).mach.modCtx 512 x.guest (fun c => { c with run := .halted })).streamsDone x.p false = true :=
  ⟨_, ⟨rfl, rfl, by decide, rfl⟩, by decide, rfl, by decide⟩

def fetching : State :=
  { runs [word 0 0] [] with mach := { (runs [word 0 0] []).mach with
      cores := [(512, { Core.init 0 with host := { Ctx.init with run := .running, fetch := true } })] } }

theorem test_wit_HaltAndStreamFetch_fetch : fetching.mach.phase = .running ∧
    ((fetching.mach.core 512).ctx (fetching.mach.core 512).inGuest).fetch = true ∧ fetching.mach.partOf (512 / 16) = some 5 ∧
    fetching.mach.offStacks.contains ((2 ^ 41 - 1) / 2 ^ 35) = false := by decide

/-- DBNZ of a register that is no counter: 05h at the field (Table 4-26). -/
theorem test_wit_CoreFaults_word : ∃ x, (runs [word 5 (16 * 2 ^ 115)] []).mach.wx 512 = some x ∧ opcOf x.w = 5 ∧
    pickFault (checksDbnz (runs [word 5 (16 * 2 ^ 115)] []).mach x) = some (5, 115) := ⟨_, rfl, by decide, by decide⟩

theorem test_wit_CoreFaults_nop : ∃ x, (runs [word 0 1] []).mach.wx 512 = some x ∧ opcOf x.w = 0 ∧
    pickFault (checksNop (runs [word 0 1] []).mach x) = some (4, 0) := ⟨_, rfl, by decide, by decide⟩

theorem test_wit_CoreFaults_halt : ∃ x, (runs [word 1 (2 ^ 119)] []).mach.wx 512 = some x ∧ opcOf x.w = 1 ∧
    pickFault (checksNop (runs [word 1 (2 ^ 119)] []).mach x) = some (4, 119) := ⟨_, rfl, by decide, by decide⟩

theorem test_wit_CoreFaults_set : ∃ x, (runs [word 3 (16 * 2 ^ 115)] []).mach.wx 512 = some x ∧ opcOf x.w = 3 ∧
    pickFault (checksSet (runs [word 3 (16 * 2 ^ 115)] []).mach x) = some (5, 115) := ⟨_, rfl, by decide, by decide⟩

theorem test_wit_CoreFaults_add : ∃ x, (runs [word 4 (16 * 2 ^ 115)] []).mach.wx 512 = some x ∧ opcOf x.w = 4 ∧
    pickFault (checksSet (runs [word 4 (16 * 2 ^ 115)] []).mach x) = some (5, 115) := ⟨_, rfl, by decide, by decide⟩

theorem test_wit_CoreFaults_bcmp : ∃ x, (runs [word 6 (2 ^ 61)] []).mach.wx 512 = some x ∧ opcOf x.w = 6 ∧
    pickFault (checksBcmp (runs [word 6 (2 ^ 61)] []).mach x) = some (6, 1) := ⟨_, rfl, by decide, by decide⟩

theorem test_wit_CoreFaults_rctx : ∃ x, (runs [word 7 1] []).mach.wx 512 = some x ∧ opcOf x.w = 7 ∧
    pickFault (checksRctx (runs [word 7 1] []).mach x) = some (4, 0) := ⟨_, rfl, by decide, by decide⟩

theorem test_wit_CoreFaults_msig : ∃ x, (runs [word 8 0] []).mach.wx 512 = some x ∧ opcOf x.w = 8 ∧
    pickFault (checksMsig (runs [word 8 0] []).mach x) = some (5, 72) := ⟨_, rfl, by decide, by decide⟩

theorem test_wit_CoreFaults_mwait : ∃ x, (runs [word 9 (512 * 2 ^ 104)] []).mach.wx 512 = some x ∧ opcOf x.w = 9 ∧
    pickFault (checksMwait (runs [word 9 (512 * 2 ^ 104)] []).mach x) = some (0x20, 512) := ⟨_, rfl, by decide, by decide⟩

theorem test_wit_CoreFaults_mrst : ∃ x, (runs [word 10 (512 * 2 ^ 104)] []).mach.wx 512 = some x ∧ opcOf x.w = 10 ∧
    pickFault (checksMrst (runs [word 10 (512 * 2 ^ 104)] []).mach x) = some (0x20, 512) := ⟨_, rfl, by decide, by decide⟩

theorem test_wit_CoreFaults_fault : ∃ x, Issues (runs [word 2 (0x80 * 2 ^ 112)] []) 512 x checksFault noStall ∧ opcOf x.w = 2 :=
  ⟨_, ⟨rfl, rfl, by decide, rfl⟩, by decide⟩

theorem test_wit_CoreFaults_end : ∃ x, (runs [] []).mach.seat 512 = some x ∧ x.words ≤ x.ctx.pc := ⟨_, rfl, by decide⟩

/-- A core that has waited for 1 µs with a limit of 1 µs. -/
def overdue : State :=
  { runs [word 9 0] [] with mach := { objsOn [(okey 0x6205 1, 1)] (runs [word 9 0] []).mach with
      rc := 5000000
      cores := [(512, { Core.init 0 with host := { Ctx.init with run := .waiting (512 * 32) 1 0 0 } })] } }

theorem test_wit_CoreFaults_wait : overdue.mach.partOf (512 / 16) = some 5 ∧ overdue.mach.overdue 5 512 false = some (512 * 32) := by decide

theorem test_wit_CoreFaults_job : (runs [word 0 1] []).mach.jobOf 5 false = some aJob ∧ aJob.st = .running := by decide

theorem test_wit_MarkerAndRemoteSignalWords_msig : ∃ x, Issues (runs [word 8 (511 * 2 ^ 104 + (2 ^ 32 - 1) * 2 ^ 72)] []) 512 x checksMsig stallMsig ∧
    opcOf x.w = 8 ∧ bit x.w 71 = false := ⟨_, ⟨rfl, rfl, by decide, by decide⟩, by decide, by decide⟩

theorem test_wit_MarkerAndRemoteSignalWords_mrst : ∃ x, Issues (runs [word 10 (511 * 2 ^ 104)] []) 512 x checksMrst noStall ∧ opcOf x.w = 10 :=
  ⟨_, ⟨rfl, rfl, by decide, rfl⟩, by decide⟩

theorem test_wit_MarkerAndRemoteSignalWords_mwait : ∃ x, Issues (runs [word 9 (511 * 2 ^ 104)] []) 512 x checksMwait noStall ∧ opcOf x.w = 9 :=
  ⟨_, ⟨rfl, rfl, by decide, rfl⟩, by decide⟩

/-- A PEER record: number 0, fabric address 7, partition 3. -/
def peerRec : List Byte := leBytes 1 4 ++ zeros 3 ++ leBytes 2 0 ++ leBytes 2 7 ++ leBytes 1 3 ++ zeros 23

theorem test_wit_MarkerAndRemoteSignalWords_peer : ∃ x, Issues (runs [word 8 (2 ^ 72 + 2 ^ 71)] [peerRec]) 512 x checksMsig stallMsig ∧
    opcOf x.w = 8 ∧ bit x.w 71 = true := ⟨_, ⟨rfl, rfl, by decide, by decide⟩, by decide, by decide⟩

/-- The message a word sends merges into the newest waiting signal to the same marker from the same die. -/
def signalled : State :=
  { runs [word 8 (2 ^ 72)] [] with mach := { (runs [word 8 (2 ^ 72)] []).mach with ports := [(32, [.signal 2 (512 * 32) 4])] } }

theorem test_msig_merges : ∃ m, Gives (.msig 512) signalled m ∧ m.ports.get [] 32 = [.signal 2 (512 * 32) 5] := ⟨_, rfl, by decide⟩

set_option maxRecDepth 4000 in
theorem test_marker_update : (after (.markerUpdate 32 10) signalled).markers.get 0 16384 = 4 := by decide

theorem test_set : ∃ m, Gives (.set 512) (runs [word 3 (2 * 2 ^ 115 + 5 * 2 ^ 83)] []) m ∧ (m.core 512).host.c.getD 2 0 = 5 := ⟨_, rfl, by decide⟩

/-- Counter 0 of core 512 at its greatest value. -/
def greatest : State :=
  { pending := []
    mach := (runs [word 4 (2 ^ 83)] []).mach.modCtx 512 false (fun c => { c with c := [2 ^ 32 - 1] }) }

theorem test_add_wraps : ∃ m, Gives (.add 512) greatest m ∧ (m.core 512).host.c.getD 0 7 = 0 := ⟨_, rfl, by decide⟩

/-! ## The array -/

/-- AR of one tile of 64 K steps, FP32, A at unit 0, B at unit 256, D at unit 512, DRAIN. -/
def arWord : OpWord := word 0x11 (2 ^ 89 + 256 * 2 ^ 41 + 512 * 2 ^ 17)

def arState : State := ctx512 (runs [arWord] [partRec]) (fun c => { c with ax := some (word 0x10 0), auto := true, ebase := 2 ^ 40 - 1 })

set_option maxRecDepth 4000 in
theorem test_wit_ArrayTiles_word : ∃ x, Issues arState 512 x checksAr stallAr ∧ opcOf x.w = 0x11 :=
  ⟨_, ⟨rfl, rfl, by decide, by decide⟩, by decide⟩

def anOp : ArOp :=
  { ax := word 0x10 0, ar := arWord, pc := 0, guest := false, stream := 0, ebase := 0, akey := localKey 512 0, bkey := localKey 512 16384,
    dkey := some (localKey 512 32768), tkey := 0, rbuf := none, batch := none, tile := 0, kdone := 0 }

/-- Core 512 with an array of its own. -/
def arrState (a : Arr) : State := on (runs [] [partRec]) (fun m => m.modArr 512 (fun _ => a))

theorem test_wit_ArrayTiles_start : (arrState { Arr.init with queue := [anOp], ctl := 0 }).mach.phase = .running ∧
    ((arrState { Arr.init with queue := [anOp], ctl := 0 }).mach.core 512).arr.queue = [anOp] ∧
    ((arrState { Arr.init with queue := [anOp], ctl := 0 }).mach.core 512).arr.busy = false ∧
    (∀ d ∈ ((arrState { Arr.init with queue := [anOp], ctl := 0 }).mach.core 512).arr.drains, d.bank ≠ anOp.bankOf anOp.tile) ∧
    bit ((arrState { Arr.init with queue := [anOp], ctl := 0 }).mach.core 512).arr.ctl 0 = false ∧
    (arrState { Arr.init with queue := [anOp], ctl := 0 }).mach.arrCut 512 anOp = false := ⟨rfl, rfl, rfl, by decide, rfl, by decide⟩

theorem test_wit_ArrayTiles_hold : bit Arr.init.ctl 0 = true ∧ (64 : Nat) ≤ fld Arr.init.ctl 14 8 ∧
    ({ Arr.init with queue := [anOp], ramp := .hold } : Arr).ramp = .hold ∧ ({ Arr.init with ramp := .up 64 } : Arr).ramp = .up 64 := by decide

theorem test_wit_ArrayTiles_complete : ((arrState { Arr.init with queue := [anOp], busy := true }).mach.core 512).arr.queue = [anOp] ∧
    ((arrState { Arr.init with queue := [anOp], busy := true }).mach.core 512).arr.busy = true ∧
    (arrState { Arr.init with queue := [anOp], busy := true }).mach.badRead anOp.tileReads = none := ⟨rfl, rfl, Mach.badRead_clean _ rfl rfl _⟩

theorem test_wit_RampsAndArrayFaults_down : ((arrState { Arr.init with ramp := .hold }).mach.core 512).arr.ramp = .hold ∧
    ((arrState { Arr.init with ramp := .down 1 }).mach.core 512).arr.ramp = .down 1 ∧
    ((arrState { Arr.init with ramp := .up 63 }).mach.core 512).arr.ramp = .up 63 ∧
    ((arrState { Arr.init with queue := [anOp], ramp := .down 64 }).mach.core 512).arr.queue ≠ [] ∧
    (arrState { Arr.init with queue := [anOp], ramp := .quiet }).mach.obj 0x6040 2 < 2 ^ 64 ∧
    (arrState { Arr.init with queue := [anOp], ramp := .down 64 }).mach.arrCut 512 anOp = false := ⟨rfl, rfl, rfl, by decide, by decide, by decide⟩

set_option maxRecDepth 4000 in
theorem test_wit_RampsAndArrayFaults_ecc : (arrState { Arr.init with queue := [anOp], busy := true }).mach.partOf (512 / 16) = some 5 ∧
    overlaps anOp.tileReads [(localKey 512 0 / 32 * 32, 32)] = true := by decide

set_option maxRecDepth 4000 in
theorem test_wit_RampsAndArrayFaults_bad : (on (arrState { Arr.init with queue := [anOp], busy := true }) (fun m =>
    { m with bad := [localKey 512 0 / 32] })).mach.badRead anOp.tileReads = some (localKey 512 0) := by decide

def aDrain (o : ArOp) (left : Nat) : Drain := ⟨o, 0, 0, left⟩

set_option maxRecDepth 8000 in
theorem test_wit_Drains_row : ((arrState { Arr.init with drains := [aDrain anOp 1] }).mach.core 512).arr.drains = [aDrain anOp 1] ∧
    anOp.rbuf = none ∧ (arrState { Arr.init with drains := [aDrain anOp 1] }).mach.badWrite [(localKey 512 32768, zeros 256)] = none :=
  ⟨rfl, rfl, by decide⟩

/-- A drain of a batch of one real row: row 63 is padding, row 0 is real. -/
def batchOp : ArOp := { anOp with dkey := none, batch := some ⟨0, 0, [⟨512, localKey 512 0, 7, 0⟩]⟩ }

theorem test_wit_Drains_padding : ∀ b, batchOp.batch = some b → b.rows.length ≤ 63 := by
  rintro b ⟨rfl⟩; decide

theorem test_wit_Drains_real : ∀ b, batchOp.batch = some b → 0 < b.rows.length := by
  rintro b ⟨rfl⟩; decide

/-- Once its drain is over the batch has nothing left to drain. -/
theorem test_wit_Drains_tags : ∀ b, batchOp.batch = some b → Arr.init.offBatch b = true ∧ ({ Arr.init with drains := [aDrain batchOp 1] } : Arr).offBatch b = false := by
  rintro b ⟨rfl⟩; decide

set_option maxRecDepth 8000 in
theorem test_wit_Drains_lost : (on (arrState { Arr.init with drains := [aDrain anOp 1] }) (fun m => { m with bad := [localKey 512 32768 / 32] })).mach.badWrite
    [(localKey 512 32768 + 16, zeros 256)] = some (localKey 512 32768) := by decide

/-- A reduction buffer: MODE 0, ID 3, one contributor (core 0), one slot, one tile. -/
def rbRec : List Byte :=
  leBytes 1 5 ++ zeros 3 ++ leBytes 1 1 ++ leBytes 1 0 ++ leBytes 2 3 ++ leBytes 1 0 ++ leBytes 1 1 ++ leBytes 1 0 ++ leBytes 1 0 ++ leBytes 2 1 ++
  leBytes 2 1 ++ leBytes 4 65536 ++ zeros 28 ++
  (leBytes 1 0 ++ leBytes 1 0 ++ leBytes 2 0 ++ leBytes 2 0 ++ leBytes 2 0 ++ leBytes 1 1 ++ leBytes 1 1 ++ zeros 6)

def rbState (b : RBuf) : State :=
  on (runs [] [partRec, rbRec]) (fun m => ({ m with
    parts := [(5, { Part.empty with resident := some (pk [] [partRec, rbRec]), rbufs := [(3, b)] })] } : Mach).modArr 512
      (fun _ => { Arr.init with drains := [aDrain { anOp with rbuf := some 3, dkey := none } 64] }))

theorem test_wit_Drains_reduction : (rbState (RBuf.init rbRec)).mach.rb 5 3 = some (RBuf.init rbRec) ∧
    (rbState (RBuf.init rbRec)).mach.rbRec 5 3 = some rbRec ∧ (rbState (RBuf.init rbRec)).mach.rbLocal 5 rbRec 512 = some 0 ∧
    0 < (RBuf.init rbRec).credits.getD 0 0 ∧ (((RBuf.init rbRec).begin' 0).open? 0).isSome = true := by decide

theorem test_wit_Drains_stall : ({ RBuf.init rbRec with credits := [0] } : RBuf).open? 0 = none ∧
    ({ RBuf.init rbRec with credits := [0] } : RBuf).credits.getD 0 0 = 0 := by decide

/-! ## Vector and special-function words -/

theorem test_wit_VectorOperations_add : ∃ x, Issues (runs [word 0x18 0] [partRec]) 512 x checksVop stallVop ∧ opcOf x.w = 0x18 ∧
    vopRow (x.f 119 114) 512 = some (.vopAdd 512) := ⟨_, ⟨rfl, rfl, by decide, by decide⟩, by decide, rfl⟩

theorem test_wit_VectorOperations_rssq : ∃ x, Issues (runs [word 0x18 (0x13 * 2 ^ 114)] [partRec]) 512 x checksVop stallVop ∧ opcOf x.w = 0x18 ∧
    vopRow (x.f 119 114) 512 = some (.vopRssq 512) := ⟨_, ⟨rfl, rfl, by decide, by decide⟩, by decide, rfl⟩

/-- Nothing is uncorrectable on these states, so that no store of a vector word is lost. -/
theorem test_wit_VectorOperations_stores : ∀ ws, (runs [word 0x18 0] [partRec]).mach.badWrite ws = none := Mach.badWrite_clean _ rfl rfl

theorem test_wit_SpecialWords_exp2 : ∃ x, Issues (runs [word 0x20 0] [partRec]) 512 x checksSfn stallSfn ∧ opcOf x.w = 0x20 ∧
    sfnRow (x.f 119 115) 512 = some (.sfnExp2 512) := ⟨_, ⟨rfl, rfl, by decide, by decide⟩, by decide, rfl⟩

theorem test_wit_SpecialWords_gelu : ∃ x, Issues (runs [word 0x20 (8 * 2 ^ 115)] [partRec]) 512 x checksSfn stallSfn ∧ opcOf x.w = 0x20 ∧
    sfnRow (x.f 119 115) 512 = some (.sfnGeluTanh 512) := ⟨_, ⟨rfl, rfl, by decide, by decide⟩, by decide, rfl⟩

/-! ## Data movement -/

theorem test_wit_DataMovementIssues_ldma : ∃ x, Issues (runs [word 0x28 (2 ^ 72)] [partRec]) 512 x checksLdma
    (fun m x => stallPlan m x (planLdma m x)) ∧ opcOf x.w = 0x28 := ⟨_, ⟨rfl, rfl, by decide, by decide⟩, by decide⟩

/-- A shape table of one LINEAR shape of one unit. -/
def copyState (w : OpWord) (shape : List Byte) : State :=
  on (runs [w] [partRec, bufRec 0 1 0 4096 0, bufRec 1 1 0 4096 4096]) (fun m => { m with
    parts := [(5, { Part.empty with resident := some { pk [w] [partRec, bufRec 0 1 0 4096 0, bufRec 1 1 0 4096 4096] with nshape := 1 } })]
    mem := Mem.write [] (clusterKey 32 (8388608 - 64)) shape })

def linear1 : List Byte := leBytes 1 1 ++ zeros 3 ++ leBytes 4 1

theorem test_wit_DataMovementIssues_cdma : ∃ x, Issues (copyState (word 0x29 (2 ^ 64)) linear1) 512 x checksCdma stallCdma ∧ opcOf x.w = 0x29 ∧
    (copyState (word 0x29 (2 ^ 64)) linear1).mach.stypeOf x = some 1 ∧ cdmaRow 1 512 = some (.cdmaLinear 512) :=
  ⟨_, ⟨rfl, rfl, by decide, by decide⟩, by decide, by decide, rfl⟩

/-- A cache: 64 elements a token, one head, one sequence of one page, in buffers 2 (page table) and 3 (pool), appended from unit 0. -/
def cacheRec : List Byte :=
  leBytes 1 7 ++ zeros 3 ++ leBytes 1 1 ++ leBytes 1 0 ++ leBytes 1 2 ++ leBytes 1 1 ++ leBytes 2 0 ++ leBytes 2 1 ++ leBytes 2 1 ++ leBytes 2 2 ++
  leBytes 2 3 ++ leBytes 1 0 ++ leBytes 1 0 ++ leBytes 2 0 ++ leBytes 2 1 ++ leBytes 4 65536 ++ leBytes 4 1 ++ zeros 32

def cachePk (w : OpWord) : Pricking :=
  { pk [w] [partRec, bufRec 2 0 0 4096 0, bufRec 3 0 0 65536 0, cacheRec] with place := [(2, 8192), (3, 65536)] }

def cacheState (w : OpWord) (st : CacheSt) (ms : List (Nat × List Byte)) : State :=
  on (runs [w] []) (fun m => { m with
    parts := [(5, { Part.empty with resident := some (cachePk w), caches := [(0, st)] })]
    mem := ms.foldl (fun a x => Mem.write a x.1 x.2) [] })

def idleCache : CacheSt := { round := 0, entry := none, count := 0, stall := none, retry := false, rounds := 0, dropped := 0, blocks := 0 }

theorem test_wit_DataMovementIssues_ptld : ∃ x, Issues (cacheState (word 0x2B (2 * 2 ^ 108)) idleCache []) 512 x checksPtld
    (fun m x => stallPlan m x (planPtld m x)) ∧ opcOf x.w = 0x2B := by
  refine ⟨_, ⟨rfl, rfl, by decide, ?_⟩, by decide⟩
  rw [stallPlan, stalls_idle _ _ _ _ (by decide) (by decide)]
  decide

/-- Window 0 of the partition's rank 0: FP8, 64 K steps, consumer core 0. -/
def aWin (b : FwBuf) (posts : List Nat) : FillWin := ⟨3, 0, 1, 64, 0, [b], 0, posts⟩

def winState (w : OpWord) (b : FwBuf) (posts : List Nat) : State :=
  on (runs [w] [partRec]) (fun m => m.modPart 5 (fun q => { q with wins := [(0, aWin b posts)] }))

theorem test_wit_DataMovementIssues_post : ∃ x, Issues (winState (word 0x2C 0) ⟨.free, [], []⟩ []) 512 x checksFwpost stallFwpost ∧
    opcOf x.w = 0x2C ∧ fwPosts x (winState (word 0x2C 0) ⟨.free, [], []⟩ []).mach = some (aWin ⟨.free, [], []⟩ []) :=
  ⟨_, ⟨rfl, rfl, by decide, by decide⟩, by decide, rfl⟩

/-- An outstanding copy of one unit from unit 0 to unit 1 of local memory. -/
def aCopy : DmaEntry := ⟨word 0x28 (2 ^ 72), 0, .copy (localKey 512 0) (localKey 512 64) 0 0 1 64, some (512 * 32)⟩

def copying : State := ctx512 (runs [] [partRec]) (fun c => { c with dma := [aCopy] })

theorem test_wit_DataMovementEnds_complete : copying.mach.partOf (512 / 16) = some 5 ∧ copying.mach.dmaAt 512 0 = some (false, 0, aCopy) ∧
    copying.mach.badPieceOf (aCopy.plan.moved copying.mach) = none ∧ (∀ w a l r t k, aCopy.plan ≠ .post w a l r t k) ∧
    (∀ q d l t, aCopy.plan ≠ .remote q d l t) :=
  ⟨by decide, by decide, by decide, by intros; simp [aCopy], by intros; simp [aCopy]⟩

/-- The only piece of the copy reads an uncorrectable half, or turns out to. -/
theorem test_wit_DataMovementEnds_fails : (on copying (fun m => { m with bad := [localKey 512 0 / 32] })).mach.eccPiece
      ((on copying (fun m => { m with bad := [localKey 512 0 / 32] })).mach.movedNow 5 512 aCopy.plan) 7 = some (0, localKey 512 0) ∧
    copying.mach.eccPiece (copying.mach.movedNow 5 512 aCopy.plan) 0 = some (0, localKey 512 0) := by decide

theorem test_wit_CopyRows_words : ∃ x a b, (copyState (word 0x29 (2 ^ 64)) linear1).mach.wx 512 = some x ∧
    x.sbuf (copyState (word 0x29 (2 ^ 64)) linear1).mach = some a ∧ x.dbuf (copyState (word 0x29 (2 ^ 64)) linear1).mach = some b ∧
    leAt ((copyState (word 0x29 (2 ^ 64)) linear1).mach.shapeOf x) 0 1 = 1 := ⟨_, _, _, rfl, rfl, rfl, by decide⟩

theorem test_wit_CopyRows_rows : ∃ x, (copyState (word 0x29 (2 ^ 64)) (leBytes 1 2 ++ zeros 3 ++ leBytes 4 2 ++ leBytes 4 1 ++ leBytes 4 1 ++
    leBytes 4 1)).mach.wx 512 = some x ∧ leAt ((copyState (word 0x29 (2 ^ 64)) (leBytes 1 2 ++ zeros 3 ++ leBytes 4 2 ++ leBytes 4 1 ++ leBytes 4 1 ++
    leBytes 4 1)).mach.shapeOf x) 0 1 = 2 := ⟨_, rfl, by decide⟩

theorem test_wit_CopyRows_copy : Memory.wf copying.mach ∧ copying.mach.dmaAt 512 0 = some (false, 0, aCopy) ∧
    aCopy.plan = .copy (localKey 512 0) (localKey 512 64) 0 0 1 (64 * 1) ∧ copying.mach.badPieceOf (aCopy.plan.moved copying.mach) = none := by decide

/-- A copy moves its bytes when it completes. -/
theorem test_copy : (after (.dmaComplete 512 0) (on copying (fun m => m.wr (localKey 512 63) [7#8]))).rd (localKey 512 127) 1 = [7#8] := by decide

def aPost : DmaEntry := ⟨word 0x2C 0, 0, .post 0 (localKey 512 0) 64 (localKey 512 64) 1 0, none⟩

def posting (b : FwBuf) : State :=
  on (ctx512 (winState (word 0 0) b [512]) (fun c => { c with dma := [aPost] })) id

theorem test_wit_PostsAndWindows_accept : ((posting ⟨.free, [], []⟩).mach.part 5).wins.get? 0 = some (aWin ⟨.free, [], []⟩ [512]) ∧
    findPost ((posting ⟨.free, [], []⟩).mach.core 512).host.dma 0 = some (0, aPost) ∧
    (posting ⟨.free, [], []⟩).mach.badPieceOf (movedPost (posting ⟨.free, [], []⟩).mach 3 64 (clusterKey 32 0) 0 (localKey 512 0)) = none ∧
    ((posting ⟨.free, [], []⟩).mach.resJob 5).isSome = true := by decide

theorem test_wit_PostsAndWindows_opened : ((posting ⟨.opened 9, [], []⟩).mach.part 5).wins.get? 0 = some (aWin ⟨.opened 9, [], []⟩ [512]) ∧
    (List.replicate 63 (⟨512, 0, 0, 0⟩ : FwRow)).length < 64 ∧ (posting ⟨.opened 9, [], []⟩).mach.fwNow 5 ≤ 9 := by decide

theorem test_wit_PostsAndWindows_deadline : ((posting ⟨.opened 0, [], []⟩).mach.part 5).wins.get? 0 = some (aWin ⟨.opened 0, [], []⟩ [512]) ∧
    0 ≤ (posting ⟨.opened 0, [], []⟩).mach.rc ∧ (posting ⟨.opened 0, [], []⟩).mach.switching 5 = false := by decide

theorem test_wit_PostsAndWindows_free : ((posting ⟨.ready 0, [], [512]⟩).mach.part 5).wins.get? 0 = some (aWin ⟨.ready 0, [], [512]⟩ [512]) ∧
    (∀ j, j < 16 → bit 1 j = true → 16 * ((posting ⟨.ready 0, [], [512]⟩).mach.clusters 5).getD 0 0 + j ∈ [512]) := by decide

/-- RDMA to peer 0 from buffer 0 on this module's own fabric address. -/
def rdmaState (op : Nat) : State :=
  on (runs [word 0x2A (op * 2 ^ 110)] [partRec, peerRec, bufRec 0 1 0 4096 0]) (objsOn [(okey 0x4885 2, 1)])

theorem test_wit_RemoteWords_write : ∃ x, Issues (rdmaState 0) 512 x checksRdma stallRdma ∧ opcOf x.w = 0x2A ∧ x.pk.peerRec (x.f 119 112) = some peerRec ∧
    x.f 111 110 = 0 := ⟨_, ⟨rfl, rfl, by decide, by decide⟩, by decide, rfl, by decide⟩

theorem test_wit_RemoteWords_bf16 : ∃ x, Issues (rdmaState 2) 512 x checksRdma stallRdma ∧ x.f 111 110 = 2 ∧ (rdmaState 2).mach.pv 5 < 2 ∧
    (rdmaState 2).mach.hop (peerAt peerRec).1 512 = none := ⟨_, ⟨rfl, rfl, by decide, by decide⟩, by decide, by decide, by decide⟩

/-- The peer is in this module: its messages are delivered here. -/
theorem test_wit_RemoteWords_local : (on (rdmaState 2) (objsOn [(okey 0x4800 2, 2 ^ 15 + 7), (okey 0x4885 2, 2)])).mach.hop (peerAt peerRec).1 512 = some 64 ∧
    2 ≤ (on (rdmaState 2) (objsOn [(okey 0x4800 2, 2 ^ 15 + 7), (okey 0x4885 2, 2)])).mach.pv 5 ∧ 64 % contribBytes 2 ≠ 0 ∧ 8192 % contribBytes 2 = 0 := by
  decide

/-! ## Clients and jobs -/

theorem test_wit_JobRecords_unbound : State.reset.mach.phase = .running ∧ State.reset.mach.clientPart 511 = none := by decide

theorem test_wit_JobRecords_bound : (jobs5 withPk []).mach.clientPart 40 = some 5 ∧ (63 % 64 + 64 - (jobs5 withPk []).mach.sqHead 40) % 64 = 63 ∧
    (jobs5 withPk []).mach.badRead [((jobs5 withPk []).mach.obj (cix 40) 2 + 128 * 62, 128)] = none := by decide

/-- Client 40's job with its tag, found by a CANCEL of tag 2. -/
def finds (st : JobSt) (kind : Nat) : Prop :=
  (jobs5 withPk [{ aJob with st := st, kind := kind }]).mach.jobs.find?
    (fun j => j.client = 40 && j.tag = fld 2 15 0 && j.genr = fld 2 23 16 && !j.isDone) = some { aJob with st := st, kind := kind }

theorem test_wit_JobRecords_cancel : finds .queued 1 ∧ finds .fenced 1 ∧ finds (.saved 0 0) 1 ∧ finds .running 1 ∧ finds .running 8 ∧
    finds .running 4 ∧ finds .running 5 := by unfold finds; decide

theorem test_wit_JobRecords_miss : fld (2 ^ 24 + 2) 31 24 ≠ 0 ∧ (jobs5 withPk []).mach.jobs.find?
    (fun j => j.client = 40 && j.tag = fld 2 15 0 && j.genr = fld 2 23 16 && !j.isDone) = none := by decide

theorem test_wit_JobRecords_record : (jobs5 withPk [{ aJob with st := .done 1 4 0 }]).mach.nextDone 40 = some { aJob with st := .done 1 4 0 } ∧
    ((jobs5 withPk [{ aJob with st := .done 1 4 0 }]).mach.cqTail 40 + 1) % 64 ≠ (jobs5 withPk [{ aJob with st := .done 1 4 0 }]).mach.cqHead 40 ∧
    aJob.pins = [] := by decide

theorem test_wit_JobRecords_full : ((on (jobs5 withPk [{ aJob with st := .done 1 4 0 }]) (fun m => m.setObj (cix 40) 4 (63 * 2 ^ 22))).mach.cqTail 40 + 1) % 64 =
    (on (jobs5 withPk [{ aJob with st := .done 1 4 0 }]) (fun m => m.setObj (cix 40) 4 (63 * 2 ^ 22))).mach.cqHead 40 := by decide

/-- The record of a job that faulted: its status and code (Table 14-7). -/
theorem test_completion_record : ((after (.completionRecord 40) (jobs5 withPk [{ aJob with st := .done 1 4 0 }])).rd 4096 6) = [2, 0, 0, 1, 1, 4] := by decide

theorem test_wit_RunDispatch_run : (jobs5 withPk [{ aJob with st := .queued }]).mach.nextRes 5 = some { aJob with st := .queued } ∧
    ((jobs5 withPk [{ aJob with st := .queued }]).mach.part 5).resident = some (pk [word 0 0] [partRec]) ∧ (pk [word 0 0] [partRec]).lengths = none ∧
    (jobs5 withPk [{ aJob with st := .queued }]).mach.objBit (0x6480 + 5) 0xF 8 = false := by decide

theorem test_wit_RunDispatch_open : (on (jobs5 withPk [{ aJob with st := .queued }]) (fun m => m.setObj 0x6485 0xF 256)).mach.nextRes 5 =
    some { aJob with st := .queued } ∧
    (on (jobs5 withPk [{ aJob with st := .queued }]) (fun m => m.setObj 0x6485 0xF 256)).mach.objBit (0x6480 + 5) 0xF 8 = true := by decide

theorem test_run_starts : (((after (.run 5) (jobs5 withPk [{ aJob with st := .queued }])).core 512).host.run = .running) ∧
    (((after (.run 5) (jobs5 withPk [{ aJob with st := .queued }])).core 513).host.run = .noStream) := by decide

theorem test_wit_Loads : (jobs5 Part.empty [{ aJob with st := .queued, kind := 2, arg1 := 65536 }]).mach.nextRes 5 =
    some { aJob with st := .queued, kind := 2, arg1 := 65536 } ∧ aJob.part = 5 := by decide

theorem test_wit_LoaderObjects_unload : (jobs5 withPk [{ aJob with st := .queued, kind := 3 }]).mach.nextRes 5 =
    some { aJob with st := .queued, kind := 3 } := by decide

/-- Partition 5 while it forms. -/
def forming5 : State := on (jobs5 Part.empty []) (fun m => m.setObj (pix 5) 2 9)

theorem test_wit_LoaderObjects_forms : forming5.mach.phase = .running ∧ forming5.mach.pstate 5 = 1 := by decide

theorem test_wit_LoaderObjects_castOn : (on State.reset (fun m => { m with phase := .off })).mach.phase = .off ∧ vinGood 4000 = true ∧ vinGood 6000 = true ∧
    (on State.reset (fun m => { m with phase := .held })).mach.phase = .held ∧ (on State.reset (fun m => { m with phase := .lowVin })).mach.phase = .lowVin := by
  decide

def stoppingJob : Job := { aJob with st := .stopping 1 4 }

theorem test_wit_JobEnds_stop : (jobs5 withPk [stoppingJob]).mach.resJob 5 = some stoppingJob ∧ (jobs5 withPk [stoppingJob]).mach.streamsDone 5 false = true ∧
    (jobs5 withPk [stoppingJob]).mach.objBit (pix 5) 2 0 = false ∧
    (∀ k ∈ (jobs5 withPk [stoppingJob]).mach.jobs, k ≠ stoppingJob → k.same stoppingJob = false ∧
      (k.part = 5 → k.live = true → k.kind ≠ 1 ∧ k.kind ≠ 2 ∧ k.kind ≠ 3)) := by
  refine ⟨by decide, by decide, by decide, ?_⟩
  intro k hk hne
  simp only [jobs5, up, List.mem_singleton] at hk
  exact absurd hk hne

def listJob (kind : Nat) : Job := { aJob with kind := kind, st := .queued, arg0 := 8192, arg2 := 2 }

theorem test_wit_JobEnds_media : (jobs5 withPk [listJob 4]).mach.canDispatch 5 = true ∧ (jobs5 withPk [listJob 4]).mach.nextList 5 4 = some (listJob 4) ∧
    (jobs5 withPk [listJob 4]).mach.badRead [(8192, 128)] = none ∧ (listJob 4).fed < (listJob 4).arg2 := by decide

theorem test_wit_JobEnds_same : ∀ k ∈ (jobs5 withPk [listJob 4]).mach.jobs, k.same (listJob 4) = true → k = listJob 4 := by
  intro k hk _
  simpa [jobs5, up] using hk

theorem test_wit_JobEnds_input : (jobs5 withPk [listJob 5]).mach.nextList 5 5 = some (listJob 5) ∧
    (on (jobs5 withPk [listJob 5]) (fun m => { m with bad := [256] })).mach.badRead [(8192, 128)] = some 8192 := by decide

/-! ## Guests -/

theorem test_wit_Guests_load : (jobs5 withPk [{ aJob with st := .queued, kind := 6 }]).mach.nextGuest 5 = some { aJob with st := .queued, kind := 6 } ∧
    (jobs5 withPk [{ aJob with st := .queued, kind := 7 }]).mach.nextGuest 5 = some { aJob with st := .queued, kind := 7 } ∧
    (jobs5 withPk [{ aJob with st := .queued, kind := 8 }]).mach.nextGuest 5 = some { aJob with st := .queued, kind := 8 } := by decide

theorem test_wit_Guests_run : ((jobs5 { withPk with guest := some (pk [word 0 0] []) } [{ aJob with st := .queued, kind := 8 }]).mach.part 5).guest =
    some (pk [word 0 0] []) := by decide

/-- Core 512's host waits since rc 0 and its guest runs; 2000 ns have passed. -/
def waitingHost (k : Core) : State :=
  on (jobs5 { withPk with guest := some (pk [word 0 0] []) } [{ aJob with kind := 8 }]) (fun m => { m with
    rc := 50
    cores := [(512, { k with
      host := { Ctx.init with run := .waiting 16384 1 0 0 }
      guest := { Ctx.init with run := .running } })] })

theorem test_wit_Guests_switch : (waitingHost (Core.init 0)).mach.jobRuns 5 true = true ∧ (waitingHost (Core.init 0)).mach.switching 5 = false ∧
    ((waitingHost (Core.init 0)).mach.core 512).guest.alive = true ∧ (∀ b ∈ ((waitingHost (Core.init 0)).mach.core 512).arr.banks, b.held = false) ∧
    (waitingHost (Core.init 0)).mach.guestDue 5 512 = true := by decide

theorem test_wit_Guests_back : ((waitingHost { Core.init 0 with inGuest := true, back := true }).mach.core 512).inGuest = true ∧
    ((waitingHost { Core.init 0 with inGuest := true, back := true }).mach.core 512).back = true ∧
    (∀ o ∈ ((waitingHost { Core.init 0 with inGuest := true, back := true }).mach.core 512).arr.queue, o.guest = false) ∧
    (∀ d ∈ ((waitingHost { Core.init 0 with inGuest := true, back := true }).mach.core 512).arr.drains, d.op.guest = false) := by decide

theorem test_wit_Guests_end : (jobs5 withPk [{ aJob with kind := 8 }]).mach.guestJob 5 = some { aJob with kind := 8 } ∧
    (jobs5 withPk [{ aJob with kind := 8 }]).mach.streamsDone 5 true = true ∧
    (jobs5 withPk [{ stoppingJob with kind := 8 }]).mach.guestJob 5 = some { stoppingJob with kind := 8 } := by decide

/-! ## Partitions -/

/-- Partition 6 is free and names cluster 33 and stack 1. -/
def free6 : State := on (jobs5 withPk []) (objsOn [(okey (pix 6) 3, 2 ^ 33), (okey (pix 6) 4, 2)])

theorem test_wit_PartitionCommands_form : free6.mach.online = true ∧ fld 0x10000 19 16 = 1 ∧ (0x10000 : Nat) / 2 ^ 20 = 0 ∧ (0x10000 : Nat) % 2 ^ 16 = 0 ∧
    free6.mach.objBit (pix 6) 2 0 = false ∧ free6.mach.testMode = false ∧ free6.mach.formReason 6 = 0 := by decide

theorem test_wit_PartitionCommands_refused : free6.mach.formReason 5 = 6 ∧
    (on free6 (fun m => m.setObj (pix 6) 3 (2 ^ 32))).mach.formReason 6 = 1 ∧ fld 0x110000 19 16 = 1 ∧ (0x110000 : Nat) / 2 ^ 20 ≠ 0 ∧
    fld 0x10001 19 16 = 1 ∧ (0x10001 : Nat) % 2 ^ 16 ≠ 0 ∧ forming5.mach.objBit (pix 5) 2 0 = true ∧
    (on free6 (fun m => m.setObj 0xA000 1 3)).mach.testMode = true := by decide

theorem test_form : ((after (.form 6 0x10000) free6).pstate 6 = 1) ∧ ((after (.form 5 0x10000) free6).field (pix 5) 2 23 16 = 6) := by decide

theorem test_wit_PartitionCommands_done : forming5.mach.pstate 5 = 1 ∧ Memory.wf forming5.mach := by decide

theorem test_wit_PartitionCommands_dissolve : (jobs5 withPk []).mach.pstate 5 = 2 ∧ (jobs5 withPk []).mach.saving 5 = false ∧
    (jobs5 withPk []).mach.objBit (pix 5) 2 0 = false ∧ (jobs5 withPk []).mach.pstate 6 ≠ 2 ∧
    (on (jobs5 withPk [aJob]) (fun m => m.setObj (pix 5) 2 0x50)).mach.saving 5 = true ∧
    (on (jobs5 withPk [aJob]) (fun m => m.setObj (pix 5) 2 0x50)).mach.pstate 5 = 2 := by decide

/-- A job that allows its save, in a partition with one save slot. -/
def savable (bits : Nat) (x : Part) : State :=
  on (jobs5 x [{ aJob with flags := 1 }]) (objsOn [(okey (pix 5) 2, bits), (okey (pix 5) 9, 1), (okey (pix 5) 0xA, 1)])

theorem test_wit_Saves_begin : (savable 16 withPk).mach.victim 5 = some { aJob with flags := 1 } ∧ (savable 16 withPk).mach.switching 5 = false ∧
    ((savable 16 { withPk with wantSave := true }).mach.part 5).wantSave = true ∧ (savable 16 withPk).mach.pstate 5 = 2 := by decide

theorem test_wit_Saves_refused : (jobs5 withPk [aJob]).mach.victim 5 = none ∧ (jobs5 withPk [aJob]).mach.pstate 6 ≠ 2 := by decide

theorem test_wit_Saves_complete : (savable 0x50 withPk).mach.victim 5 = some { aJob with flags := 1 } ∧ (savable 0x50 withPk).mach.freeSlot 5 = some 0 ∧
    (savable 0x50 withPk).mach.switching 5 = true ∧ (savable 0x50 withPk).mach.saveReady 5 = true ∧
    (savable 0x50 withPk).mach.objBit (pix 5) 2 0 = false := by decide

/-- Core 512 streams the first tile of `anOp`, of 64 K steps, or of 128, when its job is saved: the cut lies inside the tile, or at its end. -/
theorem test_wit_Saves_cut : (on (savable 16 withPk) (fun m => m.modArr 512 (fun _ => { Arr.init with queue := [anOp], busy := true }))).mach.coresOf 5 =
      (List.range 16).map (512 + ·) ∧ anOp.guest = false ∧ anOp.k ≤ max (64 * 0) (anOp.kdone + 64) ∧
    max (64 * 0) (({ anOp with ar := word 0x11 (2 ^ 104 + 2 ^ 89) } : ArOp).kdone + 64) < ({ anOp with ar := word 0x11 (2 ^ 104 + 2 ^ 89) } : ArOp).k := by decide

def aSlot : SaveSlot := ⟨[], [], [], 0, false, [], [], 0⟩

def saved5 (bad : List Nat) : State :=
  on (jobs5 { withPk with saves := [(0, aSlot)] } [{ aJob with st := .saved 0 0 }]) (fun m =>
    { objsOn [(okey (pix 5) 9, 1), (okey (pix 5) 0xA, 1)] m with bad := bad })

theorem test_wit_Saves_restore : (saved5 []).mach.nextRes 5 = some { aJob with st := .saved 0 0 } ∧ ((saved5 []).mach.part 5).saves.get? 0 = some aSlot ∧
    (saved5 []).mach.slotLost 5 0 = none := by decide

theorem test_wit_Saves_lost : (saved5 [(stackUsable - (saved5 []).mach.saveArea 5) / 32]).mach.slotLost 5 0 ≠ none := by decide

theorem test_wit_BindingWrites : (jobs5 withPk []).mach.serves .portA = true ∧ (∀ j ∈ (jobs5 withPk []).mach.jobs, j.client ≠ 40) ∧
    (jobs5 withPk []).mach.sqHead 40 = (jobs5 withPk []).mach.sqTail 40 ∧ (jobs5 withPk []).mach.holds 5 8192 8192 = true ∧
    (jobs5 withPk []).mach.clientPart 40 = some 5 ∧ (jobs5 withPk []).mach.formed 5 = true ∧ (8192 : Nat) % 8192 = 0 := by decide

theorem test_wit_BindingWrites_busy : ¬ ((∀ j ∈ (jobs5 withPk [aJob]).mach.jobs, j.client ≠ 40) ∧
    (jobs5 withPk [aJob]).mach.sqHead 40 = (jobs5 withPk [aJob]).mach.sqTail 40) ∧ ¬ ((2 : Nat) = 2 → (8191 : Nat) % 8192 = 0) := by decide

/-! ## The key-value cache -/

/-- The cache's job runs, with a list of one entry, a record of its sequence, and markers as given. -/
def engine (st : CacheSt) (list : List Byte) (mk : Nat) : State :=
  on (cacheState (word 0 0) st [(clusterKey 32 65536, list)]) (fun m => { m with markers := [(512 * 32 + 0, mk)] })

def theCache : CacheAt := ⟨cacheRec, 0, 8192, 65536, 32⟩

/-- A list of one APPEND of one token to sequence 0. -/
def list1 : List Byte := leBytes 2 1 ++ zeros 62 ++ leBytes 2 0 ++ leBytes 1 0 ++ zeros 1 ++ leBytes 2 1 ++ zeros 10

theorem test_wit_KeyValueCache_round : (engine idleCache list1 1).mach.cacheAt 5 0 = some theCache ∧ (engine idleCache list1 1).mach.enginesRun 5 = true ∧
    ((engine idleCache list1 1).mach.cacheSt 5 0).entry = none ∧
    0 + 1 ≤ (engine idleCache list1 1).mach.markers.get 0 ((engine idleCache list1 1).mach.absMk 5 (leAt theCache.r 20 2)) ∧
    (engine idleCache list1 1).mach.badRead [(theCache.listKey, 64)] = none ∧ (engine idleCache list1 1).mach.rdNat theCache.listKey 2 ≤ 256 := ⟨rfl, by decide +kernel⟩

theorem test_wit_KeyValueCache_waits : (engine idleCache list1 0).mach.markers.get 0 ((engine idleCache list1 0).mach.absMk 5 (leAt theCache.r 20 2)) ≤
    ((engine idleCache list1 0).mach.cacheSt 5 0).round := by decide

/-- The engine at entry 0 of a round of `n` entries. -/
def atEntry (n : Nat) (stall : Option Nat) (retry : Bool) : CacheSt := { idleCache with entry := some 0, count := n, stall := stall, retry := retry }

theorem test_wit_KeyValueCache_end : ((engine (atEntry 0 none false) list1 1).mach.cacheSt 5 0).entry = some 0 ∧
    ((engine (atEntry 0 none false) list1 1).mach.cacheSt 5 0).count ≤ 0 := by decide

/-- What an entry reads before anything is placed. -/
def firstReads (m : Mach) : List (Nat × Nat) :=
  (theCache.listKey + 64 + 16 * 0, 16) :: (theCache.recKey (theCache.entryAt m 0).seq, 32) :: theCache.entReads m (theCache.entryAt m 0)

theorem test_wit_KeyValueCache_append : (engine (atEntry 1 none false) list1 1).mach.cacheAt 5 0 = some theCache ∧
    (theCache.entryAt (engine (atEntry 1 none false) list1 1).mach 0).mode = 0 ∧
    theCache.entryFault (engine (atEntry 1 none false) list1 1).mach (theCache.entryAt (engine (atEntry 1 none false) list1 1).mach 0) = none ∧
    (engine (atEntry 1 none false) list1 1).mach.badRead (firstReads (engine (atEntry 1 none false) list1 1).mach) = none ∧
    (engine (atEntry 1 none false) list1 1).mach.badRead (theCache.staged (theCache.entryAt (engine (atEntry 1 none false) list1 1).mach 0)) = none ∧
    (theCache.place 5 0 false (engine (atEntry 1 none false) list1 1).mach
      (theCache.pagesOf (engine (atEntry 1 none false) list1 1).mach (theCache.entryAt (engine (atEntry 1 none false) list1 1).mach 0))).1 = .all ∧
    (engine (atEntry 1 none false) list1 1).mach.ptReads 5 = [] :=
  ⟨rfl, by decide +kernel, by decide +kernel, Mach.badRead_clean _ rfl rfl _, Mach.badRead_clean _ rfl rfl _, by decide +kernel, by decide +kernel⟩

/-- A word that reads the pool while the entry would store there. -/
theorem test_wit_KeyValueCache_held : overlaps [(65536, 64)] ((on (engine (atEntry 1 none false) list1 1) (fun m =>
    m.modCtx 512 false (fun c => { c with dma := [⟨word 0x2B 0, 0, .gather 0 64 [(some 65536, 0, 64)], none⟩] }))).mach.ptReads 5) = true := by decide +kernel

/-- The block map cannot be read. -/
theorem test_wit_KeyValueCache_lost : (theCache.place 5 0 false
      (on (engine (atEntry 1 none false) list1 1) (fun m => { m with bad := [theCache.blkKey 0 / 32] })).mach [0]).1 =
    .lost (theCache.blkKey 0 / 32 * 32) := by decide +kernel

/-- The pool's one block is full, and no sequence can give a page up. -/
def fullPool (stall : Option Nat) (retry : Bool) : State :=
  on (engine (atEntry 1 stall retry) list1 1) (fun m => { m with mem := Mem.write m.mem (theCache.blkKey 0) (leBytes 2 0xFFFF) })

theorem test_wit_KeyValueCache_stall : (fullPool none false).mach.cacheAt 5 0 = some theCache ∧
    theCache.entryFault (fullPool none false).mach (theCache.entryAt (fullPool none false).mach 0) = none ∧
    (theCache.place 5 0 false (fullPool none false).mach (theCache.pagesOf (fullPool none false).mach (theCache.entryAt (fullPool none false).mach 0))).1 =
      .stall 0 ∧ (theCache.place 5 0 false (fullPool (some 0) true).mach
        (theCache.pagesOf (fullPool (some 0) true).mach (theCache.entryAt (fullPool (some 0) true).mach 0))).1 = .stall 0 := ⟨rfl, by decide +kernel⟩

/-- The engine that stalled finds a slot once the pool has room. -/
theorem test_wit_KeyValueCache_room : (theCache.place 5 0 false (engine (atEntry 1 (some 0) true) list1 1).mach
      (theCache.pagesOf (engine (atEntry 1 (some 0) true) list1 1).mach (theCache.entryAt (engine (atEntry 1 (some 0) true) list1 1).mach 0))).1 = .all := by
  decide +kernel

theorem test_wit_KeyValueCache_retry : ((fullPool (some 0) true).mach.cacheSt 5 0).stall.isSome = true ∧
    ((fullPool (some 0) true).mach.cacheSt 5 0).retry = true ∧ ((fullPool (some 0) false).mach.cacheSt 5 0).retry = false ∧
    (fullPool (some 0) true).mach.enginesRun 5 = true := by decide

/-- An entry that stalls shows it in 6440h + p.06 (Table 8-12). -/
theorem test_append_stalls : (after (.append 5 0) (fullPool none false)).obj 0x6445 6 = 2 ^ 31 := by decide

theorem test_wit_KeyValueCache_commands : (engine idleCache list1 1).mach.cacheAt 5 ((engine idleCache list1 1).mach.obj (0x6440 + 5) 1) = some theCache ∧
    (engine idleCache list1 1).mach.online = true ∧ (engine idleCache list1 1).mach.pstate 5 ≠ 0 ∧ ccNseq theCache.r ≤ 1 ∧ 0 < ccNseq theCache.r ∧
    bit (theCache.flags (engine idleCache list1 1).mach 0) 1 = false ∧ Memory.wf (engine idleCache list1 1).mach ∧
    (engine idleCache list1 1).mach.objBit (0x6440 + 5) 4 0 = false ∧
    (on (engine idleCache list1 1) (fun m => m.setObj 0x6445 4 1)).mach.objBit (0x6440 + 5) 4 0 = true := ⟨rfl, by decide⟩

theorem test_wit_KeyValueCache_pinned : bit (theCache.flags (on (engine idleCache list1 1) (fun m =>
    { m with mem := Mem.write m.mem (theCache.recKey 0 + 16) (leBytes 2 2) })).mach 0) 1 = true := by decide

/-! ## Reduction buffers and training -/

def stagedRb : RBuf := { RBuf.init rbRec with staged := [[⟨0, 0, 16384, false⟩]] }

theorem test_wit_Contributions_add : (rbState stagedRb).mach.rb 5 3 = some stagedRb ∧ (rbState stagedRb).mach.rbRec 5 3 = some rbRec ∧
    (turnsOf rbRec 0)[0]? = some (0, 0) ∧ (stagedRb.staged.getD 0 []).find? (fun x => x.j = 0 && x.got ≥ 16384) = some ⟨0, 0, 16384, false⟩ ∧
    rbMode rbRec ≠ 2 ∧ slotFor rbRec stagedRb false = some (0, none) ∧ (rbState stagedRb).mach.switching 5 = false ∧
    (rbState stagedRb).mach.badRead [((rbState stagedRb).mach.rbStageKey 5 rbRec 0 0, 16384), ((rbState stagedRb).mach.rbEntryKey 5 rbRec 0, 32)] = none := by
  decide

/-- A message of an operation that comes by local delivery. -/
def aMsg (op arg : Nat) : Msg := { msgBlank op 1 0 7 5 3 0 0 0x1000 0 with arg := arg }

def delivers (x : Msg) : State := on (jobs5 withPk [aJob]) (fun m => { m with localMsgs := [x] })

theorem test_wit_Contributions_grant : (delivers (aMsg 6 (3 + 2 ^ 24))).mach.arrives 64 (aMsg 6 (3 + 2 ^ 24)) = true ∧ (aMsg 6 (3 + 2 ^ 24)).arg % 256 = 3 ∧
    (delivers (aMsg 6 (3 + 2 ^ 24))).mach.malformed 64 (aMsg 6 (3 + 2 ^ 24)) = false := by decide

/-- A tile that has its first contribution, in slot 0, and waits for another. -/
theorem test_wit_Contributions_next : ({ stagedRb with tiles := [(0, ⟨0, 0, none, 0, true, false⟩)] } : RBuf).tiles.get? 0 = some ⟨0, 0, none, 0, true, false⟩ ∧
    (rbState stagedRb).mach.firstBad ((rbState stagedRb).mach.rbSlotKey 5 rbRec 0) 16384 = none := by decide

/-- An UPDATE buffer, ID 3, of one fast-tier tile, and its recipe: SGD. -/
def upRec (slow : Nat) : List Byte :=
  leBytes 1 5 ++ zeros 3 ++ leBytes 1 1 ++ leBytes 1 2 ++ leBytes 2 3 ++ leBytes 1 0 ++ leBytes 1 1 ++ leBytes 1 0 ++ leBytes 1 slow ++ leBytes 2 1 ++
  leBytes 2 1 ++ leBytes 4 65536 ++ zeros 28 ++
  (leBytes 1 0 ++ leBytes 1 0 ++ leBytes 2 0 ++ leBytes 2 0 ++ leBytes 2 0 ++ leBytes 1 1 ++ leBytes 1 1 ++ zeros 6)

def recipeRec : List Byte := leBytes 1 5 ++ zeros 3 ++ leBytes 1 2 ++ zeros 43 ++ zeros 4

def upPk (slow : Nat) : Pricking := pk [] [partRec, upRec slow, recipeRec]

def upState (slow : Nat) (b : RBuf) (sweep : Bool) : State :=
  on (jobs5 { Part.empty with resident := some (upPk slow), rbufs := [(3, b)], sweep := sweep } [aJob]) id

def heldTile (area : Option Nat) (loaded : Bool) : RBuf := { RBuf.init (upRec 0) with tiles := [(0, ⟨0, 0, area, 1, loaded, true⟩)] }

theorem test_wit_UpdateRounds_read : (upState 1 (heldTile (some 0) false) false).mach.rb 5 3 = some (heldTile (some 0) false) ∧
    (upState 1 (heldTile (some 0) false) false).mach.rbRec 5 3 = some (upRec 1) ∧
    (heldTile (some 0) false).tiles.get? 0 = some ⟨0, 0, some 0, 1, false, true⟩ ∧
    (upState 1 (heldTile (some 0) false) false).mach.badRead [((upState 1 (heldTile (some 0) false) false).mach.rbEntryKey 5 (upRec 1) 0, 32), (0, 32768)] =
      none := by decide

theorem test_wit_UpdateRounds_sweep : (on (upState 0 (heldTile none true) false) (fun m => m.setObj 0x6485 1 1)).mach.obj (0x6480 + 5) 1 = 1 ∧
    (upPk 0).updates ≠ [] ∧ (∀ it ∈ (upPk 0).updateTiles, (upState 0 (heldTile none true) false).mach.tileReady 5 it = true) ∧
    (∃ it ∈ (upPk 0).updateTiles, (upState 0 (heldTile none false) false).mach.tileReady 5 it = false) := by decide

theorem test_wit_UpdateRounds_update : (upPk 0).rbuf 3 = some (upRec 0) ∧ rbMode (upRec 0) = 2 ∧
    (upState 0 (heldTile none true) false).mach.obj (0x6480 + 5) 1 = 0 ∧ (upState 0 (heldTile none true) false).mach.switching 5 = false ∧
    (upPk 0).recipe (teRid ((upState 0 (heldTile none true) false).mach.rbEntry 5 (upRec 0) 0)) = some recipeRec ∧
    (heldTile none true).tiles.get? 0 = some ⟨0, 0, none, 1, true, true⟩ ∧
    (upState 0 (heldTile none true) false).mach.badRead [(clusterKey 32 65536, 16384), (0, 32768),
      ((upState 0 (heldTile none true) false).mach.rbEntryKey 5 (upRec 0) 0, 32)] = none := by decide

theorem test_wit_UpdateRounds_turn : (upState 0 (heldTile none true) true).mach.part 5 =
    { Part.empty with resident := some (upPk 0), rbufs := [(3, heldTile none true)], sweep := true } ∧
    (upPk 0).updateTiles.find? (fun it => (upState 0 (heldTile none true) true).mach.tileReady 5 it) = some (3, 0) := by decide

def doneRb : RBuf := { RBuf.init (upRec 0) with rounds := [(0, 1)] }

theorem test_wit_UpdateRounds_close : (upState 0 doneRb false).mach.switching 5 = false ∧ (upState 0 doneRb false).mach.roundFull 5 = true ∧
    (upState 0 doneRb false).mach.digestDue 5 1 = false ∧ (upState 0 doneRb false).mach.digestLost 5 (upPk 0) = none ∧
    (on (upState 0 doneRb false) (fun m => m.setObj 0x6485 3 1)).mach.digestDue 5 1 = true ∧
    ((upState 0 doneRb false).mach.closeRound 5).lifeDue 5 (((upState 0 doneRb false).mach.closeRound 5).obj (0x6480 + 5) 2) = false ∧
    ((upPk 0).recipes.map (fun r => leAt r 5 1)).Nodup ∧ (upState 0 (RBuf.init (upRec 0)) false).mach.roundFull 5 = false := by decide

/-- The round counter after a round closes (R266). -/
theorem test_round_close : (after (.roundClose 5) (upState 0 doneRb false)).obj 0x6485 2 = 1 := by decide

def formats (js : List Job) : State := jobs5 { Part.empty with resident := some (upPk 0) } js

/-- The format command of buffer 3, format FFh, tile 0. -/
def fmtCmd : Nat := 3 * 2 ^ 48 + 0xFF * 2 ^ 40

theorem test_wit_FormatCommands : (formats []).mach.online = true ∧ (formats []).mach.pstate 5 ≠ 0 ∧ (formats []).mach.resJob 5 = none ∧
    (formats []).mach.guestJob 5 = none ∧ ((formats []).mach.part 5).resident.bind (fun k => k.rbuf (fld fmtCmd 59 48)) = some (upRec 0) ∧
    fld fmtCmd 27 14 + (fld fmtCmd 13 0 + 1) ≤ rbTiles (upRec 0) ∧ fld fmtCmd 47 40 = 0xFF ∧ fld fmtCmd 63 60 = 0 ∧ fld fmtCmd 39 28 = 0 ∧
    Memory.wf (formats []).mach := by decide

theorem test_wit_FormatCommands_refused : ((formats [aJob]).mach.resJob 5).isSome = true ∧ fld (fmtCmd + 1) 27 14 + (fld (fmtCmd + 1) 13 0 + 1) > rbTiles (upRec 0) ∧
    ((formats []).mach.part 5).resident.bind (fun k => k.rbuf 4) = none ∧ fld (2 ^ 60) 63 60 ≠ 0 ∧ fld (2 ^ 28) 39 28 ≠ 0 := by decide

/-! ## Links -/

def linkAt (l st : Nat) (r : LinkRt) : State := up (fun m => { objsOn [(okey (0x4840 + l) 2, st)] m with linkRt := [(l, r)] })

def farEnd (fail vers lat : Nat) : LinkEnv :=
  { fail := fail, farAddr := 9, farValid := true, farLink := 3, farVersions := vers, probes := List.replicate 16 lat }

theorem test_wit_LinkTraining : (linkAt 63 0x11 LinkRt.init).mach.linkExists 63 = true ∧ (linkAt 63 0x11 LinkRt.init).mach.linkState 63 = 1 ∧
    (farEnd 4 3 100).fail ≠ 0 ∧ commonVer ((linkAt 63 0x11 LinkRt.init).mach.offered 63) 0 = 0 ∧
    commonVer ((linkAt 63 0x11 LinkRt.init).mach.offered 63) (farEnd 0 3 2400).farVersions ≠ 0 ∧ latencyOf (LinkRt.init.measured (farEnd 0 3 2400)) = 1200 ∧
    1200 < latencyOf (LinkRt.init.measured (farEnd 0 3 2402)) ∧
    latencyOf (({ LinkRt.init with probes := List.replicate 16 100 } : LinkRt).measured (farEnd 0 3 2402)) = 50 ∧
    commonVer ((linkAt 63 0x11 LinkRt.init).mach.offered 63) 1 < ({ aMsg 3 0 with mv := 2 } : Msg).mv ∧ 2 < ({ aMsg 3 0 with mv := 2 } : Msg).op := by decide

/-- A link trains to the highest common version with its latency (R294, R295). -/
theorem test_link_train : (after (.linkTrain 63 (farEnd 0 3 302)) (linkAt 63 0x11 LinkRt.init)).linkVer 63 = 2 ∧
    (after (.linkTrain 63 (farEnd 0 3 302)) (linkAt 63 0x11 LinkRt.init)).obj (0x4840 + 63) 3 = 151 ∧
    (after (.linkTrain 63 (farEnd 0 3 302)) (linkAt 63 0x11 LinkRt.init)).objBit (0x4840 + 63) 2 7 = true := by decide

def aHello (lane : Nat) : Hello := { addr := 9, valid := true, link := 3, lane := lane, versions := 3 }

theorem test_wit_LinkTraining_hello : ((linkAt 3 0x11 { LinkRt.init with hellos := [(0, [aHello 0, aHello 0]), (1, [aHello 1])] }).mach.lrt 3).hellos.put 1
    ((aHello 1 :: ((linkAt 3 0x11 { LinkRt.init with hellos := [(0, [aHello 0, aHello 0]), (1, [aHello 1])] }).mach.lrt 3).hellos.get [] 1).take 2) =
      [(0, [aHello 0, aHello 0]), (1, [aHello 1, aHello 1])] ∧ (aHello 0).lane ≠ (aHello 1).lane := by decide

theorem test_wit_LinkTraining_probes : (List.replicate 15 (100 : Nat) ++ [300 - 200]).length = 16 := by decide

def badFlit : List Byte := zeros 256

theorem test_wit_LinkRetry : (linkAt 3 0x21 LinkRt.init).mach.linkState 3 = 2 ∧ goodFlit badFlit false = false := by decide +kernel

/-- A DATA flit with SEQ 0: KIND 1, and its CRC. -/
def dataFlit : List Byte := (zeros 4 ++ leBytes 1 1 ++ zeros 247) ++ leBytes 4 (crc32c (zeros 4 ++ leBytes 1 1 ++ zeros 247))

theorem test_wit_LinkRetry_good : goodFlit dataFlit true = true ∧ leAt dataFlit 4 1 % 4 = 1 ∧ leAt dataFlit 0 2 = LinkRt.init.rx ∧
    leAt dataFlit 0 2 ≠ ({ LinkRt.init with rx := 1 } : LinkRt).rx := by decide +kernel

/-- An IDLE flit: it returns no credit. -/
theorem test_wit_LinkRetry_idle : goodFlit (zeros 252 ++ leBytes 4 (crc32c (zeros 252))) true = true ∧
    leAt (zeros 252 ++ leBytes 4 (crc32c (zeros 252))) 4 1 % 4 ≠ 1 ∧ LinkRt.init.queue = [] := by decide +kernel

/-- A link whose replay buffer holds the flits of SEQ 3 and 4, of which SEQ 3 has been asked for `n` times. -/
def replaying (n : Nat) : LinkRt := { LinkRt.init with tx := 5, replay := [(0, zeros 240), (0, zeros 240)], again := (3, n) }

theorem test_wit_LinkRetry_retry : (5 + 4096 - 3 % 4096) % 4096 ≤ (replaying 1).replay.length ∧ (replaying 1).replay.length < (5 + 4096 - 2 % 4096) % 4096 ∧
    (replaying 6).again.2 + 1 < 8 ∧ 8 ≤ (replaying 7).again.2 + 1 ∧ ({ LinkRt.init with await := true } : LinkRt).await = true ∧
    (linkAt 3 0x21 (replaying 7)).mach.linkState 3 = 2 ∧ (replaying 7).worn 0 = false := by
  decide

set_option maxRecDepth 8000 in
/-- The flits asked for leave again with their SEQ, in order (R289). -/
theorem test_retry : (after (.retry 3 3) (linkAt 3 0x21 (replaying 0))).outbox = [.data 3 3 0 (zeros 240), .data 3 4 0 (zeros 240)] := by decide

theorem test_wit_LinkFailures_retrain : ({ LinkRt.init with retrains := [9, 8] } : LinkRt).worn 10 = false ∧
    ({ LinkRt.init with retrains := [9, 8, 0] } : LinkRt).worn 1500000000 = true ∧ (linkAt 3 0x21 LinkRt.init).mach.linkState 3 = 2 := by decide

theorem test_wit_LinkFailures_timeout : (linkAt 3 0x11 { LinkRt.init with keep := true }).mach.linkState 3 = 1 ∧
    (25000000 : Nat) ≤ (on (linkAt 3 0x11 { LinkRt.init with keep := true }) (fun m => { m with rc := 25000000 })).mach.rc - 0 := by decide

/-- A partition that no remote write over the link has reached. -/
theorem test_wit_LinkFailures_loss : ((linkAt 3 0x41 { LinkRt.init with reported := false }).mach.lrt 3).reported = false ∧
    Memory.wf (linkAt 3 0x41 LinkRt.init).mach ∧ (∀ f ∈ ((linkAt 3 0x41 LinkRt.init).mach.part 5).flows, f.link ≠ 3) ∧ (⟨7, 3, 0x1000, 0, 1, 3, 65536, 64⟩ : Flow).link = 3 := by decide

theorem test_wit_LinkFailures_loop : (linkAt 3 0x31 { LinkRt.init with farLoop := true }).mach.linkState 3 = 3 ∧
    ((linkAt 3 0x31 { LinkRt.init with loopAsk := true }).mach.lrt 3).loopAsk = true ∧
    (on (linkAt 3 0x21 LinkRt.init) (objsOn [(okey (0x4840 + 3) 1, 4)])).mach.objBit (0x4840 + 3) 1 2 = true := by decide

theorem test_wit_LinkCommands : (linkAt 3 0x21 LinkRt.init).mach.serves .portA = true ∧ fld 0x11 10 8 ≤ 4 ∧ fld 0x11 5 4 ≠ 0 ∧ fld 0x11 5 4 ≠ 3 ∧
    (linkAt 3 0x21 LinkRt.init).mach.linkExists 3 = true ∧ ¬ fld 0x511 10 8 ≤ 4 ∧ fld 0x31 5 4 = 3 ∧
    (on (linkAt 3 0x21 LinkRt.init) (fun m => { m with offLinks := [3] })).mach.linkExists 3 = false := by decide

/-- A link that is up, one that is retraining, and one that trains anew, when RETRAIN is written. -/
theorem test_wit_LinkCommands_retrain : bit 0x13 0 = true ∧ bit 0x13 1 = true ∧ fld 0x13 10 8 = 0 ∧
    (linkAt 3 0x21 LinkRt.init).mach.linkState 3 = 2 ∧ LinkRt.init.worn 0 = false ∧ (linkAt 3 0x11 { LinkRt.init with keep := true }).mach.linkState 3 = 1 ∧
    ((linkAt 3 0x11 { LinkRt.init with keep := true }).mach.lrt 3).keep = true ∧ ((linkAt 3 0x11 LinkRt.init).mach.lrt 3).keep = false := by decide

theorem test_wit_LinkCommands_bundle : (on (jobs5 withPk [aJob]) (objsOn [(okey 0x4820 1, 8)])).mach.inBundle 3 = true ∧
    (on (jobs5 withPk [aJob]) (objsOn [(okey 0x4820 1, 8)])).mach.anyJob = true ∧ fld 0x111 10 8 ≠ 0 := by decide

/-- A loop-back, a retrain and a disabled link (Table 10-15). -/
theorem test_link_commands : (after (.linkLoopBack .portA 3 0x111 ⟨0, 0, false⟩) (on (linkAt 3 0x21 LinkRt.init) (objsOn [(okey 0x4843 1, 0x11)]))).linkState 3 = 3 ∧
    (after (.linkRetrainCommand .portA 3 0x13) (on (linkAt 3 0x21 LinkRt.init) (objsOn [(okey 0x4843 1, 0x11)]))).linkState 3 = 1 ∧
    (after (.linkEnable .portA 3 0x10) (on (linkAt 3 0x21 LinkRt.init) (objsOn [(okey 0x4843 1, 0x11)]))).linkState 3 = 0 := by decide

theorem test_wit_FabricAddress : (jobs5 withPk [aJob]).mach.anyJob = true ∧ (jobs5 withPk []).mach.anyJob = false ∧
    (jobs5 withPk []).mach.serves .portA = true := by decide

theorem test_wit_LinkLosses : (linkAt 63 0x41 LinkRt.init).mach.linkState 63 = 4 ∧ ((linkAt 63 0x41 { LinkRt.init with reported := false }).mach.lrt 63).reported = false ∧
    ((linkAt 63 0x41 LinkRt.init).mach.lrt 63).reported = true := by decide

/-! ## Messages -/

/-- A one-packet WRITE of 64 bytes to buffer 9. -/
def aWrite (op : Nat) : Msg := { aMsg op 0 with fbuf := 9, data := zeros 64 }

theorem test_wit_MessagesRefused : (delivers (aWrite 0)).mach.arrives 64 (aWrite 0) = true ∧ (delivers (aWrite 0)).mach.arrives 63 (aWrite 0) = false ∧
    msgRow 64 (aWrite 0) = some (.write 64 (aWrite 0)) ∧ (delivers { aWrite 0 with resv := true }).mach.malformed 64 { aWrite 0 with resv := true } = true ∧
    (delivers { aWrite 0 with resv := true }).mach.arrives 64 { aWrite 0 with resv := true } = true ∧
    (delivers (aMsg 6 4)).mach.malformed 64 (aMsg 6 4) = true ∧ (delivers (aMsg 6 4)).mach.arrives 64 (aMsg 6 4) = true := by decide

theorem test_wit_Requests : (delivers (aWrite 0)).mach.arrives 64 (aWrite 0) = true ∧ (delivers (aWrite 2)).mach.malformed 64 (aWrite 2) = false ∧
    (aWrite 2).mv < 2 ∧ (delivers (aWrite 0)).mach.malformed 64 (aWrite 0) = false ∧ (delivers (aWrite 0)).mach.formed 5 = true ∧
    aJob.part = 5 ∧ aJob.kind = 1 ∧ aJob.st = .running ∧ (delivers (aWrite 0)).mach.taker (aWrite 0) = .none ∧
    (on (delivers (aWrite 0)) (fun m => { m with jobs := [] })).mach.jobs = [] := by decide

/-- A pricking whose partition has peer 0 (fabric address 7, partition 3) and a buffer 9 of 256 bytes in cluster 0. -/
def peerPart : Part := { Part.empty with resident := some (pk [] [partRec, peerRec, bufRec 9 1 0 256 65536]) }

/-- The job of partition 5 in a state; it takes what peer 0 sends. -/
def peerState (st : JobSt) (x : Part) (msg : Msg) : State :=
  on (jobs5 x [{ aJob with st := st, peers := [(0, 0, 0)] }]) (fun m => { m with localMsgs := [msg] })

theorem test_wit_Requests_run : (peerState .running peerPart (aWrite 0)).mach.taker (aWrite 0) = .run ∧
    (peerState .running peerPart (aWrite 0)).mach.noCredit 5 (pk [] [partRec, peerRec, bufRec 9 1 0 256 65536]) (aWrite 0) = false := by decide

theorem test_wit_Requests_hold : (peerState (.saved 0 0) peerPart (aWrite 0)).mach.taker (aWrite 0) = .hold ∧
    (peerState (.saved 0 0) peerPart (aWrite 0)).mach.heldBytes 5 + (aWrite 0).data.length ≤ 262144 ∧
    262144 < (4096 * 64 : Nat) + (aWrite 0).data.length := by decide

/-- A buffer whose contributor, peer 0's unit 1000h, holds no credit. -/
def farRbRec : List Byte :=
  leBytes 1 5 ++ zeros 3 ++ leBytes 1 1 ++ leBytes 1 0 ++ leBytes 2 3 ++ leBytes 1 0 ++ leBytes 1 1 ++ leBytes 1 0 ++ leBytes 1 0 ++ leBytes 2 1 ++
  leBytes 2 1 ++ leBytes 4 65536 ++ zeros 28 ++
  (leBytes 1 1 ++ leBytes 1 0 ++ leBytes 2 0x1000 ++ leBytes 2 0 ++ leBytes 2 0 ++ leBytes 1 1 ++ leBytes 1 1 ++ zeros 6)

def farRbPk : Pricking := pk [] [partRec, peerRec, farRbRec]

def aRadd : Msg := { aMsg 1 0 with fbuf := 3, lenq := 255, data := zeros 1024 }

theorem test_wit_Requests_credit : (peerState .running { Part.empty with resident := some farRbPk, rbufs := [(3, { RBuf.init farRbRec with credits := [0] })] }
      aRadd).mach.noCredit 5 farRbPk aRadd = true ∧
    (peerState .running { Part.empty with resident := some farRbPk, rbufs := [(3, { RBuf.init farRbRec with credits := [0] })] } aRadd).mach.malformed 64 aRadd =
      false := by decide +kernel

theorem test_wit_RemoteWriteLands : ((peerState .running peerPart (aWrite 0)).mach.part 5).resident = some (pk [] [partRec, peerRec, bufRec 9 1 0 256 65536]) ∧
    (peerState .running peerPart (aWrite 0)).mach.buf 5 false (pk [] [partRec, peerRec, bufRec 9 1 0 256 65536]) 9 = some ⟨1, 0, 256, clusterKey 32 65536⟩ ∧
    (peerState .running peerPart (aWrite 0)).mach.farCode 5 (pk [] [partRec, peerRec, bufRec 9 1 0 256 65536]) (aWrite 0) = 0 ∧ (aWrite 0).pidx = 0 := by
  decide

theorem test_wit_RemoteWriteLands_flow : ∃ f ∈ ([⟨7, 3, 0x1000, 0, 1, 64, 65536, 64⟩] : List Flow), f.of { aWrite 0 with pidx := 1 } = true ∧ f.next = 1 := by decide

/-- A remote write's bytes, through the whole command (R300). -/
theorem test_write_lands : (after (.write 64 { aWrite 0 with data := List.replicate 64 7 }) (peerState .running peerPart { aWrite 0 with data := List.replicate 64 7 })).rd
    (clusterKey 32 65536 + 62) 3 = [7, 7, 0] := by decide +kernel

def aSignal (mk : Nat) : Msg := { aMsg 3 2 with fmk := mk }

theorem test_wit_Signals : (peerState .running peerPart (aSignal 511)).mach.taker (aSignal 511) = .run ∧
    511 < 512 * ((peerState .running peerPart (aSignal 511)).mach.clusters 5).length ∧
    512 * ((peerState .running peerPart (aSignal 512)).mach.clusters 5).length ≤ (aSignal 512).fmk ∧
    (peerState .running peerPart (aSignal 511)).mach.malformed 64 (aSignal 511) = false ∧
    (peerState (.saved 0 0) peerPart (aSignal 511)).mach.taker (aSignal 511) = .hold ∧ (delivers (aSignal 0)).mach.taker (aSignal 0) = .none ∧
    256 ≤ (List.replicate 256 (aSignal 0)).length := by decide +kernel

/-- Core 512 waits for the answer of message 9, sent over link 3 at 100. -/
def anRdma : DmaEntry := ⟨word 0x2A 0, 4, .remote 1 9 3 100, none⟩

def awaiting (x : Msg) (rc : Nat) : State :=
  on (ctx512 (runs [] [partRec]) (fun c => { c with dma := [anRdma] })) (fun m => { m with localMsgs := [x], rc := rc })

def aResp (mid code : Nat) : Msg := { aMsg 4 code with mid := mid }

theorem test_wit_Responses : (awaiting (aResp 9 0) 0).mach.remoteCore 9 = some (512, anRdma) ∧ (awaiting (aResp 9 0) 0).mach.partOf 32 = some 5 ∧
    (awaiting (aResp 9 0) 0).mach.arrives 64 (aResp 9 0) = true ∧ (awaiting (aResp 9 0xFF) 0).mach.malformed 64 (aResp 9 0xFF) = false ∧
    (aResp 9 0xFF).arg % 256 ≠ 0 ∧ (aResp 9 256).arg % 256 = 0 ∧ (awaiting (aResp 8 0) 0).mach.remoteCore 8 = none ∧
    (awaiting (aResp 8 0) 0).mach.remoteTile 8 = none ∧ (awaiting (aResp 8 0) 0).mach.savedRemote 8 = none := by decide

theorem test_wit_Responses_timeout : ((awaiting (aResp 9 0) 25000100).mach.core 512).host.dma[0]? = some anRdma ∧
    (awaiting (aResp 9 0) 25000100).mach.jobRuns 5 false = true ∧ (awaiting (aResp 9 0) 25000100).mach.switching 5 = false ∧
    ((awaiting (aResp 9 0) 25000100).mach.part 5).radds = [] ∧
    25000 * (awaiting (aResp 9 0) 25000100).mach.obj 0x4800 6 ≤ 25000100 - 100 := by decide

/-- A response with a far code faults the word that waits (R307). -/
theorem test_resp_faults : ((after (.resp 64 (aResp 9 5)) (awaiting (aResp 9 5) 0)).jobs.map (·.st)) = [.stopping 1 0x13] := by decide +kernel

theorem test_wit_PingsAndForwards : (delivers (aMsg 6 (1 + 256 * 77))).mach.arrives 64 (aMsg 6 (1 + 256 * 77)) = true ∧ (aMsg 6 (1 + 256 * 77)).arg % 256 = 1 ∧
    (delivers (aMsg 6 1)).mach.malformed 64 (aMsg 6 1) = false ∧ (aMsg 6 2).arg % 256 = 2 ∧ (delivers (aMsg 6 2)).mach.arrives 64 (aMsg 6 2) = true := by decide

def passing : Msg := { aMsg 6 1 with dfa := 9 }

/-- Link 3 is up at version 1 between valid addresses and has brought a message; address 9 is routed to bundle 0, which lists link 4. -/
def forwards (l4 : Nat) : State :=
  on (linkAt 3 0x121 { LinkRt.init with arrived := [(0, passing, 1)] }) (fun m => { objsOn [(okey 0x4843 4, 2 ^ 15), (okey 0x4800 2, 2 ^ 15), (okey 0x4844 2, l4), (okey 0x4820 1, 16)] m with
    routes := [(9, 0)] })

theorem test_wit_PingsAndForwards_on : (forwards 0x121).mach.nextIn 3 passing = true ∧ (forwards 0x121).mach.nextIn 4 passing = false ∧ passing.dfa ≠ (forwards 0x121).mach.ownAddr ∧
    (((forwards 0x121).mach.taken 3 passing).sendMsg passing).1 = 0 ∧ (((forwards 0x41).mach.taken 3 passing).sendMsg passing).1 = 0xFE ∧ (forwards 0x121).mach.malformed 3 passing = false := by
  decide

/-! ## Lifelines -/

/-- Partition 5 with lifelines of 16 KiB in stack 0; its partner is partition `fp` of module `fa`. -/
def lifeState (life : Life → Life) (fa fp : Nat) (msgs : List Msg) : State :=
  on (jobs5 { withPk with life := life Part.empty.life } [aJob]) (fun m =>
    { objsOn [(okey 0x7205 3, 1), (okey 0x7205 4, 65536), (okey 0x7205 5, 2 ^ 31 + fp * 2 ^ 16 + fa), (okey 0x4885 2, 1)] m with localMsgs := msgs })

/-- A LIFE message. -/
def aLife (fbuf n : Nat) : Msg := { aMsg 5 1 with fbuf := fbuf, data := zeros n }

theorem test_wit_LifelineDataLands : (lifeState id 7 3 [aLife 0 64]).mach.arrives 64 (aLife 0 64) = true ∧
    (lifeState id 7 3 [aLife 0 64]).mach.malformed 64 (aLife 0 64) = false ∧ (lifeState id 7 3 [aLife 0 64]).mach.fromPartner (aLife 0 64) = true ∧
    (lifeState id 7 3 [aLife 0 64]).mach.takesFmt 5 1 = true ∧ (lifeState id 7 3 []).mach.otherOf 5 2 3 = 2 ∧
    (lifeState id 7 3 []).mach.lifeCap 5 = 16384 ∧ (lifeState id 7 3 []).mach.badWrite [((lifeState id 7 3 []).mach.lifeKey 5 2 0, zeros 64)] = none := by
  decide +kernel

theorem test_wit_LifelineDataLands_end : ((lifeState (fun f => { f with filling := some 3 }) 7 3 []).mach.life 5).filling = some 3 ∧
    64 * ({ aLife 0 64 with foff := 255 }.foff + 2 ^ 24 * 0) + 64 = 16384 ∧
    (lifeState id 7 3 []).mach.badWrite [((lifeState id 7 3 []).mach.lifeKey 5 3 16320, zeros 64)] = none := by decide +kernel

def aFrog : FrogSt := ⟨0, 1, 0, 0, 0⟩

theorem test_wit_LifelineDataLands_restore : ((lifeState (fun f => { f with frog := some aFrog }) 7 3 []).mach.life 5).frog = some aFrog ∧
    (lifeState id 7 3 []).mach.badWrite [((lifeState id 7 3 []).mach.lifeKey 5 1 0, zeros 64)] = none ∧
    (lifeState id 7 3 [aLife 1 64]).mach.malformed 64 (aLife 1 64) = false := by decide +kernel

/-- A lifeline of no tiles, round 0, in a slot: its header, its CRC, and the mark of completeness. -/
def lifeIn (slot : Nat) (done : Bool) (s : State) : State :=
  on s (fun m => (((m.wr (m.lifeKey 5 slot 0) (leBytes 4 0x4C49464E ++ [1])).wr (m.lifeKey 5 slot 48) (leBytes 8 4096)).wr (m.lifeKey 5 slot 4032)
    (leBytes 4 0xE5B8DAD3)).wr (m.lifeKey 5 slot 0 + 6) [if done then 1 else 0])

/-- The CRC register after a string, taken 64 bytes at a time, each evaluated before the next. -/
def crcBy : Nat → List Byte → Nat → Nat
  | 0, bs, r => bs.foldl crc32cByte r
  | n + 1, bs, r => match (bs.take 64).foldl crc32cByte r with
    | 0 => crcBy n (bs.drop 64) 0
    | k + 1 => crcBy n (bs.drop 64) (k + 1)

theorem crcBy_eq (n : Nat) : ∀ bs r, bs.foldl crc32cByte r = crcBy n bs r := by
  induction n with
  | zero => intro bs r; rfl
  | succ n ih =>
    intro bs r
    conv => lhs; rw [← List.take_append_drop 64 bs, List.foldl_append]
    rw [ih, crcBy]
    generalize (bs.take 64).foldl crc32cByte r = x
    cases x <;> rfl

def lifeHead : List Byte :=
  (lifeIn 2 false (lifeState id 7 3 [])).mach.rd ((lifeIn 2 false (lifeState id 7 3 [])).mach.lifeKey 5 2 0) 4096

theorem lifeHead_crc : headerCrc lifeHead = 0xE5B8DAD3 := by
  rw [headerCrc, crc32c, crcBy_eq 63]
  decide +kernel

/-- A commit over a lifeline whose checks pass has STATUS 00h (Table 17-3). -/
theorem test_commit_good : (lifeIn 2 false (lifeState id 7 3 [])).mach.commitStatus 5 2 0 = 0 := by
  have h1 : leAt lifeHead 0 4 = 0x4C49464E ∧ leAt lifeHead 4032 4 = 0xE5B8DAD3 ∧ lhRound lifeHead = 0 ∧ lhSize lifeHead = 4096 := by decide +kernel
  have h2 : (lifeIn 2 false (lifeState id 7 3 [])).mach.lifeBodyOk 5 2 lifeHead = true := by decide +kernel
  have h3 : (lifeIn 2 false (lifeState id 7 3 [])).mach.lifeCap 5 = 16384 ∧
    (lifeIn 2 false (lifeState id 7 3 [])).mach.lifeBad 5 2 4096 = false := by decide +kernel
  unfold Mach.commitStatus
  rw [← lifeHead]
  simp [h1, h2, h3, lifeHead_crc]

theorem test_wit_CommitsAndAcknowledges : (lifeState id 7 3 []).mach.commitStatus 5 2 0 = 2 ∧
    (lifeState id 7 3 [aLife 0xFFE 16]).mach.malformed 64 (aLife 0xFFE 16) = false ∧
    ((lifeState (fun f => { f with filling := some 2 }) 7 3 []).mach.life 5).filling = some 2 ∧
    ((lifeState id 7 3 []).mach.life 5).frog = none := by decide +kernel

theorem test_wit_CommitsAndAcknowledges_ack : ((lifeState (fun f => { f with stream := some 0 }) 7 3 []).mach.life 5).stream.isSome = true ∧
    (lifeState id 7 3 [aLife 0xFFF 16]).mach.malformed 64 (aLife 0xFFF 16) = false ∧ leAt (aLife 0xFFF 16).data 8 1 = 0 ∧
    leAt ({ aLife 0xFFF 16 with data := zeros 8 ++ leBytes 1 5 ++ zeros 7 } : Msg).data 8 1 = 5 := by decide

theorem test_wit_RestoreRequests : (lifeState id 7 4 []).mach.fromPartner (aLife 0xFFC 16) = false ∧ (lifeState id 7 3 []).mach.newestOf 5 2 3 = none ∧
    (lifeIn 2 true (lifeState id 7 3 [])).mach.newestOf 5 2 3 = some 2 ∧ leAt (aLife 0xFFC 16).data 0 8 = 0 ∧
    lhFmt ((lifeIn 2 true (lifeState id 7 3 [])).mach.rd ((lifeIn 2 true (lifeState id 7 3 [])).mach.lifeKey 5 2 0) 4096) = 1 ∧
    (lifeIn 2 true (lifeState id 7 3 [])).mach.lifeBad 5 2 4096 = false := by decide +kernel

theorem test_wit_LifelineTimes : (lifeIn 0 true (lifeState (fun f => { f with ready := some 0 }) 0 3 [])).mach.partner 5 = some (0, 3) ∧
    ((lifeIn 0 true (lifeState (fun f => { f with ready := some 0 }) 0 3 [])).mach.lifeStreamOut 5 0 0 3 0).1 = 0 ∧
    (lifeIn 0 true (lifeState id 0 3 [])).mach.lifeBad 5 0 4096 = false ∧
    (lifeState id 0 3 []).mach.formed 5 = true := by decide +kernel

theorem test_wit_LifelineTimes_bad : (on (lifeIn 0 true (lifeState id 0 3 [])) (fun m => { m with bad := [m.lifeKey 5 0 0 / 32] })).mach.lifeBad 5 0 4096 = true := by
  decide +kernel

theorem test_wit_LifelineTimes_late : ((lifeState id 0 3 []).mach.life 5).t0 + 25000000 * (lifeState id 0 3 []).mach.obj 0x7205 1 =
      25000000 * (lifeState id 0 3 []).mach.obj 0x7205 1 ∧ 0 < (lifeState id 0 3 []).mach.obj 0x7205 1 ∧
    (lifeState id 0 3 []).mach.objBit 0x7205 7 5 = false := by decide

/-! ## Recovery -/

theorem test_wit_Frogs : (jobs5 withPk []).mach.online = true ∧ (jobs5 withPk []).mach.pstate 5 ≠ 0 ∧ (jobs5 withPk []).mach.objBit 0x7205 0x10 0 = false ∧
    (jobs5 withPk []).mach.recState 5 = 0 ∧ (jobs5 withPk []).mach.formed 5 = true ∧ (2 ^ 50 - 1 : Nat) / 2 ^ 50 = 0 ∧ fld (2 ^ 50 - 1) 49 48 = 3 ∧
    fld (2 ^ 49) 49 48 ≠ 3 ∧ (jobs5 withPk []).mach.pstate 6 = 0 ∧ ((jobs5 Part.empty []).mach.part 5).resident = none := by decide

theorem test_wit_Frogs_auto : (on (jobs5 withPk []) (objsOn [(okey 0x7205 0x10, 0x3000), (okey 0x7205 0x12, 1)])).mach.recState 5 = 3 ∧
    (on (jobs5 withPk []) (objsOn [(okey 0x7205 0x10, 0x3000), (okey 0x7205 0x12, 1)])).mach.obj 0x7205 0x12 = 1 ∧
    (pk [word 0 0] [partRec]).recsOf 4 = [] ∧ (pk [word 0 0] [partRec, peerRec]).recsOf 4 ≠ [] := by decide

/-- A frog with its pricking and lifeline restores the round counter (R500). -/
theorem test_frog_finishes : ((lifeIn 0 true (on (lifeState id 0 3 []) (fun m => m.setObj 0x6485 2 9))).mach.frogFinish 5 0 1 (pk [word 0 0] [partRec])).obj 0x6485 2 = 0 := by
  decide +kernel

theorem test_wit_HardwareFaults : (jobs5 withPk []).mach.holder (.cluster 32 true) = some 5 ∧ (jobs5 withPk []).mach.objBit (pix 5) 2 0 = false ∧
    (on (jobs5 withPk []) (fun m => { m with supLost := [0, 1] })).mach.supLost.length = 2 ∧ (jobs5 withPk []).mach.supLost.length < 2 := by decide

/-- A cluster that fails its test is bound off, and its partition is in REFORM (R497). -/
theorem test_cluster_bound_off : (after (.hardwareFault (.cluster 32 true) 0x21) (jobs5 withPk [])).offClusters = [32] ∧
    (after (.hardwareFault (.cluster 32 true) 0x21) (jobs5 withPk [])).recState 5 = 4 := by decide +kernel

theorem test_wit_BridgeFailures : State.reset.mach.supLost.length < 2 ∧ State.reset.mach.alive 0 = true ∧ (State.reset.mach.flash.store 0).repair.length < 1024 ∧
    (up (fun m => { m with supLost := [1] })).mach.alive 1 = false := by decide

/-- A supervisor that is lost keeps its store as it was (R33). -/
theorem test_stores : ((after (.bridgeFailure 9) (up (fun m => { m with supLost := [1] }))).flash.store 0).repair.map (·.unit) = [9] ∧
    ((after (.bridgeFailure 9) (up (fun m => { m with supLost := [1] }))).flash.store 1).repair = [] := by decide +kernel

theorem test_wit_Supervisors : State.reset.mach.alive 1 = true ∧ State.reset.mach.active = 0 ∧ State.reset.mach.alive (1 - 0) = true ∧
    State.reset.mach.beats.get 0 0 + 500000 ≤ (up (fun m => { m with rc := 500000 })).mach.rc ∧
    State.reset.mach.rc < State.reset.mach.beats.get 0 0 + 500000 := by decide

theorem test_wit_FirmwareCommands : State.reset.mach.serves .portA = true ∧ State.reset.mach.active < 2 ∧ State.reset.mach.objBit 0x7301 8 0 = false ∧
    State.reset.mach.runBank 1 = 0 ∧ State.reset.mach.obj 0x7301 6 % 4096 = 0 ∧
    (up (fun m => m.setObj 0x7301 6 1)).mach.obj 0x7301 6 % 4096 ≠ 0 ∧
    ((up (fun m => m.setSup 1 { SupFlash.init with trial := some 1 })).mach.sup 1).trial = some 1 ∧ ((SupFlash.init).bank 1).valid = true ∧
    (State.reset.mach.flash.store 1).unread ((SupFlash.init).bank 1) = false ∧ State.reset.mach.objBit 0x7300 8 0 = false := by decide

/-! ## Clocks -/

/-- The module with clock status `v` (Table 16-9). -/
def clocks (v : Nat) : State := up (fun m => m.setObj 0x2210 1 v)

theorem test_wit_ClockLosses : bit (State.reset.mach.obj 0x2210 1) 1 = false ∧ bit ((clocks 0x32).mach.obj 0x2210 1) 1 = true ∧
    (clocks 0xD).mach.srcReady 1 = true ∧ (clocks 0xD).mach.srcReady 2 = true ∧ (clocks 5).mach.srcReady 1 = true ∧
    (clocks 5).mach.srcReady (2 - 0) = false ∧ (clocks 8).mach.srcReady (1 + 1) = true ∧ (clocks 8).mach.srcReady (2 - 1) = false ∧
    State.reset.mach.islandThere 179 = true ∧ (State.reset.mach.island 179).src ≠ 3 ∧ (State.reset.mach.island 179).on = true := by decide +kernel

theorem test_wit_ClockGates : State.reset.mach.islandThere 179 = true ∧ (State.reset.mach.island 179).gated = false ∧
    ((up (fun m => m.setIsland 179 { m.island 179 with gated := true })).mach.island 179).gated = true := by decide +kernel

/-- REFCLK's loss puts locked masters in holdover (R449). -/
theorem test_refclk_loss : (after .refclkLoss (clocks 0xD)).obj 0x2210 1 = 0x32 ∧ (after .refclkReturn (clocks 0x32)).obj 0x2210 1 = 0xD := by decide

theorem test_wit_SourceSwitches : (clocks 0xD).mach.serves .portA = true ∧ (clocks 0xD).mach.islandThere 0 = true ∧
    (on (clocks 0xD) (fun m => { m with offClusters := [0] })).mach.islandThere 0 = false ∧ (clocks 5).mach.srcReady 2 = false ∧
    (on (clocks 5) (fun m => m.setObj 0x2210 2 1)).mach.obj 0x2210 2 = 1 ∧ (clocks 5).mach.obj 0x2210 2 ≠ 1 ∧
    (on (clocks 5) (fun m => { m with supLost := [0, 1] })).mach.serves .portA = false := by decide

theorem test_wit_SourceSwitches_pending : ((on (clocks 5) (fun m => { m.setIsland 179 { m.island 179 with pend := some (2, 0) } with rc := 25000 })).mach.island 179).pend =
      some (2, 0) ∧ (clocks 5).mach.srcReady 2 = false ∧ (clocks 0xD).mach.srcReady 2 = true ∧
    0 + 25000 ≤ (on (clocks 5) (fun m => { m with rc := 25000 })).mach.rc ∧ (on (clocks 5) (fun m => { m with rc := 24999 })).mach.rc < 0 + 25000 := by decide

/-! ## Power -/

/-- Partition 5's cluster runs, 100 ms after cast-on; its wake limits are given. -/
def idle5 (js : List Job) (f : Island → Island) : State :=
  on (jobs5 withPk js) (fun m => ({ objsOn [(okey 0x2505 4, 2000), (okey 0x2505 5, 800000), (okey (pix 5) 9, 1), (okey (pix 5) 0xA, 1)] m with rc := 2500000 } : Mach).setIsland 32
    (f { m.island 32 with on := true }))

theorem test_wit_IdleStates : (idle5 [aJob] id).mach.partOf 32 = some 5 ∧ (idle5 [aJob] id).mach.formed 5 = true ∧ ((idle5 [aJob] id).mach.island 32).on = true ∧
    (idle5 [aJob] id).mach.clusterIdle 5 32 = true ∧ ((idle5 [aJob] id).mach.island 32).gst = 0 ∧ 2000 ≤ (idle5 [aJob] id).mach.wakeLimit 5 ∧
    (idle5 [] id).mach.noJobFor 5 25000 = true ∧ 50000 ≤ (idle5 [] id).mach.wakeLimit 5 ∧ (idle5 [] id).mach.clusterIdle 5 32 = true ∧
    (idle5 [aJob] id).mach.acts.get 0 32 + 100 ≤ (idle5 [aJob] id).mach.rc ∧ (jobs5 withPk []).mach.rc < (jobs5 withPk []).mach.acts.get 0 32 + 100 ∧
    (idle5 [aJob] id).mach.noJobFor 5 25000 = false ∧ (jobs5 withPk []).mach.noJobFor 5 2500000 = false := by decide

theorem test_wit_IdleStates_busy : ((runs [] [partRec]).mach.core (16 * 32 + 0)).host.run = .running ∧
    32 ∈ (runs [] [partRec]).mach.clusters 5 := by decide

theorem test_wit_IdleStates_g3 : (idle5 [] id).mach.freeSlot 5 = some 0 ∧ (idle5 [] id).mach.noJobFor 5 2500000 = true ∧
    (∀ t ∈ (idle5 [] id).mach.saveStacks 5, (idle5 [] id).mach.stackState t ≠ 2) ∧ ((idle5 [] id).mach.part 5).g3 = none ∧ (idle5 [] id).mach.g3Open 5 = true ∧
    (∀ c ∈ (idle5 [] id).mach.clusters 5, (idle5 [] id).mach.clusterIdle 5 c = true) ∧ (idle5 [] id).mach.canDispatch 5 = true := by decide

theorem test_wit_IdleStates_wake : (State.reset.mach.island 179).on = true ∧ (State.reset.mach.island 179).gst ≠ 3 ∧
    ((idle5 [] (fun x => { x with gst := 3 })).mach.island 32).gst = 3 ∧
    ((on (idle5 [] (fun x => { x with gst := 3 })) (fun m => m.modPart 5 (fun q => { q with g3 := some 0 }))).mach.part 5).g3 = some 0 ∧
    (idle5 [] (fun x => { x with gst := 3 })).mach.slotLost 5 0 = none := by decide

theorem test_wit_Grants_move : ((idle5 [] id).mach.island 32).op = 0 ∧
    (on (idle5 [] id) (fun m => m.setObj 0x2505 2 3)).mach.opTarget 32 = 3 ∧ (on (idle5 [] id) (fun m => m.setObj 0x2505 2 0)).mach.opTarget 32 = 0 ∧
    (on (idle5 [] (fun x => { x with op := 5 })) (fun m => m.setObj 0x2505 2 3)).mach.opTarget 32 < 5 ∧ (10 : Int) ≤ 10 ∧ (9 : Int) < 10 := by decide

theorem test_wit_Grants_limit : (idle5 [] id).mach.timers.get 0 everyLimiter + 25000 ≤ (idle5 [] id).mach.rc ∧ (idle5 [] id).mach.tripped = false ∧ (idle5 [] id).mach.online = true ∧
    (on (idle5 [] id) (fun m => m.setObj 0x2280 2 8)).mach.tripped = true ∧
    ((List.range 64).filter (idle5 [] id).mach.formed).foldl (fun (a : Int) p =>
      a + (((⟨0, [[], [], [], [], [], List.replicate 8 1000]⟩ : LimitEnv).est.getD p []).getD ((idle5 [] id).mach.obj (0x2500 + p) 1) 0 : Nat)) 0 ≤
      1000 * (idle5 [] id).mach.obj 0x2280 1 - ((List.range 64).filter (idle5 [] id).mach.formed).foldl (fun (a : Int) p =>
        a - (((⟨0, [[], [], [], [], [], List.replicate 8 1000]⟩ : LimitEnv).est.getD p []).getD ((idle5 [] id).mach.obj (0x2500 + p) 2) 0 : Nat)) 0 := by
  decide +kernel

theorem test_wit_PowerAndHeat : 100 * 0 ≤ 105 * State.reset.mach.obj 0x2280 1 ∧ 105 * State.reset.mach.obj 0x2280 1 < 100 * 65535 ∧
    State.reset.mach.tripped = false ∧ (∀ t ∈ [(1049 : Int)], t < 1050) ∧ (∃ t ∈ [(1050 : Int)], 1050 ≤ t) ∧ (∀ t ∈ [(950 : Int)], t ≤ 950) ∧
    (∃ t ∈ [(951 : Int)], 950 < t) ∧ State.reset.mach.winWork ≤ State.reset.mach.workSum ∧
    State.reset.mach.rc < State.reset.mach.winT0 + 25000 * State.reset.mach.winLen ∧
    (up (fun m => { m with rc := 25000000 })).mach.winT0 + 25000 * 1000 ≤ (up (fun m => { m with rc := 25000000 })).mach.rc ∧
    State.reset.mach.rc < State.reset.mach.timers.get 0 everyShed + 500 ∧ State.reset.mach.timers.get 0 everyCap + 250000 ≤ 250000 ∧
    (up (fun m => { m with work := [(0, 1)] })).mach.winWork < (up (fun m => { m with work := [(0, 1)] })).mach.workSum := by decide

theorem test_wit_PowerAndHeat_cap : toSigned 16 (State.reset.mach.obj 0x2006 1) < toSigned 16 (State.reset.mach.obj 0x2006 1) + 1 ∧
    (State.reset.mach.dieLimit 7).2 = false ∧ (State.reset.mach.dieLimit 7).1 = 7 ∧
    ((up (fun m => { m with dieCap := [(7, 2 * 4 + 1)] })).mach.dieLimit 7) = (4, true) := by decide

/-- A trip takes a running island to OP0 and shows itself (R470). -/
theorem test_trip : ((after (.thermalTrip [1050]) (idle5 [] (fun x => { x with op := 5 }))).island 32).op = 0 ∧
    (after (.thermalTrip [1050]) (idle5 [] id)).tripped = true := by decide +kernel

/-- Cluster 32's arrays have had 10^10 beats of work in the last 10 ms. -/
def loaded : State := idle5 [] (fun x => { x with beats := [(2500000, 10 ^ 10)] })

/-- Load classes (R480): a cluster without work is L, one with array work in every ic H; an island whose clock runs is H, one gated all the time L. -/
theorem test_load_class : (idle5 [] id).mach.loadClass 32 150 = 0 ∧ loaded.mach.loadClass 32 150 = 2 ∧ (idle5 [] id).mach.loadClass 179 150 = 2 ∧
    (on (idle5 [] id) (fun m => m.setIsland 179 { m.island 179 with gated := true, gateT0 := 0 })).mach.loadClass 179 150 = 0 := by decide +kernel

theorem test_wit_GaugesAndHealth : (idle5 [] id).mach.islandThere 32 = true ∧ (idle5 [] id).mach.powered 32 = true ∧
    ((idle5 [] id).mach.gauge 32).samples = [] ∧ (idle5 [] id).mach.serves .portA = true ∧ (idle5 [] id).mach.wantReplan = false ∧
    (idle5 [] id).mach.rc < (idle5 [] id).mach.timers.get 0 everyReplan + 25000000 * (idle5 [] id).mach.obj 0x7020 1 ∧
    (idle5 [] id).mach.timers.get 0 everyHealth + 25000 ≤ (idle5 [] id).mach.rc ∧ State.reset.mach.rc < State.reset.mach.timers.get 0 everyHealth + 25000 := by
  decide

theorem test_wit_GaugesAndHealth_early : ∃ y ∈ ((on (idle5 [] id) (fun m => m.setGauge 32 { m.gauge 32 with samples := [⟨0, 0, 5, 0⟩] })).mach.gauge 32).samples,
    (idle5 [] id).mach.rc < y.t + 250000000 := by decide

/-- The first H sample asks for a replan (R483). -/
theorem test_gauge : (after (.gaugeSample 32 (-3) 150) loaded).wantReplan = true ∧ (after (.gaugeSample 32 (-3) 150) loaded).obj (0x7100 + 32) 5 = 0xFFFD := by
  decide +kernel

/-! ## Memory -/

def aReq (w : Bool) (cls : Nat) (seen : EccSeen) : MemReq := ⟨w, 64, cls, if w then List.replicate 32 7 else [], seen⟩

/-- The channel that address 64 maps to. -/
def chan64 : Nat := 4 * (dramAt 64).stack + (dramAt 64).chan

theorem test_wit_MemoryAccesses : [aReq false 2 .clean].filter (State.reset.mach.reaches chan64) = [aReq false 2 .clean] ∧
    [aReq true 2 .clean].filter (State.reset.mach.reaches chan64) = [aReq true 2 .clean] ∧
    [aReq false 4 .uncorrectable].filter (State.reset.mach.reaches chan64) = [aReq false 4 .uncorrectable] ∧
    State.reset.mach.firstBad (64 / 64 * 64) 64 = none ∧ 3 ≤ (State.reset.mach.chan chan64).k1 ∧
    [aReq false 2 .clean, aReq false 1 .clean].find? (fun q => decide (q.cls = 1)) = some (aReq false 1 .clean) ∧
    [aReq false 0 .clean].filter (State.reset.mach.reaches chan64) = [] ∧ State.reset.mach.inService (chan64 / 4) = true ∧
    [aReq false 2 (.retried 5)].filter (State.reset.mach.reaches chan64) = [aReq false 2 (.retried 5)] ∧
    (up (fun m => { m with bad := [2] })).mach.firstBad (64 / 64 * 64) 64 = some 64 := by decide +kernel

theorem test_wit_MemoryAccesses_train : State.reset.mach.inService (191 / 4) = true ∧ (State.reset.mach.chan 191).worn State.reset.mach.rc = false ∧
    ((⟨512, [0, 0, 0], [30000000, 20000000, 5000000], [], 0, false⟩ : Chan).worn 30000000) = true ∧ 191 / 4 ∉ State.reset.mach.offStacks := by decide

theorem test_wit_MemoryAccesses_scrub : 64 / 2 ^ 35 < 48 ∧ State.reset.mach.stackState (64 / 2 ^ 35) = 1 ∧ 64 % 2 ^ 35 < stackUsable ∧
    (up (fun m => m.setObj 0x4100 1 2)).mach.objBit (0x4100 + 64 / 2 ^ 35) 1 1 = true ∧ State.reset.mach.swatchOn (64 / 2 ^ 35) = false ∧
    firstBad State.reset.mach.bad (64 / 64 * 64) 64 = none := by decide

/-- A write that a channel serves stores its bytes (R318). -/
theorem test_access_write : (after (.memoryAccess chan64 [aReq true 2 .clean]) State.reset).rd 95 2 = [7, 0] := by decide +kernel

theorem test_wit_RefreshAndSwatch : State.reset.mach.stackState (191 / 4) = 1 ∧ (up (fun m => m.setObj 0x4000 5 1)).mach.obj 0x4000 5 ≠ 0 ∧
    (∀ c, c < 4 → State.reset.mach.swatchRuns (4 * (191 / 4) + c) = false) ∧ (up (fun m => m.setStackState 47 2)).mach.stackState (191 / 4) = 2 ∧
    bit (1 + 3 * 2 ^ 5) 0 = true ∧ swRefused (1 + 3 * 2 ^ 5) = true ∧ swRefused (1 + 2 * 2 ^ 5) = false ∧ swDestructive (1 + 2 * 2 ^ 5) = false ∧
    swDestructive 1 = true ∧ swRefused 1 = false ∧ State.reset.mach.swReady (191 / 4) = true ∧ State.reset.mach.swFree 191 0 = true ∧
    (jobs5 withPk []).mach.swFree 3 (fld 1 28 27) = false ∧ bit 2 0 = false ∧ bit 2 1 = true ∧ swRefused 2 = false ∧
    191 / 4 ∉ State.reset.mach.offStacks ∧ swWrites 1 = true ∧ swWrites (1 + 2 * 2 ^ 5) = false ∧ fld 1 9 7 = 0 ∧ Memory.wf State.reset.mach ∧
    (up (fun m => m.setObj (0x4400 + 191) 3 1)).mach.swPages 191 = [0] ∧
    (up (fun m => { m with rc := 25 })).mach.srt 47 = StackRt.init ∧ StackRt.init.last + 25 * 1 ≤ 25 ∧
    State.reset.mach.rc < (State.reset.mach.srt 47).last + 25 * (up (fun m => m.setObj 0x4000 5 1)).mach.obj 0x4000 5 := by decide

/-- A run of SEED over one page: its units hold SEED (Table 11-7). -/
theorem test_swatch_seed : (after (.swatchStart .portA 3 1) (up (fun m => (m.setObj (0x4400 + 3) 3 1).setObj (0x4400 + 3) 4 0xA5))).rd (unitAddr 0 3 0 29 + 60) 4 =
    [0xA5, 0, 0, 0] := by decide +kernel

theorem test_wit_RefreshAndSwatch_run : (up (fun m => (m.setObj (0x4400 + 191) 5 1).setObj (0x4400 + 191) 1 (2 ^ 16))).mach.swatchRuns 191 = true ∧
    (up (fun m => (m.setObj (0x4400 + 191) 5 1).setObj (0x4400 + 191) 1 (2 ^ 16))).mach.field (0x4400 + 191) 1 23 16 ≠ 0 ∧
    (up (fun m => m.setStackState 47 5)).mach.swReady (191 / 4) = false ∧
    fld ((up (fun m => m.setChan 191 { m.chan 191 with swatch := 2 ^ 16 })).mach.chan 191).swatch 23 16 ≠ 0 ∧
    ((up (fun m => m.setChan 191 { m.chan 191 with stopping := true })).mach.chan 191).stopping = true := by decide

/-! ## Media -/

/-- A media command: MOP, engine, PRI, stream, source and length, output and size; its record goes to 8192. -/
def mc (mop e pri st src n dst sz : Nat) : List Byte :=
  [BitVec.ofNat 8 mop, 1, BitVec.ofNat 8 e, BitVec.ofNat 8 pri] ++ leBytes 2 st ++ leBytes 2 0xFFFF ++ leBytes 8 src ++ leBytes 4 n ++ leBytes 4 sz ++
  leBytes 8 dst ++ zeros 16 ++ leBytes 8 8192 ++ zeros 8

/-- An open block of 16-bit PCM, mono, 48 kHz. -/
def pcm : List Byte := [2, 1, 0, 0] ++ leBytes 4 48000 ++ zeros 56

/-- Engine `e` with a queue and a command in hand; the audio block lies at 4096, and stream 0 of engine 8 may be open. -/
def mediaState (e : Nat) (q : List (List Byte)) (r : Option (List Byte × Option (List Byte))) (opened : Bool) : State :=
  on (jobs5 withPk [aJob]) (fun m => { (m.wr 4096 pcm).setMed e
      ⟨q.map (fun b => ⟨5, 40, 0, b⟩), r.map (fun x => ⟨⟨5, 40, 0, x.1⟩, 0, x.2⟩), false, [], none⟩ with
    streams := if opened then [(streamKey 8 0, ⟨5, pcm, [], 0, [], false, 0⟩)] else [] })

theorem test_wit_Media_half : State.reset.mach.ioUp (engAgg 8 - 8) = true ∧ State.reset.mach.ioUp (engAgg 9 - 8) = true ∧
    (jobs5 withPk []).mach.inWorks 5 = true := by decide

theorem test_wit_MediaSchedules : ((mediaState 8 [mc 1 8 0 0 4096 64 0 0, mc 1 8 4 1 4096 64 0 0] none false).mach.med 8).run = none ∧
    (on (mediaState 8 [mc 1 8 0 0 4096 64 0 0, mc 1 8 4 1 4096 64 0 0] none false) (fun m => m.setObj 0x5000 3 0)).mach.medPick 8 = some 1 ∧
    (on (mediaState 8 [mc 1 8 0 0 4096 64 0 0, mc 1 8 4 1 4096 64 0 0] none false) (fun m => m.setObj 0x5000 3 50)).mach.medPick 8 = some 0 := by decide

theorem test_wit_MediaSchedules_complete : (mediaState 8 [] (some (mc 1 8 0 0 4096 64 0 0, some (zeros 64))) false).mach.holds 5 (mcRbase (mc 1 8 0 0 4096 64 0 0)) 64 =
      true ∧ (mediaState 8 [] (some (mc 1 8 0 0 4096 64 0 0, some (zeros 64))) false).mach.holds 5 (2 ^ 35) 64 = false := by decide

theorem test_wit_MediaCommands_open : (mediaState 8 [] (some (mc 1 8 0 0 4096 64 0 0, none)) false).mach.medRefusal 5 8 (mc 1 8 0 0 4096 64 0 0) = none ∧
    (mediaState 8 [] (some (mc 1 8 0 0 4096 64 0 0, none)) false).mach.medBadRead 8 (mc 1 8 0 0 4096 64 0 0) = none ∧
    (mediaState 8 [] (some (mc 1 8 0 0 4096 64 0 0, none)) true).mach.medRefusal 5 8 (mc 1 8 0 0 4096 64 0 0) = some 0x12 := by decide +kernel

theorem test_wit_MediaCommands_run : (mediaState 8 [] (some (mc 3 8 0 0 4160 8 16384 128, none)) true).mach.medRefusal 5 8 (mc 3 8 0 0 4160 8 16384 128) = none ∧
    (mediaState 8 [] (some (mc 3 8 0 0 4160 8 16384 128, none)) true).mach.medBadRead 8 (mc 3 8 0 0 4160 8 16384 128) = none ∧
    (mediaState 8 [] (some (mc 3 8 0 0 4160 8 16384 128, none)) true).mach.medLimit 8 (mc 3 8 0 0 4160 8 16384 128) = some 250000 ∧
    (mediaState 8 [] (some (mc 2 8 0 0 0 0 0 0, none)) true).mach.medRefusal 5 8 (mc 2 8 0 0 0 0 0 0) = none := by decide +kernel

/-- An OPEN enters its stream, and an OPEN of an open stream ends with 12h (R345). -/
theorem test_media_open : ((after (.mediaOpen 8) (mediaState 8 [] (some (mc 1 8 0 0 4096 64 0 0, none)) false)).streams.get? (streamKey 8 0)).isSome = true ∧
    (((after (.mediaOpen 8) (mediaState 8 [] (some (mc 1 8 0 0 4096 64 0 0, none)) true)).med 8).run.bind (·.result)).map (fun b => leAt b 0 1) = some 0x12 := by
  decide +kernel

/-! ## Input -/

/-- An input command: IOP, half, NS, list, augmentation; its record goes to 8192, its errors to nowhere. -/
def ic (op half ns list aug : Nat) : List Byte :=
  [BitVec.ofNat 8 op, 1, BitVec.ofNat 8 half, 0] ++ leBytes 4 ns ++ leBytes 8 list ++ leBytes 8 aug ++ leBytes 8 8192 ++ zeros 32

/-- A specification of batches of one sample with one LABEL output, in a ring of two slots of 512 bytes at 16384, its counts at 12288. -/
def aSpec : List Byte :=
  leBytes 2 1 ++ leBytes 2 2 ++ [1, 0, 0, 0] ++ leBytes 8 16384 ++ leBytes 8 512 ++ leBytes 8 12288 ++ leBytes 2 0xFFFF ++ zeros 30 ++
  ([6, 0, 0, 0] ++ leBytes 4 192 ++ leBytes 4 0 ++ leBytes 4 60 ++ zeros 48)

def aStream (b : Option InBuild) : InStream := ⟨0, aSpec, [[]], [], 0, b⟩

def inState (cmd : List (List Byte)) (st : Option InStream) : State :=
  on (jobs5 { withPk with inQueue := cmd.map (fun b => ⟨40, 0, b⟩), inStream := st } [aJob]) (fun m => m.wr 4096 aSpec)

theorem test_wit_InputStreams_open : (inState [ic 1 0 0 4096 0] none).mach.inRefusal 5 (ic 1 0 0 4096 0) aSpec [[]] = none ∧
    (inState [ic 1 0 0 4096 0] none).mach.rd 4096 (bsLen ((inState [ic 1 0 0 4096 0] none).mach.rd 4096 64)) = aSpec ∧
    (openVids (inState [ic 1 0 0 4096 0] none).mach 5 (vidKeys aSpec)).1 = none ∧
    (inState [ic 1 0 0 4096 0] none).mach.badRead [(4096, 128)] = none ∧
    (inState [ic 1 2 0 4096 0] none).mach.inRefusal 5 (ic 1 2 0 4096 0) aSpec [[]] = some 0x10 ∧ (inState [] none).mach.switching 5 = false := by decide +kernel

/-- One sample of two, each a batch. -/
def aBuild (made pub : Nat) : InBuild := ⟨⟨40, 0, ic 2 0 2 20480 24576⟩, 0, made, pub, 0, 0, 0, 0, 0, 0⟩

theorem test_wit_InputStreams_submit : (inState [ic 2 0 2 20480 24576] (some (aStream none))).mach.inRefusal 5 (ic 2 0 2 20480 24576) [] [] = none ∧
    (inState [ic 2 0 0 20480 24576] (some (aStream none))).mach.inRefusal 5 (ic 2 0 0 20480 24576) [] [] = some 0x10 ∧
    1 < batches aSpec (ic 2 0 2 20480 24576) ∧ (inState [] none).mach.objBit 0x5285 1 2 = false ∧
    (inState [] none).mach.ringFree aSpec 1 = true ∧ (inState [] none).mach.ringFree aSpec 2 = false ∧
    ((inState [] (some (aStream (some (aBuild 1 0))))).mach.sampleOf 5 (aStream (some (aBuild 1 0))) (ic 2 0 2 20480 24576) 1).hard = false ∧
    (inState [] none).mach.badRead [(20480 + 16, 16)] = none := by decide +kernel

theorem test_wit_InputStreams_rest : (inState [ic 3 0 0 0 0] (some (aStream none))).mach.inRefusal 5 (ic 3 0 0 0 0) [] [] = none ∧
    (aBuild 1 0).published + 1 ≠ batches aSpec (aBuild 1 0).cmd.bytes ∧ (aBuild 2 1).published + 1 = batches aSpec (aBuild 2 1).cmd.bytes ∧
    (aBuild 2 1).published < (aBuild 2 1).made ∧ (on (inState [] none) (fun m => m.setBit 0x5285 1 2 true)).mach.objBit 0x5285 1 2 = true := by decide

/-- An INPUT_OPEN enters the stream; BATCH_PUBLISH counts at STAT (R371, R376). -/
theorem test_input : ((after (.inputOpen 5) (inState [ic 1 0 0 4096 0] none)).part 5).inStream = some (aStream none) ∧
    (after (.batchPublish 5) (inState [ic 2 0 2 20480 24576] (some (aStream (some (aBuild 1 0)))))).rdNat 12288 8 = 1 := by decide +kernel

/-! ## The dictionary, mailboxes and CAN -/

theorem test_wit_ObjectWrites : State.reset.mach.serves .portA = true ∧ (objFind 0x9999 0).1 ≠ 0 ∧ (objFind 0x2001 0).1 = 0 ∧ (objFind 0x2001 0).2.1.acc = .ro ∧
    (objFind 0x6080 1).1 = 0 ∧ (objFind 0x6080 1).2.1.acc = .rwi ∧ (objFind 0x2006 1).2.1.acc = .rwp ∧ (objFind 0x2006 1).1 = 0 := by decide +kernel

theorem test_wit_ObjectWrites_kept : (zeros (objFind 0x6080 1).2.1.size).length = (objFind 0x6080 1).2.1.size ∧
    State.reset.mach.writeSpecial .portA (objFind 0x6080 1).2.1 (objFind 0x6080 1).2.2 0 = none ∧
    outOfBounds (objFind 0x6080 1).2.1 0 = false ∧ State.reset.mach.refusedValue (objFind 0x6080 1).2.1 (objFind 0x6080 1).2.2 0 = false ∧
    (jobs5 withPk []).mach.targetTakes (objFind 0x6085 1).2.1 (objFind 0x6085 1).2.2 = true ∧
    State.reset.mach.targetTakes (objFind 0x6080 1).2.1 (objFind 0x6080 1).2.2 = false ∧
    State.reset.mach.writeSelected (objFind 0x6080 1).2.1 (objFind 0x6080 1).2.2 0 = none ∧
    outOfBounds (objFind 0x2006 1).2.1 0x7FFF = true := ⟨by decide +kernel, rfl, by decide +kernel, by decide +kernel, by decide +kernel, by decide +kernel, rfl, by decide +kernel⟩

/-- A mailbox command: upload of 1000h. -/
def mb (cmd idx : Nat) : MbReq := ⟨cmd, idx, 0, 0, 4, zeros 4, 1⟩

theorem test_wit_Mailboxes : (State.reset.mach.host 0).up = true ∧ (State.reset.mach.host 0).busy = false ∧ State.reset.mach.online = true ∧
    (objFind 0x1000 0).1 = 0 ∧ (objFind 0x1000 0).2.1.acc ≠ .wo ∧ (mb 1 0x1000).seg = 0 ∧
    (on State.reset (fun m => m.setHost 0 { m.host 0 with busy := true })).mach.host 0 = { State.reset.mach.host 0 with busy := true } ∧
    (objFind 0x1015 0).1 = 0 ∧ (objFind 0x1015 0).2.1.acc ≠ .const ∧ (objFind 0x1015 0).2.1.acc ≠ .ro ∧ (objFind 0x1015 0).2.1.ty ≠ .domain := by decide +kernel

theorem test_wit_Mailboxes_wo : (objFind 0x3000 1).1 = 0 ∧ (objFind 0x3000 1).2.1.acc = .wo ∧ (objFind 0x6100 8).1 = 0 ∧ (objFind 0x6100 8).2.1.acc ≠ .wo := by
  decide +kernel

theorem test_wit_Mailboxes_domain : (objFind 0x6100 8).2.1.ty = .domain := by decide +kernel

/-- A mailbox read of 1000h answers its four bytes under its SEQ (R437). -/
theorem test_mailbox : ((after (.mailboxRead 0 (mb 1 0x1000)) State.reset).host 0).doneSeq = 1 ∧
    ((after (.mailboxRead 0 (mb 1 0x1000)) State.reset).host 0).resp.abort = 0 ∧ (after (.mailboxRead 0 (mb 1 0x1000)) State.reset).answer.data.length = 4 := by
  decide +kernel

def aTransfer : Usdo := ⟨0x6100, 8, false, zeros 128, 0, 128, 0⟩

theorem test_wit_UsdoTransfers : State.reset.mach.serves .can = true ∧ State.reset.mach.can.usdo = none ∧ (State.reset.mach.readObj 0x1000 0).1 = 0 ∧
    (State.reset.mach.readObj 0x1000 0).2.1.length ≤ 4 ∧ 4 < (State.reset.mach.readObj 0x6100 8).2.1.length ∧ (State.reset.mach.readObj 0x6100 8).1 = 0 ∧
    (State.reset.mach.readObj 0x9999 0).1 ≠ 0 ∧ aTransfer.write = false ∧ aTransfer.t0 + 25000000 ≤ 25000000 ∧ State.reset.mach.rc < aTransfer.t0 + 25000000 := by
  decide +kernel

theorem test_wit_CanPort : State.reset.mach.hears 0 = true ∧ State.reset.mach.hears (State.reset.mach.node + 1) = false ∧
    State.reset.mach.store.restore = false ∧ (up (fun m => m.eachStore (fun _ f => { f with restore := true }))).mach.store.restore = true ∧
    (up (fun m => m.eachStore (fun _ f => { f with restore := true }))).mach.hears 0 = true ∧
    (up (fun m => { m with rc := 25000 * 1000 })).mach.timers.get 0 everyHeartbeat + 25000 * 1000 ≤ 25000 * 1000 ∧
    State.reset.mach.rc < State.reset.mach.timers.get 0 (everyTpdo 3) + max (25000 * 1) 0 ∧
    State.reset.mach.canSends = true ∧ (up (fun m => m.setNmt 5)).mach.can.nmt = 5 ∧
    (up (fun m => m.setObj 0x1803 5 1)).mach.obj (0x1800 + 3) 5 ≠ 0 ∧ (up (fun m => m.setObj 0x1803 5 0)).mach.obj (0x1800 + 3) 5 = 0 ∧
    (up (fun m => m.setNmt 0)).mach.canSends = false ∧ State.reset.mach.can.listen = false ∧ State.reset.mach.can.nmt ≠ 0 := by decide

theorem test_wit_CanPort_emcy : EmcyCond.vin ∉ State.reset.mach.can.active ∧ EmcyCond.vin ∈ (up (fun m => m.emcySet .vin 0)).mach.can.active ∧
    (up (fun m => { m with can := { m.can with queue := [(0x3100, 0)], lastEmcy := none } })).mach.can.queue = [(0x3100, 0)] := by decide +kernel

/-- An NMT stop is heard by the node it names (R431). -/
theorem test_nmt : (after (.nmtStop State.reset.mach.node) State.reset).can.nmt = 4 ∧ (after (.nmtStop 127) State.reset).can.nmt = State.reset.mach.can.nmt := by decide

/-! ## Loop-backs and hosts -/

/-- Port 1 in the loop-back state `st` of depth `loop`, since `t0`, at time `rc`. -/
def looped (loop st t0 rc : Nat) : State :=
  up (fun m => { ((m.setObj 0xA101 1 loop).setObj 0xA101 2 st).setHost 1 { m.host 1 with loopT0 := t0 } with rc := rc })

theorem test_wit_LoopBacks : State.reset.mach.serves .portA = true ∧ pathPort .portA = 0 ∧ State.reset.mach.looping 1 = false ∧ 3 < 4 % 8 ∧
    (looped 1 2 0 1500000000).mach.looping 1 = true ∧ (looped 1 2 0 1500000000).mach.obj (0xA100 + 1) 1 ≠ 0 ∧
    1500000000 ≤ (looped 1 2 0 1500000000).mach.rc - ((looped 1 2 0 1500000000).mach.host 1).loopT0 ∧
    (looped 3 1 0 2500000).mach.loopSt 1 = 1 ∧ 2500000 ≤ (looped 3 1 0 2500000).mach.rc - ((looped 3 1 0 2500000).mach.host 1).loopT0 := by decide

theorem test_wit_LoopBacks_can : 3 % 4 = 3 ∧ State.reset.mach.serves .can = true ∧ (up (fun m => m.setObj 0xA200 1 2)).mach.obj 0xA200 1 ≠ 0 ∧
    State.reset.mach.obj 0xA200 1 = 0 ∧ (up (fun m => { m with rc := 1500000000 })).mach.can.loopT0 + 1500000000 ≤
      (up (fun m => { m with rc := 1500000000 })).mach.rc ∧ State.reset.mach.rc < State.reset.mach.timers.get 0 everyTest + 250000 ∧
    State.reset.mach.timers.get 0 everyTest + 250000 ≤ (up (fun m => { m with rc := 250000 })).mach.rc := by decide

def barRead (off len : Nat) : BarAcc := ⟨false, false, off, len, []⟩

theorem test_wit_HostPorts : (State.reset.mach.host 1).up = true ∧ State.reset.mach.unsupported 1 (barRead 0 64) = false ∧
    State.reset.mach.unsupported 1 (barRead 0 0) = true ∧ State.reset.mach.barLost 0 ((State.reset.mach.host 1).wbase + 0) 64 = [] ∧
    (up (fun m => { m with bad := [1] })).mach.barLost 0 ((State.reset.mach.host 1).wbase + 0) 64 ≠ [] ∧
    State.reset.mach.stackState 0 ≠ 6 ∧ (up (fun m => m.setStackState 0 6)).mach.stackState 0 = 6 ∧ (0 : Nat) / 64 = (0 + 64 - 1) / 64 ∧
    State.reset.mach.unsupported 1 ⟨true, true, 0, 4, zeros 4⟩ = false ∧
    (∀ w ∈ halves ((State.reset.mach.host 1).wbase + 0) (zeros 64), State.reset.mach.badWrite [w] = none) ∧
    (2047 : Nat) < 2048 ∧ 0 % 2 ^ 64 % (State.reset.mach.host 1).bar2 = 0 ∧ 1 % 2 ^ 64 % (State.reset.mach.host 1).bar2 ≠ 0 := by decide +kernel

theorem test_wit_HostPorts_down : ((up (fun m => m.setHost 1 { m.host 1 with up := false })).mach.host 1).up = false ∧
    State.reset.mach.looping 1 = false := by decide

/-- A write through BAR2, and a poisoned one (R438). -/
theorem test_bar2 : (after (.bar2Access 0 ⟨true, false, 62, 4, List.replicate 4 7⟩) State.reset).rd 61 6 = [0, 7, 7, 7, 7, 0] ∧
    (after (.bar2Access 0 ⟨true, true, 62, 4, List.replicate 4 7⟩) State.reset).mem = [] := by decide +kernel

/-! ## Cast-on and the test access port -/

/-- The surroundings of a cast-on in which nothing fails. -/
def fineEnv : CastEnv := ⟨1, 0, 4800, true, true, true, [], [], [], [], [], [], [], [], true, true, []⟩

/-- With what fails. -/
def env (refclk ma mb : Bool) (dead : List Nat) : CastEnv := { fineEnv with refclk := refclk, maLock := ma, mbLock := mb, deadSup := dead }

theorem test_wit_CastOns : vinGood 4800 = true ∧ vinGood 3799 = false ∧ (∃ x, x < 2 ∧ x ∉ (env true true true [1]).deadSup) ∧
    ¬ (∃ x, x < 2 ∧ x ∉ (env true true true [0, 1]).deadSup) ∧ (env false true true []).refclk = false ∧
    ¬ ((env true false false []).maLock = true ∨ (env true false false []).mbLock = true) ∧
    (up (fun m => { m with phase := .off })).mach.phase = .off ∧ (up (fun m => { m with phase := .lowVin })).mach.phase = .lowVin ∧
    (up (fun m => { m with phase := .waiting })).mach.phase = .waiting ∧ (up (fun m => { m with phase := .held })).mach.phase = .held ∧
    State.reset.mach.phase = .running := by decide

/-- MOD_RST holds the module, and a cast-on without a master halts at step 4 (R516, Table 18-1). -/
theorem test_cast_on : (after .modRstAssert State.reset).phase = .held ∧
    (after (.castOn (env true false false [])) (up (fun m => { m with phase := .off }))).phase = .halted 4 := by decide +kernel

theorem test_wit_TestAccess : State.reset.mach.tapOn = true ∧ (up (fun m => { m with phase := .off })).mach.tapOn = false ∧ State.reset.mach.pinsFree = false ∧
    (up (fun m => { m with phase := .held })).mach.pinsFree = true ∧ (up (fun m => { m with phase := .held })).mach.tapOn = true := by decide

theorem test_idcode : (after .idcode State.reset).tap = ⟨1, 0x26402C55, false⟩ := by decide +kernel

/-! ## The census, reset and the invariant -/

def census5 (st4 : Nat) : State := on (jobs5 withPk []) (objsOn [(okey 0x6105 2, 4096), (okey 0x6105 4, st4)])

theorem test_wit_CensusCommands : (census5 0).mach.online = true ∧ (census5 0).mach.pstate 5 ≠ 0 ∧ (census5 0).mach.objBit 0x6105 4 0 = false ∧
    (census5 0).mach.obj 0x6105 2 % 128 = 0 ∧ (census5 0).mach.holds 5 ((census5 0).mach.obj 0x6105 2) (128 * (0 + 1)) = true ∧ 255 + 0 ≤ 255 ∧
    ¬ 255 + 1 ≤ 255 ∧ (census5 1).mach.objBit 0x6105 4 0 = true ∧ (census5 0).mach.pstate 6 = 0 ∧
    (on (census5 0) (fun m => m.setObj 0x6105 1 2)).mach.objBit 0x6105 1 1 = true := by decide

/-- A dump of slot 255 shows BUSY, and its end DONE (R71). -/
theorem test_census : (after (.censusDump 5 (2 ^ 16 + 255)) (census5 0)).field 0x6105 4 2 0 = 1 ∧
    (after (.censusCommandDone 5) (census5 1)).field 0x6105 4 2 0 = 2 := by decide +kernel

theorem test_wit_InvStep : State.reset.Inv ∧ (∃ t, step State.reset = .next t) := ⟨by decide, _, rfl⟩

/-- On an empty queue a tick of rc passes. -/
theorem test_tick : (match step State.reset with | .next t => t.mach.rc | _ => 0) = 1 := by decide +kernel

/-! ## WellFormed refuses -/

theorem test_wf_hello : Instr.wf (.hello 3 0 ⟨4096, true, 3, 0, 3⟩) = false ∧ Instr.wf (.hello 3 0 ⟨9, true, 64, 0, 3⟩) = false ∧
    Instr.wf (.hello 3 0 ⟨9, true, 3, 2, 3⟩) = false ∧ Instr.wf (.hello 3 0 ⟨9, true, 3, 0, 256⟩) = false ∧ Instr.wf (.hello 3 2 ⟨9, true, 3, 0, 3⟩) = false ∧
    Instr.wf (.hello 64 0 ⟨9, true, 3, 0, 3⟩) = false ∧ Instr.wf (.hello 3 0 ⟨9, true, 3, 0, 3⟩) = true := by decide

def goodLink : LinkEnv := { fail := 0, farAddr := 9, farValid := true, farLink := 3, farVersions := 3, probes := List.replicate 16 100 }

theorem test_wf_link_env : LinkEnv.wf goodLink = true ∧ LinkEnv.wf { goodLink with fail := 16 } = false ∧ LinkEnv.wf { goodLink with farAddr := 4096 } = false ∧
    LinkEnv.wf { goodLink with farLink := 64 } = false ∧ LinkEnv.wf { goodLink with farVersions := 256 } = false ∧
    LinkEnv.wf { goodLink with probes := List.replicate 17 0 } = false ∧ Instr.wf (.linkTrain 64 goodLink) = false := by decide

theorem test_wf_cast_env : CastEnv.wf fineEnv = true ∧ CastEnv.wf { fineEnv with pos := 128 } = false ∧ CastEnv.wf { fineEnv with boot := 4 } = false ∧
    CastEnv.wf { fineEnv with deadBridges := [10] } = false ∧ CastEnv.wf { fineEnv with deadSlots := [2176] } = false ∧
    CastEnv.wf { fineEnv with deadClusters := [128] } = false ∧ CastEnv.wf { fineEnv with deadChannels := [192] } = false ∧
    CastEnv.wf { fineEnv with deadStacks := [48] } = false ∧ CastEnv.wf { fineEnv with deadEngines := [10] } = false ∧
    CastEnv.wf { fineEnv with links := List.replicate 65 goodLink } = false ∧ CastEnv.wf { fineEnv with links := [{ goodLink with fail := 16 }] } = false ∧
    CastEnv.wf { fineEnv with deadSup := [2] } = false := by decide +kernel

theorem test_wf_msg : Msg.wf (aMsg 0 0) = true ∧ Msg.wf { aMsg 0 0 with op := 16 } = false ∧ Msg.wf { aMsg 0 0 with mv := 4 } = false ∧
    Msg.wf { aMsg 0 0 with dfa := 4096 } = false ∧ Msg.wf { aMsg 0 0 with sfa := 4096 } = false ∧ Msg.wf { aMsg 0 0 with dpart := 64 } = false ∧
    Msg.wf { aMsg 0 0 with spart := 64 } = false ∧ Msg.wf { aMsg 0 0 with tag := 65536 } = false ∧ Msg.wf { aMsg 0 0 with genr := 256 } = false ∧
    Msg.wf { aMsg 0 0 with pidx := 256 } = false ∧ Msg.wf { aMsg 0 0 with srcu := 65536 } = false ∧ Msg.wf { aMsg 0 0 with fbuf := 4096 } = false ∧
    Msg.wf { aMsg 0 0 with foff := 2 ^ 24 } = false ∧ Msg.wf { aMsg 0 0 with lenq := 4096 } = false ∧ Msg.wf { aMsg 0 0 with fmk := 65536 } = false ∧
    Msg.wf { aMsg 0 0 with arg := 2 ^ 32 } = false ∧ Msg.wf { aMsg 0 0 with mid := 2 ^ 32 } = false ∧ Msg.wf { aMsg 0 0 with data := [0] } = false := by decide

theorem test_wf_requests : MemReq.wf ⟨false, 2 ^ 52, 1, [], .clean⟩ = false ∧ MemReq.wf ⟨false, 0, 0, [], .clean⟩ = false ∧
    MemReq.wf ⟨false, 0, 5, [], .clean⟩ = false ∧ MemReq.wf ⟨true, 0, 1, zeros 65, .clean⟩ = false ∧ SwatchSeen.wf ⟨1, 2, 0, []⟩ = false ∧
    SwatchSeen.wf ⟨2, 1, 1, zeros 33⟩ = false ∧ LoopSeen.wf ⟨0, 65536, false⟩ = false ∧ BarAcc.wf ⟨true, false, 0, 4, [0]⟩ = false ∧
    MbReq.wf { mb 256 0 with seq := 0 } = false ∧ MbReq.wf (mb 1 65536) = false ∧ MbReq.wf { mb 1 0 with sub := 256 } = false ∧
    MbReq.wf { mb 1 0 with seg := 2 ^ 32 } = false ∧ MbReq.wf { mb 1 0 with len := 2 ^ 32 } = false ∧ MbReq.wf { mb 1 0 with seq := 65536 } = false ∧
    UsdoReq.wf (.read 65536 0) = false ∧ UsdoReq.wf (.write 0 256 []) = false ∧ UsdoReq.wf (.start 65536 0 0) = false := by decide

theorem test_wf_causes : HwCause.wf (.slot 128 0 true) = false ∧ HwCause.wf (.slot 0 17 true) = false ∧ HwCause.wf (.cluster 128 true) = false ∧
    HwCause.wf (.row 48 0 true) = false ∧ HwCause.wf (.link 64 true) = false ∧ HwCause.wf (.engine 10 true) = false ∧
    LimitEnv.wf ⟨0, List.replicate 65 []⟩ = false ∧ LimitEnv.wf ⟨0, [List.replicate 9 0]⟩ = false ∧ HealthEnv.wf ⟨List.replicate 11 0, 0, 0, 0⟩ = false := by
  decide

theorem test_wf_units : Instr.wf (.nop 2048) = false ∧ Instr.wf (.streamFetchReturn 0 (some (2 ^ 52))) = false ∧ Instr.wf (.dmaComplete 0 8) = false ∧
    Instr.wf (.fwDeadline 0 8) = false ∧ Instr.wf (.run 64) = false ∧ Instr.wf (.sqTail 512 0) = false ∧ Instr.wf (.sqTail 0 (2 ^ 32)) = false ∧
    Instr.wf (.append 0 64) = false ∧ Instr.wf (.tileUpdate 0 4096 0) = false ∧ Instr.wf (.retry 0 4096) = false ∧ Instr.wf (.dataFlitReceive 0 [] none) = false ∧
    Instr.wf (.echoReq 0 16) = false ∧ Instr.wf (.perBankRefresh 0 32 false 0) = false ∧ Instr.wf (.swatchStop .portA 192 0) = false ∧
    Instr.wf (.decode 10 false) = false ∧ Instr.wf (.nmtStart 128) = false ∧ Instr.wf (.tpdo 4) = false ∧ Instr.wf (.vectorUnmask 0 2048) = false ∧
    Instr.wf (.synthLockLoss 180) = false ∧ Instr.wf (.bridgeFailure 10) = false ∧ Instr.wf (.trial .portA 2 0) = false ∧ Instr.wf (.markerUpdate 128 0) = false ∧
    Instr.wf (.perstDeassert 2 true) = false ∧ Instr.wf (.ping 65 (aMsg 6 1)) = false ∧ Instr.wf (.selfRefreshExit 48) = false := by decide

end Sys2Proof.Tests
end

section
/-! SUPPORT. Proofs: what the passing of time does to a module whose queue is empty. -/

namespace Sys2Proof.Machine

/-! ## The passing of time -/

/-- With no command waiting a step is a tick of the module. -/
theorem step_of_empty (m : Mach) : step ⟨[], m⟩ = .next ⟨[], m.tick⟩ := rfl

/-- Out of service no time passes: rc counts the cycles of a module in service (R448). -/
theorem Mach.tick_of_not_running {m : Mach} (h : m.phase ≠ .running) : m.tick = m := by
  simp only [Mach.tick, if_pos h]

/-- A partition without a frog has no wait for its partner to run out (R501). -/
theorem Mach.frogTimeout_of_no_frog {m : Mach} {p : Nat} (h : (m.life p).frog = none) : m.frogTimeout p = m := by
  simp only [Mach.frogTimeout, h]

/-- Where no partition has a frog, looking at all of them for a wait that has run out changes nothing. -/
theorem Mach.foldl_frogTimeout_of_no_frog {m : Mach} {n : Nat} (h : ∀ p, p < n → (m.life p).frog = none) :
    (List.range n).foldl (fun a p => a.frogTimeout p) m = m :=
  List.foldlRecOn (motive := (· = m)) _ _ rfl fun a ha p hp => by
    subst ha
    exact Mach.frogTimeout_of_no_frog (h p (List.mem_range.mp hp))

/-- In service and without a frog, a tick is one count of rc. -/
theorem Mach.tick_of_no_frog {m : Mach} (hr : m.phase = .running) (h : ∀ p, p < 64 → (m.life p).frog = none) :
    m.tick = { m with rc := m.rc + 1 } := by
  have counted : ∀ p, p < 64 → (({ m with rc := m.rc + 1 } : Mach).life p).frog = none := h
  rw [Mach.tick, if_neg (not_not_intro hr)]
  exact Mach.foldl_frogTimeout_of_no_frog counted

/-- Settles O2: a step on an empty queue is a tick, which does nothing out of service and, where no frog waits, counts rc in service. -/
theorem idleStep : Obligations.IdleStep := fun m =>
  ⟨fun hoff => by rw [step_of_empty, Mach.tick_of_not_running hoff],
   fun hrun hfrog => by rw [step_of_empty, Mach.tick_of_no_frog hrun hfrog]⟩

end Sys2Proof.Machine
end

section
/-! SUPPORT. Proofs: what the words of a core and their operations leave of the memory. -/

namespace Sys2Proof.Machine

/-! The memory of the module (the cells of `Mach.mem`) is written by `wr`, `wipe`, `copyMem` and `scribble` alone. For every
operation `f` that a step can reach there is one lemma: `f_mem` where `f` leaves the memory as it is, and `Memory.wf_f` where `f` may
store, so that a memory in canonical form stays in canonical form. -/

@[simp] theorem Mach.mem_ite (c : Prop) [Decidable c] (a b : Mach) : (if c then a else b).mem = if c then a.mem else b.mem :=
  apply_ite _ _ _ _

theorem Mach.foldl_mem {α : Type} {f : Mach → α → Mach} (hf : ∀ m a, (f m a).mem = m.mem) (l : List α) (m : Mach) :
    (l.foldl f m).mem = m.mem :=
  Mach.foldl_same (·.mem) hf l m

theorem Memory.wf_ite {c : Prop} [Decidable c] {a b : Mach} (ha : Memory.wf a) (hb : Memory.wf b) : Memory.wf (if c then a else b) := by
  split
  · exact ha
  · exact hb

/-- The counter of free values is no part of the memory. -/
theorem Memory.wf_free {m : Mach} (h : Memory.wf m) (n : Nat) : Memory.wf { m with free := n } := h

/-! ## Shared operations -/

@[simp] theorem Mach.addObj_mem (m : Mach) (idx sub n : Nat) : (m.addObj idx sub n).mem = m.mem := rfl
@[simp] theorem Mach.addObj32_mem (m : Mach) (idx sub n : Nat) : (m.addObj32 idx sub n).mem = m.mem := rfl
@[simp] theorem Mach.setField_mem (m : Mach) (idx sub hi lo v : Nat) : (m.setField idx sub hi lo v).mem = m.mem := rfl
@[simp] theorem Mach.setBit_mem (m : Mach) (idx sub i : Nat) (b : Bool) : (m.setBit idx sub i b).mem = m.mem := rfl
@[simp] theorem Mach.fresh_mem (m : Mach) : m.fresh.2.mem = m.mem := rfl
@[simp] theorem Mach.eachStore_mem (m : Mach) (f : Nat → Store → Store) : (m.eachStore f).mem = m.mem := rfl
@[simp] theorem Mach.cmdDone_mem (m : Mach) (idx sub : Nat) (ok : Bool) : (m.cmdDone idx sub ok).mem = m.mem := rfl
@[simp] theorem Mach.spoil_mem (m : Mach) (key : Nat) : (m.spoil key).mem = m.mem := rfl
@[simp] theorem Mach.countBeats_mem (m : Mach) (core n : Nat) : (m.countBeats core n).mem = m.mem := rfl
@[simp] theorem Mach.modPart_mem (m : Mach) (p : Nat) (f : Part → Part) : (m.modPart p f).mem = m.mem := rfl

@[simp] theorem Mach.every_mem {m : Mach} {f : Mach → Mach} (hf : ∀ a, (f a).mem = a.mem) (k period : Nat) : (m.every k period f).mem = m.mem := by
  simp [Mach.every, hf]

@[simp] theorem Mach.signal_mem (m : Mach) (d mk n : Nat) : (m.signal d mk n).mem = m.mem := rfl

/-! ## Error correction -/

@[simp] theorem Mach.setStackState_mem (m : Mach) (s st : Nat) : (m.setStackState s st).mem = m.mem := rfl
@[simp] theorem Mach.setSrt_mem (m : Mach) (s : Nat) (x : StackRt) : (m.setSrt s x).mem = m.mem := rfl
@[simp] theorem Mach.touchStack_mem (m : Mach) (s : Nat) : (m.touchStack s).mem = m.mem := by simp [Mach.touchStack]
@[simp] theorem Mach.setRows_mem (m : Mach) (s : Nat) (r : RowStore) : (m.setRows s r).mem = m.mem := rfl
@[simp] theorem Mach.candidate_mem (m : Mach) (s row : Nat) : (m.candidate s row).mem = m.mem := by simp [Mach.candidate]
@[simp] theorem Mach.errorRecord_mem (m : Mach) (kind addr cls : Nat) : (m.errorRecord kind addr cls).mem = m.mem := rfl
@[simp] theorem Mach.eccLost_mem (m : Mach) (kind addr cls : Nat) : (m.eccLost kind addr cls).mem = m.mem := by simp [Mach.eccLost]
@[simp] theorem Mach.lostRead_mem (m : Mach) (cls key : Nat) : (m.lostRead cls key).mem = m.mem := by simp [Mach.lostRead]

@[simp] theorem Mach.lostAny_mem (m : Mach) (cls : Nat) (key : Option Nat) : (m.lostAny cls key).mem = m.mem := by
  unfold Mach.lostAny
  split <;> simp

/-! ## Operands and faults of a word -/

@[simp] theorem Mach.advance_mem (m : Mach) (x : Wx) : (m.advance x).mem = m.mem := rfl
@[simp] theorem Mach.takeFault_mem (m : Mach) (x : Wx) (f : Nat × Nat) : (m.takeFault x f).mem = m.mem := by simp [Mach.takeFault]

@[simp] theorem Mach.lateFault_mem (m : Mach) (core : Nat) (sel : Mach → Wx → Bool) (checks : Mach → Wx → List (Nat × Nat)) :
    (m.lateFault core sel checks).mem = m.mem := by
  unfold Mach.lateFault
  split
  · simp
  · split
    · simp
    · split <;> simp

@[simp] theorem issue_mem {m : Mach} {core : Nat} {sel : Mach → Wx → Bool} {checks : Mach → Wx → List (Nat × Nat)} {stall : Mach → Wx → Bool}
    {act : Mach → Wx → Mach} (ha : ∀ x, (act m x).mem = m.mem) : (issue m core sel checks stall act).mem = m.mem := by
  unfold issue
  split
  · simp
  · split
    · rfl
    · split <;> simp [ha]

/-! ## Flags and the census of stores -/

@[simp] theorem Mach.setFlags_mem (m : Mach) (p fl : Nat) : (m.setFlags p fl).mem = m.mem := by simp [Mach.setFlags]

@[simp] theorem Mach.addCensus_mem (m : Mach) (p t : Nat) (ns : List Nat) : (m.addCensus p t ns).mem = m.mem :=
  Mach.foldl_mem (fun _ _ => by simp) _ _

@[simp] theorem Mach.countStore_mem (m : Mach) (p : Nat) (cen : Bool) (tag : Nat) (blocks : List (List Val)) :
    (m.countStore p cen tag blocks).mem = m.mem := by
  unfold Mach.countStore
  simp [Mach.foldl_mem]

/-! ## Pinned sequences and the end of a run -/

theorem Memory.wf_setFlag {m : Mach} (h : Memory.wf m) (c : CacheAt) (s i : Nat) (b : Bool) : Memory.wf (c.setFlag m s i b) := by
  unfold CacheAt.setFlag
  exact Memory.wf_wrNat h _ _ _

theorem Memory.wf_pinSeqs {m : Mach} (h : Memory.wf m) (p : Nat) (seqs : List Nat) (on : Bool) : Memory.wf (m.pinSeqs p seqs on) := by
  unfold Mach.pinSeqs
  dsimp only
  split
  · exact h
  · refine Memory.wf_foldl (fun a x ha => ?_) _ h
    split
    · exact ha
    · split
      · exact Memory.wf_foldl (fun a x ha => (Memory.wf_wrNat (Memory.wf_setFlag ha _ _ _ _) _ _ _)) _ ha
      · exact Memory.wf_foldl (fun a x ha => (Memory.wf_setFlag ha _ _ _ _)) _ ha

theorem Memory.wf_unpinJob {m : Mach} (h : Memory.wf m) (j : Job) : Memory.wf (m.unpinJob j) := by
  unfold Mach.unpinJob
  dsimp only
  split
  · exact h
  · exact Memory.wf_pinSeqs h _ _ _

theorem Memory.wf_endRun {m : Mach} (h : Memory.wf m) (j : Job) (status detail : Nat) : Memory.wf (m.endRun j status detail) := by
  unfold Mach.endRun
  simp [Memory.wf, Memory.wf_unpinJob, h]

/-! ## Control words -/

theorem Memory.wf_settle {m : Mach} (h : Memory.wf m) (p : Nat) : Memory.wf (m.settle p) := by
  unfold Mach.settle
  split
  · split
    · exact Memory.wf_endRun h _ _ _
    · exact h
  · exact h

@[simp] theorem doNop_mem (m : Mach) (x : Wx) : (doNop m x).mem = m.mem := rfl

theorem Memory.wf_doHalt {m : Mach} (h : Memory.wf m) (x : Wx) : Memory.wf (doHalt m x) := by
  unfold doHalt
  simp [Memory.wf, Memory.wf_settle, h]

@[simp] theorem doFault_mem (m : Mach) (x : Wx) : (doFault m x).mem = m.mem := by simp [doFault]
@[simp] theorem doSet_mem (m : Mach) (x : Wx) : (doSet m x).mem = m.mem := rfl
@[simp] theorem doAdd_mem (m : Mach) (x : Wx) : (doAdd m x).mem = m.mem := rfl
@[simp] theorem doDbnz_mem (m : Mach) (x : Wx) : (doDbnz m x).mem = m.mem := rfl
@[simp] theorem doBcmp_mem (m : Mach) (x : Wx) : (doBcmp m x).mem = m.mem := rfl
@[simp] theorem doRctx_mem (m : Mach) (x : Wx) : (doRctx m x).mem = m.mem := rfl

@[simp] theorem doStreamEnd_mem (m : Mach) (core : Nat) : (doStreamEnd m core).mem = m.mem := by
  unfold doStreamEnd
  split <;> simp

@[simp] theorem doFetchReturn_mem (m : Mach) (core : Nat) (lost : Option Nat) : (doFetchReturn m core lost).mem = m.mem := by
  unfold doFetchReturn
  split <;> simp

/-! ## Vector words -/

theorem Memory.wf_vecStore {m : Mach} (h : Memory.wf m) (x : Wx) (vs : List Val) (fl fo mode : Nat) (sat cen : Bool) (tag dkey : Nat)
    (unit : Bool) : Memory.wf (vecStore m x vs fl fo mode sat cen tag dkey unit) := by
  unfold vecStore
  dsimp only
  split
  · simp [Memory.wf, h]
  · simp [Memory.wf, Memory.wf_wrAll, h]

theorem Memory.wf_doVop {m : Mach} (h : Memory.wf m) (x : Wx) : Memory.wf (doVop m x) := by
  unfold doVop
  dsimp only
  exact Memory.wf_vecStore h _ _ _ _ _ _ _ _ _ _

/-! ## Special functions -/

theorem Memory.wf_doSfn {m : Mach} (h : Memory.wf m) (x : Wx) : Memory.wf (doSfn m x) := by
  unfold doSfn
  dsimp only
  exact Memory.wf_vecStore h _ _ _ _ _ _ _ _ _ _

/-! ## DMA words and window updates -/

@[simp] theorem Mach.countMoved_mem (m : Mach) (p : Nat) (pl : DmaPlan) (mv : Moved) : (m.countMoved p pl mv).mem = m.mem := by
  unfold Mach.countMoved
  split <;> simp

@[simp] theorem Mach.launch_mem (m : Mach) (x : Wx) (plan : DmaPlan) (mk : Option Nat) : (m.launch x plan mk).mem = m.mem := rfl
@[simp] theorem doLdma_mem (m : Mach) (x : Wx) : (doLdma m x).mem = m.mem := rfl
@[simp] theorem doCdma_mem (m : Mach) (x : Wx) : (doCdma m x).mem = m.mem := rfl
@[simp] theorem doFwpost_mem (m : Mach) (x : Wx) : (doFwpost m x).mem = m.mem := rfl
@[simp] theorem Mach.setWin_mem (m : Mach) (p w : Nat) (f : FillWin) : (m.setWin p w f).mem = m.mem := rfl

@[simp] theorem Mach.fwExpire_mem (m : Mach) (p w late : Nat) : (m.fwExpire p w late).mem = m.mem := by
  unfold Mach.fwExpire
  split
  · simp
  · split <;> simp

@[simp] theorem Mach.dropPost_mem (m : Mach) (p w core ei : Nat) : (m.dropPost p w core ei).mem = m.mem := by
  unfold Mach.dropPost
  split <;> simp

theorem Memory.wf_doFwAccept {m : Mach} (h : Memory.wf m) (p w : Nat) : Memory.wf (doFwAccept m p w) := by
  unfold doFwAccept
  dsimp only
  split
  · exact h
  · split
    · split
      · simp [Memory.wf, h]
      · simp [Memory.wf, Memory.wf_settle, Memory.wf_wrAll, h]
    · split
      · split
        · split <;> simp [Memory.wf, h]
        · simp [Memory.wf, h]
      · simp [Memory.wf, h]
    · simp [Memory.wf, h]

@[simp] theorem doFwDeadline_mem (m : Mach) (p w : Nat) : (doFwDeadline m p w).mem = m.mem := by simp [doFwDeadline]

@[simp] theorem doFwFree_mem (m : Mach) (p w bi : Nat) : (doFwFree m p w bi).mem = m.mem := by
  unfold doFwFree
  dsimp only
  split
  · simp
  · split <;> simp

@[simp] theorem Mach.dropDma_mem (m : Mach) (core : Nat) (guest : Bool) (i : Nat) : (m.dropDma core guest i).mem = m.mem := rfl

theorem Memory.wf_doDmaComplete {m : Mach} (h : Memory.wf m) (core n : Nat) : Memory.wf (doDmaComplete m core n) := by
  unfold doDmaComplete
  dsimp only
  split
  · split
    · exact h
    · exact h
    · split
      · exact h
      · refine Memory.wf_settle ?_ _
        split <;> simp [Memory.wf, Memory.wf_wrAll, h]
  · exact h

theorem Memory.wf_doDmaEcc {m : Mach} (h : Memory.wf m) (core n unit : Nat) : Memory.wf (doDmaEcc m core n unit) := by
  unfold doDmaEcc
  dsimp only
  split
  · split
    · exact h
    · split <;> simp [Memory.wf, Memory.wf_wrAll, h]
  · exact h

end Sys2Proof.Machine
end

section
/-! SUPPORT. Proofs: what posts, reductions, remote words, links and the array leave of the memory. -/

namespace Sys2Proof.Machine

/-! ## Messages and credits -/

@[simp] theorem Mach.setLrt_mem (m : Mach) (l : Nat) (r : LinkRt) : (m.setLrt l r).mem = m.mem := rfl
@[simp] theorem Mach.setLinkState_mem (m : Mach) (l st : Nat) : (m.setLinkState l st).mem = m.mem := rfl

@[simp] theorem Mach.pump_mem (m : Mach) (l fuel : Nat) : (m.pump l fuel).mem = m.mem := by
  induction fuel generalizing m with
  | zero => rfl
  | succ fuel ih =>
    unfold Mach.pump
    split
    · rfl
    · split <;> simp [ih]

@[simp] theorem Mach.pumpLink_mem (m : Mach) (l : Nat) : (m.pumpLink l).mem = m.mem := by simp [Mach.pumpLink]

@[simp] theorem Mach.sendMsg_mem (m : Mach) (x : Msg) : (m.sendMsg x).2.2.mem = m.mem := by
  unfold Mach.sendMsg
  dsimp only
  split
  · simp
  · simp
  · split <;> simp

@[simp] theorem Mach.sendOrLose_mem (m : Mach) (x : Msg) : (m.sendOrLose x).mem = m.mem := by simp [Mach.sendOrLose]

@[simp] theorem Mach.sendAll_mem (m : Mach) (ms : List Msg) : (m.sendAll ms).2.2.mem = m.mem := by
  induction ms generalizing m with
  | nil => rfl
  | cons x t ih =>
    unfold Mach.sendAll
    have hx := m.sendMsg_mem x
    split
    next l m' hs =>
      rw [hs] at hx
      exact (ih m').trans hx
    next hs =>
      rw [hs] at hx
      exact hx

@[simp] theorem Mach.computePv_mem (m : Mach) (p : Nat) : (m.computePv p).mem = m.mem := rfl
@[simp] theorem Mach.newMid_mem (m : Mach) : m.newMid.2.mem = m.mem := rfl

/-! ## Reduction buffers -/

@[simp] theorem Mach.setRb_mem (m : Mach) (p id : Nat) (b : RBuf) : (m.setRb p id b).mem = m.mem := rfl
@[simp] theorem Mach.engineFault_mem (m : Mach) (p id tile code : Nat) : (m.engineFault p id tile code).mem = m.mem := by simp [Mach.engineFault]

theorem Memory.wf_rbLand {m : Mach} (h : Memory.wf m) (p id c off : Nat) (bs : List Byte) : Memory.wf (m.rbLand p id c off bs) := by
  unfold Mach.rbLand
  split
  · split
    · exact h
    · simp [Memory.wf, Mem.wf_write, h]
  · exact h

@[simp] theorem Mach.rbufStarve_mem (m : Mach) (p id core : Nat) : (m.rbufStarve p id core).mem = m.mem := by
  unfold Mach.rbufStarve
  split
  · split <;> simp
  · simp

theorem Memory.wf_rbufRow {m : Mach} (h : Memory.wf m) (p id core row : Nat) (els : List Byte) : Memory.wf (m.rbufRow p id core row els) := by
  unfold Mach.rbufRow
  dsimp only
  split
  · split
    · simp [Memory.wf, Memory.wf_rbLand, h]
    · exact h
  · exact h

theorem Memory.wf_rbWhole {m : Mach} (h : Memory.wf m) (p id c : Nat) (bs : List Byte) : Memory.wf (m.rbWhole p id c bs) := by
  unfold Mach.rbWhole
  split
  · simp [Memory.wf, Memory.wf_rbLand, h]
  · exact h

theorem Mach.useCredit_mem {m m' : Mach} {p peer fbuf unit : Nat} (hs : m.useCredit p peer fbuf unit = some m') : m'.mem = m.mem := by
  unfold Mach.useCredit at hs
  split at hs
  · cases hs
  · split at hs
    · cases hs; rfl
    · split at hs <;> cases hs
      rfl

@[simp] theorem Mach.rbFree_mem (m : Mach) (p id t : Nat) : (m.rbFree p id t).mem = m.mem := by
  unfold Mach.rbFree
  split <;> simp

@[simp] theorem Mach.fwdWaits_mem (m : Mach) (p id : Nat) (b : RBuf) (f : FwdTile) (rest : List FwdTile) :
    (m.fwdWaits p id b f rest).mem = m.mem := by
  simp [Mach.fwdWaits]

theorem Memory.wf_fwdLocal {m next wait : Mach} (hn : Memory.wf next) (hw : Memory.wf wait) (p id tgt : Nat) (data : List Byte) :
    Memory.wf (m.fwdLocal next p id tgt wait data).2 := by
  unfold Mach.fwdLocal
  split
  · split
    · split
      · exact Memory.wf_rbWhole hn _ _ _ _
      · exact hw
    · exact hn
  · exact hn

theorem Memory.wf_fwdFar {m next wait lost : Mach} (hn : Memory.wf next) (hw : Memory.wf wait) (hl : Memory.wf lost) (p id peer tgt t : Nat)
    (data : List Byte) : Memory.wf (m.fwdFar next p id peer tgt t wait lost data).2 := by
  unfold Mach.fwdFar
  dsimp only
  split
  next used pr hused hpr =>
    split
    next l m2 hsent =>
      have sent : m2.mem = next.mem := by
        have := Mach.sendAll_mem used.newMid.2
        grind [Mach.useCredit_mem, Mach.sendAll_mem, Mach.newMid_mem]
      dsimp only
      split <;> exact Memory.wf_of_mem (by simp [sent]) hn
    next => exact Memory.wf_of_mem (by simp) hl
  next => exact hw

theorem Memory.wf_fwdStep {m : Mach} (h : Memory.wf m) (p id : Nat) : Memory.wf (m.fwdStep p id).2 := by
  unfold Mach.fwdStep
  dsimp only
  split
  · split
    · exact h
    · split
      · split
        · exact h
        · simp [Memory.wf, h]
      · split
        · exact h
        · split
          · simp [Memory.wf, h]
          · split
            · grind [Memory.wf_fwdLocal, Mach.setRb_mem, Mach.fwdWaits_mem]
            · grind [Memory.wf_fwdFar, Mach.setRb_mem, Mach.fwdWaits_mem]
  · exact h

theorem Memory.wf_fwdPump {m : Mach} (h : Memory.wf m) (p fuel : Nat) : Memory.wf (m.fwdPump p fuel) := by
  induction fuel generalizing m with
  | zero => exact h
  | succ fuel ih =>
    unfold Mach.fwdPump
    split
    next m' hm' =>
      obtain ⟨id, -, hid⟩ := List.exists_of_findSome?_eq_some hm'
      refine ih ?_
      dsimp only at hid
      split at hid <;> cases hid
      exact Memory.wf_fwdStep h p id
    next => exact Memory.wf_foldl (fun a id ha => Memory.wf_fwdStep ha p id) _ h

theorem Memory.wf_fwdAll {m : Mach} (h : Memory.wf m) (p : Nat) : Memory.wf (m.fwdAll p) := by
  unfold Mach.fwdAll
  exact Memory.wf_fwdPump h _ _

@[simp] theorem Mach.grantMsg_mem (m : Mach) (p id : Nat) (con : List Byte) (n : Nat) : (m.grantMsg p id con n).mem = m.mem := by
  unfold Mach.grantMsg
  split <;> simp

@[simp] theorem Mach.creditBack_mem (m : Mach) (p id c : Nat) (con : List Byte) : (m.creditBack p id c con).mem = m.mem := by
  unfold Mach.creditBack
  split <;> simp

@[simp] theorem Mach.signalUmk_mem (m : Mach) (p : Nat) (r e : List Byte) : (m.signalUmk p r e).mem = m.mem := by simp [Mach.signalUmk]

theorem Memory.wf_tileReduced {m : Mach} (h : Memory.wf m) (p id t slot : Nat) (r : List Byte) : Memory.wf (m.tileReduced p id t slot r) := by
  unfold Mach.tileReduced
  dsimp only
  split
  · simp [Memory.wf, Mem.wf_write, h]
  · split
    · split
      · simp [Memory.wf, Memory.wf_fwdAll, h]
      · simp [Memory.wf, h]
    · simp [Memory.wf, h]

theorem Memory.wf_doContributionAdd {m : Mach} (h : Memory.wf m) (p id t : Nat) : Memory.wf (doContributionAdd m p id t) := by
  unfold doContributionAdd
  split
  next b r hb hr =>
    extract_lets +onlyGivenNames round e slow cur
    split
    · exact h
    · extract_lets +onlyGivenNames con j
      split
      · exact h
      · extract_lets +onlyGivenNames ready
        split
        · exact h
        · split
          · split
            · exact h
            · exact Memory.wf_of_mem rfl h
          · extract_lets +onlyGivenNames sk dk
            split
            · exact Memory.wf_of_mem (by simp) h
            · extract_lets +onlyGivenNames added full sum ts b' m₁ m₂
              have h₁ : Memory.wf m₁ := Memory.wf_of_mem (by simp [m₁]) (Memory.wf_wr h dk (packElems 32 sum.1))
              have h₂ : Memory.wf m₂ := by
                simp only [m₂]
                split
                · exact Memory.wf_tileReduced h₁ _ _ _ _ _
                · exact h₁
              exact Memory.wf_fwdAll h₂ _
  next => exact h

/-! ## Remote words -/

@[simp] theorem Mach.rdmaLost_mem (m : Mach) (p core pc peer code : Nat) : (m.rdmaLost p core pc peer code).mem = m.mem := by simp [Mach.rdmaLost]
@[simp] theorem Mach.dropRemote_mem (m : Mach) (core mid : Nat) : (m.dropRemote core mid).mem = m.mem := rfl

@[simp] theorem Mach.raddStep_mem (m : Mach) (p i : Nat) : (m.raddStep p i).2.mem = m.mem := by
  unfold Mach.raddStep
  dsimp only
  split
  · simp
  · split
    · simp
    · split
      · simp
      · split
        · split <;> simp
        · split
          · split
            · split <;> grind [Mach.modCtx_mem, Mach.modPart_mem, Mach.useCredit_mem, Mach.sendAll_mem]
            · split <;> grind [Mach.modPart_mem, Mach.useCredit_mem, Mach.sendAll_mem]
          · split <;> simp

@[simp] theorem Mach.raddPump_mem (m : Mach) (p fuel : Nat) : (m.raddPump p fuel).mem = m.mem := by
  induction fuel generalizing m with
  | zero => rfl
  | succ fuel ih =>
    unfold Mach.raddPump
    split
    next m' hm' =>
      obtain ⟨i, -, hi⟩ := List.exists_of_findSome?_eq_some hm'
      dsimp only at hi
      split at hi <;> cases hi
      rw [ih, Mach.raddStep_mem]
    next => exact Mach.foldl_mem (fun a i => a.raddStep_mem p i) _ _

@[simp] theorem Mach.raddAll_mem (m : Mach) (p : Nat) : (m.raddAll p).mem = m.mem := by simp [Mach.raddAll]

@[simp] theorem doRdma_mem (m : Mach) (x : Wx) : (doRdma m x).mem = m.mem := by
  unfold doRdma
  dsimp only
  grind [Mach.touch_mem, Mach.rdmaLost_mem, Mach.sendAll_mem, Mach.newMid_mem, Mach.launch_mem, Mach.raddAll_mem, Mach.modPart_mem]

@[simp] theorem Mach.taken_mem (m : Mach) (l : Nat) (x : Msg) : (m.taken l x).mem = m.mem := by
  unfold Mach.taken
  dsimp only
  split
  · simp
  · split <;> simp

@[simp] theorem Mach.respond_mem (m : Mach) (x : Msg) (code : Nat) : (m.respond x code).mem = m.mem := by simp [Mach.respond]
@[simp] theorem Mach.refuse_mem (m : Mach) (x : Msg) (code : Nat) : (m.refuse x code).mem = m.mem := by simp [Mach.refuse]
@[simp] theorem Mach.discard_mem (m : Mach) (x : Msg) : (m.discard x).mem = m.mem := by simp [Mach.discard]

@[simp] theorem onMsg_mem {m : Mach} {l : Nat} {x : Msg} {sel : Bool} {f : Mach → Mach} (hf : (f m).mem = m.mem) :
    (onMsg m l x sel f).mem = m.mem := by
  simp [onMsg, hf]

theorem Memory.wf_onMsg {m : Mach} (h : Memory.wf m) {l : Nat} {x : Msg} {sel : Bool} {f : Mach → Mach} (hf : Memory.wf (f m)) :
    Memory.wf (onMsg m l x sel f) := by
  unfold onMsg
  split
  · exact h
  · split
    · exact Memory.wf_of_mem (by simp) h
    · exact hf

@[simp] theorem Mach.farSignal_mem (m : Mach) (p agg mk n : Nat) : (m.farSignal p agg mk n).mem = m.mem := by simp [Mach.farSignal]

theorem Memory.wf_landPacket {m : Mach} (h : Memory.wf m) (p : Nat) (k : Pricking) (x : Msg) : Memory.wf (m.landPacket p k x) := by
  unfold Mach.landPacket
  dsimp only
  split
  · split
    · refine Memory.wf_put ?_ _ _
      exact h
    · exact h
  · split
    · split
      · split <;> simp [Memory.wf, Memory.wf_rbLand, h]
      · exact h
    · exact h

theorem Memory.wf_cutFlow {m : Mach} (h : Memory.wf m) (p : Nat) (f : Flow) : Memory.wf (m.cutFlow p f) := by
  unfold Mach.cutFlow
  dsimp only
  split
  · exact Memory.wf_of_mem rfl h
  · refine Memory.wf_wr ?_ _ _
    exact Memory.wf_of_mem rfl h

theorem Memory.wf_cutOlder {m : Mach} (h : Memory.wf m) (p : Nat) (x : Msg) : Memory.wf (m.cutOlder p x) := by
  unfold Mach.cutOlder
  exact Memory.wf_foldl (fun a x ha => (Memory.wf_cutFlow ha _ _)) _ h

theorem Memory.wf_applyPacket {m : Mach} (h : Memory.wf m) (l : Nat) (x : Msg) : Memory.wf (m.applyPacket l x) := by
  unfold Mach.applyPacket
  dsimp only
  split
  · simp [Memory.wf, h]
  · split
    · split
      · simp [Memory.wf, h]
      · split
        · split
          · exact Memory.wf_cutOlder h _ _
          · split <;> simp [Memory.wf, Memory.wf_landPacket, Memory.wf_cutOlder, h]
        · split
          · exact h
          · split <;> simp [Memory.wf, Memory.wf_landPacket, h]
    · split
      · simp [Memory.wf, h]
      · split
        · split
          · exact Memory.wf_cutOlder h _ _
          · split <;> simp [Memory.wf, Memory.wf_landPacket, Memory.wf_cutOlder, h]
        · split
          · exact h
          · split <;> simp [Memory.wf, Memory.wf_landPacket, h]

theorem Memory.wf_doRequest {m : Mach} (h : Memory.wf m) (l : Nat) (x : Msg) : Memory.wf (doRequest l x m) := by
  unfold doRequest
  dsimp only
  split
  · simp [Memory.wf, h]
  · split
    · simp [Memory.wf, h]
    · split
      · split <;> simp [Memory.wf, h]
      · split
        · exact h
        · simp [Memory.wf, h]
      · split
        · split
          · exact h
          · simp [Memory.wf, Memory.wf_applyPacket, h]
        · simp [Memory.wf, h]

@[simp] theorem doSignalMsg_mem (l : Nat) (x : Msg) (m : Mach) : (doSignalMsg l x m).mem = m.mem := by
  unfold doSignalMsg
  split <;> simp

theorem Memory.wf_answerRemote {m : Mach} (h : Memory.wf m) (core : Nat) (e : DmaEntry) (mid code : Nat) :
    Memory.wf (m.answerRemote core e mid code) := by
  unfold Mach.answerRemote
  dsimp only
  split
  · split
    · simp [Memory.wf, Memory.wf_settle, h]
    · simp [Memory.wf, h]
  · exact h

theorem Memory.wf_doResp {m : Mach} (h : Memory.wf m) (l : Nat) (x : Msg) : Memory.wf (doResp l x m) := by
  unfold doResp
  dsimp only
  split
  · simp [Memory.wf, Memory.wf_answerRemote, h]
  · split
    · split
      · simp [Memory.wf, h]
      · split
        · simp [Memory.wf, h]
        · split
          · simp [Memory.wf, h]
          · simp [Memory.wf, Memory.wf_fwdAll, h]
    · split <;> simp [Memory.wf, h]

@[simp] theorem doResponseTimeout_mem (m : Mach) (core n : Nat) : (doResponseTimeout m core n).mem = m.mem := by
  unfold doResponseTimeout
  split
  · split <;> simp
  · simp

theorem Memory.wf_doCreditGrant {m : Mach} (h : Memory.wf m) (l : Nat) (x : Msg) : Memory.wf (doCreditGrant l x m) := by
  unfold doCreditGrant
  dsimp only
  split
  · split
    · simp [Memory.wf, Memory.wf_fwdAll, h]
    · simp [Memory.wf, h]
  · split
    · simp [Memory.wf, Memory.wf_fwdAll, h]
    · simp [Memory.wf, h]

@[simp] theorem doPing_mem (l : Nat) (x : Msg) (m : Mach) : (doPing l x m).mem = m.mem := by simp [doPing]

@[simp] theorem doForward_mem (m : Mach) (l : Nat) (x : Msg) : (doForward m l x).mem = m.mem := by
  unfold doForward
  dsimp only
  split
  · simp
  · split
    · simp
    · split
      · grind [Mach.addObj_mem, Mach.sendMsg_mem, Mach.taken_mem]
      · simp

/-! ## Links -/

@[simp] theorem Mach.failLink_mem (m : Mach) (l reason : Nat) : (m.failLink l reason).mem = m.mem := rfl
@[simp] theorem Mach.trainLink_mem (m : Mach) (l : Nat) : (m.trainLink l).mem = m.mem := rfl
@[simp] theorem Mach.retrainUp_mem (m : Mach) (l : Nat) : (m.retrainUp l).mem = m.mem := by simp [Mach.retrainUp]

@[simp] theorem Mach.stopMsg_mem (m : Mach) (x : Msg) : (m.stopMsg x).mem = m.mem := by
  unfold Mach.stopMsg
  split
  · simp
  · split
    · simp
    · split
      · split <;> simp
      · simp
      · simp

@[simp] theorem Mach.resumeLink_mem (m : Mach) (l : Nat) : (m.resumeLink l).mem = m.mem := by
  unfold Mach.resumeLink
  rw [Mach.foldl_mem (by simp), Mach.setLrt_mem, Mach.foldl_mem (by simp)]

@[simp] theorem Mach.finishTraining_mem (m : Mach) (l : Nat) (env : LinkEnv) : (m.finishTraining l env).mem = m.mem := by simp [Mach.finishTraining]
@[simp] theorem doLinkTrain_mem (m : Mach) (l : Nat) (env : LinkEnv) : (doLinkTrain m l env).mem = m.mem := by simp [doLinkTrain]
@[simp] theorem Mach.sendRetry_mem (m : Mach) (l : Nat) : (m.sendRetry l).mem = m.mem := rfl

@[simp] theorem doFlit_mem (m : Mach) (l : Nat) (f : List Byte) (fec : Option Nat) : (doFlit m l f fec).mem = m.mem := by
  unfold doFlit
  dsimp only
  split
  · simp
  · split
    · split <;> simp
    · split <;> split <;> simp

@[simp] theorem Mach.resend_mem (m : Mach) (l n : Nat) : (m.resend l n).mem = m.mem :=
  Mach.foldl_mem (fun _ _ => by simp) _ _

@[simp] theorem doRetry_mem (m : Mach) (l seq : Nat) : (doRetry m l seq).mem = m.mem := by simp [doRetry]
@[simp] theorem doRetryRepeat_mem (m : Mach) (l : Nat) : (doRetryRepeat m l).mem = m.mem := by simp [doRetryRepeat]

@[simp] theorem doHello_mem (m : Mach) (l lane : Nat) (h : Hello) : (doHello m l lane h).mem = m.mem := by
  unfold doHello
  dsimp only
  split
  · simp
  · split
    · split
      · simp
      · split
        · simp
        · split <;> simp
    · simp

@[simp] theorem doEchoReq_mem (m : Mach) (l probe : Nat) : (doEchoReq m l probe).mem = m.mem := by simp [doEchoReq]
@[simp] theorem doEchoRsp_mem (m : Mach) (l turn rtt : Nat) : (doEchoRsp m l turn rtt).mem = m.mem := by simp [doEchoRsp]
@[simp] theorem doLinkRetrain_mem (m : Mach) (l : Nat) : (doLinkRetrain m l).mem = m.mem := by simp [doLinkRetrain]
@[simp] theorem doRetrainTimeout_mem (m : Mach) (l : Nat) : (doRetrainTimeout m l).mem = m.mem := by simp [doRetrainTimeout]
@[simp] theorem Mach.enterLoop_mem (m : Mach) (l : Nat) (far ask : Bool) : (m.enterLoop l far ask).mem = m.mem := rfl
@[simp] theorem doLoopReq_mem (m : Mach) (l : Nat) (enter : Bool) : (doLoopReq m l enter).mem = m.mem := by simp [doLoopReq]
@[simp] theorem Mach.farRefused_mem (m : Mach) (l : Nat) : (m.farRefused l).mem = m.mem := by simp [Mach.farRefused]
@[simp] theorem doLoopAck_mem (m : Mach) (l : Nat) (ok : Bool) : (doLoopAck m l ok).mem = m.mem := by simp [doLoopAck]
@[simp] theorem doFarLoopTimeout_mem (m : Mach) (l : Nat) : (doFarLoopTimeout m l).mem = m.mem := by simp [doFarLoopTimeout]
@[simp] theorem Mach.writeLinkCtl_mem (m : Mach) (l v : Nat) : (m.writeLinkCtl l v).mem = m.mem := by simp [Mach.writeLinkCtl]

@[simp] theorem Mach.writeFabricAddress_mem (m : Mach) (v : Nat) : (m.writeFabricAddress v).mem = m.mem := by
  unfold Mach.writeFabricAddress
  split
  · rfl
  · exact Mach.foldl_mem (fun _ _ => by simp) _ _

/-! ## The array -/

@[simp] theorem doAx_mem (m : Mach) (x : Wx) : (doAx m x).mem = m.mem := rfl
@[simp] theorem doAr_mem (m : Mach) (x : Wx) : (doAr m x).mem = m.mem := rfl

@[simp] theorem doTileStart_mem (m : Mach) (core wait : Nat) : (doTileStart m core wait).mem = m.mem := by
  unfold doTileStart
  dsimp only
  split
  · simp
  · split
    · simp
    · split
      · simp
      · split <;> simp

@[simp] theorem Mach.arrayEcc_mem (m : Mach) (core : Nat) (o : ArOp) (b : Nat) : (m.arrayEcc core o b).mem = m.mem := by simp [Mach.arrayEcc]

theorem Memory.wf_endBatch {m : Mach} (h : Memory.wf m) (p core : Nat) (o : ArOp) : Memory.wf (m.endBatch p core o) := by
  unfold Mach.endBatch
  split
  · exact h
  · split
    · exact h
    · simp [Memory.wf, Mem.wf_write, h]

theorem Memory.wf_doTileComplete {m : Mach} (h : Memory.wf m) (core : Nat) : Memory.wf (doTileComplete m core) := by
  unfold doTileComplete
  dsimp only
  split
  · exact h
  · split
    · exact h
    · split
      · simp [Memory.wf, h]
      · simp [Memory.wf, Memory.wf_settle, Memory.wf_endBatch, h]

@[simp] theorem Mach.countDrain_mem (m : Mach) (p : Nat) (b : Bank) (d : Drain) : (m.countDrain p b d).mem = m.mem := by simp [Mach.countDrain]

theorem Memory.wf_doDrainRow {m : Mach} (h : Memory.wf m) (core : Nat) : Memory.wf (doDrainRow m core) := by
  unfold doDrainRow
  extract_lets +onlyGivenNames k
  split
  · exact h
  next d rest hd =>
    extract_lets +onlyGivenNames o p i ax bank vs key rs
    split
    extract_lets +onlyGivenNames idx src next lastTile done
    have hdone : ∀ a, Memory.wf a → Memory.wf (done a) := fun a ha => by
      simp only [done]
      refine Memory.wf_settle ?_ _
      have hs : Memory.wf (match o.batch.bind fun b => b.rows[i]? with
          | some r => if d.tile + 1 = o.t then a.signal (core / 256) r.marker 1 else a
          | none => a) := by
        split
        · exact Memory.wf_of_mem (by simp) ha
        · exact ha
      split
      · exact Memory.wf_endBatch hs _ _ _
      · exact hs
    split
    · exact hdone _ h
    · split
      · split
        · exact Memory.wf_of_mem (by simp) h
        · exact hdone _ (Memory.wf_rbufRow (Memory.wf_of_mem (by simp) h) _ _ _ _ _)
      · extract_lets +onlyGivenNames ws
        split
        · exact Memory.wf_of_mem (by simp) h
        · exact hdone _ (by simp [Memory.wf, Memory.wf_wrAll, h])

@[simp] theorem doArrayEcc_mem (m : Mach) (core half : Nat) : (doArrayEcc m core half).mem = m.mem := by
  unfold doArrayEcc
  dsimp only
  split <;> simp

@[simp] theorem doArrayParity_mem (m : Mach) (core : Nat) : (doArrayParity m core).mem = m.mem := by
  unfold doArrayParity
  dsimp only
  split <;> simp

@[simp] theorem doRampDown_mem (m : Mach) (core : Nat) : (doRampDown m core).mem = m.mem := by simp [doRampDown]

@[simp] theorem doRampStep_mem (m : Mach) (core : Nat) : (doRampStep m core).mem = m.mem := by
  unfold doRampStep
  dsimp only
  split <;> simp

@[simp] theorem doRampUp_mem (m : Mach) (core late : Nat) : (doRampUp m core late).mem = m.mem := by
  unfold doRampUp
  dsimp only
  split
  · simp
  · split
    · simp
    · split <;> simp

end Sys2Proof.Machine
end

section
/-! SUPPORT. Proofs: what the key-value cache, markers, training and the loader leave of the memory. -/

namespace Sys2Proof.Machine

/-! ## The key-value cache -/

@[simp] theorem doPtld_mem (m : Mach) (x : Wx) : (doPtld m x).mem = m.mem := rfl

theorem Memory.wf_take {m : Mach} (h : Memory.wf m) (c : CacheAt) (s g : Nat) (refill : Bool) (bq : Nat × Nat) :
    Memory.wf (c.take m s g refill bq) := by
  unfold CacheAt.take
  dsimp only
  exact Memory.wf_wrNat (Memory.wf_wrNat (Memory.wf_wrNat (Memory.wf_wrNat h _ _ _) _ _ _) _ _ _) _ _ _

theorem Memory.wf_freeAt {m : Mach} (h : Memory.wf m) (c : CacheAt) (e : Nat) : Memory.wf (c.freeAt m e) := by
  unfold CacheAt.freeAt
  dsimp only
  exact Memory.wf_wrNat (Memory.wf_wrNat h _ _ _) _ _ _

theorem Memory.wf_dropPage {m : Mach} (h : Memory.wf m) (c : CacheAt) (v g : Nat) : Memory.wf (c.dropPage m v g) := by
  unfold CacheAt.dropPage
  dsimp only
  exact Memory.wf_setFlag (Memory.wf_wrNat (Memory.wf_wrNat (Memory.wf_freeAt (Memory.wf_wrNat h _ _ _) _ _) _ _ _) _ _ _) _ _ _ _

@[simp] theorem Mach.setCache_mem (m : Mach) (p cix : Nat) (s : CacheSt) : (m.setCache p cix s).mem = m.mem := rfl

theorem Memory.wf_dropFrom {m : Mach} (h : Memory.wf m) (c : CacheAt) (p v : Nat) : Memory.wf (c.dropFrom m p v) := by
  unfold CacheAt.dropFrom
  dsimp only
  split
  · exact Memory.wf_foldl (fun a x ha => (Memory.wf_dropPage ha _ _ _)) _ h
  · split
    · simp [Memory.wf, Memory.wf_dropPage, h]
    · exact h

theorem Memory.wf_alloc {m : Mach} (h : Memory.wf m) (c : CacheAt) (p s g : Nat) (refill : Bool) : Memory.wf (c.alloc m p s g refill).2 := by
  unfold CacheAt.alloc
  dsimp only
  split
  · exact h
  · exact Memory.wf_take h _ _ _ _ _
  · split
    · exact h
    · exact h
    · split
      · exact h
      · split
        · exact Memory.wf_take (Memory.wf_dropFrom h _ _ _) _ _ _ _ _
        · exact Memory.wf_dropFrom h _ _ _

theorem Memory.wf_place {m : Mach} (h : Memory.wf m) (c : CacheAt) (p s : Nat) (refill : Bool) (gs : List Nat) :
    Memory.wf (c.place p s refill m gs).2 := by
  induction gs generalizing m with
  | nil => exact h
  | cons g t ih =>
    unfold CacheAt.place
    split
    · exact ih h
    · have ha := Memory.wf_alloc h c p s g refill
      split
      next m' hm' => exact ih (by rwa [hm'] at ha)
      next => exact ha

@[simp] theorem Mach.cacheFault_mem (m : Mach) (p pc code info : Nat) : (m.cacheFault p pc code info).mem = m.mem := by simp [Mach.cacheFault]

theorem Memory.wf_finish {m : Mach} (h : Memory.wf m) (c : CacheAt) (p n : Nat) (e : Entry) : Memory.wf (c.finish m p n e) := by
  unfold CacheAt.finish
  extract_lets +onlyGivenNames ws m₁ undropped left m₂ m₃
  have h₁ : Memory.wf m₁ := Memory.wf_wrAll (Memory.wf_of_mem (by simp) h) _
  have h₂ : Memory.wf m₂ := by
    simp only [m₂]
    split
    · exact Memory.wf_wrNat h₁ _ _ _
    · exact Memory.wf_setFlag (Memory.wf_wrNat (Memory.wf_foldl (fun a g ha => Memory.wf_wrNat ha _ _ _) _ h₁) _ _ _) _ _ _ _
  exact Memory.wf_of_mem (Mach.setCache_mem ..) (Memory.wf_wrNat h₂ _ _ _)

theorem Memory.wf_unstall {m : Mach} (h : Memory.wf m) (c : CacheAt) (p s : Nat) : Memory.wf (c.unstall m p s) := by
  unfold CacheAt.unstall
  dsimp only
  split
  · exact Memory.wf_of_mem rfl (Memory.wf_setFlag h _ _ _ _)
  · exact h

theorem Memory.wf_apply {m : Mach} (h : Memory.wf m) (c : CacheAt) (p n : Nat) (e : Entry) : Memory.wf (c.apply m p n e) := by
  unfold CacheAt.apply
  dsimp only
  split
  · split
    · exact h
    · refine Memory.wf_finish (Memory.wf_unstall ?_ _ _ _) _ _ _ _
      grind [Memory.wf_place]
  · split
    · grind [Mach.setCache_mem, Memory.wf_place]
    · grind [Mach.raise_mem, Mach.setObj_mem, Mach.setCache_mem, Memory.wf_setFlag, Memory.wf_unstall, Memory.wf_place]
  · grind [Mach.cacheFault_mem, Mach.lostRead_mem, Memory.wf_place]

theorem Memory.wf_doEntry {m : Mach} (h : Memory.wf m) (p cix : Nat) (refill : Bool) : Memory.wf (doEntry m p cix refill) := by
  fun_cases doEntry m p cix refill
  case case5 => exact Memory.wf_apply (Memory.wf_of_mem (m.touch_mem _) h) _ _ _ _
  all_goals exact Memory.wf_of_mem (by simp +zetaDelta) h

theorem Memory.wf_doStallRetry {m : Mach} (h : Memory.wf m) (p cix : Nat) : Memory.wf (doStallRetry m p cix) := by
  unfold doStallRetry
  dsimp only
  split
  · split
    · exact Memory.wf_apply h _ _ _ _
    · exact h
  · exact h

@[simp] theorem doAppendRound_mem (m : Mach) (p cix : Nat) : (doAppendRound m p cix).mem = m.mem := by
  fun_cases doAppendRound m p cix
  case case6 c _ _ _ _ _ m₁ _ _ _ =>
    have h₁ : m₁ = m.touch [(c.listKey, 64)] := rfl
    rw [Mach.setCache_mem, h₁, Mach.touch_mem]
  all_goals simp +zetaDelta

theorem Memory.wf_release {m : Mach} (h : Memory.wf m) (c : CacheAt) (s : Nat) : Memory.wf (c.release m s) :=
  Memory.wf_foldl (fun _ e ha => Memory.wf_freeAt ha c e) _ (Memory.wf_wipe (Memory.wf_wipe h _ _) _ _)

theorem Memory.wf_cacheCommand {m : Mach} (h : Memory.wf m) (p v : Nat) : Memory.wf (m.cacheCommand p v) := by
  unfold Mach.cacheCommand
  dsimp only
  split
  · exact Memory.wf_of_mem rfl h
  · split
    · exact Memory.wf_of_mem rfl h
    · split
      · exact Memory.wf_of_mem rfl h
      · split
        · exact Memory.wf_of_mem rfl h
        · split
          · exact Memory.wf_of_mem rfl h
          · split
            · simp [Memory.wf, Memory.wf_release, h]
            · exact Memory.wf_of_mem rfl (Memory.wf_setFlag (Memory.wf_of_mem rfl h) _ _ _ _)

theorem Memory.wf_bindLengths {m : Mach} (h : Memory.wf m) (p : Nat) : Memory.wf (m.bindLengths p).2 := by
  unfold Mach.bindLengths
  dsimp only
  split
  · exact h
  · split
    · exact h
    · split
      · exact h
      · simp [Memory.wf, Memory.wf_pinSeqs, h]

/-! ## Markers -/

@[simp] theorem doMsig_mem (m : Mach) (x : Wx) : (doMsig m x).mem = m.mem := by
  unfold doMsig
  dsimp only
  split
  · split <;> simp
  · simp

@[simp] theorem doMwait_mem (m : Mach) (x : Wx) : (doMwait m x).mem = m.mem := rfl
@[simp] theorem doMrst_mem (m : Mach) (x : Wx) : (doMrst m x).mem = m.mem := rfl

@[simp] theorem Mach.wake_mem (m : Mach) (w : Wait) : (m.wake w).mem = m.mem := by
  unfold Mach.wake
  dsimp only
  split <;> simp

@[simp] theorem Mach.saturate_mem (m : Mach) (p k : Nat) : (m.saturate p k).mem = m.mem := by simp [Mach.saturate]

@[simp] theorem Mach.applyIc_mem (m : Mach) (p g : Nat) (xs : List MkMsg) : (m.applyIc p g xs).mem = m.mem := by
  unfold Mach.applyIc
  dsimp only
  exact Mach.foldl_mem (fun _ _ => by simp) _ _

@[simp] theorem doMarkerUpdate_mem (m : Mach) (g n : Nat) : (doMarkerUpdate m g n).mem = m.mem := by
  unfold doMarkerUpdate
  dsimp only
  simp [Mach.foldl_mem]

@[simp] theorem doWaitTimeout_mem (m : Mach) (core : Nat) : (doWaitTimeout m core).mem = m.mem := by
  unfold doWaitTimeout
  dsimp only
  split
  · simp
  · split <;> simp

/-! ## Training tiles -/

@[simp] theorem Mach.setRecipe_mem (m : Mach) (p rid : Nat) (s : RecipeSt) : (m.setRecipe p rid s).mem = m.mem := rfl

@[simp] theorem Mach.eachRecipe_mem (m : Mach) (p : Nat) (f : List Byte → RecipeSt → RecipeSt) : (m.eachRecipe p f).mem = m.mem := by
  unfold Mach.eachRecipe
  split
  · simp
  · exact Mach.foldl_mem (fun _ _ => by simp) _ _

theorem Memory.wf_doStateRead {m : Mach} (h : Memory.wf m) (p id t : Nat) : Memory.wf (doStateRead m p id t) := by
  unfold doStateRead
  dsimp only
  split
  · split
    · exact h
    · split
      · exact h
      · split
        · exact h
        · split
          · simp [Memory.wf, h]
          · simp [Memory.wf, Mem.wf_write, h]
  · exact h

@[simp] theorem doSweepStart_mem (m : Mach) (p : Nat) : (doSweepStart m p).mem = m.mem := by
  unfold doSweepStart
  split <;> simp

theorem Memory.wf_doTileUpdate {m : Mach} (h : Memory.wf m) (p id t : Nat) : Memory.wf (doTileUpdate m p id t) := by
  unfold doTileUpdate
  split
  next b k hb hk =>
    split
    next r ts hr hts =>
      extract_lets +onlyGivenNames e turn
      split
      · exact h
      · split
        · exact h
        · extract_lets +onlyGivenNames gk sb sk n
          clear_value sk
          split
          · exact Memory.wf_of_mem (by simp) h
          · extract_lets +onlyGivenNames rs gs ws ms vs new wv image round m₁ m₂ m₃ m₄ m₅ m₆
            have h₂ : Memory.wf m₂ := Memory.wf_of_mem (by simp [m₂, m₁]) (Memory.wf_wr h sk image)
            have h₃ : Memory.wf m₃ := by
              simp only [m₃]
              split
              · exact h₂
              · simp [Memory.wf, Mem.wf_write, h₂]
            have h₅ : Memory.wf m₅ := Memory.wf_of_mem (by simp [m₅, m₄]) h₃
            have h₆ : Memory.wf m₆ := by
              simp only [m₆]
              split
              · exact Memory.wf_put h₅ _ _
              · exact h₅
            exact Memory.wf_of_mem rfl h₆
    next => exact h
  next => exact h

@[simp] theorem Mach.closeRound_mem (m : Mach) (p : Nat) : (m.closeRound p).mem = m.mem := by
  unfold Mach.closeRound
  split <;> simp

theorem Memory.wf_formatCommand {m : Mach} (h : Memory.wf m) (p v : Nat) : Memory.wf (m.formatCommand p v) := by
  unfold Mach.formatCommand
  dsimp only
  split
  · exact Memory.wf_of_mem rfl h
  · split
    · exact Memory.wf_of_mem rfl h
    · split
      · exact Memory.wf_of_mem rfl h
      · split
        · exact Memory.wf_of_mem rfl h
        · exact Memory.wf_of_mem rfl (Memory.wf_foldl (fun a x ha => (Memory.wf_wrNat ha _ _ _)) _ (Memory.wf_of_mem rfl h))

/-! ## Loading a pricking -/

theorem Memory.wf_fillBufs {m : Mach} (h : Memory.wf m) (p : Nat) (guest : Bool) (k : Pricking) (b : List Byte) (kinds : List Nat) :
    Memory.wf (m.fillBufs p guest k b kinds) := by
  unfold Mach.fillBufs
  refine Memory.wf_foldl (fun a x ha => ?_) _ h
  split
  · refine Memory.wf_put ?_ _ _
    refine Memory.wf_wipe ?_ _ _
    exact ha
  · exact ha

theorem Memory.wf_spoilBufs {m : Mach} (h : Memory.wf m) (p : Nat) (guest : Bool) (k : Pricking) : Memory.wf (m.spoilBufs p guest k) := by
  unfold Mach.spoilBufs
  dsimp only
  refine Memory.wf_of_mem rfl (Memory.wf_foldl (fun a x ha => ?_) _ h)
  split
  · refine Memory.wf_wr ?_ _ _
    exact Memory.wf_of_mem rfl ha
  · exact ha

theorem Memory.wf_fillTables {m : Mach} (h : Memory.wf m) (p : Nat) (k : Pricking) (b : List Byte) : Memory.wf (m.fillTables p k b) :=
  Memory.wf_foldl (fun _ _ ha => Memory.wf_foldl (fun _ _ hc => Memory.wf_wr hc _ _) _ (Memory.wf_wr (Memory.wf_free ha _) _ _)) _ h

theorem Memory.wf_fillCores {m : Mach} (h : Memory.wf m) (p : Nat) (guest : Bool) (k : Pricking) (b : List Byte) :
    Memory.wf (m.fillCores p guest k b) :=
  Memory.wf_foldl (fun _ _ ha => Memory.wf_wr ha _ _) _ (Memory.wf_foldl (fun _ _ ha => Memory.wf_foldl (fun _ _ hc => Memory.wf_wr hc _ _) _ ha) _ h)

@[simp] theorem Mach.freshWins_mem (m : Mach) (p : Nat) : (m.freshWins p).mem = m.mem :=
  Mach.foldl_mem (fun _ _ => by simp) _ _

theorem Memory.wf_install {m : Mach} (h : Memory.wf m) (p : Nat) (guest : Bool) (b : List Byte) (addr region : Nat) :
    Memory.wf (m.install p guest b addr region) := by
  unfold Mach.install
  extract_lets +onlyGivenNames k m₁ m₂ m₃ m₄ ver
  have h₁ : Memory.wf m₁ := Memory.wf_of_mem (Mach.modPart_mem ..) h
  have h₂ : Memory.wf m₂ := Memory.wf_fillBufs (Memory.wf_fillBufs h₁ _ _ _ _ _) _ _ _ _ _
  have h₃ : Memory.wf m₃ := Memory.wf_ite h₂ (Memory.wf_fillTables h₂ _ _ _)
  have h₄ : Memory.wf m₄ := Memory.wf_of_mem (Mach.computePv_mem ..) (Memory.wf_fillCores h₃ _ _ _ _)
  split <;> exact Memory.wf_of_mem (by simp) h₄

theorem Memory.wf_runLoad {m : Mach} (h : Memory.wf m) (p : Nat) (guest hw : Bool) (addr report region : Nat) :
    Memory.wf (m.runLoad p guest hw addr report region).2 := by
  unfold Mach.runLoad
  dsimp only
  split
  · simp [Memory.wf, Memory.wf_install, Mem.wf_write, h]
  · split
    · split
      · simp [Memory.wf, Memory.wf_spoilBufs, Mem.wf_write, h]
      · simp [Memory.wf, Mem.wf_write, h]
    · simp [Memory.wf, Mem.wf_write, h]

@[simp] theorem Mach.unloadResident_mem (m : Mach) (p : Nat) : (m.unloadResident p).mem = m.mem := by simp [Mach.unloadResident]
@[simp] theorem Mach.unloadGuest_mem (m : Mach) (p : Nat) : (m.unloadGuest p).mem = m.mem := rfl

end Sys2Proof.Machine
end

section
/-! SUPPORT. Proofs: what media, census and input leave of the memory. -/

namespace Sys2Proof.Machine

/-! ## Media -/

theorem Memory.wf_scribble {m : Mach} (h : Memory.wf m) (a n : Nat) : Memory.wf (m.scribble a n) := Mem.wf_write h a _
@[simp] theorem Mach.setMed_mem (m : Mach) (e : Nat) (x : MedEng) : (m.setMed e x).mem = m.mem := rfl

@[simp] theorem Mach.medDone_mem (m : Mach) (e : Nat) (o : MedOut) : (m.medDone e o).mem = m.mem := by
  unfold Mach.medDone
  dsimp only
  split <;> simp

theorem Memory.wf_medWrite {m : Mach} (h : Memory.wf m) (base size : Nat) (bs : List Byte) : Memory.wf (m.medWrite base size bs).2 := by
  unfold Mach.medWrite
  simp [Memory.wf, Mem.wf_write, h]

theorem Memory.wf_medFinish {m : Mach} (h : Memory.wf m) (e : Nat) (b out map : List Byte) (o : MedOut) : Memory.wf (m.medFinish e b out map o) := by
  unfold Mach.medFinish
  have h₁ := Memory.wf_medWrite h (mcDbase b) (mcDsize b) out
  split
  next s1 m1 hw =>
    rw [hw] at h₁
    have h₂ : Memory.wf (if mcEbase b = 0 then (0, m1) else m1.medWrite (mcEbase b) (mcEsize b) map).2 := by
      split
      · exact h₁
      · exact Memory.wf_medWrite h₁ _ _ _
    exact Memory.wf_of_mem (Mach.medDone_mem ..) h₂

@[simp] theorem Mach.medClose_mem (m : Mach) (k : Nat) : (m.medClose k).mem = m.mem := rfl

theorem Memory.wf_medHw {m : Mach} (h : Memory.wf m) (p e : Nat) (b : List Byte) (engine : Bool) : Memory.wf (m.medHw p e b engine) := by
  unfold Mach.medHw
  dsimp only
  split <;> simp [Memory.wf, Memory.wf_medFinish, h]

@[simp] theorem Mach.modStr_mem (m : Mach) (k : Nat) (f : MedStr → MedStr) : (m.modStr k f).mem = m.mem := by
  unfold Mach.modStr
  split <;> simp

@[simp] theorem Mach.medCut_mem (m : Mach) (wd : Bool) : (m.medCut wd).2.mem = m.mem := by
  unfold Mach.medCut
  split <;> simp

theorem Memory.wf_vdPicture {m : Mach} (h : Memory.wf m) (e : Nat) (b : List Byte) (s : MedStr) (wd : Bool) : Memory.wf (m.vdPicture e b s wd) := by
  unfold Mach.vdPicture
  dsimp only
  split <;> simp [Memory.wf, Memory.wf_medFinish, Memory.wf_scribble, h]

theorem Memory.wf_vePicture {m : Mach} (h : Memory.wf m) (e : Nat) (b : List Byte) (s : MedStr) : Memory.wf (m.vePicture e b s) := by
  unfold Mach.vePicture
  dsimp only
  simp [Memory.wf, Memory.wf_medFinish, Memory.wf_scribble, h]

theorem Memory.wf_jpegFile {m : Mach} (h : Memory.wf m) (e : Nat) (b : List Byte) (wd : Bool) : Memory.wf (m.jpegFile e b wd) := by
  unfold Mach.jpegFile
  dsimp only
  split <;> simp [Memory.wf, Memory.wf_medFinish, h]

theorem Memory.wf_auList {m : Mach} (h : Memory.wf m) (e : Nat) (b : List Byte) (s : MedStr) (wd : Bool) : Memory.wf (m.auList e b s wd) := by
  unfold Mach.auList
  dsimp only
  split <;> split <;> simp [Memory.wf, Memory.wf_medFinish, h]

theorem Memory.wf_voxelFile {m : Mach} (h : Memory.wf m) (e : Nat) (b : List Byte) : Memory.wf (m.voxelFile e b) := by
  unfold Mach.voxelFile
  dsimp only
  split
  · simp [Memory.wf, Memory.wf_medFinish, h]
  · exact Memory.wf_medFinish h _ _ _ _ _

@[simp] theorem Mach.medWork_mem (m : Mach) (e : Nat) (b : List Byte) : (m.medWork e b).mem = m.mem := by simp [Mach.medWork]

theorem Memory.wf_doMedia {m : Mach} (h : Memory.wf m) {f : Mach → Nat → List Byte → Mach} (hf : ∀ a p b, Memory.wf a → Memory.wf (f a p b))
    (e : Nat) (sel : Nat → Bool) (fault : Bool) : Memory.wf (doMedia m e sel fault f) := by
  unfold doMedia
  dsimp only
  split
  · exact h
  · split
    · exact h
    · split
      · exact Memory.wf_of_mem (by simp) h
      · split
        · exact Memory.wf_medHw (Memory.wf_of_mem (by simp) h) _ _ _ _
        · exact hf _ _ _ (Memory.wf_of_mem (by simp) h)

@[simp] theorem doOpen_mem (e : Nat) (m : Mach) (p : Nat) (b : List Byte) : (doOpen e m p b).mem = m.mem := by simp [doOpen]
@[simp] theorem doClose_mem (e : Nat) (m : Mach) (x : Nat) (b : List Byte) : (doClose e m x b).mem = m.mem := by simp [doClose]

theorem Memory.wf_doDecode {m : Mach} (h : Memory.wf m) (e : Nat) (wd : Bool) (x : Nat) (b : List Byte) : Memory.wf (doDecode e wd m x b) := by
  unfold doDecode
  split
  · exact h
  · split
    · exact Memory.wf_vdPicture h _ _ _ _
    · exact Memory.wf_auList h _ _ _ _

theorem Memory.wf_doEncode {m : Mach} (h : Memory.wf m) (e x : Nat) (b : List Byte) : Memory.wf (doEncode e m x b) := by
  unfold doEncode
  split
  · exact h
  · exact Memory.wf_vePicture h _ _ _

theorem Memory.wf_doWatchdog {m : Mach} (h : Memory.wf m) (e : Nat) : Memory.wf (doWatchdog m e) := by
  unfold doWatchdog
  dsimp only
  split
  · exact h
  · split
    · exact h
    · split
      · exact h
      · split
        · simp [Memory.wf, Memory.wf_medHw, h]
        · split
          · simp [Memory.wf, Memory.wf_jpegFile, h]
          · simp [Memory.wf, Memory.wf_doDecode, h]

@[simp] theorem Mach.jobCommandDone_mem (m : Mach) (client seq status : Nat) : (m.jobCommandDone client seq status).mem = m.mem := by
  unfold Mach.jobCommandDone
  dsimp only
  split
  · simp
  · split
    · simp
    · split <;> simp

theorem Memory.wf_medReport {m : Mach} (h : Memory.wf m) (e : Nat) (c : MedCmd) (record : List Byte) : Memory.wf (m.medReport e c record) := by
  unfold Mach.medReport
  dsimp only
  split
  · simp [Memory.wf, Mem.wf_write, h]
  · simp [Memory.wf, h]

theorem Memory.wf_medWithdraw {m : Mach} (h : Memory.wf m) (sel : MedCmd → Bool) : Memory.wf (m.medWithdraw sel) :=
  Memory.wf_foldl (fun _ _ ha => Memory.wf_foldl (fun _ _ hz => Memory.wf_medReport hz _ _ _) _ (Memory.wf_of_mem (Mach.setMed_mem ..) ha)) _ h

@[simp] theorem Mach.medCloseAll_mem (m : Mach) (p : Nat) : (m.medCloseAll p).mem = m.mem := rfl

@[simp] theorem doMedSchedule_mem (m : Mach) (e : Nat) : (doMedSchedule m e).mem = m.mem := by
  unfold doMedSchedule
  dsimp only
  split
  · simp
  · split
    · simp
    · split <;> simp

theorem Memory.wf_doMedComplete {m : Mach} (h : Memory.wf m) (e : Nat) : Memory.wf (doMedComplete m e) := by
  unfold doMedComplete
  dsimp only
  split
  · exact h
  · split
    · exact h
    · simp [Memory.wf, Memory.wf_medReport, h]

@[simp] theorem Mach.feedJob_mem (m : Mach) (client seq addr n fuel : Nat) : (m.feedJob client seq addr n fuel).mem = m.mem := by
  fun_induction Mach.feedJob m client seq addr n fuel
  case case5 ih => exact ih.trans (by simp +zetaDelta)
  all_goals rfl

/-! ## The census -/

@[simp] theorem Mach.censusClear_mem (m : Mach) (p t : Nat) : (m.censusClear p t).mem = m.mem := rfl
@[simp] theorem Mach.censusWipe_mem (m : Mach) (p : Nat) : (m.censusWipe p).mem = m.mem := rfl

theorem Memory.wf_censusCommand {m : Mach} (h : Memory.wf m) (p v : Nat) : Memory.wf (m.censusCommand p v) := by
  unfold Mach.censusCommand
  extract_lets +onlyGivenNames op a
  split
  · exact h
  · split
    · exact h
    · split
      · exact h
      · split
        · exact h
        · extract_lets +onlyGivenNames m₁ m₂
          have h₂ : Memory.wf m₂ := by
            simp only [m₂]
            split
            · exact h
            · exact Memory.wf_put (m := m₁) h _ _
          refine Memory.wf_of_mem (Mach.reply_mem ..) ?_
          split
          · exact h₂
          · exact Memory.wf_foldl (fun a t ha => Memory.wf_of_mem (a.censusClear_mem p t) ha) _ h₂

@[simp] theorem doCensusDone_mem (m : Mach) (p : Nat) : (doCensusDone m p).mem = m.mem := by simp [doCensusDone]
@[simp] theorem Mach.readSelected_mem (m : Mach) (p : Nat) : (m.readSelected p).mem = m.mem := by simp [Mach.readSelected]

/-! ## Input streams -/

theorem Memory.wf_logError {m : Mach} (h : Memory.wf m) (p : Nat) (b : List Byte) (x : InBuild) (j k : Nat) (e : Skip) :
    Memory.wf (m.logError p b x j k e).1 := by
  unfold Mach.logError
  dsimp only
  split
  · simp [Memory.wf, Mem.wf_write, h]
  · exact h

@[simp] theorem Mach.setCodec_mem (m : Mach) (k codec : Nat) : (m.setCodec k codec).mem = m.mem := by
  unfold Mach.setCodec
  split <;> simp

@[simp] theorem Mach.countMedia_mem (m : Mach) (x : InSample) : (m.countMedia x).mem = m.mem :=
  Mach.foldl_mem (fun _ _ => by simp) _ _

theorem Memory.wf_inDone {m : Mach} (h : Memory.wf m) (p : Nat) (c : InCmd) (record : List Byte) : Memory.wf (m.inDone p c record) := by
  unfold Mach.inDone
  dsimp only
  split
  · simp [Memory.wf, Mem.wf_write, h]
  · simp [Memory.wf, h]

@[simp] theorem Mach.setStream_mem (m : Mach) (p : Nat) (s : Option InStream) : (m.setStream p s).mem = m.mem := rfl

theorem Memory.wf_inStop {m : Mach} (h : Memory.wf m) (p st : Nat) : Memory.wf (m.inStop p st) := by
  unfold Mach.inStop
  dsimp only
  split
  · exact h
  · split
    · exact h
    · simp [Memory.wf, Memory.wf_inDone, h]

@[simp] theorem openVids_mem (m : Mach) (p : Nat) (ks : List (Nat × List Byte)) : (openVids m p ks).2.mem = m.mem := by
  induction ks generalizing m with
  | nil => rfl
  | cons e t ih =>
    unfold openVids
    dsimp only
    split
    · rfl
    · split
      · rfl
      · split
        · rfl
        · exact ih _

theorem Memory.wf_doInputOpen {m : Mach} (h : Memory.wf m) (p : Nat) : Memory.wf (doInputOpen m p) := by
  unfold doInputOpen
  dsimp only
  split
  · exact h
  · split
    · exact h
    · split
      · exact Memory.wf_inDone h _ _ _
      · split
        · simp [Memory.wf, Memory.wf_inDone, h]
        · split
          · refine Memory.wf_inDone ?_ _ _ _
            grind [openVids_mem]
          · refine Memory.wf_inDone (Memory.wf_put ?_ _ _) _ _ _
            grind [Mach.setObj_mem, Mach.setStream_mem, openVids_mem]

@[simp] theorem Mach.inClose_mem (m : Mach) (p : Nat) : (m.inClose p).mem = m.mem := by
  unfold Mach.inClose
  split
  · simp
  · exact Mach.foldl_mem (fun _ _ => by simp) _ _

theorem Memory.wf_doInputClose {m : Mach} (h : Memory.wf m) (p : Nat) : Memory.wf (doInputClose m p) := by
  unfold doInputClose
  split
  · exact h
  · split
    · exact h
    · split
      · exact Memory.wf_inDone h _ _ _
      · simp [Memory.wf, Memory.wf_inDone, h]

theorem Memory.wf_statLost {m : Mach} (h : Memory.wf m) (p : Nat) (st : InStream) : Memory.wf (m.statLost p st) := by
  unfold Mach.statLost
  dsimp only
  simp [Memory.wf, Memory.wf_inStop, h]

theorem Memory.wf_makeBatch {m : Mach} (h : Memory.wf m) (p : Nat) (st : InStream) (x : InBuild) : Memory.wf (m.makeBatch p st x) := by
  unfold Mach.makeBatch
  extract_lets +onlyGivenNames s b k n0 xs base
  split
  · extract_lets +onlyGivenNames lost m₀
    exact Memory.wf_inStop (Memory.wf_of_mem (by simp [m₀]) h) _ _
  · extract_lets +onlyGivenNames good m₀ m₁ m₂ r
    have h₁ : Memory.wf m₁ := by simp [m₁, m₀, Memory.wf, Memory.wf_wrAll, h]
    have h₂ : Memory.wf m₂ := Memory.wf_foldl (fun a y ha => by
      split
      · split
        · exact ha
        · exact Memory.wf_of_mem (by simp [Mach.foldl_mem]) ha
      · exact ha) _ h₁
    have hr : Memory.wf r.1 := by
      refine List.foldlRecOn (motive := fun a : Mach × InBuild => Memory.wf a.1) _ _ h₂ fun a ha y _ => ?_
      split
      · split
        · exact Memory.wf_logError ha _ _ _ _ _ _
        · exact ha
      · exact ha
    exact Memory.wf_of_mem rfl hr

theorem Memory.wf_doSubmit {m : Mach} (h : Memory.wf m) (p : Nat) : Memory.wf (doSubmit m p) := by
  unfold doSubmit
  split
  · exact h
  · split
    · exact h
    · split
      · exact Memory.wf_inDone h _ _ _
      · split
        · split
          · exact Memory.wf_inDone h _ _ _
          · exact Memory.wf_of_mem rfl h
        · split
          · exact h
          · split
            · exact Memory.wf_statLost h _ _
            · split
              · exact Memory.wf_makeBatch h _ _ _
              · exact Memory.wf_of_mem rfl h

theorem Memory.wf_doPoll {m : Mach} (h : Memory.wf m) (p : Nat) : Memory.wf (doPoll m p) := by
  unfold doPoll
  split
  · exact h
  · split
    · exact h
    · split
      · exact h
      · split
        · exact Memory.wf_statLost h _ _
        · split
          · exact Memory.wf_of_mem rfl h
          · exact h

theorem Memory.wf_doPublish {m : Mach} (h : Memory.wf m) (p : Nat) : Memory.wf (doPublish m p) := by
  unfold doPublish
  dsimp only
  split
  · exact h
  · split
    · exact h
    · split
      · exact h
      · split
        · exact h
        · split
          · simp [Memory.wf, Memory.wf_inDone, Mem.wf_write, h]
          · simp [Memory.wf, Mem.wf_write, h]

theorem Memory.wf_inWithdraw {m : Mach} (h : Memory.wf m) (p : Nat) (sel : InCmd → Bool) : Memory.wf (m.inWithdraw p sel) := by
  unfold Mach.inWithdraw
  extract_lets +onlyGivenNames m₁ out keep
  have h₁ : Memory.wf m₁ := by
    simp only [m₁]
    split
    · split
      · exact Memory.wf_ite (Memory.wf_inStop h _ _) h
      · exact h
    · exact h
  exact Memory.wf_foldl (fun a c ha => Memory.wf_of_mem (Mach.jobCommandDone_mem ..) (Memory.wf_ite (Memory.wf_put ha _ _) ha)) _
    (Memory.wf_of_mem (Mach.modPart_mem ..) h₁)

end Sys2Proof.Machine
end

section
/-! SUPPORT. Proofs: what jobs, partitions and saves leave of the memory. -/

namespace Sys2Proof.Machine

/-! ## Jobs -/

@[simp] theorem Mach.admitJob_mem (m : Mach) (j : Job) : (m.admitJob j).mem = m.mem := by
  unfold Mach.admitJob
  split <;> simp

@[simp] theorem Mach.releaseFences_mem (m : Mach) (n : Nat) : (m.releaseFences n).mem = m.mem :=
  Mach.foldl_mem (fun _ _ => by simp) _ _

@[simp] theorem Mach.fetchOne_mem (m : Mach) (n p : Nat) : (m.fetchOne n p).mem = m.mem := by simp [Mach.fetchOne]

@[simp] theorem doSqTail_mem (m : Mach) (n v : Nat) : (doSqTail m n v).mem = m.mem := by
  unfold doSqTail
  dsimp only
  split
  · simp
  · exact Mach.foldl_mem (fun _ _ => by simp) _ _

@[simp] theorem doCqHead_mem (m : Mach) (n v : Nat) : (doCqHead m n v).mem = m.mem := by
  unfold doCqHead
  split <;> simp

theorem Memory.wf_doCompletion {m : Mach} (h : Memory.wf m) (n : Nat) : Memory.wf (doCompletion m n) := by
  unfold doCompletion
  dsimp only
  split
  · exact h
  · split
    · split
      · exact h
      · simp [Memory.wf, Mem.wf_write, h]
    · exact h

@[simp] theorem Mach.startCores_mem (m : Mach) (p : Nat) (guest : Bool) (k : Pricking) : (m.startCores p guest k).mem = m.mem :=
  Mach.foldl_mem (fun _ _ => by simp) _ _

@[simp] theorem Mach.clearMarkers_mem (m : Mach) (p : Nat) (guest : Bool) : (m.clearMarkers p guest).mem = m.mem := rfl

@[simp] theorem Mach.grantAll_mem (m : Mach) (p : Nat) (k : Pricking) : (m.grantAll p k).mem = m.mem :=
  Mach.foldl_mem (fun _ _ => Mach.foldl_mem (fun _ _ => by simp) _ _) _ _

theorem Memory.wf_startRun {m : Mach} (h : Memory.wf m) (p : Nat) (j : Job) : Memory.wf (m.startRun p j) := by
  unfold Mach.startRun
  dsimp only
  split
  · exact Memory.wf_of_mem rfl h
  · split
    · exact Memory.wf_of_mem rfl h
    · split
      · simp [Memory.wf, Memory.wf_bindLengths, h]
      · split
        · simp [Memory.wf, Memory.wf_bindLengths, h]
        · simp [Memory.wf, Memory.wf_settle, Memory.wf_bindLengths, h]

theorem Memory.wf_doRun {m : Mach} (h : Memory.wf m) (p : Nat) : Memory.wf (doRun m p) := by
  unfold doRun
  split
  · split
    · exact Memory.wf_startRun h _ _
    · exact h
  · exact h

theorem Memory.wf_loadJob {m : Mach} (h : Memory.wf m) (j : Job) (guest hw : Bool) : Memory.wf (m.loadJob j guest hw) := by
  unfold Mach.loadJob
  exact Memory.wf_of_mem (Mach.endJob_mem ..) (Memory.wf_runLoad h _ _ _ _ _ _)

theorem Memory.wf_doLoad {m : Mach} (h : Memory.wf m) (p : Nat) (hw : Bool) : Memory.wf (doLoad m p hw) := by
  unfold doLoad
  split
  · split
    · simp [Memory.wf, Memory.wf_loadJob, h]
    · exact h
  · exact h

@[simp] theorem doUnload_mem (m : Mach) (p : Nat) : (doUnload m p).mem = m.mem := by
  unfold doUnload
  split <;> simp

theorem Memory.wf_doGuestLoad {m : Mach} (h : Memory.wf m) (p : Nat) (hw : Bool) : Memory.wf (doGuestLoad m p hw) := by
  unfold doGuestLoad
  split
  · split
    · exact Memory.wf_loadJob h _ _ _
    · exact h
  · exact h

@[simp] theorem doGuestUnload_mem (m : Mach) (p : Nat) : (doGuestUnload m p).mem = m.mem := by
  unfold doGuestUnload
  split <;> simp

@[simp] theorem doGuestRun_mem (m : Mach) (p : Nat) : (doGuestRun m p).mem = m.mem := by
  unfold doGuestRun
  split
  · split
    · simp
    · split <;> simp
  · simp

@[simp] theorem Mach.lostList_mem (m : Mach) (j : Job) : (m.lostList j).mem = m.mem := by simp [Mach.lostList]
@[simp] theorem Mach.beginList_mem (m : Mach) (j : Job) : (m.beginList j).mem = m.mem := by simp [Mach.beginList]

@[simp] theorem doMediaJob_mem (m : Mach) (p : Nat) : (doMediaJob m p).mem = m.mem := by
  unfold doMediaJob
  split <;> simp

@[simp] theorem doInputJob_mem (m : Mach) (p : Nat) : (doInputJob m p).mem = m.mem := by
  unfold doInputJob
  split <;> simp

theorem Memory.wf_doJobStop {m : Mach} (h : Memory.wf m) (p : Nat) : Memory.wf (doJobStop m p) := by
  unfold doJobStop
  split
  · split
    · split
      · exact Memory.wf_endRun h _ _ _
      · exact h
    · exact h
  · exact h

theorem Memory.wf_stopList {m : Mach} (h : Memory.wf m) (j : Job) (status : Nat) : Memory.wf (m.stopList j status) := by
  have h₁ : Memory.wf (m.modJob j (fun x => { x with st := .stopping status 0 })) := Memory.wf_of_mem (Mach.modJob_mem ..) h
  exact Memory.wf_ite (Memory.wf_foldl (fun _ _ ha => Memory.wf_medReport ha _ _ _) _ (Memory.wf_medWithdraw h₁ _)) (Memory.wf_inWithdraw h₁ _ _)

@[simp] theorem Mach.openSave_mem (m : Mach) (p slot : Nat) : (m.openSave p slot).mem = m.mem := by
  unfold Mach.openSave
  split <;> simp

@[simp] theorem Mach.dropSave_mem (m : Mach) (j : Job) : (m.dropSave j).mem = m.mem := by
  unfold Mach.dropSave
  split <;> simp

theorem Memory.wf_cancelJob {m m' : Mach} (h : Memory.wf m) (j : Job) (hs : m.cancelJob j = some m') : Memory.wf m' := by
  unfold Mach.cancelJob at hs
  split at hs
  · cases hs; exact h
  · cases hs; exact h
  · split at hs
    · cases hs; exact Memory.wf_stopList h _ _
    · split at hs
      · cases hs; exact Memory.wf_of_mem (by simp) h
      · split at hs <;> cases hs
        exact Memory.wf_of_mem (by simp) h
  · cases hs; exact Memory.wf_endRun (Memory.wf_of_mem (by simp) h) _ _ _
  · cases hs

theorem Memory.wf_doCancel {m : Mach} (h : Memory.wf m) (n v : Nat) : Memory.wf (doCancel m n v) := by
  unfold doCancel
  dsimp only
  split
  · exact h
  · split
    · exact h
    · split
      · exact h
      · split
        · grind [Mach.setBit_mem, Memory.wf_cancelJob]
        · exact h

@[simp] theorem Mach.writeBinding_mem (m : Mach) (n sub v : Nat) : (m.writeBinding n sub v).2.mem = m.mem := by
  unfold Mach.writeBinding
  dsimp only
  split
  · split
    · simp
    · split <;> simp
  · split
    · simp
    · split <;> simp

/-! ## Partitions, saves and guests -/

@[simp] theorem Mach.refusePart_mem (m : Mach) (p reason : Nat) : (m.refusePart p reason).mem = m.mem := rfl

@[simp] theorem Mach.partCommand_mem {m : Mach} {f : Mach → Mach} (hf : ∀ a, (f a).mem = a.mem) (p v op : Nat) :
    (m.partCommand p v op f).mem = m.mem := by
  simp [Mach.partCommand, hf]

theorem Memory.wf_partCommand {m : Mach} (h : Memory.wf m) {f : Mach → Mach} (hf : ∀ a, Memory.wf a → Memory.wf (f a)) (p v op : Nat) :
    Memory.wf (m.partCommand p v op f) := by
  unfold Mach.partCommand
  split
  · exact h
  · split
    · exact h
    · split
      · exact h
      · exact hf _ h

@[simp] theorem doForm_mem (p : Nat) (m : Mach) : (doForm p m).mem = m.mem := by simp [doForm]

@[simp] theorem Mach.freshCores_mem (m : Mach) (p : Nat) : (m.freshCores p).mem = m.mem :=
  Mach.foldl_mem (fun _ _ => by simp) _ _

@[simp] theorem Mach.forget_mem (m : Mach) (p : Nat) : (m.forget p).mem = m.mem := by simp [Mach.forget]

@[simp] theorem Mach.powerClusters_mem (m : Mach) (p : Nat) (on : Bool) : (m.powerClusters p on).mem = m.mem :=
  Mach.foldl_mem (fun _ _ => by simp) _ _

theorem Memory.wf_doFormed {m : Mach} (h : Memory.wf m) (p : Nat) : Memory.wf (doFormed m p) := by
  unfold doFormed
  refine Memory.wf_ite h ?_
  extract_lets +onlyGivenNames m₁ m₂ m₃
  have h₁ : Memory.wf m₁ := Memory.wf_foldl (fun _ _ ha => Memory.wf_wipe ha _ _) _ h
  have h₂ : Memory.wf m₂ := Memory.wf_foldl (fun _ _ ha => Memory.wf_wipe ha _ _) _ h₁
  have h₃ : Memory.wf m₃ := Memory.wf_foldl (fun _ _ ha => Memory.wf_wipe ha _ _) _ h₂
  exact Memory.wf_of_mem (by simp) h₃

theorem Memory.wf_endDma {m : Mach} (h : Memory.wf m) (p : Nat) (guest : Bool) : Memory.wf (m.endDma p guest) :=
  Memory.wf_foldl (fun _ _ ha => Memory.wf_of_mem (Mach.modCtx_mem ..) (Memory.wf_foldl (fun _ _ hb => Memory.wf_doDmaComplete hb _ _) _ ha)) _ h

theorem Memory.wf_endJobs {m : Mach} (h : Memory.wf m) (p : Nat) : Memory.wf (m.endJobs p) := by
  unfold Mach.endJobs
  extract_lets +onlyGivenNames js m₁ m₂ m₃ m₄ m₅
  have h₁ : Memory.wf m₁ := Memory.wf_foldl (fun a j ha => Memory.wf_of_mem (by simp) ha) _ h
  have h₂ : Memory.wf m₂ := Memory.wf_foldl (fun a j ha => Memory.wf_stopList ha _ _) _ h₁
  have h₃ : Memory.wf m₃ := by
    simp only [m₃]
    split
    · refine Memory.wf_endRun (Memory.wf_endDma ?_ _ _) _ _ _
      split
      · exact Memory.wf_of_mem (by simp) h₂
      · exact h₂
    · exact h₂
  have h₄ : Memory.wf m₄ := Memory.wf_foldl (fun a j ha => Memory.wf_endRun (Memory.wf_of_mem (by simp) ha) _ _ _) _ h₃
  have h₅ : Memory.wf m₅ := by
    simp only [m₅]
    split
    · refine Memory.wf_of_mem (Mach.endJob_mem ..) (Memory.wf_endDma ?_ _ _)
      split
      · exact Memory.wf_of_mem (by simp) h₄
      · exact h₄
    · exact h₄
  exact Memory.wf_of_mem (by simp) h₅

theorem Memory.wf_closeStreams {m : Mach} (h : Memory.wf m) (p : Nat) : Memory.wf (m.closeStreams p) := by
  unfold Mach.closeStreams
  dsimp only
  simp [Memory.wf, Memory.wf_inWithdraw, Memory.wf_medWithdraw, h]

theorem Memory.wf_dissolve {m : Mach} (h : Memory.wf m) (p : Nat) : Memory.wf (m.dissolve p) := by
  unfold Mach.dissolve
  dsimp only
  simp [Memory.wf, Memory.wf_closeStreams, Memory.wf_endJobs, h]

theorem Memory.wf_doDissolve {m : Mach} (h : Memory.wf m) (p : Nat) : Memory.wf (doDissolve p m) := by
  unfold doDissolve
  split
  · exact Memory.wf_of_mem rfl h
  · split
    · exact Memory.wf_of_mem rfl h
    · exact Memory.wf_dissolve h _

theorem Memory.wf_endSave {m : Mach} (h : Memory.wf m) (p : Nat) : Memory.wf (m.endSave p) := by
  unfold Mach.endSave
  dsimp only
  split
  · simp [Memory.wf, Memory.wf_dissolve, h]
  · exact h

theorem Memory.wf_doJobEnd {m : Mach} (h : Memory.wf m) (p : Nat) : Memory.wf (doJobEnd m p) := by
  unfold doJobEnd
  dsimp only
  split
  · exact Memory.wf_endSave (Memory.wf_doJobStop h _) _
  · exact Memory.wf_doJobStop h _

@[simp] theorem doPreempt_mem (p : Nat) (m : Mach) : (doPreempt p m).mem = m.mem := by simp [doPreempt]

theorem Memory.wf_cutArray {m : Mach} (h : Memory.wf m) (core cut : Nat) : Memory.wf (m.cutArray core cut) := by
  unfold Mach.cutArray
  dsimp only
  split
  · exact h
  · split
    · exact h
    · split
      · exact Memory.wf_doTileComplete h _
      · simp [Memory.wf, h]

theorem Memory.wf_doSave {m : Mach} (h : Memory.wf m) (p : Nat) (cuts : List Nat) : Memory.wf (doSave m p cuts) := by
  unfold doSave
  split
  · exact h
  · refine Memory.wf_ite h (Memory.wf_foldl (fun a c ha => ?_) _ (Memory.wf_of_mem (by simp) h))
    exact Memory.wf_of_mem (by simp) (Memory.wf_cutArray ha c.1 (cuts.getD c.2 0))

@[simp] theorem Mach.touchSaves_mem (m : Mach) (p : Nat) : (m.touchSaves p).mem = m.mem :=
  Mach.foldl_mem (fun _ _ => by simp) _ _

theorem Memory.wf_copySave {m : Mach} (h : Memory.wf m) (p slot off key n : Nat) (out : Bool) : Memory.wf (m.copySave p slot off key n out) :=
  Memory.wf_foldl (fun _ _ ha => Memory.wf_ite (Memory.wf_copyMem ha _ _ _) (Memory.wf_copyMem ha _ _ _)) _ h

theorem Memory.wf_writeSave {m : Mach} (h : Memory.wf m) (p slot off : Nat) (bs : List Byte) : Memory.wf (m.writeSave p slot off bs) :=
  Memory.wf_foldl (fun _ _ ha => Memory.wf_wr ha _ _) _ h

theorem Memory.wf_saveCoreImage {m : Mach} (h : Memory.wf m) (p slot off core : Nat) : Memory.wf (m.saveCoreImage p slot off core) := by
  unfold Mach.saveCoreImage
  dsimp only
  refine Memory.wf_writeSave (Memory.wf_writeSave (Memory.wf_free (Memory.wf_writeSave ?_ _ _ _ _) _) _ _ _ _) _ _ _ _
  exact Memory.wf_copySave (Memory.wf_copySave h _ _ _ _ _ _) _ _ _ _ _ _

theorem Memory.wf_saveRank {m : Mach} (h : Memory.wf m) (p slot rank g : Nat) : Memory.wf (m.saveRank p slot rank g) := by
  unfold Mach.saveRank
  dsimp only
  refine Memory.wf_writeSave (Memory.wf_free (Memory.wf_wr (Memory.wf_free (Memory.wf_writeSave (Memory.wf_copySave ?_ _ _ _ _ _ _) _ _ _ _) _) _ _)
    _) _ _ _ _
  exact Memory.wf_foldl (fun _ _ ha => Memory.wf_saveCoreImage ha _ _ _ _) _ h

theorem Memory.wf_doSaveComplete {m : Mach} (h : Memory.wf m) (p : Nat) : Memory.wf (doSaveComplete m p) := by
  unfold doSaveComplete
  split
  next j slot k _ _ _ =>
    refine Memory.wf_ite h ?_
    extract_lets +onlyGivenNames keep src m₁ m₂ init m₃ m₄ m₅ m₆
    have h₁ : Memory.wf m₁ := Memory.wf_writeSave (Memory.wf_free (Memory.wf_of_mem (m.touchSaves_mem p) h) _) _ _ _ _
    have h₂ : Memory.wf m₂ := Memory.wf_foldl (fun _ _ ha => Memory.wf_saveRank ha _ _ _ _) _ h₁
    have h₃ : Memory.wf m₃ := Memory.wf_foldl (fun _ _ ha => Memory.wf_of_mem (Mach.setCore_mem ..) ha) _ h₂
    have h₄ : Memory.wf m₄ := Memory.wf_of_mem (Mach.modJob_mem ..) h₃
    have h₅ : Memory.wf m₅ := Memory.wf_of_mem (Mach.modPart_mem ..) h₄
    have h₆ : Memory.wf m₆ := Memory.wf_of_mem ((Mach.addObj_mem ..).trans (Mach.jobLeft_mem ..)) h₅
    exact Memory.wf_ite (Memory.wf_dissolve h₆ p) h₆
  next => exact Memory.wf_ite (Memory.wf_endSave h p) h

theorem Memory.wf_loadCoreImage {m : Mach} (h : Memory.wf m) (p slot off d : Nat) (s : SavedCore) : Memory.wf (m.loadCoreImage p slot off d s) := by
  unfold Mach.loadCoreImage
  dsimp only
  exact Memory.wf_of_mem rfl (Memory.wf_copySave (Memory.wf_copySave h _ _ _ _ _ _) _ _ _ _ _ _)

theorem Memory.wf_loadRank {m : Mach} (h : Memory.wf m) (p slot rank g d : Nat) (cs : List SavedCore) :
    Memory.wf (m.loadRank p slot rank g d cs) := by
  unfold Mach.loadRank
  dsimp only
  exact Memory.wf_of_mem rfl (Memory.wf_copySave (Memory.wf_foldl (fun a x ha => (Memory.wf_loadCoreImage ha _ _ _ _ _)) _ h) _ _ _ _ _ _)

@[simp] theorem Mach.deliverHeld_mem (m : Mach) (p : Nat) (j : Job) : (m.deliverHeld p j).mem = m.mem :=
  Mach.foldl_mem (fun _ _ => by simp) _ _

theorem Memory.wf_doRestore {m : Mach} (h : Memory.wf m) (p : Nat) : Memory.wf (doRestore m p) := by
  unfold doRestore
  split
  · exact h
  · split
    · split
      · exact h
      next s _ =>
        extract_lets +onlyGivenNames m₁ gone lost
        have h₁ : Memory.wf m₁ := Memory.wf_of_mem (m.touchSaves_mem p) h
        have hg : Memory.wf gone := Memory.wf_of_mem (Mach.dropSave_mem ..) h₁
        refine Memory.wf_ite (Memory.wf_of_mem (Mach.setBit_mem ..) (Memory.wf_endRun hg _ _ _)) ?_
        split
        · exact Memory.wf_of_mem (Mach.setBit_mem ..) (Memory.wf_endRun (Memory.wf_of_mem (by simp) hg) _ _ _)
        · extract_lets +onlyGivenNames d m₂ m₃ m₄
          have h₂ : Memory.wf m₂ := Memory.wf_foldl (fun _ _ ha => Memory.wf_loadRank ha _ _ _ _ _ _) _ h₁
          have h₄ : Memory.wf m₄ := Memory.wf_of_mem ((Mach.eachRecipe_mem ..).trans (Mach.modPart_mem ..)) h₂
          exact Memory.wf_of_mem (by simp) h₄
    · exact h

@[simp] theorem doGuestSwitch_mem (m : Mach) (core : Nat) : (doGuestSwitch m core).mem = m.mem := by
  unfold doGuestSwitch
  split <;> simp

@[simp] theorem doGuestReturn_mem (m : Mach) (core : Nat) : (doGuestReturn m core).mem = m.mem := by
  unfold doGuestReturn
  split <;> simp

@[simp] theorem doGuestEnd_mem (m : Mach) (p : Nat) : (doGuestEnd m p).mem = m.mem := by
  unfold doGuestEnd
  dsimp only
  split
  · simp
  · split
    · simp
    · split
      · exact Mach.foldl_mem (fun _ _ => by simp) _ _
      · exact Mach.foldl_mem (fun _ _ => by simp) _ _
      · simp

end Sys2Proof.Machine
end

section
/-! SUPPORT. Proofs: what health, memory traffic, clocks and power leave of the memory. -/

namespace Sys2Proof.Machine

/-! ## Health -/

@[simp] theorem Mach.queueEmcy_mem (m : Mach) (code detail : Nat) : (m.queueEmcy code detail).mem = m.mem := by simp [Mach.queueEmcy]

@[simp] theorem Mach.enterHistory_mem (m : Mach) (code detail : Nat) : (m.enterHistory code detail).mem = m.mem := by
  unfold Mach.enterHistory
  dsimp only
  exact Mach.foldl_mem (fun _ _ => by simp) _ _

@[simp] theorem Mach.sendEmcy_mem (m : Mach) : m.sendEmcy.mem = m.mem := by
  unfold Mach.sendEmcy
  dsimp only
  split
  · simp
  · split
    · split
      · simp
      · split <;> simp
    · split
      · simp
      · split <;> simp

@[simp] theorem Mach.emcySet_mem (m : Mach) (c : EmcyCond) (detail : Nat) : (m.emcySet c detail).mem = m.mem := by simp [Mach.emcySet]
@[simp] theorem Mach.emcyClear_mem (m : Mach) (c : EmcyCond) : (m.emcyClear c).mem = m.mem := by simp [Mach.emcyClear]
@[simp] theorem Mach.warn_mem (m : Mach) (i : Nat) : (m.warn i).mem = m.mem := rfl
@[simp] theorem Mach.replacement_mem (m : Mach) (reason : Nat) : (m.replacement reason).mem = m.mem := by simp [Mach.replacement]
@[simp] theorem Mach.repair_mem (m : Mach) (level die clus unit code : Nat) : (m.repair level die clus unit code).mem = m.mem := rfl
@[simp] theorem Mach.logFault_mem (m : Mach) (bs : List Byte) : (m.logFault bs).mem = m.mem := rfl

@[simp] theorem Mach.byPath_mem {m : Mach} {path : Path} {f : Mach → Mach} (hf : (f m).mem = m.mem) : (m.byPath path f).mem = m.mem := by
  simp [Mach.byPath, hf]

theorem Memory.wf_byPath {m : Mach} (h : Memory.wf m) {path : Path} {f : Mach → Mach} (hf : Memory.wf (f m)) : Memory.wf (m.byPath path f) := by
  unfold Mach.byPath
  split
  · exact hf
  · exact h

/-! ## Memory channels -/

@[simp] theorem Mach.rowFixed_mem (m : Mach) (s row : Nat) : (m.rowFixed s row).mem = m.mem := by simp [Mach.rowFixed]
@[simp] theorem Mach.eccCorrected_mem (m : Mach) (addr cls : Nat) : (m.eccCorrected addr cls).mem = m.mem := by simp [Mach.eccCorrected]
@[simp] theorem Mach.loseStack_mem (m : Mach) (s reason code : Nat) : (m.loseStack s reason code).mem = m.mem := by simp [Mach.loseStack]
@[simp] theorem Mach.setChan_mem (m : Mach) (n : Nat) (c : Chan) : (m.setChan n c).mem = m.mem := rfl
@[simp] theorem Mach.rowLost_mem (m : Mach) (s row : Nat) : (m.rowLost s row).mem = m.mem := rfl
@[simp] theorem Mach.retryLost_mem (m : Mach) (n addr cls : Nat) : (m.retryLost n addr cls).mem = m.mem := by simp [Mach.retryLost]
@[simp] theorem Mach.retryLostRead_mem (m : Mach) (n addr cls : Nat) : (m.retryLostRead n addr cls).mem = m.mem := by simp [Mach.retryLostRead]

@[simp] theorem Mach.serveRead_mem (m : Mach) (n : Nat) (r : MemReq) : (m.serveRead n r).mem = m.mem := by
  unfold Mach.serveRead
  dsimp only
  split
  · simp
  · split <;> simp

theorem Memory.wf_serveWrite {m : Mach} (h : Memory.wf m) (n : Nat) (r : MemReq) : Memory.wf (m.serveWrite n r) := by
  unfold Mach.serveWrite
  split
  · split <;> simp [Memory.wf, Mem.wf_write, h]
  · simp [Memory.wf, Mem.wf_write, h]

theorem Memory.wf_doAccess {m : Mach} (h : Memory.wf m) (n : Nat) (reqs : List MemReq) : Memory.wf (doAccess m n reqs) := by
  unfold doAccess
  dsimp only
  split
  · exact h
  · split
    · split
      · simp [Memory.wf, Memory.wf_serveWrite, h]
      · simp [Memory.wf, h]
    · exact Memory.wf_of_mem rfl h

@[simp] theorem doRetrain_mem (m : Mach) (n : Nat) (ok : Bool) : (doRetrain m n ok).mem = m.mem := by simp [doRetrain]

@[simp] theorem doScrub_mem (m : Mach) (addr : Nat) (err : EccSeen) : (doScrub m addr err).mem = m.mem := by
  unfold doScrub
  dsimp only
  split
  · simp
  · split
    · simp
    · split <;> simp

@[simp] theorem doRefresh_mem (m : Mach) (n bank : Nat) (class1 : Bool) (rate : Nat) : (doRefresh m n bank class1 rate).mem = m.mem := by
  simp [doRefresh]

@[simp] theorem doSleep_mem (m : Mach) (s : Nat) : (doSleep m s).mem = m.mem := by simp [doSleep]
@[simp] theorem doAwake_mem (m : Mach) (s : Nat) : (doAwake m s).mem = m.mem := by simp [doAwake]

theorem Memory.wf_swSpoil {m : Mach} (h : Memory.wf m) (n ctl : Nat) : Memory.wf (m.swSpoil n ctl) := by
  unfold Mach.swSpoil
  extract_lets +onlyGivenNames seed free bursts raw m₁
  have h₁ : Memory.wf m₁ := by
    refine List.foldlRecOn (motive := fun a : (Nat × Nat) × Mach => Memory.wf a.2) _ _ h fun a ha x _ => ?_
    dsimp only
    split
    · exact ha
    · split <;> split <;> exact Memory.wf_wr ha _ _
  exact h₁

theorem Memory.wf_doSwStart {m : Mach} (h : Memory.wf m) (n v : Nat) : Memory.wf (doSwStart n v m) := by
  unfold doSwStart
  dsimp only
  split
  · exact h
  · split
    · exact Memory.wf_of_mem rfl h
    · split
      · exact Memory.wf_of_mem rfl h
      · split
        · exact Memory.wf_of_mem rfl h
        · split
          · exact Memory.wf_of_mem rfl h
          · split
            · simp [Memory.wf, Memory.wf_swSpoil, h]
            · simp [Memory.wf, h]

@[simp] theorem doSwStop_mem (n v : Nat) (m : Mach) : (doSwStop n v m).mem = m.mem := by simp [doSwStop]
@[simp] theorem doSwDone_mem (m : Mach) (n : Nat) (x : SwatchSeen) : (doSwDone m n x).mem = m.mem := by simp [doSwDone]

/-! ## Clocks -/

@[simp] theorem Mach.switchTo_mem (m : Mach) (i src : Nat) : (m.switchTo i src).mem = m.mem := rfl
@[simp] theorem Mach.setHold_mem (m : Mach) (hold : Bool) : (m.setHold hold).mem = m.mem := rfl
@[simp] theorem doRefclkLoss_mem (m : Mach) : (doRefclkLoss m).mem = m.mem := by simp [doRefclkLoss]
@[simp] theorem doRefclkReturn_mem (m : Mach) : (doRefclkReturn m).mem = m.mem := by simp [doRefclkReturn]

@[simp] theorem Mach.hold_mem (m : Mach) (p : Nat) : (m.hold p).mem = m.mem := by
  unfold Mach.hold
  rw [Mach.foldl_mem] <;> simp

@[simp] theorem doMasterLoss_mem (m : Mach) (which : Nat) : (doMasterLoss m which).mem = m.mem := by
  unfold doMasterLoss
  dsimp only
  split
  · rfl
  · split
    · rw [Mach.foldl_mem] <;> simp
    · rw [Mach.foldl_mem (fun _ _ => by simp)]
      dsimp only [Mach.setHost_mem]
      rw [Mach.foldl_mem, Mach.foldl_mem] <;> simp

@[simp] theorem doSourceSwitch_mem (i v : Nat) (m : Mach) : (doSourceSwitch i v m).mem = m.mem := by simp [doSourceSwitch]

@[simp] theorem doPendingStart_mem (m : Mach) (i : Nat) : (doPendingStart m i).mem = m.mem := by
  unfold doPendingStart
  split <;> simp

@[simp] theorem doSwitchTimeout_mem (m : Mach) (i : Nat) : (doSwitchTimeout m i).mem = m.mem := by
  unfold doSwitchTimeout
  split <;> simp

@[simp] theorem doSynthLoss_mem (m : Mach) (i : Nat) : (doSynthLoss m i).mem = m.mem := by simp [doSynthLoss]
@[simp] theorem doGate_mem (m : Mach) (i : Nat) : (doGate m i).mem = m.mem := by simp [doGate]

/-! ## Power -/

@[simp] theorem Mach.enterIdle_mem (m : Mach) (g st : Nat) (cond : Nat → Bool) : (m.enterIdle g st cond).mem = m.mem := by
  unfold Mach.enterIdle
  split <;> simp

@[simp] theorem doG1_mem (m : Mach) (g : Nat) : (doG1 m g).mem = m.mem := by simp [doG1]
@[simp] theorem doG2_mem (m : Mach) (g : Nat) : (doG2 m g).mem = m.mem := by simp [doG2]

theorem Memory.wf_doG3 {m : Mach} (h : Memory.wf m) (g : Nat) : Memory.wf (doG3 m g) := by
  unfold doG3
  split
  · exact h
  · split
    · exact h
    next slot _ =>
      refine Memory.wf_ite h ?_
      refine Memory.wf_foldl (fun _ _ ha => Memory.wf_of_mem (Mach.setIsland_mem ..) ha) _ (Memory.wf_of_mem (Mach.modPart_mem ..) ?_)
      refine Memory.wf_foldl (fun _ _ ha => Memory.wf_saveRank ha _ _ _ _) _ (Memory.wf_writeSave (Memory.wf_free ?_ _) _ _ _ _)
      exact Memory.wf_of_mem (Mach.touchSaves_mem ..) h

@[simp] theorem Mach.wakeAll_mem (m : Mach) (p : Nat) : (m.wakeAll p).mem = m.mem :=
  Mach.foldl_mem (fun _ _ => by simp) _ _

theorem Memory.wf_wakeG3 {m : Mach} (h : Memory.wf m) (p slot : Nat) : Memory.wf (m.wakeG3 p slot) := by
  unfold Mach.wakeG3
  extract_lets +onlyGivenNames m₁ lost bad m₂ m₃
  have h₁ : Memory.wf m₁ := Memory.wf_of_mem (m.touchSaves_mem p) h
  have h₂ : Memory.wf m₂ := Memory.wf_ite h₁ (Memory.wf_foldl (fun _ _ ha => Memory.wf_loadRank ha _ _ _ _ _ _) _ h₁)
  have h₃ : Memory.wf m₃ := Memory.wf_of_mem ((Mach.wakeAll_mem ..).trans (Mach.modPart_mem ..)) h₂
  refine Memory.wf_ite h₃ ?_
  extract_lets +onlyGivenNames m₄ m₅
  have h₅ : Memory.wf m₅ := Memory.wf_of_mem (Mach.lostAny_mem m₃ 2 lost) h₃
  split
  · exact Memory.wf_endRun h₅ _ _ _
  · exact h₅

theorem Memory.wf_doWake {m : Mach} (h : Memory.wf m) (i : Nat) : Memory.wf (doWake m i) := by
  unfold doWake
  dsimp only
  split
  · exact h
  · split
    · split
      · split
        · exact Memory.wf_wakeG3 h _ _
        · exact Memory.wf_of_mem rfl h
      · exact Memory.wf_of_mem rfl h
    · exact Memory.wf_of_mem rfl h

@[simp] theorem Mach.setGauge_mem (m : Mach) (i : Nat) (g : Gauge) : (m.setGauge i g).mem = m.mem := rfl

@[simp] theorem doOpMove_mem (m : Mach) (i : Nat) (slack : Int) : (doOpMove m i slack).mem = m.mem := by
  unfold doOpMove
  dsimp only
  split
  · simp
  · split
    · simp
    · split <;> simp

@[simp] theorem doLimiter_mem (m : Mach) (env : LimitEnv) : (doLimiter m env).mem = m.mem := by
  unfold doLimiter
  dsimp only
  simp [Mach.foldl_mem]

@[simp] theorem doShed_mem (m : Mach) (watts : Nat) : (doShed m watts).mem = m.mem := by
  unfold doShed
  dsimp only
  split
  · simp
  · split
    · simp
    · exact Mach.foldl_mem (fun _ _ => by simp) _ _

@[simp] theorem doThermalCap_mem (m : Mach) (temps : List Int) : (doThermalCap m temps).mem = m.mem := by
  unfold doThermalCap
  dsimp only
  simp [Mach.foldl_mem]

@[simp] theorem doTrip_mem (m : Mach) (temps : List Int) : (doTrip m temps).mem = m.mem := by
  unfold doTrip
  split
  · rfl
  · rw [Mach.foldl_mem] <;> simp

@[simp] theorem doTripRelease_mem (m : Mach) (temps : List Int) : (doTripRelease m temps).mem = m.mem := by simp [doTripRelease]

@[simp] theorem doWindow_mem (m : Mach) (mJ : Nat) : (doWindow m mJ).mem = m.mem := by
  unfold doWindow
  dsimp only
  split
  · simp
  · split <;> simp

@[simp] theorem doGauge_mem (m : Mach) (i : Nat) (slack : Int) (ring : Nat) : (doGauge m i slack ring).mem = m.mem := by simp [doGauge]

@[simp] theorem Mach.replan_mem (m : Mach) : m.replan.mem = m.mem := by
  unfold Mach.replan
  extract_lets +onlyGivenNames x fixed m₁ m₂ m₃ m₄ m₅
  have h₅ : m₅.mem = m.mem := by
    grind [Mach.addObj32_mem, Mach.setObj_mem, Mach.foldl_mem, Mach.setGauge_mem, Mach.setIsland_mem]
  split <;> simp [h₅]

@[simp] theorem doReplan_mem (m : Mach) : (doReplan m).mem = m.mem := by
  unfold doReplan
  simp

@[simp] theorem doReplanNow_mem (v : Nat) (m : Mach) : (doReplanNow v m).mem = m.mem := by simp [doReplanNow]

@[simp] theorem doHealth_mem (m : Mach) (e : HealthEnv) : (doHealth m e).mem = m.mem := by
  unfold doHealth
  dsimp only
  grind [Mach.setObj_mem, Mach.foldl_mem, Mach.emcySet_mem, Mach.warn_mem, Mach.emcyClear_mem]

end Sys2Proof.Machine
end

section
/-! SUPPORT. Proofs: what lifelines, frogs and supervisors leave of the memory. -/

namespace Sys2Proof.Machine

/-! ## Lifelines -/

theorem Memory.wf_lifeWrite {m : Mach} (h : Memory.wf m) (p slot off : Nat) (bs : List Byte) : Memory.wf (m.lifeWrite p slot off bs) :=
  Memory.wf_foldl (fun _ _ ha => Memory.wf_put ha _ _) _ h

@[simp] theorem Mach.setLife_mem (m : Mach) (p : Nat) (f : Life → Life) : (m.setLife p f).mem = m.mem := rfl
@[simp] theorem Mach.lifeMissed_mem (m : Mach) (p : Nat) : (m.lifeMissed p).mem = m.mem := rfl
@[simp] theorem Mach.lifeHold_mem (m : Mach) (p : Nat) : (m.lifeHold p).mem = m.mem := rfl

theorem Memory.wf_takeLife {m : Mach} (h : Memory.wf m) (p : Nat) : Memory.wf (m.takeLife p) := by
  unfold Mach.takeLife
  dsimp only
  split
  · exact h
  · split
    · simp [Memory.wf, h]
    · split
      · exact h
      · split
        · simp [Memory.wf, Mem.wf_zero, h]
        · grind [Mach.setBit_mem, Mach.addObj32_mem, Mach.lifeHold_mem, Mach.setLife_mem, Memory.wf_lifeWrite, Mach.touch_mem, Memory.wf_wipe]

theorem Memory.wf_doRoundClose {m : Mach} (h : Memory.wf m) (p : Nat) : Memory.wf (doRoundClose m p) := by
  unfold doRoundClose
  dsimp only
  split
  · exact h
  · split
    · simp [Memory.wf, h]
    · split
      · simp [Memory.wf, Memory.wf_takeLife, h]
      · simp [Memory.wf, h]

@[simp] theorem doLifeExpiry_mem (m : Mach) (p : Nat) : (doLifeExpiry m p).mem = m.mem := by simp [doLifeExpiry]
@[simp] theorem Mach.lifeMsg_mem (m : Mach) (p fa fp fbuf fmt : Nat) (data : List Byte) : (m.lifeMsg p fa fp fbuf fmt data).1.mem = m.mem := rfl

@[simp] theorem Mach.lifeSend_mem (m : Mach) (p fa fp fbuf fmt round status : Nat) : (m.lifeSend p fa fp fbuf fmt round status).2.mem = m.mem := by
  simp [Mach.lifeSend]

@[simp] theorem Mach.lifeStreamOut_mem (m : Mach) (p slot fa fp fbuf : Nat) : (m.lifeStreamOut p slot fa fp fbuf).2.2.mem = m.mem := by
  unfold Mach.lifeStreamOut
  extract_lets +onlyGivenNames hd m₁ n
  have h₁ : m₁.mem = m.mem := Mach.touch_mem ..
  clear_value m₁
  have hx := m₁.lifeMsg_mem p fa fp fbuf (lhFmt hd) []
  split
  next m2 x hm =>
    rw [hm] at hx
    extract_lets +onlyGivenNames xs
    have hs := m2.sendAll_mem xs
    split
    next l m3 hl =>
      rw [hl] at hs
      simp_all
    next => simp_all

@[simp] theorem Mach.mirrorFail_mem (m : Mach) (p : Nat) : (m.mirrorFail p).mem = m.mem := rfl

@[simp] theorem doLifeStream_mem (m : Mach) (p : Nat) : (doLifeStream m p).mem = m.mem := by
  unfold doLifeStream
  dsimp only
  split
  · split
    · simp
    · split
      · simp
      · split
        · grind [Mach.setBit_mem, Mach.setLife_mem, Mach.addObj_mem, Mach.lifeStreamOut_mem]
        · grind [Mach.mirrorFail_mem, Mach.lifeStreamOut_mem]
  · simp

theorem Memory.wf_lifeLand {m : Mach} (h : Memory.wf m) (p slot off : Nat) (bs : List Byte) : Memory.wf (m.lifeLand p slot off bs) := by
  unfold Mach.lifeLand
  dsimp only
  split
  · exact h
  · split
    · simp [Memory.wf, h]
    · refine Memory.wf_put ?_ _ _
      exact h

theorem Memory.wf_doLifeData {m : Mach} (h : Memory.wf m) (l : Nat) (x : Msg) : Memory.wf (doLifeData l x m) := by
  unfold doLifeData
  dsimp only
  split
  · simp [Memory.wf, h]
  · split
    · simp [Memory.wf, h]
    · split
      · simp [Memory.wf, Memory.wf_lifeLand, h]
      · split <;> simp [Memory.wf, h]

theorem Memory.wf_lifeComplete {m : Mach} (h : Memory.wf m) (p slot : Nat) : Memory.wf (m.lifeComplete p slot) := by
  unfold Mach.lifeComplete
  refine Memory.wf_put ?_ _ _
  exact h

theorem Memory.wf_commitStream {m : Mach} (h : Memory.wf m) (x : Msg) : Memory.wf (m.commitStream x) := by
  unfold Mach.commitStream
  dsimp only
  split
  · simp [Memory.wf, h]
  · split
    · simp [Memory.wf, h]
    · split
      · simp [Memory.wf, h]
      · split
        · simp [Memory.wf, Memory.wf_lifeComplete, h]
        · simp [Memory.wf, h]

@[simp] theorem doRestoreReq_mem (l : Nat) (x : Msg) (m : Mach) : (doRestoreReq l x m).mem = m.mem := by
  unfold doRestoreReq
  dsimp only
  split
  · simp
  · split <;> simp

/-! ## Recovery -/

@[simp] theorem Mach.setRecState_mem (m : Mach) (p st : Nat) : (m.setRecState p st).mem = m.mem := rfl
@[simp] theorem Mach.frogFail_mem (m : Mach) (p fail st : Nat) : (m.frogFail p fail st).mem = m.mem := by simp [Mach.frogFail]

theorem Memory.wf_restoreTile {m : Mach} (h : Memory.wf m) (p : Nat) (k : Pricking) (it : Nat × Nat) (fmt round key : Nat) (img : List Byte) :
    Memory.wf (m.restoreTile p k it fmt round key img) := by
  unfold Mach.restoreTile
  dsimp only
  split
  · simp [Memory.wf, Memory.wf_wrNat, Mem.wf_write, h]
  · split
    · simp [Memory.wf, Memory.wf_wrNat, Mem.wf_write, h]
    · split
      · simp [Memory.wf, Memory.wf_wrNat, Mem.wf_write, h]
      · grind [Mach.setFlags_mem, Memory.wf_put, Memory.wf_wrNat]

theorem Memory.wf_restoreTiles {m : Mach} (h : Memory.wf m) (p slot : Nat) (k : Pricking) (hd : List Byte) : Memory.wf (m.restoreTiles p slot k hd) :=
  List.foldlRecOn (motive := fun a : Nat × Mach => Memory.wf a.2) _ _ h fun _ ha _ _ => Memory.wf_restoreTile ha _ _ _ _ _ _ _

@[simp] theorem Mach.restoreRecipes_mem (m : Mach) (p : Nat) (h : List Byte) : (m.restoreRecipes p h).mem = m.mem := by
  unfold Mach.restoreRecipes
  rw [Mach.eachRecipe_mem, Mach.foldl_mem]
  simp

theorem Memory.wf_frogFinish {m : Mach} (h : Memory.wf m) (p slot used : Nat) (k : Pricking) : Memory.wf (m.frogFinish p slot used k) := by
  unfold Mach.frogFinish
  dsimp only
  simp [Memory.wf, Memory.wf_restoreTiles, h]

@[simp] theorem Mach.dropStream_mem (m : Mach) (p : Nat) : (m.dropStream p).mem = m.mem := by simp [Mach.dropStream]

theorem Memory.wf_wipePts {m : Mach} (h : Memory.wf m) (p : Nat) (k : Pricking) : Memory.wf (m.wipePts p k) := by
  unfold Mach.wipePts
  refine Memory.wf_foldl (fun a x ha => ?_) _ h
  split
  · refine Memory.wf_wipe ?_ _ _
    exact ha
  · exact ha

theorem Memory.wf_reinstall {m : Mach} (h : Memory.wf m) (p : Nat) (k : Pricking) : Memory.wf (m.reinstall p k).2 := by
  unfold Mach.reinstall
  dsimp only
  split
  · exact h
  · simp [Memory.wf, Memory.wf_install, h]

theorem Memory.wf_frogSource {m : Mach} (h : Memory.wf m) (p round src prior : Nat) (k : Pricking) :
    Memory.wf (m.frogSource p round src prior k) := by
  unfold Mach.frogSource
  extract_lets +onlyGivenNames own code m₁
  clear_value code own
  have h₁ : Memory.wf m₁ := by
    simp only [m₁]
    split
    · exact Memory.wf_of_mem (Mach.lostAny_mem ..) h
    · exact h
  clear_value m₁
  split
  · exact Memory.wf_frogFinish h₁ _ _ _ _
  · split
    · exact Memory.wf_of_mem (Mach.frogFail_mem ..) h₁
    next fa fp _ =>
      have hs := Memory.wf_of_mem (m₁.lifeSend_mem p fa fp 0xFFC (m₁.pv p) round 0) h₁
      split
      next m' hm =>
        rw [hm] at hs
        exact Memory.wf_of_mem (Mach.setLife_mem ..) hs
      next m' _ hm =>
        rw [hm] at hs
        exact Memory.wf_of_mem (Mach.frogFail_mem ..) hs

theorem Memory.wf_frogGo {m : Mach} (h : Memory.wf m) (p round src : Nat) (k : Pricking) : Memory.wf (m.frogGo p round src k) := by
  unfold Mach.frogGo
  extract_lets +onlyGivenNames prior m₁ m₂ m₃ m₄
  have h₁ : Memory.wf m₁ := Memory.wf_of_mem ((Mach.setRecState_mem ..).trans (Mach.setObj_mem ..)) h
  have h₂ : Memory.wf m₂ := by
    simp only [m₂]
    split
    · exact Memory.wf_wakeG3 h₁ _ _
    · exact h₁
  have h₃ : Memory.wf m₃ := Memory.wf_closeStreams (Memory.wf_of_mem (by simp) (Memory.wf_endJobs h₂ p)) _
  have h₄ : Memory.wf m₄ := Memory.wf_wipePts h₃ _ _
  clear_value m₄
  have hr := Memory.wf_reinstall h₄ p k
  split
  next m' hm =>
    rw [hm] at hr
    split
    · exact Memory.wf_frogSource hr _ _ _ _ _
    · exact Memory.wf_of_mem (Mach.frogFail_mem ..) hr
  next m' _ hm =>
    rw [hm] at hr
    exact Memory.wf_of_mem (Mach.frogFail_mem ..) hr

theorem Memory.wf_doFrog {m : Mach} (h : Memory.wf m) (p v : Nat) : Memory.wf (doFrog m p v) := by
  unfold doFrog
  dsimp only
  split
  · exact h
  · split
    · exact h
    · split
      · exact h
      · split
        · split
          · exact h
          · simp [Memory.wf, Memory.wf_frogGo, h]
        · exact h

theorem Memory.wf_doAutoFrog {m : Mach} (h : Memory.wf m) (p : Nat) : Memory.wf (doAutoFrog m p) := by
  unfold doAutoFrog
  split
  · split
    · exact Memory.wf_frogGo h _ _ _ _
    · exact h
  · exact h

theorem Memory.wf_doRestoreData {m : Mach} (h : Memory.wf m) (l : Nat) (x : Msg) : Memory.wf (doRestoreData l x m) := by
  unfold doRestoreData
  dsimp only
  split
  · split
    · simp [Memory.wf, h]
    · simp [Memory.wf, Memory.wf_lifeLand, h]
  · simp [Memory.wf, h]

theorem Memory.wf_frogCommit {m : Mach} (h : Memory.wf m) (p : Nat) (f : FrogSt) (k : Pricking) (round : Nat) :
    Memory.wf (m.frogCommit p f k round) := by
  unfold Mach.frogCommit
  dsimp only
  split
  · simp [Memory.wf, h]
  · split
    · simp [Memory.wf, Memory.wf_frogFinish, Memory.wf_lifeComplete, h]
    · simp [Memory.wf, h]

theorem Memory.wf_doCommit {m : Mach} (h : Memory.wf m) (l : Nat) (x : Msg) : Memory.wf (doCommit l x m) := by
  unfold doCommit
  dsimp only
  split
  · split
    · simp [Memory.wf, Memory.wf_frogCommit, h]
    · simp [Memory.wf, Memory.wf_commitStream, h]
  · simp [Memory.wf, Memory.wf_commitStream, h]

@[simp] theorem doAck_mem (l : Nat) (x : Msg) (m : Mach) : (doAck l x m).mem = m.mem := by
  unfold doAck
  dsimp only
  split
  · simp
  · split <;> simp

@[simp] theorem Mach.frogTimeout_mem (m : Mach) (p : Nat) : (m.frogTimeout p).mem = m.mem := by
  unfold Mach.frogTimeout
  split <;> simp

theorem Memory.wf_stopForRecovery {m : Mach} (h : Memory.wf m) (p : Nat) : Memory.wf (m.stopForRecovery p) := by
  unfold Mach.stopForRecovery
  extract_lets +onlyGivenNames js fin m₁ m₂ m₃
  have hfin : ∀ g a, Memory.wf a → Memory.wf (fin g a) := fun g a ha => by
    simp only [fin]
    split
    · refine Memory.wf_endRun (Memory.wf_endDma ?_ _ _) _ _ _
      split
      · exact Memory.wf_of_mem (by simp) ha
      · exact ha
    · exact ha
  have h₁ : Memory.wf m₁ := Memory.wf_foldl (fun a j ha => Memory.wf_stopList ha _ _) _ h
  have h₂ : Memory.wf m₂ := Memory.wf_foldl (fun a j ha => Memory.wf_endRun (Memory.wf_of_mem (by simp) ha) _ _ _) _ (hfin _ _ h₁)
  have h₃ : Memory.wf m₃ := Memory.wf_of_mem (by simp [m₃]) (hfin true _ h₂)
  split
  · exact Memory.wf_of_mem (by simp) h₃
  · exact h₃

@[simp] theorem Mach.bindOffCluster_mem (m : Mach) (g code : Nat) : (m.bindOffCluster g code).mem = m.mem := by simp [Mach.bindOffCluster]

@[simp] theorem Mach.bindOffSlot_mem (m : Mach) (g k code : Nat) : (m.bindOffSlot g k code).mem = m.mem := by
  unfold Mach.bindOffSlot
  dsimp only
  split
  · simp
  · split <;> simp

@[simp] theorem Mach.softRepair_mem (m : Mach) (s row : Nat) : (m.softRepair s row).mem = m.mem := by
  unfold Mach.softRepair
  dsimp only
  simp [Mach.foldl_mem]

@[simp] theorem Mach.testUnit_mem (m : Mach) (c : HwCause) (code : Nat) : (m.testUnit c code).mem = m.mem := by
  unfold Mach.testUnit
  split <;> simp

theorem Memory.wf_doHardwareFault {m : Mach} (h : Memory.wf m) (c : HwCause) (code : Nat) : Memory.wf (doHardwareFault m c code) := by
  unfold doHardwareFault
  split
  · exact h
  · extract_lets +onlyGivenNames p part record m₁ reform m₂ m₃ m₄
    clear_value p
    have h₁ : Memory.wf m₁ := by simp only [m₁]; split <;> exact h
    have h₂ : Memory.wf m₂ := by
      simp only [m₂]
      clear_value m₁
      split
      next q => exact Memory.wf_of_mem (by simp) (Memory.wf_stopForRecovery h₁ q)
      next => exact h₁
    have h₄ : Memory.wf m₄ := Memory.wf_of_mem (by simp [m₄, m₃]) h₂
    clear_value m₄
    split
    · exact h₄
    · exact Memory.wf_endSave (Memory.wf_of_mem (by simp) h₄) _

@[simp] theorem doBridgeFailure_mem (m : Mach) (b : Nat) : (doBridgeFailure m b).mem = m.mem := by simp [doBridgeFailure]

@[simp] theorem Mach.dropRdmas_mem (m : Mach) (l : Nat) : (m.dropRdmas l).mem = m.mem := by
  unfold Mach.dropRdmas
  grind [Mach.foldl_mem, Mach.rdmaLost_mem, Mach.dropRemote_mem]

@[simp] theorem Mach.dropFwds_mem (m : Mach) (l : Nat) : (m.dropFwds l).mem = m.mem :=
  Mach.foldl_mem (fun _ _ => Mach.foldl_mem (fun _ _ => Mach.foldl_mem (fun _ _ => by simp) _ _) _ _) _ _

@[simp] theorem Mach.dropSaved_mem (m : Mach) (l : Nat) : (m.dropSaved l).mem = m.mem :=
  Mach.foldl_mem (fun _ _ => by simp) _ _

theorem Memory.wf_cutFlows {m : Mach} (h : Memory.wf m) (l : Nat) : Memory.wf (m.cutFlows l) := by
  unfold Mach.cutFlows
  exact Memory.wf_foldl (fun a x ha => (Memory.wf_foldl (fun a x ha => (Memory.wf_cutFlow ha _ _)) _ ha)) _ h

theorem Memory.wf_dropOver {m : Mach} (h : Memory.wf m) (l : Nat) : Memory.wf (m.dropOver l) := by
  unfold Mach.dropOver
  simp [Memory.wf, Memory.wf_cutFlows, h]

theorem Memory.wf_doLinkLoss {m : Mach} (h : Memory.wf m) (l : Nat) : Memory.wf (doLinkLoss m l) := by
  unfold doLinkLoss
  split
  · exact h
  · exact Memory.wf_foldl (fun a p ha => Memory.wf_of_mem (by simp) ha) _ (Memory.wf_dropOver (Memory.wf_of_mem (by simp) h) l)

/-! ## Supervisors and firmware -/

@[simp] theorem Mach.setSup_mem (m : Mach) (s : Nat) (x : SupFlash) : (m.setSup s x).mem = m.mem := rfl
@[simp] theorem Mach.commit_mem (m : Mach) (key v : Nat) : (m.commit key v).mem = m.mem := rfl
@[simp] theorem Mach.bootSup_mem (m : Mach) (s : Nat) : (m.bootSup s).mem = m.mem := rfl
@[simp] theorem Mach.bootOther_mem (m : Mach) (s : Nat) : (m.bootOther s).mem = m.mem := rfl
@[simp] theorem Mach.showSup_mem (m : Mach) (s : Nat) : (m.showSup s).mem = m.mem := rfl
@[simp] theorem doBeat_mem (m : Mach) (s : Nat) : (doBeat m s).mem = m.mem := by simp [doBeat]
@[simp] theorem Mach.showLinks_mem (m : Mach) : m.showLinks.mem = m.mem := rfl
@[simp] theorem Mach.handRole_mem (m : Mach) : m.handRole.mem = m.mem := by simp [Mach.handRole]
@[simp] theorem doTakeover_mem (m : Mach) : (doTakeover m).mem = m.mem := by simp [doTakeover]
@[simp] theorem doSupervisorLost_mem (m : Mach) : (doSupervisorLost m).mem = m.mem := by simp [doSupervisorLost]

theorem Mach.fwCommand_mem {m : Mach} {f : Mach → Option Mach} (hf : ∀ a a', f a = some a' → a'.mem = a.mem) (s v op : Nat) :
    (m.fwCommand s v op f).mem = m.mem := by
  unfold Mach.fwCommand
  dsimp only
  split
  · rfl
  · split
    · rfl
    · split
      · rfl
      · split
        · rfl
        · split
          next m' hm' => simp [hf _ _ hm']
          next => rfl

@[simp] theorem Mach.imageBank_mem (m : Mach) : m.imageBank.1.mem = m.mem := rfl

@[simp] theorem doFwWrite_mem (s v : Nat) (m : Mach) : (doFwWrite s v m).mem = m.mem :=
  Mach.fwCommand_mem (fun a a' ha => by
    dsimp only at ha
    split at ha
    · cases ha
    · cases ha
      simp) _ _ _

@[simp] theorem doFwTrial_mem (s v : Nat) (m : Mach) : (doFwTrial s v m).mem = m.mem :=
  Mach.fwCommand_mem (fun a a' ha => by cases ha; simp) _ _ _

@[simp] theorem doFwReboot_mem (s v : Nat) (m : Mach) : (doFwReboot s v m).mem = m.mem :=
  Mach.fwCommand_mem (fun a a' ha => by cases ha; simp) _ _ _

@[simp] theorem doFwConfirm_mem (s v : Nat) (m : Mach) : (doFwConfirm s v m).mem = m.mem :=
  Mach.fwCommand_mem (fun a a' ha => by cases ha; simp) _ _ _

@[simp] theorem doFwHandover_mem (s v : Nat) (m : Mach) : (doFwHandover s v m).mem = m.mem :=
  Mach.fwCommand_mem (fun a a' ha => by split at ha <;> cases ha; simp) _ _ _

end Sys2Proof.Machine
end

section
/-! SUPPORT. Proofs: what the dictionary, CAN and the host ports leave of the memory. -/

namespace Sys2Proof.Machine

/-! ## Objects -/

@[simp] theorem Mach.latch_mem (m : Mach) (r : ObjRow) (u : Nat) : (m.latch r u).mem = m.mem := by
  unfold Mach.latch
  split <;> simp

@[simp] theorem Mach.readObj_mem (m : Mach) (idx sub : Nat) : (m.readObj idx sub).2.2.mem = m.mem := by
  unfold Mach.readObj
  dsimp only
  split
  · split <;> simp
  · simp

/-! ## Writes of objects -/

@[simp] theorem Mach.portDown_mem (m : Mach) (x : Nat) : (m.portDown x).mem = m.mem := rfl
@[simp] theorem Mach.portRetrain_mem (m : Mach) (x : Nat) : (m.portRetrain x).mem = m.mem := rfl
@[simp] theorem Mach.countLoop_mem (m : Mach) (x : Nat) (seen : LoopSeen) : (m.countLoop x seen).mem = m.mem := rfl

@[simp] theorem Mach.writePcieLoop_mem (m : Mach) (path : Path) (x v : Nat) (seen : LoopSeen) : (m.writePcieLoop path x v seen).mem = m.mem := by
  simp [Mach.writePcieLoop]

@[simp] theorem Mach.sendCan_mem (m : Mach) (ident : Nat) (data : List Byte) : (m.sendCan ident data).mem = m.mem := rfl
@[simp] theorem Mach.bootUp_mem (m : Mach) : m.bootUp.mem = m.mem := by simp [Mach.bootUp]
@[simp] theorem Mach.writeCanLoop_mem (m : Mach) (path : Path) (v : Nat) : (m.writeCanLoop path v).mem = m.mem := by simp [Mach.writeCanLoop]

@[simp] theorem Mach.clearHistory_mem (m : Mach) : m.clearHistory.mem = m.mem := by
  unfold Mach.clearHistory
  exact Mach.foldl_mem (fun _ _ => by simp) _ _

@[simp] theorem Mach.writeHistory_mem (m : Mach) (v : Nat) : (m.writeHistory v).mem = m.mem := by simp [Mach.writeHistory]
@[simp] theorem Mach.writeRestore_mem (m : Mach) (v : Nat) : (m.writeRestore v).mem = m.mem := by simp [Mach.writeRestore]
@[simp] theorem Mach.writeClient_mem (m : Mach) (n sub v : Nat) : (m.writeClient n sub v).mem = m.mem := by simp [Mach.writeClient]

theorem Memory.wf_writePartCommand {m : Mach} (h : Memory.wf m) (p v : Nat) : Memory.wf (m.writePartCommand p v) := by
  refine Memory.wf_partCommand h (fun a ha => ?_) _ _ _
  generalize fld v 19 16 = op
  split
  · exact ha
  · exact Memory.wf_of_mem (by simp) ha
  · exact Memory.wf_doDissolve ha _
  · exact Memory.wf_of_mem (by simp) ha
  · exact ha

@[simp] theorem Mach.writeFwCommand_mem (m : Mach) (s v : Nat) : (m.writeFwCommand s v).mem = m.mem := by
  unfold Mach.writeFwCommand
  split
  case h_6 => exact Mach.fwCommand_mem (fun a a' ha => by cases ha) _ _ _
  all_goals simp

theorem Memory.wf_writeSwatch {m : Mach} (h : Memory.wf m) (n v : Nat) : Memory.wf (m.writeSwatch n v) := by
  unfold Mach.writeSwatch
  split
  · exact Memory.wf_doSwStart h _ _
  · split
    · simp [Memory.wf, h]
    · split
      · exact Memory.wf_of_mem rfl h
      · split <;> exact Memory.wf_of_mem rfl h

theorem Memory.wf_writeSpecial {m m' : Mach} (h : Memory.wf m) (path : Path) (r : ObjRow) (u v : Nat) (hs : m.writeSpecial path r u v = some m') :
    Memory.wf m' := by
  unfold Mach.writeSpecial at hs
  split at hs <;> cases hs
  case h_4 => exact Memory.wf_writePartCommand h _ _
  case h_8 => exact Memory.wf_writeSwatch h _ _
  case h_11 => exact Memory.wf_censusCommand h _ _
  case h_12 => exact Memory.wf_cacheCommand h _ _
  case h_13 => exact Memory.wf_formatCommand h _ _
  case h_15 => exact Memory.wf_doFrog h _ _
  all_goals exact Memory.wf_of_mem (by simp) h

theorem Mach.writeSelected_mem {m m' : Mach} (r : ObjRow) (u v : Nat) (hs : m.writeSelected r u v = some m') : m'.mem = m.mem := by
  unfold Mach.writeSelected at hs
  split at hs <;> cases hs <;> rfl

@[simp] theorem Mach.storeObj_mem (m : Mach) (idx : Nat) (r : ObjRow) (u v : Nat) (commits : Bool) : (m.storeObj idx r u v commits).mem = m.mem := by
  unfold Mach.storeObj
  dsimp only
  split
  · simp
  · split
    · grind [Mach.reply_mem, Mach.writeSelected_mem]
    · simp

theorem Memory.wf_writeObj {m : Mach} (h : Memory.wf m) (path : Path) (idx sub : Nat) (data : List Byte) (commits : Bool) :
    Memory.wf (m.writeObj path idx sub data commits) := by
  unfold Mach.writeObj
  dsimp only
  split
  · split
    · exact h
    · split
      · exact h
      · split
        · grind [Memory.wf_writeSpecial]
        · split
          · exact h
          · split
            · exact h
            · simp [Memory.wf, h]
  · exact h

@[simp] theorem doLinkWrite_mem (l v kind : Nat) (seen : LoopSeen) (m : Mach) : (doLinkWrite l v kind seen m).mem = m.mem := by
  unfold doLinkWrite
  dsimp only
  simp

/-! ## CAN -/

@[simp] theorem Mach.usdoReply_mem (m : Mach) (abort size : Nat) (data : List Byte) : (m.usdoReply abort size data).mem = m.mem := rfl
@[simp] theorem Mach.setUsdo_mem (m : Mach) (x : Option Usdo) : (m.setUsdo x).mem = m.mem := rfl

@[simp] theorem Mach.usdoRead_mem (m : Mach) (idx sub : Nat) : (m.usdoRead idx sub).mem = m.mem := by
  unfold Mach.usdoRead
  split
  · split
    · grind [Mach.usdoReply_mem, Mach.readObj_mem]
    · grind [Mach.setUsdo_mem, Mach.usdoReply_mem, Mach.readObj_mem]
  · simp

theorem Memory.wf_usdoWrite {m : Mach} (h : Memory.wf m) (idx sub : Nat) (data : List Byte) : Memory.wf (m.usdoWrite idx sub data) := by
  unfold Mach.usdoWrite
  dsimp only
  simp [Memory.wf, Memory.wf_writeObj, h]

@[simp] theorem Mach.usdoStart_mem (m : Mach) (idx sub size : Nat) : (m.usdoStart idx sub size).mem = m.mem := by
  unfold Mach.usdoStart
  split <;> simp

theorem Memory.wf_usdoSegment {m : Mach} (h : Memory.wf m) (x : Usdo) (data : List Byte) (last : Bool) : Memory.wf (m.usdoSegment x data last) := by
  unfold Mach.usdoSegment
  dsimp only
  split
  · exact h
  · split
    · simp [Memory.wf, Memory.wf_usdoWrite, h]
    · exact h

@[simp] theorem Mach.usdoMore_mem (m : Mach) (x : Usdo) (n : Nat) : (m.usdoMore x n).mem = m.mem := rfl

theorem Memory.wf_doUsdo {m : Mach} (h : Memory.wf m) (q : UsdoReq) : Memory.wf (doUsdo q m) := by
  unfold doUsdo
  dsimp only
  split
  · split
    · exact Memory.wf_of_mem rfl h
    · simp [Memory.wf, h]
  · split
    · exact Memory.wf_of_mem rfl h
    · split
      · exact Memory.wf_of_mem rfl h
      · exact Memory.wf_usdoWrite h _ _ _
  · split
    · exact Memory.wf_of_mem rfl h
    · simp [Memory.wf, h]
  · split
    · exact Memory.wf_usdoSegment h _ _ _
    · exact Memory.wf_of_mem rfl h
  · split <;> exact Memory.wf_of_mem rfl h
  · exact Memory.wf_of_mem rfl h
  · exact h
  · exact Memory.wf_of_mem rfl h

@[simp] theorem doUsdoTimeout_mem (m : Mach) : (doUsdoTimeout m).mem = m.mem := by
  unfold doUsdoTimeout
  split <;> simp

@[simp] theorem Mach.setNmt_mem (m : Mach) (st : Nat) : (m.setNmt st).mem = m.mem := rfl
@[simp] theorem Mach.resetCan_mem (m : Mach) : m.resetCan.mem = m.mem := by simp [Mach.resetCan]
@[simp] theorem Mach.autostart_mem (m : Mach) : m.autostart.mem = m.mem := by simp [Mach.autostart]
@[simp] theorem Mach.carryRestore_mem (m : Mach) : m.carryRestore.mem = m.mem := rfl

@[simp] theorem doHeartbeat_mem (m : Mach) : (doHeartbeat m).mem = m.mem := by
  unfold doHeartbeat
  split
  · exact Mach.every_mem (fun a => by simp) _ _
  · rfl

@[simp] theorem doTpdo_mem (t : Nat) (m : Mach) : (doTpdo t m).mem = m.mem := by
  unfold doTpdo
  dsimp only
  simp

@[simp] theorem doEmcy_mem (c : EmcyCond) (active : Bool) (detail : Nat) (m : Mach) : (doEmcy c active detail m).mem = m.mem := by simp [doEmcy]
@[simp] theorem doInhibit_mem (m : Mach) : (doInhibit m).mem = m.mem := by simp [doInhibit]
@[simp] theorem doBusOff_mem (m : Mach) : (doBusOff m).mem = m.mem := by simp [doBusOff]
@[simp] theorem doPortLoopTime_mem (x : Nat) (seen : LoopSeen) (m : Mach) : (doPortLoopTime x seen m).mem = m.mem := by simp [doPortLoopTime]
@[simp] theorem doCanLoopTime_mem (m : Mach) : (doCanLoopTime m).mem = m.mem := by simp [doCanLoopTime]
@[simp] theorem doTestFrame_mem (intact : Bool) (m : Mach) : (doTestFrame intact m).mem = m.mem := by simp [doTestFrame]

/-! ## Host ports and mailboxes -/

@[simp] theorem Mach.mbAnswer_mem (m : Mach) (port : Nat) (q : MbReq) (abort total : Nat) (data : List Byte) :
    (m.mbAnswer port q abort total data).mem = m.mem :=
  rfl

@[simp] theorem Mach.doorbell_mem {m : Mach} {f : Mach → Mach} (hf : (f m).mem = m.mem) (port : Nat) : (m.doorbell port f).mem = m.mem := by
  simp [Mach.doorbell, hf]

theorem Memory.wf_doorbell {m : Mach} (h : Memory.wf m) {f : Mach → Mach} (hf : Memory.wf (f m)) (port : Nat) : Memory.wf (m.doorbell port f) := by
  unfold Mach.doorbell
  dsimp only
  split
  · exact h
  · split
    · exact h
    · split
      · exact h
      · exact hf

@[simp] theorem Mach.mbRead_mem (m : Mach) (port : Nat) (q : MbReq) : (m.mbRead port q).mem = m.mem := by
  unfold Mach.mbRead
  dsimp only
  split
  · split
    · simp
    · split
      · simp
      · split
        · simp
        · split <;> simp
  · simp

@[simp] theorem Mach.setPartial_mem (m : Mach) (port : Nat) (x : Option (Nat × Nat × List Byte)) : (m.setPartial port x).mem = m.mem := rfl

theorem Memory.wf_mbApply {m : Mach} (h : Memory.wf m) (port : Nat) (q : MbReq) (bs : List Byte) : Memory.wf (m.mbApply port q bs) := by
  unfold Mach.mbApply
  dsimp only
  simp [Memory.wf, Memory.wf_writeObj, h]

theorem Memory.wf_mbWrite {m : Mach} (h : Memory.wf m) (port : Nat) (q : MbReq) : Memory.wf (m.mbWrite port q) := by
  unfold Mach.mbWrite
  dsimp only
  split
  · split
    · exact Memory.wf_of_mem rfl h
    · split
      · exact Memory.wf_of_mem rfl h
      · split
        · split
          · exact Memory.wf_of_mem rfl h
          · split
            · exact Memory.wf_of_mem rfl h
            · exact Memory.wf_mbApply h _ _ _
        · split
          · exact Memory.wf_of_mem rfl h
          · split
            · exact Memory.wf_of_mem rfl h
            · split
              · exact Memory.wf_mbApply h _ _ _
              · exact Memory.wf_of_mem rfl h
  · exact Memory.wf_of_mem rfl h

theorem Memory.wf_barWrite {m : Mach} (h : Memory.wf m) (s key : Nat) (bs : List Byte) : Memory.wf (m.barWrite s key bs) := by
  unfold Mach.barWrite
  dsimp only
  split
  · refine Memory.wf_wr ?_ _ _
    exact h
  · simp [Memory.wf, Memory.wf_wrAll, Mach.foldl_mem, h]

@[simp] theorem Mach.report_mem (m : Mach) (port : Nat) (k : Aer) : (m.report port k).mem = m.mem := rfl

theorem Memory.wf_doBar2 {m : Mach} (h : Memory.wf m) (port : Nat) (a : BarAcc) : Memory.wf (doBar2 port a m) := by
  unfold doBar2
  dsimp only
  split
  · exact h
  · split
    · exact Memory.wf_of_mem rfl h
    · split
      · split
        · simp [Memory.wf, h]
        · simp [Memory.wf, Memory.wf_barWrite, h]
      · split
        · simp [Memory.wf, h]
        · simp [Memory.wf, Mach.foldl_mem, h]

@[simp] theorem doWbase_mem (port v : Nat) (m : Mach) : (doWbase port v m).mem = m.mem := by simp [doWbase]
@[simp] theorem doUnmask_mem (port vec : Nat) (m : Mach) : (doUnmask port vec m).mem = m.mem := by simp [doUnmask]
@[simp] theorem doPortReset_mem (port : Nat) (cause : PortCause) (m : Mach) : (doPortReset port cause m).mem = m.mem := by simp [doPortReset]
@[simp] theorem doPerst_mem (port : Nat) (trained : Bool) (m : Mach) : (doPerst port trained m).mem = m.mem := by simp [doPerst]

end Sys2Proof.Machine
end

section
/-! SUPPORT. Proofs: what cast-on, the test access port and time leave of the memory. -/

namespace Sys2Proof.Machine

/-! ## Cast-on -/

@[simp] theorem Mach.castBad_mem (m : Mach) (level die clus unit : Nat) (loc : Option (Nat × Nat × Nat)) :
    (m.castBad level die clus unit loc).mem = m.mem :=
  rfl

@[simp] theorem Mach.stackOff_mem (m : Mach) (s reason : Nat) : (m.stackOff s reason).mem = m.mem := by simp [Mach.stackOff]
@[simp] theorem Mach.castLose_mem (m : Mach) (s reason : Nat) : (m.castLose s reason).mem = m.mem := by simp [Mach.castLose]

@[simp] theorem Mach.joinStores_mem (m : Mach) : m.joinStores.mem = m.mem := by
  unfold Mach.joinStores
  dsimp only
  split <;> simp

@[simp] theorem Mach.castSup_mem (m : Mach) (e : CastEnv) : (m.castSup e).mem = m.mem := by
  unfold Mach.castSup
  dsimp only
  simp [Mach.foldl_mem]

@[simp] theorem Mach.castMasters_mem (m : Mach) (e : CastEnv) : (m.castMasters e).mem = m.mem := by
  unfold Mach.castMasters
  dsimp only
  split
  · simp
  · split
    · simp
    · exact Mach.foldl_mem (fun _ _ => by simp) _ _

@[simp] theorem Mach.castDies_mem (m : Mach) (e : CastEnv) : (m.castDies e).mem = m.mem := by
  unfold Mach.castDies
  dsimp only
  grind [Mach.foldl_mem, Mach.setIsland_mem, Mach.setLinkState_mem, Mach.setBit_mem, Mach.stackOff_mem, Mach.repair_mem, Mach.castBad_mem]

@[simp] theorem Mach.hardRepair_mem (m : Mach) (s : Nat) : (m.hardRepair s).mem = m.mem :=
  Mach.foldl_mem (fun _ _ => by simp) _ _

@[simp] theorem Mach.castStacks_mem (m : Mach) (e : CastEnv) : (m.castStacks e).mem = m.mem := by
  unfold Mach.castStacks
  dsimp only
  simp [Mach.foldl_mem]

@[simp] theorem Mach.castCores_mem (m : Mach) (e : CastEnv) : (m.castCores e).mem = m.mem := by
  unfold Mach.castCores
  dsimp only
  grind [Mach.foldl_mem, Mach.repair_mem, Mach.setCore_mem, Mach.castBad_mem]

@[simp] theorem Mach.castMemories_mem (m : Mach) (e : CastEnv) : (m.castMemories e).mem = m.mem := by
  unfold Mach.castMemories
  rw [Mach.foldl_mem, Mach.foldl_mem, Mach.foldl_mem] <;> simp

@[simp] theorem Mach.castLinks_mem (m : Mach) (e : CastEnv) : (m.castLinks e).mem = m.mem := by
  unfold Mach.castLinks
  dsimp only
  exact Mach.foldl_mem (fun _ _ => by simp) _ _

@[simp] theorem Mach.castPorts_mem (m : Mach) (e : CastEnv) : (m.castPorts e).mem = m.mem := rfl

@[simp] theorem Mach.castService_mem (m : Mach) : m.castService.mem = m.mem := by
  unfold Mach.castService
  extract_lets +onlyGivenNames src m₁ m₂
  have h₁ : m₁.mem = m.mem := rfl
  have h₂ : m₂.mem = m.mem := by simp [m₂, h₁]
  split
  · exact h₂
  · rw [Mach.replacement_mem, Mach.foldl_mem, h₂]
    simp

@[simp] theorem Mach.castRest_mem (m : Mach) (e : CastEnv) : (m.castRest e).mem = m.mem := by simp [Mach.castRest]

theorem Memory.wf_cleared (m : Mach) (power : Bool) (ph : Phase) : Memory.wf (m.cleared power ph) := by
  unfold Mach.cleared
  dsimp only
  split <;> exact Mem.wf_nil

theorem Memory.wf_castOn (m : Mach) (power : Bool) (e : CastEnv) : Memory.wf (m.castOn power e) := by
  unfold Mach.castOn
  dsimp only
  split <;> exact Memory.wf_of_mem (by simp) (Memory.wf_cleared m power .waiting)

theorem Memory.wf_doCastOn {m : Mach} (h : Memory.wf m) (e : CastEnv) : Memory.wf (doCastOn e m) := by
  unfold doCastOn
  split
  · split
    · exact Memory.wf_castOn ..
    · exact h
  · exact Memory.wf_castOn ..
  · exact h

@[simp] theorem doQualify_mem (e : CastEnv) (m : Mach) : (doQualify e m).mem = m.mem := by simp [doQualify]
theorem Memory.wf_doShutdown (m : Mach) : Memory.wf (doShutdown m) := Memory.wf_cleared _ _ _

theorem Memory.wf_doVinOut {m : Mach} (h : Memory.wf m) (tenMv : Nat) : Memory.wf (doVinOut tenMv m) := by
  unfold doVinOut
  split
  · exact h
  · exact Memory.wf_cleared _ _ _

theorem Memory.wf_doVinBack {m : Mach} (h : Memory.wf m) (tenMv : Nat) (e : CastEnv) : Memory.wf (doVinBack tenMv e m) := by
  unfold doVinBack
  split
  · exact Memory.wf_castOn _ _ _
  · exact h

theorem Memory.wf_doModRst {m : Mach} (h : Memory.wf m) : Memory.wf (doModRst m) := by
  unfold doModRst
  split
  · exact h
  · exact Memory.wf_cleared _ _ _

/-! ## The test access port -/

@[simp] theorem Mach.releasePins_mem (m : Mach) : m.releasePins.mem = m.mem := by
  unfold Mach.releasePins
  dsimp only
  split
  · rfl
  · split
    · rfl
    · rw [doBusOff_mem, Mach.portRetrain_mem, Mach.portRetrain_mem, Mach.foldl_mem]
      simp

@[simp] theorem Mach.takePins_mem (m : Mach) : m.takePins.mem = m.mem := by
  unfold Mach.takePins
  dsimp only
  split
  · rfl
  · simp only [Mach.portDown_mem]
    rw [Mach.foldl_mem]
    simp

@[simp] theorem doTapPlain_mem (code data : Nat) (m : Mach) : (doTapPlain code data m).mem = m.mem := by simp [doTapPlain]
@[simp] theorem doTapPins_mem (code data : Nat) (m : Mach) : (doTapPins code data m).mem = m.mem := by simp [doTapPins]
@[simp] theorem doTapReset_mem (m : Mach) : (doTapReset m).mem = m.mem := by simp [doTapReset]
@[simp] theorem doSample_mem (data : Nat) (m : Mach) : (doSample data m).mem = m.mem := by simp [doSample]

/-! ## The passing of time -/

@[simp] theorem Mach.tick_mem (m : Mach) : m.tick.mem = m.mem := by
  unfold Mach.tick
  simp [Mach.foldl_mem]

end Sys2Proof.Machine
end

section
/-! SUPPORT. Proofs: every step keeps the memory of the module in canonical form. -/

namespace Sys2Proof.Machine

/-! ## Outcomes -/

/-- The state an outcome goes on with, if it goes on, has its memory in canonical form. -/
def NextInv (r : Result) : Prop := ∀ t, r = .next t → t.Inv

theorem nextInv_always {s : State} (h : s.Inv) {f : Mach → Mach} (hf : ∀ m, Memory.wf m → Memory.wf (f m)) : NextInv (s.always f) := by
  intro t ht
  cases ht
  exact hf _ h

theorem nextInv_step {s : State} (h : s.Inv) {f : Mach → Mach} (hf : ∀ m, Memory.wf m → Memory.wf (f m)) : NextInv (s.step f) :=
  nextInv_always h fun m hm => Memory.wf_ite (hf m hm) hm

theorem nextInv_step_of_mem {s : State} (h : s.Inv) {f : Mach → Mach} (hf : ∀ m, (f m).mem = m.mem) : NextInv (s.step f) :=
  nextInv_step h fun m hm => Memory.wf_of_mem (hf m) hm

/-- A word keeps the memory canonical when its action does: a lost read stores nothing. -/
theorem Memory.wf_issueWord {m : Mach} (h : Memory.wf m) {core : Nat} {checks : Mach → Wx → List (Nat × Nat)} {stall : Mach → Wx → Bool}
    {sel : Mach → Wx → Bool} {act : Mach → Wx → Mach} (ha : ∀ x, Memory.wf (act m x)) : Memory.wf (issue m core sel checks stall act) :=
  Memory.wf_issue h ha fun k a => Memory.wf_of_mem (m.lostRead_mem k a) h

/-! ## Commands and steps -/

/-- Every command keeps the invariant. The first three groups leave the memory alone: words, events in service, and events that come in
any phase. The others may store. -/
theorem exec_nextInv (c : Instr) {s : State} (h : s.Inv) : NextInv (exec c s) := by
  unfold exec
  cases c with
  | nop _ | fault _ | set _ | add _ | dbnz _ | bcmp _ | rctx _ | msig _ | mwait _ | mrst _ | ax _ | ar _ | ldma _ | cdmaLinear _
  | cdmaCopy2d _ | cdmaWindow _ | cdmaPool _ | cdmaCombine _ | cdmaZpack _ | cdmaZunpack _ | rdmaRemoteWrite _ | rdmaReduceAddFp32 _
  | rdmaReduceAddBf16 _ | ptld _ | fwpost _ =>
    exact nextInv_step_of_mem h fun m => issue_mem fun x => by simp
  | linkTrain _ _ | streamEnd _ | streamFetchReturn _ _ | markerUpdate _ _ | waitTimeout _ | tileStart _ _ | arrayEcc _ _ | arrayParity _
  | rampDown _ | rampColumnStep _ | rampUp _ _ | fwDeadline _ _ | fwBufferFree _ _ _ | sqTail _ _ | cqHead _ _ | unload _ | media _
  | input _ | guestUnload _ | guestRun _ | guestSwitch _ | guestReturn _ | guestJobEnd _ | form _ _ | preempt _ _
  | clientBindingWrite _ _ _ _ | appendRound _ _ | sweepStart _ | dataFlitReceive _ _ _ | retry _ _ | retryRepeat _ | hello _ _ _
  | echoReq _ _ | echoRsp _ _ _ _ | loopReq _ _ | loopAck _ _ | farLoopTimeout _ | linkRetrain _ | retrainTimeout _ | signal _ _ | ping _ _
  | pingReply _ _ | messageForward _ _ | responseTimeout _ _ | linkRetrainCommand _ _ _ | linkEnable _ _ _ | linkLoopBack _ _ _ _
  | fabricAddressWrite _ _ | acknowledge _ _ | restoreRequest _ _ | lifelineStream _ | lifelineIntervalExpiry _ | channelRetrain _ _
  | scrubRead _ _ | perBankRefresh _ _ _ _ | selfRefreshEntry _ | selfRefreshExit _ | swatchStop _ _ _ | swatchDone _ _ | mediaSchedule _
  | mailboxRead _ _ | restoreDefaults _ _ | errorHistoryClear _ _ | usdoTimeout | nmtStart _ | nmtStop _ | nmtEnterPreOperational _
  | nmtResetCommunication _ | nmtResetNode _ | heartbeat | emcy _ _ _ | tpdo _ | busOffRecovery | vectorUnmask _ _ | refclkLoss
  | refclkReturn | masterLockLoss _ | sourceSwitch _ _ _ | pendingSwitchStart _ | switchTimeout _ | synthLockLoss _ | clockGate _
  | g1Entry _ | g2Entry _ | opMove _ _ | limiterCompute _ | fastShed _ | thermalCap _ | thermalTrip _ | thermalTripRelease _
  | energyWindow _ | gaugeSample _ _ _ | replan | replanNow _ _ | bridgeFailure _ | supervisorHeartbeat _ | takeover | firmwareWrite _ _ _
  | trial _ _ _ | reboot _ _ _ | confirm _ _ _ | handover _ _ _ | censusCommandDone _ | selectedSlotRecordRead _ | pcieLoopBack _ _ _ _
  | loopBackTimeout _ _ | canLoopBack _ _ | canTestFrame _ | healthSample _ | emcyInhibitExpiry | supervisorLost | bar2WindowBaseWrite _ _ =>
    exact nextInv_step_of_mem h fun m => by simp
  | refclkQualify _ | perstDeassert _ _ | portReset _ _ | tapReset | idcode | samplePreload _ | extest _ | clamp _ | highz _
  | extestPulse _ | extestTrain _ | bypass _ =>
    exact nextInv_always h fun m hm => Memory.wf_of_mem (by simp) hm
  | castOn env => exact nextInv_always h fun m hm => Memory.wf_doCastOn hm env
  | shutdown => exact nextInv_always h fun m _ => Memory.wf_doShutdown m
  | vinOutOfRange tenMv => exact nextInv_always h fun m hm => Memory.wf_doVinOut hm tenMv
  | vinReturn tenMv env => exact nextInv_always h fun m hm => Memory.wf_doVinBack hm tenMv env
  | modRstAssert => exact nextInv_always h fun m hm => Memory.wf_doModRst hm
  | halt _ => exact nextInv_step h fun m hm => Memory.wf_issueWord hm fun x => Memory.wf_doHalt hm x
  | tileComplete core => exact nextInv_step h fun m hm => Memory.wf_doTileComplete hm core
  | drainRowWrite core => exact nextInv_step h fun m hm => Memory.wf_doDrainRow hm core
  | vopAdd _ | vopSub _ | vopMul _ | vopFma _ | vopMax _ | vopMin _ | vopAbs _ | vopNeg _ | vopCvt _ | vopRsum _ | vopRmax _ | vopRmin _
  | vopRssq _ =>
    exact nextInv_step h fun m hm => Memory.wf_issueWord hm fun x => Memory.wf_doVop hm x
  | sfnExp2 _ | sfnLog2 _ | sfnReciprocal _ | sfnRsqrt _ | sfnTanh _ | sfnSigmoid _ | sfnErf _ | sfnGeluErf _ | sfnGeluTanh _
  | sfnUserFunction _ =>
    exact nextInv_step h fun m hm => Memory.wf_issueWord hm fun x => Memory.wf_doSfn hm x
  | fwPostAccept part win => exact nextInv_step h fun m hm => Memory.wf_doFwAccept hm part win
  | dmaComplete core n => exact nextInv_step h fun m hm => Memory.wf_doDmaComplete hm core n
  | dmaEcc core n unit => exact nextInv_step h fun m hm => Memory.wf_doDmaEcc hm core n unit
  | jobStopComplete part => exact nextInv_step h fun m hm => Memory.wf_doJobEnd hm part
  | cancel client v => exact nextInv_step h fun m hm => Memory.wf_doCancel hm client v
  | completionRecord client => exact nextInv_step h fun m hm => Memory.wf_doCompletion hm client
  | run part => exact nextInv_step h fun m hm => Memory.wf_doRun hm part
  | load part hw => exact nextInv_step h fun m hm => Memory.wf_doLoad hm part hw
  | guestLoad part hw => exact nextInv_step h fun m hm => Memory.wf_doGuestLoad hm part hw
  | formationDone part => exact nextInv_step h fun m hm => Memory.wf_doFormed hm part
  | dissolve part _ => exact nextInv_step h fun m hm => Memory.wf_partCommand hm (fun a ha => Memory.wf_doDissolve ha part) _ _ _
  | save part cuts => exact nextInv_step h fun m hm => Memory.wf_doSave hm part cuts
  | saveComplete part => exact nextInv_step h fun m hm => Memory.wf_doSaveComplete hm part
  | restore part => exact nextInv_step h fun m hm => Memory.wf_doRestore hm part
  | append part cix => exact nextInv_step h fun m hm => Memory.wf_doEntry hm part cix false
  | refill part cix => exact nextInv_step h fun m hm => Memory.wf_doEntry hm part cix true
  | engineStallRetry part cix => exact nextInv_step h fun m hm => Memory.wf_doStallRetry hm part cix
  | release part v | pin part v | unpin part v => exact nextInv_step h fun m hm => Memory.wf_ite (Memory.wf_cacheCommand hm part v) hm
  | contributionAdd part rid tile => exact nextInv_step h fun m hm => Memory.wf_doContributionAdd hm part rid tile
  | creditGrant link msg => exact nextInv_step h fun m hm => Memory.wf_onMsg hm (Memory.wf_doCreditGrant hm link msg)
  | stateReadComplete part rid tile => exact nextInv_step h fun m hm => Memory.wf_doStateRead hm part rid tile
  | tileUpdate part rid tile => exact nextInv_step h fun m hm => Memory.wf_doTileUpdate hm part rid tile
  | roundClose part => exact nextInv_step h fun m hm => Memory.wf_doRoundClose hm part
  | formatCommand part v => exact nextInv_step h fun m hm => Memory.wf_ite (Memory.wf_formatCommand hm part v) hm
  | write link msg | radd32 link msg | radd16 link msg =>
    exact nextInv_step h fun m hm => Memory.wf_onMsg hm (Memory.wf_doRequest hm link msg)
  | resp link msg => exact nextInv_step h fun m hm => Memory.wf_onMsg hm (Memory.wf_doResp hm link msg)
  | lifelineData link msg => exact nextInv_step h fun m hm => Memory.wf_onMsg hm (Memory.wf_doLifeData hm link msg)
  | commit link msg => exact nextInv_step h fun m hm => Memory.wf_onMsg hm (Memory.wf_doCommit hm link msg)
  | restoreData link msg => exact nextInv_step h fun m hm => Memory.wf_onMsg hm (Memory.wf_doRestoreData hm link msg)
  | memoryAccess chan reqs => exact nextInv_step h fun m hm => Memory.wf_doAccess hm chan reqs
  | swatchStart _ chan v => exact nextInv_step h fun m hm => Memory.wf_byPath hm (Memory.wf_doSwStart hm chan v)
  | mediaOpen _ => exact nextInv_step h fun m hm => Memory.wf_doMedia hm (fun a p b ha => Memory.wf_of_mem (doOpen_mem ..) ha) _ _ _
  | mediaClose _ => exact nextInv_step h fun m hm => Memory.wf_doMedia hm (fun a p b ha => Memory.wf_of_mem (doClose_mem ..) ha) _ _ _
  | decode engine _ => exact nextInv_step h fun m hm => Memory.wf_doMedia hm (fun a p b ha => Memory.wf_doDecode ha engine false p b) _ _ _
  | encode engine _ => exact nextInv_step h fun m hm => Memory.wf_doMedia hm (fun a p b ha => Memory.wf_doEncode ha engine p b) _ _ _
  | jpeg engine _ => exact nextInv_step h fun m hm => Memory.wf_doMedia hm (fun a p b ha => Memory.wf_jpegFile ha engine b false) _ _ _
  | voxel engine _ => exact nextInv_step h fun m hm => Memory.wf_doMedia hm (fun a p b ha => Memory.wf_voxelFile ha engine b) _ _ _
  | mediaWatchdog engine => exact nextInv_step h fun m hm => Memory.wf_doWatchdog hm engine
  | mediaComplete engine => exact nextInv_step h fun m hm => Memory.wf_doMedComplete hm engine
  | inputOpen part => exact nextInv_step h fun m hm => Memory.wf_doInputOpen hm part
  | submit part => exact nextInv_step h fun m hm => Memory.wf_doSubmit hm part
  | inputClose part => exact nextInv_step h fun m hm => Memory.wf_doInputClose hm part
  | batchPublish part => exact nextInv_step h fun m hm => Memory.wf_doPublish hm part
  | consumedPoll part => exact nextInv_step h fun m hm => Memory.wf_doPoll hm part
  | mailboxWrite port req => exact nextInv_step h fun m hm => Memory.wf_ite hm (Memory.wf_doorbell hm (Memory.wf_mbWrite hm port req) port)
  | objectWrite path idx sub data => exact nextInv_step h fun m hm => Memory.wf_byPath hm (Memory.wf_writeObj hm path idx sub data true)
  | rwpWrite path idx sub data commits =>
    exact nextInv_step h fun m hm => Memory.wf_ite (Memory.wf_byPath hm (Memory.wf_writeObj hm path idx sub data commits)) hm
  | usdo req => exact nextInv_step h fun m hm => Memory.wf_byPath hm (Memory.wf_doUsdo hm req)
  | bar2Access port acc => exact nextInv_step h fun m hm => Memory.wf_doBar2 hm port acc
  | g3Entry g => exact nextInv_step h fun m hm => Memory.wf_doG3 hm g
  | idleWake island => exact nextInv_step h fun m hm => Memory.wf_doWake hm island
  | hardwareFault cause code => exact nextInv_step h fun m hm => Memory.wf_doHardwareFault hm cause code
  | linkLoss link => exact nextInv_step h fun m hm => Memory.wf_doLinkLoss hm link
  | frog part v => exact nextInv_step h fun m hm => Memory.wf_doFrog hm part v
  | autoFrog part => exact nextInv_step h fun m hm => Memory.wf_doAutoFrog hm part
  | censusDump part v | censusClear part v | censusDumpClear part v =>
    exact nextInv_step h fun m hm => Memory.wf_ite (Memory.wf_censusCommand hm part v) hm

/-- On an empty queue a step is a tick, which leaves the memory alone. -/
theorem State.idle_inv {s : State} (h : s.Inv) : s.idle.Inv := Memory.wf_of_mem s.mach.tick_mem h

/-- Settles O58: at reset no byte of the memory has been written. -/
theorem invReset : Obligations.InvReset := Mem.wf_nil

/-- Settles O59: a step is the command at the front of the queue or, on an empty queue, a tick; each keeps the memory canonical. -/
theorem invStep : Obligations.InvStep := by
  intro s t h ht
  unfold step at ht
  split at ht
  next c rest _ => exact exec_nextInv c (s := { s with pending := rest }) h t ht
  next =>
    cases ht
    exact State.idle_inv h

end Sys2Proof.Machine
end

section
/-! SUPPORT. Proofs: what flags, the census of stores and stored pieces change, and which core a word belongs to. -/

namespace Sys2Proof.Machine

/-! ## Pieces stored in order -/

/-- Storing pieces changes the memory and its uncorrectable halves: nothing else. -/
theorem Mach.wrAll_only (m : Mach) (ws : List (Nat × List Byte)) :
    m.wrAll ws = { m with mem := (m.wrAll ws).mem, bad := (m.wrAll ws).bad } := by
  induction ws generalizing m with
  | nil => rfl
  | cons w t ih => exact ih (m.wr w.1 w.2)

theorem Mach.wrAll_mem (m : Mach) (ws : List (Nat × List Byte)) :
    (m.wrAll ws).mem = ws.foldl (fun c w => Mem.write c w.1 w.2) m.mem := by
  induction ws generalizing m with
  | nil => rfl
  | cons w t ih => exact ih (m.wr w.1 w.2)

/-- What pieces leave in memory depends on the memory alone. -/
theorem Mach.wrAll_mem_congr {m m' : Mach} (h : m.mem = m'.mem) (ws : List (Nat × List Byte)) : (m.wrAll ws).mem = (m'.wrAll ws).mem := by
  rw [Mach.wrAll_mem, Mach.wrAll_mem, h]

@[simp] theorem Mach.wrAll_objs (m : Mach) (ws : List (Nat × List Byte)) : (m.wrAll ws).objs = m.objs := by rw [Mach.wrAll_only]
@[simp] theorem Mach.wrAll_cores (m : Mach) (ws : List (Nat × List Byte)) : (m.wrAll ws).cores = m.cores := by rw [Mach.wrAll_only]
@[simp] theorem Mach.wrAll_ports (m : Mach) (ws : List (Nat × List Byte)) : (m.wrAll ws).ports = m.ports := by rw [Mach.wrAll_only]
@[simp] theorem Mach.wrAll_census (m : Mach) (ws : List (Nat × List Byte)) : (m.wrAll ws).census = m.census := by rw [Mach.wrAll_only]

/-! ## Flags and the census of stores -/

/-- Setting flags changes the object that holds them: nothing else. -/
theorem Mach.setFlags_only (m : Mach) (p fl : Nat) : m.setFlags p fl = { m with objs := (m.setFlags p fl).objs } := by
  unfold Mach.setFlags
  split <;> rfl

@[simp] theorem Mach.setFlags_census (m : Mach) (p fl : Nat) : (m.setFlags p fl).census = m.census := by rw [Mach.setFlags_only]

/-- The flags of a result join those that are set (R66). -/
@[simp] theorem Mach.obj_setFlags (m : Mach) (p fl : Nat) : (m.setFlags p fl).obj (0x6080 + p) 2 = m.obj (0x6080 + p) 2 ||| fl := by
  unfold Mach.setFlags
  split
  · simp_all
  · simp

theorem SameObjs.setFlags (m : Mach) (p fl : Nat) : SameObjs [okey (0x6080 + p) 2] m (m.setFlags p fl) := by
  unfold Mach.setFlags
  split
  · exact SameObjs.refl m _
  · exact SameObjs.setObj m _ _ _ (by simp)

/-- Counting a block in a slot changes the census and, where a counter reaches its top, the partition's flags: nothing else. -/
theorem Mach.addCensus_only (m : Mach) (p t : Nat) (ns : List Nat) :
    m.addCensus p t ns = { m with objs := (m.addCensus p t ns).objs, census := (m.addCensus p t ns).census } ∧
      SameObjs [okey (0x6080 + p) 2] m (m.addCensus p t ns) := by
  unfold Mach.addCensus
  refine List.foldlRecOn (motive := fun a => a = { m with objs := a.objs, census := a.census } ∧ SameObjs [okey (0x6080 + p) 2] m a)
    _ _ ⟨rfl, SameObjs.refl m _⟩ fun a ha e _ => ?_
  obtain ⟨hfields, hobjs⟩ := ha
  dsimp only
  split
  · exact ⟨hfields, hobjs⟩
  · split
    · refine ⟨?_, SameObjs.trans hobjs (SameObjs.setFlags _ p _)⟩
      rw [Mach.setFlags_only, hfields]
    · exact ⟨by rw [hfields], hobjs⟩

/-- Counting a store changes the census and the partition's flags: nothing else. -/
theorem Mach.countStore_only (m : Mach) (p : Nat) (cen : Bool) (tag : Nat) (blocks : List (List Val)) :
    m.countStore p cen tag blocks =
      { m with objs := (m.countStore p cen tag blocks).objs, census := (m.countStore p cen tag blocks).census } ∧
      SameObjs [okey (0x6080 + p) 2] m (m.countStore p cen tag blocks) := by
  unfold Mach.countStore
  split
  · refine List.foldlRecOn (motive := fun a => a = { m with objs := a.objs, census := a.census } ∧ SameObjs [okey (0x6080 + p) 2] m a)
      _ _ ⟨rfl, SameObjs.refl m _⟩ fun a ha b _ => ?_
    obtain ⟨hfields, hobjs⟩ := ha
    obtain ⟨hfields', hobjs'⟩ := Mach.addCensus_only a p tag (blockCounts b)
    exact ⟨by rw [hfields', hfields], SameObjs.trans hobjs hobjs'⟩
  · exact ⟨rfl, SameObjs.refl m _⟩

/-- A store whose word does not tag it is not counted (R67). -/
@[simp] theorem Mach.countStore_untagged (m : Mach) (p tag : Nat) (blocks : List (List Val)) : m.countStore p false tag blocks = m := rfl

/-! ## The word of a core -/

theorem Mach.seatIf_core {m : Mach} {core : Nat} {ok : Nat → Core → Bool} {x : Wx} (h : m.seatIf core ok = some x) : x.core = core := by
  unfold Mach.seatIf at h
  split at h
  · cases h
  · split at h
    · cases h
    · dsimp only at h
      split at h
      · cases h
      · split at h
        · cases h; rfl
        · cases h

/-- The word that a core issues is its own. -/
theorem Issues.core_eq {s : State} {core : Nat} {x : Wx} {checks : Mach → Wx → List (Nat × Nat)} {stall : Mach → Wx → Bool}
    (h : Issues s core x checks stall) : x.core = core :=
  Mach.seatIf_core (Option.filter_eq_some_iff.mp h.word).1

end Sys2Proof.Machine
end

section
/-! SUPPORT. Proofs: vector words (R128 to R130). -/

namespace Sys2Proof.Machine

/-! ## The row of a word -/

/-- A row of Table 4-14 runs the words of its FUNC. -/
theorem exec_vopRow {f core : Nat} {c : Instr} (h : vopRow f core = some c) (s : State) : exec c s = runVop f core s := by
  unfold vopRow at h
  split at h <;> cases h <;> rfl

/-! ## What a vector word stores -/

/-- Pieces stored with their flags, and counted in the census where they are tagged (R66, R67). -/
def Mach.storeCounted (m : Mach) (p : Nat) (ws : List (Nat × List Byte)) (fl : Nat) (cen : Bool) (tag : Nat) (blocks : List (List Val)) : Mach :=
  ((m.wrAll ws).setFlags p fl).countStore p cen tag blocks

section
variable (m : Mach) (p : Nat) (ws : List (Nat × List Byte)) (fl : Nat) (cen : Bool) (tag : Nat) (blocks : List (List Val))

/-- Such a store changes memory, flags and census: nothing else. -/
theorem Mach.storeCounted_only : m.storeCounted p ws fl cen tag blocks = { m with
    mem := (m.storeCounted p ws fl cen tag blocks).mem
    bad := (m.storeCounted p ws fl cen tag blocks).bad
    objs := (m.storeCounted p ws fl cen tag blocks).objs
    census := (m.storeCounted p ws fl cen tag blocks).census } := by
  unfold Mach.storeCounted
  rw [(Mach.countStore_only ..).1, Mach.setFlags_only, Mach.wrAll_only]

theorem Mach.storeCounted_mem : (m.storeCounted p ws fl cen tag blocks).mem = (m.wrAll ws).mem := by simp [Mach.storeCounted]

theorem Mach.storeCounted_sameObjs : SameObjs [okey (0x6080 + p) 2] m (m.storeCounted p ws fl cen tag blocks) :=
  SameObjs.trans (SameObjs.trans (SameObjs.of_objs _ (Mach.wrAll_objs m ws)) (SameObjs.setFlags _ p fl)) (Mach.countStore_only ..).2

/-- An untagged store leaves the census, and sets its flags alone. -/
theorem Mach.storeCounted_untagged : (m.storeCounted p ws fl false tag blocks).census = m.census ∧
    (m.storeCounted p ws fl false tag blocks).obj (0x6080 + p) 2 = m.obj (0x6080 + p) 2 ||| fl := by
  simp only [Mach.storeCounted, Mach.countStore_untagged, Mach.setFlags_census, Mach.wrAll_census, Mach.obj_setFlags, true_and]
  rw [Mach.obj_eq_of_objs (Mach.wrAll_objs m ws)]

end

/-- A vector or special-function word whose pieces are good to write: they are stored, its context moves on, and flags and census take what the word
calls for (R57, R66, R67, R123). -/
theorem vecStore_effect {m : Mach} {x : Wx} {vs : List Val} {fl fo mode : Nat} {sat cen : Bool} {tag dkey : Nat} {unit : Bool}
    {st : List (Nat × List Byte) × Nat} (hst : vecOut m x vs fo mode sat dkey unit = st) (hw : m.badWrite st.1 = none) :
    let m' := vecStore m x vs fl fo mode sat cen tag dkey unit
    Stores st.1 m m' ∧
    OneCore x.core ((m.core x.core).setCtx x.guest { ((m.core x.core).ctx x.guest).bumpBase vs.length with pc := x.ctx.pc + 1 }) m m' ∧
    m' = { m with
      cores := m'.cores
      acts := m'.acts
      mem := m'.mem
      bad := m'.bad
      objs := m'.objs
      census := m'.census } ∧
    SameObjs [okey (0x6080 + x.p) 2] m m' ∧
    (cen = false → m'.census = m.census ∧ m'.obj (0x6080 + x.p) 2 = m.obj (0x6080 + x.p) 2 ||| (fl ||| st.2)) := by
  intro m'
  have hm' : m' = (m.storeCounted x.p st.1 (fl ||| st.2) cen tag (chunks 32 (vs.length + 1) vs)).modCtx x.core x.guest
      (fun c => { c.bumpBase vs.length with pc := x.ctx.pc + 1 }) := by
    simp only [m', vecStore, hst, hw, Mach.storeCounted]
  generalize hblocks : chunks 32 (vs.length + 1) vs = blocks at hm'
  have honly := m.storeCounted_only x.p st.1 (fl ||| st.2) cen tag blocks
  have hcore : ∀ c, (m.storeCounted x.p st.1 (fl ||| st.2) cen tag blocks).core c = m.core c := fun c => by rw [honly]; rfl
  rw [hm']
  refine ⟨Stores.of_mem (Mach.storeCounted_mem ..), ⟨?_, fun c hc => ?_⟩, ?_,
    SameObjs.trans (m.storeCounted_sameObjs x.p st.1 (fl ||| st.2) cen tag blocks) (SameObjs.of_objs _ rfl), fun hcen => ?_⟩
  · simp [Mach.modCtx, hcore]
  · rw [Mach.modCtx, Mach.core_setCore, if_neg (Ne.symm hc), hcore]
  · rw [honly]; rfl
  · subst hcen
    exact Mach.storeCounted_untagged ..

/-! ## The values of a vector word -/

theorem length_chunks {α : Type} {n : Nat} (hn : 0 < n) (k fuel : Nat) (l : List α) (hl : l.length = k * n) (hk : k ≤ fuel) :
    (chunks n fuel l).length = k := by
  induction fuel generalizing k l with
  | zero => simp [chunks, Nat.le_zero.mp hk]
  | succ fuel ih =>
    cases k with
    | zero => simp [chunks, List.length_eq_zero_iff.mp (hl.trans (Nat.zero_mul n))]
    | succ k =>
      have hne : l.isEmpty = false := by
        rw [← Bool.not_eq_true, List.isEmpty_iff, ← List.length_eq_zero_iff, hl]
        exact (Nat.mul_pos k.succ_pos hn).ne'
      have hd : (l.drop n).length = k * n := by rw [List.length_drop, hl, Nat.succ_mul, Nat.add_sub_cancel]
      simp [chunks, hne, ih k _ hd (Nat.le_of_succ_le_succ hk)]

/-- Elements in whole groups of a width of Table 7-1: as many are unpacked as the bytes hold (R51). -/
theorem length_unpackElems {w n e : Nat} {bs : List Byte} (he : groupBytes w * 8 / w = e) (hg : 0 < groupBytes w) (k : Nat)
    (hn : n = k * e) (hk : k ≤ n) (hb : bs.length = k * groupBytes w) : (unpackElems w n bs).length = n := by
  have hc := length_chunks hg k (n + 1) bs hb (by omega)
  simp [unpackElems, List.length_flatMap, he, hc, ← hn]

/-- The widths of Table 7-1. -/
theorem widthOf_cases (fmt : Nat) : widthOf fmt ∈ [32, 16, 8, 6, 4, 1] := by
  unfold widthOf
  split <;> decide

/-- The bytes of 64 j elements unpack to as many elements, in every format (R51). -/
theorem length_unpackElems_widthOf (fmt j : Nat) (bs : List Byte) (hb : bs.length = cdiv (64 * j * widthOf fmt) 8) :
    (unpackElems (widthOf fmt) (64 * j) bs).length = 64 * j := by
  have hw := widthOf_cases fmt
  generalize widthOf fmt = w at hw hb ⊢
  unfold cdiv at hb
  simp only [List.mem_cons, List.not_mem_nil, or_false] at hw
  rcases hw with rfl | rfl | rfl | rfl | rfl | rfl
  · exact length_unpackElems (e := 1) rfl (by decide) (64 * j) (by omega) (by omega) (by change _ = _ * 4; omega)
  · exact length_unpackElems (e := 1) rfl (by decide) (64 * j) (by omega) (by omega) (by change _ = _ * 2; omega)
  · exact length_unpackElems (e := 1) rfl (by decide) (64 * j) (by omega) (by omega) (by change _ = _ * 1; omega)
  · exact length_unpackElems (e := 4) rfl (by decide) (16 * j) (by omega) (by omega) (by change _ = _ * 3; omega)
  · exact length_unpackElems (e := 2) rfl (by decide) (32 * j) (by omega) (by omega) (by change _ = _ * 1; omega)
  · exact length_unpackElems (e := 8) rfl (by decide) (8 * j) (by omega) (by omega) (by change _ = _ * 1; omega)

/-- An operand of a vector word has as many values as the word has elements (R129). -/
theorem Mach.length_vecVals (m : Mach) (key fmt j : Nat) : (m.vecVals key fmt (64 * j)).length = 64 * j := by
  have hb : (m.rd key (cdiv (64 * j * widthOf fmt) 8)).length = cdiv (64 * j * widthOf fmt) 8 := Mem.length_read ..
  unfold Mach.vecVals
  dsimp only
  split <;> simp [length_unpackElems_widthOf fmt j _ hb]

/-- The values of A of a vector word, and those of B: one element broadcast where bit 91 is set (R128). -/
def vopA (m : Mach) (x : Wx) : List Val := m.vecVals (x.ref m (x.f 78 55)).key (x.f 113 109) (vopN x.w)

def vopB (m : Mach) (x : Wx) : List Val :=
  if bit x.w 91 then List.replicate (vopN x.w) ((m.vecVals (x.ref m (x.f 54 31)).key (x.f 113 109) 1).headD (.zero false))
  else m.vecVals (x.ref m (x.f 54 31)).key (x.f 113 109) (vopN x.w)

theorem length_vopA (m : Mach) (x : Wx) : (vopA m x).length = vopN x.w := Mach.length_vecVals ..

theorem map_zip_zip_self {α β γ : Type} (g : α → β → α → γ) (a : List α) (b : List β) :
    ((a.zip b).zip a).map (fun e => g e.1.1 e.1.2 e.2) = List.zipWith (fun u v => g u v u) a b := by
  induction a generalizing b with
  | nil => rfl
  | cons u a ih =>
    cases b with
    | nil => rfl
    | cons v b => simp [ih]

/-- A function of A and B, element by element (Table 4-14). -/
theorem vopVals_of_binary {m : Mach} {x : Wx} {f : Nat} (hf : x.f 119 114 = f) (hb : vopTakesB f = true) (h3 : f ≠ 3) :
    (vopVals m x).1 = List.zipWith (fun u v => (vopElem f u v u).1) (vopA m x) (vopB m x) := by
  have hr : vopReduces f = false := by simp_all [vopTakesB, vopReduces]; omega
  rw [← map_zip_zip_self (fun u v d => (vopElem f u v d).1)]
  simp [vopVals, hf, hr, hb, h3, vopA, vopB, Function.comp_def]

/-- A function of A alone (Table 4-14). -/
theorem vopVals_of_unary {m : Mach} {x : Wx} {f : Nat} (hf : x.f 119 114 = f) (hb : vopTakesB f = false) (hr : vopReduces f = false) :
    (vopVals m x).1 = (vopA m x).map (fun u => (vopElem f u u u).1) := by
  have h3 : f ≠ 3 := by rintro rfl; cases hb
  rw [← List.zipWith_self (f := fun u v => (vopElem f u v u).1), ← map_zip_zip_self (fun u v d => (vopElem f u v d).1)]
  simp [vopVals, hf, hr, hb, h3, vopA, Function.comp_def]

/-- FMA takes the old destination's values as its addend (Table 4-14). -/
theorem vopVals_of_fma {m : Mach} {x : Wx} (hf : x.f 119 114 = 3) :
    (vopVals m x).1 = List.zipWith (fun u v => (vopElem 3 u.1 u.2 v).1) ((vopA m x).zip (vopB m x))
      (m.vecVals (x.ref m (x.f 30 7)).key (x.f 108 104) (vopN x.w)) := by
  rw [← List.map_uncurry_zip_eq_zipWith]
  simp [vopVals, hf, vopReduces, vopTakesB, vopA, vopB, Function.comp_def, Function.uncurry_def]

/-- A reduction stores one value (R130). -/
theorem vopVals_of_reduces {m : Mach} {x : Wx} (hr : vopReduces (x.f 119 114) = true) :
    (vopVals m x).1 = [(reduceVals (x.f 119 114) (vopA m x)).1] := by
  simp [vopVals, hr, vopA]

/-- A word of a row of Table 4-14 that issues has its effect. -/
theorem gives_vop {s : State} {core : Nat} {x : Wx} {c : Instr} (h : Issues s core x checksVop stallVop) (ho : opcOf x.w = 0x18)
    (hc : vopRow (x.f 119 114) core = some c) : Gives c s (doVop s.mach x) := by
  have hs : selVop (x.f 119 114) s.mach x = true := by simp [selVop, ho]
  rw [← issue_issues (act := doVop) h hs]
  exact gives_step c s (fun m => issue m core (selVop (x.f 119 114)) checksVop stallVop doVop) (exec_vopRow hc s) h.up

/-- Settles O12: the word of a row issues and stores its values, which are those of its function element by element. -/
theorem vectorOperations : Obligations.VectorOperations := by
  constructor
  · intro s core x c h ho hc v st k hw
    have hg := gives_vop h ho hc
    obtain ⟨hstores, hcore, hfields, hobjs, hflags⟩ := vecStore_effect (fl := v.2) (cen := bit x.w 100) (tag := x.f 99 92)
      (st := st) rfl hw
    rw [h.core_eq] at hcore
    exact ⟨_, hg, hstores, hcore, hfields, hobjs, hflags⟩
  · intro m x f n a b d r32
    refine ⟨fun hf => ?_, fun hf => ?_, fun hf => ?_, fun hf => ?_, fun hf => ?_, fun hf => ?_, fun hf => ?_, fun hf => ?_, fun hf => ?_,
      fun hf => ?_, length_vopA m x, rfl⟩
    · exact vopVals_of_binary hf rfl (by decide)
    · exact vopVals_of_binary hf rfl (by decide)
    · exact vopVals_of_binary hf rfl (by decide)
    · exact vopVals_of_fma hf
    · exact vopVals_of_binary hf rfl (by decide)
    · exact vopVals_of_binary hf rfl (by decide)
    · exact vopVals_of_unary hf rfl rfl
    · exact vopVals_of_unary hf rfl rfl
    · exact (vopVals_of_unary hf rfl rfl).trans (List.map_id _)
    · exact vopVals_of_reduces (by simpa [vopReduces] using hf)

end Sys2Proof.Machine
end

section
/-! SUPPORT. Proofs: what a fault of a core leaves: its record, the stopped context, the job's end, the recovery entry (R151 to R153, R412). -/

namespace Sys2Proof.Machine

/-! ## Stopped contexts -/

/-- A context that has stopped is left as it is when its job stops. -/
theorem Ctx.run_cut_of_stopped {x y : Ctx} (rc : Nat) (h : x.run = y.stop.run) : (x.cut rc).run = y.stop.run := by
  cases hy : y.run <;> simp_all [Ctx.stop, Ctx.cut]

/-- A job that stops leaves a context that has already stopped as it is. -/
theorem Mach.run_stopCores_of_stopped (m : Mach) (p core : Nat) (guest : Bool) {y : Ctx} (h : ((m.core core).ctx guest).run = y.stop.run) :
    (((m.stopCores p guest).core core).ctx guest).run = y.stop.run := by
  unfold Mach.stopCores
  refine List.foldlRecOn (motive := fun a : Mach => ((a.core core).ctx guest).run = y.stop.run) _ _ h fun a ha c _ => ?_
  have hctx : ∀ (k : Core) (r : Arr), { k with arr := r }.ctx guest = k.ctx guest := fun _ _ => by cases guest <;> rfl
  have hdrop : ∀ (c : Nat), (a.dropWaits c guest).core core = a.core core := fun _ => rfl
  rw [Mach.core_setCore]
  split
  · subst_vars
    rw [hctx, Core.ctx_setCtx_same]
    exact Ctx.run_cut_of_stopped _ ha
  · rw [hdrop]; exact ha

/-! ## The end of a faulted job -/

theorem Mach.stopRounds_only (m : Mach) (p : Nat) :
    m.stopRounds p = { m with objs := (m.stopRounds p).objs, parts := (m.stopRounds p).parts } := by
  unfold Mach.stopRounds
  dsimp only
  split <;> rfl

theorem SameObjs.stopRounds (m : Mach) (p : Nat) : SameObjs [okey (0x6480 + p) 0xF] m (m.stopRounds p) := by
  unfold Mach.stopRounds
  dsimp only
  split
  · exact SameObjs.setBit m _ _ _ _ (by simp)
  · exact SameObjs.refl m _

theorem SameObjs.stopJob (m : Mach) (j : Job) (guest : Bool) (status detail : Nat) :
    SameObjs [okey (0x6480 + j.part) 0xF] m (m.stopJob j guest status detail) := by
  have h : SameObjs [okey (0x6480 + j.part) 0xF] m ((m.modJob j (fun x => { x with st := .stopping status detail })).stopCores j.part guest) :=
    SameObjs.of_objs _ (by simp)
  unfold Mach.stopJob
  dsimp only
  split
  · exact h
  · exact SameObjs.trans h (SameObjs.stopRounds _ _)

@[simp] theorem Mach.stopJob_jobs (m : Mach) (j : Job) (guest : Bool) (status detail : Nat) :
    (m.stopJob j guest status detail).jobs = (m.modJob j (fun x => { x with st := .stopping status detail })).jobs := by
  unfold Mach.stopJob
  dsimp only
  split
  · rw [Mach.stopCores_jobs]
  · rw [Mach.stopRounds_only]; exact Mach.stopCores_jobs ..

@[simp] theorem Mach.stopJob_hwWait (m : Mach) (j : Job) (guest : Bool) (status detail : Nat) :
    (m.stopJob j guest status detail).hwWait = m.hwWait := by
  unfold Mach.stopJob
  dsimp only
  split
  · simp
  · rw [Mach.stopRounds_only]; simp

/-- A job that stops leaves a context that has already stopped as it is. -/
theorem Mach.run_stopJob_of_stopped (m : Mach) (j : Job) (status detail core : Nat) (guest : Bool) {y : Ctx}
    (h : ((m.core core).ctx guest).run = y.stop.run) : (((m.stopJob j guest status detail).core core).ctx guest).run = y.stop.run := by
  have h' := Mach.run_stopCores_of_stopped (m.modJob j (fun x => { x with st := .stopping status detail })) j.part core guest h
  unfold Mach.stopJob
  dsimp only
  split
  · exact h'
  · rw [Mach.stopRounds_only]; exact h'

/-- The module with the fault of a job counted and recorded (R152, R153). -/
def Mach.faultRecorded (m : Mach) (p : Nat) (guest : Bool) (j : Job) (record : List Byte) : Mach :=
  ((if guest then m else m.addObj (0x6280 + p) 3 1).setObj (faultIdx p guest).1 (faultIdx p guest).2 (leNat record)).modJob j
    (fun x => { x with faulted := true })

/-- Recording a fault changes the dictionary and marks the job: nothing else. -/
theorem Mach.faultRecorded_only (m : Mach) (p : Nat) (guest : Bool) (j : Job) (record : List Byte) :
    m.faultRecorded p guest j record =
      { m with objs := (m.faultRecorded p guest j record).objs, jobs := (m.faultRecorded p guest j record).jobs } := by
  cases guest <;> rfl

/-- The first fault of a job that runs: it is recorded, the job stops with it, and the fault vector is raised. -/
theorem Mach.jobFault_of_running {m : Mach} {p code : Nat} {guest : Bool} {j : Job} (record : Job → List Byte)
    (hj : m.jobOf p guest = some j) (hr : j.st = .running) :
    m.jobFault p guest code record = ((m.faultRecorded p guest j (record j)).stopJob j guest 1 code).raise (512 + p) := by
  simp [Mach.jobFault, Mach.faultRecorded, hj, hr]

/-- What a fault leaves of a job that runs, and of the core's context that has stopped. -/
theorem Mach.jobFault_effect {m m' : Mach} {p core code : Nat} {guest : Bool} {j : Job} {record : Job → List Byte} {y : Ctx}
    (hj : m.jobOf p guest = some j) (hr : j.st = .running) (hy : ((m.core core).ctx guest).run = y.stop.run)
    (hm' : m' = m.jobFault p guest code record) :
    m'.obj (faultIdx p guest).1 (faultIdx p guest).2 = leNat (record j) ∧ ((m'.core core).ctx guest).run = y.stop.run ∧
      (∀ k ∈ m'.jobs, k.same j = true → k.st = .stopping 1 code) ∧ m'.hwWait = m.hwWait := by
  rw [Mach.jobFault_of_running record hj hr] at hm'
  have honly := m.faultRecorded_only p guest j (record j)
  have hobj : (m.faultRecorded p guest j (record j)).obj (faultIdx p guest).1 (faultIdx p guest).2 = leNat (record j) :=
    Mach.obj_setObj_same ..
  generalize m.faultRecorded p guest j (record j) = recorded at hm' honly hobj
  have hcore : recorded.core core = m.core core := by rw [honly]; rfl
  have hkey : okey (faultIdx p guest).1 (faultIdx p guest).2 ∉ [okey (0x6480 + j.part) 0xF] := by
    cases guest <;> simp only [List.mem_singleton, faultIdx, okey, Bool.false_eq_true, if_true, if_false] <;> omega
  subst hm'
  refine ⟨?_, ?_, fun k hk hs => ?_, ?_⟩
  · rw [Mach.obj_eq_of_objs (Mach.raise_objs ..), SameObjs.stopJob _ _ _ _ _ _ _ hkey, hobj]
  · simpa [Mach.core] using Mach.run_stopJob_of_stopped recorded j 1 code core guest (y := y) (by rw [hcore]; exact hy)
  · rw [Mach.raise_jobs, Mach.stopJob_jobs, Mach.modJob_jobs, List.mem_map] at hk
    obtain ⟨i, -, rfl⟩ := hk
    by_cases hi : i.same j = true
    · rw [if_pos hi]
    · rw [if_neg hi] at hs; exact absurd hs hi
  · rw [Mach.raise_hwWait, Mach.stopJob_hwWait, honly]

/-! ## A fault of a core -/

/-- The module once the core's context and its array have stopped, and a hardware fault has entered the recovery path (R152). -/
def Mach.faultStopped (m : Mach) (p core : Nat) (guest : Bool) (code : Nat) : Mach :=
  let k := m.core core
  let stopped := (m.setCore core { (k.setCtx guest (k.ctx guest).stop) with arr := k.arr.stop (m.arrCtl core) }).dropWaits core guest
  if hwCode code then { stopped with hwWait := stopped.hwWait ++ [(code, p, core)] } else stopped

section
variable (m : Mach) (p core : Nat) (guest : Bool) (code : Nat)

/-- A fault of a core is a fault of its job, with the record taken once the core has stopped. -/
theorem Mach.fault_eq (opc pc info : Nat) : m.fault p core guest code opc pc info = (m.faultStopped p core guest code).jobFault p guest code
    (fun j => faultRecord (m.faultStopped p core guest code) core code opc pc j.tag j.genr info) := rfl

@[simp] theorem Mach.faultStopped_jobs : (m.faultStopped p core guest code).jobs = m.jobs := by
  unfold Mach.faultStopped
  dsimp only
  split <;> rfl

@[simp] theorem Mach.faultStopped_rc : (m.faultStopped p core guest code).rc = m.rc := by
  unfold Mach.faultStopped
  dsimp only
  split <;> rfl

theorem Mach.core_faultStopped : (m.faultStopped p core guest code).core core =
    { ((m.core core).setCtx guest ((m.core core).ctx guest).stop) with arr := (m.core core).arr.stop (m.arrCtl core) } := by
  unfold Mach.faultStopped
  dsimp only
  split <;> exact Mach.core_setCore_same ..

theorem Mach.mem_hwWait_faultStopped (h : hwCode code = true) : (code, p, core) ∈ (m.faultStopped p core guest code).hwWait := by
  simp [Mach.faultStopped, h]

end

/-- A command that ends in a fault of a core's context takes it, where the module it faults in has the job, the core and the time of the state. -/
theorem Faults.of_fault {c : Instr} {s : State} {m : Mach} {p core code opc pc info : Nat} {guest : Bool}
    (hg : Gives c s (m.fault p core guest code opc pc info)) (hj : m.jobs = s.mach.jobs) (hrc : m.rc = s.mach.rc)
    (hslot : (m.core core).slot = (s.mach.core core).slot) (hctx : (m.core core).ctx guest = (s.mach.core core).ctx guest) :
    Faults c s p core guest code opc pc info := by
  intro j hjob hrun
  have hcore := m.core_faultStopped p core guest code
  have hslot' : ((m.faultStopped p core guest code).core core).slot = (s.mach.core core).slot := by
    rw [hcore, ← hslot]; cases guest <;> rfl
  have hstopped : (((m.faultStopped p core guest code).core core).ctx guest).run = ((s.mach.core core).ctx guest).stop.run := by
    rw [hcore, ← hctx]; cases guest <;> rfl
  have hjob' : (m.faultStopped p core guest code).jobOf p guest = some j := by
    rw [← hjob]; simp only [Mach.jobOf, Mach.guestJob, Mach.resJob, Mach.faultStopped_jobs, hj]
  have hrec : faultRecord (m.faultStopped p core guest code) core code opc pc j.tag j.genr info =
      faultRecord s.mach core code opc pc j.tag j.genr info := by
    simp only [faultRecord, hslot', Mach.faultStopped_rc, hrc]
  obtain ⟨hobj, hctx', hjobs, hwait⟩ := Mach.jobFault_effect hjob' hrun hstopped (m.fault_eq p core guest code opc pc info)
  refine ⟨_, hg, ?_, hctx', hjobs, fun hh => hwait ▸ m.mem_hwWait_faultStopped p core guest code hh⟩
  rw [← hrec, ← hobj]; cases guest <;> rfl

end Sys2Proof.Machine
end

section
/-! SUPPORT. Proofs: the rows of a tile that drain to memory or to a reduction buffer (R83 to R85, R101, R256, R257, R260). -/

namespace Sys2Proof.Machine

/-! ## The parts of DRAIN_ROW_WRITE -/

/-- The bank a drain empties. -/
def Arr.drainBank (a : Arr) (d : Drain) : Bank := a.banks.getD d.bank Bank.idle

/-- The row of a drain that leaves next, converted: its bytes, its scales and the flags (R83, R65, R123). -/
def Mach.drainRow (m : Mach) (p core : Nat) (d : Drain) : List Byte × List Byte × Nat :=
  let ax := d.op.ax.toNat
  encodeStore (axFD ax)
    ((List.range 64).map (fun j => rndAt (m.srKeyOf p d.op.guest) (fld ax 101 100) (bit ax 99) d.op.stream (d.op.elem d.tile (d.left - 1) j)))
    (drainVals ((m.core core).arr.drainBank d) d.op.cmps (d.left - 1))

/-- The CMPS indices of that row (R88). -/
def Arr.drainIdx (a : Arr) (d : Drain) : List Byte :=
  if d.op.cmps then (List.range 64).flatMap (fun j => leBytes 4 ((a.drainBank d).idx.getD (64 * (d.left - 1) + j) 0xFFFFFFFF)) else []

/-- The pieces that a row stores in memory (R101, R199). -/
def Mach.drainPieces (m : Mach) (p core : Nat) (d : Drain) : List (Nat × List Byte) :=
  rowWrites d.op d.tile (d.left - 1) (m.drainRow p core d).1 (m.drainRow p core d).2.1 ((m.core core).arr.drainIdx d)

/-- The array once the row has left: the drain keeps its other rows, or ends and its bank is idle (R83). -/
def Arr.afterRow (a : Arr) (d : Drain) (rest : List Drain) : Arr :=
  { a with
    drains := if d.left - 1 = 0 then rest else { d with left := d.left - 1 } :: rest
    banks := if d.left - 1 = 0 then a.banks.set d.bank { a.drainBank d with held := false, vals := [], idx := [] } else a.banks }

/-- A real row of the last tile of a batch signals its marker (R101). -/
def Mach.rowSignal (m : Mach) (core : Nat) (d : Drain) : Mach :=
  match d.op.batch.bind (fun b => b.rows[d.left - 1]?) with
  | some r => if d.tile + 1 = d.op.t then m.signal (core / 256) r.marker 1 else m
  | none => m

/-- What follows a row that has left: its marker and, after row 0, the end of its batch (R101, R102). -/
def Mach.rowEnd (m : Mach) (p core : Nat) (d : Drain) : Mach :=
  if d.left - 1 = 0 then (m.rowSignal core d).endBatch p core d.op else m.rowSignal core d

/-- The module with the row gone from the array. -/
def Mach.rowGone (m : Mach) (core : Nat) (d : Drain) (rest : List Drain) : Mach :=
  m.modArr core (fun a => a.afterRow d rest)

/-- A row counted: its flags are set, and the census counts the tile with its last row (R66, R69). -/
def Mach.rowCounted (n m : Mach) (p core : Nat) (d : Drain) : Mach :=
  (n.setFlags p (m.drainRow p core d).2.2).countDrain p ((m.core core).arr.drainBank d) d

section
variable {m : Mach} {core p : Nat} {d : Drain} {rest : List Drain} (hp : m.partOf (core / 16) = some p)
  (hd : (m.core core).arr.drains = d :: rest)
include hp hd

theorem doDrainRow_padding (hr : d.op.realRow (d.left - 1) = false) :
    doDrainRow m core = ((m.rowGone core d rest).rowEnd p core d).settle p := by
  simp only [doDrainRow, hd, hp, hr]
  rfl

theorem doDrainRow_memory (hr : d.op.realRow (d.left - 1) = true) (hb : d.op.rbuf = none) (hw : m.badWrite (m.drainPieces p core d) = none) :
    doDrainRow m core = ((((m.rowGone core d rest).wrAll (m.drainPieces p core d)).rowCounted m p core d).rowEnd p core d).settle p := by
  simp only [doDrainRow, hd, hp, hr, hb, Option.getD_some, Bool.not_true, Bool.false_eq_true, if_false]
  split
  next b hbad => cases hw.symm.trans hbad
  next => rfl

theorem doDrainRow_lost (hr : d.op.realRow (d.left - 1) = true) (hb : d.op.rbuf = none) {b : Nat}
    (hw : m.badWrite (m.drainPieces p core d) = some b) :
    doDrainRow m core = (m.modArr core (fun a => { a with drains := rest })).fault p core d.op.guest 0x45 0x11 d.op.pc (chipOff b) := by
  simp only [doDrainRow, hd, hp, hr, hb, Option.getD_some, Bool.not_true, Bool.false_eq_true, if_false]
  split
  next b' hbad => cases hw.symm.trans hbad; rfl
  next hgood => cases hw.symm.trans hgood

theorem doDrainRow_starves (hr : d.op.realRow (d.left - 1) = true) {id : Nat} (hb : d.op.rbuf = some id)
    (ht : m.rbufTakes p id core = false) : doDrainRow m core = m.rbufStarve p id core := by
  simp only [doDrainRow, hd, hp, hr, hb, Option.getD_some, Bool.not_true, Bool.false_eq_true, if_false, ht, Bool.not_false, if_true]

theorem doDrainRow_reduction (hr : d.op.realRow (d.left - 1) = true) {id : Nat} (hb : d.op.rbuf = some id)
    (ht : m.rbufTakes p id core = true) :
    doDrainRow m core = ((((m.rowGone core d rest).rowCounted m p core d).rbufRow p id core (d.left - 1)
      (m.drainRow p core d).1).rowEnd p core d).settle p := by
  simp only [doDrainRow, hd, hp, hr, hb, Option.getD_some, Bool.not_true, Bool.false_eq_true, if_false, ht]
  rfl

end

theorem ArOp.realRow_of_batch {o : ArOp} {b : Batch} (h : o.batch = some b) (i : Nat) : o.realRow i = decide (i < b.rows.length) := by
  simp only [ArOp.realRow, h]

theorem ArOp.realRow_of_no_batch {o : ArOp} (h : o.batch = none) (i : Nat) : o.realRow i = true := by
  simp only [ArOp.realRow, h]

/-! ## What each part changes -/

theorem Mach.core_modArr_same (m : Mach) (c : Nat) (f : Arr → Arr) : (m.modArr c f).core c = { m.core c with arr := f (m.core c).arr } :=
  Mach.core_setCore_same ..

theorem Mach.rowGone_core (m : Mach) (core : Nat) (d : Drain) (rest : List Drain) :
    OneCore core { m.core core with arr := (m.core core).arr.afterRow d rest } m (m.rowGone core d rest) :=
  OneCore.setCore m core _

@[simp] theorem Mach.rowGone_mem (m : Mach) (core : Nat) (d : Drain) (rest : List Drain) : (m.rowGone core d rest).mem = m.mem := rfl
@[simp] theorem Mach.rowGone_ports (m : Mach) (core : Nat) (d : Drain) (rest : List Drain) : (m.rowGone core d rest).ports = m.ports := rfl

/-- A counted row changes the flags of its partition and the census: nothing else. -/
theorem Mach.rowCounted_only (n m : Mach) (p core : Nat) (d : Drain) :
    n.rowCounted m p core d = { n with objs := (n.rowCounted m p core d).objs, census := (n.rowCounted m p core d).census } ∧
      SameObjs [okey (0x6080 + p) 2] n (n.rowCounted m p core d) := by
  have hflags := SameObjs.setFlags n p (m.drainRow p core d).2.2
  unfold Mach.rowCounted Mach.countDrain
  split
  · obtain ⟨hfields, hobjs⟩ := Mach.countStore_only (n.setFlags p (m.drainRow p core d).2.2) p (bit d.op.ax.toNat 97)
      (fld d.op.ax.toNat 96 89) (drainBlocks ((m.core core).arr.drainBank d) d.op)
    exact ⟨by rw [hfields, Mach.setFlags_only], SameObjs.trans hflags hobjs⟩
  · exact ⟨by rw [Mach.setFlags_only], hflags⟩

@[simp] theorem Mach.rowCounted_mem (n m : Mach) (p core : Nat) (d : Drain) : (n.rowCounted m p core d).mem = n.mem := by
  rw [(Mach.rowCounted_only ..).1]
@[simp] theorem Mach.rowCounted_cores (n m : Mach) (p core : Nat) (d : Drain) : (n.rowCounted m p core d).cores = n.cores := by
  rw [(Mach.rowCounted_only ..).1]
@[simp] theorem Mach.rowCounted_ports (n m : Mach) (p core : Nat) (d : Drain) : (n.rowCounted m p core d).ports = n.ports := by
  rw [(Mach.rowCounted_only ..).1]
@[simp] theorem Mach.rowCounted_parts (n m : Mach) (p core : Nat) (d : Drain) : (n.rowCounted m p core d).parts = n.parts := by
  rw [(Mach.rowCounted_only ..).1]

theorem Mach.rowSignal_only (m : Mach) (core : Nat) (d : Drain) : m.rowSignal core d = { m with ports := (m.rowSignal core d).ports } := by
  unfold Mach.rowSignal
  split
  · split <;> rfl
  · rfl

@[simp] theorem Mach.rowSignal_mem (m : Mach) (core : Nat) (d : Drain) : (m.rowSignal core d).mem = m.mem := by rw [Mach.rowSignal_only]
@[simp] theorem Mach.rowSignal_cores (m : Mach) (core : Nat) (d : Drain) : (m.rowSignal core d).cores = m.cores := by rw [Mach.rowSignal_only]

/-- The message queues after a row depend on the message queues before it alone. -/
theorem Mach.rowSignal_ports {m m' : Mach} (h : m'.ports = m.ports) (core : Nat) (d : Drain) :
    (m'.rowSignal core d).ports = match d.op.batch.bind (fun b => b.rows[d.left - 1]?) with
      | some r => if d.tile + 1 = d.op.t then (m.signal (core / 256) r.marker 1).ports else m.ports
      | none => m.ports := by
  unfold Mach.rowSignal
  cases d.op.batch.bind (fun b => b.rows[d.left - 1]?) with
  | none => exact h
  | some r =>
    dsimp only
    split
    · simp [Mach.signal, h]
    · exact h

/-- The tag list that a row stores: row 0, when its batch has nothing left to stream or to drain (R101). -/
def Mach.rowTags (m : Mach) (core : Nat) (d : Drain) : List (Nat × List Byte) :=
  match d.op.batch with
  | some b => if d.left - 1 = 0 ∧ (m.core core).arr.offBatch b = true then [(d.op.tkey, tagList b)] else []
  | none => []

/-- What a row's tag list is depends on the cores alone. -/
theorem Mach.rowTags_congr {m m' : Mach} (h : m'.cores = m.cores) (core : Nat) (d : Drain) : m'.rowTags core d = m.rowTags core d := by
  have hc : m'.core core = m.core core := by simp only [Mach.core, h]
  simp only [Mach.rowTags, hc]

/-- What follows a row stores the tag list and sends the row's signal, and no core changes. -/
theorem Mach.rowEnd_effect (m : Mach) (p core : Nat) (d : Drain) :
    (m.rowEnd p core d).mem = (m.wrAll (m.rowTags core d)).mem ∧ (m.rowEnd p core d).cores = m.cores ∧
      (m.rowEnd p core d).ports = (m.rowSignal core d).ports := by
  let n := m.rowSignal core d
  have hn : n.mem = m.mem ∧ n.cores = m.cores := ⟨Mach.rowSignal_mem .., Mach.rowSignal_cores ..⟩
  have hcore : n.core core = m.core core := by simp only [Mach.core, hn.2]
  by_cases hi : d.left - 1 = 0
  · have he : m.rowEnd p core d = n.endBatch p core d.op := if_pos hi
    rw [he]
    cases hb : d.op.batch with
    | none => simp [Mach.endBatch, Mach.rowTags, hb, Mach.wrAll, n]
    | some b =>
      cases ho : (m.core core).arr.offBatch b with
      | false => simp [Mach.endBatch, Mach.rowTags, hb, hcore, ho, Mach.wrAll, n]
      | true => simp [Mach.endBatch, Mach.rowTags, hb, hcore, ho, hi, Mach.wrAll, Mach.modPart, n]
  · have he : m.rowEnd p core d = n := if_neg hi
    have ht : m.rowTags core d = [] := by
      unfold Mach.rowTags
      split <;> simp [hi]
    rw [he, ht]
    exact ⟨hn.1, hn.2, rfl⟩

/-! ## Rows to memory -/

/-- What a row that has left the array of `m` leaves in `m'`: the drain's other rows, and after row 0 its bank idle, the rest of the core and the other
cores as they were, and the row's signal sent (R83, R101). -/
def RowLeft (m : Mach) (core : Nat) (d : Drain) (rest : List Drain) (m' : Mach) : Prop :=
  let k := m.core core
  let i := d.left - 1
  (m'.core core).arr.drains = (if i = 0 then rest else { d with left := i } :: rest) ∧ (m'.core core).arr.queue = k.arr.queue ∧
  (i = 0 → (m'.core core).arr.banks = k.arr.banks.set d.bank { k.arr.drainBank d with held := false, vals := [], idx := [] }) ∧
  (i ≠ 0 → (m'.core core).arr.banks = k.arr.banks) ∧ (m'.core core).host = k.host ∧ (∀ c, c ≠ core → m'.core c = m.core c) ∧
  m'.ports = (match d.op.batch.bind (fun b => b.rows[i]?) with
    | some r => if d.tile + 1 = d.op.t then (m.signal (core / 256) r.marker 1).ports else m.ports
    | none => m.ports)

/-- A row whose pieces are in memory and that has left the array: what follows it stores the tag list besides, and leaves the row as it has left. -/
theorem Mach.rowEnd_leaves {m n : Mach} {p core : Nat} {d : Drain} {rest : List Drain} {ws : List (Nat × List Byte)}
    (hcores : n.cores = (m.rowGone core d rest).cores) (hports : n.ports = m.ports) (hmem : n.mem = (m.wrAll ws).mem) :
    Stores (ws ++ (n.rowEnd p core d).rowTags core d) m (n.rowEnd p core d) ∧ RowLeft m core d rest (n.rowEnd p core d) := by
  obtain ⟨hmem', hcores', hports'⟩ := n.rowEnd_effect p core d
  obtain ⟨hcore, hother⟩ := m.rowGone_core core d rest
  have hcoreAt : ∀ c, (n.rowEnd p core d).core c = (m.rowGone core d rest).core c := fun c => by
    simp only [Mach.core, hcores', hcores]
  constructor
  · refine Stores.of_mem ?_
    rw [hmem', Mach.rowTags_congr hcores', show m.wrAll (ws ++ n.rowTags core d) = (m.wrAll ws).wrAll (n.rowTags core d) from List.foldl_append]
    exact Mach.wrAll_mem_congr hmem _
  · refine ⟨?_, ?_, fun hi => ?_, fun hi => ?_, ?_, fun c hc => ?_, ?_⟩
    · rw [hcoreAt, hcore]; rfl
    · rw [hcoreAt, hcore]; rfl
    · rw [hcoreAt, hcore]; exact if_pos hi
    · rw [hcoreAt, hcore]; exact if_neg hi
    · rw [hcoreAt, hcore]
    · rw [hcoreAt, hother c hc]
    · rw [hports']; exact Mach.rowSignal_ports hports core d

theorem gives_drainRowWrite {s : State} (core : Nat) (hr : s.mach.phase = .running) : Gives (.drainRowWrite core) s (doDrainRow s.mach core) :=
  gives_step _ s (fun m => doDrainRow m core) rfl hr

/-! ## Rows to a reduction buffer -/

/-- The partition's clusters stand in an object of their own. -/
theorem Mach.clusters_of_sameObjs {m m' : Mach} {q : Nat} (h : SameObjs [okey (0x6080 + q) 2] m m') (p : Nat) :
    m'.clusters p = m.clusters p := by
  have hkey : okey (pix p) 3 ∉ [okey (0x6080 + q) 2] := by simp only [List.mem_singleton, okey]; omega
  simp only [Mach.clusters, h _ _ hkey]

/-- Modules whose partitions and clusters agree have the same reduction buffers, at the same places. -/
theorem Mach.rb_congr {m m' : Mach} (h : m'.parts = m.parts) (p id : Nat) : m'.rb p id = m.rb p id ∧ m'.rbRec p id = m.rbRec p id := by
  simp only [Mach.rb, Mach.rbRec, Mach.part, h, and_self]

@[simp] theorem Mach.rb_setRb_same (m : Mach) (p id : Nat) (b : RBuf) : (m.setRb p id b).rb p id = some b := by
  simp [Mach.rb, Mach.setRb, Mach.modPart]

@[simp] theorem Mach.rbRec_setRb (m : Mach) (p id : Nat) (b : RBuf) (i : Nat) : (m.setRb p id b).rbRec p i = m.rbRec p i := by
  simp [Mach.rbRec, Mach.setRb, Mach.modPart]

/-- The contribution that a contributor's next row belongs to: the one that is open, or one begun with a credit (R260). -/
def RBuf.opened (b : RBuf) (c : Nat) : RBuf := if (b.open? c).isSome then b else b.begin' c

/-- A row of a local contributor reaches the staging tile of its contribution; no core and no message queue changes (R256). -/
theorem Mach.rbufRow_effect {m : Mach} {p id core row c : Nat} {els : List Byte} {b : RBuf} {r : List Byte} {t : Staged} (hb : m.rb p id = some b)
    (hr : m.rbRec p id = some r) (hl : m.rbLocal p r core = some c) (ht : (b.opened c).open? c = some t) :
    (m.rbufRow p id core row els).mem = Mem.write m.mem (m.rbStageKey p r c t.place + 256 * row) els ∧
      (m.rbufRow p id core row els).cores = m.cores ∧ (m.rbufRow p id core row els).ports = m.ports := by
  have hrow : m.rbufRow p id core row els = (m.setRb p id (b.opened c)).rbLand p id c (256 * row) els := by
    simp only [Mach.rbufRow, hb, hr, hl]; rfl
  rw [hrow]
  simp only [Mach.rbLand, Mach.rb_setRb_same, Mach.rbRec_setRb, hr, ht]
  exact ⟨rfl, rfl, rfl⟩

/-- A buffer whose contributor has no contribution open and no credit takes no row (R260). -/
theorem Mach.rbufTakes_iff {m : Mach} {p id core c : Nat} {b : RBuf} {r : List Byte} (hb : m.rb p id = some b)
    (hr : m.rbRec p id = some r) (hl : m.rbLocal p r core = some c) :
    m.rbufTakes p id core = true ↔ b.open? c ≠ none ∨ 0 < b.credits.getD c 0 := by
  simp [Mach.rbufTakes, hb, hr, hl, Option.isSome_iff_ne_none]

@[simp] theorem Mach.rbufStarve_cores (m : Mach) (p id core : Nat) : (m.rbufStarve p id core).cores = m.cores := by
  unfold Mach.rbufStarve
  split
  · split
    · split <;> rfl
    · rfl
  · rfl

/-- What a drain to memory stores and leaves, and where it faults. -/
theorem drains_to_memory (s : State) (core p : Nat) (d : Drain) (rest : List Drain) (hrun : s.mach.phase = .running)
    (hp : s.mach.partOf (core / 16) = some p) (hd : (s.mach.core core).arr.drains = d :: rest) (hb : d.op.rbuf = none) :
    let i := d.left - 1
    (∀ b, d.op.batch = some b → b.rows.length ≤ i → ∃ m, Gives (.drainRowWrite core) s (m.settle p) ∧
      Stores (m.rowTags core d) s.mach m ∧ RowLeft s.mach core d rest m) ∧
    ((∀ b, d.op.batch = some b → i < b.rows.length) →
      (s.mach.badWrite (s.mach.drainPieces p core d) = none → ∃ m, Gives (.drainRowWrite core) s (m.settle p) ∧
        Stores (s.mach.drainPieces p core d ++ m.rowTags core d) s.mach m ∧ RowLeft s.mach core d rest m) ∧
      (∀ b, s.mach.badWrite (s.mach.drainPieces p core d) = some b →
        Faults (.drainRowWrite core) s p core d.op.guest 0x45 0x11 d.op.pc (chipOff b))) := by
  intro i
  have hg := gives_drainRowWrite core hrun
  constructor
  · intro b hbatch hpad
    have hreal : d.op.realRow i = false := by rw [ArOp.realRow_of_batch hbatch]; simpa using hpad
    rw [doDrainRow_padding hp hd hreal] at hg
    exact ⟨_, hg, Mach.rowEnd_leaves (ws := []) rfl rfl rfl⟩
  · intro hrows
    have hreal : d.op.realRow i = true := by
      cases hbatch : d.op.batch with
      | none => exact ArOp.realRow_of_no_batch hbatch i
      | some b => rw [ArOp.realRow_of_batch hbatch]; simpa using hrows b hbatch
    constructor
    · intro hw
      rw [doDrainRow_memory hp hd hreal hb hw] at hg
      refine ⟨_, hg, Mach.rowEnd_leaves (by simp) (by simp) ?_⟩
      rw [Mach.rowCounted_mem]
      exact Mach.wrAll_mem_congr (Mach.rowGone_mem ..) _
    · intro b hw
      rw [doDrainRow_lost hp hd hreal hb hw] at hg
      refine Faults.of_fault hg rfl rfl ?_ ?_
      · rw [Mach.core_modArr_same]
      · rw [Mach.core_modArr_same]; cases d.op.guest <;> rfl

/-- What a drain to a reduction buffer stores and leaves, and where it stalls. -/
theorem drains_to_reduction (s : State) (core p id c : Nat) (d : Drain) (rest : List Drain) (b : RBuf) (r : List Byte)
    (hrun : s.mach.phase = .running) (hp : s.mach.partOf (core / 16) = some p) (hd : (s.mach.core core).arr.drains = d :: rest)
    (hid : d.op.rbuf = some id) (hbatch : d.op.batch = none) (hb : s.mach.rb p id = some b) (hr : s.mach.rbRec p id = some r)
    (hl : s.mach.rbLocal p r core = some c) :
    (b.open? c = none → b.credits.getD c 0 = 0 →
      ∃ m, Gives (.drainRowWrite core) s m ∧ m.mem = s.mach.mem ∧ m.cores = s.mach.cores) ∧
    (∀ t, b.open? c ≠ none ∨ 0 < b.credits.getD c 0 → (b.opened c).open? c = some t → ∃ m, Gives (.drainRowWrite core) s (m.settle p) ∧
      Stores [(s.mach.rbStageKey p r c t.place + 256 * (d.left - 1), (s.mach.drainRow p core d).1)] s.mach m ∧
      RowLeft s.mach core d rest m) := by
  have hg := gives_drainRowWrite core hrun
  have hreal := ArOp.realRow_of_no_batch hbatch (d.left - 1)
  have htakes := Mach.rbufTakes_iff hb hr hl
  constructor
  · intro hopen hcred
    have hstarve : s.mach.rbufTakes p id core = false := by
      rw [← Bool.not_eq_true, htakes, hopen, hcred]; simp
    rw [doDrainRow_starves hp hd hreal hid hstarve] at hg
    exact ⟨_, hg, by simp, by simp⟩
  · intro t hready ht
    rw [doDrainRow_reduction hp hd hreal hid (htakes.mpr hready)] at hg
    let gone := s.mach.rowGone core d rest
    let n := gone.rowCounted s.mach p core d
    have hn : n.parts = s.mach.parts ∧ n.cores = gone.cores ∧ n.mem = s.mach.mem ∧ n.ports = s.mach.ports :=
      ⟨Mach.rowCounted_parts .., Mach.rowCounted_cores .., Mach.rowCounted_mem .., Mach.rowCounted_ports ..⟩
    obtain ⟨hparts, hcores, hmem, hports⟩ := hn
    obtain ⟨hrb, hrec⟩ := Mach.rb_congr hparts p id
    have hclusters : n.clusters p = s.mach.clusters p := Mach.clusters_of_sameObjs (m := gone) (Mach.rowCounted_only ..).2 p
    have hlocal : n.rbLocal p r core = some c := by rw [← hl]; simp only [Mach.rbLocal, hclusters]
    have hkey : n.rbStageKey p r c t.place = s.mach.rbStageKey p r c t.place := by simp only [Mach.rbStageKey, Mach.rbKey, hclusters]
    obtain ⟨hmem', hcores', hports'⟩ := Mach.rbufRow_effect (row := d.left - 1) (els := (s.mach.drainRow p core d).1) (hrb.trans hb) (hrec.trans hr)
      hlocal ht
    have hstored : (n.rbufRow p id core (d.left - 1) (s.mach.drainRow p core d).1).mem =
        (s.mach.wrAll [(s.mach.rbStageKey p r c t.place + 256 * (d.left - 1), (s.mach.drainRow p core d).1)]).mem := by
      rw [hmem', hkey, hmem]; rfl
    obtain ⟨hstores, hleft⟩ := Mach.rowEnd_leaves (p := p) (hcores'.trans hcores) (hports'.trans hports) hstored
    have htags : ∀ m : Mach, m.rowTags core d = [] := fun m => by simp only [Mach.rowTags, hbatch]
    rw [htags, List.append_nil] at hstores
    exact ⟨_, hg, hstores, hleft⟩

/-- Settles O11: the row leaves the array, its pieces and what follows it are stored, or its half is lost; a reduction buffer stalls or takes it. -/
theorem drains : Obligations.Drains := by
  constructor
  · intro s core p d rest hrun hp k o i ax bank rs st idx ws tags next hd hb
    exact drains_to_memory s core p d rest hrun hp hd hb
  · intro s core p id c d rest b r hrun hp hd hid hbatch hb hr hl i ax rs els b'
    obtain ⟨hstall, htake⟩ := drains_to_reduction s core p id c d rest b r hrun hp hd hid hbatch hb hr hl
    refine ⟨hstall, fun t hready ht => ?_⟩
    obtain ⟨m, hg, hstores, hdrains, -⟩ := htake t hready ht
    exact ⟨m, hg, hstores, hdrains⟩

end Sys2Proof.Machine
end

section
/-! SUPPORT. Proofs: the census commands and the read of the selected slot (R71, Table 2-12). -/

namespace Sys2Proof.Machine

/-! ## Slots -/

@[simp] theorem Mach.censusClear_objs (m : Mach) (p t : Nat) : (m.censusClear p t).objs = m.objs := rfl

/-- A cleared slot reads 0, and every other counter as before. -/
theorem Mach.census_censusClear (m : Mach) (p t k : Nat) :
    (m.censusClear p t).census.get 0 k = if k / 16 = p * 256 + t then 0 else m.census.get 0 k := by
  have hdel : (m.censusClear p t).census = AMap.delIf (fun k => decide (k / 16 = p * 256 + t)) m.census := by
    simp [Mach.censusClear, AMap.delIf]
  rw [AMap.get_eq, AMap.get_eq, hdel, AMap.get?_delIf]
  by_cases h : k / 16 = p * 256 + t <;> simp [h]

/-- A counter of a slot of the same partition stands in a cleared slot when the slots are the same. -/
theorem Mach.census_censusClear_key (m : Mach) (p u t : Nat) {n : Nat} (hn : n < 16) :
    (m.censusClear p u).census.get 0 (censusKey p t n) = if t = u then 0 else m.census.get 0 (censusKey p t n) := by
  have h : censusKey p t n / 16 = p * 256 + u ↔ t = u := by unfold censusKey; omega
  rw [Mach.census_censusClear]
  simp only [h]

/-- Slots cleared one after the other change the census alone: each reads 0, and every other slot of the partition as before. -/
theorem Mach.foldl_censusClear (m : Mach) (p : Nat) (ts : List Nat) :
    ts.foldl (fun (x : Mach) t => x.censusClear p t) m =
        { m with census := (ts.foldl (fun (x : Mach) t => x.censusClear p t) m).census } ∧
      ∀ t n, n < 16 → (ts.foldl (fun (x : Mach) t => x.censusClear p t) m).census.get 0 (censusKey p t n) =
        if t ∈ ts then 0 else m.census.get 0 (censusKey p t n) := by
  induction ts generalizing m with
  | nil => exact ⟨rfl, fun _ _ _ => rfl⟩
  | cons u ts ih =>
    obtain ⟨hfields, hcensus⟩ := ih (m.censusClear p u)
    refine ⟨hfields, fun t n hn => ?_⟩
    rw [List.foldl_cons, hcensus t n hn, Mach.census_censusClear_key m p u t hn]
    by_cases h1 : t ∈ ts <;> by_cases h2 : t = u <;> simp [h1, h2]

/-! ## Requests to a stack -/

theorem SameObjs.touchStack (m : Mach) (s : Nat) : SameObjs [okey (0x4100 + s) 2] m (m.touchStack s) := by
  unfold Mach.touchStack
  dsimp only
  split
  · exact SameObjs.setField _ _ _ _ _ _ (by simp)
  · exact SameObjs.refl m _

/-- Bytes put in one place reach at most the stack of their first byte. -/
theorem SameObjs.put (m : Mach) (key : Nat) (bs : List Byte) : SameObjs [okey (0x4100 + key / 2 ^ 35) 2] m (m.put key bs) := by
  have h : SameObjs [okey (0x4100 + key / 2 ^ 35) 2] m (m.touch [(key, bs.length)]) := by
    unfold Mach.touch
    rw [List.filter_cons]
    split
    · exact SameObjs.touchStack m _
    · exact SameObjs.refl m _
  exact SameObjs.trans h (SameObjs.of_objs _ rfl)

@[simp] theorem Mach.put_census (m : Mach) (key : Nat) (bs : List Byte) : (m.put key bs).census = m.census := by simp [Mach.put]

theorem SameObjs.mono {ks ks' : List Nat} {m m' : Mach} (hs : ks ⊆ ks') (h : SameObjs ks m m') : SameObjs ks' m m' :=
  fun i n hn => h i n (fun hk => hn (hs hk))

/-! ## A command's word -/

/-- The row that takes census commands of an OP. -/
def censusRow (op p w : Nat) : Instr := if op = 1 then .censusDump p w else if op = 2 then .censusClear p w else .censusDumpClear p w

/-- The word of a census command: OP, the count of slots less one, the first slot (Table 2-12). -/
theorem censusWord_fields {v op start len : Nat} (hop : op ≤ 3) (hs : start < 256) (hl : len < 256) (hv : v = 2 ^ 16 * op + 256 * len + start) :
    fld v 17 16 = op ∧ fld v 15 8 = len ∧ fld v 7 0 = start ∧ v / 2 ^ 18 = 0 ∧ fld (v + 2 ^ 18) 17 16 = op ∧ (v + 2 ^ 18) / 2 ^ 18 ≠ 0 := by
  simp only [fld, Nat.shiftRight_eq_div_pow]
  omega

/-- The row of an OP runs the command in a module that serves its dictionary. -/
theorem gives_censusRow {s : State} {p op w : Nat} (hrun : s.mach.phase = .running) (hp : p < 64) (hon : s.mach.online = true) (h1 : 1 ≤ op)
    (h3 : op ≤ 3) (hw : fld w 17 16 = op) : Gives (censusRow op p w) s (s.mach.censusCommand p w) := by
  have hrow : ∀ c, (∀ s : State, exec c s = s.step (fun m => if p < 64 && m.online && fld w 17 16 = op then m.censusCommand p w else m)) →
      Gives c s (s.mach.censusCommand p w) := fun c hc => by
    have hg := gives_step c s _ (hc s) hrun
    simpa [hp, hon, hw] using hg
  obtain rfl | rfl | rfl : op = 1 ∨ op = 2 ∨ op = 3 := by omega
  · exact hrow (.censusDump p w) fun _ => rfl
  · exact hrow (.censusClear p w) fun _ => rfl
  · exact hrow (.censusDumpClear p w) fun _ => rfl

/-! ## What a command does -/

/-- The work of a command that is accepted: the records are stored unless it only clears, and the slots cleared unless it only dumps (R71). -/
def Mach.censusRun (m : Mach) (p op a : Nat) (slots : List Nat) : Mach :=
  let stored := if op = 2 then m else m.put a (slots.flatMap (m.censusRecord p))
  if op = 1 then stored else slots.foldl (fun (x : Mach) t => x.censusClear p t) stored

theorem Mach.censusRun_objs (m : Mach) (p op a : Nat) (slots : List Nat) :
    SameObjs [okey (0x4100 + a / 2 ^ 35) 2] m (m.censusRun p op a slots) := by
  have hstored : SameObjs [okey (0x4100 + a / 2 ^ 35) 2] m (if op = 2 then m else m.put a (slots.flatMap (m.censusRecord p))) := by
    split
    · exact SameObjs.refl m _
    · exact SameObjs.put m _ _
  unfold Mach.censusRun
  dsimp only
  split
  · exact hstored
  · exact SameObjs.trans hstored (SameObjs.of_objs _ (by rw [(Mach.foldl_censusClear _ p slots).1]))

theorem Mach.censusRun_mem (m : Mach) (p op a : Nat) (slots : List Nat) :
    (m.censusRun p op a slots).mem = if op = 2 then m.mem else (m.wr a (slots.flatMap (m.censusRecord p))).mem := by
  have hstored : (if op = 2 then m else m.put a (slots.flatMap (m.censusRecord p))).mem =
      if op = 2 then m.mem else (m.wr a (slots.flatMap (m.censusRecord p))).mem := by
    split
    · rfl
    · exact Mach.put_mem ..
  unfold Mach.censusRun
  dsimp only
  split
  · exact hstored
  · rw [(Mach.foldl_censusClear _ p slots).1]; exact hstored

theorem Mach.censusRun_census (m : Mach) (p op a : Nat) (slots : List Nat) :
    (op = 1 → (m.censusRun p op a slots).census = m.census) ∧
    (op ≠ 1 → ∀ t n, n < 16 → (m.censusRun p op a slots).census.get 0 (censusKey p t n) =
      if t ∈ slots then 0 else m.census.get 0 (censusKey p t n)) := by
  have hstored : (if op = 2 then m else m.put a (slots.flatMap (m.censusRecord p))).census = m.census := by
    split
    · rfl
    · exact Mach.put_census ..
  constructor
  · intro h1
    simp only [Mach.censusRun, if_pos h1]; exact hstored
  · intro h1 t n hn
    simp only [Mach.censusRun, if_neg h1]
    rw [(Mach.foldl_censusClear _ p slots).2 t n hn, hstored]

section
variable (m : Mach) {p w : Nat}

theorem Mach.censusCommand_reserved (h : w / 2 ^ 18 ≠ 0) : m.censusCommand p w = m.reply abortRange := if_pos h

variable (hw : w / 2 ^ 18 = 0)
include hw

/-- A free partition, or a command under way, refuses the write. -/
theorem Mach.censusCommand_refused (h : m.pstate p = 0 ∨ m.objBit (0x6100 + p) 4 0 = true) :
    m.censusCommand p w = m.reply abortState := by
  rw [Mach.censusCommand, if_neg (not_not_intro hw), if_pos (by simpa using h)]

variable (hp : m.pstate p ≠ 0) (hb : m.objBit (0x6100 + p) 4 0 = false) (ho : fld w 17 16 ≠ 0)
include hp hb ho

/-- Slots beyond 255, or a region that is not there, end in ERROR. -/
theorem Mach.censusCommand_error
    (h : fld w 7 0 + fld w 15 8 > 255 ∨ fld w 17 16 ≠ 2 ∧
      (m.obj (0x6100 + p) 2 % 128 ≠ 0 ∨ m.holds p (m.obj (0x6100 + p) 2) (128 * (fld w 15 8 + 1)) = false)) :
    m.censusCommand p w = (m.setField (0x6100 + p) 4 2 0 4).reply 0 := by
  rw [Mach.censusCommand, if_neg (not_not_intro hw), if_neg (by simp [hp, hb]), if_neg ho, if_pos (by simpa using h)]

theorem Mach.censusCommand_runs
    (h : ¬ (fld w 7 0 + fld w 15 8 > 255 ∨ fld w 17 16 ≠ 2 ∧
      (m.obj (0x6100 + p) 2 % 128 ≠ 0 ∨ m.holds p (m.obj (0x6100 + p) 2) (128 * (fld w 15 8 + 1)) = false))) :
    m.censusCommand p w =
      ((m.setField (0x6100 + p) 4 2 0 1).censusRun p (fld w 17 16) (m.obj (0x6100 + p) 2) (censusSlots w)).reply 0 := by
  rw [Mach.censusCommand, if_neg (not_not_intro hw), if_neg (by simp [hp, hb]), if_neg ho, if_neg (by simpa using h)]
  rfl

end

/-- A command that is accepted shows BUSY and does its work; nothing else of the dictionary changes but the state of the stack it reaches. -/
theorem Mach.censusCommand_effect {m m' : Mach} {p op a : Nat} {slots : List Nat}
    (h : m' = ((m.setField (0x6100 + p) 4 2 0 1).censusRun p op a slots).reply 0) :
    m'.field (0x6100 + p) 4 2 0 = 1 ∧ SameObjs [okey (0x6100 + p) 4, okey (0x4100 + a / 2 ^ 35) 2] m m' ∧
      (op = 2 → m'.mem = m.mem) ∧ (op ≠ 2 → Stores [(a, slots.flatMap (m.censusRecord p))] m m') ∧
      (op = 1 → m'.census = m.census) ∧
      (op ≠ 1 → ∀ t n, t < 256 → n < 16 → m'.census.get 0 (censusKey p t n) = if t ∈ slots then 0 else m.census.get 0 (censusKey p t n)) := by
  let busy := m.setField (0x6100 + p) 4 2 0 1
  have hbusy : SameObjs [okey (0x6100 + p) 4] m busy := SameObjs.setField m _ _ _ _ _ (by simp)
  have hrun := busy.censusRun_objs p op a slots
  have hmem := busy.censusRun_mem p op a slots
  obtain ⟨hkeep, hclear⟩ := busy.censusRun_census p op a slots
  have hkey : okey (0x6100 + p) 4 ∉ [okey (0x4100 + a / 2 ^ 35) 2] := by simp only [List.mem_singleton, okey]; omega
  subst h
  refine ⟨?_, SameObjs.trans (SameObjs.mono (by simp) hbusy) (SameObjs.mono (by simp) hrun), fun h2 => ?_, fun h2 => Stores.of_mem ?_,
    hkeep, fun h1 t n _ hn => hclear h1 t n hn⟩
  · have hfield : (busy.censusRun p op a slots).field (0x6100 + p) 4 2 0 = busy.field (0x6100 + p) 4 2 0 := by
      simp only [Mach.field, hrun _ _ hkey]
    exact hfield.trans (Mach.field_setField_same m _ _ _ _ _ (by omega))
  · exact hmem.trans (if_pos h2)
  · exact hmem.trans (if_neg h2)

/-! ## The end of a command, and the selected slot -/

theorem doCensusDone_of_busy {m : Mach} {p : Nat} (h : m.objBit (0x6100 + p) 4 0 = true) :
    doCensusDone m p = m.setField (0x6100 + p) 4 2 0 2 := if_pos h

theorem doCensusDone_of_idle {m : Mach} {p : Nat} (h : m.objBit (0x6100 + p) 4 0 = false) : doCensusDone m p = m := by
  simp [doCensusDone, h]

theorem gives_censusCommandDone {s : State} (p : Nat) (hrun : s.mach.phase = .running) :
    Gives (.censusCommandDone p) s (doCensusDone s.mach p) :=
  gives_step _ s (fun m => doCensusDone m p) rfl hrun

theorem gives_selectedSlotRecordRead {s : State} {p : Nat} (hrun : s.mach.phase = .running) (hp : p < 64) (hon : s.mach.online = true) :
    Gives (.selectedSlotRecordRead p) s (s.mach.readSelected p) := by
  have hg := gives_step (.selectedSlotRecordRead p) s (fun m => if p < 64 && m.online then m.readSelected p else m) rfl hrun
  simpa [hp, hon] using hg

/-- The read answers the record of the selected slot and, with CLEAR_ON_READ, clears the slot; nothing else changes. -/
theorem Mach.readSelected_effect (m : Mach) (p : Nat) :
    let t := m.obj (0x6100 + p) 7
    (m.readSelected p).answer = ⟨0, m.censusRecord p t⟩ ∧ (m.readSelected p).mem = m.mem ∧ (m.readSelected p).objs = m.objs ∧
      (m.objBit (0x6100 + p) 1 1 = false → (m.readSelected p).census = m.census) ∧
      (m.objBit (0x6100 + p) 1 1 = true → ∀ n, n < 16 → (m.readSelected p).census.get 0 (censusKey p t n) = 0) := by
  intro t
  cases h : m.objBit (0x6100 + p) 1 1 with
  | false => simp [Mach.readSelected, h, t]
  | true =>
    have hclear : ∀ n, n < 16 → (m.censusClear p t).census.get 0 (censusKey p t n) = 0 := fun n hn => by
      rw [Mach.census_censusClear_key m p t t hn, if_pos rfl]
    simpa [Mach.readSelected, h, t] using hclear

/-- Settles O56: the rows run the command, whose refusals, errors and work are as Table 2-12 has them; its end and the selected slot's record follow. -/
theorem censusCommands : Obligations.CensusCommands := by
  intro s p op start len hrun hp hon h1 h3 hs hl i v row a slots there
  obtain ⟨hop, hlen, hstart, htop, hop', htop'⟩ := censusWord_fields (v := v) h3 hs hl rfl
  have hg : Gives (row v) s (s.mach.censusCommand p v) := gives_censusRow hrun hp hon h1 h3 hop
  have ho : fld v 17 16 ≠ 0 := by omega
  have hthere : ¬ there ↔ fld v 7 0 + fld v 15 8 > 255 ∨ fld v 17 16 ≠ 2 ∧
      (s.mach.obj (0x6100 + p) 2 % 128 ≠ 0 ∨ s.mach.holds p (s.mach.obj (0x6100 + p) 2) (128 * (fld v 15 8 + 1)) = false) := by
    simp only [hop, hlen, hstart, there, a, i, not_and_or, Classical.not_imp, Bool.not_eq_true, not_le, gt_iff_lt]
  refine ⟨?_, fun href => ?_, fun hst hidle => ⟨fun hno => ?_, fun hyes => ?_⟩, fun hbusy => ?_, fun hidle => ?_, ?_⟩
  · have hg' : Gives (row (v + 2 ^ 18)) s (s.mach.censusCommand p (v + 2 ^ 18)) := gives_censusRow hrun hp hon h1 h3 hop'
    rwa [Mach.censusCommand_reserved _ htop'] at hg'
  · rwa [Mach.censusCommand_refused _ htop href] at hg
  · rw [Mach.censusCommand_error _ htop hst hidle ho (hthere.mp hno)] at hg
    exact ⟨_, hg, rfl, Mach.field_setField_same _ _ _ _ _ _ (by omega), rfl, rfl, SameObjs.setField _ _ _ _ _ _ (by simp [i])⟩
  · rw [Mach.censusCommand_runs _ htop hst hidle ho (fun h => hthere.mpr h hyes), hop] at hg
    have hslots : censusSlots v = slots := by simp only [censusSlots, slots, hlen, hstart]
    rw [hslots] at hg
    exact ⟨_, hg, rfl, Mach.censusCommand_effect rfl⟩
  · have hd := gives_censusCommandDone p hrun
    rw [doCensusDone_of_busy hbusy] at hd
    exact ⟨_, hd, Mach.field_setField_same _ _ _ _ _ _ (by omega), rfl, SameObjs.setField _ _ _ _ _ _ (by simp [i])⟩
  · have hd := gives_censusCommandDone p hrun
    rwa [doCensusDone_of_idle hidle] at hd
  · obtain ⟨hans, hmem, hobjs, hkeep, hclear⟩ := s.mach.readSelected_effect p
    exact ⟨_, gives_selectedSlotRecordRead hrun hp hon, hans, hmem, hobjs, hkeep, fun hb _ => hclear hb⟩

end Sys2Proof.Machine
end

section
/-! SUPPORT. Proofs: the array's ECC and parity faults, and the ramps of its columns (R92, R93, R96, R107, R535). -/

namespace Sys2Proof.Machine

/-! ## What a fault leaves unchanged -/

/-- Stopping the cores of a partition changes cores and their waits: nothing else. -/
theorem Mach.stopCores_only (m : Mach) (p : Nat) (guest : Bool) : m.stopCores p guest = { m with
    cores := (m.stopCores p guest).cores
    acts := (m.stopCores p guest).acts
    waits := (m.stopCores p guest).waits
    ports := (m.stopCores p guest).ports } := by
  unfold Mach.stopCores
  refine List.foldlRecOn (motive := fun a : Mach => a = { m with cores := a.cores, acts := a.acts, waits := a.waits, ports := a.ports })
    _ _ rfl fun a ha c _ => ?_
  rw [ha]
  rfl

@[simp] theorem Mach.stopCores_bad (m : Mach) (p : Nat) (guest : Bool) : (m.stopCores p guest).bad = m.bad := by rw [Mach.stopCores_only]

@[simp] theorem Mach.stopJob_bad (m : Mach) (j : Job) (guest : Bool) (status detail : Nat) : (m.stopJob j guest status detail).bad = m.bad := by
  unfold Mach.stopJob
  dsimp only
  split
  · simp
  · rw [Mach.stopRounds_only]; simp

@[simp] theorem Mach.raise_bad (m : Mach) (vec : Nat) : (m.raise vec).bad = m.bad := by rw [Mach.raise_only]

/-- A fault of a job makes no half of memory uncorrectable, and none good. -/
@[simp] theorem Mach.jobFault_bad (m : Mach) (p : Nat) (guest : Bool) (code : Nat) (record : Job → List Byte) :
    (m.jobFault p guest code record).bad = m.bad := by
  unfold Mach.jobFault
  cases hj : m.jobOf p guest with
  | none => rfl
  | some j =>
    dsimp only
    split
    · split <;> split <;> simp [Mach.addObj]
    · split <;> split <;> simp [Mach.addObj, Mach.addObj32]

@[simp] theorem Mach.faultStopped_bad (m : Mach) (p core : Nat) (guest : Bool) (code : Nat) : (m.faultStopped p core guest code).bad = m.bad := by
  unfold Mach.faultStopped
  dsimp only
  split <;> rfl

/-- A fault of a core makes no half of memory uncorrectable, and none good. -/
@[simp] theorem Mach.fault_bad (m : Mach) (p core : Nat) (guest : Bool) (code opc pc info : Nat) :
    (m.fault p core guest code opc pc info).bad = m.bad := by
  rw [Mach.fault_eq, Mach.jobFault_bad, Mach.faultStopped_bad]

/-! ## The array's faults -/

/-- An operand half that is uncorrectable faults 45h with its offset, where the module it is met in has the job, the cores, the partitions' clusters
and the time of the state (R107). -/
theorem Faults.of_arrayEcc {c : Instr} {s : State} {m : Mach} {core p b : Nat} {o : ArOp} (hg : Gives c s (m.arrayEcc core o b))
    (hp : m.partOf (core / 16) = some p) (hj : m.jobs = s.mach.jobs) (hrc : m.rc = s.mach.rc) (hc : m.core core = s.mach.core core) :
    Faults c s p core o.guest 0x45 0x11 o.pc (chipOff b) := by
  rw [Mach.arrayEcc, hp] at hg
  exact Faults.of_fault hg hj hrc (by rw [hc]) (by rw [hc])

/-- The half of a key that has been spoilt is uncorrectable. -/
theorem Mach.mem_bad_spoil (m : Mach) (key : Nat) : key / 32 ∈ (m.spoil key).bad := by
  unfold Mach.spoil
  dsimp only
  split
  next h => simpa using h
  next => simp

section
variable {m : Mach} {core : Nat} {o : ArOp} {rest : List ArOp} (hq : (m.core core).arr.queue = o :: rest)
  (hbusy : (m.core core).arr.busy = true)
include hq hbusy

theorem doTileComplete_lost {b : Nat} (hb : m.badRead o.tileReads = some b) : doTileComplete m core = m.arrayEcc core o b := by
  simp [doTileComplete, hq, hbusy, hb]

theorem doArrayEcc_streaming {half : Nat} (h : overlaps o.tileReads [(half * 32, 32)] = true) :
    doArrayEcc m core half = (m.spoil (half * 32)).arrayEcc core o (half * 32) := by
  simp [doArrayEcc, hq, hbusy, h]

theorem doArrayParity_streaming : doArrayParity m core =
    m.fresh.2.fault ((m.partOf (core / 16)).getD 0) core o.guest 0x46 0x11 o.pc (m.fresh.1 % 2 ^ 64) := by
  simp only [doArrayParity, hq, hbusy, if_true]
  rfl

end

/-- The array's hardware faults while a tile of `o` streams (R107, R535). -/
theorem array_faults {s : State} {core p : Nat} {o : ArOp} {rest : List ArOp} (hrun : s.mach.phase = .running)
    (hp : s.mach.partOf (core / 16) = some p) (hq : (s.mach.core core).arr.queue = o :: rest) (hbusy : (s.mach.core core).arr.busy = true) :
    (∀ b, s.mach.badRead o.tileReads = some b → Faults (.tileComplete core) s p core o.guest 0x45 0x11 o.pc (chipOff b)) ∧
    (∀ half, overlaps o.tileReads [(half * 32, 32)] = true →
      Faults (.arrayEcc core half) s p core o.guest 0x45 0x11 o.pc (chipOff (half * 32)) ∧
      (∃ m, Gives (.arrayEcc core half) s m ∧ half ∈ m.bad ∧ m.mem = s.mach.mem)) ∧
    Faults (.arrayParity core) s p core o.guest 0x46 0x11 o.pc (Config.freeNat s.mach.free 0 % 2 ^ 64) := by
  refine ⟨fun b hb => ?_, fun half hhalf => ?_, ?_⟩
  · have hg := gives_step (.tileComplete core) s (fun m => doTileComplete m core) rfl hrun
    rw [doTileComplete_lost hq hbusy hb] at hg
    exact Faults.of_arrayEcc hg hp rfl rfl rfl
  · have hg := gives_step (.arrayEcc core half) s (fun m => doArrayEcc m core half) rfl hrun
    rw [doArrayEcc_streaming hq hbusy hhalf] at hg
    refine ⟨Faults.of_arrayEcc hg hp rfl rfl rfl, _, hg, ?_, Mach.arrayEcc_mem ..⟩
    have hspoilt := s.mach.mem_bad_spoil (half * 32)
    rw [Nat.mul_div_cancel half (by decide)] at hspoilt
    rwa [Mach.arrayEcc, Mach.fault_bad]
  · have hg := gives_step (.arrayParity core) s (fun m => doArrayParity m core) rfl hrun
    rw [doArrayParity_streaming hq hbusy, hp] at hg
    exact Faults.of_fault hg rfl rfl rfl rfl

/-! ## The ramps of the columns -/

/-- What a step of a ramp leaves: where the array stands and the gap so far, and `n` ic counted in 6040h.`sub` (R92, R93, R96). -/
def RampMoves (m : Mach) (core sub n : Nat) (ramp : Ramp) (gap : Nat) (m' : Mach) : Prop :=
  m' = { m with
    cores := m'.cores
    acts := m'.acts
    objs := m'.objs } ∧
  OneCore core { m.core core with arr := { (m.core core).arr with
    ramp := ramp
    gap := gap } } m m' ∧
  m'.obj 0x6040 sub = min (m.obj 0x6040 sub + n) (2 ^ 64 - 1) ∧ SameObjs [okey 0x6040 sub] m m'

/-- The array at a place of a ramp and in its gap, the ic it took counted. -/
def Mach.rampTo (m : Mach) (core sub n : Nat) (ramp : Ramp) (gap : Nat) : Mach :=
  (m.addObj 0x6040 sub n).modArr core (fun a => { a with
    ramp := ramp
    gap := gap })

theorem Mach.obj_addObj_same (m : Mach) (i a n : Nat) : (m.addObj i a n).obj i a = min (m.obj i a + n) (2 ^ 64 - 1) := by
  rw [Mach.addObj, Mach.obj_setObj_same]

theorem Mach.rampTo_moves (m : Mach) (core sub n : Nat) (ramp : Ramp) (gap : Nat) : RampMoves m core sub n ramp gap (m.rampTo core sub n ramp gap) :=
  ⟨rfl, OneCore.setCore (m.addObj 0x6040 sub n) core _, Mach.obj_addObj_same ..,
    SameObjs.trans (SameObjs.addObj m _ _ _ (by simp)) (SameObjs.of_objs _ rfl)⟩

/-- A step of a ramp that takes no ic to count. -/
theorem Mach.modArr_moves {m : Mach} {sub : Nat} (h : m.obj 0x6040 sub < 2 ^ 64) (core : Nat) (ramp : Ramp) (gap : Nat) :
    RampMoves m core sub 0 ramp gap (m.modArr core (fun a => { a with
      ramp := ramp
      gap := gap })) := by
  refine ⟨rfl, OneCore.setCore m core _, ?_, SameObjs.of_objs _ rfl⟩
  change m.obj 0x6040 sub = _
  omega

section
variable {m : Mach} {core : Nat}

theorem doRampDown_held (hb : (m.core core).arr.busy = false) (hr : (m.core core).arr.ramp = .hold) (hc : bit (m.core core).arr.ctl 0 = true) :
    doRampDown m core = m.rampTo core 1 (fld (m.core core).arr.ctl 14 8 - (m.core core).arr.gap) (.down 63)
      (max (m.core core).arr.gap (fld (m.core core).arr.ctl 14 8)) := by
  simp only [doRampDown, hb, hr, hc, picotOn]
  rfl

theorem doRampStep_down {c : Nat} (hr : (m.core core).arr.ramp = .down c) :
    doRampStep m core = m.rampTo core 2 8 (if c = 0 then .quiet else .down (c - 1)) ((m.core core).arr.gap + 8) := by
  simp only [doRampStep, hr]
  rfl

theorem doRampStep_up {c : Nat} (hr : (m.core core).arr.ramp = .up c) (hc : c < 64) :
    doRampStep m core = m.rampTo core 2 8 (.up (c + 1)) ((m.core core).arr.gap + 8) := by
  simp only [doRampStep, hr, if_pos hc]
  rfl

variable {o : ArOp} {rest : List ArOp} (hq : (m.core core).arr.queue = o :: rest) (hb : (m.core core).arr.busy = false)
  (hcut : m.arrCut core o = false)
include hq hb hcut

theorem doRampUp_down (late : Nat) {c : Nat} (hr : (m.core core).arr.ramp = .down c) :
    doRampUp m core late = m.rampTo core 2 (min late 8) (.up (if late = 0 then c + 1 else c)) ((m.core core).arr.gap + min late 8) := by
  simp only [doRampUp, hq, hb, hcut, hr]
  rfl

theorem doRampUp_quiet (late : Nat) (hr : (m.core core).arr.ramp = .quiet) : doRampUp m core late = m.modArr core (fun a => { a with
    ramp := .up 0
    gap := (m.core core).arr.gap + late }) := by
  simp only [doRampUp, hq, hb, hcut, hr]
  rfl

end

/-- Settles O10: each event of a ramp takes the array to its next place and counts its ic; a lost operand or beat faults the operation. -/
theorem rampsAndArrayFaults : Obligations.RampsAndArrayFaults := by
  constructor
  · intro s core late hrun k now hold
    have hdown := gives_step (.rampDown core) s (fun m => doRampDown m core) rfl hrun
    have hstep := gives_step (.rampColumnStep core) s (fun m => doRampStep m core) rfl hrun
    have hup := gives_step (.rampUp core late) s (fun m => doRampUp m core late) rfl hrun
    refine ⟨fun hb hr hc => ?_, fun c hr => ?_, fun c hr hc => ?_, fun o rest hq hb hcut => ⟨fun c hr => ?_, fun hr hobj => ?_⟩⟩
    · rw [doRampDown_held hb hr hc] at hdown
      exact ⟨_, hdown, Mach.rampTo_moves ..⟩
    · rw [doRampStep_down hr] at hstep
      exact ⟨_, hstep, Mach.rampTo_moves ..⟩
    · rw [doRampStep_up hr hc] at hstep
      exact ⟨_, hstep, Mach.rampTo_moves ..⟩
    · rw [doRampUp_down hq hb hcut late hr] at hup
      exact ⟨_, hup, Mach.rampTo_moves ..⟩
    · rw [doRampUp_quiet hq hb hcut late hr] at hup
      exact ⟨_, hup, Mach.modArr_moves hobj ..⟩
  · intro s core p o rest hrun hp hq hbusy
    exact array_faults hrun hp hq hbusy

end Sys2Proof.Machine
end

section
/-! SUPPORT. Proofs: array operations as they issue, and the tiles they stream (R78 to R90, R100, R101, R108, R123, R126). -/

namespace Sys2Proof.Machine

/-! ## AR -/

/-- A field within the low `n` bits of a word is that of the word cut to `n` bits. -/
theorem fld_mod_two_pow (w : Nat) {n hi lo : Nat} (h : hi < n) : fld (w % 2 ^ n) hi lo = fld w hi lo :=
  fld_eq_of_testBit fun i _ hi' => by rw [Nat.testBit_mod_two_pow, decide_eq_true (by omega), Bool.true_and]

/-- The tiles of a queued operation are those its word names (R126). -/
theorem arOpOf_t (m : Mach) (x : Wx) : (arOpOf m x).t = arT x.w := by
  simp only [ArOp.t, arOpOf, BitVec.toNat_ofNat, arT, fld_mod_two_pow x.w (show 103 < 128 by decide)]

/-- The elements an operation of `t` tiles advances EBASE by: of a batch its real rows alone (R100, R123). -/
def ArOp.span (o : ArOp) (t : Nat) : Nat := t * (match o.batch with | none => 4096 | some b => 64 * b.rows.length)

/-- The batches a core has taken once it has issued an operation (R100). -/
def ArOp.usedAfter (o : ArOp) (used : AMap Nat) : AMap Nat :=
  match o.batch with
  | none => used
  | some b => used.put b.win (used.get 0 b.win + 1)

/-- A core that has issued an array operation (R86, R123, R126). -/
def Core.issueAr (k : Core) (guest : Bool) (o : ArOp) (t pc : Nat) : Core :=
  { k with
    arr := { k.arr with queue := k.arr.queue ++ [o] }
    fwUsed := o.usedAfter k.fwUsed }.setCtx guest { k.ctx guest with
      pc := pc + 1
      ebase := if (k.ctx guest).auto then ((k.ctx guest).ebase + o.span t) % 2 ^ 40 else (k.ctx guest).ebase }

/-- EBASE moves on when AUTO is set, and no other part of the context changes with it (R123). -/
theorem Ctx.bumpBase_eq (c : Ctx) (n : Nat) : c.bumpBase n = { c with ebase := if c.auto then (c.ebase + n) % 2 ^ 40 else c.ebase } := by
  unfold Ctx.bumpBase
  split <;> rfl

theorem doAr_eq (m : Mach) (x : Wx) :
    doAr m x = m.setCore x.core ((m.core x.core).issueAr x.guest (arOpOf m x) (arT x.w) x.ctx.pc) := by
  have ht := arOpOf_t m x
  unfold doAr Core.issueAr ArOp.span ArOp.usedAfter
  generalize arOpOf m x = o at ht ⊢
  cases hb : o.batch <;> simp only [hb, ht, Ctx.bumpBase_eq] <;> cases x.guest <;> rfl

/-- An AR word does not issue behind three operations (R86). -/
theorem queue_lt_of_stallAr {m : Mach} {x : Wx} (h : stallAr m x = false) : (m.core x.core).arr.queue.length < 3 := by
  simp only [stallAr, Bool.or_eq_false_iff, decide_eq_false_iff_not] at h
  omega

/-! ## TILE_START -/

/-- The first beat of the next tile latched at the end of a gap of `gap` ic, of which `picot` ran picot cycles and `bound` were R81's (R81, R96). -/
def Mach.latchTile (m : Mach) (core gap picot bound : Nat) : Mach :=
  ((m.addObj 0x6040 1 picot).addObj 0x6040 3 bound).modArr core (fun a => { a with
    busy := true
    gap := gap
    ramp := .hold })

section
variable {m : Mach} {core : Nat} {o : ArOp} {rest : List ArOp} (hq : (m.core core).arr.queue = o :: rest)
  (hb : (m.core core).arr.busy = false) (hfree : ∀ d ∈ (m.core core).arr.drains, d.bank ≠ o.bankOf o.tile) (hcut : m.arrCut core o = false)
include hq hb hfree hcut

/-- With picot cycles off the tile starts as its operands come, or as R81 asks. -/
theorem doTileStart_off (wait : Nat) (hc : bit (m.core core).arr.ctl 0 = false) :
    let r81 := (m.core core).arr.ddr - beatsOf o.mode (axFA o.ax.toNat) (axFB o.ax.toNat) o.k
    doTileStart m core wait = m.latchTile core (max wait r81) 0 (r81 - wait) := by
  have hall : (m.core core).arr.drains.all (fun d => d.bank ≠ o.bankOf o.tile) = true := by simpa using hfree
  simp only [doTileStart, hq, hb, hall, hcut, picotOn, hc]
  rfl

/-- In the hold the tile starts while its operands come within HOLD ic. -/
theorem doTileStart_hold {wait : Nat} (hc : bit (m.core core).arr.ctl 0 = true) (hr : (m.core core).arr.ramp = .hold)
    (hw : wait ≤ fld (m.core core).arr.ctl 14 8) :
    let r81 := (m.core core).arr.ddr - beatsOf o.mode (axFA o.ax.toNat) (axFB o.ax.toNat) o.k
    doTileStart m core wait = m.latchTile core (max wait r81) (max wait r81) (r81 - wait) := by
  have hall : (m.core core).arr.drains.all (fun d => d.bank ≠ o.bankOf o.tile) = true := by simpa using hfree
  simp only [doTileStart, hq, hb, hall, hcut, picotOn, hc, hr, holdOf, if_pos hw]
  rfl

/-- After a ramp-up the tile starts once all 64 columns run. -/
theorem doTileStart_up (wait : Nat) {c : Nat} (hc : bit (m.core core).arr.ctl 0 = true) (hr : (m.core core).arr.ramp = .up c) (h64 : 64 ≤ c) :
    let r81 := (m.core core).arr.ddr - beatsOf o.mode (axFA o.ax.toNat) (axFB o.ax.toNat) o.k
    doTileStart m core wait =
      m.latchTile core (max (m.core core).arr.gap r81) (r81 - (m.core core).arr.gap) (r81 - (m.core core).arr.gap) := by
  have hall : (m.core core).arr.drains.all (fun d => d.bank ≠ o.bankOf o.tile) = true := by simpa using hfree
  simp only [doTileStart, hq, hb, hall, hcut, picotOn, hc, hr, ge_iff_le, if_pos h64]
  rfl

end

theorem Mach.latchTile_effect (m : Mach) (core gap picot bound : Nat) :
    let m' := m.latchTile core gap picot bound
    m' = { m with
      cores := m'.cores
      acts := m'.acts
      objs := m'.objs } ∧
    OneCore core { m.core core with arr := { (m.core core).arr with
      busy := true
      gap := gap
      ramp := .hold } } m m' ∧
    m'.obj 0x6040 1 = min (m.obj 0x6040 1 + picot) (2 ^ 64 - 1) ∧ m'.obj 0x6040 3 = min (m.obj 0x6040 3 + bound) (2 ^ 64 - 1) ∧
    SameObjs [okey 0x6040 1, okey 0x6040 3] m m' := by
  intro m'
  have hobjs : ∀ i a, m'.obj i a = ((m.addObj 0x6040 1 picot).addObj 0x6040 3 bound).obj i a := fun _ _ => rfl
  have h13 : okey 0x6040 1 ≠ okey 0x6040 3 := by decide
  refine ⟨rfl, OneCore.setCore ((m.addObj 0x6040 1 picot).addObj 0x6040 3 bound) core _, ?_, ?_, ?_⟩
  · rw [hobjs, Mach.addObj, Mach.obj_setObj_other _ h13.symm, Mach.obj_addObj_same]
  · rw [hobjs, Mach.obj_addObj_same, Mach.addObj, Mach.obj_setObj_other _ h13]
  · exact SameObjs.trans (SameObjs.addObj m _ _ _ (by simp)) (SameObjs.addObj (m.addObj 0x6040 1 picot) _ _ _ (by simp))

/-! ## TILE_COMPLETE -/

/-- The last tile of an operation without DRAIN stays in its bank (R87). -/
def ArOp.holds (o : ArOp) : Bool := o.tile + 1 = o.t && !o.drainBit

/-- The bank of the tile in flight once it is complete: its sums, or idle again when the tile neither drains nor is held (R62, R80, R87). -/
def Mach.bankAfter (m : Mach) (core : Nat) (o : ArOp) : Bank :=
  if o.holds || o.drains o.tile then
    { (tileBank m o ((m.core core).arr.banks.getD (o.bankOf o.tile) Bank.idle) o.k).1 with held := o.holds }
  else Bank.idle

/-- The last 64 beats once the tile in flight is complete (R91). -/
def Mach.beatsAfter (m : Mach) (core : Nat) (o : ArOp) : List Byte :=
  let new := tileBeats m o o.k
  ((m.core core).arr.beats.take 4096).drop new.1.length ++ new.1 ++ (((m.core core).arr.beats.drop 4096).drop new.2.length ++ new.2)

/-- The array once the tile in flight is complete (R78, R80, R87, R108). -/
def Mach.arrAfter (m : Mach) (p core : Nat) (o : ArOp) (rest : List ArOp) : Arr :=
  let a := (m.core core).arr
  { queue := if o.tile + 1 = o.t then rest else { o with
      tile := o.tile + 1
      kdone := 0 } :: rest
    busy := false
    banks := a.banks.set (o.bankOf o.tile) (m.bankAfter core o)
    drains := a.drains ++ if o.drains o.tile then [⟨o, o.tile, o.bankOf o.tile, 64⟩] else []
    ramp := .hold
    gap := 0
    ddr := ddrOf o.mode
    ctl := m.obj (0x6180 + p) 1
    beats := m.beatsAfter core o }

/-- The module with a tile complete: its array, its cluster's work and load, and the flags of its sums (R66, R90). -/
def Mach.tileSummed (m : Mach) (p core : Nat) (o : ArOp) (rest : List ArOp) : Mach :=
  let m' := m.setCore core { m.core core with
    arr := m.arrAfter p core o rest
    tArr := m.rc }
  ({ m' with work := m'.work.put (core / 16) (m'.work.get 0 (core / 16) + tileWork o) }.countBeats core (o.beatsTo o.k)).setFlags p
    (tileBank m o ((m.core core).arr.banks.getD (o.bankOf o.tile) Bank.idle) o.k).2

theorem doTileComplete_good {m : Mach} {core p : Nat} {o : ArOp} {rest : List ArOp} (hp : m.partOf (core / 16) = some p)
    (hq : (m.core core).arr.queue = o :: rest) (hbusy : (m.core core).arr.busy = true) (hgood : m.badRead o.tileReads = none) :
    doTileComplete m core = ((m.tileSummed p core o rest).endBatch p core o).settle p := by
  have hdrains : (if o.drains o.tile then (m.core core).arr.drains ++ [⟨o, o.tile, o.bankOf o.tile, 64⟩] else (m.core core).arr.drains) =
      (m.core core).arr.drains ++ if o.drains o.tile then [(⟨o, o.tile, o.bankOf o.tile, 64⟩ : Drain)] else [] := by
    split <;> simp
  simp only [doTileComplete, hq, hbusy, hgood, hp, hdrains]
  rfl

/-- A tile that completes changes the array of its core and adds to the cluster's work; memory and the other cores keep what they hold. -/
theorem Mach.tileSummed_effect (m : Mach) (p core : Nat) (o : ArOp) (rest : List ArOp) :
    let m' := m.tileSummed p core o rest
    m'.mem = m.mem ∧ OneCore core { m.core core with
      arr := m.arrAfter p core o rest
      tArr := m.rc } m m' ∧
    m'.work.get 0 (core / 16) = m.work.get 0 (core / 16) + tileWork o := by
  intro m'
  have hm' : m' = m.tileSummed p core o rest := rfl
  rw [Mach.tileSummed, Mach.setFlags_only] at hm'
  refine ⟨by rw [hm']; rfl, ?_, ?_⟩
  · rw [hm']
    exact OneCore.setCore m core _
  · rw [hm']
    exact AMap.get_put_same ..

/-- The tag list that is stored where a batch has nothing left to stream or to drain (R101). -/
def Mach.batchTags (m : Mach) (core : Nat) (o : ArOp) : List (Nat × List Byte) :=
  match o.batch with
  | some b => if (m.core core).arr.offBatch b then [(o.tkey, tagList b)] else []
  | none => []

/-- The end of a batch stores its tag list, and no core and no work changes (R101, R102). -/
theorem Mach.endBatch_effect (m : Mach) (p core : Nat) (o : ArOp) :
    (m.endBatch p core o).mem = (m.wrAll (m.batchTags core o)).mem ∧ (m.endBatch p core o).cores = m.cores ∧
      (m.endBatch p core o).work = m.work := by
  unfold Mach.endBatch Mach.batchTags
  cases o.batch with
  | none => exact ⟨rfl, rfl, rfl⟩
  | some b => cases h : (m.core core).arr.offBatch b <;> simp [h, Mach.wrAll, Mach.modPart]

theorem Mach.core_eq_of_cores {m m' : Mach} (h : m'.cores = m.cores) (c : Nat) : m'.core c = m.core c := by
  simp only [Mach.core, h]

/-- A tile that completes leaves its sums in the array, its work counted and its batch's tag list stored, and no other core changes. -/
theorem Mach.tileEnd_effect (m : Mach) (p core : Nat) (o : ArOp) (rest : List ArOp) :
    let m' := (m.tileSummed p core o rest).endBatch p core o
    Stores (m'.batchTags core o) m m' ∧ OneCore core { m.core core with
      arr := m.arrAfter p core o rest
      tArr := m.rc } m m' ∧
    m'.work.get 0 (core / 16) = m.work.get 0 (core / 16) + tileWork o := by
  intro m'
  obtain ⟨hmem, ⟨hcore, hother⟩, hwork⟩ := m.tileSummed_effect p core o rest
  obtain ⟨hmem', hcores', hwork'⟩ := (m.tileSummed p core o rest).endBatch_effect p core o
  have hcoreAt : ∀ c, m'.core c = (m.tileSummed p core o rest).core c := Mach.core_eq_of_cores hcores'
  have htags : m'.batchTags core o = (m.tileSummed p core o rest).batchTags core o := by simp only [Mach.batchTags, hcoreAt]
  refine ⟨Stores.of_mem ?_, ⟨(hcoreAt core).trans hcore, fun c hc => (hcoreAt c).trans (hother c hc)⟩, ?_⟩
  · rw [htags]
    exact hmem'.trans (Mach.wrAll_mem_congr hmem _)
  · rw [← hwork]
    simp only [m', hwork']

/-- Settles O9: the word joins the queue, the tile is latched as the picot cycles allow, and its sums reach the bank as it completes. -/
theorem arrayTiles : Obligations.ArrayTiles := by
  refine ⟨?_, ?_, ?_⟩
  · intro s core x hissues hopc k o n c used
    have hcore := hissues.core_eq
    have hg := gives_step (.ar core) s (fun m => issue m core (selOpc 0x11) checksAr stallAr doAr) rfl hissues.up
    rw [issue_issues hissues (by simp [selOpc, hopc]), doAr_eq, hcore] at hg
    have hlen := queue_lt_of_stallAr hissues.free
    rw [hcore] at hlen
    exact ⟨hlen, _, hg, rfl, OneCore.setCore ..⟩
  · intro s core wait o rest hrun a r81 starts hq hb hfree hcut
    have hg := gives_step (.tileStart core wait) s (fun m => doTileStart m core wait) rfl hrun
    refine ⟨fun hc => ?_, fun hc hr hw => ?_, fun c hc hr h64 => ?_⟩
    · rw [doTileStart_off hq hb hfree hcut wait hc] at hg
      exact ⟨_, hg, Mach.latchTile_effect ..⟩
    · rw [doTileStart_hold hq hb hfree hcut hc hr hw] at hg
      exact ⟨_, hg, Mach.latchTile_effect ..⟩
    · rw [doTileStart_up hq hb hfree hcut wait hc hr h64] at hg
      exact ⟨_, hg, Mach.latchTile_effect ..⟩
  · intro s core p o rest hrun hp k b held rows hq hbusy hgood
    have hg := gives_step (.tileComplete core) s (fun m => doTileComplete m core) rfl hrun
    rw [doTileComplete_good hp hq hbusy hgood] at hg
    obtain ⟨hstores, ⟨hcore, hother⟩, hwork⟩ := s.mach.tileEnd_effect p core o rest
    have harr := congrArg Core.arr hcore
    have hhost := congrArg Core.host hcore
    have hguest := congrArg Core.guest hcore
    exact ⟨_, hg, hstores, congrArg Arr.queue harr, congrArg Arr.busy harr, congrArg Arr.ramp harr, congrArg Arr.gap harr,
      congrArg Arr.ctl harr, congrArg Arr.drains harr, congrArg Arr.banks harr, hhost, hguest, hother, hwork⟩

end Sys2Proof.Machine
end

section
/-! SUPPORT. Proofs: the batches of fill windows: posts accepted, deadlines and freed buffers (R98 to R103, R200). -/

namespace Sys2Proof.Machine

/-! ## The first entry of a list that has a property -/

theorem find?_zipIdx_eq_some {α : Type} {f : α → Bool} {l : List α} {i : Nat} {x : α} (hx : l[i]? = some x) (hf : f x = true)
    (hfirst : ∀ j u, l[j]? = some u → j < i → f u = false) : l.zipIdx.find? (fun e => f e.1) = some (x, i) := by
  obtain ⟨hi, rfl⟩ := List.getElem?_eq_some_iff.mp hx
  refine List.find?_eq_some_iff_getElem.mpr ⟨hf, i, by simpa using hi, by simp, fun j hj => ?_⟩
  have hnot := hfirst j l[j] (by simp) hj
  simpa using hnot

theorem find?_zipIdx_eq_none {α : Type} {f : α → Bool} {l : List α} (h : ∀ u ∈ l, f u = false) :
    l.zipIdx.find? (fun e => f e.1) = none := by
  refine List.find?_eq_none.mpr fun e he => ?_
  rw [h e.1 (List.fst_mem_of_mem_zipIdx he)]
  exact Bool.false_ne_true

/-! ## Buffers of a window -/

/-- The buffer is open (R98). -/
def FwBuf.isOpen (b : FwBuf) : Bool := match b.st with | .opened _ => true | _ => false

/-- The buffer is open and its deadline lies `late` rc back at time `now` (R99). -/
def FwBuf.isDue (b : FwBuf) (now late : Nat) : Bool := match b.st with | .opened t => t + late ≤ now | _ => false

theorem FwBuf.isOpen_eq_false {b : FwBuf} (h : ∀ t, b.st ≠ .opened t) : b.isOpen = false := by
  unfold FwBuf.isOpen
  split
  next t ht => exact absurd ht (h t)
  next => rfl

theorem FwBuf.isDue_eq_false {b : FwBuf} {now late : Nat} (h : ∀ t, b.st = .opened t → now < t + late) : b.isDue now late = false := by
  unfold FwBuf.isDue
  split
  next t ht => exact decide_eq_false (Nat.not_le.mpr (h t ht))
  next => rfl

theorem FwBuf.isDue_of_opened {b : FwBuf} {now late t : Nat} (hb : b.st = .opened t) (h : t + late ≤ now) : b.isDue now late = true := by
  simp [FwBuf.isDue, hb, h]

theorem modAt_eq {α : Type} {l : List α} {i : Nat} {x : α} (h : l[i]? = some x) (f : α → α) : modAt l i f = l.set i (f x) := by
  simp [modAt, h]

/-- A buffer that becomes ready is the window's next batch (R99). -/
theorem FillWin.makeReady_eq {f : FillWin} {bi : Nat} {b : FwBuf} (hb : f.bufs[bi]? = some b) :
    f.makeReady bi = { f with
      bufs := f.bufs.set bi { b with st := .ready f.made }
      made := f.made + 1 } := by
  rw [FillWin.makeReady, modAt_eq hb]

/-- Buffer `bi` takes the next row: it is the first open one or, where none is open, the first free one (R98). -/
def FillWin.TakesNext (f : FillWin) (bi : Nat) (b : FwBuf) : Prop :=
  ((∃ t, b.st = .opened t) ∧ (∀ j u, f.bufs[j]? = some u → j < bi → ∀ t, u.st ≠ .opened t)) ∨
    (b.st = .free ∧ (∀ u ∈ f.bufs, ∀ t, u.st ≠ .opened t) ∧ (∀ j u, f.bufs[j]? = some u → j < bi → u.st ≠ .free))

theorem FillWin.target_eq {f : FillWin} {bi : Nat} {b : FwBuf} (hb : f.bufs[bi]? = some b) (h : f.TakesNext bi b) :
    f.target = some (b, bi) := by
  have htarget : f.target =
      (f.bufs.zipIdx.find? (fun e => e.1.isOpen)).or (f.bufs.zipIdx.find? (fun e => decide (e.1.st = FwSt.free))) := rfl
  rw [htarget]
  obtain ⟨⟨t, ht⟩, hfirst⟩ | ⟨hfree, hnone, hfirst⟩ := h
  · rw [find?_zipIdx_eq_some hb (by simp [FwBuf.isOpen, ht]) fun j u hu hj => FwBuf.isOpen_eq_false (hfirst j u hu hj)]
    rfl
  · rw [find?_zipIdx_eq_none fun u hu => FwBuf.isOpen_eq_false (hnone u hu)]
    exact find?_zipIdx_eq_some (f := fun u : FwBuf => decide (u.st = FwSt.free)) hb (by simp [hfree])
      fun j u hu hj => decide_eq_false (hfirst j u hu hj)

/-! ## Deadlines -/

@[simp] theorem Mach.part_addObj (m : Mach) (i a n q : Nat) : (m.addObj i a n).part q = m.part q := rfl

@[simp] theorem Mach.obj_setWin (m : Mach) (p w : Nat) (f : FillWin) (i a : Nat) : (m.setWin p w f).obj i a = m.obj i a := rfl

@[simp] theorem Mach.win_setWin_same (m : Mach) (p w : Nat) (f : FillWin) : ((m.setWin p w f).part p).wins.get? w = some f := by
  simp [Mach.setWin, Mach.modPart]

/-- The module whose window has a batch made ready at its deadline, with the padding rows counted (R99). -/
def Mach.padReady (m : Mach) (p w : Nat) (f : FillWin) (padding : Nat) : Mach :=
  ((m.setWin p w f).addObj (0x6180 + p) 4 1).addObj (0x6180 + p) 5 padding

theorem Mach.fwExpire_eq {m : Mach} {p w : Nat} {f : FillWin} (hw : (m.part p).wins.get? w = some f) (late : Nat) :
    m.fwExpire p w late = match f.bufs.zipIdx.find? (fun e => e.1.isDue (m.fwNow p) late) with
      | some (b, bi) => m.padReady p w (f.makeReady bi) (64 - b.rows.length)
      | none => m := by
  simp only [Mach.fwExpire, hw]
  rfl

/-- While no buffer's deadline lies that far back nothing becomes ready. -/
theorem Mach.fwExpire_early {m : Mach} {p w late : Nat} {f : FillWin} (hw : (m.part p).wins.get? w = some f)
    (h : ∀ u ∈ f.bufs, ∀ t, u.st = .opened t → m.fwNow p < t + late) : m.fwExpire p w late = m := by
  rw [Mach.fwExpire_eq hw, find?_zipIdx_eq_none fun u hu => FwBuf.isDue_eq_false (h u hu)]

/-- The first open buffer whose deadline lies that far back becomes ready, and its padding rows are counted (R99). -/
theorem Mach.fwExpire_due {m : Mach} {p w late bi t : Nat} {f : FillWin} {b : FwBuf} (hw : (m.part p).wins.get? w = some f)
    (hb : f.bufs[bi]? = some b) (ht : b.st = .opened t) (hdue : t + late ≤ m.fwNow p)
    (hfirst : ∀ j u, f.bufs[j]? = some u → j < bi → ∀ t', u.st = .opened t' → m.fwNow p < t' + late) :
    m.fwExpire p w late = m.padReady p w { f with
      bufs := f.bufs.set bi { b with st := .ready f.made }
      made := f.made + 1 } (64 - b.rows.length) := by
  rw [Mach.fwExpire_eq hw, find?_zipIdx_eq_some hb (FwBuf.isDue_of_opened ht hdue) fun j u hu hj => FwBuf.isDue_eq_false (hfirst j u hu hj),
    ← FillWin.makeReady_eq hb]

/-- Making a batch ready changes its window and the two counters of 6180h + p: no memory, core or job. -/
theorem Mach.padReady_effect (m : Mach) (p w : Nat) (f : FillWin) (padding : Nat) :
    let m' := m.padReady p w f padding
    ((m'.part p).wins.get? w = some f ∧ m'.mem = m.mem ∧ m'.cores = m.cores ∧ m'.jobs = m.jobs) ∧
      m'.obj (0x6180 + p) 4 = min (m.obj (0x6180 + p) 4 + 1) (2 ^ 64 - 1) ∧
      m'.obj (0x6180 + p) 5 = min (m.obj (0x6180 + p) 5 + padding) (2 ^ 64 - 1) := by
  have h45 : okey (0x6180 + p) 4 ≠ okey (0x6180 + p) 5 := by simp only [okey]; omega
  refine ⟨⟨?_, rfl, rfl, rfl⟩, ?_, ?_⟩
  · rw [Mach.padReady, Mach.part_addObj, Mach.part_addObj, Mach.win_setWin_same]
  · rw [Mach.padReady, Mach.addObj, Mach.obj_setObj_other _ h45.symm, Mach.obj_addObj_same, Mach.obj_setWin]
  · rw [Mach.padReady, Mach.obj_addObj_same, Mach.addObj, Mach.obj_setObj_other _ h45, Mach.obj_setWin]

theorem Mach.fwNow_of_not_switching {m : Mach} {p : Nat} (h : m.switching p = false) : m.fwNow p = m.rc := by
  simp [Mach.fwNow, h]

/-! ## Pieces that lie apart -/

/-- Pieces that lie apart from a range leave what it reads. -/
theorem Mach.rd_wrAll_apart {m : Mach} (hm : Memory.wf m) {ws : List (Nat × List Byte)} {x n : Nat}
    (h : ∀ v ∈ ws, x + n ≤ v.1 ∨ v.1 + v.2.length ≤ x) : (m.wrAll ws).rd x n = m.rd x n := by
  induction ws generalizing m with
  | nil => rfl
  | cons v t ih =>
    obtain ⟨hv, ht⟩ := List.forall_mem_cons.mp h
    exact (ih (Memory.wf_wr hm v.1 v.2) ht).trans (Mach.rd_wr_apart hm v.1 v.2 x n hv)

/-- A piece that lies apart from all others is read back. -/
theorem Mach.rd_wrAll_of_mem {m : Mach} (hm : Memory.wf m) {ws : List (Nat × List Byte)} {w : Nat × List Byte} (hw : w ∈ ws)
    (h : ∀ v ∈ ws, v = w ∨ w.1 + w.2.length ≤ v.1 ∨ v.1 + v.2.length ≤ w.1) : (m.wrAll ws).rd w.1 w.2.length = w.2 := by
  induction ws generalizing m with
  | nil => cases hw
  | cons v t ih =>
    have ht : ∀ u ∈ t, u = w ∨ w.1 + w.2.length ≤ u.1 ∨ u.1 + u.2.length ≤ w.1 := fun u hu => h u (List.mem_cons_of_mem v hu)
    by_cases hwt : w ∈ t
    · exact ih (Memory.wf_wr hm v.1 v.2) hwt ht
    · obtain rfl : w = v := (List.mem_cons.mp hw).resolve_right hwt
      have hapart : ∀ u ∈ t, w.1 + w.2.length ≤ u.1 ∨ u.1 + u.2.length ≤ w.1 := fun u hu =>
        (ht u hu).resolve_left fun e => hwt (e ▸ hu)
      exact (Mach.rd_wrAll_apart (Memory.wf_wr hm w.1 w.2) hapart).trans (Mach.rd_wr_same hm w.1 w.2)

/-- Bytes outside a range are outside every piece that lies in it. -/
theorem SameOutside.widen {m m' : Mach} {ws : List (Nat × Nat)} {a n : Nat} (h : SameOutside ws m m')
    (hin : ∀ w ∈ ws, a ≤ w.1 ∧ w.1 + w.2 ≤ a + n) : SameOutside [(a, n)] m m' := by
  intro x hx
  refine h x fun w hw => ?_
  have hout := hx (a, n) (by simp)
  have hwin := hin w hw
  dsimp only at hout
  omega

/-! ## The row of a post -/

/-- The elements of 64 K-steps of a post's row, in its slot of the block (R98, R200). -/
def postElems (m : Mach) (fmt base slot src q : Nat) : Nat × List Byte :=
  (base + (64 * q + slot) * 8 * widthOf fmt, m.rd (src + q * 8 * widthOf fmt) (8 * widthOf fmt))

/-- Their two scale bytes, where the format has scales. -/
def postScales (m : Mach) (fmt k base slot src q : Nat) : Nat × List Byte :=
  (base + 8 * k * widthOf fmt + 128 * q + 2 * slot, m.rd (src + alignUp (k * widthOf fmt / 8) 64 + 2 * q) 2)

section
variable (m : Mach) (fmt k base slot src : Nat)

@[simp] theorem length_postElems (q : Nat) : (postElems m fmt base slot src q).2.length = 8 * widthOf fmt := Mem.length_read ..
@[simp] theorem length_postScales (q : Nat) : (postScales m fmt k base slot src q).2.length = 2 := Mem.length_read ..

/-- A post's pieces are the elements and the scales of each 64 K-steps. -/
theorem mem_writes_movedPost (v : Nat × List Byte) : v ∈ (movedPost m fmt k base slot src).writes ↔
    ∃ q < k / 64, v = postElems m fmt base slot src q ∨ (isMx fmt = true ∧ v = postScales m fmt k base slot src q) := by
  simp only [Moved.writes, movedPost, List.map_flatMap, List.mem_flatMap, List.mem_range]
  refine exists_congr fun q => and_congr_right fun _ => ?_
  cases isMx fmt <;> simp [postElems, postScales]

variable {m fmt k base slot src}

/-- The elements of one slot end before those of a later one. -/
theorem slot_end_le {i j n : Nat} (h : i < j) : i * 8 * n + 8 * n ≤ j * 8 * n := by
  calc i * 8 * n + 8 * n = (i + 1) * (8 * n) := by ring
    _ ≤ j * (8 * n) := Nat.mul_le_mul_right _ h
    _ = j * 8 * n := by ring

/-- Elements lie in the part of the block before its scales. -/
theorem postElems_end_le (hs : slot < 64) {q : Nat} (hq : q < k / 64) :
    (64 * q + slot) * 8 * widthOf fmt + 8 * widthOf fmt ≤ 8 * k * widthOf fmt := by
  have hk : 64 * q + slot < k := by omega
  have h := slot_end_le (n := widthOf fmt) hk
  rwa [Nat.mul_comm k 8] at h

/-- A post's pieces lie in the block of its buffer (R200). -/
theorem writes_movedPost_in_block (hs : slot < 64) : ∀ v ∈ (movedPost m fmt k base slot src).writes,
    base ≤ v.1 ∧ v.1 + v.2.length ≤ base + blockBytes fmt k := by
  intro v hv
  obtain ⟨q, hq, rfl | ⟨hmx, rfl⟩⟩ := (mem_writes_movedPost ..).mp hv
  · have hend := postElems_end_le (fmt := fmt) hs hq
    rw [length_postElems]
    simp only [postElems, blockBytes]
    omega
  · rw [length_postScales]
    simp only [postScales, blockBytes, hmx, if_true]
    omega

/-- The elements of one place of the row lie apart from its other pieces. -/
theorem postElems_apart (hs : slot < 64) {q : Nat} (hq : q < k / 64) : ∀ v ∈ (movedPost m fmt k base slot src).writes,
    v = postElems m fmt base slot src q ∨
      (postElems m fmt base slot src q).1 + (postElems m fmt base slot src q).2.length ≤ v.1 ∨
      v.1 + v.2.length ≤ (postElems m fmt base slot src q).1 := by
  intro v hv
  obtain ⟨i, hi, rfl | ⟨-, rfl⟩⟩ := (mem_writes_movedPost ..).mp hv
  · rw [length_postElems, length_postElems]
    simp only [postElems]
    obtain hlt | rfl | hgt := Nat.lt_trichotomy i q
    · have hend := slot_end_le (n := widthOf fmt) (show 64 * i + slot < 64 * q + slot by omega)
      omega
    · exact .inl rfl
    · have hend := slot_end_le (n := widthOf fmt) (show 64 * q + slot < 64 * i + slot by omega)
      omega
  · have hend := postElems_end_le (fmt := fmt) hs hq
    rw [length_postElems, length_postScales]
    simp only [postElems, postScales]
    omega

end

/-! ## FW_POST_ACCEPT -/

/-- The buffer with a further row; a free one opens with its deadline (R98, R99). -/
def FwBuf.take (b : FwBuf) (deadline : Nat) (row : FwRow) : FwBuf :=
  { b with
    st := match b.st with
      | .opened t => .opened t
      | _ => .opened deadline
    rows := b.rows ++ [row] }

/-- The window with that buffer: its 64th row makes it ready (R99). -/
def FillWin.accept (f : FillWin) (bi deadline : Nat) (b : FwBuf) (row : FwRow) : FillWin :=
  let f' : FillWin := { f with bufs := f.bufs.set bi (b.take deadline row) }
  if b.rows.length = 63 then f'.makeReady bi else f'

/-- The module with a post's pieces in memory and its row in the window, a full batch counted (R99). -/
def Mach.postStored (m : Mach) (p w : Nat) (ws : List (Nat × List Byte)) (f : FillWin) (full : Prop) [Decidable full] : Mach :=
  if full then ((m.wrAll ws).setWin p w f).addObj (0x6180 + p) 3 1 else (m.wrAll ws).setWin p w f

section
variable {m : Mach} {p w core bi ei src len ret tag mk : Nat} {f : FillWin} {rest : List Nat} {b : FwBuf} {e : DmaEntry}
  (hw : (m.part p).wins.get? w = some f) (hposts : f.posts = core :: rest) (hb : f.bufs[bi]? = some b) (hnext : f.TakesNext bi b)
  (hpost : findPost (m.core core).host.dma w = some (ei, e)) (hplan : e.plan = .post w src len ret tag mk)
include hw hposts hb hnext hpost hplan

theorem Mach.nextPost_eq : m.nextPost p w = some (core, ei, b, bi, ⟨core, ret, tag, mk⟩,
    movedPost m f.fmt f.k (clusterKey ((m.clusters p).getD f.home 0) (f.base + bi * blockBytes f.fmt f.k)) b.rows.length src) := by
  simp only [Mach.nextPost, hw, hposts, FillWin.target_eq hb hnext, hpost, hplan]

/-- A post is accepted: its row moves, the window takes it, and it leaves the operations of its core (R98, R99). -/
theorem doFwAccept_eq {mv : Moved} (hmv : movedPost m f.fmt f.k (clusterKey ((m.clusters p).getD f.home 0) (f.base + bi * blockBytes f.fmt f.k))
      b.rows.length src = mv)
    (hjob : ∃ j, m.resJob p = some j) (hearly : ∀ u ∈ f.bufs, ∀ t, u.st = .opened t → m.fwNow p ≤ t) (hgood : m.badPieceOf mv = none) :
    doFwAccept m p w = ((m.postStored p w mv.writes
      (f.accept bi (m.fwNow p + 25 * m.obj (0x6180 + p) 2) b ⟨core, ret, tag, mk⟩) (b.rows.length = 63)).dropPost p w core ei).settle p := by
  obtain ⟨j, hj⟩ := hjob
  have hexpire := Mach.fwExpire_early (late := 1) hw fun u hu t ht => Nat.lt_succ_of_le (hearly u hu t ht)
  have hpostNext := Mach.nextPost_eq hw hposts hb hnext hpost hplan
  rw [hmv] at hpostNext
  have hfull : b.rows.length + 1 = 64 ↔ b.rows.length = 63 := by omega
  simp only [doFwAccept, hj, hexpire, hw, hpostNext, hgood, hfull, Mach.postStored, FillWin.accept]
  by_cases h63 : b.rows.length = 63
  · simp only [h63, if_true]
    rfl
  · simp only [h63, if_false]
    rfl

end

/-- A post that leaves takes itself from its window's list and its core's operations; memory and the dictionary keep what they hold. -/
theorem Mach.dropPost_effect {m : Mach} {p w : Nat} {f : FillWin} (hw : (m.part p).wins.get? w = some f) (core ei : Nat) :
    ((m.dropPost p w core ei).part p).wins.get? w = some { f with posts := f.posts.erase core } ∧
      ((m.dropPost p w core ei).core core).host.dma = (m.core core).host.dma.eraseIdx ei ∧
      (m.dropPost p w core ei).objs = m.objs := by
  have heq : m.dropPost p w core ei = (m.setWin p w { f with posts := f.posts.erase core }).modCtx core false
      (fun c => { c with dma := c.dma.eraseIdx ei }) := by
    simp only [Mach.dropPost, hw]
  rw [heq]
  refine ⟨?_, ?_, rfl⟩
  · exact Mach.win_setWin_same ..
  · exact congrArg Ctx.dma (Mach.ctx_modCtx (m.setWin p w _) core false _)

section
variable (m : Mach) (p w : Nat) (ws : List (Nat × List Byte)) (f : FillWin) (full : Prop) [Decidable full]

theorem Mach.postStored_effect :
    (m.postStored p w ws f full).mem = (m.wrAll ws).mem ∧ (m.postStored p w ws f full).cores = m.cores ∧
      ((m.postStored p w ws f full).part p).wins.get? w = some f ∧
      (full → (m.postStored p w ws f full).obj (0x6180 + p) 3 = min (m.obj (0x6180 + p) 3 + 1) (2 ^ 64 - 1)) := by
  have hcores : (m.wrAll ws).cores = m.cores := Mach.wrAll_cores m ws
  have hobjs : ((m.wrAll ws).setWin p w f).objs = m.objs := Mach.wrAll_objs m ws
  have hwin := (m.wrAll ws).win_setWin_same p w f
  unfold Mach.postStored
  by_cases hfull : full
  · rw [if_pos hfull]
    refine ⟨rfl, hcores, hwin, fun _ => ?_⟩
    rw [Mach.obj_addObj_same, Mach.obj_eq_of_objs hobjs]
  · rw [if_neg hfull]
    exact ⟨rfl, hcores, hwin, fun h => absurd h hfull⟩

end

/-- What the window holds once it has taken a row. -/
theorem FillWin.accept_effect {f : FillWin} {bi : Nat} {b : FwBuf} (hb : f.bufs[bi]? = some b) (deadline : Nat) (row : FwRow) :
    (f.accept bi deadline b row).posts = f.posts ∧
    (f.accept bi deadline b row).made = f.made + (if b.rows.length = 63 then 1 else 0) ∧
    (f.accept bi deadline b row).bufs[bi]? = some { b.take deadline row with
      st := if b.rows.length = 63 then .ready f.made else (b.take deadline row).st } := by
  obtain ⟨hbi, -⟩ := List.getElem?_eq_some_iff.mp hb
  have hset : ∀ x : FwBuf, (f.bufs.set bi x)[bi]? = some x := fun x => List.getElem?_set_self hbi
  have hready := FillWin.makeReady_eq (f := { f with bufs := f.bufs.set bi (b.take deadline row) }) (hset _)
  unfold FillWin.accept
  by_cases h63 : b.rows.length = 63
  · simp only [h63, if_true, hready, List.set_set, hset, and_self]
  · simp only [h63, if_false, hset, Nat.add_zero, and_self]

/-! ## FW_BUFFER_FREE -/

/-- A ready buffer that every consumer has finished with is free again (R102). -/
theorem doFwFree_eq {m : Mach} {p w bi n : Nat} {f : FillWin} {b : FwBuf} (hw : (m.part p).wins.get? w = some f) (hb : f.bufs[bi]? = some b)
    (hready : b.st = .ready n) (hused : ∀ j, j < 16 → bit f.cons j = true → 16 * (m.clusters p).getD f.home 0 + j ∈ b.used) :
    doFwFree m p w bi = m.setWin p w { f with bufs := f.bufs.set bi ⟨.free, [], []⟩ } := by
  have hall : (bitsOf 16 f.cons).all (fun j => b.used.contains (16 * (m.clusters p).getD f.home 0 + j)) = true := by
    simp only [List.all_eq_true, bitsOf, List.mem_filter, List.mem_range, List.contains_iff_mem]
    exact fun j hj => hused j hj.1 hj.2
  obtain ⟨st, rows, used⟩ := b
  cases hready
  simp only [doFwFree, hw, hb]
  exact if_pos hall

/-- Settles O17: a post's row reaches its slot and window, a passed deadline pads the open buffer, and a finished batch frees its buffer. -/
theorem postsAndWindows : Obligations.PostsAndWindows := by
  constructor
  · intro s p w core bi ei src len ret tag mk f rest b e hrun hw hposts hb hnext hearly hpost hplan hjob hlen st base wd hgood
    have hg := gives_step (.fwPostAccept p w) s (fun m => doFwAccept m p w) rfl hrun
    rw [doFwAccept_eq hw hposts hb hnext hpost hplan rfl hjob hearly hgood] at hg
    let row : FwRow := ⟨core, ret, tag, mk⟩
    let deadline := s.mach.fwNow p + 25 * s.mach.obj (0x6180 + p) 2
    let mv := movedPost s.mach f.fmt f.k base b.rows.length src
    let stored := s.mach.postStored p w mv.writes (f.accept bi deadline b row) (b.rows.length = 63)
    obtain ⟨haccPosts, hmade, hbuf⟩ := FillWin.accept_effect hb deadline row
    obtain ⟨hmem, hcores, hwin, hcount⟩ : stored.mem = _ ∧ _ := s.mach.postStored_effect p w mv.writes _ (b.rows.length = 63)
    obtain ⟨hwin', hdma, hobjs⟩ := Mach.dropPost_effect hwin core ei
    have hcore : stored.core core = s.mach.core core := Mach.core_eq_of_cores hcores core
    have hmem' : (stored.dropPost p w core ei).mem = (s.mach.wrAll mv.writes).mem := (Mach.dropPost_mem ..).trans hmem
    refine ⟨_, _, _, hg, hwin', ?_, hbuf, rfl, rfl, hmade, ?_, fun h63 => ?_, fun hwf => ⟨?_, fun q hq => ?_⟩⟩
    · simp [haccPosts, hposts]
    · rw [hdma, hcore]
    · exact (Mach.obj_eq_of_objs hobjs _ _).trans (hcount h63)
    · have hpieces := (Stores.of_mem hmem').2 hwf
      refine hpieces.widen fun v hv => ?_
      obtain ⟨u, hu, rfl⟩ := List.mem_map.mp hv
      exact writes_movedPost_in_block hlen u hu
    · have hmemq := (mem_writes_movedPost s.mach f.fmt f.k base b.rows.length src _).mpr ⟨q, hq, .inl rfl⟩
      have hread := Mach.rd_wrAll_of_mem hwf hmemq (postElems_apart hlen hq)
      rw [length_postElems] at hread
      exact (Mach.rd_eq_of_mem hmem' _ _).trans hread
  · intro s p w bi f b hrun hw hb with'
    constructor
    · intro t ht hdue hfirst hswitch
      have hg := gives_step (.fwDeadline p w) s (fun m => doFwDeadline m p w) rfl hrun
      have hnow := Mach.fwNow_of_not_switching hswitch
      have hexpire := Mach.fwExpire_due (late := 0) hw hb ht (hnow ▸ hdue) (hnow ▸ hfirst)
      simp only [doFwDeadline, hswitch, Bool.false_eq_true, if_false, hexpire] at hg
      exact ⟨_, hg, Mach.padReady_effect ..⟩
    · intro n hready hused
      have hg := gives_step (.fwBufferFree p w bi) s (fun m => doFwFree m p w bi) rfl hrun
      rw [doFwFree_eq hw hb hready hused] at hg
      exact ⟨_, hg, ⟨Mach.win_setWin_same .., rfl, rfl, rfl⟩, rfl⟩

end Sys2Proof.Machine
end

section
/-! SUPPORT. Proofs: words that raise a fault, the end of a stream, and the wait limit (R148, R151 to R153). -/

namespace Sys2Proof.Machine

/-! ## Faults that other changes come before or after -/

/-- A command whose outcome ends in a fault of a core's context takes it, whatever it changes besides: the module it faults in has the job, the time,
the core's slot and what the context's sequencer does from the state, and after the fault the job's record, the cores, the jobs and the recovery path
keep what it left. -/
theorem Faults.of_fault_among {c : Instr} {s : State} {m m' : Mach} {p core code opc pc info : Nat} {guest : Bool} (hg : Gives c s m')
    (hobj : ∀ v, (m.fault p core guest code opc pc info).obj (faultIdx p guest).1 (faultIdx p guest).2 = v →
      m'.obj (faultIdx p guest).1 (faultIdx p guest).2 = v)
    (hcores : m'.cores = (m.fault p core guest code opc pc info).cores) (hjobs : m'.jobs = (m.fault p core guest code opc pc info).jobs)
    (hwait : m'.hwWait = (m.fault p core guest code opc pc info).hwWait) (hj : m.jobs = s.mach.jobs) (hrc : m.rc = s.mach.rc)
    (hslot : (m.core core).slot = (s.mach.core core).slot)
    (hrun : ((m.core core).ctx guest).run = ((s.mach.core core).ctx guest).run) : Faults c s p core guest code opc pc info := by
  intro j hjob hjrun
  have hcore := m.core_faultStopped p core guest code
  have hslot' : ((m.faultStopped p core guest code).core core).slot = (s.mach.core core).slot := by
    rw [hcore, ← hslot]; cases guest <;> rfl
  have hstopped : (((m.faultStopped p core guest code).core core).ctx guest).run = ((s.mach.core core).ctx guest).stop.run := by
    simp only [Ctx.stop, ← hrun]
    rw [hcore]
    cases guest <;> rfl
  have hjob' : (m.faultStopped p core guest code).jobOf p guest = some j := by
    rw [← hjob]; simp only [Mach.jobOf, Mach.guestJob, Mach.resJob, Mach.faultStopped_jobs, hj]
  have hrec : faultRecord (m.faultStopped p core guest code) core code opc pc j.tag j.genr info =
      faultRecord s.mach core code opc pc j.tag j.genr info := by
    simp only [faultRecord, hslot', Mach.faultStopped_rc, hrc]
  obtain ⟨hrecord, hctx', hjobs', hwait'⟩ := Mach.jobFault_effect hjob' hjrun hstopped (m.fault_eq p core guest code opc pc info)
  refine ⟨m', hg, ?_, ?_, fun k hk => hjobs' k (hjobs ▸ hk), fun hh => ?_⟩
  · rw [← hrec, ← hobj _ hrecord]; cases guest <;> rfl
  · rw [← hctx']; simp only [Mach.core, hcores]
  · rw [hwait, hwait']; exact m.mem_hwWait_faultStopped p core guest code hh

/-! ## Words that raise a fault -/

/-- A command whose word raises a fault that no read found takes it (R151). -/
theorem Faults.of_word {c : Instr} {s : State} {core code info : Nat} {x : Wx} {sel : Mach → Wx → Bool} {checks : Mach → Wx → List (Nat × Nat)}
    {stall : Mach → Wx → Bool} {act : Mach → Wx → Mach} (hrow : exec c s = s.step (fun m => issue m core sel checks stall act))
    (hrun : s.mach.phase = .running) (hw : s.mach.wx core = some x) (hs : sel s.mach x = true)
    (hf : pickFault (shown (stall s.mach x) (checks s.mach x)) = some (code, info)) (hcode : code ≠ 0x11) :
    Faults c s x.p core x.guest code (opcOf x.w) x.ctx.pc info := by
  have hg := gives_step c s _ hrow hrun
  rw [issue_faults s.mach hw hs hf hcode, Mach.seatIf_core (Option.filter_eq_some_iff.mp hw).1] at hg
  exact Faults.of_fault hg rfl rfl rfl rfl

/-- A word that waits shows the faults that no read finds as well (R124). -/
theorem shown_eq {fs : List (Nat × Nat)} (h : ∀ f ∈ fs, readCode f.1 = false) (stalled : Bool) : shown stalled fs = fs := by
  cases stalled
  · rfl
  · exact List.filter_eq_self.mpr fun f hf => by simp [h f hf]

theorem readCode_genFaults (w : Nat) (named : List (Nat × Nat)) : ∀ f ∈ genFaults w named, readCode f.1 = false := by
  intro f hf
  simp only [genFaults, reservedBit, List.mem_append] at hf
  rcases hf with hf | hf
  · split at hf
    · obtain rfl := List.mem_singleton.mp hf; rfl
    · split at hf
      · obtain rfl := List.mem_singleton.mp hf; rfl
      · cases hf
  · split at hf
    · obtain rfl := List.mem_singleton.mp hf; rfl
    · cases hf

theorem readCode_mustZero (w hi lo : Nat) (cond : Bool) : ∀ f ∈ mustZero w hi lo cond, readCode f.1 = false := by
  intro f hf
  unfold mustZero at hf
  split at hf
  · split at hf
    · obtain rfl := List.mem_singleton.mp hf; rfl
    · cases hf
  · cases hf

theorem readCode_mkFaults (m : Mach) (x : Wx) (mk : Nat) : ∀ f ∈ mkFaults m x mk, readCode f.1 = false := by
  intro f hf
  unfold mkFaults at hf
  dsimp only at hf
  split at hf
  · obtain rfl := List.mem_singleton.mp hf; rfl
  · cases hf

/-- No fault of an MSIG word is found by reading memory. -/
theorem readCode_checksMsig (m : Mach) (x : Wx) : ∀ f ∈ checksMsig m x, readCode f.1 = false := by
  intro f hf
  simp only [checksMsig, List.mem_append, badField] at hf
  rcases hf with ((hf | hf) | hf) | hf
  · exact readCode_genFaults _ _ f hf
  · split at hf
    · obtain rfl := List.mem_singleton.mp hf; rfl
    · cases hf
  · exact readCode_mustZero _ _ _ _ f hf
  · split at hf
    · split at hf
      · cases hf
      · obtain rfl := List.mem_singleton.mp hf; rfl
    · exact readCode_mkFaults _ _ _ f hf

theorem selOpc_eq {o : Nat} {x : Wx} (m : Mach) (h : opcOf x.w = o) : selOpc o m x = true := decide_eq_true h

/-- What the FAULT row checks of a FAULT word. -/
theorem checksUnnamed_fault (m : Mach) {x : Wx} (h : opcOf x.w = 2) : checksUnnamed m x = checksFault m x := by
  simp [checksUnnamed, h]

/-! ## WAIT_TIMEOUT -/

/-- The host context's wait is past the limit, or the guest's is and the host's is not (R148). -/
theorem doWaitTimeout_overdue {m : Mach} {core p k : Nat} {guest : Bool} (hp : m.partOf (core / 16) = some p)
    (hk : m.overdue p core guest = some k) (hhost : guest = true → m.overdue p core false = none) :
    doWaitTimeout m core = m.fault p core guest 0x21 9 ((m.core core).ctx guest).pc
      (512 * (m.clusters p).idxOf (k / 512) + k % 512 + 65536 * m.markers.get 0 k) := by
  cases guest with
  | false => simp only [doWaitTimeout, hp, hk]
  | true => simp only [doWaitTimeout, hp, hk, hhost rfl]

/-- Settles O6: a word's lowest fault is taken at its PC; FAULT, the end of a stream and a wait past its limit fault as their rows say. -/
theorem coreFaults : Obligations.CoreFaults := by
  constructor
  · intro s core x code info hrun hw stopped hcode
    refine ⟨?_, ?_, ?_, ?_, ?_, ?_, ?_, ?_, ?_, ?_⟩ <;> intro hopc hf
    · exact Faults.of_word (c := .nop core) rfl hrun hw (selOpc_eq _ hopc) hf hcode
    · exact Faults.of_word (c := .halt core) rfl hrun hw (selOpc_eq _ hopc) hf hcode
    · exact Faults.of_word (c := .set core) rfl hrun hw (selOpc_eq _ hopc) hf hcode
    · exact Faults.of_word (c := .add core) rfl hrun hw (selOpc_eq _ hopc) hf hcode
    · exact Faults.of_word (c := .dbnz core) rfl hrun hw (selOpc_eq _ hopc) hf hcode
    · exact Faults.of_word (c := .bcmp core) rfl hrun hw (selOpc_eq _ hopc) hf hcode
    · exact Faults.of_word (c := .rctx core) rfl hrun hw (selOpc_eq _ hopc) hf hcode
    · refine Faults.of_word (c := .msig core) rfl hrun hw (selOpc_eq _ hopc) ?_ hcode
      rw [shown_eq (readCode_checksMsig s.mach x)]
      exact hf
    · exact Faults.of_word (c := .mwait core) rfl hrun hw (selOpc_eq _ hopc) hf hcode
    · exact Faults.of_word (c := .mrst core) rfl hrun hw (selOpc_eq _ hopc) hf hcode
  · intro s core hrun
    refine ⟨fun x hx hopc => ?_, fun x hseat hend => ?_, fun p k guest hp hk hhost => ?_⟩
    · have hx' : Issues s core x checksUnnamed noStall := ⟨hx.up, hx.word, checksUnnamed_fault s.mach hopc ▸ hx.sound, hx.free⟩
      have hg := gives_step (.fault core) s (fun m => issue m core selFault checksUnnamed noStall doFault) rfl hrun
      rw [issue_issues hx' (by simp [selFault, hopc]), doFault, hx.core_eq] at hg
      exact Faults.of_fault hg rfl rfl rfl rfl
    · have hg := gives_step (.streamEnd core) s (fun m => doStreamEnd m core) rfl hrun
      simp only [doStreamEnd, hseat, ge_iff_le, if_pos hend] at hg
      exact Faults.of_fault hg rfl rfl rfl rfl
    · have hg := gives_step (.waitTimeout core) s (fun m => doWaitTimeout m core) rfl hrun
      rw [doWaitTimeout_overdue hp hk hhost] at hg
      exact Faults.of_fault hg rfl rfl rfl rfl

end Sys2Proof.Machine
end

section
/-! SUPPORT. Proofs: what sending a message changes, and the marker words (R140, R143, R145). -/

namespace Sys2Proof.Machine

/-! ## Signals that merge (R143) -/

/-- Of a queue read from its newest end, the newest message of the source, a signal to the marker, takes the signal up. -/
theorem mergeNewest_found (s k n n' : Nat) {newer : List MkMsg} (older : List MkMsg) (h : ∀ y ∈ newer, y.src ≠ s) :
    mergeNewest s k n (newer ++ .signal s k n' :: older) = some (newer ++ .signal s k (min (n + n') 0xFFFFFFFF) :: older) := by
  induction newer with
  | nil => simp [mergeNewest]
  | cons y t ih =>
    obtain ⟨hy, ht⟩ := List.forall_mem_cons.mp h
    cases y <;> simp only [MkMsg.src, ne_eq] at hy <;> simp [mergeNewest, hy, ih ht]

/-- A signal merges only into such a message. -/
theorem exists_of_mergeNewest {s k n : Nat} {q q' : List MkMsg} (h : mergeNewest s k n q = some q') :
    ∃ newer n' older, q = newer ++ .signal s k n' :: older ∧ ∀ y ∈ newer, y.src ≠ s := by
  induction q generalizing q' with
  | nil => cases h
  | cons y t ih =>
    have later : y.src ≠ s → (∃ t', mergeNewest s k n t = some t') →
        ∃ newer n' older, y :: t = newer ++ .signal s k n' :: older ∧ ∀ z ∈ newer, z.src ≠ s := by
      rintro hy ⟨t', ht⟩
      obtain ⟨newer, n', older, rfl, hnewer⟩ := ih ht
      exact ⟨y :: newer, n', older, rfl, List.forall_mem_cons.mpr ⟨hy, hnewer⟩⟩
    cases y with
    | signal s' k' n' =>
      simp only [mergeNewest] at h
      split at h
      next hs => exact later hs (Option.map_eq_some_iff.mp h |>.imp fun _ e => e.1)
      next hs =>
        obtain rfl : s' = s := by simpa using hs
        split at h
        next hk => exact ⟨[], n', t, by rw [hk]; rfl, by simp⟩
        next => cases h
    | reset s' k' =>
      simp only [mergeNewest] at h
      split at h
      next => cases h
      next hs => exact later hs (Option.map_eq_some_iff.mp h |>.imp fun _ e => e.1)
    | wait s' k' n' c g =>
      simp only [mergeNewest] at h
      split at h
      next => cases h
      next hs => exact later hs (Option.map_eq_some_iff.mp h |>.imp fun _ e => e.1)

/-- A signal merges into the newest waiting message of its source, when that is a signal to the same marker. -/
theorem sendTo_merges (s k n n' : Nat) (older : List MkMsg) {newer : List MkMsg} (h : ∀ y ∈ newer, y.src ≠ s) :
    sendTo (older ++ .signal s k n' :: newer) (.signal s k n) = older ++ .signal s k (min (n + n') 0xFFFFFFFF) :: newer := by
  have hrev : (older ++ .signal s k n' :: newer).reverse = newer.reverse ++ .signal s k n' :: older.reverse := by simp
  simp only [sendTo, hrev, mergeNewest_found s k n n' older.reverse (newer := newer.reverse) (by simpa using h)]
  simp

/-- A signal that finds no such message waits behind all others. -/
theorem sendTo_waits {s k n : Nat} {q : List MkMsg}
    (h : ∀ older newer n', ¬ (q = older ++ .signal s k n' :: newer ∧ ∀ y ∈ newer, y.src ≠ s)) :
    sendTo q (.signal s k n) = q ++ [.signal s k n] := by
  have hnone : mergeNewest s k n q.reverse = none := by
    rw [Option.eq_none_iff_forall_ne_some]
    intro q' hq
    obtain ⟨newer, n', older, hrev, hnewer⟩ := exists_of_mergeNewest hq
    refine h older.reverse newer.reverse n' ⟨?_, by simpa using hnewer⟩
    rw [← List.reverse_reverse q, hrev]
    simp
  simp only [sendTo, hnone]
  rfl

/-! ## What a message that is sent changes -/

/-- What sending changes: links, the counters of their messages (4840h + l.05), what has left and what is delivered here. -/
structure SendsOnly (m m' : Mach) : Prop where
  fields : m' = { m with
    linkRt := m'.linkRt
    objs := m'.objs
    outbox := m'.outbox
    localMsgs := m'.localMsgs
    mid := m'.mid }
  objs : ∀ idx sub, (∀ l < 64, okey idx sub ≠ okey (0x4840 + l) 5) → m'.obj idx sub = m.obj idx sub

theorem SendsOnly.refl (m : Mach) : SendsOnly m m := ⟨rfl, fun _ _ _ => rfl⟩

theorem SendsOnly.trans {a b c : Mach} (h : SendsOnly a b) (h' : SendsOnly b c) : SendsOnly a c := by
  obtain ⟨hfields, hobjs⟩ := h
  obtain ⟨hfields', hobjs'⟩ := h'
  refine ⟨?_, fun i n hn => (hobjs' i n hn).trans (hobjs i n hn)⟩
  rw [hfields] at hfields'
  exact hfields'

theorem SendsOnly.of_objs {m m' : Mach} (hfields : m' = { m with
    linkRt := m'.linkRt
    outbox := m'.outbox
    localMsgs := m'.localMsgs
    mid := m'.mid }) : SendsOnly m m' := by
  have hobjs : m'.objs = m.objs := by rw [hfields]
  exact ⟨hfields.trans (by rw [hobjs]), fun i n _ => Mach.obj_eq_of_objs hobjs i n⟩

/-- A link sends what it can. -/
theorem SendsOnly.pump (m : Mach) (l fuel : Nat) : SendsOnly m (m.pump l fuel) := by
  induction fuel generalizing m with
  | zero => exact SendsOnly.refl m
  | succ fuel ih =>
    unfold Mach.pump
    split
    next => exact SendsOnly.refl m
    next hup =>
      have hl : l < 64 := by
        simp only [Mach.carries, Bool.and_eq_true, decide_eq_true_eq, Bool.not_eq_true', Bool.not_eq_false] at hup
        exact hup.1.1.1
      split
      · exact SendsOnly.refl m
      · refine SendsOnly.trans ⟨rfl, fun i n hn => ?_⟩ (ih _)
        exact Mach.obj_setObj_other _ (hn l hl).symm _

/-- A message on its way changes links, what has been sent and what is delivered here: nothing else. -/
theorem SendsOnly.sendMsg (m : Mach) (x : Msg) : SendsOnly m (m.sendMsg x).2.2 := by
  unfold Mach.sendMsg
  split
  · exact SendsOnly.refl m
  · exact SendsOnly.of_objs rfl
  · split
    · exact SendsOnly.refl m
    · exact SendsOnly.trans (SendsOnly.of_objs rfl) (SendsOnly.pump ..)

/-! ## Marker words -/

/-- A word with nothing to pick from raises no fault. -/
theorem pickFault_eq_none {fs : List (Nat × Nat)} (h : pickFault fs = none) : fs = [] := by
  cases fs with
  | nil => rfl
  | cons f t =>
    unfold pickFault at h
    split at h
    · cases h
    · split at h <;> cases h

/-- An MSIG counts something, and one to a peer names a peer of its host's pricking. -/
theorem msig_sound {m : Mach} {x : Wx} (h : pickFault (checksMsig m x) = none) :
    x.f 103 72 ≠ 0 ∧ (bit x.w 71 = true → ∃ r, x.pk.peerRec (x.f 70 63) = some r) := by
  have hnil : checksMsig m x = [] := pickFault_eq_none h
  simp only [checksMsig, List.append_eq_nil_iff, badField] at hnil
  obtain ⟨⟨⟨-, hcount⟩, -⟩, hpeer⟩ := hnil
  refine ⟨fun h0 => by simp [h0] at hcount, fun hbit => ?_⟩
  rw [hbit, if_pos rfl] at hpeer
  cases hr : x.pk.peerRec (x.f 70 63) with
  | some r => exact ⟨r, rfl⟩
  | none => rw [hr] at hpeer; cases hg : x.guest <;> rw [hg] at hpeer <;> cases hpeer


/-- A word whose sequencer moves on behind it. -/
def Mach.onward (m : Mach) (core : Nat) (guest : Bool) : Mach := m.modCtx core guest (fun c => { c with pc := c.pc + 1 })

section
variable {s : State} {core : Nat} {x : Wx}

theorem gives_msig (h : Issues s core x checksMsig stallMsig) (hopc : opcOf x.w = 8) : Gives (.msig core) s (doMsig s.mach x) := by
  have hg := gives_step (.msig core) s (fun m => issue m core (selOpc 8) checksMsig stallMsig doMsig) rfl h.up
  rwa [issue_issues h (selOpc_eq _ hopc)] at hg

/-- MSIG here sends its signal to the marker's block. -/
theorem doMsig_here (h : Issues s core x checksMsig stallMsig) (hbit : bit x.w 71 = false) : doMsig s.mach x =
    (s.mach.onward core x.guest).send (s.mach.absMk x.p (x.f 119 104) / 512)
      (.signal (core / 256) (s.mach.absMk x.p (x.f 119 104)) (x.f 103 72)) := by
  simp only [doMsig, hbit, Bool.false_eq_true, if_false, Mach.advance, h.core_eq]
  rfl

/-- MSIG to a peer sends a message of its marker and count. -/
theorem doMsig_peer (h : Issues s core x checksMsig stallMsig) (hbit : bit x.w 71 = true) {r : List Byte}
    (hr : x.pk.peerRec (x.f 70 63) = some r) : doMsig s.mach x =
    { s.mach.onward core x.guest with mid := s.mach.mid + 1 }.sendOrLose { msgBlank 3 (s.mach.pv x.p) (peerAt r).1 s.mach.ownAddr (peerAt r).2 x.p
      (s.mach.jobId x.p).1 (s.mach.jobId x.p).2 core (s.mach.mid % 2 ^ 32) with
      fmk := x.f 119 104
      arg := x.f 103 72 } := by
  have hpv : (s.mach.onward core x.guest).newMid.2.pv x.p = s.mach.pv x.p := rfl
  have hown : (s.mach.onward core x.guest).newMid.2.ownAddr = s.mach.ownAddr := rfl
  have hjob : (s.mach.onward core x.guest).newMid.2.jobId x.p = s.mach.jobId x.p := rfl
  have hmid : (s.mach.onward core x.guest).newMid.1 = s.mach.mid % 2 ^ 32 := rfl
  have hadvance : s.mach.advance x = s.mach.onward core x.guest := by rw [Mach.advance, h.core_eq]; rfl
  simp only [doMsig, hbit, hr, if_true, hadvance, h.core_eq, hpv, hown, hjob, hmid]
  rfl

end

/-- Settles O7: each word sends its message to the marker's block, where a signal merges as R143 says, or to the peer. -/
theorem markerAndRemoteSignalWords : Obligations.MarkerAndRemoteSignalWords := by
  constructor
  · intro s core x k q sent on merges
    refine ⟨fun h hopc hbit => ?_, fun h hopc => ?_, fun h hopc => ?_⟩
    · have hg := gives_msig h hopc
      rw [doMsig_here h hbit] at hg
      refine ⟨(msig_sound h.sound).1, fun older newer n hq => ?_, fun hq => ?_⟩
      · obtain ⟨heq, hnewer⟩ := hq
        have hsend := sendTo_merges (core / 256) k (x.f 103 72) n older hnewer
        rw [← heq] at hsend
        simp only [sent, ← hsend]
        exact hg
      · have hsend := sendTo_waits (s := core / 256) (k := k) (n := x.f 103 72) hq
        simp only [sent, ← hsend]
        exact hg
    · have hg := gives_step (.mrst core) s (fun m => issue m core (selOpc 10) checksMrst noStall doMrst) rfl h.up
      rw [issue_issues h (selOpc_eq _ hopc), doMrst, Mach.advance, h.core_eq] at hg
      exact hg
    · have hg := gives_step (.mwait core) s (fun m => issue m core (selOpc 9) checksMwait noStall doMwait) rfl h.up
      rw [issue_issues h (selOpc_eq _ hopc), doMwait, h.core_eq] at hg
      exact hg
  · intro s core x h hopc hbit on
    obtain ⟨r, hr⟩ := (msig_sound h.sound).2 hbit
    have hg := gives_msig h hopc
    rw [doMsig_peer h hbit hr] at hg
    refine ⟨r, _, hr, hg, rfl, ?_, ?_, ?_, ?_, ?_⟩ <;> rw [Mach.sendOrLose, (SendsOnly.sendMsg ..).fields] <;> rfl

end Sys2Proof.Machine
end

section
/-! SUPPORT. Proofs: the marker blocks: the messages of an ic, the counters they move and the waits they satisfy (R141, R143, R144, R149). -/

namespace Sys2Proof.Machine

/-! ## The messages of an ic (R143) -/

/-- The messages that reach a block in an ic are at most `n`, each of another source that has not been seen; the rest keep their order. -/
theorem takeIc_effect (n : Nat) (seen : List Nat) (q : List MkMsg) :
    (takeIc n seen q).1.length ≤ n ∧ ((takeIc n seen q).1.map MkMsg.src).Nodup ∧ (∀ x ∈ (takeIc n seen q).1, x.src ∉ seen) ∧
      List.Perm ((takeIc n seen q).1 ++ (takeIc n seen q).2) q ∧ List.Sublist (takeIc n seen q).2 q := by
  induction q generalizing n seen with
  | nil => cases n <;> simp [takeIc]
  | cons x t ih =>
    cases n with
    | zero => simp [takeIc]
    | succ n =>
      unfold takeIc
      by_cases hx : seen.contains x.src = true
      · rw [if_pos hx]
        obtain ⟨hlen, hnodup, hseen, hperm, hsub⟩ := ih (n + 1) seen
        exact ⟨hlen, hnodup, hseen, List.perm_middle.trans (hperm.cons x), hsub.cons_cons x⟩
      · rw [if_neg hx]
        obtain ⟨hlen, hnodup, hseen, hperm, hsub⟩ := ih n (x.src :: seen)
        have hx' : x.src ∉ seen := by simpa using hx
        refine ⟨Nat.succ_le_succ hlen, ?_, ?_, hperm.cons x, hsub.cons x⟩
        · rw [List.map_cons, List.nodup_cons]
          refine ⟨fun hmem => ?_, hnodup⟩
          obtain ⟨y, hy, hsrc⟩ := List.mem_map.mp hmem
          exact hseen y hy (by simp [hsrc])
        · exact List.forall_mem_cons.mpr ⟨hx', fun y hy hys => hseen y hy (List.mem_cons_of_mem _ hys)⟩

/-! ## The counters of a block (R141) -/

/-- A message is a reset of a marker. -/
def MkMsg.resets (k : Nat) : MkMsg → Bool
  | .reset _ a => a = k
  | _ => false

/-- What a message adds to a marker. -/
def MkMsg.adds (k : Nat) : MkMsg → Nat
  | .signal _ a v => if a = k then v else 0
  | _ => 0

/-- A message resets a marker or signals it. -/
def MkMsg.moves (k : Nat) : MkMsg → Bool
  | .reset _ a => a = k
  | .signal _ a _ => a = k
  | .wait _ _ _ _ _ => false

/-- A counter becomes the sum of its signals, from 0 if a reset is among the messages and else from its value. -/
theorem counterAfter_eq (old k : Nat) (xs : List MkMsg) :
    counterAfter old k xs = (if xs.any (MkMsg.resets k) then 0 else old) + (xs.map (MkMsg.adds k)).sum := by
  have hbase : xs.any (fun x => match x with | .reset _ k' => k' = k | _ => false) = xs.any (MkMsg.resets k) :=
    congrArg xs.any (funext fun x => by cases x <;> rfl)
  have hstep : (fun (a : Nat) (x : MkMsg) => match x with | .signal _ k' n => if k' = k then a + n else a | _ => a) =
      fun a x => a + MkMsg.adds k x := by
    funext a x
    cases x
    case signal s k' n => by_cases hk : k' = k <;> simp [MkMsg.adds, hk]
    case reset | wait => rfl
  have hsum : ∀ (l : List MkMsg) (a : Nat), l.foldl (fun a x => a + MkMsg.adds k x) a = a + (l.map (MkMsg.adds k)).sum := by
    intro l
    induction l with
    | nil => simp
    | cons x t ih => intro a; rw [List.foldl_cons, ih, List.map_cons, List.sum_cons, Nat.add_assoc]
  unfold counterAfter
  rw [← hbase]
  exact (congrArg (fun f => List.foldl f _ xs) hstep).trans (hsum xs _)

theorem touched_eq (g : Nat) (xs : List MkMsg) :
    touched g xs = ((List.range 512).map (512 * g + ·)).filter (fun k => xs.any (MkMsg.moves k)) := by
  unfold touched
  refine List.filter_congr fun k _ => congrArg xs.any (funext fun x => ?_)
  cases x <;> rfl

/-- The markers that the messages of an ic move: those of the block that one of them resets or signals. -/
theorem mem_touched {g k : Nat} {xs : List MkMsg} : k ∈ touched g xs ↔ k / 512 = g ∧ xs.any (MkMsg.moves k) = true := by
  rw [touched_eq, List.mem_filter, List.mem_map]
  refine and_congr_left fun _ => ⟨?_, fun h => ⟨k % 512, List.mem_range.mpr (Nat.mod_lt _ (by decide)), by omega⟩⟩
  rintro ⟨i, hi, rfl⟩
  have := List.mem_range.mp hi
  omega

theorem nodup_touched (g : Nat) (xs : List MkMsg) : (touched g xs).Nodup := by
  rw [touched_eq]
  exact (List.nodup_range.map fun a b h => by omega).filter _

/-- One marker takes what the messages of an ic make of it, and shows its saturation (R141, R149). -/
def Mach.moveMarker (m : Mach) (p : Nat) (xs : List MkMsg) (k : Nat) : Mach :=
  let v := counterAfter (m.markers.get 0 k) k xs
  let a' : Mach := { m with markers := m.markers.put k (min v 0xFFFFFFFF) }
  if v > 0xFFFFFFFF then a'.saturate p k else a'

theorem Mach.moveMarker_only (m : Mach) (p : Nat) (xs : List MkMsg) (k : Nat) : m.moveMarker p xs k = { m with
    markers := m.markers.put k (min (counterAfter (m.markers.get 0 k) k xs) 0xFFFFFFFF)
    objs := (m.moveMarker p xs k).objs } := by
  unfold Mach.moveMarker Mach.saturate
  dsimp only
  split
  · split <;> rfl
  · rfl

theorem Mach.applyIc_eq (m : Mach) (p g : Nat) (xs : List MkMsg) : m.applyIc p g xs = (touched g xs).foldl (fun a k => a.moveMarker p xs k) m := rfl

/-- The messages of an ic change markers and the dictionary: nothing else. -/
theorem Mach.applyIc_only (m : Mach) (p g : Nat) (xs : List MkMsg) : m.applyIc p g xs = { m with
    markers := (m.applyIc p g xs).markers
    objs := (m.applyIc p g xs).objs } := by
  rw [Mach.applyIc_eq]
  refine List.foldlRecOn (motive := fun a : Mach => a = { m with markers := a.markers, objs := a.objs }) _ _ rfl fun a ha k _ => ?_
  rw [Mach.moveMarker_only, ha]

/-- Each marker that the messages name is moved once; every other keeps its value. -/
theorem Mach.markers_applyIc (m : Mach) (p g : Nat) (xs : List MkMsg) (k : Nat) : (m.applyIc p g xs).markers.get 0 k =
    if k ∈ touched g xs then min (counterAfter (m.markers.get 0 k) k xs) 0xFFFFFFFF else m.markers.get 0 k := by
  rw [Mach.applyIc_eq]
  have hnodup := nodup_touched g xs
  generalize touched g xs = ks at hnodup
  induction ks generalizing m with
  | nil => simp
  | cons a t ih =>
    obtain ⟨ha, ht⟩ := List.nodup_cons.mp hnodup
    have hmoved : ∀ j, (m.moveMarker p xs a).markers.get 0 j =
        if a = j then min (counterAfter (m.markers.get 0 a) a xs) 0xFFFFFFFF else m.markers.get 0 j := fun j => by
      rw [Mach.moveMarker_only, AMap.get_put]
    rw [List.foldl_cons, ih _ ht, hmoved]
    by_cases hk : a = k
    · subst hk; simp [ha]
    · simp [hk, Ne.symm hk]

/-! ## The waits of a block (R144) -/

/-- A context whose wait at a marker is satisfied goes on behind its MWAIT. -/
def Ctx.woken (c : Ctx) (mk : Nat) : Ctx :=
  match c.run with
  | .waiting k _ _ _ => if k = mk then { c with run := .running, pc := c.pc + 1 } else c
  | _ => c

theorem Ctx.woken_of_waiting {c : Ctx} {mk n t0 carry : Nat} (h : c.run = .waiting mk n t0 carry) :
    c.woken mk = { c with run := .running, pc := c.pc + 1 } := by
  simp [Ctx.woken, h]

theorem Ctx.woken_of_other {c : Ctx} {k mk n t0 carry : Nat} (h : c.run = .waiting k n t0 carry) (hk : k ≠ mk) : c.woken mk = c := by
  simp [Ctx.woken, h, hk]

theorem Ctx.woken_of_running {c : Ctx} (h : c.run = .running) (mk : Nat) : c.woken mk = c := by
  simp [Ctx.woken, h]

theorem Mach.wake_only (m : Mach) (w : Wait) : m.wake w = { m with
    cores := (m.wake w).cores
    acts := (m.wake w).acts } := by
  unfold Mach.wake
  dsimp only
  split
  · split <;> rfl
  · rfl

/-- A satisfied wait wakes its own context, and no other. -/
theorem Mach.ctx_wake (m : Mach) (w : Wait) (core : Nat) (guest : Bool) : ((m.wake w).core core).ctx guest =
    if w.core = core ∧ w.guest = guest then ((m.core core).ctx guest).woken w.marker else (m.core core).ctx guest := by
  have hback : ∀ (k : Core) (b : Bool) (g : Bool), { k with back := b }.ctx g = k.ctx g := fun _ _ g => by cases g <;> rfl
  have hset : ∀ (k : Core) (a b : Bool) (y : Ctx), (k.setCtx a y).ctx b = if a = b then y else k.ctx b := fun _ a b _ => by
    cases a <;> cases b <;> rfl
  unfold Mach.wake
  dsimp only
  split
  next km n t0 c hrun =>
    by_cases hkm : km = w.marker
    · rw [if_neg (not_not.mpr hkm), Mach.core_setCore]
      by_cases hc : w.core = core
      · subst hc
        rw [if_pos rfl, hback, hset]
        by_cases hg : w.guest = guest
        · subst hg
          rw [if_pos rfl, if_pos ⟨rfl, rfl⟩, Ctx.woken_of_waiting (hkm ▸ hrun)]
        · rw [if_neg hg, if_neg (fun h => hg h.2)]
      · rw [if_neg hc, if_neg (fun h => hc h.1)]
    · rw [if_pos hkm]
      split
      next h =>
        obtain ⟨rfl, rfl⟩ := h
        rw [Ctx.woken_of_other hrun hkm]
      next => rfl
  next hrun =>
    split
    next h =>
      obtain ⟨rfl, rfl⟩ := h
      unfold Ctx.woken
      split
      next km n t0 c heq => exact absurd heq (hrun km n t0 c)
      next => rfl
    next => rfl

theorem Mach.wakes_only (m : Mach) (ws : List Wait) : ws.foldl Mach.wake m = { m with
    cores := (ws.foldl Mach.wake m).cores
    acts := (ws.foldl Mach.wake m).acts } := by
  refine List.foldlRecOn (motive := fun a : Mach => a = { m with cores := a.cores, acts := a.acts }) _ _ rfl fun a ha w _ => ?_
  rw [Mach.wake_only, ha]

/-- A context that waits at a marker wakes with the first satisfied wait of its own at that marker, and stays awake. -/
theorem Mach.ctx_wakes {m : Mach} {ws : List Wait} {w : Wait} {n t0 carry : Nat} (hw : w ∈ ws)
    (hrun : ((m.core w.core).ctx w.guest).run = .waiting w.marker n t0 carry) :
    ((ws.foldl Mach.wake m).core w.core).ctx w.guest = { (m.core w.core).ctx w.guest with
      run := .running
      pc := ((m.core w.core).ctx w.guest).pc + 1 } := by
  have hawake : ∀ (us : List Wait) (a : Mach), ((a.core w.core).ctx w.guest).run = .running →
      ((us.foldl Mach.wake a).core w.core).ctx w.guest = (a.core w.core).ctx w.guest := by
    intro us
    induction us with
    | nil => exact fun _ _ => rfl
    | cons u t ih =>
      intro a ha
      have hu : ((a.wake u).core w.core).ctx w.guest = (a.core w.core).ctx w.guest := by
        rw [Mach.ctx_wake, Ctx.woken_of_running ha, ite_self]
      rw [List.foldl_cons, ih _ (hu ▸ ha), hu]
  induction ws generalizing m with
  | nil => cases hw
  | cons u t ih =>
    rw [List.foldl_cons]
    by_cases hu : u.core = w.core ∧ u.guest = w.guest ∧ u.marker = w.marker
    · obtain ⟨hc, hg, hmk⟩ := hu
      have hwoken : ((m.wake u).core w.core).ctx w.guest = { (m.core w.core).ctx w.guest with
          run := .running
          pc := ((m.core w.core).ctx w.guest).pc + 1 } := by
        rw [Mach.ctx_wake, if_pos ⟨hc, hg⟩, hmk, Ctx.woken_of_waiting hrun]
      rw [hawake t _ (by rw [hwoken]), hwoken]
    · have hkept : ((m.wake u).core w.core).ctx w.guest = (m.core w.core).ctx w.guest := by
        rw [Mach.ctx_wake]
        split
        next h => exact Ctx.woken_of_other hrun fun hmk => hu ⟨h.1, h.2, hmk.symm⟩
        next => rfl
      have hwt : w ∈ t := (List.mem_cons.mp hw).resolve_left fun e => hu ⟨by rw [e], by rw [e], by rw [e]⟩
      rw [ih hwt (hkept ▸ hrun), hkept]

/-! ## MARKER_UPDATE -/

/-- The wait that a message asks for. -/
def MkMsg.asks : MkMsg → Option Wait
  | .wait _ k n c gu => some { marker := k, n := n, core := c, guest := gu }
  | _ => none

/-- The block once the messages of an ic have moved its counters. -/
def Mach.blockMoved (m : Mach) (g n : Nat) : Mach :=
  ({ m with ports := m.ports.put g (takeIc (min n 10) [] (m.ports.get [] g)).2 } : Mach).applyIc ((m.partOf g).getD 0) g
    (takeIc (min n 10) [] (m.ports.get [] g)).1

/-- The waits that a block then evaluates. -/
def Mach.blockWaits (m : Mach) (g n : Nat) : List Wait :=
  (m.blockMoved g n).waits.get [] g ++ (takeIc (min n 10) [] (m.ports.get [] g)).1.filterMap MkMsg.asks

/-- A wait's marker holds its N or more. -/
def Mach.reached (m : Mach) (w : Wait) : Bool := w.n ≤ m.markers.get 0 w.marker

/-- The counters move first, then every wait is evaluated: those that are satisfied leave the block and wake their contexts. -/
theorem doMarkerUpdate_eq (m : Mach) (g n : Nat) : doMarkerUpdate m g n =
    ((m.blockWaits g n).filter (m.blockMoved g n).reached).foldl Mach.wake { m.blockMoved g n with
      waits := (m.blockMoved g n).waits.put g ((m.blockWaits g n).filter (fun w => !(m.blockMoved g n).reached w)) } := by
  have hasks : (fun x : MkMsg => match x with
      | .wait _ k n c gu => some { marker := k, n := n, core := c, guest := gu }
      | _ => none) = MkMsg.asks := funext fun x => by cases x <;> rfl
  unfold Mach.blockWaits
  rw [← hasks]
  rfl

theorem Mach.blockMoved_only (m : Mach) (g n : Nat) : m.blockMoved g n = { m with
    ports := m.ports.put g (takeIc (min n 10) [] (m.ports.get [] g)).2
    markers := (m.blockMoved g n).markers
    objs := (m.blockMoved g n).objs } := Mach.applyIc_only ..

theorem Mach.markers_blockMoved (m : Mach) (g n k : Nat) : (m.blockMoved g n).markers.get 0 k =
    if k ∈ touched g (takeIc (min n 10) [] (m.ports.get [] g)).1 then
      min (counterAfter (m.markers.get 0 k) k (takeIc (min n 10) [] (m.ports.get [] g)).1) 0xFFFFFFFF
    else m.markers.get 0 k := Mach.markers_applyIc ..

theorem Mach.mem_blockWaits {m : Mach} {g : Nat} {w : Wait} (n : Nat) (h : w ∈ m.waits.get [] g) : w ∈ m.blockWaits g n := by
  refine List.mem_append_left _ ?_
  rw [Mach.blockMoved_only]
  exact h

/-- What the counter of a marker of the block becomes, in the terms of its messages. -/
theorem counter_moved (old k g : Nat) (xs : List MkMsg) (hk : k / 512 = g) :
    (k ∈ touched g xs → min (counterAfter old k xs) 0xFFFFFFFF =
      min ((if xs.any (fun x => match x with | .reset _ a => a = k | _ => false) then 0 else old) +
        (xs.map (fun x => match x with | .signal _ a v => if a = k then v else 0 | _ => 0)).sum) 0xFFFFFFFF) ∧
    (k ∉ touched g xs → xs.all (fun x => match x with | .reset _ a => a ≠ k | .signal _ a _ => a ≠ k | _ => true) = true) := by
  refine ⟨fun _ => ?_, fun hout => List.all_eq_true.mpr fun x hx => ?_⟩
  · have hresets : MkMsg.resets k = fun x => match x with | .reset _ a => decide (a = k) | _ => false := funext fun x => by cases x <;> rfl
    have hadds : MkMsg.adds k = fun x => match x with | .signal _ a v => if a = k then v else 0 | _ => 0 := funext fun x => by cases x <;> rfl
    rw [counterAfter_eq, hresets, hadds]
  · have hx' : ¬ x.moves k = true := fun h => hout (mem_touched.mpr ⟨hk, List.any_eq_true.mpr ⟨x, hx, h⟩⟩)
    cases x
    case wait => rfl
    case signal | reset => simpa [MkMsg.moves] using hx'

/-- Settles O8: an ic takes its messages, each counter they name becomes their sum, and the waits that are then satisfied wake their contexts. -/
theorem markerBlock : Obligations.MarkerBlock := by
  intro s g n hrun
  have hg := gives_step (.markerUpdate g n) s (fun m => doMarkerUpdate m g n) rfl hrun
  have hupdate := doMarkerUpdate_eq s.mach g n
  have hmoved := s.mach.blockMoved_only g n
  have hcounter := s.mach.markers_blockMoved g n
  have hlisted := fun w (hw : w ∈ s.mach.waits.get [] g) => Mach.mem_blockWaits n hw
  obtain ⟨hlen, hnodup, -, hperm, hsub⟩ := takeIc_effect (min n 10) [] (s.mach.ports.get [] g)
  refine ⟨_, hg, ?_⟩
  generalize doMarkerUpdate s.mach g n = m at *
  generalize s.mach.blockMoved g n = moved at *
  generalize s.mach.blockWaits g n = waits at *
  intro r xs
  have honly := Mach.wakes_only { moved with waits := moved.waits.put g (waits.filter (fun w => !moved.reached w)) } (waits.filter moved.reached)
  rw [← hupdate] at honly
  have hmarkers : m.markers = moved.markers := by rw [honly]
  have hports : m.ports = moved.ports := by rw [honly]
  have hwaits : m.waits.get [] g = waits.filter (fun w => !moved.reached w) := by
    rw [show m.waits = _ from congrArg Mach.waits honly]
    exact AMap.get_put_same ..
  refine ⟨hlen, hnodup, hperm, hsub, ?_, fun k hk => ?_, fun k hk => ?_, fun w hw => ?_, fun w hw hlt => ?_, fun w hw hle n' t0 c hctx => ?_⟩
  · rw [hports, hmoved]
    exact AMap.get_put_same ..
  · obtain ⟨hnamed, hother⟩ := counter_moved (s.mach.markers.get 0 k) k g xs hk
    rw [hmarkers, hcounter]
    by_cases hmem : k ∈ touched g xs
    · exact .inl ((if_pos hmem).trans (hnamed hmem))
    · exact .inr ⟨if_neg hmem, hother hmem⟩
  · rw [hmarkers, hcounter]
    exact if_neg fun h => hk (mem_touched.mp h).1
  · rw [hwaits, List.mem_filter] at hw
    rw [hmarkers]
    simpa [Mach.reached] using hw.2
  · rw [hmarkers] at hlt
    rw [hwaits, List.mem_filter]
    exact ⟨hlisted w hw, by simpa [Mach.reached] using hlt⟩
  · rw [hmarkers] at hle
    have hcore : moved.core w.core = s.mach.core w.core := by rw [hmoved]; rfl
    have hmem : w ∈ waits.filter moved.reached := List.mem_filter.mpr ⟨hlisted w hw, by simpa [Mach.reached] using hle⟩
    rw [← hcore] at hctx ⊢
    rw [hupdate]
    exact Mach.ctx_wakes hmem hctx

end Sys2Proof.Machine
end

section
/-! SUPPORT. Proofs: data movements as they issue (R98, R133 to R135, R138, R240). -/

namespace Sys2Proof.Machine

/-! ## The word of a core and its context -/

/-- A word's context is the one in control of its core. -/
theorem Mach.seatIf_ctx {m : Mach} {core : Nat} {ok : Nat → Core → Bool} {x : Wx} (h : m.seatIf core ok = some x) :
    (m.core core).ctx x.guest = x.ctx := by
  unfold Mach.seatIf at h
  split at h
  · cases h
  · split at h
    · cases h
    · dsimp only at h
      split at h
      · cases h
      · split at h
        · cases h; rfl
        · cases h

theorem Issues.ctx_eq {s : State} {core : Nat} {x : Wx} {checks : Mach → Wx → List (Nat × Nat)} {stall : Mach → Wx → Bool}
    (h : Issues s core x checks stall) : (s.mach.core core).ctx x.guest = x.ctx :=
  Mach.seatIf_ctx (Option.filter_eq_some_iff.mp h.word).1

/-- A word of data movement issues behind seven operations at most (R133). -/
theorem dma_lt_of_stallPlan {m : Mach} {x : Wx} {plan : DmaPlan} (h : stallPlan m x plan = false) : x.ctx.dma.length < 8 := by
  simp only [stallPlan, Wx.full, Bool.or_eq_false_iff, ge_iff_le, decide_eq_false_iff_not] at h
  omega

/-! ## Operations that become outstanding -/

/-- A row of CDMA words runs those of its STYPE. -/
theorem exec_cdmaRow {st core : Nat} {c : Instr} (h : cdmaRow st core = some c) (s : State) : exec c s = runCdma st core s := by
  unfold cdmaRow at h
  split at h <;> cases h <;> rfl

section
variable {s : State} {core : Nat} {x : Wx} {c : Instr} {sel : Mach → Wx → Bool} {checks : Mach → Wx → List (Nat × Nat)}
  {stall : Mach → Wx → Bool} {plan : DmaPlan} {mk : Option Nat}

/-- A word that launches an operation: it joins the outstanding ones of its context, of which there were at most seven, and the context moves on. -/
theorem launches {act : Mach → Wx → Mach} (hrow : exec c s = s.step (fun m => issue m core sel checks stall act)) (h : Issues s core x checks stall)
    (hs : sel s.mach x = true) (hact : act s.mach x = s.mach.launch x plan mk) (hstall : stall s.mach x = false → x.ctx.dma.length < 8) :
    x.ctx.dma.length < 8 ∧ Gives c s (s.mach.modCtx core x.guest (fun c => { c with
      dma := c.dma ++ [⟨BitVec.ofNat 128 x.w, x.ctx.pc, plan, mk⟩]
      pc := c.pc + 1 })) ∧ (s.mach.core core).ctx x.guest = x.ctx := by
  have hg := gives_step c s _ hrow h.up
  rw [issue_issues h hs, hact, Mach.launch, h.core_eq] at hg
  exact ⟨hstall h.free, hg, h.ctx_eq⟩

end

/-! ## FWPOST -/

/-- A host's post goes to a window of its partition. -/
theorem fwPosts_eq_some {m : Mach} {x : Wx} {f : FillWin} (h : fwPosts x m = some f) : (m.part x.p).wins.get? (x.f 119 117) = some f := by
  unfold fwPosts at h
  split at h
  · cases h
  · exact h

/-- The post is outstanding, and its core waits last in the window's posts. -/
theorem doFwpost_eq {m : Mach} {x : Wx} {f : FillWin} (h : fwPosts x m = some f) : doFwpost m x =
    (m.launch x (planFwpost m x) none).setWin x.p (x.f 119 117) { f with posts := f.posts ++ [x.core] } := by
  have hw : ((m.launch x (planFwpost m x) none).part x.p).wins.get? (x.f 119 117) = some f := fwPosts_eq_some h
  simp only [doFwpost, Mach.setWin, Mach.modPart, hw]

/-- Settles O14: an operation is launched with its plan and marker; a post is launched and waits in its window. -/
theorem dataMovementIssues : Obligations.DataMovementIssues := by
  constructor
  · intro s core x k launched mark
    refine ⟨fun h hopc => ?_, fun st c h hopc hst hrow => ?_, fun h hopc => ?_⟩
    · exact launches (c := .ldma core) (act := doLdma) rfl h (selOpc_eq _ hopc) rfl dma_lt_of_stallPlan
    · exact launches (act := doCdma) (exec_cdmaRow hrow s) h (by simp [selCdma, hopc, hst]) rfl dma_lt_of_stallPlan
    · exact launches (c := .ptld core) (act := doPtld) rfl h (selOpc_eq _ hopc) rfl dma_lt_of_stallPlan
  · intro s core x f h hopc hf
    have hg := gives_step (.fwpost core) s (fun m => issue m core (selOpc 0x2C) checksFwpost stallFwpost doFwpost) rfl h.up
    rw [issue_issues h (selOpc_eq _ hopc), doFwpost_eq hf, Mach.launch, h.core_eq] at hg
    refine ⟨_, hg, rfl, ?_, OnePart.setPart (s.mach.modCtx core x.guest _) x.p _⟩
    rw [← h.ctx_eq]
    exact OneCore.setCore s.mach core _

end Sys2Proof.Machine
end

section
/-! SUPPORT. Proofs: data movements as they end, complete or at an uncorrectable half (R66, R133, R139, R143, R535). -/

namespace Sys2Proof.Machine

/-! ## Requests and lost reads -/

/-- Requests to ranges change the states of their stacks (4100h + s.02), and no other object. -/
theorem SameObjs.touch (m : Mach) (rs : List (Nat × Nat)) : SameObjs ((List.range 48).map (fun s => okey (0x4100 + s) 2)) m (m.touch rs) := by
  unfold Mach.touch
  refine List.foldlRecOn (motive := fun a : Mach => SameObjs _ m a) _ _ (SameObjs.refl m _) fun a ha s hs => ?_
  refine SameObjs.trans ha (SameObjs.mono ?_ (SameObjs.touchStack a s))
  obtain ⟨r, hr, rfl⟩ := List.mem_map.mp (List.mem_dedup.mp hs)
  have hlt := (List.mem_filter.mp hr).2
  simp only [Bool.and_eq_true, decide_eq_true_eq] at hlt
  have hstack : r.1 / 2 ^ 35 < 48 := by omega
  simpa using ⟨r.1 / 2 ^ 35, hstack, rfl⟩

@[simp] theorem Mach.touch_markers (m : Mach) (rs : List (Nat × Nat)) : (m.touch rs).markers = m.markers := by rw [Mach.touch_only]
@[simp] theorem Mach.touch_ports (m : Mach) (rs : List (Nat × Nat)) : (m.touch rs).ports = m.ports := by rw [Mach.touch_only]

/-- What the report of an uncorrectable read may change: the halves known to be bad, the dictionary, the stores and what is sent. -/
def ReportsOnly (m m' : Mach) : Prop := m' = { m with
  bad := m'.bad
  objs := m'.objs
  flash := m'.flash
  outbox := m'.outbox
  hosts := m'.hosts }

theorem ReportsOnly.trans {a b c : Mach} (h : ReportsOnly a b) (h' : ReportsOnly b c) : ReportsOnly a c := by
  unfold ReportsOnly at h h' ⊢
  rw [h] at h'
  exact h'

theorem ReportsOnly.health (m : Mach) : ReportsOnly m m.health := by
  refine ReportsOnly.trans (b := m.addObj32 0x200A 0 1) rfl ?_
  unfold ReportsOnly Mach.health
  rw [Mach.raise_only]

theorem ReportsOnly.candidate (m : Mach) (s row : Nat) : ReportsOnly m (m.candidate s row) := by
  unfold Mach.candidate
  dsimp only
  split
  · rfl
  · split <;> rfl

theorem ReportsOnly.lostRead (m : Mach) (cls key : Nat) : ReportsOnly m (m.lostRead cls key) := by
  unfold Mach.lostRead
  split
  · have hrecord : ReportsOnly m (((m.spoil (key / 32 * 32)).addObj (0x4100 + (dramAt (key / 32 * 32)).stack) 4 1).errorRecord 3
        (key / 32 * 32) cls) := rfl
    exact ReportsOnly.trans (ReportsOnly.trans hrecord (ReportsOnly.health _)) (ReportsOnly.candidate ..)
  · rfl

/-! ## What a fault changes -/

/-- What a fault may change: the dictionary, the jobs, the cores and the waits they stand in, the partitions and what is sent; the outstanding
operations of every context stay as they are. -/
structure FaultsOnly (m m' : Mach) : Prop where
  fields : m' = { m with
    objs := m'.objs
    jobs := m'.jobs
    cores := m'.cores
    acts := m'.acts
    waits := m'.waits
    ports := m'.ports
    parts := m'.parts
    hwWait := m'.hwWait
    outbox := m'.outbox
    hosts := m'.hosts }
  dma : ∀ c g, ((m'.core c).ctx g).dma = ((m.core c).ctx g).dma

theorem FaultsOnly.of_cores {m m' : Mach} (h : m' = { m with
    objs := m'.objs
    jobs := m'.jobs
    acts := m'.acts
    waits := m'.waits
    ports := m'.ports
    parts := m'.parts
    hwWait := m'.hwWait
    outbox := m'.outbox
    hosts := m'.hosts }) : FaultsOnly m m' := by
  have hc : m'.cores = m.cores := by rw [h]
  exact ⟨h.trans (by rw [hc]), fun c g => by simp only [Mach.core, hc]⟩

theorem FaultsOnly.refl (m : Mach) : FaultsOnly m m := FaultsOnly.of_cores rfl

theorem FaultsOnly.trans {a b c : Mach} (h : FaultsOnly a b) (h' : FaultsOnly b c) : FaultsOnly a c := by
  obtain ⟨hfields, hdma⟩ := h
  obtain ⟨hfields', hdma'⟩ := h'
  refine ⟨?_, fun i g => (hdma' i g).trans (hdma i g)⟩
  rw [hfields] at hfields'
  exact hfields'

/-- A context that is put in its place with its operations, with an array in its own. -/
theorem FaultsOnly.setCore (m : Mach) (core : Nat) (guest : Bool) (y : Ctx) (r : Arr) (hy : y.dma = ((m.core core).ctx guest).dma) :
    FaultsOnly m (m.setCore core { (m.core core).setCtx guest y with arr := r }) := by
  refine ⟨rfl, fun c g => ?_⟩
  rw [Mach.core_setCore]
  split
  next h =>
    subst h
    by_cases hg : g = guest
    · subst hg; cases g <;> exact hy
    · cases guest <;> cases g <;> simp_all [Core.setCtx, Core.ctx]
  next => rfl

/-- Contexts that stop keep what they have outstanding (R152). -/
theorem FaultsOnly.stopCores (m : Mach) (p : Nat) (guest : Bool) : FaultsOnly m (m.stopCores p guest) := by
  unfold Mach.stopCores
  refine List.foldlRecOn (motive := fun a : Mach => FaultsOnly m a) _ _ (FaultsOnly.refl m) fun a ha c _ => ?_
  refine FaultsOnly.trans ha (FaultsOnly.trans (b := a.dropWaits c guest) (FaultsOnly.of_cores rfl) ?_)
  exact FaultsOnly.setCore (a.dropWaits c guest) c guest _ _ rfl

theorem FaultsOnly.stopJob (m : Mach) (j : Job) (guest : Bool) (status detail : Nat) : FaultsOnly m (m.stopJob j guest status detail) := by
  have h : FaultsOnly m ((m.modJob j (fun x => { x with st := .stopping status detail })).stopCores j.part guest) :=
    FaultsOnly.trans (FaultsOnly.of_cores rfl) (FaultsOnly.stopCores _ _ _)
  unfold Mach.stopJob
  dsimp only
  split
  · exact h
  · exact FaultsOnly.trans h (FaultsOnly.of_cores (by rw [Mach.stopRounds_only]))

theorem FaultsOnly.raise (m : Mach) (vec : Nat) : FaultsOnly m (m.raise vec) := FaultsOnly.of_cores (by rw [Mach.raise_only])

/-- A fault of a job (R152, R153). -/
theorem FaultsOnly.jobFault (m : Mach) (p : Nat) (guest : Bool) (code : Nat) (record : Job → List Byte) :
    FaultsOnly m (m.jobFault p guest code record) := by
  unfold Mach.jobFault
  cases hj : m.jobOf p guest with
  | none => exact FaultsOnly.refl m
  | some j =>
    have hcounted : FaultsOnly m (if guest then m else m.addObj (0x6280 + p) 3 1) := by split <;> exact FaultsOnly.of_cores rfl
    dsimp only
    generalize (if guest then m else m.addObj (0x6280 + p) 3 1) = counted at hcounted
    refine FaultsOnly.trans hcounted ?_
    split
    · refine FaultsOnly.trans ?_ (FaultsOnly.raise _ _)
      split
      · exact FaultsOnly.trans (FaultsOnly.of_cores rfl) (FaultsOnly.stopJob _ _ _ _ _)
      · exact FaultsOnly.of_cores rfl
    · have hlater : FaultsOnly counted (if guest then counted else counted.addObj32 (0x6280 + p) 2 1) := by
        split <;> exact FaultsOnly.of_cores rfl
      generalize (if guest then counted else counted.addObj32 (0x6280 + p) 2 1) = later at hlater
      refine FaultsOnly.trans hlater ?_
      split <;> exact FaultsOnly.of_cores rfl

/-- A fault of a core (R151 to R153). -/
theorem FaultsOnly.fault (m : Mach) (p core : Nat) (guest : Bool) (code opc pc info : Nat) :
    FaultsOnly m (m.fault p core guest code opc pc info) := by
  rw [Mach.fault_eq]
  refine FaultsOnly.trans (FaultsOnly.trans
    (FaultsOnly.setCore m core guest ((m.core core).ctx guest).stop ((m.core core).arr.stop (m.arrCtl core)) rfl) (FaultsOnly.of_cores ?_))
    (FaultsOnly.jobFault ..)
  unfold Mach.faultStopped
  dsimp only
  split <;> rfl

/-! ## Pieces that have moved -/

/-- The counters of compressed groups lie at 6380h + p. -/
theorem Mach.countMoved_only (m : Mach) (p : Nat) (pl : DmaPlan) (mv : Moved) :
    m.countMoved p pl mv = { m with objs := (m.countMoved p pl mv).objs } ∧
      SameObjs ([1, 2, 3, 4].map (okey (0x6380 + p))) m (m.countMoved p pl mv) := by
  have hadd : ∀ (a : Mach) (i n : Nat), i ∈ [1, 2, 3, 4] → SameObjs ([1, 2, 3, 4].map (okey (0x6380 + p))) a (a.addObj (0x6380 + p) i n) :=
    fun a i n hi => SameObjs.addObj a _ _ _ (List.mem_map_of_mem hi)
  unfold Mach.countMoved
  dsimp only
  split
  · exact ⟨rfl, SameObjs.trans (SameObjs.trans (hadd _ _ _ (by simp)) (hadd _ _ _ (by simp))) (hadd _ _ _ (by simp))⟩
  · split
    · exact ⟨rfl, hadd _ _ _ (by simp)⟩
    · exact ⟨rfl, SameObjs.refl m _⟩
  · split
    · exact ⟨rfl, hadd _ _ _ (by simp)⟩
    · exact ⟨rfl, SameObjs.refl m _⟩
  · exact ⟨rfl, SameObjs.refl m _⟩

/-- Pieces stored, counted, and their flags set (R66, R133). -/
def Mach.piecesMoved (m : Mach) (p : Nat) (pl : DmaPlan) (mv : Moved) : Mach := ((m.wrAll mv.writes).countMoved p pl mv).setFlags p mv.flags

section
variable (m : Mach) (p : Nat) (pl : DmaPlan) (mv : Moved)

/-- Pieces that move change memory and the dictionary: nothing else. -/
theorem Mach.piecesMoved_only : m.piecesMoved p pl mv = { m with
    mem := (m.wrAll mv.writes).mem
    bad := (m.wrAll mv.writes).bad
    objs := (m.piecesMoved p pl mv).objs } := by
  unfold Mach.piecesMoved
  rw [Mach.setFlags_only, (Mach.countMoved_only ..).1, Mach.wrAll_only]

/-- Their flags join those that are set (R66). -/
theorem Mach.obj_piecesMoved : (m.piecesMoved p pl mv).obj (0x6080 + p) 2 = m.obj (0x6080 + p) 2 ||| mv.flags := by
  have hkey : okey (0x6080 + p) 2 ∉ [1, 2, 3, 4].map (okey (0x6380 + p)) := by
    simp only [List.mem_map, not_exists, not_and, okey, List.mem_cons, List.not_mem_nil]
    omega
  rw [Mach.piecesMoved, Mach.obj_setFlags, (Mach.countMoved_only ..).2 _ _ hkey, Mach.obj_eq_of_objs (Mach.wrAll_objs ..)]

end

/-! ## DMA_COMPLETE -/

/-- The operation's marker is signalled by 1 from the core's die (R143). -/
def Mach.signalMk (m : Mach) (core : Nat) (mk : Option Nat) : Mach :=
  match mk with
  | some k => m.signal (core / 256) k 1
  | none => m

theorem Mach.signalMk_only (m : Mach) (core : Nat) (mk : Option Nat) : m.signalMk core mk = { m with ports := (m.signalMk core mk).ports } := by
  cases mk <;> rfl

/-- An operation that is neither a post nor an RDMA and meets no uncorrectable half completes. -/
theorem doDmaComplete_eq {m : Mach} {core n p i : Nat} {guest : Bool} {e : DmaEntry} (hp : m.partOf (core / 16) = some p)
    (hdma : m.dmaAt core n = some (guest, i, e)) (hpost : ∀ w a l r t k, e.plan ≠ .post w a l r t k) (hremote : ∀ q d l t, e.plan ≠ .remote q d l t)
    (hgood : m.badPieceOf (e.plan.moved m) = none) : doDmaComplete m core n =
      ((((m.touch (e.plan.moved m).spans).piecesMoved p e.plan (e.plan.moved m)).dropDma core guest i).signalMk core e.marker).settle p := by
  have hbad : (m.badPieceOf (e.plan.moved m)).isSome = false := by rw [hgood]; rfl
  simp only [doDmaComplete, hp, hdma]
  cases hplan : e.plan with
  | post w a l r t k => exact absurd hplan (hpost w a l r t k)
  | remote q d l t => exact absurd hplan (hremote q d l t)
  | _ => simp only [hplan] at hbad ⊢; rw [hbad]; rfl

/-- What the completed operation leaves of the module (R66, R133, R143). -/
theorem Mach.completed_effect (m : Mach) (p core i : Nat) (guest : Bool) (pl : DmaPlan) (mv : Moved) (mk : Option Nat) :
    let m' := (((m.touch mv.spans).piecesMoved p pl mv).dropDma core guest i).signalMk core mk
    Stores mv.writes m m' ∧
      OneCore core ((m.core core).setCtx guest { (m.core core).ctx guest with dma := ((m.core core).ctx guest).dma.eraseIdx i }) m m' ∧
      m'.obj (0x6080 + p) 2 = m.obj (0x6080 + p) 2 ||| mv.flags ∧ m'.ports = (m.signalMk core mk).ports ∧ m'.markers = m.markers ∧
      m'.jobs = m.jobs := by
  intro m'
  let moved := (m.touch mv.spans).piecesMoved p pl mv
  have honly : m' = { moved.dropDma core guest i with ports := m'.ports } := Mach.signalMk_only ..
  have hmoved : moved = { m.touch mv.spans with
      mem := ((m.touch mv.spans).wrAll mv.writes).mem
      bad := ((m.touch mv.spans).wrAll mv.writes).bad
      objs := moved.objs } := Mach.piecesMoved_only ..
  have hcores : moved.cores = m.cores := by rw [hmoved]; exact Mach.touch_cores ..
  have hports : moved.ports = m.ports := by rw [hmoved]; exact Mach.touch_ports ..
  have hkey : okey (0x6080 + p) 2 ∉ (List.range 48).map (fun s => okey (0x4100 + s) 2) := by
    simp only [List.mem_map, List.mem_range, not_exists, not_and, okey]
    omega
  have hcore : ∀ c, moved.core c = m.core c := fun c => by simp only [Mach.core, hcores]
  have hone := OneCore.setCore moved core
    ((moved.core core).setCtx guest { (moved.core core).ctx guest with dma := ((moved.core core).ctx guest).dma.eraseIdx i })
  refine ⟨Stores.of_mem ?_, ⟨?_, fun c hc => ?_⟩, ?_, ?_, ?_, ?_⟩
  · rw [honly, Mach.dropDma_mem, hmoved]
    exact Mach.wrAll_mem_congr (Mach.touch_mem ..) _
  · rw [honly, ← hcore]; exact hone.1
  · rw [honly, ← hcore]; exact hone.2 c hc
  · have hobj : moved.obj (0x6080 + p) 2 = m.obj (0x6080 + p) 2 ||| mv.flags := by
      rw [Mach.obj_piecesMoved, SameObjs.touch m mv.spans _ _ hkey]
    rw [← hobj, honly]; rfl
  · change ((moved.dropDma core guest i).signalMk core mk).ports = _
    cases mk with
    | none => exact hports
    | some k => exact congrArg (fun ps : AMap (List MkMsg) => ps.put (k / 512) (sendTo (ps.get [] (k / 512)) (.signal (core / 256) k 1))) hports
  · rw [honly]; change moved.markers = _; rw [hmoved]; exact Mach.touch_markers ..
  · rw [honly]; change moved.jobs = _; rw [hmoved]; exact Mach.touch_jobs ..

/-! ## DMA_ECC -/

/-- An operation that ends leaves its context, and a post its window as well. -/
def Mach.dropEntry (m : Mach) (p core : Nat) (guest : Bool) (i : Nat) : DmaPlan → Mach
  | .post w _ _ _ _ _ => m.dropPost p w core i
  | _ => m.dropDma core guest i

theorem Mach.dropEntry_only (m : Mach) (p core i : Nat) {guest : Bool} {pl : DmaPlan}
    (h : guest = true → ∀ w a l r t k, pl ≠ .post w a l r t k) :
    m.dropEntry p core guest i pl = { m.dropDma core guest i with parts := (m.dropEntry p core guest i pl).parts } := by
  cases pl with
  | post w a l r t k =>
    have hg : guest = false := by
      cases guest with
      | false => rfl
      | true => exact absurd rfl (h rfl w a l r t k)
    subst hg
    simp only [Mach.dropEntry, Mach.dropPost]
    split <;> rfl
  | _ => rfl

/-- The module with the pieces before the uncorrectable half moved, and the operation gone (R139). -/
def Mach.eccStopped (m : Mach) (p core : Nat) (guest : Bool) (i : Nat) (pl : DmaPlan) (done : Moved) (b : Nat) : Mach :=
  (((m.touch ((b, 1) :: done.spans)).spoil b).piecesMoved p pl done).dropEntry p core guest i pl

theorem doDmaEcc_eq {m : Mach} {core n unit p i u b : Nat} {guest : Bool} {e : DmaEntry} (hp : m.partOf (core / 16) = some p)
    (hdma : m.dmaAt core n = some (guest, i, e)) (hecc : m.eccPiece (m.movedNow p core e.plan) unit = some (u, b)) : doDmaEcc m core n unit =
      ((m.eccStopped p core guest i e.plan ((m.movedNow p core e.plan).first u) b).lostRead (dmaClass e.word.toNat) b).fault p core guest 0x11
        (opcOf e.word.toNat) e.pc (chipOff b) := by
  simp only [doDmaEcc, hp, hdma, hecc]
  cases e.plan <;> rfl

/-- What stopping at the half leaves of the module. -/
theorem Mach.eccStopped_effect (m : Mach) (p core i : Nat) {guest : Bool} {pl : DmaPlan} (done : Moved) (b : Nat)
    (h : guest = true → ∀ w a l r t k, pl ≠ .post w a l r t k) :
    let m' := m.eccStopped p core guest i pl done b
    m'.mem = (m.wrAll done.writes).mem ∧ m'.jobs = m.jobs ∧ m'.rc = m.rc ∧ m'.markers = m.markers ∧
      m'.core core = (m.core core).setCtx guest { (m.core core).ctx guest with dma := ((m.core core).ctx guest).dma.eraseIdx i } := by
  intro m'
  let asked := (m.touch ((b, 1) :: done.spans)).spoil b
  let moved := asked.piecesMoved p pl done
  have honly : m' = { moved.dropDma core guest i with parts := m'.parts } := Mach.dropEntry_only _ p core i h
  have hmoved : moved = { asked with mem := (asked.wrAll done.writes).mem, bad := (asked.wrAll done.writes).bad, objs := moved.objs } :=
    Mach.piecesMoved_only ..
  have hcore : moved.core core = m.core core := by
    have hcores : moved.cores = m.cores := by rw [hmoved]; exact Mach.touch_cores ..
    simp only [Mach.core, hcores]
  refine ⟨?_, ?_, ?_, ?_, ?_⟩
  · rw [honly, Mach.dropDma_mem, hmoved]
    exact Mach.wrAll_mem_congr (m := asked) (m' := m) (Mach.touch_mem ..) _
  · rw [honly]; change moved.jobs = _; rw [hmoved]; exact Mach.touch_jobs ..
  · rw [honly]; change moved.rc = _; rw [hmoved]; exact Mach.touch_rc ..
  · rw [honly]; change moved.markers = _; rw [hmoved]; exact Mach.touch_markers ..
  · rw [honly, ← hcore]; exact Mach.core_setCore_same ..

/-- Settles O15: a good operation is stored, leaves and signals; one that meets an uncorrectable half stores what lies before it and faults 11h. -/
theorem dataMovementEnds : Obligations.DataMovementEnds := by
  constructor
  · intro s core n p i guest e hrun hp hdma hpost hremote mv hgood
    have hg := gives_step (.dmaComplete core n) s (fun m => doDmaComplete m core n) rfl hrun
    rw [doDmaComplete_eq hp hdma hpost hremote hgood] at hg
    obtain ⟨hstores, hcore, hflags, hports, hmarkers, hjobs⟩ := s.mach.completed_effect p core i guest e.plan mv e.marker
    refine ⟨_, hg, hstores, hcore, hflags, fun hnone => ?_, fun k hk => ?_, hmarkers, hjobs⟩
    · rw [hports, hnone]; rfl
    · rw [hports, hk]; rfl
  · intro s core n unit p i u b guest e hrun hp hdma hplan mv hecc
    have hg := gives_step (.dmaEcc core n unit) s (fun m => doDmaEcc m core n unit) rfl hrun
    rw [doDmaEcc_eq hp hdma hecc] at hg
    obtain ⟨hmem, hjobs, hrc, hmarkers, hcore⟩ := s.mach.eccStopped_effect p core i (mv.first u) b hplan
    let stopped := s.mach.eccStopped p core guest i e.plan (mv.first u) b
    have hlost := ReportsOnly.lostRead stopped (dmaClass e.word.toNat) b
    generalize hm : stopped.lostRead (dmaClass e.word.toNat) b = m at hlost
    have hcore' : m.core core = stopped.core core := by rw [hlost]; rfl
    have hdone : (mv.first u).writes = mv.writes.take u := List.map_take
    rw [show Gives _ _ _ = Gives (.dmaEcc core n unit) s (m.fault p core guest 0x11 (opcOf e.word.toNat) e.pc (chipOff b)) by rw [← hm]] at hg
    refine ⟨Faults.of_fault_among hg (fun _ h => h) rfl rfl rfl ?_ ?_ ?_ ?_, _, hg, Stores.of_mem ?_, ?_, ?_⟩
    · rw [hlost]; exact hjobs
    · rw [hlost]; exact hrc
    · rw [hcore', hcore]; cases guest <;> rfl
    · rw [hcore', hcore, Core.ctx_setCtx_same]
    · rw [Mach.fault_mem, hlost, ← hdone]; exact hmem
    · rw [(FaultsOnly.fault ..).dma, hcore', hcore, Core.ctx_setCtx_same]
    · rw [(FaultsOnly.fault ..).fields, hlost]; exact hmarkers

end Sys2Proof.Machine
end

section
/-! SUPPORT. Proofs: the end of a job, the objects of a fault, and SIGNAL, RESP and RESPONSE_TIMEOUT (R145, R146, R307). -/

namespace Sys2Proof.Machine

/-! ## What the end of a run changes -/

/-- What the end of a run may change: the pins in memory, the jobs, and how long its partition has run none. -/
def EndsOnly (m m' : Mach) : Prop := m' = { m with
  mem := m'.mem
  bad := m'.bad
  jobs := m'.jobs
  parts := m'.parts }

theorem EndsOnly.refl (m : Mach) : EndsOnly m m := rfl

theorem EndsOnly.trans {a b c : Mach} (h : EndsOnly a b) (h' : EndsOnly b c) : EndsOnly a c := by
  unfold EndsOnly at h h' ⊢
  rw [h] at h'
  exact h'

/-- What pins change: the page tables in memory. -/
def PinsOnly (m m' : Mach) : Prop := m' = { m with
  mem := m'.mem
  bad := m'.bad }

theorem PinsOnly.refl (m : Mach) : PinsOnly m m := rfl

theorem PinsOnly.trans {a b c : Mach} (h : PinsOnly a b) (h' : PinsOnly b c) : PinsOnly a c := by
  unfold PinsOnly at h h' ⊢
  rw [h] at h'
  exact h'

/-- Pins lie in the page tables of the caches (R235, R248). -/
theorem PinsOnly.pinSeqs (m : Mach) (p : Nat) (seqs : List Nat) (on : Bool) : PinsOnly m (m.pinSeqs p seqs on) := by
  unfold Mach.pinSeqs
  split
  · exact PinsOnly.refl m
  · refine List.foldlRecOn (motive := fun a : Mach => PinsOnly m a) _ _ (PinsOnly.refl m) fun a ha r _ => ?_
    split
    · exact ha
    · refine List.foldlRecOn (motive := fun b : Mach => PinsOnly m b) _ _ ha fun b hb s _ => PinsOnly.trans hb ?_
      dsimp only
      split <;> rfl

theorem PinsOnly.unpinJob (m : Mach) (j : Job) : PinsOnly m (m.unpinJob j) := by
  unfold Mach.unpinJob
  dsimp only
  split
  · exact PinsOnly.refl m
  · exact PinsOnly.pinSeqs ..

theorem EndsOnly.endRun (m : Mach) (j : Job) (status detail : Nat) : EndsOnly m (m.endRun j status detail) := by
  have hunpin : EndsOnly m (m.unpinJob j) := by
    unfold EndsOnly
    rw [PinsOnly.unpinJob]
  exact EndsOnly.trans hunpin rfl

/-- A partition whose streams are complete ends its job (Table 4-10). -/
theorem EndsOnly.settle (m : Mach) (p : Nat) : EndsOnly m (m.settle p) := by
  unfold Mach.settle
  split
  · split
    · exact EndsOnly.endRun ..
    · exact EndsOnly.refl m
  · exact EndsOnly.refl m

theorem EndsOnly.cores {m m' : Mach} (h : EndsOnly m m') : m'.cores = m.cores := by rw [h]

/-! ## The objects of a fault -/

/-- The objects that a fault in partition `p` changes: its record, its counters, and the open round (R152, R153, Table 9-8). -/
def faultKeys (p : Nat) : List Nat :=
  [okey (0x6280 + p) 1, okey (0x6280 + p) 2, okey (0x6280 + p) 3, okey (pix p) 0x18, okey (0x6480 + p) 0xF]

theorem Mach.jobOf_part {m : Mach} {p : Nat} {guest : Bool} {j : Job} (h : m.jobOf p guest = some j) : j.part = p := by
  have hpart : ∀ {kinds : Job → Bool}, m.jobs.find? (fun j => j.part = p && kinds j && j.live) = some j → j.part = p := fun h => by
    have hj := List.find?_some h
    simp only [Bool.and_eq_true, decide_eq_true_eq] at hj
    exact hj.1.1
  cases guest <;> exact hpart h

theorem SameObjs.jobFault (m : Mach) (p : Nat) (guest : Bool) (code : Nat) (record : Job → List Byte) :
    SameObjs (faultKeys p) m (m.jobFault p guest code record) := by
  have hrecord : okey (faultIdx p guest).1 (faultIdx p guest).2 ∈ faultKeys p := by cases guest <;> simp [faultIdx, faultKeys]
  have hraise : ∀ (a : Mach) v, SameObjs (faultKeys p) a (a.raise v) := fun a v => SameObjs.of_objs _ (Mach.raise_objs a v)
  unfold Mach.jobFault
  cases hj : m.jobOf p guest with
  | none => exact SameObjs.refl m _
  | some j =>
    have hpart := Mach.jobOf_part hj
    have hcounted : SameObjs (faultKeys p) m (if guest then m else m.addObj (0x6280 + p) 3 1) := by
      split
      · exact SameObjs.refl m _
      · exact SameObjs.addObj m _ _ _ (by simp [faultKeys])
    dsimp only
    generalize (if guest then m else m.addObj (0x6280 + p) 3 1) = counted at hcounted
    refine SameObjs.trans hcounted ?_
    split
    · refine SameObjs.trans ?_ (hraise _ _)
      have hset : SameObjs (faultKeys p) counted ((counted.setObj (faultIdx p guest).1 (faultIdx p guest).2 (leNat (record j))).modJob j
          (fun x => { x with faulted := true })) := SameObjs.setObj counted _ _ _ hrecord
      generalize ((counted.setObj (faultIdx p guest).1 (faultIdx p guest).2 (leNat (record j))).modJob j
          (fun x => { x with faulted := true })) = recorded at hset
      split
      · exact SameObjs.trans hset (SameObjs.mono (by simp [faultKeys, hpart]) (SameObjs.stopJob recorded j guest 1 code))
      · exact hset
    · have hlater : SameObjs (faultKeys p) counted (if guest then counted else counted.addObj32 (0x6280 + p) 2 1) := by
        split
        · exact SameObjs.refl _ _
        · exact SameObjs.setObj counted _ _ _ (by simp [faultKeys])
      generalize (if guest then counted else counted.addObj32 (0x6280 + p) 2 1) = later at hlater
      refine SameObjs.trans hlater ?_
      split
      · exact SameObjs.setObj later _ _ _ hrecord
      · exact SameObjs.refl later _

theorem SameObjs.fault (m : Mach) (p core : Nat) (guest : Bool) (code opc pc info : Nat) :
    SameObjs (faultKeys p) m (m.fault p core guest code opc pc info) := by
  rw [Mach.fault_eq]
  refine SameObjs.trans (SameObjs.of_objs _ ?_) (SameObjs.jobFault _ p guest code _)
  unfold Mach.faultStopped
  dsimp only
  split <;> rfl

/-! ## Messages taken from a link -/

/-- Taking a message changes its link, what is delivered here, and the credits sent: nothing else. -/
theorem Mach.taken_only (m : Mach) (l : Nat) (x : Msg) : m.taken l x = { m with
    linkRt := (m.taken l x).linkRt
    outbox := (m.taken l x).outbox
    localMsgs := (m.taken l x).localMsgs } := by
  unfold Mach.taken
  split
  · rfl
  · split
    · rfl
    · dsimp only
      split <;> rfl

/-- A well-formed message that arrives is handled as its row says. -/
theorem gives_onMsg {c : Instr} {s : State} {l : Nat} {x : Msg} {sel : Bool} {f : Mach → Mach}
    (hrow : exec c s = s.step (fun m => onMsg m l x sel f)) (hrun : s.mach.phase = .running) (harr : s.mach.arrives l x = true)
    (hgood : s.mach.malformed l x = false) (hsel : sel = true) : Gives c s (f s.mach) := by
  have hg := gives_step c s _ hrow hrun
  simpa only [onMsg, harr, hgood, hsel, Bool.not_true, Bool.or_false, Bool.false_eq_true, if_false] using hg

theorem doSignalMsg_run {m : Mach} {l : Nat} {x : Msg} (h : m.taker x = .run) :
    doSignalMsg l x m = (m.taken l x).farSignal x.dpart (aggOf l) x.fmk x.arg := by simp only [doSignalMsg, h]

theorem doSignalMsg_hold {m : Mach} {l : Nat} {x : Msg} (h : m.taker x = .hold) : doSignalMsg l x m =
    if (m.part x.dpart).held.length ≥ 256 then m
    else (m.taken l x).modPart x.dpart (fun q => { q with held := q.held ++ [x] }) := by simp only [doSignalMsg, h]

/-! ## RDMA operations answered -/

/-- Taking an RDMA from what is outstanding leaves the core's slot, and what its sequencer does. -/
theorem Mach.core_dropRemote (m : Mach) (core mid : Nat) : (m.dropRemote core mid).core core = { m.core core with
    host := { (m.core core).host with dma := (m.core core).host.dma.filter (fun e => !isRemote mid e) } } := Mach.core_setCore_same ..

/-- An RDMA that has been taken from what is outstanding is not there. -/
theorem not_isRemote_dropRemote (m : Mach) (core mid : Nat) :
    ∀ d ∈ ((m.dropRemote core mid).core core).host.dma, isRemote mid d = false := by
  intro d hd
  rw [Mach.core_dropRemote] at hd
  simpa using (List.mem_filter.mp hd).2

/-- A lost RDMA counts at 4880h + p.03 and faults 13h (R307). -/
theorem Faults.of_rdmaLost {c : Instr} {s : State} {m : Mach} {p core pc peer code : Nat} (hg : Gives c s (m.rdmaLost p core pc peer code))
    (hj : m.jobs = s.mach.jobs) (hrc : m.rc = s.mach.rc) (hslot : (m.core core).slot = (s.mach.core core).slot)
    (hrun : (m.core core).host.run = (s.mach.core core).host.run) : Faults c s p core false 0x13 0x2A pc (peer + 256 * code) := by
  refine Faults.of_fault_among hg (fun v hv => ?_) rfl rfl rfl hj hrc hslot hrun
  rw [← hv]
  refine Mach.obj_setObj_other _ ?_ _
  simp only [faultIdx, okey, Bool.false_eq_true, if_false]
  omega

theorem Mach.rdmaLost_dma (m : Mach) (p core pc peer code : Nat) : ((m.rdmaLost p core pc peer code).core core).host.dma = (m.core core).host.dma :=
  (FaultsOnly.fault m p core false 0x13 0x2A pc (peer + 256 * code)).dma core false

theorem Mach.obj_rdmaLost (m : Mach) (p core pc peer code : Nat) :
    (m.rdmaLost p core pc peer code).obj (0x4880 + p) 3 = min (m.obj (0x4880 + p) 3 + 1) (2 ^ 64 - 1) := by
  have hkey : okey (0x4880 + p) 3 ∉ faultKeys p := by
    simp only [faultKeys, okey, pix, List.mem_cons, List.not_mem_nil, or_false, not_or]
    omega
  rw [Mach.rdmaLost, Mach.addObj, Mach.obj_setObj_same, SameObjs.fault m p core false _ _ _ _ _ _ hkey]

/-- The answer to an RDMA, by its code. -/
theorem Mach.answerRemote_eq {m : Mach} {core p peer mid mid' hop t0 : Nat} {e : DmaEntry} (hp : m.partOf (core / 16) = some p)
    (hplan : e.plan = .remote peer mid' hop t0) (code : Nat) : m.answerRemote core e mid code =
      if code = 0 then (m.dropRemote core mid).settle p else (m.dropRemote core mid).rdmaLost p core e.pc peer code := by
  simp only [Mach.answerRemote, hp, hplan]
  rfl

/-- Settles O38: a signal goes to its marker, is held or counted; a response ends its RDMA; one that stays out faults 13h. -/
theorem signalsAndResponses : Obligations.SignalsAndResponses := by
  constructor
  · intro s l x hrun hop harr hgood p t
    have hg := gives_onMsg (c := .signal l x) rfl hrun harr hgood (decide_eq_true hop)
    have ht := s.mach.taken_only l x
    have hclusters : t.clusters p = s.mach.clusters p := (congrArg (fun a : Mach => a.clusters p) ht).trans rfl
    have habs : t.absMk p x.fmk = s.mach.absMk p x.fmk := (congrArg (fun a : Mach => a.absMk p x.fmk) ht).trans rfl
    have hports : t.ports = s.mach.ports := (congrArg Mach.ports ht).trans rfl
    refine ⟨fun hnone => ?_, fun hhold hlen => ?_, fun hhold hlen => ?_, fun htake hmk => ?_, fun htake hmk => ?_⟩
    · simpa only [doSignalMsg, hnone] using hg
    · rwa [doSignalMsg_hold hhold, if_neg (Nat.not_le.mpr hlen)] at hg
    · rwa [doSignalMsg_hold hhold, if_pos hlen] at hg
    · rw [doSignalMsg_run htake, Mach.farSignal, if_pos (hclusters.symm ▸ hmk)] at hg
      rw [← hports]
      intro k
      rw [show k = t.absMk p x.fmk from habs.symm]
      exact hg
    · rwa [doSignalMsg_run htake, Mach.farSignal, if_neg (hclusters.symm ▸ Nat.not_lt.mpr hmk)] at hg
  · intro s core p peer mid hop t0 e hrun hp hplan
    refine ⟨fun l x hop' harr hgood hcore hmid => ?_, fun l x hop' harr hgood hcore htile => ⟨fun hsaved => ?_, fun q hsaved => ?_⟩,
      fun n hn hjob hsw hradds hlate => ?_⟩
    · have hg := gives_onMsg (c := .resp l x) rfl hrun harr hgood (decide_eq_true hop')
      have ht := s.mach.taken_only l x
      subst hmid
      simp only [doResp, hcore] at hg
      generalize s.mach.taken l x = t at ht hg
      have hp' : t.partOf (core / 16) = some p := by rw [ht]; exact hp
      have hcore' : t.core core = s.mach.core core := by rw [ht]; rfl
      rw [Mach.answerRemote_eq hp' hplan] at hg
      have hgone := not_isRemote_dropRemote t core x.mid
      by_cases hcode : x.arg % 256 = 0
      · rw [if_pos hcode] at hg
        refine ⟨⟨_, hg, ?_⟩, fun hne => absurd hcode hne⟩
        simpa only [Mach.core, (EndsOnly.settle (t.dropRemote core x.mid) p).cores] using hgone
      · rw [if_neg hcode] at hg
        refine ⟨⟨_, hg, ?_⟩, fun _ => Faults.of_rdmaLost hg ?_ ?_ ?_ ?_⟩
        · rwa [Mach.rdmaLost_dma]
        · change t.jobs = _; rw [ht]
        · change t.rc = _; rw [ht]
        · rw [Mach.core_dropRemote, hcore']
        · rw [Mach.core_dropRemote, hcore']
    · have hg := gives_onMsg (c := .resp l x) rfl hrun harr hgood (decide_eq_true hop')
      simpa only [doResp, hcore, htile, hsaved] using hg
    · have hg := gives_onMsg (c := .resp l x) rfl hrun harr hgood (decide_eq_true hop')
      simpa only [doResp, hcore, htile, hsaved] using hg
    · have hg := gives_step (.responseTimeout core n) s (fun m => doResponseTimeout m core n) rfl hrun
      have hres : (s.mach.resJob p).isSome = true := by
        cases h : s.mach.resJob p with
        | some j => rfl
        | none => simp [Mach.jobRuns, Mach.jobOf, h] at hjob
      have hnone : (s.mach.part p).radds.any (fun w => w.mid = mid) = false := by simpa using hradds
      simp only [doResponseTimeout, hp, hn, hplan, hres, hsw, hnone, Bool.not_false, Bool.and_false, Bool.and_true, ge_iff_le,
        decide_eq_true hlate, if_true] at hg
      exact ⟨Faults.of_rdmaLost hg rfl rfl (by rw [Mach.core_dropRemote]) (by rw [Mach.core_dropRemote]), _, hg, Mach.obj_rdmaLost ..⟩

end Sys2Proof.Machine
end

section
/-! SUPPORT. Proofs: RDMA words as they issue (R136, R257, R260, R300, R307). -/

namespace Sys2Proof.Machine

/-- The message of an RDMA word: packet 0, with no data yet. -/
def Mach.rdmaMsg (t : Mach) (x : Wx) (pr : List Byte) : Msg :=
  { msgBlank (rdOp x.w) (t.pv x.p) (peerAt pr).1 t.ownAddr (peerAt pr).2 x.p (t.jobId x.p).1 (t.jobId x.p).2 x.core (t.mid % 2 ^ 32) with
    fbuf := x.f 69 58
    foff := x.f 57 34
    lenq := x.f 33 22
    fmken := bit x.w 21
    fmk := x.f 20 5 }

/-- The packets of an RDMA word whose source has been read. -/
def Mach.rdmaPackets (t : Mach) (x : Wx) (pr : List Byte) : List Msg := msgPackets (t.rdmaMsg x pr) (t.rd (rdSrc t x) (rdLen x.w))

/-- The module with an RDMA word outstanding by way of link `l`. -/
def Mach.rdmaKept (t : Mach) (x : Wx) (mid l : Nat) : Mach := t.launch x (.remote (x.f 119 112) mid l t.rc) none

/-- A reduce-add that waits for the credits of its buffer. -/
def Mach.rdmaWait (t : Mach) (x : Wx) (pr : List Byte) : RaddWait :=
  ⟨x.f 119 112, x.f 69 58, x.core, some x.core, t.mid % 2 ^ 32,
    chunks (contribBytes (rdOp x.w) / packetBytes (t.pv x.p)) 17 (t.rdmaPackets x pr), false⟩

section
variable {m t : Mach} {x : Wx} {pr : List Byte}

/-- Once its source has been read, an RDMA word is lost, sends its packets, or waits for credits. -/
theorem doRdma_eq (hpr : x.pk.peerRec (x.f 119 112) = some pr) (ht : t = m.touch [(rdSrc m x, rdLen x.w)]) : doRdma m x =
    if (rdOp x.w = 2 && t.pv x.p < 2) = true then t.rdmaLost x.p x.core x.ctx.pc (x.f 119 112) 9
    else if (rdOp x.w = 0 || rdLen x.w % contribBytes (rdOp x.w) ≠ 0) = true then
      match t.newMid.2.sendAll (t.rdmaPackets x pr) with
      | (0, l, m2) => m2.rdmaKept x (t.mid % 2 ^ 32) l
      | (code, _, _) => t.rdmaLost x.p x.core x.ctx.pc (x.f 119 112) code
    else
      match t.hop (peerAt pr).1 x.core with
      | none => t.rdmaLost x.p x.core x.ctx.pc (x.f 119 112) 0xFE
      | some l =>
        if (l < 64 && t.pv x.p > t.linkVer l) = true then t.rdmaLost x.p x.core x.ctx.pc (x.f 119 112) 9
        else ((t.newMid.2.rdmaKept x (t.mid % 2 ^ 32) l).modPart x.p (fun q => { q with radds := q.radds ++ [t.rdmaWait x pr] })).raddAll x.p := by
  subst ht
  simp only [doRdma, hpr]
  rfl

/-- Only a host word names a peer (R136). -/
theorem rdma_host (h : pickFault (checksRdma m x) = none) : x.guest = false := by
  have hnil : checksRdma m x = [] := pickFault_eq_none h
  simp only [checksRdma, List.append_eq_nil_iff] at hnil
  obtain ⟨⟨-, hpeer⟩, -⟩ := hnil
  cases hguest : x.guest with
  | false => rfl
  | true => rw [hguest] at hpeer; cases hpeer

/-- The row of an RDMA word of its OP. -/
theorem gives_rdma {s : State} {core : Nat} {c : Instr} (h : Issues s core x checksRdma stallRdma) (hopc : opcOf x.w = 0x2A)
    (hc : (x.f 111 110 = 0 ∧ c = .rdmaRemoteWrite core) ∨ (x.f 111 110 = 1 ∧ c = .rdmaReduceAddFp32 core) ∨
      (x.f 111 110 = 2 ∧ c = .rdmaReduceAddBf16 core)) : Gives c s (doRdma s.mach x) := by
  have hsel : ∀ op, x.f 111 110 = op → selRdma op s.mach x = true := fun op hop => by
    simp only [selRdma, hopc, decide_true, Bool.true_and]
    exact decide_eq_true hop
  obtain ⟨hop, rfl⟩ | ⟨hop, rfl⟩ | ⟨hop, rfl⟩ := hc
  · have hg := gives_step (.rdmaRemoteWrite core) s (fun m => issue m core (selRdma 0) checksRdma stallRdma doRdma) rfl h.up
    rwa [issue_issues h (hsel 0 hop)] at hg
  · have hg := gives_step (.rdmaReduceAddFp32 core) s (fun m => issue m core (selRdma 1) checksRdma stallRdma doRdma) rfl h.up
    rwa [issue_issues h (hsel 1 hop)] at hg
  · have hg := gives_step (.rdmaReduceAddBf16 core) s (fun m => issue m core (selRdma 2) checksRdma stallRdma doRdma) rfl h.up
    rwa [issue_issues h (hsel 2 hop)] at hg

end

/-- Settles O18: an RDMA word sends its packets, faults 13h, or waits for credits, by the branches of its row. -/
theorem remoteWords : Obligations.RemoteWords := by
  intro s core x pr h hopc hpr op len t mid head m1 bs kept lost
  obtain rfl := h.core_eq
  have hhost := rdma_host h.sound
  have heq := doRdma_eq (m := s.mach) (t := t) hpr rfl
  have hlost : ∀ c code, Gives c s (t.rdmaLost x.p x.core x.ctx.pc (x.f 119 112) code) → lost c code := fun c code hg => by
    have hcore : t.core x.core = s.mach.core x.core := by simp only [t, Mach.core, Mach.touch_cores]
    simp only [lost, hhost]
    exact Faults.of_rdmaLost hg (Mach.touch_jobs ..) (Mach.touch_rc ..) (by rw [hcore]) (by rw [hcore])
  refine ⟨fun hop hpv => ?_, fun c hc => ?_⟩
  · have hg := gives_rdma h hopc (.inr (.inr ⟨hop, rfl⟩))
    have hold : (rdOp x.w = 2 && t.pv x.p < 2) = true := Bool.and_eq_true_iff.mpr ⟨decide_eq_true hop, decide_eq_true hpv⟩
    rw [heq, if_pos hold] at hg
    exact hlost _ _ hg
  · have hg := gives_rdma (c := c) h hopc (hc.imp_right (Or.imp_right fun hbf16 => ⟨hbf16.1, hbf16.2.2⟩))
    have hnew : ¬ (rdOp x.w = 2 && t.pv x.p < 2) = true := by
      simp only [Bool.and_eq_true, decide_eq_true_eq, not_and, Nat.not_lt]
      intro hop
      obtain ⟨hop', -⟩ | ⟨hop', -⟩ | ⟨-, hpv, -⟩ := hc
      · exact absurd (hop'.symm.trans hop) (by decide)
      · exact absurd (hop'.symm.trans hop) (by decide)
      · exact hpv
    rw [heq, if_neg hnew] at hg
    refine ⟨fun hwrite => ?_, fun hop hlen => ?_⟩
    · have hsends : (rdOp x.w = 0 || rdLen x.w % contribBytes (rdOp x.w) ≠ 0) = true :=
        Bool.or_eq_true_iff.mpr (hwrite.imp decide_eq_true decide_eq_true)
      rw [if_pos hsends] at hg
      refine ⟨fun l m2 hsend => ?_, fun code l m2 hcode hsend => ?_⟩
      · rw [show t.newMid.2.sendAll (t.rdmaPackets x pr) = _ from hsend] at hg
        exact hg
      · rw [show t.newMid.2.sendAll (t.rdmaPackets x pr) = _ from hsend] at hg
        cases code with
        | zero => exact absurd rfl hcode
        | succ n => exact hlost _ _ hg
    · have hadds : ¬ (rdOp x.w = 0 || rdLen x.w % contribBytes (rdOp x.w) ≠ 0) = true := by
        simp only [ne_eq, Bool.or_eq_true, decide_eq_true_eq, not_or, not_not]
        exact ⟨hop, hlen⟩
      rw [if_neg hadds] at hg
      refine ⟨fun hhop => ?_, fun l hhop hl hver => ?_, fun l hhop hver => ?_⟩
      · simp only [hhop] at hg
        exact hlost _ _ hg
      · have hold : (l < 64 && t.pv x.p > t.linkVer l) = true := Bool.and_eq_true_iff.mpr ⟨decide_eq_true hl, decide_eq_true hver⟩
        simp only [hhop, if_pos hold] at hg
        exact hlost _ _ hg
      · have hruns : ¬ (l < 64 && t.pv x.p > t.linkVer l) = true := by simpa using hver
        simp only [hhop, if_neg hruns] at hg
        exact hg

end Sys2Proof.Machine
end

section
/-! SUPPORT. Proofs: the start of a job: its markers, its cores, and its credits (R113, R150, R260, R399). -/

namespace Sys2Proof.Machine

/-! ## The cores of a partition -/

/-- No core stands twice among the cores of a partition. -/
theorem Mach.nodup_coresOf (m : Mach) (p : Nat) : (m.coresOf p).Nodup := by
  refine List.nodup_flatMap.mpr ⟨fun g _ => ?_, ?_⟩
  · exact List.Nodup.map (fun a b h => by simpa using h) List.nodup_range
  · refine List.Pairwise.imp ?_ (List.Nodup.filter _ List.nodup_range)
    intro g g' hne c hc hc'
    simp only [List.mem_map, List.mem_range] at hc hc'
    omega

/-- The context in which a job's core starts: with its stream to be fetched, where the pricking gives it one (R113, R399). -/
def Pricking.startCtx (k : Pricking) (i : Nat) : Ctx :=
  if (k.streams.getD i []).isEmpty then Ctx.init else { Ctx.init with
    run := .running
    fetch := true }

/-- Steps that each change one core, of no core twice: what the steps keep holds behind them, other cores stay as they are, and each core of a step is
left by it as the step makes of it what it was before all of them. -/
theorem Mach.foldl_cores {α : Type} {key : α → Nat} {f : Mach → α → Mach} {P : Mach → Prop} {m : Mach} (xs : List α) (hnd : (xs.map key).Nodup)
    (hm : P m) (hstep : ∀ x ∈ xs, ∀ a, P a → a.core (key x) = m.core (key x) → P (f a x) ∧ ∀ c, c ≠ key x → (f a x).core c = a.core c) :
    P (xs.foldl f m) ∧ (∀ c, c ∉ xs.map key → (xs.foldl f m).core c = m.core c) ∧
      ∀ x ∈ xs, ∃ a, P a ∧ a.core (key x) = m.core (key x) ∧ (xs.foldl f m).core (key x) = (f a x).core (key x) := by
  induction xs generalizing m with
  | nil => exact ⟨hm, fun _ _ => rfl, fun x hx => absurd hx (by simp)⟩
  | cons x t ih =>
    rw [List.map_cons, List.nodup_cons] at hnd
    obtain ⟨hx, ht⟩ := hnd
    obtain ⟨hfx, hothers⟩ := hstep x (by simp) m hm rfl
    have hne : ∀ y ∈ t, key y ≠ key x := fun y hy h => hx (h ▸ List.mem_map_of_mem hy)
    obtain ⟨hall, hother, heach⟩ := ih ht hfx fun y hy a ha hcore =>
      hstep y (List.mem_cons_of_mem x hy) a ha (hcore.trans (hothers _ (hne y hy)))
    refine ⟨hall, fun c hc => ?_, fun y hy => ?_⟩
    · rw [List.map_cons, List.mem_cons, not_or] at hc
      exact (hother c hc.2).trans (hothers c hc.1)
    · rcases List.mem_cons.mp hy with rfl | hy
      · exact ⟨m, hm, rfl, hother _ hx⟩
      · obtain ⟨a, ha, hcore, hend⟩ := heach y hy
        exact ⟨a, ha, hcore.trans (hothers _ (hne y hy)), hend⟩

/-- A context of a core that is put in its place changes no other core. -/
theorem Mach.core_modCtx_other (m : Mach) {c core : Nat} (h : c ≠ core) (guest : Bool) (f : Ctx → Ctx) : (m.modCtx core guest f).core c = m.core c :=
  (Mach.core_setCore ..).trans (if_neg (Ne.symm h))

theorem Mach.core_modCtx_same (m : Mach) (core : Nat) (guest : Bool) (f : Ctx → Ctx) :
    (m.modCtx core guest f).core core = (m.core core).setCtx guest (f ((m.core core).ctx guest)) := Mach.core_setCore_same ..

section
variable (m : Mach) (p : Nat) (guest : Bool) (k : Pricking)

/-- The start of a job's cores changes the cores, and the rc of what they did last: nothing else. -/
theorem Mach.startCores_only : m.startCores p guest k = { m with
    cores := (m.startCores p guest k).cores
    acts := (m.startCores p guest k).acts } := by
  unfold Mach.startCores
  refine List.foldlRecOn (motive := fun a : Mach => a = { m with cores := a.cores, acts := a.acts }) _ _ rfl fun a ha c _ => ?_
  rw [ha]
  rfl

/-- The cores of the partition start, each with the stream of its rank; other cores stay as they are. -/
theorem Mach.cores_startCores : (∀ c, c ∉ m.coresOf p → (m.startCores p guest k).core c = m.core c) ∧
    ∀ i c, (m.coresOf p)[i]? = some c → (m.startCores p guest k).core c = (m.core c).setCtx guest (k.startCtx i) := by
  have hnd : ((m.coresOf p).zipIdx.map Prod.fst).Nodup := by rw [List.zipIdx_map_fst]; exact m.nodup_coresOf p
  obtain ⟨-, hother, hthis⟩ := Mach.foldl_cores (m := m) (P := fun _ => True) (f := fun a x => a.modCtx x.1 guest fun _ => k.startCtx x.2)
    (m.coresOf p).zipIdx hnd trivial fun x _ a _ _ => ⟨trivial, fun c hc => Mach.core_modCtx_other a hc guest _⟩
  refine ⟨fun c hc => hother c (by rwa [List.zipIdx_map_fst]), fun i c hc => ?_⟩
  obtain ⟨a, -, hcore, hend⟩ := hthis (c, i) (List.mk_mem_zipIdx_iff_getElem?.mpr hc)
  rw [← hcore]
  exact hend.trans (Mach.core_modCtx_same ..)

end

/-! ## The markers of a job (R150) -/

/-- A job's markers read 0 as it starts, and every other marker keeps its value. -/
theorem Mach.marker_clearMarkers (m : Mach) (p : Nat) (guest : Bool) (a : Nat) : (m.clearMarkers p guest).markers.get 0 a =
    if (m.clusters p).contains (a / 512) && (a % 512 ≥ 512 - m.gmk p) == guest then 0 else m.markers.get 0 a := by
  have h := AMap.get?_delIf (fun a => (m.clusters p).contains (a / 512) && (a % 512 ≥ 512 - m.gmk p) == guest) a m.markers
  rw [AMap.get_eq, AMap.get_eq]
  refine (congrArg (fun o : Option Nat => o.getD 0) h).trans ?_
  split <;> rfl

/-! ## Credits and recipes at dispatch -/

theorem SendsOnly.grantMsg (m : Mach) (p id : Nat) (con : List Byte) (n : Nat) : SendsOnly m (m.grantMsg p id con n) := by
  unfold Mach.grantMsg
  split
  · exact SendsOnly.trans (SendsOnly.of_objs rfl) (SendsOnly.sendMsg ..)
  · exact SendsOnly.refl m

/-- Credits granted at dispatch are messages (R260). -/
theorem SendsOnly.grantAll (m : Mach) (p : Nat) (k : Pricking) : SendsOnly m (m.grantAll p k) := by
  unfold Mach.grantAll
  refine List.foldlRecOn (motive := fun a : Mach => SendsOnly m a) _ _ (SendsOnly.refl m) fun a ha r _ => ?_
  refine List.foldlRecOn (motive := fun b : Mach => SendsOnly m b) _ _ ha fun b hb c _ => ?_
  dsimp only
  split
  · exact SendsOnly.trans hb (SendsOnly.grantMsg ..)
  · exact hb

/-- A routine on the recipes of a partition changes recipes only. -/
theorem Mach.eachRecipe_only (m : Mach) (p : Nat) (f : List Byte → RecipeSt → RecipeSt) :
    m.eachRecipe p f = { m with recipes := (m.eachRecipe p f).recipes } := by
  unfold Mach.eachRecipe
  split
  · rfl
  · refine List.foldlRecOn (motive := fun a : Mach => a = { m with recipes := a.recipes }) _ _ rfl fun a ha r _ => ?_
    rw [ha]
    rfl

/-! ## The job that starts -/

/-- A partition whose running job pins nothing is settled without a store: the job goes on, or ends DONE. -/
theorem Mach.settle_cases {m : Mach} {p : Nat} (h : ∀ j, m.resJob p = some j → j.pins = []) :
    m.settle p = m ∨ ∃ j, m.resJob p = some j ∧ m.settle p = m.endJob j 0 0 := by
  unfold Mach.settle
  cases hj : m.resJob p with
  | none => exact .inl rfl
  | some j =>
    dsimp only
    split
    · refine .inr ⟨j, rfl, ?_⟩
      simp only [Mach.endRun, Mach.unpinJob, h j hj]
      rfl
    · exact .inl rfl

/-- What the dispatch of a job may change before its cores start: jobs, partitions, the dictionary, markers and recipes. -/
def PreparesOnly (m m' : Mach) : Prop := m' = { m with
  jobs := m'.jobs
  parts := m'.parts
  objs := m'.objs
  markers := m'.markers
  recipes := m'.recipes }

theorem PreparesOnly.trans {a b c : Mach} (h : PreparesOnly a b) (h' : PreparesOnly b c) : PreparesOnly a c := by
  unfold PreparesOnly at h h' ⊢
  rw [h] at h'
  exact h'

section
variable (m : Mach)

theorem PreparesOnly.setObj (i a v : Nat) : PreparesOnly m (m.setObj i a v) := rfl
theorem PreparesOnly.setBit (i a n : Nat) (b : Bool) : PreparesOnly m (m.setBit i a n b) := rfl
theorem PreparesOnly.addObj (i a n : Nat) : PreparesOnly m (m.addObj i a n) := rfl
theorem PreparesOnly.modPart (p : Nat) (f : Part → Part) : PreparesOnly m (m.modPart p f) := rfl
theorem PreparesOnly.modJob (j : Job) (f : Job → Job) : PreparesOnly m (m.modJob j f) := rfl
theorem PreparesOnly.clearMarkers (p : Nat) (guest : Bool) : PreparesOnly m (m.clearMarkers p guest) := rfl

theorem PreparesOnly.eachRecipe (p : Nat) (f : List Byte → RecipeSt → RecipeSt) : PreparesOnly m (m.eachRecipe p f) := by
  unfold PreparesOnly
  rw [Mach.eachRecipe_only]

@[simp] theorem Mach.eachRecipe_jobs (p : Nat) (f : List Byte → RecipeSt → RecipeSt) : (m.eachRecipe p f).jobs = m.jobs := by
  rw [Mach.eachRecipe_only]
@[simp] theorem Mach.eachRecipe_objs (p : Nat) (f : List Byte → RecipeSt → RecipeSt) : (m.eachRecipe p f).objs = m.objs := by
  rw [Mach.eachRecipe_only]
@[simp] theorem Mach.eachRecipe_markers (p : Nat) (f : List Byte → RecipeSt → RecipeSt) : (m.eachRecipe p f).markers = m.markers := by
  rw [Mach.eachRecipe_only]
@[simp] theorem Mach.clearMarkers_jobs (p : Nat) (guest : Bool) : (m.clearMarkers p guest).jobs = m.jobs := rfl
@[simp] theorem Mach.clearMarkers_objs (p : Nat) (guest : Bool) : (m.clearMarkers p guest).objs = m.objs := rfl
@[simp] theorem Mach.part_setObj (i a v q : Nat) : (m.setObj i a v).part q = m.part q := rfl
@[simp] theorem Mach.part_modJob (j : Job) (f : Job → Job) (q : Nat) : (m.modJob j f).part q = m.part q := rfl

end

/-- The module with the job shown running, and the objects of its partition as it starts (R153, R399). -/
def Mach.runShown (m : Mach) (p : Nat) (j : Job) : Mach :=
  (((((m.modJob j (fun x => { x with st := .running })).modPart p (fun q => { q with rbufs := [], closed := 0 })).addObj (0x6440 + p) 7 1).setObj
    (0x6280 + p) 1 0).setObj (0x6280 + p) 2 0).setBit (pix p) 2 6 false

/-- The job then pins nothing. -/
def Mach.runBegun (m : Mach) (p : Nat) (j : Job) : Mach := (m.runShown p j).modJob j (fun x => { x with pins := [] })

/-- The partition's buffers and caches as a job starts (R399). -/
def Pricking.freshPart (k : Pricking) (q : Part) : Part := { q with
  rbufs := k.rbufs.map (fun r => (rbId r, RBuf.init r))
  closed := 0
  sweep := false
  radds := []
  caches := q.caches.map (fun e => (e.1, { e.2 with round := 0, entry := none, count := 0, stall := none, retry := false })) }

/-- The module as the cores of a fresh job are about to start. -/
def Mach.runReady (m : Mach) (p : Nat) (j : Job) (k : Pricking) : Mach :=
  ((((m.runBegun p j).clearMarkers p false).modPart p k.freshPart).eachRecipe p recipeValues).computePv p

section
variable (m : Mach) (p : Nat) (j : Job) (k : Pricking)

theorem Mach.runShown_eq : m.runShown p j =
    (((((m.modJob j (fun x => { x with st := .running })).modPart p (fun q => { q with rbufs := [], closed := 0 })).addObj (0x6440 + p) 7 1).setObj
      (0x6280 + p) 1 0).setObj (0x6280 + p) 2 0).setBit (pix p) 2 6 false := rfl

theorem Mach.runBegun_eq : m.runBegun p j = (m.runShown p j).modJob j (fun x => { x with pins := [] }) := rfl

/-- The pricking stays as a job starts. -/
theorem Mach.resident_runShown : ((m.runShown p j).part p).resident = (m.part p).resident := by
  simp only [Mach.runShown, Mach.setBit, Mach.setField, Mach.part_setObj, Mach.part_addObj, Mach.modPart, Mach.part_setPart_same, Mach.part_modJob]

theorem PreparesOnly.runShown : PreparesOnly m (m.runShown p j) :=
  PreparesOnly.trans (PreparesOnly.trans (PreparesOnly.trans (PreparesOnly.trans (PreparesOnly.trans (PreparesOnly.modJob ..)
    (PreparesOnly.modPart ..)) (PreparesOnly.addObj ..)) (PreparesOnly.setObj ..)) (PreparesOnly.setObj ..)) (PreparesOnly.setBit ..)

theorem PreparesOnly.runReady : PreparesOnly m (m.runReady p j k) :=
  PreparesOnly.trans (PreparesOnly.trans (PreparesOnly.trans (PreparesOnly.trans (PreparesOnly.trans (PreparesOnly.runShown m p j)
    (PreparesOnly.modJob ..)) (PreparesOnly.clearMarkers ..)) (PreparesOnly.modPart ..)) (PreparesOnly.eachRecipe ..)) (PreparesOnly.setObj ..)

/-- The jobs are those of the module with the job running. -/
theorem Mach.runReady_jobs : (m.runReady p j k).jobs = (m.runBegun p j).jobs := by simp [Mach.runReady, Mach.computePv, Mach.modPart]

/-- The markers are those of that module, cleared. -/
theorem Mach.runReady_markers : (m.runReady p j k).markers = ((m.runBegun p j).clearMarkers p false).markers := by
  simp [Mach.runReady, Mach.computePv, Mach.modPart]

/-- The objects that the start of a job changes: its count of runs, its fault record and count, SWITCHING, and PV (R153, R296, R399). -/
def runKeys (p : Nat) : List Nat := [okey (0x6440 + p) 7, okey (0x6280 + p) 1, okey (0x6280 + p) 2, okey (pix p) 2, okey (0x4880 + p) 2]

theorem SameObjs.runShown : SameObjs (runKeys p) m (m.runShown p j) := by
  have hmem : ∀ x ∈ [okey (0x6440 + p) 7, okey (0x6280 + p) 1, okey (0x6280 + p) 2, okey (pix p) 2], x ∈ runKeys p := by simp [runKeys]
  refine SameObjs.trans (SameObjs.trans (SameObjs.trans (SameObjs.trans (b := (m.modJob j (fun x => { x with st := .running })).modPart p
    (fun q => { q with rbufs := [], closed := 0 })) (SameObjs.of_objs _ ?_) (SameObjs.addObj _ _ _ _ (hmem _ ?_)))
    (SameObjs.setObj _ _ _ _ (hmem _ ?_))) (SameObjs.setObj _ _ _ _ (hmem _ ?_))) (SameObjs.setBit _ _ _ _ _ (hmem _ ?_)) <;> simp [Mach.modPart]

theorem SameObjs.runReady : SameObjs (runKeys p) m (m.runReady p j k) := by
  refine SameObjs.trans (SameObjs.trans (SameObjs.runShown m p j) (SameObjs.of_objs _ ?_)) (SameObjs.setObj _ _ _ _ (by simp [runKeys]))
  simp [Mach.modPart, Mach.runBegun]

/-- The clusters and the guest share of a partition stay as its job starts. -/
theorem Mach.obj_runBegun {n : Nat} (hn : n = 3 ∨ n = 8) : (m.runBegun p j).obj (pix p) n = m.obj (pix p) n := by
  refine (Mach.obj_eq_of_objs (Mach.modJob_objs ..) _ _).trans (SameObjs.runShown m p j _ _ ?_)
  simp only [runKeys, okey, pix, List.mem_cons, List.not_mem_nil, or_false, not_or]
  omega

/-- The markers as a job starts: those outside the guest range read 0 (R150). -/
theorem Mach.marker_runReady (a : Nat) : (m.runReady p j k).markers.get 0 a =
    if (m.clusters p).contains (a / 512) && (a % 512 ≥ 512 - m.gmk p) == false then 0 else m.markers.get 0 a := by
  have hmarkers : (m.runBegun p j).markers = m.markers := by
    simp [Mach.runBegun, Mach.runShown, Mach.setBit, Mach.setField, Mach.addObj, Mach.modPart]
  have hclusters : (m.runBegun p j).clusters p = m.clusters p := congrArg (bitsOf 128) (Mach.obj_runBegun m p j (.inl rfl))
  have hgmk : (m.runBegun p j).gmk p = m.gmk p := Mach.obj_runBegun m p j (.inr rfl)
  rw [Mach.runReady_markers, Mach.marker_clearMarkers, hclusters, hgmk, hmarkers]

/-- The fault record and the count of faults read 0 as a job starts (R153). -/
theorem Mach.obj_runReady {n : Nat} (hp : p < 64) (hn : n = 1 ∨ n = 2) : (m.runReady p j k).obj (0x6280 + p) n = 0 := by
  have hpv : okey (0x4880 + p) 2 ≠ okey (0x6280 + p) n := by simp only [okey]; omega
  have hsw : okey (pix p) 2 ≠ okey (0x6280 + p) n := by simp only [okey, pix]; omega
  have hshown : (m.runShown p j).obj (0x6280 + p) n = 0 := by
    rw [Mach.runShown, Mach.setBit, Mach.obj_setField_other _ hsw]
    rcases hn with rfl | rfl
    · rw [Mach.obj_setObj_other _ (by simp only [okey]; omega), Mach.obj_setObj_same]
    · rw [Mach.obj_setObj_same]
  rw [Mach.runReady, Mach.computePv, Mach.obj_setObj_other _ hpv, ← hshown]
  refine Mach.obj_eq_of_objs ?_ _ _
  simp [Mach.modPart, Mach.runBegun]

end

section
variable {m : Mach} {p : Nat} {j : Job} {k : Pricking}

/-- A fresh job of a pricking without a length table starts. -/
theorem Mach.startRun_eq (hk : (m.part p).resident = some k) (hlen : k.lengths = none) (hround : m.objBit (0x6480 + p) 0xF 8 = false) :
    m.startRun p j = (((m.runReady p j k).startCores p false k).grantAll p k).settle p := by
  have hres : ((m.runShown p j).part p).resident = some k := (Mach.resident_runShown m p j).trans hk
  have hbegun : ((m.runBegun p j).part p).resident = some k := by rw [Mach.runBegun, Mach.part_modJob, hres]
  unfold Mach.startRun
  simp only [hk, hround, Bool.false_eq_true, if_false, ← Mach.runShown_eq]
  simp only [Mach.pinList, Mach.bindLengths, hres, Option.bind_some, hlen, ← Mach.runBegun_eq, hbegun]
  rfl

/-- The jobs as one starts: it runs, and pins nothing. -/
theorem Mach.jobs_runBegun {b : Job} (h : b ∈ (m.runBegun p j).jobs) :
    (b.same j = true ∧ b.st = .running ∧ b.pins = []) ∨ (b.same j = false ∧ b ∈ m.jobs) := by
  have hjobs : (m.runBegun p j).jobs = ((m.modJob j (fun x => { x with st := .running })).modJob j (fun x => { x with pins := [] })).jobs := by
    simp [Mach.runBegun, Mach.runShown, Mach.setBit, Mach.setField, Mach.addObj, Mach.modPart]
  rw [hjobs] at h
  simp only [Mach.modJob_jobs, List.map_map, List.mem_map, Function.comp_apply] at h
  obtain ⟨a, ha, rfl⟩ := h
  by_cases hs : a.same j = true
  · have hs' : ({ a with st := JobSt.running } : Job).same j = true := hs
    rw [if_pos hs, if_pos hs']
    exact .inl ⟨hs, rfl, rfl⟩
  · rw [if_neg hs, if_neg hs]
    exact .inr ⟨by simpa using hs, ha⟩

/-- A chosen job finds its partition with none. -/
theorem Mach.resJob_of_nextRes (h : m.nextRes p = some j) : m.resJob p = none := by
  unfold Mach.nextRes at h
  split at h
  next hfree =>
    simp only [Bool.and_eq_true, Option.isNone_iff_eq_none] at hfree
    exact hfree.2
  next => cases h

/-- The partition's job is the one that started: it runs, and pins nothing. -/
theorem Mach.resJob_started {t : Mach} {b : Job} (hnone : m.resJob p = none) (hjobs : t.jobs = (m.runBegun p j).jobs) (hb : t.resJob p = some b) :
    b.same j = true ∧ b.pins = [] := by
  have hmem : b ∈ (m.runBegun p j).jobs := hjobs ▸ List.mem_of_find?_eq_some hb
  rcases Mach.jobs_runBegun hmem with ⟨hsame, -, hpins⟩ | ⟨-, hold⟩
  · exact ⟨hsame, hpins⟩
  · exact absurd (List.find?_some hb) (List.find?_eq_none.mp hnone b hold)

end

/-- Settles O20: a fresh job's markers, cores and objects start as RUN says, and it then runs or is complete; an open round refuses it. -/
theorem runDispatch : Obligations.RunDispatch := by
  constructor
  · intro s p j k hrun hp hnext hkind hst hk hlen hround
    have hg := gives_step (.run p) s (fun m => doRun m p) rfl hrun
    simp only [doRun, hnext, hkind, hst, decide_true, Bool.and_true, if_true, Mach.startRun_eq hk hlen hround] at hg
    have hready := PreparesOnly.runReady s.mach p j k
    have hobjs := SameObjs.runReady s.mach p j k
    have hzero := fun n hn => Mach.obj_runReady s.mach p j k (n := n) hp hn
    have hreadyJobs := Mach.runReady_jobs s.mach p j k
    have hmarkers := Mach.marker_runReady s.mach p j k
    generalize s.mach.runReady p j k = ready at hready hobjs hzero hreadyJobs hmarkers hg
    have hcores : ready.coresOf p = s.mach.coresOf p := by
      have hclusters : ready.clusters p = s.mach.clusters p := congrArg (bitsOf 128) (hobjs _ _ (by simp [runKeys, okey, pix]; omega))
      simp only [Mach.coresOf, hclusters]
    have hcore : ∀ c, ready.core c = s.mach.core c := fun c => by rw [hready]; rfl
    have hstart := ready.startCores_only p false k
    obtain ⟨hother, hthis⟩ := ready.cores_startCores p false k
    generalize ready.startCores p false k = started at hstart hthis hother hg
    have hsends := SendsOnly.grantAll started p k
    generalize started.grantAll p k = granted at hsends hg
    have hjobs : granted.jobs = (s.mach.runBegun p j).jobs := by
      rw [← hreadyJobs, hsends.fields]; change started.jobs = _; rw [hstart]
    have hres := fun b => Mach.resJob_started (b := b) (Mach.resJob_of_nextRes hnext) hjobs
    have hends := EndsOnly.settle granted p
    have hcases := Mach.settle_cases (m := granted) (p := p) fun b hb => (hres b hb).2
    have hfields : granted.mem = s.mach.mem ∧ granted.cores = started.cores ∧ granted.markers = ready.markers := by
      have hfrom : granted.mem = ready.mem ∧ granted.cores = started.cores ∧ granted.markers = ready.markers := by
        rw [hsends.fields, hstart]; exact ⟨rfl, rfl, rfl⟩
      exact ⟨hfrom.1.trans (by rw [hready]), hfrom.2⟩
    obtain ⟨hmem, hgcores, hgmarkers⟩ := hfields
    have hobj : ∀ n, n = 1 ∨ n = 2 → (granted.settle p).obj (0x6280 + p) n = 0 := fun n hn => by
      rw [hends, ← hzero n hn]
      refine (hsends.objs _ _ fun l hl => ?_).trans (by rw [hstart]; rfl)
      simp only [okey]; omega
    have hmark : (granted.settle p).markers = ready.markers := by rw [hends]; exact hgmarkers
    have hcoreOf : ∀ c, (granted.settle p).core c = started.core c := fun c => by rw [hends]; simp only [Mach.core, hgcores]
    refine ⟨_, hg, ?_, hobj 1 (.inl rfl), hobj 2 (.inr rfl), fun g i hgp hi => ?_, fun a ha => ?_, fun i c hc => ?_, fun c hc => ?_, ?_⟩
    · rcases hcases with heq | ⟨b, -, heq⟩
      · rw [heq, hmem]
      · rw [heq, Mach.endJob_mem, hmem]
    · have hdiv : (512 * g + i) / 512 = g := by omega
      have hmod : (512 * g + i) % 512 = i := by omega
      rw [hmark, hmarkers, hdiv, hmod, if_pos]
      simp only [List.contains_iff_mem.mpr hgp, Bool.true_and, beq_iff_eq, decide_eq_false_iff_not]
      omega
    · rw [hmark, hmarkers, if_neg]
      simp [ha]
    · rw [hcoreOf, hthis i c (hcores.symm ▸ hc), hcore]
      rfl
    · rw [hcoreOf, hother c (hcores.symm ▸ hc), hcore]
    · intro b hb hsame
      have hbegun : ∀ a ∈ granted.jobs, a.same j = true → a.st = .running := fun a ha hs => by
        rcases Mach.jobs_runBegun (hjobs ▸ ha) with ⟨-, hst', -⟩ | ⟨hno, -⟩
        · exact hst'
        · rw [hs] at hno; cases hno
      rcases hcases with heq | ⟨e, he, heq⟩
      · rw [heq] at hb
        exact .inl (hbegun b hb hsame)
      · rw [heq] at hb
        change b ∈ (granted.modJob e (fun x => { x with st := .done 0 0 granted.doneSeq })).jobs at hb
        rw [Mach.modJob_jobs, List.mem_map] at hb
        obtain ⟨a, ha, rfl⟩ := hb
        by_cases hae : a.same e = true
        · rw [if_pos hae]; exact .inr ⟨_, rfl⟩
        · rw [if_neg hae] at hsame ⊢; exact .inl (hbegun a ha hsame)
  · intro s p j k hrun hnext hkind hst hk hround
    have hg := gives_step (.run p) s (fun m => doRun m p) rfl hrun
    simpa only [doRun, hnext, hkind, hst, decide_true, Bool.and_true, if_true, Mach.startRun, hk, hround] using hg

end Sys2Proof.Machine
end

section
/-! SUPPORT. Proofs: guest jobs and guest contexts (R106, R150, R395, R409 to R412). -/

namespace Sys2Proof.Machine

/-! ## The end of a job -/

/-- Every job that is the ended one is done, with its status and detail. -/
theorem Mach.jobs_endJob (m : Mach) (j : Job) (st d : Nat) : ∀ k ∈ (m.endJob j st d).jobs, k.same j = true → ∃ q, k.st = .done st d q := by
  intro k hk hsame
  change k ∈ (m.modJob j (fun x => { x with st := .done st d m.doneSeq })).jobs at hk
  rw [Mach.modJob_jobs, List.mem_map] at hk
  obtain ⟨a, -, rfl⟩ := hk
  by_cases ha : a.same j = true
  · rw [if_pos ha]; exact ⟨_, rfl⟩
  · rw [if_neg ha] at hsame; exact absurd hsame ha

/-- The partition of an ended job has run none since. -/
theorem Mach.part_endJob (m : Mach) (j : Job) (st d : Nat) :
    (m.endJob j st d).part j.part = { m.part j.part with jobT0 := m.rc } := Mach.part_setPart_same ..

theorem Mach.part_endJob_other (m : Mach) (j : Job) (st d : Nat) {r : Nat} (h : r ≠ j.part) : (m.endJob j st d).part r = m.part r :=
  (Mach.part_setPart ..).trans (if_neg (Ne.symm h))

/-! ## What a load changes -/

/-- What the stores of a load may change: memory, the dictionary, the requests of stacks and what an unreadable image reports. -/
def FillsOnly (m m' : Mach) : Prop := m' = { m with
  mem := m'.mem
  bad := m'.bad
  free := m'.free
  objs := m'.objs
  stackRt := m'.stackRt
  flash := m'.flash
  outbox := m'.outbox
  hosts := m'.hosts
  hwWait := m'.hwWait }

theorem FillsOnly.refl (m : Mach) : FillsOnly m m := rfl

theorem FillsOnly.trans {a b c : Mach} (h : FillsOnly a b) (h' : FillsOnly b c) : FillsOnly a c := by
  unfold FillsOnly at h h' ⊢
  rw [h] at h'
  exact h'

theorem FillsOnly.parts {m m' : Mach} (h : FillsOnly m m') : m'.parts = m.parts := by rw [h]

theorem FillsOnly.jobs {m m' : Mach} (h : FillsOnly m m') : m'.jobs = m.jobs := by rw [h]

theorem FillsOnly.foldl {α : Type} {f : Mach → α → Mach} (hf : ∀ a x, FillsOnly a (f a x)) (xs : List α) (m : Mach) : FillsOnly m (xs.foldl f m) :=
  List.foldlRecOn (motive := fun a : Mach => FillsOnly m a) xs f (FillsOnly.refl m) fun a ha x _ => FillsOnly.trans ha (hf a x)

section
variable (m : Mach)

theorem FillsOnly.touch (rs : List (Nat × Nat)) : FillsOnly m (m.touch rs) := by
  unfold FillsOnly
  rw [Mach.touch_only]

theorem FillsOnly.wr (key : Nat) (bs : List Byte) : FillsOnly m (m.wr key bs) := rfl
theorem FillsOnly.wipe (key n : Nat) : FillsOnly m (m.wipe key n) := rfl
theorem FillsOnly.setObj (i a v : Nat) : FillsOnly m (m.setObj i a v) := rfl
theorem FillsOnly.put (key : Nat) (bs : List Byte) : FillsOnly m (m.put key bs) := FillsOnly.trans (FillsOnly.touch m _) (FillsOnly.wr ..)

/-- Bytes of no stated value. -/
theorem FillsOnly.scribbled (key : Nat) (bs : List Byte) : FillsOnly m (({ m with free := m.free + 1 }).wr key bs) := rfl

theorem FillsOnly.of_reports {m' : Mach} (h : ReportsOnly m m') : FillsOnly m m' := by
  unfold FillsOnly
  rw [h]

theorem FillsOnly.lostAny (cls : Nat) (key : Option Nat) : FillsOnly m (m.lostAny cls key) := by
  cases key with
  | none => exact FillsOnly.refl m
  | some k => exact FillsOnly.of_reports m (ReportsOnly.lostRead m cls k)

theorem FillsOnly.fillBufs (p : Nat) (guest : Bool) (k : Pricking) (b : List Byte) (kinds : List Nat) :
    FillsOnly m (m.fillBufs p guest k b kinds) := by
  unfold Mach.fillBufs
  refine FillsOnly.foldl (fun a r => ?_) _ m
  split
  · exact FillsOnly.trans (FillsOnly.wipe a _ _) (FillsOnly.put ..)
  · exact FillsOnly.refl a

theorem FillsOnly.spoilBufs (p : Nat) (guest : Bool) (k : Pricking) : FillsOnly m (m.spoilBufs p guest k) := by
  unfold Mach.spoilBufs
  refine FillsOnly.trans (FillsOnly.foldl (fun a r => ?_) _ m) rfl
  split
  · exact FillsOnly.scribbled a _ _
  · exact FillsOnly.refl a

theorem FillsOnly.fillCores (p : Nat) (guest : Bool) (k : Pricking) (b : List Byte) : FillsOnly m (m.fillCores p guest k b) := by
  unfold Mach.fillCores
  exact FillsOnly.trans (FillsOnly.foldl (fun a r => FillsOnly.foldl (fun c core => FillsOnly.wr c _ _) _ a) _ m)
    (FillsOnly.foldl (fun a g => FillsOnly.wr a _ _) _ _)

/-- A guest pricking is installed beside its resident (R409). -/
theorem FillsOnly.install_guest (p : Nat) (b : List Byte) (addr region : Nat) :
    FillsOnly (m.modPart p (fun q => { q with guest := some (m.pricking p true b addr region) })) (m.install p true b addr region) := by
  unfold Mach.install
  exact FillsOnly.trans (FillsOnly.trans (FillsOnly.trans (FillsOnly.trans (FillsOnly.trans (FillsOnly.fillBufs ..) (FillsOnly.fillBufs ..))
    (FillsOnly.fillCores ..)) (FillsOnly.setObj ..)) (FillsOnly.setObj ..)) (FillsOnly.setObj ..)

/-- An image that cannot be read is reported, and enters the recovery path (R216, R406). -/
def Mach.lostImage (code p : Nat) (key : Option Nat) : Mach :=
  { m.lostAny 2 key with hwWait := (m.lostAny 2 key).hwWait ++ [(code, p, 0xFFFF)] }

theorem FillsOnly.lostImage (code p : Nat) (key : Option Nat) : FillsOnly m (m.lostImage code p key) :=
  FillsOnly.trans (FillsOnly.lostAny m 2 key) rfl

/-- The module as a load has installed its image, or found it unreadable. -/
def Mach.loadBody (p : Nat) (guest hw : Bool) (addr region : Nat) : Mach :=
  let r := m.loadResult p guest hw addr region
  let n := imLen (m.rd addr 128)
  let m := m.touch [(addr, n)]
  if r.code = 0 then m.install p guest (m.rd addr n) addr region
  else if r.code = 0x17 then
    let m' := m.lostImage 0x17 p ((m.firstBad addr (min 128 region)).or (m.firstBad addr n))
    if (m.firstBad addr (min 128 region)).isNone && (m.firstBad addr n).isNone then
      m'.spoilBufs p guest (m.pricking p guest (m.rd addr n) addr region) else m'
  else m

/-- A load that is refused installs nothing. -/
theorem FillsOnly.loadBody_refused {p : Nat} {guest hw : Bool} {addr region : Nat} (h : (m.loadResult p guest hw addr region).code ≠ 0) :
    FillsOnly m (m.loadBody p guest hw addr region) := by
  unfold Mach.loadBody
  simp only [if_neg h]
  refine FillsOnly.trans (FillsOnly.touch m [(addr, imLen (m.rd addr 128))]) ?_
  split
  · split
    · exact FillsOnly.trans (FillsOnly.lostImage ..) (FillsOnly.spoilBufs ..)
    · exact FillsOnly.lostImage ..
  · exact FillsOnly.refl _

/-- A load stores its report behind that, and shows its code and counts (R219, R224). -/
def Mach.loadReported (p : Nat) (guest hw : Bool) (addr report region : Nat) : Mach :=
  let r := m.loadResult p guest hw addr region
  ((m.loadBody p guest hw addr region).put report r.report).setObj (0x6400 + p) 1 (r.code + 256 * (r.first % 65536))

theorem Mach.runLoad_eq (p : Nat) (guest hw : Bool) (addr report region : Nat) : m.runLoad p guest hw addr report region =
    ((m.loadResult p guest hw addr region).code,
      if (m.loadResult p guest hw addr region).code = 0 then (m.loadReported p guest hw addr report region).addObj32 (0x6400 + p) 2 1
      else (m.loadReported p guest hw addr report region).addObj32 (0x6400 + p) 3 1) := rfl

theorem FillsOnly.runLoad (p : Nat) (guest hw : Bool) (addr report region : Nat) :
    FillsOnly (m.loadBody p guest hw addr region) (m.runLoad p guest hw addr report region).2 := by
  rw [Mach.runLoad_eq]
  have hreported : FillsOnly (m.loadBody p guest hw addr region) (m.loadReported p guest hw addr report region) :=
    FillsOnly.trans (FillsOnly.put ..) (FillsOnly.setObj ..)
  dsimp only
  split
  · exact FillsOnly.trans hreported (FillsOnly.setObj ..)
  · exact FillsOnly.trans hreported (FillsOnly.setObj ..)

/-- The report can be read back behind the load. -/
theorem Mach.rd_runLoad (hm : Memory.wf m) (p : Nat) (guest hw : Bool) (addr report region : Nat) :
    let r := (m.loadResult p guest hw addr region).report
    (m.runLoad p guest hw addr report region).2.rd report r.length = r := by
  intro r
  have hbody : Memory.wf (m.loadBody p guest hw addr region) := by
    unfold Mach.loadBody
    dsimp only
    split
    · exact Memory.wf_install (Memory.wf_of_mem (Mach.touch_mem ..) hm) _ _ _ _ _
    · split
      · have hlost := fun (a : Mach) key (h : Memory.wf a) => Memory.wf_of_mem (m' := a.lostImage 0x17 p key) (by simp [Mach.lostImage]) h
        have htouched : Memory.wf (m.touch [(addr, imLen (m.rd addr 128))]) := Memory.wf_of_mem (Mach.touch_mem ..) hm
        split
        · exact Memory.wf_spoilBufs (hlost _ _ htouched) _ _ _
        · exact hlost _ _ htouched
      · exact Memory.wf_of_mem (Mach.touch_mem ..) hm
  have hmem : (m.runLoad p guest hw addr report region).2.mem = ((m.loadBody p guest hw addr region).wr report r).mem := by
    rw [Mach.runLoad_eq]
    dsimp only
    split <;> simp [Mach.loadReported, r]
  rw [Mach.rd_eq_of_mem hmem]
  exact Mach.rd_wr_same hbody report r

/-- The prickings of a partition behind a guest load: an accepted one stands beside the resident, a refused one leaves both (R409). -/
theorem Mach.part_runLoad_guest (p : Nat) (hw : Bool) (addr report region : Nat) :
    let r := m.loadResult p true hw addr region
    let n := imLen (m.rd addr 128)
    let m' := (m.runLoad p true hw addr report region).2
    m'.jobs = m.jobs ∧ (m'.part p).resident = (m.part p).resident ∧
      (m'.part p).guest = if r.code = 0 then some ((m.touch [(addr, n)]).pricking p true (m.rd addr n) addr region) else (m.part p).guest := by
  intro r n m'
  have hrun := FillsOnly.runLoad m p true hw addr report region
  have hpart : m'.part p = (m.loadBody p true hw addr region).part p := by simp only [Mach.part, m', hrun.parts]
  rw [show m'.jobs = (m.loadBody p true hw addr region).jobs from hrun.jobs, hpart]
  by_cases hcode : r.code = 0
  · let t := m.touch [(addr, n)]
    have hbody : m.loadBody p true hw addr region = t.install p true (m.rd addr n) addr region := by
      rw [← Mach.rd_eq_of_mem (Mach.touch_mem m [(addr, n)]) addr n]
      exact if_pos hcode
    have hinstall := FillsOnly.install_guest t p (m.rd addr n) addr region
    have htouch := FillsOnly.touch m [(addr, n)]
    have hinstalled : (t.install p true (m.rd addr n) addr region).part p =
        { t.part p with guest := some (t.pricking p true (m.rd addr n) addr region) } := by
      simp only [Mach.part, hinstall.parts]
      exact AMap.get_put_same ..
    have hold : t.part p = m.part p := by simp only [Mach.part, t, htouch.parts]
    rw [if_pos hcode, hbody, hinstall.jobs, hinstalled, hold]
    exact ⟨htouch.jobs, rfl, rfl⟩
  · have hbody := FillsOnly.loadBody_refused (p := p) (guest := true) (hw := hw) m hcode
    have hold : (m.loadBody p true hw addr region).part p = m.part p := by simp only [Mach.part, hbody.parts]
    rw [if_neg hcode, hold]
    exact ⟨hbody.jobs, rfl, rfl⟩

end

/-! ## Guest jobs -/

section
variable {s : State} {p : Nat} {j : Job}

theorem gives_guestLoad (hw : Bool) (hrun : s.mach.phase = .running) (hnext : s.mach.nextGuest p = some j) (hpart : j.part = p) (hkind : j.kind = 6) :
    let r := s.mach.loadResult p true hw j.arg0 j.arg2
    Gives (.guestLoad p hw) s ((s.mach.runLoad p true hw j.arg0 j.arg1 j.arg2).2.endJob j (if r.code = 0 then 0 else 5) r.code) := by
  have hg := gives_step (.guestLoad p hw) s (fun m => doGuestLoad m p hw) rfl hrun
  simp only [doGuestLoad, hnext, hkind, if_true, Mach.loadJob, hpart] at hg
  exact hg

theorem gives_guestUnload (hrun : s.mach.phase = .running) (hnext : s.mach.nextGuest p = some j) (hkind : j.kind = 7) :
    Gives (.guestUnload p) s ((s.mach.unloadGuest p).endJob j 0 0) := by
  have hg := gives_step (.guestUnload p) s (fun m => doGuestUnload m p) rfl hrun
  simpa only [doGuestUnload, hnext, hkind, if_true] using hg

theorem gives_guestRun {k : Pricking} (hrun : s.mach.phase = .running) (hnext : s.mach.nextGuest p = some j) (hkind : j.kind = 8)
    (hk : (s.mach.part p).guest = some k) :
    Gives (.guestRun p) s (((s.mach.modJob j (fun x => { x with st := .running })).clearMarkers p true).startCores p true k) := by
  have hg := gives_step (.guestRun p) s (fun m => doGuestRun m p) rfl hrun
  simpa only [doGuestRun, hnext, hkind, hk, ne_eq, not_true_eq_false, if_false] using hg

end

/-- The prickings stay as a job of their partition ends. -/
theorem Mach.prickings_endJob (m : Mach) (j : Job) (st d p : Nat) :
    ((m.endJob j st d).part p).guest = (m.part p).guest ∧ ((m.endJob j st d).part p).resident = (m.part p).resident := by
  by_cases h : p = j.part
  · rw [h, Mach.part_endJob]; exact ⟨rfl, rfl⟩
  · rw [Mach.part_endJob_other m j st d h]; exact ⟨rfl, rfl⟩

theorem Mach.endJob_objs (m : Mach) (j : Job) (st d : Nat) : (m.endJob j st d).objs = m.objs := rfl

theorem Mach.part_unloadGuest (m : Mach) (p : Nat) : (m.unloadGuest p).part p = { m.part p with guest := none } := by
  simp only [Mach.unloadGuest, Mach.part_setObj, Mach.modPart, Mach.part_setPart_same]

/-- A guest's functions and version are shown no longer. -/
theorem SameObjs.unloadGuest (m : Mach) (p : Nat) : SameObjs [okey (0x6300 + p) 3, okey (0x6300 + p) 4] m (m.unloadGuest p) := by
  refine SameObjs.trans (SameObjs.trans (SameObjs.of_objs _ ?_) (SameObjs.setObj _ _ _ _ (by simp))) (SameObjs.setObj _ _ _ _ (by simp))
  exact Mach.setPart_objs ..

/-- A job shown running runs. -/
theorem Mach.jobs_running (m : Mach) (j : Job) : ∀ b ∈ (m.modJob j (fun x => { x with st := .running })).jobs, b.same j = true → b.st = .running := by
  intro b hb hsame
  rw [Mach.modJob_jobs, List.mem_map] at hb
  obtain ⟨a, -, rfl⟩ := hb
  by_cases ha : a.same j = true
  · rw [if_pos ha]
  · rw [if_neg ha] at hsame; exact absurd hsame ha

/-! ## Guest contexts -/

/-- Every guest context of a partition is fresh (R412). -/
def Mach.freshGuests (m : Mach) (p : Nat) : Mach := (m.coresOf p).foldl (fun (a : Mach) c => a.modCtx c true (fun _ => Ctx.init)) m

theorem Mach.freshGuests_only (m : Mach) (p : Nat) : m.freshGuests p = { m with
    cores := (m.freshGuests p).cores
    acts := (m.freshGuests p).acts } := by
  unfold Mach.freshGuests
  refine List.foldlRecOn (motive := fun a : Mach => a = { m with cores := a.cores, acts := a.acts }) _ _ rfl fun a ha c _ => ?_
  rw [ha]
  rfl

theorem Mach.core_freshGuests (m : Mach) {p c : Nat} (h : c ∈ m.coresOf p) :
    (m.freshGuests p).core c = (m.core c).setCtx true Ctx.init := by
  obtain ⟨-, -, hthis⟩ := Mach.foldl_cores (m := m) (P := fun _ => True) (key := fun c => c) (f := fun a c => a.modCtx c true fun _ => Ctx.init)
    (m.coresOf p) (by rw [List.map_id']; exact m.nodup_coresOf p) trivial
    fun x _ a _ _ => ⟨trivial, fun c hc => Mach.core_modCtx_other a hc true _⟩
  obtain ⟨a, -, hcore, hend⟩ := hthis c h
  rw [← hcore]
  exact hend.trans (Mach.core_modCtx_same ..)

/-- A guest job whose streams are complete ends with its guest contexts fresh. -/
theorem gives_guestJobEnd {s : State} {p st d : Nat} {j : Job} (hrun : s.mach.phase = .running) (hj : s.mach.guestJob p = some j)
    (hst : (j.st = .running ∧ st = 0 ∧ d = 0) ∨ j.st = .stopping st d) (hdone : s.mach.streamsDone p true = true) :
    Gives (.guestJobEnd p) s ((s.mach.endJob j st d).freshGuests p) := by
  have hg := gives_step (.guestJobEnd p) s (fun m => doGuestEnd m p) rfl hrun
  simp only [doGuestEnd, hj, hdone, Bool.not_true, Bool.false_eq_true, if_false] at hg
  obtain ⟨hst, rfl, rfl⟩ | hst := hst
  · simp only [hst] at hg
    exact hg
  · simp only [hst] at hg
    exact hg

/-- Settles O24: guest jobs load, unload, run and end, and guest contexts take and give back their cores, as the rows say. -/
theorem guests : Obligations.Guests := by
  constructor
  · intro s p j hrun hp hnext hpart
    refine ⟨fun hw hkind => ?_, fun hkind => ?_, fun k hkind hk => ?_⟩
    · intro r n
      obtain ⟨hjobs, hresident, hguest⟩ := s.mach.part_runLoad_guest p hw j.arg0 j.arg1 j.arg2
      let loaded := (s.mach.runLoad p true hw j.arg0 j.arg1 j.arg2).2
      obtain ⟨hguest', hresident'⟩ := loaded.prickings_endJob j (if r.code = 0 then 0 else 5) r.code p
      refine ⟨_, gives_guestLoad hw hrun hnext hpart hkind, fun hm => ?_, fun hcode => ?_, fun hcode => ?_, ?_, loaded.jobs_endJob j _ _⟩
      · exact (Mach.rd_eq_of_mem (Mach.endJob_mem ..) _ _).trans (s.mach.rd_runLoad hm p true hw j.arg0 j.arg1 j.arg2)
      · exact hguest'.trans (hguest.trans (if_pos hcode))
      · exact hguest'.trans (hguest.trans (if_neg hcode))
      · exact hresident'.trans hresident
    · obtain ⟨hguest, hresident⟩ := (s.mach.unloadGuest p).prickings_endJob j 0 0 p
      refine ⟨_, gives_guestUnload hrun hnext hkind, ?_, ?_, (Mach.endJob_mem ..).trans (Mach.unloadGuest_mem ..), ?_, Mach.jobs_endJob _ j 0 0⟩
      · rw [hguest, Mach.part_unloadGuest]
      · rw [hresident, Mach.part_unloadGuest]
      · exact SameObjs.trans (SameObjs.unloadGuest s.mach p) (SameObjs.of_objs _ (Mach.endJob_objs ..))
    · let shown := (s.mach.modJob j (fun x => { x with st := .running })).clearMarkers p true
      have hstart := shown.startCores_only p true k
      obtain ⟨-, hthis⟩ := shown.cores_startCores p true k
      refine ⟨shown.startCores p true k, gives_guestRun hrun hnext hkind hk, by rw [hstart]; rfl, by rw [hstart]; rfl, ?_, fun g i hg hi hi' => ?_,
        fun i c hc => ?_⟩
      · rw [hstart]
        exact s.mach.jobs_running j
      · have hdiv : (512 * g + i) / 512 = g := by omega
        have hmod : (512 * g + i) % 512 = i := by omega
        have hmarkers : (shown.startCores p true k).markers = shown.markers := by rw [hstart]
        rw [hmarkers, Mach.marker_clearMarkers, hdiv, hmod, if_pos]
        simp only [Bool.and_eq_true, List.contains_iff_mem, beq_iff_eq, decide_eq_true_eq]
        exact ⟨hg, hi'⟩
      · rw [hthis i c hc]
        exact ⟨rfl, rfl⟩
  · intro s core p hrun hp k
    refine ⟨fun hcore hjob hsw hin hback halive hqueue hbusy hheld hdue => ?_, fun hin hback hqueue hdrains => ?_, fun j st d hj hst hdone => ?_⟩
    · have hg := gives_step (.guestSwitch core) s (fun m => doGuestSwitch m core) rfl hrun
      have hbanks : k.arr.banks.all (fun b => !b.held) = true := by simpa using hheld
      have hcond : (core < 2048 && s.mach.jobRuns p true && !s.mach.switching p && !k.inGuest && !k.back && k.guest.alive && k.arr.queue.isEmpty &&
          !k.arr.busy && k.arr.banks.all (fun b => !b.held) && s.mach.guestDue p core) = true := by
        simp only [decide_eq_true hcore, hjob, hsw, hin, hback, halive, hqueue, hbusy, hbanks, hdue, List.isEmpty_nil, Bool.not_false, Bool.and_self]
      simp only [doGuestSwitch, hp] at hg
      rw [if_pos hcond] at hg
      refine ⟨_, hg, rfl, ⟨?_, ?_⟩, ?_, ?_⟩
      · exact (OneCore.setCore s.mach core _).1
      · exact (OneCore.setCore s.mach core _).2
      · exact Mach.obj_setObj_same ..
      · exact SameObjs.addObj (s.mach.setCore core { k with inGuest := true, tGuest := s.mach.rc }) _ _ _ (by simp)
    · have hg := gives_step (.guestReturn core) s (fun m => doGuestReturn m core) rfl hrun
      have hcond : (k.inGuest && (k.back || s.mach.switching p) && k.arr.queue.all (fun o => !o.guest) && k.arr.drains.all (fun d => !d.op.guest)) =
          true := by
        simp only [Bool.and_eq_true, Bool.or_eq_true, List.all_eq_true, Bool.not_eq_true']
        exact ⟨⟨⟨hin, hback⟩, hqueue⟩, hdrains⟩
      simp only [doGuestReturn, hp] at hg
      rw [if_pos hcond] at hg
      exact ⟨_, hg, rfl, OneCore.setCore s.mach core _, OnePart.setPart (s.mach.setCore core { k with inGuest := false, back := false }) p _⟩
    · have hpart : j.part = p := Mach.jobOf_part (guest := true) hj
      have hfresh := (s.mach.endJob j st d).freshGuests_only p
      have hparts : ∀ r, ((s.mach.endJob j st d).freshGuests p).part r = (s.mach.endJob j st d).part r := fun r => by rw [hfresh]; rfl
      refine ⟨_, gives_guestJobEnd hrun hj hst hdone, by rw [hfresh]; rfl, ⟨?_, fun r hr => ?_⟩, ?_, fun c hc => ?_⟩
      · rw [hparts, ← hpart, Mach.part_endJob]
      · rw [hparts, Mach.part_endJob_other _ _ _ _ (hpart ▸ hr)]
      · rw [hfresh]
        exact Mach.jobs_endJob s.mach j st d
      · rw [Mach.core_freshGuests (s.mach.endJob j st d) hc]
        exact ⟨rfl, rfl⟩

end Sys2Proof.Machine
end

section
/-! SUPPORT. Proofs: how a save is asked for and begins (R104, R147, R403, R404). -/

namespace Sys2Proof.Machine

/-! ## PREEMPT (R403) -/

section
variable {s : State} {p : Nat}

/-- PREEMPT reaches an idle command object. -/
theorem gives_preempt (hrun : s.mach.phase = .running) (hp : p < 64) (hon : s.mach.online = true) (hidle : s.mach.objBit (pix p) 2 0 = false) :
    Gives (.preempt p 0x30000) s (doPreempt p (s.mach.reply 0)) := by
  have hg := gives_step (.preempt p 0x30000) s (fun m => m.partCommand p 0x30000 3 (doPreempt p)) rfl hrun
  have hop : fld 0x30000 19 16 = 3 := by decide
  simpa [Mach.partCommand, Nat.not_le.mpr hp, hon, hop, hidle] using hg

/-- A refused command shows ERROR and its reason, and changes no partition (R386). -/
theorem Mach.refusePart_shows (m : Mach) (p : Nat) {reason : Nat} (h : reason < 256) :
    (m.refusePart p reason).field (pix p) 2 23 16 = reason ∧ (m.refusePart p reason).parts = m.parts := by
  refine ⟨?_, Mach.setObj_parts ..⟩
  rw [Mach.refusePart, Mach.field_setField_same _ _ _ _ _ _ (by decide)]
  exact Nat.mod_eq_of_lt h

/-- PREEMPT of a job that can be saved asks for its save. -/
theorem doPreempt_asks {m : Mach} (hst : m.pstate p = 2) (hv : m.victim p ≠ none) (hsw : m.switching p = false) :
    doPreempt p m = (m.modPart p (fun q => { q with wantSave := true })).cmdDone (pix p) 2 true := by
  have hsome : (m.victim p).isNone = false := by simpa [Option.isSome_iff_ne_none] using hv
  simp [doPreempt, hst, hsome, hsw]

/-- Without such a job, or with its save under way, it is refused. -/
theorem doPreempt_refused {m : Mach} (hst : m.pstate p = 2) (hv : m.victim p = none ∨ m.switching p = true) : doPreempt p m = m.refusePart p 7 := by
  have hcond : ((m.victim p).isNone || m.switching p) = true := by simpa using hv
  rw [doPreempt, if_neg (by simp [hst]), if_pos hcond]

/-- The partition asks for a save, with its command DONE. -/
theorem Mach.asked_shows (m : Mach) (p : Nat) :
    let m' := (m.modPart p (fun q => { q with wantSave := true })).cmdDone (pix p) 2 true
    OnePart p { m.part p with wantSave := true } m m' ∧ m'.field (pix p) 2 2 0 = 2 ∧ SameObjs [okey (pix p) 2] m m' ∧ m'.cores = m.cores ∧
      m'.jobs = m.jobs := by
  let asked := m.modPart p (fun q => { q with wantSave := true })
  have hset : SameObjs [okey (pix p) 2] asked (asked.cmdDone (pix p) 2 true) := SameObjs.setField asked _ _ _ _ _ (by simp)
  exact ⟨OnePart.setPart m p { m.part p with wantSave := true }, Mach.field_cmdDone .., hset, Mach.setObj_cores .., Mach.setObj_jobs ..⟩

end

/-! ## Arrays that are cut (R104) -/

/-- What the cut of an array may change: cores, islands and flags, and the waits of the core; the command and status of every partition stay. -/
structure CutsOnly (m m' : Mach) : Prop where
  fields : m' = { m with
    cores := m'.cores
    acts := m'.acts
    islands := m'.islands
    objs := m'.objs
    waits := m'.waits
    ports := m'.ports }
  status : ∀ p < 64, m'.obj (pix p) 2 = m.obj (pix p) 2

theorem CutsOnly.trans {a b c : Mach} (h : CutsOnly a b) (h' : CutsOnly b c) : CutsOnly a c := by
  obtain ⟨hfields, hstatus⟩ := h
  obtain ⟨hfields', hstatus'⟩ := h'
  refine ⟨?_, fun p hp => (hstatus' p hp).trans (hstatus p hp)⟩
  rw [hfields] at hfields'
  exact hfields'

theorem CutsOnly.of_objs {m m' : Mach} (h : m' = { m with
    cores := m'.cores
    acts := m'.acts
    islands := m'.islands
    waits := m'.waits
    ports := m'.ports }) : CutsOnly m m' := by
  have hobjs : m'.objs = m.objs := by rw [h]
  exact ⟨h.trans (by rw [hobjs]), fun p _ => Mach.obj_eq_of_objs hobjs _ _⟩

theorem CutsOnly.refl (m : Mach) : CutsOnly m m := CutsOnly.of_objs rfl

theorem CutsOnly.setFlags (m : Mach) (q fl : Nat) : CutsOnly m (m.setFlags q fl) := by
  refine ⟨?_, fun p hp => SameObjs.setFlags m q fl _ _ ?_⟩
  · rw [Mach.setFlags_only]
  · simp only [List.mem_singleton, okey, pix]; omega

theorem Mach.core_setFlags (m : Mach) (p fl c : Nat) : (m.setFlags p fl).core c = m.core c := by
  rw [Mach.setFlags_only]
  rfl

theorem Mach.core_countBeats (m : Mach) (core n c : Nat) : (m.countBeats core n).core c = m.core c := rfl

theorem Mach.core_modArr_other (m : Mach) {c core : Nat} (h : c ≠ core) (f : Arr → Arr) : (m.modArr core f).core c = m.core c :=
  (Mach.core_setCore ..).trans (if_neg (Ne.symm h))

/-- The K-step at which the operation in flight is cut. -/
def ArOp.cutAt (o : ArOp) (cut : Nat) : Nat := max (64 * cut) (o.kdone + 64)

/-- A cut inside the tile in flight stops the array there; without such a tile of the host it leaves the core. -/
theorem Mach.cutArray_inside {m : Mach} {core cut : Nat} (hinside : ∀ o rest, (m.core core).arr.queue = o :: rest → (m.core core).arr.busy = true →
    o.guest = false → o.cutAt cut < o.k) :
    CutsOnly m (m.cutArray core cut) ∧ (∀ c, c ≠ core → (m.cutArray core cut).core c = m.core c) ∧
      ((m.cutArray core cut).core core).host = (m.core core).host ∧
      ∀ o rest, (m.core core).arr.queue = o :: rest → (m.core core).arr.busy = true → o.guest = false →
        ((m.cutArray core cut).core core).arr.busy = false ∧
          ((m.cutArray core cut).core core).arr.queue = { o with kdone := o.cutAt cut } :: rest := by
  unfold Mach.cutArray
  dsimp only
  cases hqueue : (m.core core).arr.queue with
  | nil => exact ⟨CutsOnly.refl m, fun _ _ => rfl, rfl, fun o rest h => by cases h⟩
  | cons o rest =>
    dsimp only
    by_cases hfree : (!(m.core core).arr.busy || o.guest) = true
    · rw [if_pos hfree]
      refine ⟨CutsOnly.refl m, fun _ _ => rfl, rfl, fun o' rest' h hbusy hhost => ?_⟩
      cases h
      rw [hbusy, hhost] at hfree
      cases hfree
    · have hflight : (m.core core).arr.busy = true ∧ o.guest = false := by simpa using hfree
      have hcut : ¬ max (64 * cut) (o.kdone + 64) ≥ o.k := Nat.not_le.mpr (hinside o rest hqueue hflight.1 hflight.2)
      rw [if_neg hfree, if_neg hcut]
      refine ⟨CutsOnly.trans (CutsOnly.of_objs rfl) (CutsOnly.setFlags ..), fun c hc => ?_, ?_, fun o' rest' h _ _ => ?_⟩
      · rw [Mach.core_setFlags, Mach.core_modArr_other _ hc, Mach.core_countBeats]
      · rw [Mach.core_setFlags, Mach.core_modArr_same, Mach.core_countBeats]
      · cases h
        rw [Mach.core_setFlags, Mach.core_modArr_same]
        exact ⟨rfl, rfl⟩

/-- A cut at the end of a tile or beyond lets it complete. -/
theorem Mach.cutArray_at_end {m : Mach} {core cut : Nat} {o : ArOp} {rest : List ArOp} (hqueue : (m.core core).arr.queue = o :: rest)
    (hbusy : (m.core core).arr.busy = true) (hhost : o.guest = false) (hend : o.k ≤ o.cutAt cut) : m.cutArray core cut = doTileComplete m core := by
  have hfree : ¬ (!(m.core core).arr.busy || o.guest) = true := by simp [hbusy, hhost]
  unfold Mach.cutArray
  simp only [hqueue, if_neg hfree]
  exact if_pos hend

/-! ## SAVE (R404) -/

/-- One core as a save begins: its array is cut, and a waiting host context takes its place at its MWAIT again (R104, R147). -/
def Mach.cutCore (m : Mach) (core cut : Nat) : Mach :=
  ((m.cutArray core cut).dropWaits core false).modCtx core false (fun x => x.unwait ((m.cutArray core cut).dropWaits core false).rc)

/-- A core whose cut lies inside its tile: its host context and its array, and no other core. -/
theorem Mach.cutCore_inside {m : Mach} {core cut : Nat} (hinside : ∀ o rest, (m.core core).arr.queue = o :: rest → (m.core core).arr.busy = true →
    o.guest = false → o.cutAt cut < o.k) :
    CutsOnly m (m.cutCore core cut) ∧ (∀ c, c ≠ core → (m.cutCore core cut).core c = m.core c) ∧
      ((m.cutCore core cut).core core).host = (m.core core).host.unwait m.rc ∧
      ∀ o rest, (m.core core).arr.queue = o :: rest → (m.core core).arr.busy = true → o.guest = false →
        ((m.cutCore core cut).core core).arr.busy = false ∧
          ((m.cutCore core cut).core core).arr.queue = { o with kdone := o.cutAt cut } :: rest := by
  obtain ⟨honly, hothers, hhost, harr⟩ := Mach.cutArray_inside hinside
  unfold Mach.cutCore
  have hrc : (m.cutArray core cut).rc = m.rc := by rw [honly.fields]
  generalize m.cutArray core cut = a at honly hothers hhost harr hrc
  have hcore : ∀ c, (a.dropWaits core false).core c = a.core c := fun c => rfl
  refine ⟨CutsOnly.trans honly (CutsOnly.of_objs rfl), fun c hc => ?_, ?_, fun o rest hqueue hbusy hguest => ?_⟩
  · rw [Mach.core_modCtx_other _ hc, hcore, hothers c hc]
  · rw [Mach.core_modCtx_same, hcore, ← hhost, ← hrc]
    rfl
  · rw [Mach.core_modCtx_same, hcore]
    exact harr o rest hqueue hbusy hguest

/-- The module as it shows SWITCHING, before its cores are cut. -/
def Mach.saveShown (m : Mach) (p : Nat) : Mach :=
  (m.setBit (pix p) 2 6 true).modPart p (fun q => { q with wantSave := false, saveT0 := m.rc })

/-- A save that is due shows SWITCHING and cuts every core of the partition. -/
theorem doSave_due {m : Mach} {p : Nat} {cuts : List Nat} {j : Job} (hv : m.victim p = some j) (hsw : m.switching p = false)
    (hdue : (m.part p).wantSave = true ∨ ∃ x ∈ m.jobs, x.part = p ∧ x.kind = 1 ∧ x.st = .queued ∧ j.pri < x.pri) :
    doSave m p cuts = (((m.saveShown p).coresOf p).zipIdx).foldl (fun (a : Mach) c => a.cutCore c.1 (cuts.getD c.2 0)) (m.saveShown p) := by
  have hcond : ((m.part p).wantSave || m.jobs.any (fun x => x.part = p && x.kind = 1 && x.st = .queued && x.pri > j.pri)) = true := by
    simpa [and_assoc] using hdue
  have hgo : ¬ (m.switching p || !((m.part p).wantSave || m.jobs.any (fun x => x.part = p && x.kind = 1 && x.st = .queued && x.pri > j.pri))) =
      true := by
    rw [hsw, hcond]; decide
  simp only [doSave, hv]
  rw [if_neg hgo]
  rfl

/-- Every array is cut inside its tile. -/
def Mach.cutsInside (m : Mach) (p : Nat) (cuts : List Nat) : Prop :=
  ∀ i c o rest, (m.coresOf p)[i]? = some c → (m.core c).arr.queue = o :: rest → (m.core c).arr.busy = true → o.guest = false →
    o.cutAt (cuts.getD i 0) < o.k

/-- What a save that is due leaves, with every array cut inside its tile. -/
theorem doSave_effect {m : Mach} {p : Nat} {cuts : List Nat} {j : Job} (hp : p < 64) (hv : m.victim p = some j) (hsw : m.switching p = false)
    (hdue : (m.part p).wantSave = true ∨ ∃ x ∈ m.jobs, x.part = p ∧ x.kind = 1 ∧ x.st = .queued ∧ j.pri < x.pri)
    (hinside : m.cutsInside p cuts) :
    let m' := doSave m p cuts
    m'.switching p = true ∧ OnePart p { m.part p with wantSave := false, saveT0 := m.rc } m m' ∧ m'.mem = m.mem ∧ m'.jobs = m.jobs ∧
      ∀ i c, (m.coresOf p)[i]? = some c → (m'.core c).host = (m.core c).host.unwait m.rc ∧
        ∀ o rest, (m.core c).arr.queue = o :: rest → (m.core c).arr.busy = true → o.guest = false →
          (m'.core c).arr.busy = false ∧ (m'.core c).arr.queue = { o with kdone := o.cutAt (cuts.getD i 0) } :: rest := by
  intro m'
  have hcore : ∀ c, (m.saveShown p).core c = m.core c := fun c => rfl
  have hrc : (m.saveShown p).rc = m.rc := rfl
  have hswitching : (m.saveShown p).switching p = true := Mach.objBit_setBit_same ..
  have hcores : (m.saveShown p).coresOf p = m.coresOf p := by
    have hclusters : (m.saveShown p).clusters p = m.clusters p :=
      congrArg (bitsOf 128) (Mach.obj_setField_other m (by simp only [okey]; omega) ..)
    simp only [Mach.coresOf, hclusters]
  have hpart : OnePart p { m.part p with wantSave := false, saveT0 := m.rc } m (m.saveShown p) :=
    OnePart.setPart (m.setBit (pix p) 2 6 true) p _
  have hmem : (m.saveShown p).mem = m.mem := rfl
  have hjobs : (m.saveShown p).jobs = m.jobs := rfl
  have hm' : m' = _ := doSave_due hv hsw hdue
  generalize m.saveShown p = shown at hcore hrc hswitching hcores hpart hmem hjobs hm'
  have hnd : ((shown.coresOf p).zipIdx.map Prod.fst).Nodup := by rw [List.zipIdx_map_fst]; exact shown.nodup_coresOf p
  have hcut : ∀ x ∈ (shown.coresOf p).zipIdx, ∀ a : Mach, a.core x.1 = shown.core x.1 → ∀ o rest, (a.core x.1).arr.queue = o :: rest →
      (a.core x.1).arr.busy = true → o.guest = false → o.cutAt (cuts.getD x.2 0) < o.k := fun x hx a ha o rest hq hb hg => by
    rw [ha, hcore] at hq hb
    rw [hcores] at hx
    exact hinside x.2 x.1 o rest (List.mk_mem_zipIdx_iff_getElem?.mp hx) hq hb hg
  obtain ⟨honly, -, hthis⟩ := Mach.foldl_cores (m := shown) (P := CutsOnly shown) (key := Prod.fst)
    (f := fun a c => a.cutCore c.1 (cuts.getD c.2 0)) (shown.coresOf p).zipIdx hnd (CutsOnly.refl shown) fun x hx a ha hax => by
      obtain ⟨hstep, hothers, -⟩ := Mach.cutCore_inside (hcut x hx a hax)
      exact ⟨CutsOnly.trans ha hstep, hothers⟩
  rw [← hm'] at honly
  refine ⟨?_, ⟨?_, fun r hr => ?_⟩, ?_, ?_, fun i c hc => ?_⟩
  · rw [← hswitching]; exact congrArg (fun v => bit v 6) (honly.status p hp)
  · rw [← hpart.1, honly.fields]; rfl
  · rw [← hpart.2 r hr, honly.fields]; rfl
  · rw [← hmem, honly.fields]
  · rw [← hjobs, honly.fields]
  · have hx : (c, i) ∈ (shown.coresOf p).zipIdx := by rw [hcores]; exact List.mk_mem_zipIdx_iff_getElem?.mpr hc
    obtain ⟨a, ha, hac, hend⟩ := hthis (c, i) hx
    rw [← hm'] at hend
    obtain ⟨-, -, hhost, harr⟩ := Mach.cutCore_inside (hcut (c, i) hx a hac)
    have harc : a.rc = m.rc := by rw [ha.fields]; exact hrc
    rw [hac, hcore] at hhost harr
    rw [show m'.core c = (a.cutCore c (cuts.getD i 0)).core c from hend]
    exact ⟨hhost.trans (by rw [harc]), harr⟩

end Sys2Proof.Machine
end

section
/-! SUPPORT. Proofs: how a save completes (R404, R405). -/

namespace Sys2Proof.Machine

/-! ## Requests to the save stacks, and the image -/

/-- The objects of the stacks' states (4100h + s.02). -/
def stackKeys (ss : List Nat) : List Nat := ss.map (fun s => okey (0x4100 + s) 2)

/-- Requests to the save stacks change when they were last used, and their states: nothing else. -/
theorem Mach.touchSaves_only (m : Mach) (p : Nat) : m.touchSaves p = { m with
    stackRt := (m.touchSaves p).stackRt
    objs := (m.touchSaves p).objs } := by
  unfold Mach.touchSaves
  refine List.foldlRecOn (motive := fun a : Mach => a = { m with stackRt := a.stackRt, objs := a.objs }) _ _ rfl fun a ha s _ => ?_
  rw [Mach.touchStack_only, ha]

theorem SameObjs.touchSaves (m : Mach) (p : Nat) : SameObjs (stackKeys (m.saveStacks p)) m (m.touchSaves p) := by
  unfold Mach.touchSaves
  refine List.foldlRecOn (motive := fun a : Mach => SameObjs _ m a) _ _ (SameObjs.refl m _) fun a ha s hs => ?_
  exact SameObjs.trans ha (SameObjs.mono (by simpa [stackKeys] using ⟨s, hs, rfl⟩) (SameObjs.touchStack a s))

/-- No object of a partition's block is a stack's, nor one whose sub-index is not 2. -/
theorem not_mem_stackKeys_of_sub {idx sub : Nat} (ss : List Nat) (h : sub % 256 ≠ 2) : okey idx sub ∉ stackKeys ss := by
  simp only [stackKeys, List.mem_map, okey, not_exists, not_and]
  omega

theorem not_mem_stackKeys_pix {p : Nat} (ss : List Nat) (h : p < 64) : okey (pix p) 2 ∉ stackKeys ss := by
  simp only [stackKeys, List.mem_map, okey, pix, not_exists, not_and]
  omega

/-- What writing an image may change: memory, and the values that are free. -/
def ImagesOnly (m m' : Mach) : Prop := m' = { m with
  mem := m'.mem
  bad := m'.bad
  free := m'.free }

theorem ImagesOnly.refl (m : Mach) : ImagesOnly m m := rfl

theorem ImagesOnly.trans {a b c : Mach} (h : ImagesOnly a b) (h' : ImagesOnly b c) : ImagesOnly a c := by
  unfold ImagesOnly at h h' ⊢
  rw [h] at h'
  exact h'

theorem ImagesOnly.foldl {α : Type} {f : Mach → α → Mach} (hf : ∀ a x, ImagesOnly a (f a x)) (xs : List α) (m : Mach) : ImagesOnly m (xs.foldl f m) :=
  List.foldlRecOn (motive := fun a : Mach => ImagesOnly m a) xs f (ImagesOnly.refl m) fun a ha x _ => ImagesOnly.trans ha (hf a x)

section
variable (m : Mach) (p slot : Nat)

theorem ImagesOnly.wr (key : Nat) (bs : List Byte) : ImagesOnly m (m.wr key bs) := rfl
theorem ImagesOnly.free : ImagesOnly m { m with free := m.free + 1 } := rfl

theorem ImagesOnly.copySave (off key n : Nat) (out : Bool) : ImagesOnly m (m.copySave p slot off key n out) := by
  unfold Mach.copySave
  refine ImagesOnly.foldl (fun a i => ?_) _ m
  dsimp only
  split <;> rfl

theorem ImagesOnly.writeSave (off : Nat) (bs : List Byte) : ImagesOnly m (m.writeSave p slot off bs) := by
  unfold Mach.writeSave
  exact ImagesOnly.foldl (fun a c => ImagesOnly.wr a _ _) _ m

theorem ImagesOnly.saveCoreImage (off core : Nat) : ImagesOnly m (m.saveCoreImage p slot off core) := by
  unfold Mach.saveCoreImage
  exact ImagesOnly.trans (ImagesOnly.trans (ImagesOnly.trans (ImagesOnly.trans (ImagesOnly.trans (ImagesOnly.copySave ..) (ImagesOnly.copySave ..))
    (ImagesOnly.writeSave ..)) (ImagesOnly.free _)) (ImagesOnly.writeSave ..)) (ImagesOnly.writeSave ..)

theorem ImagesOnly.saveRank (rank g : Nat) : ImagesOnly m (m.saveRank p slot rank g) := by
  unfold Mach.saveRank
  exact ImagesOnly.trans (ImagesOnly.trans (ImagesOnly.trans (ImagesOnly.trans (ImagesOnly.trans (ImagesOnly.trans (ImagesOnly.trans
    (ImagesOnly.foldl (fun a c => ImagesOnly.saveCoreImage a p slot _ _) _ m) (ImagesOnly.copySave ..)) (ImagesOnly.writeSave ..))
    (ImagesOnly.free _)) (ImagesOnly.wr ..)) (ImagesOnly.free _)) (ImagesOnly.writeSave ..)) (ImagesOnly.refl _)

/-- The module with the image of a job in its slot (R404). -/
def Mach.imageSaved (j : Job) (k : Pricking) : Mach :=
  let t := ({ m.touchSaves p with free := m.free + 1 }).writeSave p slot 0 (m.saveHeader p j k)
  ((t.clusters p).zipIdx).foldl (fun (a : Mach) g => a.saveRank p slot g.2 g.1) t

theorem ImagesOnly.imageSaved (j : Job) (k : Pricking) : ImagesOnly (m.touchSaves p) (m.imageSaved p slot j k) := by
  have hcounted : ImagesOnly (m.touchSaves p) { m.touchSaves p with free := m.free + 1 } := rfl
  exact ImagesOnly.trans (ImagesOnly.trans hcounted (ImagesOnly.writeSave _ p slot 0 (m.saveHeader p j k)))
    (ImagesOnly.foldl (fun a _ => ImagesOnly.saveRank a p slot _ _) _ _)

end

/-! ## Cores and jobs whose save is complete -/

/-- A core with a fresh host context and an idle array, whose beats stay (R405). -/
def Core.freed (x : Core) : Core := { x with
  host := Ctx.init
  fwUsed := []
  arr := { Arr.init with beats := x.arr.beats, ramp := x.arr.ramp, gap := x.arr.gap, ddr := x.arr.ddr, ctl := x.arr.ctl } }

/-- The cores of a partition are free for the next job (R405). -/
def Mach.coresFreed (m : Mach) (p : Nat) : Mach := (m.coresOf p).foldl (fun (a : Mach) c => a.setCore c (a.core c).freed) m

theorem Mach.coresFreed_only (m : Mach) (p : Nat) : m.coresFreed p = { m with
    cores := (m.coresFreed p).cores
    acts := (m.coresFreed p).acts } := by
  unfold Mach.coresFreed
  refine List.foldlRecOn (motive := fun a : Mach => a = { m with cores := a.cores, acts := a.acts }) _ _ rfl fun a ha c _ => ?_
  rw [ha]
  rfl

theorem Mach.core_coresFreed {m : Mach} {p c : Nat} (h : c ∈ m.coresOf p) : (m.coresFreed p).core c = (m.core c).freed := by
  obtain ⟨-, -, hthis⟩ := Mach.foldl_cores (m := m) (P := fun _ => True) (key := fun c => c) (f := fun a c => a.setCore c (a.core c).freed)
    (m.coresOf p) (by rw [List.map_id']; exact m.nodup_coresOf p) trivial
    fun x _ a _ _ => ⟨trivial, fun c hc => (Mach.core_setCore ..).trans (if_neg (Ne.symm hc))⟩
  obtain ⟨a, -, hcore, hend⟩ := hthis c h
  rw [← hcore]
  exact hend.trans (Mach.core_setCore_same ..)

/-- A partition whose job has been saved keeps its slot, with its windows, buffers and cache engines as a new job finds them (R405). -/
def Part.saved (slot : Nat) (keep : SaveSlot) (q : Part) : Part := { q with
  saves := q.saves.put slot keep, rbufs := [], radds := [], closed := 0, sweep := false,
  caches := q.caches.map (fun e => (e.1, { e.2 with round := 0, entry := none, count := 0, stall := none, retry := false })),
  wins := q.wins.map (fun e => (e.1, { e.2 with bufs := e.2.bufs.map (fun _ => ⟨.free, [], []⟩), made := 0, posts := [] })) }

/-- The job is shown saved, last in the order of saves. -/
def Mach.jobSaved (m : Mach) (j : Job) (slot : Nat) : Mach :=
  m.modJob j (fun x => { x with st := .saved slot m.saveSeq, saves := x.saves + 1 })

/-- The job has left its partition for a slot. -/
def Mach.slotTaken (m : Mach) (p slot : Nat) (j : Job) (keep : SaveSlot) : Mach :=
  ((m.jobSaved j slot).modPart p (Part.saved slot keep)).jobLeft p

/-- The module with a save complete, its cores and engines free for the next job. -/
def Mach.saveDone (m : Mach) (p slot : Nat) (j : Job) (k : Pricking) : Mach :=
  (((m.imageSaved p slot j k).coresFreed p).slotTaken p slot j (m.saveSlot p)).addObj (pix p) 0x19 1

section
variable {m : Mach} {p slot : Nat} {j : Job} {k : Pricking}

theorem doSaveComplete_eq (hv : m.victim p = some j) (hs : m.freeSlot p = some slot) (hk : (m.part p).resident = some k)
    (hsw : m.switching p = true) (hready : m.saveReady p = true) : doSaveComplete m p =
      if (m.saveDone p slot j k).objBit (pix p) 2 0 then (m.saveDone p slot j k).dissolve p else m.saveDone p slot j k := by
  have hgo : ¬ (!m.switching p || !m.saveReady p) = true := by rw [hsw, hready]; decide
  simp only [doSaveComplete, hv, hs, hk]
  rw [if_neg hgo]
  rfl

theorem Mach.jobs_jobSaved (m : Mach) (j : Job) (slot : Nat) :
    ∀ b ∈ (m.jobSaved j slot).jobs, b.same j = true → b.st = .saved slot m.saveSeq := by
  intro b hb hsame
  rw [Mach.jobSaved, Mach.modJob_jobs, List.mem_map] at hb
  obtain ⟨a, -, rfl⟩ := hb
  by_cases ha : a.same j = true
  · rw [if_pos ha]
  · rw [if_neg ha] at hsame; exact absurd hsame ha

/-- The slot holds what the save keeps. -/
theorem Mach.saves_slotTaken (m : Mach) (p slot : Nat) (j : Job) (keep : SaveSlot) : ((m.slotTaken p slot j keep).part p).saves.get? slot = some keep := by
  rw [Mach.slotTaken, Mach.jobLeft, Mach.modPart, Mach.part_setPart_same, Mach.modPart, Mach.part_setPart_same]
  exact AMap.get?_put_same ..

/-- An object as a count is moved on. -/
theorem Mach.obj_addObj (m : Mach) (i a n j b : Nat) :
    (m.addObj i a n).obj j b = if okey i a = okey j b then min (m.obj i a + n) (2 ^ 64 - 1) else m.obj j b := Mach.obj_setObj ..

/-- The partition's objects stay as its job's image is stored. -/
theorem Mach.obj_imageSaved (m : Mach) (p slot : Nat) (j : Job) (k : Pricking) {n : Nat} (h : okey (pix p) n ∉ stackKeys (m.saveStacks p)) :
    (m.imageSaved p slot j k).obj (pix p) n = m.obj (pix p) n := by
  have hobjs : (m.imageSaved p slot j k).objs = (m.touchSaves p).objs := by rw [ImagesOnly.imageSaved]
  exact (Mach.obj_eq_of_objs hobjs _ _).trans (SameObjs.touchSaves m p _ _ h)

/-- What a complete save leaves: the job in its slot, fresh cores, and the save counted (R404, R405). -/
theorem Mach.saveDone_effect (m : Mach) (p slot : Nat) (j : Job) (k : Pricking) :
    let m' := m.saveDone p slot j k
    (∃ o, ∀ b ∈ m'.jobs, b.same j = true → b.st = .saved slot o) ∧ (∀ c ∈ m.coresOf p, m'.core c = (m.core c).freed) ∧
      (m'.part p).saves.get? slot = some (m.saveSlot p) ∧ m'.obj (pix p) 0x19 = min (m.obj (pix p) 0x19 + 1) (2 ^ 64 - 1) ∧
      (p < 64 → m'.obj (pix p) 2 = m.obj (pix p) 2) := by
  have hobj := fun n => m.obj_imageSaved p slot j k (n := n)
  have hcores : (m.imageSaved p slot j k).cores = m.cores := by
    rw [ImagesOnly.imageSaved]; change (m.touchSaves p).cores = _; rw [Mach.touchSaves_only]
  unfold Mach.saveDone
  generalize m.imageSaved p slot j k = saved at hobj hcores
  have hcoresOf : saved.coresOf p = m.coresOf p := by
    have hclusters : saved.clusters p = m.clusters p := congrArg (bitsOf 128) (hobj 3 (not_mem_stackKeys_of_sub _ (by decide)))
    simp only [Mach.coresOf, hclusters]
  have hfreed := fun c => Mach.core_coresFreed (m := saved) (p := p) (c := c)
  have hfobjs : (saved.coresFreed p).objs = saved.objs := by rw [Mach.coresFreed_only]
  generalize saved.coresFreed p = freed at hfreed hfobjs
  have hsaves := freed.saves_slotTaken p slot j (m.saveSlot p)
  have htobjs : (freed.slotTaken p slot j (m.saveSlot p)).objs = saved.objs := hfobjs
  have htcores : (freed.slotTaken p slot j (m.saveSlot p)).cores = freed.cores := rfl
  have htjobs : (freed.slotTaken p slot j (m.saveSlot p)).jobs = (freed.jobSaved j slot).jobs := rfl
  generalize freed.slotTaken p slot j (m.saveSlot p) = taken at hsaves htobjs htcores htjobs
  have htobj : ∀ n, taken.obj (pix p) n = saved.obj (pix p) n := fun n => Mach.obj_eq_of_objs htobjs _ _
  refine ⟨⟨freed.saveSeq, ?_⟩, fun c hc => ?_, hsaves, ?_, fun hp => ?_⟩
  · rw [show (taken.addObj (pix p) 0x19 1).jobs = taken.jobs from rfl, htjobs]
    exact freed.jobs_jobSaved j slot
  · have hcore : (taken.addObj (pix p) 0x19 1).core c = freed.core c := congrArg (fun cs : AMap Core => cs.get (Core.init (c % 16)) c) htcores
    rw [hcore, hfreed c (hcoresOf.symm ▸ hc)]
    simp only [Mach.core, hcores]
  · rw [Mach.obj_addObj, if_pos rfl, htobj, hobj 0x19 (not_mem_stackKeys_of_sub _ (by decide))]
  · rw [Mach.obj_addObj, if_neg (by simp only [okey]; omega), htobj, hobj 2 (not_mem_stackKeys_pix _ hp)]

end

end Sys2Proof.Machine
end

section
/-! SUPPORT. Proofs: how a saved job is restored (R146, R307, R404, R406). -/

namespace Sys2Proof.Machine

/-! ## An image read back -/

/-- The host context of a saved core as its job goes on `d` rc after the save began: with its stream to be fetched, its response timers moved on. -/
def SavedCore.resumed (c : SavedCore) (d : Nat) : Ctx := { c.ctx with
  fetch := true
  dma := c.ctx.dma.map (fun e => e.resume d) }

/-- What reading an image back may change: memory, cores and markers. -/
def LoadsOnly (m m' : Mach) : Prop := m' = { m with
  mem := m'.mem
  bad := m'.bad
  cores := m'.cores
  acts := m'.acts
  markers := m'.markers }

theorem LoadsOnly.refl (m : Mach) : LoadsOnly m m := rfl

theorem LoadsOnly.trans {a b c : Mach} (h : LoadsOnly a b) (h' : LoadsOnly b c) : LoadsOnly a c := by
  unfold LoadsOnly at h h' ⊢
  rw [h] at h'
  exact h'

theorem LoadsOnly.foldl {α : Type} {f : Mach → α → Mach} (hf : ∀ a x, LoadsOnly a (f a x)) (xs : List α) (m : Mach) : LoadsOnly m (xs.foldl f m) :=
  List.foldlRecOn (motive := fun a : Mach => LoadsOnly m a) xs f (LoadsOnly.refl m) fun a ha x _ => LoadsOnly.trans ha (hf a x)

theorem Mach.copySave_only (m : Mach) (p slot off key n : Nat) (out : Bool) : m.copySave p slot off key n out = { m with
    mem := (m.copySave p slot off key n out).mem
    bad := (m.copySave p slot off key n out).bad } := by
  unfold Mach.copySave
  refine List.foldlRecOn (motive := fun a : Mach => a = { m with mem := a.mem, bad := a.bad }) _ _ rfl fun a ha i _ => ?_
  rw [ha]
  dsimp only
  split <;> rfl

@[simp] theorem Mach.copySave_cores (m : Mach) (p slot off key n : Nat) (out : Bool) : (m.copySave p slot off key n out).cores = m.cores := by
  rw [Mach.copySave_only]

theorem LoadsOnly.copySave (m : Mach) (p slot off key n : Nat) (out : Bool) : LoadsOnly m (m.copySave p slot off key n out) := by
  unfold LoadsOnly
  rw [Mach.copySave_only]

section
variable (m : Mach) (p slot off d : Nat) (s : SavedCore)

theorem LoadsOnly.loadCoreImage : LoadsOnly m (m.loadCoreImage p slot off d s) := by
  unfold Mach.loadCoreImage
  exact LoadsOnly.trans (LoadsOnly.trans (LoadsOnly.copySave ..) (LoadsOnly.copySave ..)) rfl

/-- Reading a core's image back gives it its host context, and changes no other core. -/
theorem Mach.core_loadCoreImage : (∀ c, c ≠ s.core → (m.loadCoreImage p slot off d s).core c = m.core c) ∧
    ((m.loadCoreImage p slot off d s).core s.core).host = s.resumed d := by
  unfold Mach.loadCoreImage
  refine ⟨fun c hc => ?_, ?_⟩
  · refine (Mach.core_setCore ..).trans ((if_neg (Ne.symm hc)).trans ?_)
    simp only [Mach.core, Mach.copySave_cores]
  · exact congrArg Core.host (Mach.core_setCore_same ..)

end

section
variable (m : Mach) (p slot rank g d : Nat) {cs : List SavedCore}

theorem LoadsOnly.loadRank (cs : List SavedCore) : LoadsOnly m (m.loadRank p slot rank g d cs) := by
  unfold Mach.loadRank
  exact LoadsOnly.trans (LoadsOnly.trans (LoadsOnly.foldl (fun a s => LoadsOnly.loadCoreImage a p slot _ d s) _ m) (LoadsOnly.copySave ..)) rfl

/-- One core of a rank whose image begins at `off` is read back. -/
def Mach.coreBack (p slot off d : Nat) (a : Mach) (s : SavedCore) : Mach := a.loadCoreImage p slot (off + s.core % 16 * a.saveCore p) d s

theorem Mach.core_coreBack (p slot off d : Nat) (a : Mach) (s : SavedCore) : (∀ c, c ≠ s.core → (Mach.coreBack p slot off d a s).core c = a.core c) ∧
    ((Mach.coreBack p slot off d a s).core s.core).host = s.resumed d := Mach.core_loadCoreImage ..

/-- The cores of a rank whose image begins at `off` are read back. -/
def Mach.rankCores (m : Mach) (p slot off g d : Nat) (cs : List SavedCore) : Mach :=
  (cs.filter (fun s => s.core / 16 = g)).foldl (Mach.coreBack p slot off d) m

theorem Mach.core_loadRank_eq (cs : List SavedCore) (c : Nat) :
    (m.loadRank p slot rank g d cs).core c = (m.rankCores p slot (65536 + rank * m.saveClus p) g d cs).core c := by
  have hcores : (m.loadRank p slot rank g d cs).cores = (m.rankCores p slot (65536 + rank * m.saveClus p) g d cs).cores := by
    unfold Mach.loadRank Mach.rankCores
    simp only [Mach.copySave_cores]
    rfl
  simp only [Mach.core, hcores]

theorem Mach.core_rankCores (off : Nat) (hnd : (cs.map (fun c => c.core)).Nodup) {c : SavedCore} (hc : c ∈ cs) :
    (c.core / 16 ≠ g → (m.rankCores p slot off g d cs).core c.core = m.core c.core) ∧
      (c.core / 16 = g → ((m.rankCores p slot off g d cs).core c.core).host = c.resumed d) := by
  have hsub : ((cs.filter (fun s => s.core / 16 = g)).map (fun c => c.core)).Nodup := hnd.sublist (List.filter_sublist.map _)
  obtain ⟨-, hother, hthis⟩ := Mach.foldl_cores (m := m) (P := fun _ => True) (key := fun c : SavedCore => c.core)
    (f := Mach.coreBack p slot off d) (cs.filter (fun s => s.core / 16 = g)) hsub trivial
    fun x _ a _ _ => ⟨trivial, (Mach.core_coreBack p slot off d a x).1⟩
  unfold Mach.rankCores
  refine ⟨fun hg => hother _ fun hmem => ?_, fun hg => ?_⟩
  · obtain ⟨x, hx, hxc⟩ := List.mem_map.mp hmem
    have hxg : x.core / 16 = g := by simpa using (List.mem_filter.mp hx).2
    exact hg (hxc ▸ hxg)
  · obtain ⟨a, -, -, hend⟩ := hthis c (List.mem_filter.mpr ⟨hc, by simpa using hg⟩)
    rw [hend]
    exact (Mach.core_coreBack p slot off d a c).2

/-- A saved core of the cluster takes its context up; one of another cluster stays as it is. -/
theorem Mach.core_loadRank (hnd : (cs.map (fun c => c.core)).Nodup) {c : SavedCore} (hc : c ∈ cs) :
    (c.core / 16 ≠ g → (m.loadRank p slot rank g d cs).core c.core = m.core c.core) ∧
      (c.core / 16 = g → ((m.loadRank p slot rank g d cs).core c.core).host = c.resumed d) := by
  rw [Mach.core_loadRank_eq]
  exact Mach.core_rankCores m p slot g d _ hnd hc

end

/-- The ranks of a partition are read back. -/
def Mach.ranksLoaded (m : Mach) (p slot d : Nat) (cs : List SavedCore) (gs : List (Nat × Nat)) : Mach :=
  gs.foldl (fun (a : Mach) g => a.loadRank p slot g.2 g.1 d cs) m

theorem LoadsOnly.ranksLoaded (m : Mach) (p slot d : Nat) (cs : List SavedCore) (gs : List (Nat × Nat)) :
    LoadsOnly m (m.ranksLoaded p slot d cs gs) := by
  unfold Mach.ranksLoaded
  refine LoadsOnly.foldl (fun a g => ?_) gs m
  exact LoadsOnly.loadRank a p slot g.2 g.1 d cs

theorem Mach.ranksLoaded_cons (m : Mach) (p slot d : Nat) (cs : List SavedCore) (x : Nat × Nat) (gs : List (Nat × Nat)) :
    m.ranksLoaded p slot d cs (x :: gs) = (m.loadRank p slot x.2 x.1 d cs).ranksLoaded p slot d cs gs := List.foldl_cons ..

/-- Every saved core of the ranks takes its context up. -/
theorem Mach.core_ranksLoaded {cs : List SavedCore} (hnd : (cs.map (fun c => c.core)).Nodup) {c : SavedCore} (hc : c ∈ cs) (p slot d : Nat)
    (gs : List (Nat × Nat)) (m : Mach) :
    (c.core / 16 ∉ gs.map Prod.fst → (m.ranksLoaded p slot d cs gs).core c.core = m.core c.core) ∧
      (c.core / 16 ∈ gs.map Prod.fst → ((m.ranksLoaded p slot d cs gs).core c.core).host = c.resumed d) := by
  induction gs generalizing m with
  | nil => exact ⟨fun _ => rfl, fun h => absurd h (by simp)⟩
  | cons x t ih =>
    obtain ⟨hkeeps, htakes⟩ := Mach.core_loadRank m p slot x.2 x.1 d hnd hc
    obtain ⟨hother, hthis⟩ := ih (m.loadRank p slot x.2 x.1 d cs)
    rw [Mach.ranksLoaded_cons, List.map_cons, List.mem_cons]
    generalize m.loadRank p slot x.2 x.1 d cs = a at hkeeps htakes hother hthis
    refine ⟨fun hno => ?_, fun hin => ?_⟩
    · rw [not_or] at hno
      rw [hother hno.2, hkeeps hno.1]
    · by_cases ht : c.core / 16 ∈ t.map Prod.fst
      · exact hthis ht
      · rw [hother ht]
        exact htakes (hin.resolve_right ht)

end Sys2Proof.Machine
end

section
/-! SUPPORT. Proofs: RESTORE, and the statement about saves as a whole (R146, R307, R402, R404, R406, Table 9-8). -/

namespace Sys2Proof.Machine

/-! ## What was held for a job goes on (R146) -/

theorem SameObjs.moveMarker (m : Mach) (p : Nat) (xs : List MkMsg) (k : Nat) :
    SameObjs [okey (0x6200 + p) 2, okey (0x6200 + p) 3] m (m.moveMarker p xs k) := by
  unfold Mach.moveMarker Mach.saturate
  dsimp only
  split
  · split
    · exact SameObjs.of_objs _ rfl
    · exact SameObjs.trans (SameObjs.setBit { m with markers := m.markers.put k (min (counterAfter (m.markers.get 0 k) k xs) 0xFFFFFFFF) } _ _ _ _
        (by simp)) (SameObjs.setObj _ _ _ _ (by simp))
  · exact SameObjs.of_objs _ rfl

theorem SameObjs.applyIc (m : Mach) (p g : Nat) (xs : List MkMsg) :
    SameObjs [okey (0x6200 + p) 2, okey (0x6200 + p) 3] m (m.applyIc p g xs) := by
  rw [Mach.applyIc_eq]
  exact List.foldlRecOn (motive := fun a : Mach => SameObjs _ m a) _ _ (SameObjs.refl m _) fun a ha k _ =>
    SameObjs.trans ha (SameObjs.moveMarker a p xs k)

/-- What the messages held for a job may change as they go on: markers, their saturation, and what waits for delivery. -/
structure DeliversOnly (p : Nat) (m m' : Mach) : Prop where
  fields : m' = { m with
    markers := m'.markers
    objs := m'.objs
    localMsgs := m'.localMsgs
    parts := m'.parts }
  objs : SameObjs [okey (0x6200 + p) 2, okey (0x6200 + p) 3] m m'
  part : ∃ held heldMsgs, m'.part p = { m.part p with
    held := held
    heldMsgs := heldMsgs }

/-- The signals held for a job reach every block of its partition. -/
def Mach.signalsDelivered (m : Mach) (p : Nat) (xs : List MkMsg) : Mach := (m.clusters p).foldl (fun (a : Mach) g => a.applyIc p g xs) m

theorem Mach.signalsDelivered_only (m : Mach) (p : Nat) (xs : List MkMsg) : m.signalsDelivered p xs = { m with
      markers := (m.signalsDelivered p xs).markers
      objs := (m.signalsDelivered p xs).objs } ∧ SameObjs [okey (0x6200 + p) 2, okey (0x6200 + p) 3] m (m.signalsDelivered p xs) := by
  unfold Mach.signalsDelivered
  refine List.foldlRecOn (motive := fun a : Mach => a = { m with markers := a.markers, objs := a.objs } ∧ SameObjs _ m a) _ _
    ⟨rfl, SameObjs.refl m _⟩ fun a ha g _ => ⟨?_, SameObjs.trans ha.2 (SameObjs.applyIc a p g xs)⟩
  rw [Mach.applyIc_only, ha.1]

theorem DeliversOnly.deliverHeld (m : Mach) (p : Nat) (j : Job) : DeliversOnly p m (m.deliverHeld p j) := by
  unfold Mach.deliverHeld
  extract_lets sig msgs xs delivered
  obtain ⟨honly, hobjs⟩ := m.signalsDelivered_only p xs
  have hdelivered : delivered = m.signalsDelivered p xs := rfl
  rw [← hdelivered] at honly hobjs
  clear_value delivered
  have hpart : delivered.part p = m.part p := by rw [honly]; rfl
  refine ⟨?_, hobjs, ?_⟩
  · rw [honly]; rfl
  · exact ⟨_, _, (Mach.part_setPart_same ..).trans (by rw [show ({ delivered with localMsgs := delivered.localMsgs ++ msgs } : Mach).part p =
      m.part p from hpart])⟩

/-! ## The module as a restore begins -/

section
variable (m : Mach) (p : Nat)

/-- The partition's objects stay as requests reach its save stacks, but those of their states. -/
theorem Mach.obj_touchSaves (idx : Nat) {sub : Nat} (h : sub % 256 ≠ 2) : (m.touchSaves p).obj idx sub = m.obj idx sub :=
  SameObjs.touchSaves m p _ _ (not_mem_stackKeys_of_sub _ h)

theorem Mach.clusters_touchSaves : (m.touchSaves p).clusters p = m.clusters p := congrArg (bitsOf 128) (m.obj_touchSaves p _ (by decide))

/-- Requests make no half of an image uncorrectable, and none good. -/
theorem Mach.slotLost_touchSaves (slot : Nat) : (m.touchSaves p).slotLost p slot = m.slotLost p slot := by
  have hbad : (m.touchSaves p).bad = m.bad := by rw [Mach.touchSaves_only]
  have hstacks : (m.touchSaves p).saveStacks p = m.saveStacks p := congrArg (bitsOf 48) (m.obj_touchSaves p _ (by decide))
  have hslots : (m.touchSaves p).saveSlots p = m.saveSlots p := m.obj_touchSaves p _ (by decide)
  have hgl : (m.touchSaves p).gl p = m.gl p := m.obj_touchSaves p _ (by decide)
  have hgc : (m.touchSaves p).gc p = m.gc p := m.obj_touchSaves p _ (by decide)
  have himg : (m.touchSaves p).saveImg p = m.saveImg p := by
    simp only [Mach.saveImg, Mach.saveClus, Mach.saveCore, m.clusters_touchSaves p, hgl, hgc]
  have harea : (m.touchSaves p).saveArea p = m.saveArea p := by simp only [Mach.saveArea, hslots, himg, hstacks]
  simp only [Mach.slotLost, hbad, hstacks, harea, himg]

end

/-! ## The ends of a restore -/

/-- A job chosen for its partition is a job of it. -/
theorem Mach.part_of_chosen {m : Mach} {p : Nat} {kinds : Nat → Bool} {j : Job} (h : m.chosen p kinds = some j) : j.part = p := by
  have hmem : ∀ {xs : List Job} {f : Job → Job → Bool} {a : Option Job}, (∀ i, a = some i → i.part = p) → (∀ x ∈ xs, x.part = p) →
      ∀ i, xs.foldl (fun (a : Option Job) x => match a with
        | none => some x
        | some b => if f x b then some x else some b) a = some i → i.part = p := by
    intro xs f
    induction xs with
    | nil => exact fun ha _ => ha
    | cons x t ih =>
      intro a ha hxs
      refine ih (fun i hi => ?_) (fun y hy => hxs y (List.mem_cons_of_mem x hy))
      cases a with
      | none => cases hi; exact hxs x (by simp)
      | some b =>
        dsimp only at hi
        split at hi
        · cases hi; exact hxs x (by simp)
        · exact ha i hi
  refine hmem (by simp) (fun x hx => ?_) j h
  have hfilter := (List.mem_filter.mp hx).2
  simp only [Bool.and_eq_true, decide_eq_true_eq] at hfilter
  exact hfilter.1.1

theorem Mach.part_of_nextRes {m : Mach} {p : Nat} {j : Job} (h : m.nextRes p = some j) : j.part = p := by
  unfold Mach.nextRes at h
  split at h
  · exact Mach.part_of_chosen h
  · cases h

/-- What a save that is discarded leaves: its slot is free (R402). -/
theorem Mach.saves_dropSave {m : Mach} {j : Job} {slot o : Nat} (h : j.st = .saved slot o) :
    ((m.dropSave j).part j.part).saves.get? slot = none := by
  simp only [Mach.dropSave, h, Mach.modPart, Mach.part_setPart_same]
  exact AMap.get?_del_same ..

/-- The saves of a partition stay as a job of it ends. -/
theorem Mach.saves_endRun (m : Mach) (j : Job) (st d : Nat) : ((m.endRun j st d).part j.part).saves = (m.part j.part).saves := by
  have hparts : (m.unpinJob j).parts = m.parts := by rw [PinsOnly.unpinJob]
  rw [Mach.endRun, Mach.part_endJob]
  simp only [Mach.part, hparts]

theorem Mach.hwWait_endRun (m : Mach) (j : Job) (st d : Nat) : (m.endRun j st d).hwWait = m.hwWait := by rw [EndsOnly.endRun]

section
variable {m : Mach} {p slot o : Nat} {j : Job} {v : SaveSlot}

/-- A partition takes its saved job's windows, buffers and cache engines up (R404, R103, R252). -/
def Mach.partResumed (m : Mach) (p slot d : Nat) (v : SaveSlot) : Mach := m.modPart p (fun q => { q with
  saves := q.saves.del slot, wins := v.wins.map (fun e => (e.1, e.2.resume d)), rbufs := v.rbufs, closed := v.closed, sweep := v.sweep,
  radds := v.radds, caches := v.caches.map (fun e => (e.1, e.2.counted ((m.part p).caches.get? e.1))) })

/-- The saved job runs again. -/
def Mach.jobResumed (m : Mach) (p : Nat) (j : Job) : Mach :=
  ((m.eachRecipe p recipeValues).modJob j (fun x => { x with st := .running })).setBit (pix p) 2 6 false

/-- An image that can be read, with no round open, is read back, and the job goes on. -/
theorem doRestore_good (hnext : m.nextRes p = some j) (hst : j.st = .saved slot o) (hv : (m.part p).saves.get? slot = some v)
    (hround : m.objBit (0x6480 + p) 0xF 8 = false) (hgood : m.slotLost p slot = none) : doRestore m p =
      ((((m.touchSaves p).ranksLoaded p slot ((m.touchSaves p).rc - v.at') v.cores (((m.touchSaves p).clusters p).zipIdx)).partResumed p slot
        ((m.touchSaves p).rc - v.at') v).jobResumed p j).deliverHeld p j := by
  have hround' : (m.touchSaves p).objBit (0x6480 + p) 0xF 8 = false :=
    (congrArg (fun w => bit w 8) (m.obj_touchSaves p _ (by decide))).trans hround
  have hgood' : ((m.touchSaves p).slotLost p slot).isSome = false := by rw [Mach.slotLost_touchSaves, hgood]; rfl
  simp only [doRestore, hnext, hst, hv, hround', hgood', Bool.false_eq_true, if_false]
  rfl

/-- An image that cannot be read ends the job FAULT 11h (R406). -/
theorem doRestore_lost (hnext : m.nextRes p = some j) (hst : j.st = .saved slot o) (hv : (m.part p).saves.get? slot = some v)
    (hround : m.objBit (0x6480 + p) 0xF 8 = false) (hlost : m.slotLost p slot ≠ none) : doRestore m p =
      (((((m.touchSaves p).dropSave j).lostImage 0x11 p (m.slotLost p slot)).endRun j 1 0x11).setBit (pix p) 2 6 false) := by
  have hround' : (m.touchSaves p).objBit (0x6480 + p) 0xF 8 = false :=
    (congrArg (fun w => bit w 8) (m.obj_touchSaves p _ (by decide))).trans hround
  have hlost' : (m.slotLost p slot).isSome = true := by rwa [Option.isSome_iff_ne_none]
  simp only [doRestore, hnext, hst, hv, hround', Mach.slotLost_touchSaves, hlost', Bool.false_eq_true, if_false, if_true]
  rfl

/-- A round left open ends it FAULT FEh (Table 9-8). -/
theorem doRestore_open (hnext : m.nextRes p = some j) (hst : j.st = .saved slot o) (hv : (m.part p).saves.get? slot = some v)
    (hround : m.objBit (0x6480 + p) 0xF 8 = true) : doRestore m p =
      ((((m.touchSaves p).dropSave j).endRun j 1 0xFE).setBit (pix p) 2 6 false) := by
  have hround' : (m.touchSaves p).objBit (0x6480 + p) 0xF 8 = true :=
    (congrArg (fun w => bit w 8) (m.obj_touchSaves p _ (by decide))).trans hround
  simp only [doRestore, hnext, hst, hv, hround', if_true]

end

/-- What taking the partition and the job up again leaves: the job runs, and the partition has what the slot kept. -/
theorem Mach.resumed_effect (m : Mach) (p slot d : Nat) (v : SaveSlot) (j : Job) :
    let m' := (m.partResumed p slot d v).jobResumed p j
    m'.cores = m.cores ∧ (∀ b ∈ m'.jobs, b.same j = true → b.st = .running) ∧ (m'.part p).saves.get? slot = none ∧ (m'.part p).rbufs = v.rbufs ∧
      (m'.part p).closed = v.closed ∧ m'.switching p = false := by
  have hcores : (m.partResumed p slot d v).cores = m.cores := rfl
  have hpart : ((m.partResumed p slot d v).part p).saves.get? slot = none ∧ ((m.partResumed p slot d v).part p).rbufs = v.rbufs ∧
      ((m.partResumed p slot d v).part p).closed = v.closed := by
    unfold Mach.partResumed Mach.modPart
    rw [Mach.part_setPart_same]
    exact ⟨AMap.get?_del_same .., rfl, rfl⟩
  generalize m.partResumed p slot d v = taken at hcores hpart
  have hrecipes := taken.eachRecipe_only p recipeValues
  unfold Mach.jobResumed
  generalize taken.eachRecipe p recipeValues = ready at hrecipes
  have hready : ready.part p = taken.part p := by rw [hrecipes]; rfl
  have hparts : (((ready.modJob j (fun x => { x with st := .running })).setBit (pix p) 2 6 false)).part p = taken.part p := by
    rw [Mach.setBit, Mach.setField, Mach.part_setObj, Mach.part_modJob, hready]
  have hjobs : (((ready.modJob j (fun x => { x with st := .running })).setBit (pix p) 2 6 false)).jobs =
      (ready.modJob j (fun x => { x with st := .running })).jobs := Mach.setObj_jobs ..
  intro m'
  refine ⟨?_, fun b hb => ?_, ?_, ?_, ?_, Mach.objBit_setBit_same ..⟩
  · refine Eq.trans (Mach.setObj_cores ..) (Eq.trans (Mach.modJob_cores ..) ?_)
    rw [hrecipes, hcores]
  · exact ready.jobs_running j b (hjobs ▸ hb)
  · rw [hparts]; exact hpart.1
  · rw [hparts]; exact hpart.2.1
  · rw [hparts]; exact hpart.2.2

/-- What a restore leaves: the job runs with what its slot kept, its contexts as they were saved (R146, R307, R404). -/
theorem Mach.restored_effect (m : Mach) {p : Nat} (hp : p < 64) (slot : Nat) (v : SaveSlot) (j : Job) (gs : List (Nat × Nat)) (d : Nat) :
    let m' := (((m.ranksLoaded p slot d v.cores gs).partResumed p slot d v).jobResumed p j).deliverHeld p j
    (∀ b ∈ m'.jobs, b.same j = true → b.st = .running) ∧ (m'.part p).saves.get? slot = none ∧ (m'.part p).rbufs = v.rbufs ∧
      (m'.part p).closed = v.closed ∧ m'.switching p = false ∧
      ((v.cores.map (fun c => c.core)).Nodup → ∀ c ∈ v.cores, c.core / 16 ∈ gs.map Prod.fst → (m'.core c.core).host = c.resumed d) := by
  obtain ⟨hcores, hjobs, hsaves, hrbufs, hclosed, hsw⟩ := (m.ranksLoaded p slot d v.cores gs).resumed_effect p slot d v j
  have hloaded := fun (hnd : (v.cores.map (fun c => c.core)).Nodup) (c : SavedCore) (hc : c ∈ v.cores) =>
    (Mach.core_ranksLoaded hnd hc p slot d gs m).2
  generalize ((m.ranksLoaded p slot d v.cores gs).partResumed p slot d v).jobResumed p j = resumed at hcores hjobs hsaves hrbufs hclosed hsw
  obtain ⟨hfields, hobjs, held, heldMsgs, hpart⟩ := DeliversOnly.deliverHeld resumed p j
  generalize resumed.deliverHeld p j = m' at hfields hobjs hpart
  have hstatus : m'.obj (pix p) 2 = resumed.obj (pix p) 2 := by
    refine hobjs _ _ ?_
    simp only [List.mem_cons, List.not_mem_nil, or_false, not_or, okey, pix]
    omega
  refine ⟨fun b hb => hjobs b (by rw [hfields] at hb; exact hb), ?_, ?_, ?_, ?_, fun hnd c hc hg => ?_⟩
  · rw [hpart]; exact hsaves
  · rw [hpart]; exact hrbufs
  · rw [hpart]; exact hclosed
  · rw [← hsw]; exact congrArg (fun w => bit w 6) hstatus
  · have hcore : m'.core c.core = (m.ranksLoaded p slot d v.cores gs).core c.core := by
      have hm' : m'.cores = resumed.cores := by rw [hfields]
      simp only [Mach.core, hm', hcores]
    rw [hcore]
    exact hloaded hnd c hc hg

/-- What a restore that fails leaves: the job has ended with its detail, and its slot is free. -/
theorem Mach.givenUp_effect {m gone : Mach} {p slot o : Nat} {j : Job} (detail : Nat) (hpart : j.part = p) (hst : j.st = .saved slot o)
    (hgone : gone.parts = (m.dropSave j).parts) :
    let m' := (gone.endRun j 1 detail).setBit (pix p) 2 6 false
    (∀ b ∈ m'.jobs, b.same j = true → ∃ q, b.st = .done 1 detail q) ∧ (m'.part p).saves.get? slot = none ∧ m'.hwWait = gone.hwWait := by
  have hsaves : ((gone.endRun j 1 detail).part p).saves.get? slot = none := by
    rw [← hpart, Mach.saves_endRun]
    simp only [Mach.part, hgone]
    exact Mach.saves_dropSave hst
  have hjobs := (gone.unpinJob j).jobs_endJob j 1 detail
  have hwait := gone.hwWait_endRun j 1 detail
  change ∀ b ∈ (gone.endRun j 1 detail).jobs, _ at hjobs
  generalize gone.endRun j 1 detail = ended at hsaves hjobs hwait
  exact ⟨hjobs, hsaves, hwait⟩

/-! ## The statement as a whole -/

/-- Settles O26: PREEMPT asks or is refused; a save cuts the arrays, keeps the job in a slot and frees its cores; RESTORE brings it back or ends it. -/
theorem saves : Obligations.Saves := by
  refine ⟨fun s p hrun hp => ⟨fun hon hidle => ⟨fun hst hv hsw => ?_, fun hst => ?_, fun hst hv => ?_⟩, fun cuts j hv hsw hdue => ?_⟩,
    fun m core cut o rest hqueue hbusy hhost hend => Mach.cutArray_at_end hqueue hbusy hhost hend,
    fun s p slot hrun hp => ⟨fun j k hv hs hk hsw hready hidle => ?_, fun j o v hnext hst hv => ⟨fun hround hgood => ?_, fun hround hlost => ?_,
      fun hround => ?_⟩⟩⟩
  · have hg := gives_preempt hrun hp hon hidle
    rw [doPreempt_asks (m := s.mach.reply 0) hst hv hsw] at hg
    exact ⟨_, hg, (s.mach.reply 0).asked_shows p⟩
  · have hg := gives_preempt hrun hp hon hidle
    rw [doPreempt, if_pos (show (s.mach.reply 0).pstate p ≠ 2 from hst)] at hg
    exact ⟨_, hg, (s.mach.reply 0).refusePart_shows p (by decide)⟩
  · have hg := gives_preempt hrun hp hon hidle
    rw [doPreempt_refused (m := s.mach.reply 0) hst hv] at hg
    exact ⟨_, hg, (s.mach.reply 0).refusePart_shows p (by decide)⟩
  · intro inside hinside
    have hg := gives_step (.save p cuts) s (fun m => doSave m p cuts) rfl hrun
    obtain ⟨hswitching, hpart, hmem, hjobs, heach⟩ := doSave_effect hp hv hsw hdue hinside
    refine ⟨_, hg, hswitching, hpart, hmem, hjobs, fun c hc => ?_, fun i c o rest hi => (heach i c hi).2 o rest⟩
    obtain ⟨i, hi⟩ := List.mem_iff_getElem?.mp hc
    exact (heach i c hi).1
  · have hg := gives_step (.saveComplete p) s (fun m => doSaveComplete m p) rfl hrun
    obtain ⟨⟨o, hjobs⟩, hcores, hsaves, hcount, hstatus⟩ := s.mach.saveDone_effect p slot j k
    have hidle' : (s.mach.saveDone p slot j k).objBit (pix p) 2 0 = false := (congrArg (fun w => bit w 0) (hstatus hp)).trans hidle
    rw [doSaveComplete_eq hv hs hk hsw hready, if_neg (by rw [hidle']; decide)] at hg
    refine ⟨_, o, hg, hjobs, fun c hc => ?_, hsaves, hcount⟩
    rw [hcores c hc]
    exact ⟨rfl, rfl, rfl⟩
  · have hg := gives_step (.restore p) s (fun m => doRestore m p) rfl hrun
    rw [doRestore_good hnext hst hv hround hgood, show (s.mach.touchSaves p).rc = s.mach.rc by rw [Mach.touchSaves_only]] at hg
    obtain ⟨hjobs, hsaves, hrbufs, hclosed, hsw, hcores⟩ := (s.mach.touchSaves p).restored_effect hp slot v j
      (((s.mach.touchSaves p).clusters p).zipIdx) (s.mach.rc - v.at')
    refine ⟨_, hg, hjobs, hsaves, hrbufs, hclosed, hsw, fun hnd c hc hcluster => hcores hnd c hc ?_⟩
    rwa [List.zipIdx_map_fst, Mach.clusters_touchSaves]
  · have hg := gives_step (.restore p) s (fun m => doRestore m p) rfl hrun
    rw [doRestore_lost hnext hst hv hround hlost] at hg
    obtain ⟨hjobs, hsaves, hwait⟩ := Mach.givenUp_effect (m := s.mach.touchSaves p) 0x11 (Mach.part_of_nextRes hnext) hst
      (FillsOnly.lostImage ((s.mach.touchSaves p).dropSave j) 0x11 p (s.mach.slotLost p slot)).parts
    refine ⟨_, hg, ?_, hjobs, hsaves⟩
    rw [hwait]
    simp [Mach.lostImage]
  · have hg := gives_step (.restore p) s (fun m => doRestore m p) rfl hrun
    rw [doRestore_open hnext hst hv hround] at hg
    obtain ⟨hjobs, hsaves, -⟩ := Mach.givenUp_effect (m := s.mach.touchSaves p) (gone := (s.mach.touchSaves p).dropSave j) 0xFE
      (Mach.part_of_nextRes hnext) hst rfl
    exact ⟨_, hg, hjobs, hsaves⟩

end Sys2Proof.Machine
end

section
/-! SUPPORT. Proofs: special-function words (R131, R155). -/

namespace Sys2Proof.Machine

/-- A row of Table 4-15 runs the words of a range of FUNC that holds its own: the built-in rows one FUNC each, user functions U0 to U15. -/
theorem exec_sfnRow {f core : Nat} {c : Instr} (h : sfnRow f core = some c) :
    ∃ lo hi, (lo ≤ f ∧ f ≤ hi) ∧ ∀ s, exec c s = runSfn lo hi core s := by
  unfold sfnRow at h
  split at h
  case h_10 =>
    obtain ⟨huser, ⟨⟩⟩ := Option.ite_none_right_eq_some.mp h
    exact ⟨0x10, 0x1F, huser, fun _ => rfl⟩
  all_goals
    cases h
    exact ⟨_, _, ⟨le_rfl, le_rfl⟩, fun _ => rfl⟩

/-- A word of a row of Table 4-15 that issues has its effect. -/
theorem gives_sfn {s : State} {core : Nat} {x : Wx} {c : Instr} (h : Issues s core x checksSfn stallSfn) (ho : opcOf x.w = 0x20)
    (hc : sfnRow (x.f 119 115) core = some c) : Gives c s (doSfn s.mach x) := by
  obtain ⟨lo, hi, ⟨hlo, hhi⟩, hexec⟩ := exec_sfnRow hc
  have hs : selSfn lo hi s.mach x = true := by simp [selSfn, ho, hlo, hhi]
  rw [← issue_issues (act := doSfn) h hs]
  exact gives_step c s (fun m => issue m core (selSfn lo hi) checksSfn stallSfn doSfn) (hexec s) h.up

/-- The values of a special-function word are its function's, element by element (R155). -/
theorem sfnVals_fst (m : Mach) (x : Wx) :
    (sfnVals m x).1 = (m.vecVals (x.ref m (x.f 80 57)).key (x.f 114 110) (sfnN x.w)).map (sfnElem m x) := rfl

/-- Settles O13: the word of a row issues and stores its function's values, converted, with the flags of both. -/
theorem specialWords : Obligations.SpecialWords := by
  intro s core x c h ho hc a v st k
  refine ⟨sfnVals_fst s.mach x, fun hw => ?_⟩
  have hg := gives_sfn h ho hc
  obtain ⟨hstores, hcore, hfields, hobjs, hflags⟩ := vecStore_effect (fl := v.2) (cen := bit x.w 101) (tag := x.f 100 93)
    (st := st) rfl hw
  rw [h.core_eq] at hcore
  exact ⟨_, hg, hstores, hcore, hfields, hobjs, hflags⟩

end Sys2Proof.Machine
end

section
/-! SUPPORT. Proofs: LINEAR and COPY2D copies, from the word to the bytes that have moved (R213, R214). -/

namespace Sys2Proof.Machine

/-! ## The units of a copy -/

/-- Unit `u` of row `r` of a copy, as it is stored: its destination key and what its source holds (R213). -/
def copyUnit (m : Mach) (s sp d dp r u : Nat) : Nat × List Byte := (d + r * dp + 64 * u, m.rd (s + r * sp + 64 * u) 64)

@[simp] theorem length_copyUnit (m : Mach) (s sp d dp r u : Nat) : (copyUnit m s sp d dp r u).2.length = 64 := Mem.length_read ..

/-- A copy moves every unit of every row, whichever way it goes through them (Table 7-10). -/
theorem mem_copyUnits {s sp d dp rows rlen : Nat} {v : Nat × Nat} : v ∈ copyUnits s sp d dp rows rlen ↔
    ∃ r < rows, ∃ u < rlen / 64, v = (s + r * sp + 64 * u, d + r * dp + 64 * u) := by
  unfold copyUnits
  dsimp only
  split <;> simp only [List.mem_reverse, List.mem_flatMap, List.mem_map, List.mem_range, eq_comm]

/-- A copy stores its units and no more. -/
theorem mem_writes_copy {m : Mach} {s d sp dp rows units : Nat} {v : Nat × List Byte} :
    v ∈ ((DmaPlan.copy s d sp dp rows (64 * units)).moved m).writes ↔ ∃ r < rows, ∃ u < units, v = copyUnit m s sp d dp r u := by
  simp only [DmaPlan.moved, Moved.ofCopies, Moved.writes, List.mem_map, exists_exists_and_eq_and, mem_copyUnits,
    Nat.mul_div_cancel_left units (by decide : 0 < 64)]
  constructor
  · rintro ⟨_, ⟨r, hr, u, hu, rfl⟩, rfl⟩
    exact ⟨r, hr, u, hu, rfl⟩
  · rintro ⟨r, hr, u, hu, rfl⟩
    exact ⟨_, ⟨r, hr, u, hu, rfl⟩, rfl⟩

/-- Rows whose pitch is their length or more follow one another (Table 7-8). -/
theorem row_end_le {i j n pitch : Nat} (h : i < j) (hp : n ≤ pitch) : i * pitch + n ≤ j * pitch := by
  calc i * pitch + n ≤ (i + 1) * pitch := by rw [Nat.succ_mul]; omega
    _ ≤ j * pitch := Nat.mul_le_mul_right _ h

/-- The destination of a unit lies apart from those of all others. -/
theorem copyUnit_apart {m : Mach} {s d sp dp rows units r u : Nat} (hpitch : rows ≤ 1 ∨ 64 * units ≤ dp) (hr : r < rows) (hu : u < units) :
    ∀ v ∈ ((DmaPlan.copy s d sp dp rows (64 * units)).moved m).writes, v = copyUnit m s sp d dp r u ∨
      (copyUnit m s sp d dp r u).1 + (copyUnit m s sp d dp r u).2.length ≤ v.1 ∨
      v.1 + v.2.length ≤ (copyUnit m s sp d dp r u).1 := by
  intro v hv
  obtain ⟨i, hi, k, hk, rfl⟩ := mem_writes_copy.mp hv
  rw [length_copyUnit, length_copyUnit]
  obtain hlt | rfl | hgt := Nat.lt_trichotomy i r
  · have hend := row_end_le hlt (hpitch.resolve_left (by omega))
    simp only [copyUnit]
    omega
  · by_cases hku : k = u
    · exact .inl (by rw [hku])
    · simp only [copyUnit]
      omega
  · have hend := row_end_le hgt (hpitch.resolve_left (by omega))
    simp only [copyUnit]
    omega

/-! ## What the copied bytes read -/

/-- Ranges that read the same read the same byte by byte. -/
theorem Mach.rd_byte {m m' : Mach} (hm : Memory.wf m) (hm' : Memory.wf m') {a b n i : Nat} (h : m'.rd a n = m.rd b n) (hi : i < n) :
    m'.rd (a + i) 1 = m.rd (b + i) 1 := by
  simp only [Mach.rd, Mem.read_eq hm, Mem.read_eq hm'] at h
  have hbyte := congrArg (fun l : List Byte => l[i]?) h
  rw [Mach.rd1 hm, Mach.rd1 hm']
  simpa [hi] using hbyte

section
variable {m : Mach} (hm : Memory.wf m) {s d sp dp rows units : Nat}
include hm

/-- Every destination byte reads what its source byte held (R214). -/
theorem Mach.rd_copied (hpitch : rows ≤ 1 ∨ 64 * units ≤ dp) {r j : Nat} (hr : r < rows) (hj : j < 64 * units) :
    (m.wrAll ((DmaPlan.copy s d sp dp rows (64 * units)).moved m).writes).rd (d + r * dp + j) 1 = m.rd (s + r * sp + j) 1 := by
  have hu : j / 64 < units := by omega
  have hmem : copyUnit m s sp d dp r (j / 64) ∈ ((DmaPlan.copy s d sp dp rows (64 * units)).moved m).writes :=
    mem_writes_copy.mpr ⟨r, hr, j / 64, hu, rfl⟩
  have hunit := Mach.rd_wrAll_of_mem hm hmem (copyUnit_apart hpitch hr hu)
  rw [length_copyUnit] at hunit
  have hbyte := Mach.rd_byte hm (Memory.wf_wrAll hm _) hunit (Nat.mod_lt j (by decide))
  rwa [copyUnit, Nat.add_assoc (d + r * dp), Nat.add_assoc (s + r * sp), Nat.div_add_mod] at hbyte

/-- Every other byte reads as before. -/
theorem Mach.rd_not_copied {a : Nat} (ha : ∀ r j, r < rows → j < 64 * units → a ≠ d + r * dp + j) :
    (m.wrAll ((DmaPlan.copy s d sp dp rows (64 * units)).moved m).writes).rd a 1 = m.rd a 1 := by
  refine Mach.rd_wrAll_apart hm fun v hv => ?_
  obtain ⟨r, hr, u, hu, rfl⟩ := mem_writes_copy.mp hv
  have hout := ha r (64 * u + (a - (copyUnit m s sp d dp r u).1)) hr
  rw [length_copyUnit]
  simp only [copyUnit] at hout ⊢
  omega

end

/-! ## The word, and the copy that completes -/

/-- A CDMA word of STYPE 1 copies one row of LEN units, one of STYPE 2 ROWS rows of RLEN units (R213). -/
theorem cdmaPlan_copy {m : Mach} {x : Wx} {a b : BufAt} (ha : x.sbuf m = some a) (hb : x.dbuf m = some b) :
    let sh := m.shapeOf x
    let src := a.key + (cdmaS x).toNat * 64
    let dst := b.key + (cdmaD x).toNat * 64
    (leAt sh 0 1 = 1 → cdmaPlan m x = .copy src dst 0 0 1 (64 * leAt sh 4 4)) ∧
      (leAt sh 0 1 = 2 → cdmaPlan m x = .copy src dst (64 * leAt sh 12 4) (64 * leAt sh 16 4) (leAt sh 4 4) (64 * leAt sh 8 4)) := by
  refine ⟨fun h => ?_, fun h => ?_⟩ <;> simp [cdmaPlan, ha, hb, h]

/-- Settles O16: the plan of a LINEAR or COPY2D word is R213's, and the copy that completes has stored every unit of it, each in its place. -/
theorem copyRows : Obligations.CopyRows := by
  refine ⟨fun m x a b ha hb => cdmaPlan_copy ha hb, ?_⟩
  intro s core n p i guest e src dst sp dp rows units hrun hm hp hdma hplan hpitch hgood
  have hg := gives_step (.dmaComplete core n) s (fun m => doDmaComplete m core n) rfl hrun
  rw [doDmaComplete_eq hp hdma (by simp [hplan]) (by simp [hplan]) hgood] at hg
  obtain ⟨⟨hmem, -⟩, -⟩ := s.mach.completed_effect p core i guest e.plan (e.plan.moved s.mach) e.marker
  rw [show (e.plan.moved s.mach).writes = ((DmaPlan.copy src dst sp dp rows (64 * units)).moved s.mach).writes by rw [hplan]] at hmem
  refine ⟨_, hg, fun r j hr hj => ?_, fun a ha => ?_⟩
  · exact (Mach.rd_eq_of_mem hmem ..).trans (Mach.rd_copied hm hpitch hr hj)
  · exact (Mach.rd_eq_of_mem hmem ..).trans (Mach.rd_not_copied hm ha)

end Sys2Proof.Machine
end

section
/-! SUPPORT. Proofs: LOAD: the report, and the pricking installed or not (R216, R219, R223, R224). -/

namespace Sys2Proof.Machine

/-! ## The install of a resident pricking (R223) -/

section
variable (m : Mach)

theorem FillsOnly.fillTables (p : Nat) (k : Pricking) (b : List Byte) : FillsOnly m (m.fillTables p k b) := by
  unfold Mach.fillTables
  exact FillsOnly.foldl (fun a r => FillsOnly.trans (FillsOnly.scribbled a _ _) (FillsOnly.foldl (fun c t => FillsOnly.wr c _ _) _ _)) _ m

theorem Mach.freshWins_only (p : Nat) : m.freshWins p = { m with
    cores := (m.freshWins p).cores
    acts := (m.freshWins p).acts } := by
  unfold Mach.freshWins
  refine List.foldlRecOn (motive := fun a : Mach => a = { m with cores := a.cores, acts := a.acts }) _ _ rfl fun a ha c _ => ?_
  rw [ha]
  rfl

/-- What an install of a resident pricking puts in the partition before it fills memories (R223). -/
def Part.holding (q : Part) (k : Pricking) : Part := { q with resident := some k, caches := [], rbufs := [], closed := 0, sweep := false }

@[simp] theorem Mach.freshWins_parts (p : Nat) : (m.freshWins p).parts = m.parts := by rw [Mach.freshWins_only]

/-- The memories and tables that an install fills before the cores of the partition count anew (R223). -/
def Mach.residentFilled (p : Nat) (b : List Byte) (k : Pricking) : Mach :=
  (((((m.modPart p (fun q => q.holding k)).fillBufs p false k b [0]).fillBufs p false k b [1, 2]).fillTables p k b).fillCores p false k b).computePv p

/-- What is filled lies in the memories and the dictionary. -/
theorem FillsOnly.residentFilled (p : Nat) (b : List Byte) (k : Pricking) :
    FillsOnly (m.modPart p (fun q => q.holding k)) (m.residentFilled p b k) :=
  FillsOnly.trans (FillsOnly.trans (FillsOnly.trans (FillsOnly.trans (FillsOnly.fillBufs ..) (FillsOnly.fillBufs ..)) (FillsOnly.fillTables ..))
    (FillsOnly.fillCores ..)) (FillsOnly.setObj ..)

/-- Behind the fill an install declares the windows anew and shows the pricking in the dictionary (R223). -/
theorem FillsOnly.install_resident (p : Nat) (b : List Byte) (addr region : Nat) :
    FillsOnly (((m.residentFilled p b (m.pricking p false b addr region)).freshWins p).modPart p (fun q => { q with wins := winsOf b }))
      (m.install p false b addr region) := by
  unfold Mach.install
  simp only [Bool.false_eq_true, if_false]
  exact FillsOnly.trans (FillsOnly.trans (FillsOnly.trans (FillsOnly.trans (FillsOnly.trans (FillsOnly.setObj ..) (FillsOnly.setObj ..))
    (FillsOnly.setObj ..)) (FillsOnly.setObj ..)) (FillsOnly.setObj ..)) (FillsOnly.setObj ..)

/-- The pricking that an install leaves in its partition (R223). -/
theorem Mach.resident_install (p : Nat) (b : List Byte) (addr region : Nat) :
    ((m.install p false b addr region).part p).resident = some (m.pricking p false b addr region) := by
  have hfilled := FillsOnly.residentFilled m p b (m.pricking p false b addr region)
  simp only [Mach.part, (FillsOnly.install_resident m p b addr region).parts, Mach.modPart, Mach.setPart_parts, AMap.get_put_same,
    Mach.freshWins_parts, hfilled.parts, Part.holding]

/-! ## The effect of LOAD -/

/-- The resident pricking of a partition behind a load: an accepted one is installed, a refused one leaves what stood there (R223). -/
theorem Mach.resident_runLoad (p : Nat) (hw : Bool) (addr report region : Nat) :
    ((m.runLoad p false hw addr report region).2.part p).resident =
      if (m.loadResult p false hw addr region).code = 0 then
        some ((m.touch [(addr, imLen (m.rd addr 128))]).pricking p false (m.rd addr (imLen (m.rd addr 128))) addr region)
      else (m.part p).resident := by
  rw [Mach.part, (FillsOnly.runLoad m p false hw addr report region).parts]
  change ((m.loadBody p false hw addr region).part p).resident = _
  by_cases hcode : (m.loadResult p false hw addr region).code = 0
  · let t := m.touch [(addr, imLen (m.rd addr 128))]
    have hbody : m.loadBody p false hw addr region = t.install p false (t.rd addr (imLen (m.rd addr 128))) addr region := if_pos hcode
    rw [if_pos hcode, hbody, Mach.resident_install, Mach.rd_eq_of_mem (Mach.touch_mem ..)]
  · rw [if_neg hcode, Mach.part, (FillsOnly.loadBody_refused m hcode).parts]
    rfl

/-- Bytes of no stated value bring no unit to the recovery path. -/
theorem Mach.spoilBufs_hwWait (p : Nat) (guest : Bool) (k : Pricking) : (m.spoilBufs p guest k).hwWait = m.hwWait := by
  unfold Mach.spoilBufs
  refine Mach.foldl_same Mach.hwWait (fun a r => ?_) _ m
  split <;> rfl

theorem Mach.put_hwWait (key : Nat) (bs : List Byte) : (m.put key bs).hwWait = m.hwWait := Mach.touch_hwWait ..

section
variable (p : Nat) (guest hw : Bool) (addr report region : Nat)

/-- Behind its install or refusal a load stores its report and sets the loader objects (R219, R224). -/
theorem Mach.runLoad_snd : ∃ i v, i ≠ 1 ∧ i < 256 ∧
    (m.runLoad p guest hw addr report region).2 = (m.loadReported p guest hw addr report region).setObj (0x6400 + p) i v := by
  rw [Mach.runLoad_eq]
  dsimp only
  split
  · exact ⟨2, _, by decide, by decide, rfl⟩
  · exact ⟨3, _, by decide, by decide, rfl⟩

/-- 6400h + p.01 holds the code with FIRST (R224). -/
theorem Mach.obj_runLoad : (m.runLoad p guest hw addr report region).2.obj (0x6400 + p) 1 =
    (m.loadResult p guest hw addr region).code + 256 * ((m.loadResult p guest hw addr region).first % 65536) := by
  obtain ⟨i, v, hi, hi', hrun⟩ := m.runLoad_snd p guest hw addr report region
  have hkey : okey (0x6400 + p) i ≠ okey (0x6400 + p) 1 := fun h => hi ((okey_inj hi' (by decide)).mp h).2
  rw [hrun, Mach.obj_setObj_other _ hkey, Mach.loadReported, Mach.obj_setObj_same]

/-- The report changes neither what waits for recovery nor any memory but its own (R219). -/
theorem Mach.loadReported_keeps :
    (m.loadReported p guest hw addr report region).hwWait = (m.loadBody p guest hw addr region).hwWait ∧
      (m.loadReported p guest hw addr report region).mem =
        ((m.loadBody p guest hw addr region).put report (m.loadResult p guest hw addr region).report).mem := by
  rw [Mach.loadReported, Mach.setObj_hwWait, Mach.put_hwWait, Mach.setObj_mem]
  exact ⟨rfl, rfl⟩

/-- A load whose image is unreadable enters the recovery path (R216). -/
theorem Mach.runLoad_unreadable (h : (m.loadResult p guest hw addr region).code = 0x17) :
    (0x17, p, 0xFFFF) ∈ (m.runLoad p guest hw addr report region).2.hwWait := by
  obtain ⟨i, v, -, -, hrun⟩ := m.runLoad_snd p guest hw addr report region
  have hlost : ∀ (a : Mach) key, (0x17, p, 0xFFFF) ∈ (a.lostImage 0x17 p key).hwWait := fun a key =>
    List.mem_append_right _ (List.mem_singleton.mpr rfl)
  rw [hrun, Mach.setObj_hwWait, (m.loadReported_keeps p guest hw addr report region).1, Mach.loadBody]
  simp only [h, if_neg (show ¬ (0x17 = 0) by decide), if_true]
  split
  · rw [Mach.spoilBufs_hwWait]
    exact hlost ..
  · exact hlost ..

/-- A load that is refused for what its image holds stores its report and no more (R219). -/
theorem SameOutside.runLoad_refused (hm : Memory.wf m) (h : (m.loadResult p guest hw addr region).code ≠ 0)
    (h' : (m.loadResult p guest hw addr region).code ≠ 0x17) :
    SameOutside [(report, (m.loadResult p guest hw addr region).report.length)] m (m.runLoad p guest hw addr report region).2 := by
  obtain ⟨i, v, -, -, hrun⟩ := m.runLoad_snd p guest hw addr report region
  have hbody : (m.loadBody p guest hw addr region).mem = m.mem := by
    simp only [Mach.loadBody, if_neg h, if_neg h', Mach.touch_mem]
  have hmem : (m.runLoad p guest hw addr report region).2.mem =
      ((m.loadBody p guest hw addr region).put report (m.loadResult p guest hw addr region).report).mem := by
    rw [hrun, Mach.setObj_mem, (m.loadReported_keeps p guest hw addr report region).2]
  exact SameOutside.trans (SameOutside.trans (SameOutside.of_mem _ hbody) (SameOutside.put (Memory.wf_of_mem hbody hm) report _))
    (SameOutside.of_mem _ hmem)

end

end

theorem Mach.endJob_hwWait (m : Mach) (j : Job) (st d : Nat) : (m.endJob j st d).hwWait = m.hwWait := rfl

theorem gives_load {s : State} {p : Nat} {j : Job} (hw : Bool) (hrun : s.mach.phase = .running) (hnext : s.mach.nextRes p = some j)
    (hkind : j.kind = 2) :
    let m0 := s.mach.setBit (pix p) 2 6 false
    let r := m0.loadResult p false hw j.arg0 j.arg2
    Gives (.load p hw) s ((m0.runLoad p false hw j.arg0 j.arg1 j.arg2).2.endJob j (if r.code = 0 then 0 else 5) r.code) := by
  have hg := gives_step (.load p hw) s (fun m => doLoad m p hw) rfl hrun
  simp only [doLoad, hnext, hkind, if_true, Mach.loadJob, Mach.part_of_nextRes hnext] at hg
  exact hg

/-- Settles O21: a load ends its job with what its checks come to, behind its report and what it has installed. -/
theorem loads : Obligations.Loads := by
  intro s p hw j hrun hp hnext hkind hpart m0 r n m1
  have hresident := m0.resident_runLoad p hw j.arg0 j.arg1 j.arg2
  let loaded := (m0.runLoad p false hw j.arg0 j.arg1 j.arg2).2
  obtain ⟨-, hended⟩ := loaded.prickings_endJob j (if r.code = 0 then 0 else 5) r.code p
  refine ⟨_, gives_load hw hrun hnext hkind, fun hm => ?_, ?_, loaded.jobs_endJob j _ _, fun hcode => ?_, fun hcode => ?_, fun hcode => ?_,
    fun hcode hcode' hm => ?_⟩
  · exact (Mach.rd_eq_of_mem (Mach.endJob_mem ..) _ _).trans (m0.rd_runLoad hm p false hw j.arg0 j.arg1 j.arg2)
  · exact (Mach.obj_eq_of_objs (Mach.endJob_objs ..) _ _).trans (m0.obj_runLoad p false hw j.arg0 j.arg1 j.arg2)
  · exact hended.trans (hresident.trans (if_pos hcode))
  · exact hended.trans (hresident.trans (if_neg hcode))
  · rw [Mach.endJob_hwWait]
    exact m0.runLoad_unreadable p false hw j.arg0 j.arg1 j.arg2 hcode
  · have hbefore : SameOutside [(j.arg1, r.report.length)] s.mach m0 := SameOutside.of_mem _ (Mach.setBit_mem ..)
    exact SameOutside.trans (SameOutside.trans hbefore (SameOutside.runLoad_refused m0 p false hw j.arg0 j.arg1 j.arg2 hm hcode hcode'))
      (SameOutside.of_mem _ (Mach.endJob_mem ..))

end Sys2Proof.Machine
end

section
/-! SUPPORT. Proofs: what cast-on, formation and unload leave of prickings and loader objects (R225). -/

namespace Sys2Proof.Machine

/-! ## Operations that leave the partitions as they are -/

@[simp] theorem Mach.parts_ite (c : Prop) [Decidable c] (a b : Mach) : (if c then a else b).parts = if c then a.parts else b.parts :=
  apply_ite _ _ _ _

theorem Mach.foldl_parts {α : Type} {f : Mach → α → Mach} (hf : ∀ m a, (f m a).parts = m.parts) (l : List α) (m : Mach) :
    (l.foldl f m).parts = m.parts :=
  Mach.foldl_same (·.parts) hf l m

section
variable (m : Mach)

@[simp] theorem Mach.addObj_parts (i a n : Nat) : (m.addObj i a n).parts = m.parts := rfl
@[simp] theorem Mach.addObj32_parts (i a n : Nat) : (m.addObj32 i a n).parts = m.parts := rfl
@[simp] theorem Mach.setField_parts (i a hi lo v : Nat) : (m.setField i a hi lo v).parts = m.parts := rfl
@[simp] theorem Mach.setBit_parts (i a n : Nat) (b : Bool) : (m.setBit i a n b).parts = m.parts := rfl
@[simp] theorem Mach.setLrt_parts (l : Nat) (r : LinkRt) : (m.setLrt l r).parts = m.parts := rfl
@[simp] theorem Mach.setLinkState_parts (l st : Nat) : (m.setLinkState l st).parts = m.parts := rfl
@[simp] theorem Mach.eachStore_parts (f : Nat → Store → Store) : (m.eachStore f).parts = m.parts := rfl

@[simp] theorem Mach.queueEmcy_parts (code detail : Nat) : (m.queueEmcy code detail).parts = m.parts := by simp [Mach.queueEmcy]

@[simp] theorem Mach.enterHistory_parts (code detail : Nat) : (m.enterHistory code detail).parts = m.parts := by
  unfold Mach.enterHistory
  dsimp only
  rw [Mach.setObj_parts]
  exact Mach.foldl_parts (fun _ _ => by simp) _ _

@[simp] theorem Mach.sendEmcy_parts : m.sendEmcy.parts = m.parts := by
  unfold Mach.sendEmcy
  split
  · rfl
  · extract_lets +onlyGivenNames wait frame src m₁ m₂ ev
    have h₂ : m₂.parts = m.parts := Mach.enterHistory_parts ..
    clear_value ev m₂
    split
    · rfl
    · split
      · exact h₂
      · split <;> simp [h₂]

@[simp] theorem Mach.emcySet_parts (c : EmcyCond) (detail : Nat) : (m.emcySet c detail).parts = m.parts := by simp [Mach.emcySet]
@[simp] theorem Mach.replacement_parts (reason : Nat) : (m.replacement reason).parts = m.parts := by simp [Mach.replacement, Mach.warn]
@[simp] theorem Mach.candidate_parts (s row : Nat) : (m.candidate s row).parts = m.parts := by simp [Mach.candidate, Mach.setRows]

@[simp] theorem Mach.replan_parts : m.replan.parts = m.parts := by
  unfold Mach.replan
  extract_lets +onlyGivenNames x fixed m₁ m₂ m₃ m₄ m₅
  have h₁ : m₁.parts = m.parts := by
    refine Mach.foldl_parts (fun a k => ?_) _ _
    rfl
  have h₂ : m₂.parts = m₁.parts := by
    refine Mach.foldl_parts (fun a k => ?_) _ _
    rfl
  have h₃ : m₃.parts = m₂.parts := by
    refine Mach.foldl_parts (fun a k => ?_) _ _
    rfl
  clear_value m₃
  have h₅ : m₅.parts = m.parts := h₃.trans (h₂.trans h₁)
  split <;> simp [h₅]

@[simp] theorem Mach.bootUp_parts : m.bootUp.parts = m.parts := by simp [Mach.bootUp, Mach.sendCan]

@[simp] theorem Mach.autostart_parts : m.autostart.parts = m.parts := by simp [Mach.autostart, Mach.setNmt]

@[simp] theorem Mach.pump_parts (l fuel : Nat) : (m.pump l fuel).parts = m.parts := by
  induction fuel generalizing m with
  | zero => rfl
  | succ fuel ih =>
    unfold Mach.pump
    split
    · rfl
    · split <;> simp [ih]

@[simp] theorem Mach.failLink_parts (l reason : Nat) : (m.failLink l reason).parts = m.parts := rfl

/-- A link with nothing queued has nothing to stop as it resumes. -/
theorem Mach.resumeLink_parts {l : Nat} (h : (m.lrt l).queue = []) : (m.resumeLink l).parts = m.parts := by
  unfold Mach.resumeLink
  simp only [h, List.filter_nil, List.foldl_nil, Mach.setLrt_parts]
  exact Mach.foldl_parts (fun _ _ => by simp) _ m

/-- A link with nothing queued stops no message as its training ends (R292). -/
theorem Mach.finishTraining_parts {l : Nat} (h : (m.lrt l).queue = []) (env : LinkEnv) : (m.finishTraining l env).parts = m.parts := by
  unfold Mach.finishTraining
  extract_lets +onlyGivenNames ver lat ident r changed st m₁ m₂
  have h₁ : m₁.parts = m.parts := rfl
  clear_value m₁
  have h₂ : m₂.parts = m₁.parts := by
    have hqueue : ((m₁.setLrt l { r with keep := false, ident := some ident, probes := [], hellos := [] }).lrt l).queue = [] := by
      rw [Mach.lrt_setLrt, if_pos rfl]
      exact h
    exact (Mach.pump_parts ..).trans (Mach.resumeLink_parts _ hqueue)
  clear_value m₂
  split
  · rfl
  · split
    · rfl
    · split
      · rfl
      · split <;> simp [h₂, h₁]

@[simp] theorem Mach.stackOff_parts (s reason : Nat) : (m.stackOff s reason).parts = m.parts := by simp [Mach.stackOff, Mach.setStackState]
@[simp] theorem Mach.castBad_parts (level die clus unit : Nat) (loc : Option (Nat × Nat × Nat)) : (m.castBad level die clus unit loc).parts = m.parts := rfl
@[simp] theorem Mach.castLose_parts (s reason : Nat) : (m.castLose s reason).parts = m.parts := by simp [Mach.castLose]

@[simp] theorem Mach.joinStores_parts : m.joinStores.parts = m.parts := by
  unfold Mach.joinStores
  dsimp only
  split <;> rfl

variable (e : CastEnv)

@[simp] theorem Mach.castSup_parts : (m.castSup e).parts = m.parts := by
  unfold Mach.castSup
  extract_lets +onlyGivenNames boot m₁ m₂ live m₃ m₄ m₅ sets m₆ m₇
  have h₃ : m₃.parts = m.parts := Mach.joinStores_parts ..
  clear_value m₃
  have h₄ : m₄.parts = m₃.parts := by
    refine Mach.foldl_parts (fun a s => ?_) _ _
    split <;> rfl
  clear_value m₄
  have h₅ : m₅.parts = m₄.parts := by simp only [m₅, Mach.parts_ite, Mach.eachStore_parts, ite_self]
  clear_value m₅
  have h₆ : m₆.parts = m₅.parts := by
    refine Mach.foldl_parts (fun a s => ?_) _ _
    rfl
  clear_value m₆
  exact h₆.trans (h₅.trans (h₄.trans h₃))

@[simp] theorem Mach.castMasters_parts : (m.castMasters e).parts = m.parts := by
  unfold Mach.castMasters
  split
  · rfl
  · split
    · rfl
    · exact Mach.foldl_parts (fun _ _ => by simp) _ _

@[simp] theorem Mach.castDies_parts : (m.castDies e).parts = m.parts := by
  unfold Mach.castDies
  extract_lets +onlyGivenNames known m₁ dead m₂ off
  have h₁ : m₁.parts = m.parts := Mach.foldl_parts (fun _ _ => by simp) _ _
  clear_value m₁
  have h₂ : m₂.parts = m₁.parts := Mach.foldl_parts (fun _ _ => by simp [Mach.repair]) _ _
  clear_value m₂
  refine (Mach.foldl_parts (fun a d => ?_) _ _).trans (h₂.trans h₁)
  extract_lets +onlyGivenNames a₁ a₂ a₃ a₄
  have ha₁ : a₁.parts = a.parts := rfl
  clear_value a₁
  have ha₂ : a₂.parts = a₁.parts := Mach.foldl_parts (fun _ _ => by simp) _ _
  clear_value a₂
  have ha₃ : a₃.parts = a₂.parts := Mach.foldl_parts (fun _ _ => by simp) _ _
  clear_value a₃
  simp only [a₄, Mach.setIsland_parts, ha₃, ha₂, ha₁]

@[simp] theorem Mach.hardRepair_parts (s : Nat) : (m.hardRepair s).parts = m.parts :=
  Mach.foldl_parts (fun _ _ => by simp [Mach.rowLost, Mach.errorRecord, Mach.setRows]) _ _

@[simp] theorem Mach.castStacks_parts : (m.castStacks e).parts = m.parts := by
  unfold Mach.castStacks
  rw [Mach.foldl_parts, Mach.foldl_parts, Mach.foldl_parts]
  · simp
  · simp
  · simp [Mach.setRows, Mach.setStackState]

@[simp] theorem Mach.castCores_parts : (m.castCores e).parts = m.parts := by
  unfold Mach.castCores
  extract_lets +onlyGivenNames m₁ m₂
  have h₁ : m₁.parts = m.parts := Mach.foldl_parts (fun _ _ => by simp) _ _
  have h₂ : m₂.parts = m₁.parts := Mach.foldl_parts (fun _ _ => by simp) _ _
  clear_value m₂
  refine (Mach.foldl_parts (fun a g => ?_) _ _).trans (h₂.trans h₁)
  split
  · rfl
  · extract_lets +onlyGivenNames dead low off
    clear_value low
    split
    · rfl
    · split
      · rfl
      · split <;> rfl

@[simp] theorem Mach.castMemories_parts : (m.castMemories e).parts = m.parts := by
  unfold Mach.castMemories
  rw [Mach.foldl_parts, Mach.foldl_parts, Mach.foldl_parts]
  · intro a x
    rfl
  · simp [Mach.setSrt]
  · simp

@[simp] theorem Mach.castLinks_parts : (m.castLinks e).parts = m.parts := by
  unfold Mach.castLinks
  refine Mach.foldl_parts (fun a l => ?_) _ _
  have hqueue : ((a.trainLink l).lrt l).queue = [] := by
    rw [Mach.trainLink, Mach.lrt_setLrt, if_pos rfl]
    rfl
  split
  · rfl
  · exact Mach.finishTraining_parts _ hqueue _

@[simp] theorem Mach.castPorts_parts : (m.castPorts e).parts = m.parts := rfl

@[simp] theorem Mach.castService_parts : m.castService.parts = m.parts := by
  unfold Mach.castService
  extract_lets +onlyGivenNames src m₁ m₂
  have h₂ : m₂.parts = m.parts := by
    have h₁ : m₁.parts = m.parts := rfl
    simp only [m₂, Mach.parts_ite, Mach.autostart_parts, Mach.bootUp_parts, Mach.replan_parts, h₁, ite_self]
  clear_value m₂
  split
  · exact h₂
  · rw [Mach.replacement_parts, Mach.foldl_parts, h₂]
    simp

@[simp] theorem Mach.castRest_parts : (m.castRest e).parts = m.parts := by simp [Mach.castRest]

end

/-! ## Cast-on -/

theorem Mach.cleared_parts (m : Mach) (power : Bool) (ph : Phase) : (m.cleared power ph).parts = [] := by
  unfold Mach.cleared
  dsimp only
  split <;> rfl

/-- A cast-on starts with no partition that holds anything (R225). -/
theorem Mach.castOn_parts (m : Mach) (power : Bool) (e : CastEnv) : (m.castOn power e).parts = [] := by
  unfold Mach.castOn
  extract_lets +onlyGivenNames cleared src started
  have hstarted : started.parts = [] := (Mach.castSup_parts ..).trans (m.cleared_parts power .waiting)
  clear_value started
  split
  · rw [Mach.castRest_parts, hstarted]
  · exact hstarted

/-- A partition of which nothing is listed holds no pricking. -/
theorem Mach.no_prickings {m : Mach} (h : m.parts = []) (p : Nat) : (m.part p).resident = none ∧ (m.part p).guest = none := by
  rw [Mach.part, h]
  exact ⟨rfl, rfl⟩

theorem doCastOn_of_starts {m : Mach} {e : CastEnv} (h : (m.phase = .off ∧ vinGood e.tenMv = true) ∨ m.phase = .held) :
    ∃ power, doCastOn e m = m.castOn power e := by
  obtain ⟨hoff, hvin⟩ | hheld := h
  · exact ⟨false, by simp only [doCastOn, hoff, hvin, if_true]⟩
  · exact ⟨true, by simp only [doCastOn, hheld]⟩

theorem doVinBack_of_good {m : Mach} {mv : Nat} {e : CastEnv} (hlow : m.phase = .lowVin) (hvin : vinGood mv = true) :
    doVinBack mv e m = m.castOn false e := by
  simp only [doVinBack, hlow, hvin, decide_true, Bool.and_self, if_true]

/-! ## Formation -/

/-- An object that a formation clears reads its default (R387). -/
theorem Mach.obj_of_cleared {m m' : Mach} {clears : Nat → Bool} (h : m'.objs = m.objs.filter (fun e => !clears e.1)) {idx sub : Nat}
    (hkey : clears (okey idx sub) = true) : m'.obj idx sub = objReset (okey idx sub) := by
  have hget : AMap.get? (okey idx sub) m'.objs = none := by
    rw [h]
    exact (AMap.get?_delIf clears _ _).trans (if_pos hkey)
  simp only [Mach.obj, hget]

/-- A formation clears the loader objects of its partition (R225, R387). -/
theorem formClears_loader (p : Nat) {sub : Nat} (h : sub < 256) : formClears p (okey (0x6400 + p) sub) = true := by
  have hidx : okey (0x6400 + p) sub / 256 = 0x6400 + p := by unfold okey; omega
  simp [formClears, partBases, hidx]

theorem Mach.powerClusters_objs (m : Mach) (p : Nat) (on : Bool) : (m.powerClusters p on).objs = m.objs :=
  Mach.foldl_same Mach.objs (fun _ _ => by simp) _ m

theorem Mach.powerClusters_parts (m : Mach) (p : Nat) (on : Bool) : (m.powerClusters p on).parts = m.parts :=
  Mach.foldl_parts (fun _ _ => by simp) _ m

/-- The objects that a formation sets to other values than their defaults (R387). -/
def formedKeys (p : Nat) : List Nat := [okey (pix p) 0xB, okey (pix p) 0xC, okey (0x4880 + p) 1, okey (pix p) 2]

/-- None of them is a loader object. -/
theorem loader_notMem_formedKeys {p sub : Nat} (hsub : sub < 256) : okey (0x6400 + p) sub ∉ formedKeys p := by
  simp only [formedKeys, okey, pix, List.mem_cons, List.not_mem_nil, or_false]
  omega

/-- A formation leaves the partition without a pricking, and its loader objects at their defaults (R225, R387). -/
theorem doFormed_loader {m : Mach} {p : Nat} (hp : p < 64) (hforming : m.pstate p = 1) :
    ((doFormed m p).part p).resident = none ∧
      ∀ sub, sub < 256 → (doFormed m p).obj (0x6400 + p) sub = objReset (okey (0x6400 + p) sub) := by
  have hcond : ¬ (decide (p ≥ 64) || decide (m.pstate p ≠ 1)) = true := by simp [hforming, hp]
  unfold doFormed
  rw [if_neg hcond]
  extract_lets +onlyGivenNames m₁ m₂ m₃ src m₄ empty life m₅ m₆
  clear_value m₃
  have hcleared : m₄.objs = m₃.objs.filter (fun e => !formClears p e.1) := rfl
  clear_value m₄
  have hresident : (m₅.part p).resident = none := by
    simp only [m₅, empty, Mach.part_setPart_same, Part.empty]
  have hheld : SameObjs (formedKeys p) m₄ m₅ := SameObjs.of_objs _ (Mach.setPart_objs ..)
  clear_value m₅
  have hset : SameObjs (formedKeys p) m₅ m₆ :=
    SameObjs.trans (SameObjs.trans (SameObjs.setObj _ _ _ _ (by simp [formedKeys])) (SameObjs.setObj _ _ _ _ (by simp [formedKeys])))
      (SameObjs.setObj _ _ _ _ (by simp [formedKeys]))
  have hparts : m₆.parts = m₅.parts := rfl
  clear_value m₆
  have hshown : SameObjs (formedKeys p) m₆ (((m₆.powerClusters p true).setField (pix p) 2 4 3 2).cmdDone (pix p) 2 true) :=
    SameObjs.trans (SameObjs.trans (SameObjs.of_objs _ (Mach.powerClusters_objs ..)) (SameObjs.setField _ _ _ _ _ _ (by simp [formedKeys])))
      (SameObjs.setField _ _ _ _ _ _ (by simp [formedKeys]))
  refine ⟨?_, fun sub hsub => ?_⟩
  · rw [Mach.part, Mach.cmdDone, Mach.setField_parts, Mach.setField_parts, Mach.powerClusters_parts, hparts]
    exact hresident
  · rw [(SameObjs.trans (SameObjs.trans hheld hset) hshown) _ _ (loader_notMem_formedKeys hsub)]
    exact Mach.obj_of_cleared hcleared (formClears_loader p hsub)

/-! ## UNLOAD -/

/-- An unload changes the loader object and the function objects it clears. -/
theorem SameObjs.unloadResident (m : Mach) (p : Nat) :
    SameObjs [okey (0x6400 + p) 4, okey (0x6300 + p) 1, okey (0x6300 + p) 2] m (m.unloadResident p) := by
  refine SameObjs.trans (SameObjs.trans (SameObjs.trans (SameObjs.of_objs _ ?_) (SameObjs.setObj _ _ _ _ (by simp)))
    (SameObjs.setObj _ _ _ _ (by simp))) (SameObjs.setObj _ _ _ _ (by simp))
  exact Mach.setPart_objs ..

theorem Mach.resident_unloadResident (m : Mach) (p : Nat) : ((m.unloadResident p).part p).resident = none := by
  simp only [Mach.unloadResident, Mach.part_setObj, Mach.modPart, Mach.part_setPart_same]

/-- An unload clears 6400h + p.04 (R225). -/
theorem Mach.obj_unloadResident (m : Mach) (p : Nat) : (m.unloadResident p).obj (0x6400 + p) 4 = 0 := by
  have hkey : ∀ i, i < 256 → okey (0x6300 + p) i ≠ okey (0x6400 + p) 4 := fun i hi => by unfold okey; omega
  rw [Mach.unloadResident, Mach.obj_setObj_other _ (hkey 2 (by decide)), Mach.obj_setObj_other _ (hkey 1 (by decide)), Mach.obj_setObj_same]

theorem gives_unload {s : State} {p : Nat} {j : Job} (hrun : s.mach.phase = .running) (hnext : s.mach.nextRes p = some j) (hkind : j.kind = 3) :
    Gives (.unload p) s (((s.mach.setBit (pix p) 2 6 false).unloadResident p).endJob j 0 0) := by
  have hg := gives_step (.unload p) s (fun m => doUnload m p) rfl hrun
  simpa only [doUnload, hnext, hkind, if_true] using hg

/-- Settles O22: a cast-on starts with no partition listed, a formation clears its partition's loader objects, and an unload takes the pricking out. -/
theorem loaderObjects : Obligations.LoaderObjects := by
  refine ⟨fun s e mv => ⟨fun hstarts => ?_, fun hlow hvin => ?_⟩, fun p => ⟨rfl, rfl⟩, fun s p hrun hp hforming => ?_, fun s p j hrun hp hnext hkind => ?_⟩
  · obtain ⟨power, hcast⟩ := doCastOn_of_starts hstarts
    exact ⟨_, gives_always (.castOn e) s (doCastOn e) rfl, Mach.no_prickings (by rw [hcast, Mach.castOn_parts])⟩
  · exact ⟨_, gives_always (.vinReturn mv e) s (doVinBack mv e) rfl, Mach.no_prickings (by rw [doVinBack_of_good hlow hvin, Mach.castOn_parts])⟩
  · exact ⟨_, gives_step (.formationDone p) s (fun m => doFormed m p) rfl hrun, doFormed_loader hp hforming⟩
  · let m0 := s.mach.setBit (pix p) 2 6 false
    let unloaded := m0.unloadResident p
    refine ⟨_, gives_unload hrun hnext hkind, ?_, ?_, ?_, ?_, unloaded.jobs_endJob j 0 0⟩
    · rw [(unloaded.prickings_endJob j 0 0 p).2]
      exact m0.resident_unloadResident p
    · rw [Mach.obj_eq_of_objs (Mach.endJob_objs ..)]
      exact m0.obj_unloadResident p
    · exact (Mach.endJob_mem ..).trans ((Mach.unloadResident_mem ..).trans (Mach.setBit_mem ..))
    · have hcleared := SameObjs.unloadResident m0 p
      exact SameObjs.trans (SameObjs.trans (SameObjs.setBit s.mach _ _ _ _ (by simp)) (SameObjs.mono (by simp) hcleared))
        (SameObjs.of_objs _ (Mach.endJob_objs ..))

end Sys2Proof.Machine
end

section
/-! SUPPORT. Proofs: the format command (R280, Table 9-9). -/

namespace Sys2Proof.Machine

@[simp] theorem Mach.wrAll_parts (m : Mach) (ws : List (Nat × List Byte)) : (m.wrAll ws).parts = m.parts := by rw [Mach.wrAll_only]

/-- The places of a partition's tile-table entries rest on its clusters. -/
theorem Mach.rbEntryKey_congr {m m' : Mach} {p : Nat} (h : m'.clusters p = m.clusters p) (r : List Byte) (t : Nat) :
    m'.rbEntryKey p r t = m.rbEntryKey p r t := by
  simp only [Mach.rbEntryKey, Mach.rbKey, h]

/-! ## The bytes that the command stores -/

/-- WFMT of `n` tiles from `first`: byte 3 of each tile-table entry (R280, Table 9-4). -/
def Mach.wfmtPieces (m : Mach) (p : Nat) (r : List Byte) (first n fmt : Nat) : List (Nat × List Byte) :=
  (List.range n).map (fun i => (m.rbEntryKey p r (first + i) + 3, leBytes 1 fmt))

theorem Mach.foldl_wfmt_eq_wrAll (m : Mach) (p : Nat) (r : List Byte) (first n fmt : Nat) :
    (List.range n).foldl (fun x i => x.wrNat (x.rbEntryKey p r (first + i) + 3) 1 fmt) m = m.wrAll (m.wfmtPieces p r first n fmt) := by
  have hfold : ∀ (is : List Nat) (a : Mach), a.clusters p = m.clusters p →
      is.foldl (fun x i => x.wrNat (x.rbEntryKey p r (first + i) + 3) 1 fmt) a =
        a.wrAll (is.map (fun i => (m.rbEntryKey p r (first + i) + 3, leBytes 1 fmt))) := by
    intro is
    induction is with
    | nil => exact fun a _ => rfl
    | cons i is ih =>
      intro a ha
      rw [List.foldl_cons, Mach.rbEntryKey_congr ha]
      exact ih (a.wrNat (m.rbEntryKey p r (first + i) + 3) 1 fmt) ha
  exact hfold _ m rfl

/-- Tile-table entries are 32 bytes each: no two tiles share the byte of their WFMT. -/
theorem Mach.wfmtPieces_apart (m : Mach) {p : Nat} {r : List Byte} {first n fmt i : Nat} :
    ∀ v ∈ m.wfmtPieces p r first n fmt, v = (m.rbEntryKey p r (first + i) + 3, leBytes 1 fmt) ∨
      m.rbEntryKey p r (first + i) + 3 + (leBytes 1 fmt).length ≤ v.1 ∨ v.1 + v.2.length ≤ m.rbEntryKey p r (first + i) + 3 := by
  intro v hv
  obtain ⟨j, -, rfl⟩ := List.mem_map.mp hv
  by_cases hij : i = j
  · exact .inl (by rw [hij])
  · simp only [Mach.rbEntryKey, length_leBytes]
    omega

/-- Every tile that the command names reads the new WFMT. -/
theorem Mach.rd_wfmtPieces {m : Mach} (hm : Memory.wf m) (p : Nat) (r : List Byte) (first fmt : Nat) {n i : Nat} (hi : i < n) :
    (m.wrAll (m.wfmtPieces p r first n fmt)).rd (m.rbEntryKey p r (first + i) + 3) 1 = leBytes 1 fmt := by
  have hmem : (m.rbEntryKey p r (first + i) + 3, leBytes 1 fmt) ∈ m.wfmtPieces p r first n fmt :=
    List.mem_map.mpr ⟨i, List.mem_range.mpr hi, rfl⟩
  have hread := Mach.rd_wrAll_of_mem hm hmem m.wfmtPieces_apart
  rwa [length_leBytes] at hread

/-! ## The branches of the command -/

section
variable {m : Mach} {p v : Nat}

theorem Mach.formatCommand_reserved (h : fld v 63 60 ≠ 0 ∨ fld v 39 28 ≠ 0) : m.formatCommand p v = m.reply abortRange := by
  simp only [Mach.formatCommand, Bool.or_eq_true, decide_eq_true_eq, h, if_true]

variable (h₁ : fld v 63 60 = 0) (h₂ : fld v 39 28 = 0) (hst : m.pstate p ≠ 0)
include h₁ h₂ hst

/-- No such buffer in the installed pricking. -/
theorem Mach.formatCommand_unknown (hr : ((m.part p).resident).bind (fun k => k.rbuf (fld v 59 48)) = none) :
    m.formatCommand p v = (m.reply 0).cmdDone (0x6480 + p) 0xF false := by
  have hr' : (((m.reply 0).part p).resident).bind (fun k => k.rbuf (fld v 59 48)) = none := hr
  simp only [Mach.formatCommand, h₁, h₂, hst, hr', ne_eq, not_true_eq_false, decide_false, Bool.or_self, Bool.false_eq_true, if_false]

/-- What the command asks of a buffer that there is. -/
theorem Mach.formatCommand_known {r : List Byte} (hr : ((m.part p).resident).bind (fun k => k.rbuf (fld v 59 48)) = some r) :
    m.formatCommand p v =
      if (m.resJob p).isSome = true ∨ (m.guestJob p).isSome = true ∨ rbMode r ≠ 2 ∨ rbTiles r < fld v 27 14 + (fld v 13 0 + 1) ∨
          (fld v 47 40 ≠ 0xFF ∧ legalDrain false false (fld v 47 40) = false) then (m.reply 0).cmdDone (0x6480 + p) 0xF false
      else ((m.reply 0).wrAll (m.wfmtPieces p r (fld v 27 14) (fld v 13 0 + 1) (fld v 47 40))).cmdDone (0x6480 + p) 0xF true := by
  have hr' : (((m.reply 0).part p).resident).bind (fun k => k.rbuf (fld v 59 48)) = some r := hr
  simp only [Mach.formatCommand, h₁, h₂, hst, hr', ne_eq, not_true_eq_false, decide_false, Bool.or_self, Bool.false_eq_true, if_false,
    Mach.foldl_wfmt_eq_wrAll]
  refine if_congr ?_ rfl rfl
  change _ ↔ (((m.reply 0).resJob p).isSome = true ∨ ((m.reply 0).guestJob p).isSome = true ∨ _)
  simp only [Bool.or_eq_true, decide_eq_true_eq, Bool.not_eq_true', Bool.or_eq_false_iff, decide_eq_false_iff_not, gt_iff_lt, or_assoc]

end

/-- A command that ends in ERROR shows it, and changes nothing else. -/
theorem Mach.format_error (m : Mach) (p : Nat) : ((m.reply 0).cmdDone (0x6480 + p) 0xF false).field (0x6480 + p) 0xF 2 0 = 4 ∧
    ((m.reply 0).cmdDone (0x6480 + p) 0xF false).mem = m.mem ∧ ((m.reply 0).cmdDone (0x6480 + p) 0xF false).parts = m.parts ∧
    SameObjs [okey (0x6480 + p) 0xF] m ((m.reply 0).cmdDone (0x6480 + p) 0xF false) :=
  ⟨Mach.field_cmdDone .., rfl, rfl, SameObjs.setField (m.reply 0) _ _ _ _ _ (by simp)⟩

theorem gives_formatCommand {s : State} {p : Nat} (v : Nat) (hrun : s.mach.phase = .running) (hp : p < 64) (hon : s.mach.online = true) :
    Gives (.formatCommand p v) s (s.mach.formatCommand p v) := by
  have hg := gives_step (.formatCommand p v) s (fun m => if p < 64 && m.online then m.formatCommand p v else m) rfl hrun
  simpa only [hp, hon, decide_true, Bool.and_self, if_true] using hg

/-- Settles O31: a command with reserved bits is refused; one that may not be carried out ends in ERROR; any other stores WFMT and is DONE. -/
theorem formatCommands : Obligations.FormatCommands := by
  intro s p v hrun hp hon id fmt first n rec?
  have hg := gives_formatCommand v hrun hp hon
  refine ⟨fun hbits => ?_, fun h₁ h₂ hst => ⟨fun hnone => ?_, fun r hr => ⟨fun hbad => ?_, fun hres hguest hmode htiles hfmt hm => ?_⟩⟩⟩
  · rwa [Mach.formatCommand_reserved hbits] at hg
  · rw [Mach.formatCommand_unknown h₁ h₂ hst hnone] at hg
    exact ⟨_, hg, s.mach.format_error p⟩
  · rw [Mach.formatCommand_known h₁ h₂ hst hr, if_pos hbad] at hg
    exact ⟨_, hg, s.mach.format_error p⟩
  · have hgood : ¬ ((s.mach.resJob p).isSome = true ∨ (s.mach.guestJob p).isSome = true ∨ rbMode r ≠ 2 ∨ rbTiles r < first + n ∨
        (fmt ≠ 0xFF ∧ legalDrain false false fmt = false)) := by
      simp only [hres, hguest, hmode, Nat.not_lt.mpr htiles, Option.isSome_none, Bool.false_eq_true, not_true_eq_false, false_or, not_and,
        Bool.not_eq_false, ne_eq]
      exact hfmt.resolve_left
    rw [Mach.formatCommand_known h₁ h₂ hst hr, if_neg hgood] at hg
    have hm' : Memory.wf (s.mach.reply 0) := hm
    refine ⟨_, hg, Mach.field_cmdDone .., fun i hi => Mach.rd_wfmtPieces hm' p r first fmt hi, ?_, ?_, ?_⟩
    · exact Mach.wrAll_parts (s.mach.reply 0) _
    · exact SameObjs.trans (SameObjs.of_objs _ (Mach.wrAll_objs (s.mach.reply 0) _)) (SameObjs.setField _ _ _ _ _ _ (by simp))
    · have hpieces := SameOutside.wrAll hm' (s.mach.wfmtPieces p r first n fmt)
      rw [Mach.wfmtPieces, List.map_map] at hpieces
      exact hpieces

end Sys2Proof.Machine
end

section
/-! SUPPORT. Proofs: contributions in their turn, and credits of a far buffer (R259 to R261). -/

namespace Sys2Proof.Machine

/-! ## A contribution is added -/

/-- What has been read well in parts has been read well. -/
theorem Mach.badRead_append (m : Mach) (rs ss : List (Nat × Nat)) : m.badRead (rs ++ ss) = (m.badRead rs).or (m.badRead ss) := by
  simp only [Mach.badRead, List.findSome?_append]

/-- The reads of an addition: the contribution and the tile's entry, and the slot when it holds a sum already (R259). -/
theorem Mach.badRead_addition {m : Mach} {rs : List (Nat × Nat)} {dk : Nat} {held : Bool} (h : m.badRead rs = none)
    (hheld : held = true → m.firstBad dk 16384 = none) : m.badRead (rs ++ if held then [(dk, 16384)] else []) = none := by
  rw [Mach.badRead_append, h, Option.none_or]
  cases held with
  | false => rfl
  | true => simp only [Mach.badRead, if_true, List.findSome?_cons, List.findSome?_nil, hheld rfl]

theorem gives_contributionAdd {s : State} (p id t : Nat) (hrun : s.mach.phase = .running) :
    Gives (.contributionAdd p id t) s (doContributionAdd s.mach p id t) :=
  gives_step _ s (fun m => doContributionAdd m p id t) rfl hrun

/-! ## A grant of credits -/

theorem gives_creditGrant {s : State} {l : Nat} {x : Msg} (hrun : s.mach.phase = .running) (harr : s.mach.arrives l x = true)
    (hop : x.op = 6) (hsub : x.arg % 256 = 3) (hgood : s.mach.malformed l x = false) :
    Gives (.creditGrant l x) s (doCreditGrant l x s.mach) :=
  gives_onMsg rfl hrun harr hgood (by simp only [hop, hsub, decide_true, Bool.and_self])

/-- Settles O29: the addition takes the branch of a turn that has come, with a slot and good reads; a grant is kept and what waits goes on. -/
theorem contributions : Obligations.Contributions := by
  constructor
  · intro s p id t c k slot area b r st hrun hb hr cur old round con j slow hturn hstaged hsw hopen hslot sk dk hread hslotRead full sum tile b' added
    have hg := gives_contributionAdd p id t hrun
    have hready : (!s.mach.switching p && (cur.isSome || decide (rbMode r ≠ 2) || decide ((s.mach.part p).closed ≥ round))) = true := by
      simpa only [hsw, Bool.not_false, Bool.true_and, Bool.or_eq_true, decide_eq_true_eq, or_assoc] using hopen
    have hreads := Mach.badRead_addition hread hslotRead
    suffices hadd : doContributionAdd s.mach p id t = (if full then added.tileReduced p id t slot r else added).fwdAll p by rwa [hadd] at hg
    unfold doContributionAdd
    split
    next b₁ r₁ hb₁ hr₁ =>
      cases hb.symm.trans hb₁
      cases hr.symm.trans hr₁
      dsimp only
      split
      next hnone => cases hturn.symm.trans hnone
      next c' k' hsome =>
        cases hturn.symm.trans hsome
        split
        next hnone => cases hstaged.symm.trans hnone
        next st' hsome =>
          cases hstaged.symm.trans hsome
          split
          next hwaits => cases ((Bool.not_eq_true' _).mp hwaits).symm.trans hready
          next =>
            split
            next hnone => cases hslot.symm.trans hnone
            next slot' area' hsome =>
              cases hslot.symm.trans hsome
              split
              next hlost => cases hreads.symm.trans hlost
              next => rfl
    next hnone => exact absurd hr (hnone b r hb)
  · intro s l x hrun harr hop hsub hgood p g old got
    exact gives_creditGrant hrun harr hop hsub hgood

end Sys2Proof.Machine
end

section
/-! SUPPORT. Proofs: WRITE, RADD32 and RADD16, and where an accepted write lands (R136, R260, R300, R306). -/

namespace Sys2Proof.Machine

/-! ## The rows of requests -/

/-- A well-formed request that arrives is handled by the row of its operation (Table 10-9). -/
theorem gives_request {s : State} {l : Nat} {x : Msg} {c : Instr} (hrun : s.mach.phase = .running) (hrow : msgRow l x = some c) (hop : x.op ≤ 2)
    (harr : s.mach.arrives l x = true) (hgood : s.mach.malformed l x = false) : Gives c s (doRequest l x s.mach) := by
  have hcases : x.op = 0 ∨ x.op = 1 ∨ x.op = 2 := by omega
  rcases hcases with h | h | h <;> (simp only [msgRow, h, Option.some.injEq] at hrow; subst hrow)
  · exact gives_onMsg (sel := x.op = 0 || x.op > 6) rfl hrun harr hgood (by simp [h])
  · exact gives_onMsg (sel := x.op = 1) rfl hrun harr hgood (by simp [h])
  · exact gives_onMsg (sel := x.op = 2) rfl hrun harr hgood (by simp [h])

/-- The partition is formed and has a job, running or saved, that requests can be for (Table 10-12). -/
def Mach.takesRequests (m : Mach) (p : Nat) : Prop :=
  m.formed p = true ∧ ∃ j ∈ m.jobs, j.part = p ∧ j.kind = 1 ∧ (j.st = .running ∨ ∃ a b, j.st = .saved a b)

section
variable {m : Mach} {l : Nat} {x : Msg}

/-- RADD16 needs version 2 (R295). -/
theorem doRequest_version (h : x.op = 2 ∧ x.mv < 2) : doRequest l x m = (m.taken l x).refuse x 9 := by
  simp only [doRequest, h, decide_true, Bool.and_self, if_true]

variable (hver : ¬ (x.op = 2 ∧ x.mv < 2))
include hver

/-- Where no job could take it a request is refused with 8. -/
theorem doRequest_no_job (h : ¬ m.takesRequests x.dpart) : doRequest l x m = (m.taken l x).refuse x 8 := by
  unfold doRequest
  dsimp only
  rw [if_neg (by simpa only [Bool.and_eq_true, decide_eq_true_eq] using hver)]
  split
  next => rfl
  next hbusy =>
    simp only [Bool.or_eq_true, Bool.not_eq_true', not_or, Bool.not_eq_false, List.any_eq_true, Bool.and_eq_true, decide_eq_true_eq] at hbusy
    obtain ⟨hformed, j, hj, ⟨hpart, hkind⟩, hst⟩ := hbusy
    refine absurd ⟨hformed, j, hj, hpart, hkind, ?_⟩ h
    split at hst
    next hrun => exact .inl hrun
    next a b hsaved => exact .inr ⟨a, b, hsaved⟩
    next => cases hst

/-- Where some job could take it, it goes as the partition takes its sender's messages. -/
theorem doRequest_job (h : m.takesRequests x.dpart) : doRequest l x m =
    match m.taker x with
    | .none => if x.pidx = 0 then ((m.taken l x).addObj (pix x.dpart) 0x1C 1).respond x 7 else m.taken l x
    | .hold =>
      if m.heldBytes x.dpart + x.data.length > 262144 then m
      else (m.taken l x).modPart x.dpart (fun q => { q with heldMsgs := q.heldMsgs ++ [x] })
    | .run =>
      match (m.part x.dpart).resident with
      | some k => if m.noCredit x.dpart k x then m else (m.taken l x).applyPacket l x
      | none => (m.taken l x).refuse x 5 := by
  obtain ⟨hformed, j, hj, hpart, hkind, hst⟩ := h
  unfold doRequest
  dsimp only
  rw [if_neg (by simpa only [Bool.and_eq_true, decide_eq_true_eq] using hver)]
  split
  next hidle =>
    simp only [hformed, Bool.not_true, Bool.false_or, Bool.not_eq_true', List.any_eq_false, Bool.and_eq_true, decide_eq_true_eq] at hidle
    refine absurd ⟨⟨hpart, hkind⟩, ?_⟩ (hidle j hj)
    obtain hst | ⟨a, b, hst⟩ := hst <;> rw [hst]
  next => rfl

/-- The running job takes it, unless its buffer has no credit (R260). -/
theorem doRequest_run (h : m.takesRequests x.dpart) (htake : m.taker x = .run) {k : Pricking} (hk : (m.part x.dpart).resident = some k) :
    doRequest l x m = if m.noCredit x.dpart k x then m else (m.taken l x).applyPacket l x := by
  rw [doRequest_job hver h]
  simp only [htake, hk]

end

/-! ## Where an accepted write lands -/

/-- A partition's clusters stand at 3000h + 40h p.03. -/
theorem Mach.clusters_of_obj {m m' : Mach} {p : Nat} (h : m'.obj (pix p) 3 = m.obj (pix p) 3) : m'.clusters p = m.clusters p :=
  congrArg (bitsOf 128) h

/-- A buffer lies where its record, the clusters and the pricking put it. -/
theorem Mach.buf_congr {m m' : Mach} {p : Nat} (h : m'.clusters p = m.clusters p) (k : Pricking) (id : Nat) :
    m'.buf p false k id = m.buf p false k id := by
  simp only [Mach.buf, h, Bool.false_eq_true, if_false]

@[simp] theorem Mach.cutFlow_objs (m : Mach) (p : Nat) (f : Flow) : (m.cutFlow p f).objs = m.objs := by
  unfold Mach.cutFlow
  dsimp only
  split <;> rfl

@[simp] theorem Mach.cutOlder_objs (m : Mach) (p : Nat) (x : Msg) : (m.cutOlder p x).objs = m.objs :=
  Mach.foldl_same Mach.objs (fun a f => a.cutFlow_objs p f) _ m

@[simp] theorem Mach.length_freeBytes (m : Mach) (n : Nat) : (m.freeBytes n).length = n := by simp [Mach.freeBytes]

/-- A write that is cut leaves its destination undefined, and no other byte changed (R136). -/
theorem SameOutside.cutFlow {m : Mach} (hm : Memory.wf m) (p : Nat) (f : Flow) : SameOutside [(f.dst, f.len)] m (m.cutFlow p f) := by
  have hmem : (m.modPart p (fun q => { q with flows := q.flows.filter (fun g => g ≠ f) })).mem = m.mem := rfl
  unfold Mach.cutFlow
  dsimp only
  generalize m.modPart p (fun q => { q with flows := q.flows.filter (fun g => g ≠ f) }) = dropped at hmem ⊢
  split
  · exact SameOutside.of_mem _ hmem
  · have hdropped : Memory.wf { dropped with free := dropped.free + 1 } := Memory.wf_of_mem hmem hm
    have hwr := SameOutside.wr hdropped f.dst (dropped.freeBytes f.len)
    rw [Mach.length_freeBytes] at hwr
    exact SameOutside.trans (SameOutside.of_mem _ hmem) hwr

/-- The bytes of a write's packet are in its buffer, at FOFF and its place. -/
theorem Mach.landPacket_write_mem {m : Mach} {p : Nat} {k : Pricking} {x : Msg} {b : BufAt} (hop : x.op = 0) (hb : m.buf p false k x.fbuf = some b) :
    (m.landPacket p k x).mem = (m.wrAll [(b.key + x.foff * 64 + x.pidx * packetBytes x.mv, x.data)]).mem := by
  simp only [Mach.landPacket, hop, if_true, hb, Mach.put_mem]
  rfl

/-- The module in which an accepted packet lands: packet 0 of a write first ends what its unit has left incomplete. -/
def Mach.cutBefore (m : Mach) (x : Msg) : Mach := if x.pidx = 0 then m.cutOlder x.dpart x else m

@[simp] theorem Mach.cutBefore_objs (m : Mach) (x : Msg) : (m.cutBefore x).objs = m.objs := by
  unfold Mach.cutBefore
  split <;> simp

theorem Mach.cutBefore_later {m : Mach} {x : Msg} (h : x.pidx ≠ 0) : m.cutBefore x = m := if_neg h

/-- The flows of the partition with the one that a packet 0 opens (R300). -/
def Mach.flowsWith (m : Mach) (k : Pricking) (l : Nat) (x : Msg) : List Flow :=
  if x.pidx = 0 then (m.part x.dpart).flows ++ [m.flowOf x.dpart k l x] else (m.part x.dpart).flows

/-- The packet is the last of its request (R300). -/
abbrev lastPacket (x : Msg) : Prop := (x.pidx + 1) * packetBytes x.mv ≥ 64 * (x.lenq + 1)

/-- The flows once a packet of one of them has been taken. -/
def flowsAfter (x : Msg) (fs : List Flow) : List Flow :=
  if lastPacket x then fs.filter (fun f => !f.of x) else fs.map (fun f => if f.of x then { f with next := x.pidx + 1 } else f)

/-- The module with an accepted packet of a write landed. -/
def Mach.landed (m : Mach) (k : Pricking) (l : Nat) (x : Msg) : Mach :=
  ((m.cutBefore x).modPart x.dpart (fun q => { q with flows := flowsAfter x ((m.cutBefore x).flowsWith k l x) })).landPacket x.dpart k x

/-- The flow of a packet is open, or opens with it. -/
theorem Mach.flowsWith_cutBefore {m : Mach} {k : Pricking} {l : Nat} {x : Msg}
    (h : x.pidx = 0 ∨ ∃ f ∈ (m.part x.dpart).flows, f.of x = true ∧ f.next = x.pidx) :
    ((m.cutBefore x).flowsWith k l x).any (fun f => f.of x && f.next = x.pidx) = true := by
  by_cases hfirst : x.pidx = 0
  · simp [Mach.flowsWith, hfirst, Flow.of, Mach.flowOf]
  · obtain ⟨f, hf, hof, hnext⟩ := h.resolve_left hfirst
    rw [Mach.cutBefore_later hfirst, Mach.flowsWith, if_neg hfirst, List.any_eq_true]
    exact ⟨f, hf, by simp [hof, hnext]⟩

/-- A packet of a write that is not refused, and whose flow is open or opens with it, lands; the last one is answered. -/
theorem Mach.applyPacket_write {m : Mach} {l : Nat} {x : Msg} {k : Pricking} (hop : x.op = 0) (hk : (m.part x.dpart).resident = some k)
    (hcode : x.pidx = 0 → m.farCode x.dpart k x = 0)
    (hflow : ((m.cutBefore x).flowsWith k l x).any (fun f => f.of x && f.next = x.pidx) = true) :
    m.applyPacket l x = if lastPacket x then
        (if x.fmken then (m.landed k l x).farSignal x.dpart (aggOf l) x.fmk 1 else m.landed k l x).respond x 0
      else m.landed k l x := by
  have hcut : (if (decide (x.pidx = 0) && decide (x.op = 0)) = true then m.cutOlder x.dpart x else m) = m.cutBefore x := by
    simp only [hop, decide_true, Bool.and_true, decide_eq_true_eq, Mach.cutBefore]
  have hgood : (if x.pidx = 0 then m.farCode x.dpart k x else 0) = 0 := by
    split
    next hfirst => exact hcode hfirst
    next => rfl
  simp only [Mach.flowsWith] at hflow
  simp only [Mach.applyPacket, hk, hgood, hcut, hflow, ne_eq, not_true_eq_false, Bool.not_true, Bool.false_eq_true, if_false]
  rfl

/-- The bytes of a write that is accepted are in its buffer. -/
theorem Mach.applyPacket_write_mem {m : Mach} {l : Nat} {x : Msg} {k : Pricking} {b : BufAt} (hop : x.op = 0)
    (hk : (m.part x.dpart).resident = some k) (hb : m.buf x.dpart false k x.fbuf = some b) (hcode : x.pidx = 0 → m.farCode x.dpart k x = 0)
    (hflow : x.pidx = 0 ∨ ∃ f ∈ (m.part x.dpart).flows, f.of x = true ∧ f.next = x.pidx) :
    (m.applyPacket l x).mem = ((m.cutBefore x).wrAll [(b.key + x.foff * 64 + x.pidx * packetBytes x.mv, x.data)]).mem := by
  have hclusters : (m.cutBefore x).clusters x.dpart = m.clusters x.dpart := Mach.clusters_of_obj (Mach.obj_eq_of_objs (Mach.cutBefore_objs m x) _ _)
  rw [Mach.applyPacket_write hop hk hcode (Mach.flowsWith_cutBefore hflow)]
  simp only [Mach.mem_ite, Mach.respond_mem, Mach.farSignal_mem, ite_self]
  refine Mach.landPacket_write_mem hop ?_
  rw [← hb]
  exact Mach.buf_congr hclusters k x.fbuf

/-- Settles O37: a request is refused, held or applied as its version, its job and its taker say; an applied write stores its data and no more. -/
theorem requestsLand : Obligations.RequestsLand := by
  refine ⟨?_, ?_, fun m p f hm => SameOutside.cutFlow hm p f⟩
  · intro s l x c hrun hrow hop harr hgood p t busy
    have hg := gives_request hrun hrow hop harr hgood
    refine ⟨fun h₂ hmv => ?_, fun hver hidle => ?_, fun hver hbusy => ⟨fun hnone => ?_, fun hhold hroom => ?_, fun hhold hfull => ?_,
      fun k htake hk => ⟨fun hcredit => ?_, fun hcredit => ?_⟩⟩⟩
    · rwa [doRequest_version ⟨h₂, hmv⟩] at hg
    · rwa [doRequest_no_job hver hidle] at hg
    · rwa [doRequest_job hver hbusy, hnone] at hg
    · rw [doRequest_job hver hbusy, hhold] at hg
      dsimp only at hg
      rwa [if_neg (Nat.not_lt.mpr hroom)] at hg
    · rw [doRequest_job hver hbusy, hhold] at hg
      dsimp only at hg
      rwa [if_pos hfull] at hg
    · rwa [doRequest_run hver hbusy htake hk, if_pos hcredit] at hg
    · rwa [doRequest_run hver hbusy htake hk, if_neg (Bool.eq_false_iff.mp hcredit)] at hg
  · intro m l p x k b hp hop hk hb hcode hflow
    subst hp
    exact Stores.of_mem (Mach.applyPacket_write_mem hop hk hb hcode hflow)

end Sys2Proof.Machine
end

section
/-! SUPPORT. Proofs: state reads, the start of a sweep, and the update of a tile (R262, R264, R265, R270 to R272, R276). -/

namespace Sys2Proof.Machine

/-! ## Where things lie -/

/-- The key of a place in a resident buffer rests on the prickings and the clusters. -/
theorem Mach.bufKey_congr {m m' : Mach} {p : Nat} (hparts : m'.parts = m.parts) (h : m'.clusters p = m.clusters p) (id off : Nat) :
    m'.bufKey p id off = m.bufKey p id off := by
  have hpart : m'.part p = m.part p := by simp only [Mach.part, hparts]
  simp only [Mach.bufKey, hpart, Mach.buf_congr h]

/-! ## STATE_READ_COMPLETE -/

/-- A request to one range changes the state of its stack alone. -/
theorem SameObjs.touch_one (m : Mach) (a n : Nat) : SameObjs [okey (0x4100 + a / 2 ^ 35) 2] m (m.touch [(a, n)]) := by
  unfold Mach.touch
  refine List.foldlRecOn (motive := fun x : Mach => SameObjs [okey (0x4100 + a / 2 ^ 35) 2] m x) _ _ (SameObjs.refl m _) fun x hx s hs => ?_
  obtain ⟨r, hr, rfl⟩ := List.mem_map.mp (List.mem_dedup.mp hs)
  obtain rfl := List.mem_singleton.mp (List.mem_filter.mp hr).1
  exact SameObjs.trans hx (SameObjs.touchStack x _)

theorem Mach.badRead_touch (m : Mach) (ts rs : List (Nat × Nat)) : (m.touch ts).badRead rs = m.badRead rs := by
  rw [Mach.touch_only]
  rfl

@[simp] theorem Mach.setRb_cores (m : Mach) (p id : Nat) (b : RBuf) : (m.setRb p id b).cores = m.cores := rfl
@[simp] theorem Mach.setRb_objs (m : Mach) (p id : Nat) (b : RBuf) : (m.setRb p id b).objs = m.objs := rfl

/-- No object at sub-index 3 tells of a stack. -/
theorem Mach.clusters_touch_one (m : Mach) (a n p : Nat) : (m.touch [(a, n)]).clusters p = m.clusters p :=
  Mach.clusters_of_obj (SameObjs.touch_one m a n _ _ (by simp only [List.mem_singleton, okey]; omega))

section
variable {m : Mach} {p id t a : Nat} {b : RBuf} {r : List Byte} {ts : TileSt}

/-- Where a tile's state image lies in device memory, and its bytes (R256, R262). -/
def Mach.stateSource (m : Mach) (p : Nat) (r : List Byte) (t : Nat) : Nat × Nat :=
  (m.bufKey p (teSbuf (m.rbEntry p r t)) (64 * teSoff (m.rbEntry p r t)), imageBytes (m.tileOpt p (m.rbEntry p r t)))

/-- The module with a tile's state image read into its state area, and the tile loaded (R262). -/
def Mach.stateLoaded (m : Mach) (p id t : Nat) (b : RBuf) (r : List Byte) (ts : TileSt) (a : Nat) : Mach :=
  ((m.touch [m.stateSource p r t]).wr (m.rbAreaKey p r a) (m.rd (m.stateSource p r t).1 (m.stateSource p r t).2)).setRb p id
    { b with tiles := b.tiles.put t { ts with loaded := true } }

/-- A state image that reads well is loaded. -/
theorem doStateRead_good (hb : m.rb p id = some b) (hr : m.rbRec p id = some r) (hts : b.tiles.get? t = some ts) (ha : ts.area = some a)
    (hload : ts.loaded = false) (hread : m.badRead [(m.rbEntryKey p r t, 32), m.stateSource p r t] = none) :
    doStateRead m p id t = m.stateLoaded p id t b r ts a := by
  have hclusters := m.clusters_touch_one (m.stateSource p r t).1 (m.stateSource p r t).2 p
  have hentry := Mach.rbEntryKey_congr hclusters r t
  have harea : (m.touch [m.stateSource p r t]).rbAreaKey p r a = m.rbAreaKey p r a := by simp only [Mach.rbAreaKey, Mach.rbKey, hclusters]
  have hgood : (m.touch [m.stateSource p r t]).badRead [((m.touch [m.stateSource p r t]).rbEntryKey p r t, 32), m.stateSource p r t] = none := by
    rw [Mach.badRead_touch, hentry, hread]
  have hbytes := Mach.rd_eq_of_mem (Mach.touch_mem m [m.stateSource p r t]) (m.stateSource p r t).1 (m.stateSource p r t).2
  rw [Mach.stateLoaded, ← harea, ← hbytes]
  simp only [doStateRead, hb, hr, hts, ha, hload, Bool.false_eq_true, if_false]
  split
  next k hlost => cases hgood.symm.trans hlost
  next => rfl

/-- A state image that is loaded is stored in its area; no core changes, and of the objects the state of its stack alone. -/
theorem Mach.stateLoaded_effect (m : Mach) (p id t : Nat) (b : RBuf) (r : List Byte) (ts : TileSt) (a : Nat) :
    let src := m.stateSource p r t
    (m.stateLoaded p id t b r ts a).mem = (m.wrAll [(m.rbAreaKey p r a, m.rd src.1 src.2)]).mem ∧
      (m.stateLoaded p id t b r ts a).rb p id = some { b with tiles := b.tiles.put t { ts with loaded := true } } ∧
      (m.stateLoaded p id t b r ts a).cores = m.cores ∧ SameObjs [okey (0x4100 + src.1 / 2 ^ 35) 2] m (m.stateLoaded p id t b r ts a) := by
  intro src
  have hasked : SameObjs [okey (0x4100 + src.1 / 2 ^ 35) 2] m (m.touch [src]) := SameObjs.touch_one m src.1 src.2
  unfold Mach.stateLoaded
  refine ⟨?_, ?_, ?_, SameObjs.trans hasked (SameObjs.of_objs _ ?_)⟩
  · rw [Mach.setRb_mem, Mach.wr_mem, Mach.touch_mem]
    rfl
  · rw [Mach.rb_setRb_same]
  · rw [Mach.setRb_cores, Mach.wr_cores, Mach.touch_cores]
  · rw [Mach.setRb_objs, Mach.wr_objs]

end

theorem gives_stateReadComplete {s : State} (p id t : Nat) (hrun : s.mach.phase = .running) :
    Gives (.stateReadComplete p id t) s (doStateRead s.mach p id t) :=
  gives_step _ s (fun m => doStateRead m p id t) rfl hrun

/-! ## SWEEP_START -/

section
variable {m : Mach} {p : Nat} {k : Pricking} (hk : (m.part p).resident = some k)
include hk

theorem doSweepStart_waits (h : ∃ it ∈ k.updateTiles, m.tileReady p it = false) : doSweepStart m p = m := by
  have hnot : k.updateTiles.all (m.tileReady p) = false := by
    obtain ⟨it, hit, hwait⟩ := h
    exact List.all_eq_false.mpr ⟨it, hit, Bool.eq_false_iff.mp hwait⟩
  simp only [doSweepStart, hk, hnot, Bool.and_false, Bool.false_eq_true, if_false]

theorem doSweepStart_begins (hsweep : m.obj (0x6480 + p) 1 = 1) (hupd : k.updates ≠ []) (hnot : (m.part p).sweep = false)
    (hall : ∀ it ∈ k.updateTiles, m.tileReady p it = true) : doSweepStart m p = m.setPart p { m.part p with sweep := true } := by
  have hready : k.updateTiles.all (m.tileReady p) = true := List.all_eq_true.mpr hall
  have hsome : k.updates.isEmpty = false := by simpa using hupd
  unfold doSweepStart
  split
  next hnone => cases hk.symm.trans hnone
  next k' hk' =>
    cases hk.symm.trans hk'
    exact if_pos (by simp only [hsweep, hready, hnot, hsome, decide_true, Bool.not_false, Bool.and_self])

end

theorem gives_sweepStart {s : State} (p : Nat) (hrun : s.mach.phase = .running) : Gives (.sweepStart p) s (doSweepStart s.mach p) :=
  gives_step _ s (fun m => doSweepStart m p) rfl hrun

/-! ## TILE_UPDATE: the new values -/

/-- The elements of a tile at a key (R256). -/
def Mach.tileAt (m : Mach) (key : Nat) : List Val := (tileVals (m.rd key 16384)).map val32

/-- The elements updated from the sum at `gk` and the state image at `sk`: W, M, V and flags; without a second moment V is 0 (R265, R270). -/
def Mach.updatedElems (m : Mach) (rc : List Byte) (rs : RecipeSt) (gk sk : Nat) : List (Val × Val × Val × Nat) :=
  let vs := if imageBytes (rcOpt rc) = 49152 then m.tileAt (sk + 32768) else (m.tileAt gk).map (fun _ => Val.zero false)
  (((m.tileAt gk).zip (m.tileAt sk)).zip ((m.tileAt (sk + 16384)).zip vs)).map (fun q => updateElem rc rs q.1.1 q.1.2 q.2.1 q.2.2)

/-- The state image of updated elements (R256). -/
def newImage (rc : List Byte) (new : List (Val × Val × Val × Nat)) : List Byte :=
  packElems 32 ((new.map (fun q => q.1)).map rne32) ++ packElems 32 (new.map (fun q => rne32 q.2.1)) ++
    (if imageBytes (rcOpt rc) = 49152 then packElems 32 (new.map (fun q => rne32 q.2.2.1)) else [])

/-- The key of a tile's state image: its state area, or its place in the state buffer (R261, R262). -/
def Mach.stateKey (m : Mach) (p : Nat) (r : List Byte) (t : Nat) (ts : TileSt) : Nat :=
  match ts.area with
  | some a => m.rbAreaKey p r a
  | none => (m.stateSource p r t).1

/-- The working copy of updated elements, in its format and layout, with its flags (R271). -/
def Mach.workingCopy (m : Mach) (p id t round : Nat) (e rc : List Byte) (new : List (Val × Val × Val × Nat)) : List Byte × Nat :=
  tileImage (teWfmt e) (bit (teFlags e) 1) (wcRounds id round t (m.srKeyOf p false) (leAt rc 48 1)) (new.map (fun q => q.1))

/-! ## TILE_UPDATE: what is stored -/

/-- The new state image stored and counted: the flags of the update, and a gradient that is no finite number (R265, R266). -/
def Mach.imageStored (m : Mach) (p sk : Nat) (image : List Byte) (fl : Nat) (odd : Bool) : Mach :=
  let m := (m.wr sk image).setFlags p fl
  if odd then m.addObj (0x6480 + p) 0xB 1 else m

/-- The working copy stored, when the tile has one (R271). -/
def Mach.copyStored (m : Mach) (p id t round : Nat) (e rc : List Byte) (new : List (Val × Val × Val × Nat)) : Mach :=
  if teWbuf e = 0xFFFF || teWfmt e = 0xFF then m
  else
    let c := m.workingCopy p id t round e rc new
    (m.put (m.bufKey p (teWbuf e) (64 * teWoff e)) c.1).setFlags p c.2

/-- The update counted in GCTAG's slot, UMK signalled, and a slow tile's image written back (R262, R265, R272). -/
def Mach.updateEnded (m : Mach) (p : Nat) (r e : List Byte) (new : List (Val × Val × Val × Nat)) (back : Bool) (sb : Nat)
    (image : List Byte) : Mach :=
  let m := (m.countStore p (bit (leAt r 26 1) 1) (leAt r 25 1) (chunks 32 129 (new.map (fun q => q.1)))).signalUmk p r e
  if back then m.put sb image else m

/-- A tile updated: what is stored, the slot left, and the CRC of the new weights kept (R265, R276). -/
def Mach.tileUpdated (m : Mach) (p id t : Nat) (b : RBuf) (r rc : List Byte) (ts : TileSt) : Mach :=
  let e := m.rbEntry p r t
  let gk := m.rbSlotKey p r ts.slot
  let sk := m.stateKey p r t ts
  let new := m.updatedElems rc (m.recipeSt p (teRid e)) gk sk
  let image := newImage rc new
  let stored := m.imageStored p sk image (new.foldl (fun a q => a ||| q.2.2.2) 0) ((m.tileAt gk).any (fun v => v.isNan || v.isInf))
  let copied := stored.copyStored p id t (m.obj (0x6480 + p) 2) e rc new
  (copied.updateEnded p r e new ts.area.isSome (m.stateSource p r t).1 image).setRb p id
    { b with tiles := b.tiles.del t, crcs := b.crcs.put t (crc64 0 (image.take 16384)) }

section
variable {m : Mach} {p id t : Nat} {k : Pricking} {b : RBuf} {r rc : List Byte} {ts : TileSt}

/-- A tile whose sum and state are there and whose turn it is, with good reads, is updated. -/
theorem doTileUpdate_updates (hb : m.rb p id = some b) (hk : (m.part p).resident = some k) (hr : k.rbuf id = some r)
    (hts : b.tiles.get? t = some ts) (hmode : rbMode r = 2) (hfull : ts.full = true) (hloaded : ts.loaded = true) (hsw : m.switching p = false)
    (hturn : m.obj (0x6480 + p) 1 = 0 ∨ ((m.part p).sweep = true ∧ k.updateTiles.find? (fun it => m.tileReady p it) = some (id, t)))
    (hrc : k.recipe (teRid (m.rbEntry p r t)) = some rc)
    (hread : m.badRead [(m.rbSlotKey p r ts.slot, 16384), (m.stateKey p r t ts, imageBytes (rcOpt rc)), (m.rbEntryKey p r t, 32)] = none) :
    doTileUpdate m p id t = m.tileUpdated p id t b r rc ts := by
  have hturn' : (decide (m.obj (0x6480 + p) 1 = 0) || ((m.part p).sweep && (k.updateTiles.find? (fun it => m.tileReady p it)) == some (id, t))) =
      true := by
    simpa only [Bool.or_eq_true, decide_eq_true_eq, Bool.and_eq_true, beq_iff_eq] using hturn
  unfold doTileUpdate
  split
  next b' k' hb' hk' =>
    cases hb.symm.trans hb'
    cases hk.symm.trans hk'
    split
    next r' ts' hr' hts' =>
      cases hr.symm.trans hr'
      cases hts.symm.trans hts'
      dsimp only
      rw [if_neg (by simp only [hmode, hfull, hloaded, hturn', hsw]; decide)]
      split
      next hnone => cases hrc.symm.trans hnone
      next rc' hrc' =>
        cases hrc.symm.trans hrc'
        split
        next hlost => cases hread.symm.trans hlost
        next => rfl
    next hnone => exact absurd hts (hnone r ts hr)
  next hnone => exact absurd hk (hnone b k hb)

end

/-! ## TILE_UPDATE: what it leaves -/

theorem newImage_eq (rc : List Byte) (new : List (Val × Val × Val × Nat)) : newImage rc new =
    packElems 32 (new.map (fun q => rne32 q.1)) ++ packElems 32 (new.map (fun q => rne32 q.2.1)) ++
      (if imageBytes (rcOpt rc) = 49152 then packElems 32 (new.map (fun q => rne32 q.2.2.1)) else []) := by
  rw [newImage, List.map_map]
  rfl

/-- Storing the image changes memory, the flags and the count of odd gradients: nothing else. -/
theorem Mach.imageStored_only (m : Mach) (p sk : Nat) (image : List Byte) (fl : Nat) (odd : Bool) :
    m.imageStored p sk image fl odd = { m with
      mem := (m.wr sk image).mem
      bad := (m.wr sk image).bad
      objs := (m.imageStored p sk image fl odd).objs } ∧
    SameObjs [okey (0x6080 + p) 2, okey (0x6480 + p) 0xB] m (m.imageStored p sk image fl odd) := by
  have hflags : SameObjs [okey (0x6080 + p) 2, okey (0x6480 + p) 0xB] m ((m.wr sk image).setFlags p fl) :=
    SameObjs.mono (by simp) (SameObjs.setFlags (m.wr sk image) p fl)
  cases odd with
  | false => exact ⟨by simp only [Mach.imageStored, Bool.false_eq_true, if_false]; rw [Mach.setFlags_only]; rfl, hflags⟩
  | true =>
    refine ⟨?_, SameObjs.trans hflags (SameObjs.addObj _ _ _ _ (by simp))⟩
    simp only [Mach.imageStored, if_true, Mach.addObj]
    rw [Mach.setFlags_only]
    rfl

/-- A working copy rests on the seed of the partition and on its job (R61, R271). -/
theorem Mach.workingCopy_congr {m m' : Mach} {p : Nat} (hseed : m'.obj (0x6080 + p) 1 = m.obj (0x6080 + p) 1) (hjobs : m'.jobs = m.jobs)
    (id t round : Nat) (e rc : List Byte) (new : List (Val × Val × Val × Nat)) :
    m'.workingCopy p id t round e rc new = m.workingCopy p id t round e rc new := by
  have hjob : m'.jobOf p false = m.jobOf p false := by simp only [Mach.jobOf, Bool.false_eq_true, if_false, Mach.resJob, hjobs]
  simp only [Mach.workingCopy, Mach.srKeyOf, hseed, hjob]

@[simp] theorem Mach.put_cores (m : Mach) (key : Nat) (bs : List Byte) : (m.put key bs).cores = m.cores := by
  rw [Mach.put, Mach.wr_cores, Mach.touch_cores]

@[simp] theorem Mach.setFlags_cores (m : Mach) (p fl : Nat) : (m.setFlags p fl).cores = m.cores := by rw [Mach.setFlags_only]

/-- The piece of a tile's working copy, when it has one (R271). -/
def Mach.copyPieces (m : Mach) (p id t round : Nat) (e rc : List Byte) (new : List (Val × Val × Val × Nat)) : List (Nat × List Byte) :=
  if teWbuf e = 0xFFFF ∨ teWfmt e = 0xFF then []
  else [(m.bufKey p (teWbuf e) (64 * teWoff e), (m.workingCopy p id t round e rc new).1)]

theorem Mach.copyStored_effect (m : Mach) (p id t round : Nat) (e rc : List Byte) (new : List (Val × Val × Val × Nat)) :
    (m.copyStored p id t round e rc new).mem = (m.wrAll (m.copyPieces p id t round e rc new)).mem ∧
      (m.copyStored p id t round e rc new).cores = m.cores := by
  by_cases h : teWbuf e = 0xFFFF ∨ teWfmt e = 0xFF
  · simp [Mach.copyStored, Mach.copyPieces, h, Mach.wrAll]
  · simp only [Mach.copyStored, Mach.copyPieces, if_neg h, Bool.or_eq_true, decide_eq_true_eq, Mach.setFlags_mem, Mach.setFlags_cores]
    exact ⟨Mach.put_mem .., Mach.put_cores ..⟩

theorem Mach.signalUmk_cores (m : Mach) (p : Nat) (r e : List Byte) : (m.signalUmk p r e).cores = m.cores := by
  unfold Mach.signalUmk
  split <;> rfl

theorem Mach.updateEnded_effect (m : Mach) (p : Nat) (r e : List Byte) (new : List (Val × Val × Val × Nat)) (back : Bool) (sb : Nat)
    (image : List Byte) : (m.updateEnded p r e new back sb image).mem = (m.wrAll (if back then [(sb, image)] else [])).mem ∧
      (m.updateEnded p r e new back sb image).cores = m.cores := by
  have hcount := (Mach.countStore_only m p (bit (leAt r 26 1) 1) (leAt r 25 1) (chunks 32 129 (new.map (fun q => q.1)))).1
  generalize hended : (m.countStore p (bit (leAt r 26 1) 1) (leAt r 25 1) (chunks 32 129 (new.map (fun q => q.1)))).signalUmk p r e = ended
  have hmem : ended.mem = m.mem := by rw [← hended, Mach.signalUmk_mem, Mach.countStore_mem]
  have hcores : ended.cores = m.cores := by rw [← hended, Mach.signalUmk_cores, hcount]
  simp only [Mach.updateEnded, hended]
  cases back with
  | false => exact ⟨hmem, hcores⟩
  | true => exact ⟨(Mach.put_mem ..).trans (Mach.wrAll_mem_congr hmem [(sb, image)]), (Mach.put_cores ..).trans hcores⟩

section
variable (m : Mach) (p id t : Nat) (b : RBuf) (r rc : List Byte) (ts : TileSt)

/-- The new elements of a tile. -/
def Mach.tileElems : List (Val × Val × Val × Nat) :=
  m.updatedElems rc (m.recipeSt p (teRid (m.rbEntry p r t))) (m.rbSlotKey p r ts.slot) (m.stateKey p r t ts)

/-- The pieces that a tile's update stores: the state image, the working copy, a slow tile's image in device memory (R262, R265, R271). -/
def Mach.updatePieces : List (Nat × List Byte) :=
  let image := newImage rc (m.tileElems p t r rc ts)
  [(m.stateKey p r t ts, image)] ++ m.copyPieces p id t (m.obj (0x6480 + p) 2) (m.rbEntry p r t) rc (m.tileElems p t r rc ts) ++
    if ts.area.isSome then [((m.stateSource p r t).1, image)] else []

/-- An update stores its pieces, and no core changes. -/
theorem Mach.tileUpdated_effect : (m.tileUpdated p id t b r rc ts).mem = (m.wrAll (m.updatePieces p id t r rc ts)).mem ∧
    (m.tileUpdated p id t b r rc ts).cores = m.cores := by
  let new := m.tileElems p t r rc ts
  let e := m.rbEntry p r t
  obtain ⟨hfields, hobjs⟩ := m.imageStored_only p (m.stateKey p r t ts) (newImage rc new) (new.foldl (fun a q => a ||| q.2.2.2) 0)
    ((m.tileAt (m.rbSlotKey p r ts.slot)).any (fun v => v.isNan || v.isInf))
  generalize hstored : m.imageStored p (m.stateKey p r t ts) (newImage rc new) (new.foldl (fun a q => a ||| q.2.2.2) 0)
    ((m.tileAt (m.rbSlotKey p r ts.slot)).any (fun v => v.isNan || v.isInf)) = stored at hfields hobjs
  have hmem : stored.mem = (m.wrAll [(m.stateKey p r t ts, newImage rc new)]).mem := by rw [hfields]; rfl
  have hcores : stored.cores = m.cores := by rw [hfields]
  have hclusters : stored.clusters p = m.clusters p := by
    refine Mach.clusters_of_obj (hobjs _ _ ?_)
    simp only [List.mem_cons, List.not_mem_nil, or_false, not_or, okey]
    omega
  have hseed : stored.obj (0x6080 + p) 1 = m.obj (0x6080 + p) 1 := by
    refine hobjs _ _ ?_
    simp only [List.mem_cons, List.not_mem_nil, or_false, not_or, okey]
    omega
  have hcopy : stored.copyPieces p id t (m.obj (0x6480 + p) 2) e rc new = m.copyPieces p id t (m.obj (0x6480 + p) 2) e rc new := by
    simp only [Mach.copyPieces, Mach.bufKey_congr (show stored.parts = m.parts by rw [hfields]) hclusters,
      Mach.workingCopy_congr hseed (show stored.jobs = m.jobs by rw [hfields])]
  obtain ⟨hmem', hcores'⟩ := stored.copyStored_effect p id t (m.obj (0x6480 + p) 2) e rc new
  rw [hcopy] at hmem'
  obtain ⟨hmem'', hcores''⟩ := (stored.copyStored p id t (m.obj (0x6480 + p) 2) e rc new).updateEnded_effect p r e new ts.area.isSome
    (m.stateSource p r t).1 (newImage rc new)
  have hend : m.tileUpdated p id t b r rc ts = ((stored.copyStored p id t (m.obj (0x6480 + p) 2) e rc new).updateEnded p r e new ts.area.isSome
      (m.stateSource p r t).1 (newImage rc new)).setRb p id
        { b with tiles := b.tiles.del t, crcs := b.crcs.put t (crc64 0 ((newImage rc new).take 16384)) } := by
    rw [← hstored]
    rfl
  rw [hend]
  constructor
  · rw [Mach.setRb_mem, hmem'', Mach.updatePieces]
    simp only [Mach.wrAll_mem, List.foldl_append] at hmem hmem' ⊢
    rw [hmem', hmem]
  · rw [Mach.setRb_cores, hcores'', hcores', hcores]

end

theorem gives_tileUpdate {s : State} (p id t : Nat) (hrun : s.mach.phase = .running) :
    Gives (.tileUpdate p id t) s (doTileUpdate s.mach p id t) :=
  gives_step _ s (fun m => doTileUpdate m p id t) rfl hrun

end Sys2Proof.Machine
end

section
/-! SUPPORT. Proofs: the close of an update round, and the update engine as a whole (R262 to R272, R276). -/

namespace Sys2Proof.Machine

/-! ## Recipes advance (R269) -/

/-- Recipes of a partition stand apart by their numbers. -/
theorem Mach.recipeSt_setRecipe (m : Mach) (p i j : Nat) (v : RecipeSt) :
    (m.setRecipe p i v).recipeSt p j = if i = j then v else m.recipeSt p j := by
  simp only [Mach.recipeSt, Mach.setRecipe, AMap.get_put, Nat.add_left_cancel_iff]

/-- A routine on recipes of different numbers takes each from what it was, and leaves every other. -/
theorem Mach.foldl_setRecipe (m : Mach) (p : Nat) (f : List Byte → RecipeSt → RecipeSt) (rs : List (List Byte))
    (hnd : (rs.map (fun r => leAt r 5 1)).Nodup) :
    (∀ r ∈ rs, (rs.foldl (fun x r => x.setRecipe p (leAt r 5 1) (f r (x.recipeSt p (leAt r 5 1)))) m).recipeSt p (leAt r 5 1) =
        f r (m.recipeSt p (leAt r 5 1))) ∧
      ∀ i, i ∉ rs.map (fun r => leAt r 5 1) →
        (rs.foldl (fun x r => x.setRecipe p (leAt r 5 1) (f r (x.recipeSt p (leAt r 5 1)))) m).recipeSt p i = m.recipeSt p i := by
  induction rs generalizing m with
  | nil => exact ⟨fun r hr => absurd hr List.not_mem_nil, fun i _ => rfl⟩
  | cons a t ih =>
    rw [List.map_cons, List.nodup_cons] at hnd
    obtain ⟨ha, ht⟩ := hnd
    obtain ⟨heach, hother⟩ := ih (m.setRecipe p (leAt a 5 1) (f a (m.recipeSt p (leAt a 5 1)))) ht
    refine ⟨fun r hr => ?_, fun i hi => ?_⟩
    · rw [List.foldl_cons]
      rcases List.mem_cons.mp hr with rfl | hr
      · rw [hother _ ha, Mach.recipeSt_setRecipe, if_pos rfl]
      · have hne : leAt a 5 1 ≠ leAt r 5 1 := fun h => ha (h ▸ List.mem_map_of_mem hr)
        rw [heach r hr, Mach.recipeSt_setRecipe, if_neg hne]
    · rw [List.map_cons, List.mem_cons, not_or] at hi
      rw [List.foldl_cons, hother i hi.2, Mach.recipeSt_setRecipe, if_neg (Ne.symm hi.1)]

/-! ## The close of a round -/

/-- The digests that a close publishes, by partition and group (R276, R277). -/
def Mach.dueDigests (m : Mach) (p : Nat) (k : Pricking) : List (Nat × Nat × Nat) :=
  if m.digestDue p (m.obj (0x6480 + p) 2 + 1) then
    (List.range 16).filterMap (fun g => (m.digestOf p g k).map (fun d => (p * 16 + g, (m.obj (0x6480 + p) 2 + 1, d))))
  else []

/-- The module with the due digests entered. -/
def Mach.digestsEntered (m : Mach) (p : Nat) (k : Pricking) : Mach :=
  { m with digests := (m.dueDigests p k).foldl (fun (a : AMap (Nat × Nat)) (d : Nat × Nat × Nat) => a.put d.1 d.2) m.digests }

/-- The module with the round counted, its recipes advanced, and the engine ready for the next (R266, R269). -/
def Mach.roundCounted (m : Mach) (p n : Nat) : Mach :=
  ((m.eachRecipe p (fun r s => recipeValues r (recipeAdvance r s))).setObj (0x6480 + p) 2 n).modPart p (fun x =>
    { x with closed := x.closed + 1, sweep := false, rbufs := x.rbufs.map (fun (e : Nat × RBuf) => (e.1, { e.2 with crcs := [] })) })

section
variable {m : Mach} {p : Nat} {k : Pricking} (hk : (m.part p).resident = some k)
include hk

/-- The recipes of the installed pricking each take the routine once. -/
theorem Mach.recipeSt_eachRecipe (f : List Byte → RecipeSt → RecipeSt) (hnd : (k.recipes.map (fun r => leAt r 5 1)).Nodup) :
    ∀ r ∈ k.recipes, (m.eachRecipe p f).recipeSt p (leAt r 5 1) = f r (m.recipeSt p (leAt r 5 1)) := by
  simp only [Mach.eachRecipe, hk]
  exact (Mach.foldl_setRecipe m p f k.recipes hnd).1

theorem Mach.closeRound_eq : m.closeRound p =
    let counted := (m.digestsEntered p k).roundCounted p (m.obj (0x6480 + p) 2 + 1)
    if (m.dueDigests p k).isEmpty then counted else counted.raise (576 + p) := by
  unfold Mach.closeRound
  split
  next hnone => cases hk.symm.trans hnone
  next k' hk' => cases hk.symm.trans hk'; rfl

end

/-- What the close of a round of `m` leaves in `m'`: the round counted, every recipe advanced with its values, the update timing started over, and the
memory and the cores as they were (R266, R269). -/
def RoundClosed (m : Mach) (p : Nat) (k : Pricking) (m' : Mach) : Prop :=
  m'.obj (0x6480 + p) 2 = m.obj (0x6480 + p) 2 + 1 ∧ (m'.part p).closed = (m.part p).closed + 1 ∧ (m'.part p).sweep = false ∧ m'.mem = m.mem ∧
    m'.cores = m.cores ∧ ∀ r ∈ k.recipes, m'.recipeSt p (leAt r 5 1) = recipeValues r (recipeAdvance r (m.recipeSt p (leAt r 5 1)))

theorem RoundClosed.roundCounted {m : Mach} {p : Nat} {k : Pricking} (hk : (m.part p).resident = some k)
    (hnd : (k.recipes.map (fun r => leAt r 5 1)).Nodup) : RoundClosed m p k (m.roundCounted p (m.obj (0x6480 + p) 2 + 1)) := by
  have hrecipes := Mach.recipeSt_eachRecipe hk (fun r s => recipeValues r (recipeAdvance r s)) hnd
  have honly := Mach.eachRecipe_only m p (fun r s => recipeValues r (recipeAdvance r s))
  unfold Mach.roundCounted
  generalize m.eachRecipe p (fun r s => recipeValues r (recipeAdvance r s)) = advanced at hrecipes honly
  have hpart : advanced.part p = m.part p := by rw [honly]; rfl
  refine ⟨Mach.obj_setObj_same .., ?_, ?_, ?_, ?_, hrecipes⟩
  · rw [Mach.modPart, Mach.part_setPart_same, Mach.part_setObj, hpart]
  · rw [Mach.modPart, Mach.part_setPart_same]
  · rw [honly]; rfl
  · rw [honly]; rfl

theorem RoundClosed.raise {m m' : Mach} {p : Nat} {k : Pricking} (h : RoundClosed m p k m') (vec : Nat) : RoundClosed m p k (m'.raise vec) := by
  rw [Mach.raise_only]
  exact h

/-- A close leaves the round closed, with or without digests to publish. -/
theorem RoundClosed.closeRound {m : Mach} {p : Nat} {k : Pricking} (hk : (m.part p).resident = some k)
    (hnd : (k.recipes.map (fun r => leAt r 5 1)).Nodup) : RoundClosed m p k (m.closeRound p) := by
  have hcounted : RoundClosed m p k ((m.digestsEntered p k).roundCounted p (m.obj (0x6480 + p) 2 + 1)) :=
    RoundClosed.roundCounted (m := m.digestsEntered p k) hk hnd
  rw [Mach.closeRound_eq hk]
  dsimp only
  split
  · exact hcounted
  · exact hcounted.raise _

section
variable {m : Mach} {p : Nat}

/-- A round closes once every UPDATE tile has been updated for it. -/
theorem doRoundClose_early (h : m.roundFull p = false) : doRoundClose m p = m := by
  simp only [doRoundClose, h, Bool.not_false, Bool.or_true, if_true]

/-- The close of a full round whose digests, where any are due, read well, without a lifeline due. -/
theorem doRoundClose_full {k : Pricking} (hp : p < 64) (hsw : m.switching p = false) (hk : (m.part p).resident = some k)
    (hfull : m.roundFull p = true) (hdigest : m.digestDue p (m.obj (0x6480 + p) 2 + 1) = true → m.digestLost p k = none)
    (hlife : (m.closeRound p).lifeDue p ((m.closeRound p).obj (0x6480 + p) 2) = false) : doRoundClose m p = m.closeRound p := by
  have hgood : ((m.part p).resident.bind fun k => if m.digestDue p (m.obj (0x6480 + p) 2 + 1) then m.digestLost p k else none) = none := by
    rw [hk, Option.bind_some]
    split
    next hdue => exact hdigest hdue
    next => rfl
  unfold doRoundClose
  rw [if_neg (by simp only [hsw, hfull, decide_eq_false (Nat.not_le.mpr hp)]; decide)]
  split
  next id t h hlost => cases hgood.symm.trans hlost
  next => simp only [hlife, Bool.and_false, Bool.false_eq_true, if_false]

end

theorem gives_roundClose {s : State} (p : Nat) (hrun : s.mach.phase = .running) : Gives (.roundClose p) s (doRoundClose s.mach p) :=
  gives_step _ s (fun m => doRoundClose m p) rfl hrun

/-- Settles O30: a state image reaches its area, a sweep begins when all is there, an update stores its pieces, and a full round closes. -/
theorem updateRounds : Obligations.UpdateRounds := by
  refine ⟨?_, ?_, ?_, ?_⟩
  · intro s p id t a b r ts hrun hb hr hts ha hload e n src hread
    have hg := gives_stateReadComplete p id t hrun
    rw [doStateRead_good hb hr hts ha hload hread] at hg
    obtain ⟨hmem, hrb, hcores, hobjs⟩ := s.mach.stateLoaded_effect p id t b r ts a
    exact ⟨_, hg, Stores.of_mem hmem, hrb, hcores, hobjs⟩
  · intro s p k hrun hk
    have hg := gives_sweepStart p hrun
    refine ⟨fun hsweep hupd hnot hall => ?_, fun hwait => ?_⟩
    · rwa [doSweepStart_begins hk hsweep hupd hnot hall] at hg
    · rwa [doSweepStart_waits hk hwait] at hg
  · intro s p id t k b r rc ts hrun hp hb hk hr hts hmode hfull hloaded hsw hturn e hrc gk sb sk n hread vals vs new image copy ws
    have hg := gives_tileUpdate p id t hrun
    rw [doTileUpdate_updates hb hk hr hts hmode hfull hloaded hsw hturn hrc hread] at hg
    obtain ⟨hmem, hcores⟩ := s.mach.tileUpdated_effect p id t b r rc ts
    have himage : newImage rc (s.mach.tileElems p t r rc ts) = image := newImage_eq ..
    have hpieces : s.mach.updatePieces p id t r rc ts = ws := by
      rw [Mach.updatePieces, himage]
      rfl
    rw [hpieces] at hmem
    refine ⟨_, hg, Stores.of_mem hmem, ?_, hcores⟩
    rw [← himage]
    exact Mach.rb_setRb_same ..
  · intro s p k hrun hp hsw hk
    have hg := gives_roundClose p hrun
    refine ⟨fun hearly => ?_, fun hfull hdigest hlife hnd => ?_⟩
    · rwa [doRoundClose_early hearly] at hg
    · rw [doRoundClose_full hp hsw hk hfull hdigest hlife] at hg
      exact ⟨_, hg, RoundClosed.closeRound hk hnd⟩

end Sys2Proof.Machine
end

section
/-! SUPPORT. Proofs: messages that are not taken, malformed ones, PING, and messages for other modules (R299, R301, R303, R304, R307). -/

namespace Sys2Proof.Machine

/-! ## Messages without their row's effect -/

section
variable {m : Mach} {l : Nat} {x : Msg} {f : Mach → Mach}

/-- A message that is not the next of its channel, or not for this module, has no effect (R299). -/
theorem onMsg_away {sel : Bool} (h : m.arrives l x = false) : onMsg m l x sel f = m := by
  simp only [onMsg, h, Bool.not_false, Bool.true_or, if_true]

/-- A malformed message is taken and discarded by the row of its operation (R301). -/
theorem onMsg_malformed (harr : m.arrives l x = true) (hbad : m.malformed l x = true) : onMsg m l x true f = (m.taken l x).discard x := by
  simp only [onMsg, harr, hbad, Bool.not_true, Bool.or_self, Bool.false_eq_true, if_false, if_true]

end

/-- The row of a message takes it when it arrives (Table 10-9, Table 17-2). -/
theorem exec_msgRow {l : Nat} {x : Msg} {c : Instr} (h : msgRow l x = some c) :
    ∃ f, ∀ s, exec c s = s.step (fun m => onMsg m l x true f) := by
  have row : ∀ {c' : Instr} {sel : Bool} {f : Mach → Mach}, some c' = some c → sel = true →
      (∀ s, exec c' s = s.step (fun m => onMsg m l x sel f)) → ∃ f, ∀ s, exec c s = s.step (fun m => onMsg m l x true f) := by
    rintro c' sel f hc rfl hrow
    obtain rfl := Option.some.inj hc
    exact ⟨f, hrow⟩
  unfold msgRow at h
  split at h
  next hop => exact row (f := doRequest l x) h (decide_eq_true hop) fun _ => rfl
  next hop => exact row (f := doRequest l x) h (decide_eq_true hop) fun _ => rfl
  next hop => exact row (f := doSignalMsg l x) h (decide_eq_true hop) fun _ => rfl
  next hop => exact row (f := doResp l x) h (decide_eq_true hop) fun _ => rfl
  next hop =>
    split at h
    next hbuf => exact row (f := doRestoreData l x) h (by simp [hop, hbuf]) fun _ => rfl
    next hdata =>
      split at h
      next hbuf => exact row (f := doRestoreReq l x) h (by simp [hop, hbuf]) fun _ => rfl
      next hreq =>
        split at h
        next hbuf => exact row (f := doLifeData l x) h (by simp [hop, hdata, hreq, hbuf]) fun _ => rfl
        next =>
          split at h
          next hbuf => exact row (f := doCommit l x) h (by simp [hop, hbuf]) fun _ => rfl
          next =>
            split at h
            next hbuf => exact row (f := doAck l x) h (by simp [hop, hbuf]) fun _ => rfl
            next => cases h
  next hop =>
    split at h
    next hsub => exact row (f := fun m => m.taken l x) h (by simp [hop, hsub]) fun _ => rfl
    next hreply =>
      split at h
      next hsub => exact row (f := doCreditGrant l x) h (by simp [hop, hsub]) fun _ => rfl
      next hgrant => exact row (f := doPing l x) h (by simp [hop, hreply, hgrant]) fun _ => rfl
  next h₁ h₂ h₃ h₄ h₅ h₆ =>
    simp only [imp_false] at h₁ h₂ h₃ h₄ h₅ h₆
    have hop : x.op = 0 ∨ 6 < x.op := by omega
    exact row (f := doRequest l x) h (by simpa using hop) fun _ => rfl

/-! ## MESSAGE_FORWARD -/

section
variable {m : Mach} {l : Nat} {x : Msg}

/-- A message that is not the next of its link, or is for this module, is none to forward. -/
theorem doForward_away (h : 64 ≤ l ∨ m.nextIn l x = false ∨ x.dfa = m.ownAddr) : doForward m l x = m := by
  unfold doForward
  exact if_pos (by simpa only [Bool.or_eq_true, decide_eq_true_eq, Bool.not_eq_true', ge_iff_le, or_assoc] using h)

variable (hl : l < 64) (hnext : m.nextIn l x = true) (hfar : x.dfa ≠ m.ownAddr)
include hl hnext hfar

theorem doForward_malformed (hbad : m.malformed l x = true) : doForward m l x = (m.taken l x).discard x := by
  simp only [doForward, hnext, hfar, hbad, decide_eq_false (Nat.not_le.mpr hl), ge_iff_le, decide_false, Bool.not_true, Bool.or_self,
    Bool.false_eq_true, if_false, if_true]

/-- A message for another module leaves by its route and is counted, or is dropped, counted and refused (R303, R307). -/
theorem doForward_good (hgood : m.malformed l x = false) : doForward m l x =
    let sent := (m.taken l x).sendMsg x
    let dropped := (m.taken l x).addObj 0x4800 8 1
    if sent.1 = 0 then sent.2.2.addObj 0x4800 7 1 else if x.op ≤ 2 then dropped.refuse x sent.1 else dropped := by
  simp only [doForward, hnext, hfar, hgood, decide_eq_false (Nat.not_le.mpr hl), ge_iff_le, decide_false, Bool.not_true, Bool.or_self,
    Bool.false_eq_true, if_false]
  rcases (m.taken l x).sendMsg x with ⟨code, h, m'⟩
  cases code with
  | zero => exact (if_pos rfl).symm
  | succ c => exact (if_neg c.succ_ne_zero).symm

theorem doForward_sent (hgood : m.malformed l x = false) {h : Nat} {m' : Mach} (hsend : (m.taken l x).sendMsg x = (0, h, m')) :
    doForward m l x = m'.addObj 0x4800 7 1 := by
  simp only [doForward_good hl hnext hfar hgood, hsend, if_true]

theorem doForward_dropped (hgood : m.malformed l x = false) {code h : Nat} {m' : Mach} (hcode : code ≠ 0)
    (hsend : (m.taken l x).sendMsg x = (code, h, m')) : doForward m l x =
      let dropped := (m.taken l x).addObj 0x4800 8 1
      if x.op ≤ 2 ∧ x.pidx = 0 then dropped.respond x code else dropped := by
  simp only [doForward_good hl hnext hfar hgood, hsend, hcode, if_false, Mach.refuse, ← ite_and]

end

theorem gives_messageForward {s : State} (l : Nat) (x : Msg) (hrun : s.mach.phase = .running) :
    Gives (.messageForward l x) s (doForward s.mach l x) := gives_step _ s (fun m => doForward m l x) rfl hrun

/-- Settles O36: a message acts by its row when it arrives well formed; one for another module goes on by its route or is dropped. -/
theorem messagesAndForwards : Obligations.MessagesAndForwards := by
  constructor
  · intro s l x c hrun hrow
    obtain ⟨f, hexec⟩ := exec_msgRow hrow
    have hg := gives_step c s _ (hexec s) hrun
    refine ⟨fun haway => ?_, fun harr hbad => ?_⟩
    · rwa [onMsg_away haway] at hg
    · rwa [onMsg_malformed harr hbad] at hg
  · intro s l x hrun t
    have hg := gives_messageForward l x hrun
    refine ⟨fun hgood harr hop hsub => ?_, fun hgood harr hop hsub => ?_, fun hl hnext hfar => ⟨fun hbad => ?_, fun hgood h m hsend => ?_,
      fun hgood code h m hcode hsend => ?_⟩, fun haway => ?_⟩
    · exact gives_onMsg (f := doPing l x) rfl hrun harr hgood (by simp [hop, hsub])
    · exact gives_onMsg (f := fun m => m.taken l x) rfl hrun harr hgood (by simp [hop, hsub])
    · rwa [doForward_malformed hl hnext hfar hbad] at hg
    · rwa [doForward_sent hl hnext hfar hgood hsend] at hg
    · rwa [doForward_dropped hl hnext hfar hgood hcode hsend] at hg
    · rwa [doForward_away haway] at hg

end Sys2Proof.Machine
end

section
/-! SUPPORT. Proofs: the state of a link, its control objects, and what leaves on it (R287 to R294). -/

namespace Sys2Proof.Machine

/-! ## Objects of different numbers -/

/-- Objects of different sub-indexes are different. -/
theorem okey_ne_of_sub (i j : Nat) {a b : Nat} (ha : a < 256) (hb : b < 256) (h : a ≠ b) : okey i a ≠ okey j b :=
  fun he => h ((okey_inj ha hb).mp he).2

/-! ## Parts of a link after updates of the module -/

section
variable (m : Mach) (l k : Nat)

@[simp] theorem Mach.lrt_setLrt_same (r : LinkRt) : (m.setLrt l r).lrt l = r := by simp only [Mach.lrt_setLrt, if_true]
@[simp] theorem Mach.lrt_setObj (i a v : Nat) : (m.setObj i a v).lrt k = m.lrt k := rfl
@[simp] theorem Mach.lrt_setField (i a hi lo v : Nat) : (m.setField i a hi lo v).lrt k = m.lrt k := rfl
@[simp] theorem Mach.lrt_setLinkState (st : Nat) : (m.setLinkState l st).lrt k = m.lrt k := rfl
@[simp] theorem Mach.lrt_addObj (i a n : Nat) : (m.addObj i a n).lrt k = m.lrt k := rfl
@[simp] theorem Mach.lrt_addObj32 (i a n : Nat) : (m.addObj32 i a n).lrt k = m.lrt k := rfl
@[simp] theorem Mach.lrt_emit (o : Out) : (m.emit o).lrt k = m.lrt k := rfl
@[simp] theorem Mach.lrt_reply (c : Nat) : (m.reply c).lrt k = m.lrt k := rfl
@[simp] theorem Mach.obj_setLrt (r : LinkRt) (i a : Nat) : (m.setLrt l r).obj i a = m.obj i a := rfl
@[simp] theorem Mach.field_setLrt (r : LinkRt) (i a hi lo : Nat) : (m.setLrt l r).field i a hi lo = m.field i a hi lo := rfl
@[simp] theorem Mach.setLrt_answer (r : LinkRt) : (m.setLrt l r).answer = m.answer := rfl
@[simp] theorem Mach.setField_answer (i a hi lo v : Nat) : (m.setField i a hi lo v).answer = m.answer := rfl
@[simp] theorem Mach.setLinkState_answer (st : Nat) : (m.setLinkState l st).answer = m.answer := rfl
@[simp] theorem Mach.addObj32_answer (i a n : Nat) : (m.addObj32 i a n).answer = m.answer := rfl
@[simp] theorem Mach.setLrt_cores (r : LinkRt) : (m.setLrt l r).cores = m.cores := rfl
@[simp] theorem Mach.obj_emit (o : Out) (i a : Nat) : (m.emit o).obj i a = m.obj i a := rfl
@[simp] theorem Mach.obj_reply (c i a : Nat) : (m.reply c).obj i a = m.obj i a := rfl
@[simp] theorem Mach.linkState_setLrt (r : LinkRt) : (m.setLrt l r).linkState k = m.linkState k := rfl
@[simp] theorem Mach.linkState_emit (o : Out) : (m.emit o).linkState k = m.linkState k := rfl
@[simp] theorem Mach.linkState_reply (c : Nat) : (m.reply c).linkState k = m.linkState k := rfl

theorem Mach.obj_setObj_sub {i a j b : Nat} (ha : a < 256) (hb : b < 256) (h : a ≠ b) (v : Nat) : (m.setObj i a v).obj j b = m.obj j b :=
  Mach.obj_setObj_other m (okey_ne_of_sub i j ha hb h) v

/-- STATE is part of 4840h + l.02: other sub-indexes do not tell of it. -/
theorem Mach.linkState_setObj_sub {i a : Nat} (ha : a < 256) (h : a ≠ 2) (v : Nat) : (m.setObj i a v).linkState k = m.linkState k := by
  simp only [Mach.linkState, Mach.field, Mach.obj_setObj_sub m ha (by decide) h]

theorem Mach.linkState_setLinkState {st : Nat} (h : st < 8) : (m.setLinkState l st).linkState l = st :=
  (Mach.field_setField_same m _ _ _ _ _ (by decide)).trans (Nat.mod_eq_of_lt h)

/-- A FAIL reason of Table 10-7 leaves STATE. -/
theorem Mach.linkState_setReason (why : Nat) : (m.setField (0x4840 + l) 2 15 12 why).linkState l = m.linkState l :=
  Mach.field_setField_apart m _ _ _ _ _ _ _ (by decide) (by decide)

theorem Mach.obj_addObj_sub {i a j b : Nat} (ha : a < 256) (hb : b < 256) (h : a ≠ b) (n : Nat) : (m.addObj i a n).obj j b = m.obj j b :=
  Mach.obj_setObj_sub m ha hb h _

theorem Mach.obj_setLinkState_sub {j b : Nat} (hb : b < 256) (h : b ≠ 2) (st : Nat) : (m.setLinkState l st).obj j b = m.obj j b :=
  Mach.obj_setObj_sub m (by decide) hb h.symm _

theorem SameObjs.setLrt (ks : List Nat) (r : LinkRt) : SameObjs ks m (m.setLrt l r) := SameObjs.of_objs ks rfl

theorem SameObjs.setLinkState (st : Nat) : SameObjs [okey (0x4840 + l) 2] m (m.setLinkState l st) := SameObjs.setField m _ _ _ _ _ (by simp)

/-! ## Failing, training, retraining, looping back -/

/-- A link that fails shows its reason, and nothing waits on it any longer (R290). -/
theorem Mach.failLink_effect (why : Nat) : (m.failLink l why).linkState l = 4 ∧ (m.failLink l why).field (0x4840 + l) 2 15 12 = why % 16 ∧
    SameObjs [okey (0x4840 + l) 2] m (m.failLink l why) ∧ (m.failLink l why).lrt l =
      { m.lrt l with replay := [], queue := [], rxPart := [], keep := false, reported := false, farLoop := false, loopAsk := false } := by
  unfold Mach.failLink
  refine ⟨?_, ?_, ?_, Mach.lrt_setLrt_same ..⟩
  · rw [Mach.linkState_setLrt, Mach.linkState_setReason, Mach.linkState_setLinkState m l (by decide)]
  · rw [Mach.field_setLrt, Mach.field_setField_same _ _ _ _ _ _ (by decide)]
    rfl
  · exact SameObjs.trans (SameObjs.trans (SameObjs.setLinkState m l 4) (SameObjs.setField _ (0x4840 + l) 2 _ _ why (by simp)))
      (SameObjs.setLrt _ _ _ _)

theorem Mach.linkState_trainLink : (m.trainLink l).linkState l = 1 := Mach.linkState_setLinkState m l (by decide)

theorem Mach.linkState_enterLoop (far ask : Bool) : (m.enterLoop l far ask).linkState l = 3 := Mach.linkState_setLinkState m l (by decide)

theorem Mach.lrt_enterLoop (far ask : Bool) : (m.enterLoop l far ask).lrt l =
    { m.lrt l with farLoop := far, loopAsk := ask, t0 := m.rc, queue := [], replay := [], rxPart := [] } := Mach.lrt_setLrt_same ..

/-- A fourth retrain within 60 s fails the link (R290). -/
theorem Mach.retrainUp_worn (h : (m.lrt l).worn m.rc = true) : m.retrainUp l = (m.addObj32 (0x4840 + l) 0xA 1).failLink l 8 := if_pos h

/-- An up link that retrains keeps its replay buffer, sequence numbers and waiting messages (R290). -/
theorem Mach.retrainUp_fresh (h : (m.lrt l).worn m.rc = false) : m.retrainUp l =
    ((m.addObj32 (0x4840 + l) 0xA 1).setLinkState l 1).setLrt l { m.lrt l with
      keep := true, t0 := m.rc, retrains := (m.rc :: (m.lrt l).retrains).take 3, again := (0, 0), probes := [], hellos := [] } :=
  if_neg (Bool.eq_false_iff.mp h)

theorem Mach.linkState_retrainUp : (m.retrainUp l).linkState l = if (m.lrt l).worn m.rc = true then 4 else 1 := by
  split
  next hworn => rw [Mach.retrainUp_worn m l hworn, (Mach.failLink_effect ..).1]
  next hworn => rw [Mach.retrainUp_fresh m l (Bool.eq_false_iff.mpr hworn), Mach.linkState_setLrt, Mach.linkState_setLinkState _ _ (by decide)]

/-- Every retrain is counted (4840h + l.0A). -/
theorem Mach.obj_retrainUp : (m.retrainUp l).obj (0x4840 + l) 0xA = min (m.obj (0x4840 + l) 0xA + 1) (2 ^ 32 - 1) := by
  have hcounted : (m.addObj32 (0x4840 + l) 0xA 1).obj (0x4840 + l) 0xA = min (m.obj (0x4840 + l) 0xA + 1) (2 ^ 32 - 1) := Mach.obj_setObj_same ..
  rw [← hcounted]
  by_cases hworn : (m.lrt l).worn m.rc = true
  · obtain ⟨-, -, hsame, -⟩ := Mach.failLink_effect (m.addObj32 (0x4840 + l) 0xA 1) l 8
    rw [Mach.retrainUp_worn m l hworn]
    exact hsame _ _ (by simpa using okey_ne_of_sub _ _ (by decide) (by decide) (by decide))
  · rw [Mach.retrainUp_fresh m l (Bool.eq_false_iff.mpr hworn), Mach.obj_setLrt, Mach.obj_setLinkState_sub _ _ (by decide) (by decide)]

/-- The control object stands at sub-index 1: retraining leaves it. -/
theorem Mach.obj_retrainUp_sub {j b : Nat} (hb : b < 256) (h₂ : b ≠ 2) (h : b ≠ 0xA) : (m.retrainUp l).obj j b = m.obj j b := by
  have hcounted : (m.addObj32 (0x4840 + l) 0xA 1).obj j b = m.obj j b := Mach.obj_setObj_sub m (by decide) hb h.symm _
  rw [← hcounted]
  by_cases hworn : (m.lrt l).worn m.rc = true
  · obtain ⟨-, -, hsame, -⟩ := Mach.failLink_effect (m.addObj32 (0x4840 + l) 0xA 1) l 8
    rw [Mach.retrainUp_worn m l hworn]
    exact hsame _ _ (by simpa using okey_ne_of_sub _ _ hb (by decide) h₂)
  · rw [Mach.retrainUp_fresh m l (Bool.eq_false_iff.mpr hworn), Mach.obj_setLrt, Mach.obj_setLinkState_sub _ _ hb h₂]

theorem Mach.retrainUp_answer : (m.retrainUp l).answer = m.answer := by
  by_cases hworn : (m.lrt l).worn m.rc = true
  · rw [Mach.retrainUp_worn m l hworn, Mach.failLink, Mach.setLrt_answer, Mach.setField_answer, Mach.setLinkState_answer, Mach.addObj32_answer]
  · rw [Mach.retrainUp_fresh m l (Bool.eq_false_iff.mpr hworn), Mach.setLrt_answer, Mach.setLinkState_answer, Mach.addObj32_answer]

/-! ## What leaves on a link -/

/-- What is recorded in turn is recorded behind what has been sent. -/
theorem Mach.foldl_emit {α : Type} (f : α → Out) (xs : List α) : xs.foldl (fun (a : Mach) x => a.emit (f x)) m = { m with
    outbox := m.outbox ++ xs.map f } := by
  induction xs generalizing m with
  | nil => simp
  | cons x xs ih =>
    rw [List.foldl_cons, ih]
    simp only [Mach.emit, List.map_cons, List.append_assoc, List.singleton_append]

/-- Sending takes messages from a link's queue; what the link receives stays as it was (R289, R291). -/
theorem LinkRt.sent_only (r : LinkRt) (rc : Nat) (x : Msg) : r.sent rc x = { r with
    tx := (r.sent rc x).tx
    replay := (r.sent rc x).replay
    credits := (r.sent rc x).credits
    queue := (r.sent rc x).queue
    share := (r.sent rc x).share
    lifeSent := (r.sent rc x).lifeSent } := rfl

/-- What a link sends leaves every link's receiving side as it was. -/
theorem Mach.lrt_pump_only (fuel : Nat) : (m.pump l fuel).lrt k = { m.lrt k with
    tx := ((m.pump l fuel).lrt k).tx
    replay := ((m.pump l fuel).lrt k).replay
    credits := ((m.pump l fuel).lrt k).credits
    queue := ((m.pump l fuel).lrt k).queue
    share := ((m.pump l fuel).lrt k).share
    lifeSent := ((m.pump l fuel).lrt k).lifeSent } := by
  induction fuel generalizing m with
  | zero => rfl
  | succ fuel ih =>
    unfold Mach.pump
    split
    · rfl
    · split
      · rfl
      next x hx =>
        rw [ih]
        simp only [Mach.lrt_emit, Mach.lrt_addObj, Mach.lrt_setLrt]
        split
        next hlk => rw [LinkRt.sent_only, hlk]
        next => rfl

/-- What waits on a link after it has sent has waited before. -/
theorem Mach.mem_queue_of_pump {fuel : Nat} {x : Msg} (h : x ∈ ((m.pump l fuel).lrt k).queue) : x ∈ (m.lrt k).queue := by
  induction fuel generalizing m with
  | zero => exact h
  | succ fuel ih =>
    unfold Mach.pump at h
    split at h
    · exact h
    · split at h
      · exact h
      next y hy =>
        have hleft := ih _ h
        simp only [Mach.lrt_emit, Mach.lrt_addObj, Mach.lrt_setLrt] at hleft
        split at hleft
        next hlk => exact hlk ▸ List.mem_of_mem_erase hleft
        next => exact hleft

/-- A link with nothing queued sends nothing. -/
theorem Mach.pumpLink_idle (h : (m.lrt l).queue = []) : m.pumpLink l = m := by rw [Mach.pumpLink, h]; rfl

theorem SendsOnly.pumpLink : SendsOnly m (m.pumpLink l) := SendsOnly.pump ..

/-- Of the objects, sending counts at sub-index 5 alone. -/
theorem SendsOnly.obj_sub {m m' : Mach} (h : SendsOnly m m') {i a : Nat} (ha : a < 256) (h₅ : a ≠ 5) : m'.obj i a = m.obj i a :=
  h.objs i a fun l _ => okey_ne_of_sub i (0x4840 + l) ha (by decide) h₅

theorem SendsOnly.linkState {m m' : Mach} (h : SendsOnly m m') (k : Nat) : m'.linkState k = m.linkState k := by
  simp only [Mach.linkState, Mach.field, h.obj_sub (show 2 < 256 by decide) (by decide)]

end

end Sys2Proof.Machine
end

section
/-! SUPPORT. Proofs: flits received, RETRY and RETRY_REPEAT (R288 to R291, R299). -/

namespace Sys2Proof.Machine

/-! ## RETRY flits sent -/

section
variable (m : Mach) (l : Nat)

@[simp] theorem Mach.lrt_sendRetry (k : Nat) : (m.sendRetry l).lrt k = m.lrt k := rfl

theorem Mach.outbox_sendRetry : (m.sendRetry l).outbox = m.outbox ++ [.flit l 4 (m.lrt l).rx] := rfl

/-- A RETRY that is sent is counted (4840h + l.07). -/
theorem Mach.obj_sendRetry : (m.sendRetry l).obj (0x4840 + l) 7 = min (m.obj (0x4840 + l) 7 + 1) (2 ^ 64 - 1) := by
  rw [Mach.sendRetry, Mach.obj_emit, Mach.obj_addObj_same]

theorem SameObjs.sendRetry : SameObjs [okey (0x4840 + l) 7] m (m.sendRetry l) :=
  SameObjs.trans (SameObjs.addObj m (0x4840 + l) 7 1 (by simp)) (SameObjs.of_objs _ rfl)

end

/-! ## DATA_FLIT_RECEIVE -/

/-- The module with what the FEC shows of a flit counted: corrected symbols, or an uncorrectable codeword (R288). -/
def Mach.flitCounted (m : Mach) (l : Nat) (fec : Option Nat) : Mach :=
  match fec with
  | some n => m.addObj (0x4840 + l) 8 n
  | none => m.addObj (0x4840 + l) 9 1

/-- The module once a good flit has acknowledged and returned credits, and what they free has left (R289, R291). -/
def Mach.flitAcked (m : Mach) (l : Nat) (f : List Byte) : Mach := (m.setLrt l ((m.lrt l).acked f)).pumpLink l

/-- The protocol state once a DATA flit has been accepted, and the credits of a flit that is all padding (R289, R291, R299). -/
def LinkRt.accepted (r : LinkRt) (f : List Byte) : LinkRt × Nat :=
  { r with rx := (r.rx + 1) % 4096, await := false }.slots (leAt f 4 1 / 4 % 4) ((f.drop 8).take 240)

/-- The messages that an accepted flit completes have arrived (R299). -/
theorem LinkRt.accepted_arrived (r : LinkRt) (f : List Byte) : (r.accepted f).1.arrived = r.arrived ++
    (let old := r.rxPart.get ([], 0) (leAt f 4 1 / 4 % 4)
     let t := takeSlots (chunks 16 15 ((f.drop 8).take 240)) old.1 []
     flitCredits (leAt f 4 1 / 4 % 4) old.2 t.1.isEmpty t.2) := rfl

section
variable (m : Mach) (l : Nat) (f : List Byte)

theorem Mach.flitCounted_only (fec : Option Nat) : m.flitCounted l fec = { m with objs := (m.flitCounted l fec).objs } := by
  cases fec <;> rfl

theorem SameObjs.flitCounted (fec : Option Nat) : SameObjs [okey (0x4840 + l) 8, okey (0x4840 + l) 9] m (m.flitCounted l fec) := by
  cases fec
  · exact SameObjs.addObj m _ _ _ (by simp)
  · exact SameObjs.addObj m _ _ _ (by simp)

@[simp] theorem Mach.lrt_flitCounted (fec : Option Nat) : (m.flitCounted l fec).lrt l = m.lrt l := by cases fec <;> rfl

/-- An acknowledgement leaves what the link receives, and adds nothing to what it sends (R289). -/
theorem LinkRt.acked_only (r : LinkRt) : r.acked f = { r with
    replay := (r.acked f).replay
    again := (r.acked f).again
    credits := (r.acked f).credits } := by
  unfold LinkRt.acked
  dsimp only
  split <;> rfl

/-- What a good flit frees leaves; what the link receives, and the objects but the count of flits sent, stay as they were. -/
theorem Mach.flitAcked_effect : ((m.flitAcked l f).lrt l).rx = (m.lrt l).rx ∧ ((m.flitAcked l f).lrt l).rxPart = (m.lrt l).rxPart ∧
    ((m.flitAcked l f).lrt l).arrived = (m.lrt l).arrived ∧ ∀ i a, a < 256 → a ≠ 5 → (m.flitAcked l f).obj i a = m.obj i a := by
  unfold Mach.flitAcked
  refine ⟨?_, ?_, ?_, fun i a ha h₅ => (SendsOnly.pumpLink ..).obj_sub ha h₅⟩ <;>
    rw [Mach.pumpLink, Mach.lrt_pump_only, Mach.lrt_setLrt_same, LinkRt.acked_only]

/-- With nothing queued nothing leaves. -/
theorem Mach.flitAcked_idle (h : (m.lrt l).queue = []) : m.flitAcked l f = m.setLrt l ((m.lrt l).acked f) := by
  refine Mach.pumpLink_idle _ _ ?_
  rw [Mach.lrt_setLrt_same, LinkRt.acked_only, h]

/-! The branches of DATA_FLIT_RECEIVE on an up link. -/

variable {m l f} {fec : Option Nat} (hex : m.linkExists l = true) (hup : m.linkState l = 2)
include hex hup

theorem doFlit_bad (hbad : goodFlit f fec.isSome = false) : doFlit m l f fec = m.flitCounted l fec := by
  simp only [doFlit, hex, hup, hbad, Bool.not_true, Bool.not_false, ne_eq, not_true_eq_false, decide_false, Bool.or_self, Bool.false_eq_true,
    if_false, if_true]
  rfl

variable (hgood : goodFlit f fec.isSome = true)
include hgood

/-- A good flit by its KIND and SEQ. -/
theorem doFlit_good : doFlit m l f fec =
    let acked := (m.flitCounted l fec).flitAcked l f
    if leAt f 4 1 % 4 ≠ 1 then acked
    else if leAt f 0 2 = (acked.lrt l).rx then
      let counted := (acked.setLrt l ((acked.lrt l).accepted f).1).addObj (0x4840 + l) 6 1
      if ((acked.lrt l).accepted f).2 = 0 then counted else counted.emit (.flit l 0 (leAt f 4 1 / 4 % 4 + 4 * ((acked.lrt l).accepted f).2))
    else (acked.setLrt l { acked.lrt l with await := true }).sendRetry l := by
  simp only [doFlit, hex, hup, hgood, Bool.not_true, ne_eq, not_true_eq_false, decide_false, Bool.or_self, Bool.false_eq_true, if_false]
  rfl

/-- A flit that is none of DATA acknowledges and returns credits. -/
theorem doFlit_control (hkind : leAt f 4 1 % 4 ≠ 1) : doFlit m l f fec = (m.flitCounted l fec).flitAcked l f := by
  rw [doFlit_good hex hup hgood]
  exact if_pos hkind

variable (hkind : leAt f 4 1 % 4 = 1)
include hkind

/-- A DATA flit with the SEQ expected is accepted and counted, and the messages it completes have arrived (R289, R299). -/
theorem doFlit_expected (hseq : leAt f 0 2 = (m.lrt l).rx) :
    ((doFlit m l f fec).lrt l).rx = ((m.lrt l).rx + 1) % 4096 ∧ ((doFlit m l f fec).lrt l).await = false ∧
      (doFlit m l f fec).obj (0x4840 + l) 6 = min (m.obj (0x4840 + l) 6 + 1) (2 ^ 64 - 1) ∧
      (let vc := leAt f 4 1 / 4 % 4
       let old := (m.lrt l).rxPart.get ([], 0) vc
       let t := takeSlots (chunks 16 15 ((f.drop 8).take 240)) old.1 []
       ((doFlit m l f fec).lrt l).arrived = (m.lrt l).arrived ++ flitCredits vc old.2 t.1.isEmpty t.2) := by
  obtain ⟨hrx, hpart, harrived, hobj⟩ := (m.flitCounted l fec).flitAcked_effect l f
  rw [Mach.lrt_flitCounted] at hrx hpart harrived
  have hcount : ((m.flitCounted l fec).flitAcked l f).obj (0x4840 + l) 6 = m.obj (0x4840 + l) 6 := by
    rw [hobj _ _ (by decide) (by decide)]
    exact SameObjs.flitCounted m l fec _ _ (by simp [okey])
  rw [doFlit_good hex hup hgood]
  generalize (m.flitCounted l fec).flitAcked l f = acked at hrx hpart harrived hcount
  rw [if_neg (not_not_intro hkind), if_pos (hseq.trans hrx.symm)]
  extract_lets counted vc old t
  have hlrt : counted.lrt l = ((acked.lrt l).accepted f).1 := Mach.lrt_setLrt_same ..
  have hsix : counted.obj (0x4840 + l) 6 = min (m.obj (0x4840 + l) 6 + 1) (2 ^ 64 - 1) := by
    rw [← hcount]
    exact Mach.obj_addObj_same ..
  have hmessages := (acked.lrt l).accepted_arrived f
  rw [hpart, harrived] at hmessages
  have hnext : ((acked.lrt l).accepted f).1.rx = ((m.lrt l).rx + 1) % 4096 := hrx ▸ rfl
  clear_value counted
  split
  · exact ⟨hlrt ▸ hnext, hlrt ▸ rfl, hsix, hlrt ▸ hmessages⟩
  · exact ⟨hlrt ▸ hnext, hlrt ▸ rfl, hsix, hlrt ▸ hmessages⟩

/-- Any other DATA flit is answered with a RETRY that names the SEQ expected (R289). -/
theorem doFlit_other (hseq : leAt f 0 2 ≠ (m.lrt l).rx) :
    ((doFlit m l f fec).lrt l).rx = (m.lrt l).rx ∧ ((doFlit m l f fec).lrt l).arrived = (m.lrt l).arrived ∧
      ((doFlit m l f fec).lrt l).await = true ∧ (doFlit m l f fec).outbox.getLast? = some (.flit l 4 (m.lrt l).rx) ∧
      (doFlit m l f fec).obj (0x4840 + l) 7 = min (m.obj (0x4840 + l) 7 + 1) (2 ^ 64 - 1) := by
  obtain ⟨hrx, -, harrived, hobj⟩ := (m.flitCounted l fec).flitAcked_effect l f
  rw [Mach.lrt_flitCounted] at hrx harrived
  have hcount : ((m.flitCounted l fec).flitAcked l f).obj (0x4840 + l) 7 = m.obj (0x4840 + l) 7 := by
    rw [hobj _ _ (by decide) (by decide)]
    exact SameObjs.flitCounted m l fec _ _ (by simp [okey])
  rw [doFlit_good hex hup hgood]
  generalize (m.flitCounted l fec).flitAcked l f = acked at hrx harrived hcount
  rw [if_neg (not_not_intro hkind), if_neg (fun h => hseq (h.trans hrx)), ← hrx, ← harrived, ← hcount]
  generalize hwaiting : acked.setLrt l { acked.lrt l with await := true } = waiting
  have hlrt : waiting.lrt l = { acked.lrt l with await := true } := by rw [← hwaiting, Mach.lrt_setLrt_same]
  have hobj' : waiting.obj (0x4840 + l) 7 = acked.obj (0x4840 + l) 7 := by rw [← hwaiting, Mach.obj_setLrt]
  rw [Mach.lrt_sendRetry, hlrt, ← hobj']
  refine ⟨rfl, rfl, rfl, ?_, Mach.obj_sendRetry ..⟩
  rw [Mach.outbox_sendRetry, List.getLast?_concat, hlrt]

end

theorem gives_dataFlitReceive {s : State} (l : Nat) (f : List Byte) (fec : Option Nat) (hrun : s.mach.phase = .running) :
    Gives (.dataFlitReceive l f fec) s (doFlit s.mach l f fec) := gives_step _ s (fun m => doFlit m l f fec) rfl hrun

/-! ## RETRY and RETRY_REPEAT -/

/-- Flits that are sent again leave behind what has been sent, in order (R289). -/
theorem Mach.outbox_resend (m : Mach) (l n : Nat) : (m.resend l n).outbox = m.outbox ++
    ((m.lrt l).replay.drop ((m.lrt l).replay.length - n)).zipIdx.map (fun c => .data l (((m.lrt l).tx + 4096 - n + c.2) % 4096) c.1.1 c.1.2) := by
  unfold Mach.resend
  dsimp only
  rw [Mach.foldl_emit]
  rfl

/-- Of the objects, sending again changes the count of flits sent; the links stay as they were. -/
theorem Mach.resend_effect (m : Mach) (l n : Nat) : (m.resend l n).lrt l = m.lrt l ∧
    (m.resend l n).obj (0x4840 + l) 5 = min (m.obj (0x4840 + l) 5 + n) (2 ^ 64 - 1) ∧ SameObjs [okey (0x4840 + l) 5] m (m.resend l n) := by
  have hobjs : (m.resend l n).objs = (m.addObj (0x4840 + l) 5 n).objs := by
    refine Mach.foldl_same Mach.objs ?_ _ _
    exact fun _ _ => rfl
  refine ⟨?_, ?_, ?_⟩
  · refine Mach.foldl_same (fun a => a.lrt l) ?_ _ _
    exact fun _ _ => rfl
  · rw [Mach.obj_eq_of_objs hobjs, Mach.obj_addObj_same]
  · exact SameObjs.trans (SameObjs.addObj m (0x4840 + l) 5 n (by simp)) (SameObjs.of_objs _ hobjs)

section
variable {m : Mach} {l seq : Nat}

theorem doRetry_beyond (h : (m.lrt l).replay.length < ((m.lrt l).tx + 4096 - seq % 4096) % 4096) : doRetry m l seq = m := by
  unfold doRetry
  exact if_pos (by simp [h])

variable (hup : m.linkState l = 2) (hin : ((m.lrt l).tx + 4096 - seq % 4096) % 4096 ≤ (m.lrt l).replay.length)
include hup hin

/-- The flits from the SEQ that a RETRY names leave again (R289). -/
theorem doRetry_resends (h : ((m.lrt l).askedAgain seq).2 < 8) : doRetry m l seq =
    (m.setLrt l { m.lrt l with again := (m.lrt l).askedAgain seq }).resend l (((m.lrt l).tx + 4096 - seq % 4096) % 4096) := by
  simp [doRetry, hup, Nat.not_lt.mpr hin, Nat.not_le.mpr h]

/-- The eighth RETRY for one SEQ retrains the link (R290). -/
theorem doRetry_retrains (h : 8 ≤ ((m.lrt l).askedAgain seq).2) : doRetry m l seq = m.retrainUp l := by
  simp [doRetry, hup, Nat.not_lt.mpr hin, h]

end

theorem doRetryRepeat_awaits {m : Mach} {l : Nat} (hup : m.linkState l = 2) (h : (m.lrt l).await = true) : doRetryRepeat m l = m.sendRetry l := by
  simp only [doRetryRepeat, hup, h, decide_true, Bool.and_self, if_true]

theorem doRetryRepeat_idle {m : Mach} {l : Nat} (h : (m.lrt l).await = false) : doRetryRepeat m l = m := by
  simp only [doRetryRepeat, h, Bool.and_false, Bool.false_eq_true, if_false]

theorem gives_retry {s : State} (l seq : Nat) (hrun : s.mach.phase = .running) : Gives (.retry l seq) s (doRetry s.mach l seq) :=
  gives_step _ s (fun m => doRetry m l seq) rfl hrun

theorem gives_retryRepeat {s : State} (l : Nat) (hrun : s.mach.phase = .running) : Gives (.retryRepeat l) s (doRetryRepeat s.mach l) :=
  gives_step _ s (fun m => doRetryRepeat m l) rfl hrun

/-- Settles O33: a flit is bad, of control, expected or not; a RETRY sends again, retrains or names nothing; a repeat names the SEQ awaited. -/
theorem linkRetry : Obligations.LinkRetry := by
  constructor
  · intro s l f fec hrun hex hup top r
    have hg := gives_dataFlitReceive l f fec hrun
    refine ⟨fun hbad => ?_, fun hgood hkind hidle => ?_, fun hgood hkind => ⟨fun hseq => ?_, fun hseq => ?_⟩⟩
    · rw [doFlit_bad hex hup hbad, Mach.flitCounted_only] at hg
      refine ⟨_, hg, rfl, rfl, fun hfec => ?_, fun n hfec => ?_, SameObjs.flitCounted s.mach l fec⟩
      · subst hfec
        exact Mach.obj_addObj_same ..
      · subst hfec
        exact Mach.obj_addObj_same ..
    · rw [doFlit_control hex hup hgood hkind, Mach.flitAcked_idle _ _ _ (by rwa [Mach.lrt_flitCounted]), Mach.lrt_flitCounted,
        Mach.flitCounted_only] at hg
      exact ⟨_, hg, Mach.lrt_setLrt_same .., rfl⟩
    · exact ⟨_, hg, doFlit_expected hex hup hgood hkind hseq⟩
    · exact ⟨_, hg, doFlit_other hex hup hgood hkind hseq⟩
  · intro s l seq hrun hup r n again
    have hg := gives_retry l seq hrun
    have hrepeat := gives_retryRepeat l hrun
    refine ⟨fun hin hfew => ?_, fun hin hmany => ?_, fun hbeyond => ?_, fun hawait => ?_, fun hidle => ?_⟩
    · rw [doRetry_resends hup hin hfew] at hg
      obtain ⟨hlrt, hobj, hsame⟩ := (s.mach.setLrt l { s.mach.lrt l with again := (s.mach.lrt l).askedAgain seq }).resend_effect l n
      refine ⟨_, hg, ?_, hobj, ?_, SameObjs.trans (SameObjs.setLrt _ _ _ _) hsame⟩
      · rw [hlrt, Mach.lrt_setLrt_same]
        rfl
      · rw [Mach.outbox_resend, Mach.lrt_setLrt_same]
        rfl
    · rw [doRetry_retrains hup hin hmany] at hg
      refine ⟨_, hg, Mach.linkState_retrainUp .., fun hworn => ?_⟩
      rw [Mach.retrainUp_fresh _ _ hworn, Mach.lrt_setLrt_same]
      exact ⟨rfl, rfl, rfl⟩
    · rwa [doRetry_beyond hbeyond] at hg
    · rw [doRetryRepeat_awaits hup hawait] at hrepeat
      exact ⟨_, hrepeat, Mach.outbox_sendRetry .., rfl, Mach.obj_sendRetry .., SameObjs.sendRetry _ _⟩
    · rwa [doRetryRepeat_idle hidle] at hrepeat

end Sys2Proof.Machine
end

section
/-! SUPPORT. Proofs: the training of a link, HELLO and the probes (R292 to R295, R308). -/

namespace Sys2Proof.Machine

/-! ## LINK_TRAIN -/

/-- A training that fails (R290, R292). -/
def TrainFails (m : Mach) (l why : Nat) (m' : Mach) : Prop := m'.linkState l = 4 ∧ m'.field (0x4840 + l) 2 15 12 = why % 16 ∧
  SameObjs [okey (0x4840 + l) 2] m m' ∧ (m'.lrt l).queue = [] ∧ (m'.lrt l).replay = []

theorem TrainFails.failLink (m : Mach) (l why : Nat) : TrainFails m l why (m.failLink l why) := by
  obtain ⟨hstate, hwhy, hsame, hlrt⟩ := m.failLink_effect l why
  exact ⟨hstate, hwhy, hsame, by rw [hlrt], by rw [hlrt]⟩

/-- The status of a link that has trained: up, with its version and its class (Table 10-16, R294, R295). -/
def trainedStatus (st ver lat : Nat) : Nat := setFld (setFld (setFld st 6 4 2) 9 8 ver) 7 7 (b2n (lat > 150))

theorem trainedStatus_fields (st lat : Nat) {ver : Nat} (hver : ver < 4) : fld (trainedStatus st ver lat) 6 4 = 2 ∧
    fld (trainedStatus st ver lat) 9 8 = ver ∧ bit (trainedStatus st ver lat) 7 = decide (150 < lat) := by
  unfold trainedStatus
  refine ⟨?_, ?_, bit_setBit_same _ 7 _⟩
  · rw [fld_setFld_apart _ _ _ _ _ _ (by decide) (by decide), fld_setFld_apart _ _ _ _ _ _ (by decide) (by decide),
      fld_setFld_same _ _ _ _ (by decide)]
    rfl
  · rw [fld_setFld_apart _ _ _ _ _ _ (by decide) (by decide), fld_setFld_same _ _ _ _ (by decide)]
    exact Nat.mod_eq_of_lt hver

theorem commonVer_lt (a b : Nat) : commonVer a b < 4 := by
  unfold commonVer
  split
  · decide
  · split <;> decide

/-- The module with a link shown as trained, before its messages go on (R292, R294, R295). -/
def Mach.shownTrained (m : Mach) (l : Nat) (env : LinkEnv) : Mach :=
  let lat := latencyOf ((m.lrt l).measured env)
  let ident := identOf env.farAddr env.farValid env.farLink
  (((m.setObj (0x4840 + l) 2 (trainedStatus (m.obj (0x4840 + l) 2) (commonVer (m.offered l) env.farVersions) lat)).setObj (0x4840 + l) 3
    lat).setObj (0x4840 + l) 4 ident).setLrt l { m.lrt l with keep := false, ident := some ident, probes := [], hellos := [] }

section
variable {m : Mach} {l : Nat} {env : LinkEnv}

theorem finishTraining_fails (h : env.fail ≠ 0) : m.finishTraining l env = m.failLink l env.fail := if_pos h

variable (hok : env.fail = 0)
include hok

theorem finishTraining_no_version (h : commonVer (m.offered l) env.farVersions = 0) : m.finishTraining l env = m.failLink l 6 := by
  simp only [Mach.finishTraining, hok, h, ne_eq, not_true_eq_false, if_false, if_true]

variable (hver : commonVer (m.offered l) env.farVersions ≠ 0)
include hver

theorem finishTraining_late (h : 1200 < latencyOf ((m.lrt l).measured env)) : m.finishTraining l env = m.failLink l 7 := by
  simp only [Mach.finishTraining, hok, hver, h, ne_eq, not_true_eq_false, gt_iff_lt, if_false, if_true]

/-- A training that ends up lets its messages go on; a far end other than before is a health event (R292). -/
theorem finishTraining_up (h : latencyOf ((m.lrt l).measured env) ≤ 1200) :
    m.finishTraining l env = ((m.shownTrained l env).resumeLink l).pumpLink l ∨
      m.finishTraining l env = (((m.shownTrained l env).resumeLink l).pumpLink l).health := by
  simp only [Mach.finishTraining, hok, hver, Nat.not_lt.mpr h, ne_eq, not_true_eq_false, gt_iff_lt, if_false]
  split
  · split
    · exact .inr rfl
    · exact .inl rfl
  · exact .inl rfl

end

/-! ### Messages of a version above the link's -/

/-- A message that asks for no answer is lost without more (Table 10-12). -/
theorem Mach.stopMsg_unanswered (m : Mach) {x : Msg} (h : 2 < x.op) : m.stopMsg x = m := if_pos h

theorem Mach.foldl_stopMsg (m : Mach) {xs : List Msg} (h : ∀ x ∈ xs, 2 < x.op) : xs.foldl (fun (a : Mach) x => a.stopMsg x) m = m := by
  induction xs with
  | nil => rfl
  | cons x xs ih =>
    obtain ⟨hx, hxs⟩ := List.forall_mem_cons.mp h
    rw [List.foldl_cons, Mach.stopMsg_unanswered m hx, ih hxs]

/-- A link that resumes with no request above its version sends its replay buffer again, and keeps the messages its version carries. -/
theorem Mach.resumeLink_eq (m : Mach) {l : Nat} (h : ∀ x ∈ (m.lrt l).queue, m.linkVer l < x.mv → 2 < x.op) :
    ∃ sent, m.resumeLink l = ({ m with outbox := sent }).setLrt l { m.lrt l with
      queue := (m.lrt l).queue.filter (fun x => x.mv ≤ m.linkVer l) } := by
  unfold Mach.resumeLink
  dsimp only
  rw [Mach.foldl_emit, Mach.foldl_stopMsg]
  · exact ⟨_, rfl⟩
  · intro x hx
    obtain ⟨hmem, habove⟩ := List.mem_filter.mp hx
    exact h x hmem (of_decide_eq_true habove)

/-! ### A health event leaves the links -/

theorem Mach.obj_health (m : Mach) {i a : Nat} (h : okey 0x200A 0 ≠ okey i a) : m.health.obj i a = m.obj i a := by
  rw [Mach.health, Mach.obj_eq_of_objs (Mach.raise_objs _ _)]
  exact Mach.obj_setObj_other m h _

theorem Mach.obj_health_link (m : Mach) (l a : Nat) : m.health.obj (0x4840 + l) a = m.obj (0x4840 + l) a :=
  Mach.obj_health m (by simp only [okey]; omega)

@[simp] theorem Mach.lrt_health (m : Mach) (l : Nat) : m.health.lrt l = m.lrt l := by
  rw [Mach.health, Mach.raise_only]
  rfl

/-! ### A training that ends up -/

/-- What a training that ends up leaves: the link is up, shows its version, class, latency and far identity, and holds no message above its version. -/
structure TrainsUp (m : Mach) (l ver lat ident : Nat) (m' : Mach) : Prop where
  state : m'.linkState l = 2
  version : m'.linkVer l = ver
  cls : m'.objBit (0x4840 + l) 2 7 = decide (150 < lat)
  latency : m'.obj (0x4840 + l) 3 = lat
  far : m'.obj (0x4840 + l) 4 = ident
  cores : m'.cores = m.cores
  queue : ∀ x ∈ (m'.lrt l).queue, x.mv ≤ ver

theorem TrainsUp.health {m m' : Mach} {l ver lat ident : Nat} (h : TrainsUp m l ver lat ident m') : TrainsUp m l ver lat ident m'.health := by
  obtain ⟨hstate, hversion, hcls, hlatency, hfar, hcores, hqueue⟩ := h
  have hobj := m'.obj_health_link l
  refine ⟨?_, ?_, ?_, (hobj 3).trans hlatency, (hobj 4).trans hfar, (Mach.health_cores m').trans hcores, ?_⟩
  · rwa [Mach.linkState, Mach.field, hobj]
  · rwa [Mach.linkVer, Mach.field, hobj]
  · rwa [Mach.objBit, hobj]
  · rwa [Mach.lrt_health]

/-- What a link sends leaves it trained. -/
theorem TrainsUp.pumpLink {m m' : Mach} {l ver lat ident : Nat} (h : TrainsUp m l ver lat ident m') :
    TrainsUp m l ver lat ident (m'.pumpLink l) := by
  obtain ⟨hstate, hversion, hcls, hlatency, hfar, hcores, hqueue⟩ := h
  have hsends := SendsOnly.pumpLink m' l
  have hobj : ∀ a, a < 5 → (m'.pumpLink l).obj (0x4840 + l) a = m'.obj (0x4840 + l) a := fun a ha => hsends.obj_sub (by omega) (by omega)
  refine ⟨?_, ?_, ?_, (hobj 3 (by decide)).trans hlatency, (hobj 4 (by decide)).trans hfar, ?_, fun x hx => hqueue x ?_⟩
  · rwa [Mach.linkState, Mach.field, hobj 2 (by decide)]
  · rwa [Mach.linkVer, Mach.field, hobj 2 (by decide)]
  · rwa [Mach.objBit, hobj 2 (by decide)]
  · rw [← hcores, hsends.fields]
  · exact Mach.mem_queue_of_pump m' l l hx

/-- A link shown as trained drops its messages above its version as it resumes (Table 10-12). -/
theorem TrainsUp.resumeLink (m : Mach) (l : Nat) (env : LinkEnv)
    (h : ∀ x ∈ (m.lrt l).queue, commonVer (m.offered l) env.farVersions < x.mv → 2 < x.op) :
    TrainsUp m l (commonVer (m.offered l) env.farVersions) (latencyOf ((m.lrt l).measured env)) (identOf env.farAddr env.farValid env.farLink)
      ((m.shownTrained l env).resumeLink l) := by
  obtain ⟨hstate, hversion, hcls⟩ := trainedStatus_fields (m.obj (0x4840 + l) 2) (latencyOf ((m.lrt l).measured env))
    (commonVer_lt (m.offered l) env.farVersions)
  have hshown : (m.shownTrained l env).obj (0x4840 + l) 2 = trainedStatus (m.obj (0x4840 + l) 2) (commonVer (m.offered l) env.farVersions)
      (latencyOf ((m.lrt l).measured env)) := by
    rw [Mach.shownTrained, Mach.obj_setLrt, Mach.obj_setObj_sub _ (by decide) (by decide) (by decide),
      Mach.obj_setObj_sub _ (by decide) (by decide) (by decide), Mach.obj_setObj_same]
  have hlatency : (m.shownTrained l env).obj (0x4840 + l) 3 = latencyOf ((m.lrt l).measured env) := by
    rw [Mach.shownTrained, Mach.obj_setLrt, Mach.obj_setObj_sub _ (by decide) (by decide) (by decide), Mach.obj_setObj_same]
  have hfar : (m.shownTrained l env).obj (0x4840 + l) 4 = identOf env.farAddr env.farValid env.farLink := by
    rw [Mach.shownTrained, Mach.obj_setLrt, Mach.obj_setObj_same]
  have hlrt : ((m.shownTrained l env).lrt l).queue = (m.lrt l).queue := by rw [Mach.shownTrained, Mach.lrt_setLrt_same]
  have hcores : (m.shownTrained l env).cores = m.cores := by simp only [Mach.shownTrained, Mach.setLrt_cores, Mach.setObj_cores]
  generalize m.shownTrained l env = shown at hshown hlatency hfar hlrt hcores
  have hver : shown.linkVer l = commonVer (m.offered l) env.farVersions := by rw [Mach.linkVer, Mach.field, hshown, hversion]
  obtain ⟨sent, hresume⟩ := shown.resumeLink_eq (l := l) (by rwa [hlrt, hver])
  rw [hresume]
  refine ⟨?_, hver, ?_, hlatency, hfar, hcores, fun x hx => ?_⟩
  · change shown.linkState l = 2
    rw [Mach.linkState, Mach.field, hshown, hstate]
  · change shown.objBit (0x4840 + l) 2 7 = _
    rw [Mach.objBit, hshown, hcls]
  · rw [Mach.lrt_setLrt_same] at hx
    rw [← hver]
    exact of_decide_eq_true (List.mem_filter.mp hx).2

theorem doLinkTrain_trains {m : Mach} {l : Nat} (hex : m.linkExists l = true) (htrain : m.linkState l = 1) (env : LinkEnv) :
    doLinkTrain m l env = m.finishTraining l env := by
  simp only [doLinkTrain, hex, htrain, decide_true, Bool.and_self, if_true]

theorem gives_linkTrain {s : State} {l : Nat} (env : LinkEnv) (hrun : s.mach.phase = .running) (hex : s.mach.linkExists l = true)
    (htrain : s.mach.linkState l = 1) : Gives (.linkTrain l env) s (s.mach.finishTraining l env) := by
  have hg := gives_step (.linkTrain l env) s (fun m => doLinkTrain m l env) rfl hrun
  rwa [doLinkTrain_trains hex htrain] at hg

/-! ## HELLO -/

/-- The HELLOs of a link's lanes with one more: the last two of each lane are kept (R292). -/
def LinkRt.hellosWith (r : LinkRt) (lane : Nat) (h : Hello) : AMap (List Hello) := r.hellos.put lane ((h :: r.hellos.get [] lane).take 2)

section
variable {m : Mach} {l lane : Nat} {h a b : Hello} (hex : m.linkExists l = true) (hlane : lane ≤ 1)
  (hst : m.linkState l = 1 ∨ m.linkState l = 2) (h₀ : ((m.lrt l).hellosWith lane h).get [] 0 = [a, a])
  (h₁ : ((m.lrt l).hellosWith lane h).get [] 1 = [b, b])
include hex hlane hst h₀ h₁

/-- Two like HELLOs on both lanes: what they agree on counts, or their disagreement fails a training (R292, R293). -/
theorem doHello_both : doHello m l lane h =
    let heard := m.setLrt l { m.lrt l with hellos := (m.lrt l).hellosWith lane h }
    if a.addr = b.addr && a.link = b.link && a.lane ≠ b.lane then
      (heard.setObj (0x4840 + l) 4 (identOf a.addr a.valid a.link)).pumpLink l
    else if m.linkState l = 1 then heard.failLink l 5 else heard := by
  have hst' : (decide (m.linkState l = 1) || decide (m.linkState l = 2)) = true := by simpa only [Bool.or_eq_true, decide_eq_true_eq] using hst
  unfold LinkRt.hellosWith at h₀ h₁
  simp only [doHello, hex, hst', h₀, h₁, decide_eq_false (Nat.not_lt.mpr hlane), gt_iff_lt, Bool.not_true, Bool.or_self, Bool.false_eq_true,
    ne_eq, not_true_eq_false, or_self, if_false, Mach.linkState_setLrt]
  rfl

/-- Lanes that agree set the far identity (R293). -/
theorem doHello_agreed (haddr : a.addr = b.addr) (hlink : a.link = b.link) (hlanes : a.lane ≠ b.lane) :
    (doHello m l lane h).obj (0x4840 + l) 4 = identOf a.addr a.valid a.link ∧ (doHello m l lane h).linkState l = m.linkState l := by
  rw [doHello_both hex hlane hst h₀ h₁]
  dsimp only
  rw [if_pos (by simp [haddr, hlink, hlanes])]
  constructor
  · rw [(SendsOnly.pumpLink _ l).obj_sub (by decide) (by decide), Mach.obj_setObj_same]
  · rw [(SendsOnly.pumpLink _ l).linkState, Mach.linkState_setObj_sub _ _ (by decide) (by decide), Mach.linkState_setLrt]

/-- Lanes that disagree fail the training with reason 5 (R292). -/
theorem doHello_disagreed (hnot : ¬ (a.addr = b.addr ∧ a.link = b.link ∧ a.lane ≠ b.lane)) (htrain : m.linkState l = 1) :
    (doHello m l lane h).linkState l = 4 ∧ (doHello m l lane h).field (0x4840 + l) 2 15 12 = 5 := by
  rw [doHello_both hex hlane hst h₀ h₁]
  dsimp only
  rw [if_neg (by simpa only [Bool.and_eq_true, decide_eq_true_eq, and_assoc] using hnot), if_pos htrain]
  obtain ⟨hstate, hwhy, -⟩ := TrainFails.failLink (m.setLrt l { m.lrt l with hellos := (m.lrt l).hellosWith lane h }) l 5
  exact ⟨hstate, hwhy⟩

end

theorem gives_hello {s : State} (l lane : Nat) (h : Hello) (hrun : s.mach.phase = .running) : Gives (.hello l lane h) s (doHello s.mach l lane h) :=
  gives_step _ s (fun m => doHello m l lane h) rfl hrun

/-! ## ECHO_REQ and ECHO_RSP -/

theorem doEchoReq_answers {m : Mach} {l : Nat} (probe : Nat) (hex : m.linkExists l = true) (hst : m.linkState l = 1 ∨ m.linkState l = 2) :
    doEchoReq m l probe = { m with
      free := m.free + 1
      outbox := m.outbox ++ [.flit l 3 (probe % 65536 + 65536 * (Config.freeNat m.free 0 % 65536))] } := by
  unfold doEchoReq
  rw [if_pos (by simpa [hex] using hst)]
  rfl

theorem gives_echoReq {s : State} (l probe : Nat) (hrun : s.mach.phase = .running) : Gives (.echoReq l probe) s (doEchoReq s.mach l probe) :=
  gives_step _ s (fun m => doEchoReq m l probe) rfl hrun

section
variable {m : Mach} {l turn rtt : Nat} (hex : m.linkExists l = true) (htrain : m.linkState l = 1)
include hex htrain

/-- A probe before the sixteenth is kept (R294). -/
theorem doEchoRsp_more (h : ((m.lrt l).probes ++ [rtt - turn]).length ≠ 16) :
    doEchoRsp m l turn rtt = m.setLrt l { m.lrt l with probes := (m.lrt l).probes ++ [rtt - turn] } := by
  simp only [doEchoRsp, hex, htrain, h, Bool.not_true, ne_eq, not_true_eq_false, decide_false, Bool.or_self, Bool.false_and, Bool.false_eq_true,
    if_false]

variable (hlast : ((m.lrt l).probes ++ [rtt - turn]).length = 16)
include hlast

/-- The sixteenth probe fails a link beyond 1,200 ns (R294). -/
theorem doEchoRsp_late (h : 1200 < latencyOf ((m.lrt l).probes ++ [rtt - turn])) :
    doEchoRsp m l turn rtt = (m.setLrt l { m.lrt l with probes := (m.lrt l).probes ++ [rtt - turn] }).failLink l 7 := by
  simp only [doEchoRsp, hex, htrain, hlast, h, Bool.not_true, ne_eq, not_true_eq_false, decide_false, decide_true, Bool.or_self, Bool.and_self,
    gt_iff_lt, Bool.false_eq_true, if_false, if_true]

/-- The sixteenth probe sets latency and class (R294). -/
theorem doEchoRsp_measures (h : latencyOf ((m.lrt l).probes ++ [rtt - turn]) ≤ 1200) : doEchoRsp m l turn rtt =
    ((m.setLrt l { m.lrt l with probes := (m.lrt l).probes ++ [rtt - turn] }).setObj (0x4840 + l) 3
      (latencyOf ((m.lrt l).probes ++ [rtt - turn]))).setField (0x4840 + l) 2 7 7 (b2n (latencyOf ((m.lrt l).probes ++ [rtt - turn]) > 150)) := by
  simp only [doEchoRsp, hex, htrain, hlast, Nat.not_lt.mpr h, Bool.not_true, ne_eq, not_true_eq_false, decide_false, decide_true, Bool.or_self,
    Bool.and_false, gt_iff_lt, Bool.false_eq_true, if_false, if_true]

end

theorem gives_echoRsp {s : State} (l probe turn rtt : Nat) (hrun : s.mach.phase = .running) :
    Gives (.echoRsp l probe turn rtt) s (doEchoRsp s.mach l turn rtt) := gives_step _ s (fun m => doEchoRsp m l turn rtt) rfl hrun

/-- Latency and class as a link that trains shows them. -/
theorem Mach.measured_shown (m : Mach) (l lat : Nat) (c : Bool) :
    (((m.setObj (0x4840 + l) 3 lat).setField (0x4840 + l) 2 7 7 (b2n c)).linkState l = m.linkState l) ∧
      ((m.setObj (0x4840 + l) 3 lat).setField (0x4840 + l) 2 7 7 (b2n c)).obj (0x4840 + l) 3 = lat ∧
      ((m.setObj (0x4840 + l) 3 lat).setField (0x4840 + l) 2 7 7 (b2n c)).objBit (0x4840 + l) 2 7 = c := by
  refine ⟨?_, ?_, Mach.objBit_setBit_same ..⟩
  · rw [Mach.linkState, Mach.field_setField_apart _ _ _ _ _ _ _ _ (by decide) (by decide)]
    exact Mach.linkState_setObj_sub m l (by decide) (by decide) _
  · rw [Mach.obj_setField_other _ (okey_ne_of_sub _ _ (by decide) (by decide) (by decide)), Mach.obj_setObj_same]

/-- Settles O32: a training fails with its reason or ends up; lanes that agree set the far identity; the sixteenth probe measures the link. -/
theorem linkTraining : Obligations.LinkTraining := by
  constructor
  · intro s l env hrun hex htrain ver lat fails
    have hg := gives_linkTrain env hrun hex htrain
    refine ⟨fun hfail => ?_, fun hok hnone => ?_, fun hok hver hlate => ?_, fun hok hver hsoon habove => ?_⟩
    · rw [finishTraining_fails hfail] at hg
      exact ⟨_, hg, TrainFails.failLink ..⟩
    · rw [finishTraining_no_version hok hnone] at hg
      exact ⟨_, hg, TrainFails.failLink ..⟩
    · rw [finishTraining_late hok hver hlate] at hg
      exact ⟨_, hg, TrainFails.failLink ..⟩
    · have hmem := s.mach.finishTraining_mem l env
      have hup : TrainsUp s.mach l ver lat (identOf env.farAddr env.farValid env.farLink) (s.mach.finishTraining l env) := by
        have hsent := (TrainsUp.resumeLink s.mach l env habove).pumpLink
        obtain h | h := finishTraining_up hok hver hsoon <;> rw [h]
        · exact hsent
        · exact hsent.health
      obtain ⟨hstate, hversion, hcls, hlatency, hfar, hcores, hqueue⟩ := hup
      exact ⟨_, hg, hstate, hversion, hcls, hlatency, hfar, hcores, hmem, hqueue⟩
  · intro s l hrun hex
    refine ⟨?_, fun probe hst => ?_, ?_⟩
    · intro lane h a a' b b' hlane hst hs h₀ h₁ ha hb
      have hg := gives_hello l lane h hrun
      subst ha hb
      exact ⟨fun haddr hlink hlanes => ⟨_, hg, doHello_agreed hex hlane hst h₀ h₁ haddr hlink hlanes⟩,
        fun hnot htrain => ⟨_, hg, doHello_disagreed hex hlane hst h₀ h₁ hnot htrain⟩⟩
    · have hg := gives_echoReq l probe hrun
      rwa [doEchoReq_answers probe hex hst] at hg
    · intro probe turn rtt htrain ps
      have hg := gives_echoRsp l probe turn rtt hrun
      by_cases hlast : ps.length = 16
      · by_cases hlate : 1200 < latencyOf ps
        · rw [doEchoRsp_late hex htrain hlast hlate] at hg
          obtain ⟨hstate, hwhy, -, hlrt⟩ := (s.mach.setLrt l { s.mach.lrt l with probes := ps }).failLink_effect l 7
          refine ⟨_, hg, ?_, fun _ hsoon => absurd hlate (Nat.not_lt.mpr hsoon), fun _ _ => ⟨hstate, hwhy⟩, fun hmore => absurd hlast hmore⟩
          rw [hlrt, Mach.lrt_setLrt_same]
        · rw [doEchoRsp_measures hex htrain hlast (Nat.not_lt.mp hlate)] at hg
          obtain ⟨hstate, hlatency, hcls⟩ := (s.mach.setLrt l { s.mach.lrt l with probes := ps }).measured_shown l (latencyOf ps)
            (latencyOf ps > 150)
          refine ⟨_, hg, ?_, fun _ _ => ⟨hstate.trans htrain, hlatency, hcls⟩, fun _ hlate' => absurd hlate' hlate,
            fun hmore => absurd hlast hmore⟩
          rw [Mach.lrt_setField, Mach.lrt_setObj, Mach.lrt_setLrt_same]
      · rw [doEchoRsp_more hex htrain hlast] at hg
        exact ⟨_, hg, by rw [Mach.lrt_setLrt_same], fun h => absurd h hlast, fun h => absurd h hlast, fun _ => rfl⟩

end Sys2Proof.Machine
end

section
/-! SUPPORT. Proofs: writes to a link's control and to the fabric address (R290, R292, R293, R311, Table 10-15). -/

namespace Sys2Proof.Machine

/-! ## What a write of the link control asks for -/

/-- The value names a loop-back that there is, and versions that a link may offer (Table 10-15). -/
def ctlGood (v : Nat) : Prop := fld v 10 8 ≤ 4 ∧ fld v 5 4 ≠ 0 ∧ fld v 5 4 ≠ 3

/-- The link is not bound off, and no loop-back of a bundled link is asked for while a job runs (R28, R311). -/
def Mach.ctlFree (m : Mach) (l v : Nat) : Prop := m.linkExists l = true ∧
  ¬ (fld v 10 8 ≠ 0 ∧ fld v 10 8 ≠ fld (m.obj (0x4840 + l) 1) 10 8 ∧ m.inBundle l = true ∧ m.anyJob = true)

/-- What a value that is kept does to the link, whose control was `old`. -/
def Mach.linkCommand (m : Mach) (l v old : Nat) : Mach :=
  if !bit v 0 then
    if bit old 0 then (m.setLinkState l 0).setLrt l { m.lrt l with queue := [], replay := [], rxPart := [], keep := false, farLoop := false, loopAsk := false }
    else m
  else if fld v 10 8 ≠ 0 then
    if fld v 10 8 = fld old 10 8 && bit old 0 then m
    else if fld v 10 8 = 4 then (m.enterLoop l false true).emit (.flit l 5 1) else m.enterLoop l false false
  else if fld old 10 8 ≠ 0 then
    (if fld old 10 8 = 4 then m.emit (.flit l 5 2) else m).trainLink l
  else if bit v 1 then
    (if m.linkState l = 2 then m.retrainUp l
     else if m.linkState l = 1 && (m.lrt l).keep then m
     else (m.addObj32 (0x4840 + l) 0xA 1).trainLink l)
  else if !bit old 0 then m.trainLink l
  else m

/-- The module with the value kept and the write answered. -/
def Mach.ctlKept (m : Mach) (l v : Nat) : Mach := (m.setObj (0x4840 + l) 1 (linkCtlKept v)).reply 0

@[simp] theorem Mach.ctlKept_linkRt (m : Mach) (l v : Nat) : (m.ctlKept l v).linkRt = m.linkRt := rfl
@[simp] theorem Mach.ctlKept_rc (m : Mach) (l v : Nat) : (m.ctlKept l v).rc = m.rc := rfl

section
variable {m : Mach} {l v : Nat}

theorem writeLinkCtl_range (h : ¬ ctlGood v) : m.writeLinkCtl l v = m.reply abortRange := by
  unfold Mach.writeLinkCtl
  refine if_pos ?_
  simp only [Bool.or_eq_true, decide_eq_true_eq]
  unfold ctlGood at h
  omega

variable (hgood : ctlGood v)
include hgood

/-- A value in range, by whether the link may take it. -/
theorem writeLinkCtl_good : m.writeLinkCtl l v = if !m.linkExists l then m.reply abortState
    else if fld v 10 8 ≠ 0 && fld v 10 8 ≠ fld (m.obj (0x4840 + l) 1) 10 8 && m.inBundle l && m.anyJob then m.reply abortState
    else (m.ctlKept l v).linkCommand l v (m.obj (0x4840 + l) 1) := by
  obtain ⟨hloop, hnone, hall⟩ := hgood
  unfold Mach.writeLinkCtl
  exact if_neg (by simp [hloop, hnone, hall])

theorem writeLinkCtl_busy (h : ¬ m.ctlFree l v) : m.writeLinkCtl l v = m.reply abortState := by
  rw [writeLinkCtl_good hgood]
  split
  next => rfl
  next hex =>
    refine if_pos ?_
    have hbusy := not_not.mp (not_and.mp h (by simpa using hex))
    simpa only [Bool.and_eq_true, decide_eq_true_eq, and_assoc] using hbusy

theorem writeLinkCtl_free (h : m.ctlFree l v) : m.writeLinkCtl l v = (m.ctlKept l v).linkCommand l v (m.obj (0x4840 + l) 1) := by
  obtain ⟨hex, hidle⟩ := h
  rw [writeLinkCtl_good hgood, if_neg (by simp [hex]), if_neg (by simpa only [Bool.and_eq_true, decide_eq_true_eq, and_assoc] using hidle)]

end

/-! ## What the link does -/

/-- What a command leaves of a link of `m` whose control was `old` (Table 10-15, R290, R292, R311). -/
structure Commanded (m : Mach) (l v old : Nat) (m' : Mach) : Prop where
  down : bit v 0 = false → bit old 0 = true → m'.linkState l = 0 ∧ (m'.lrt l).queue = []
  loops : bit v 0 = true → fld v 10 8 ≠ 0 → fld v 10 8 ≠ fld old 10 8 ∨ bit old 0 = false → m'.linkState l = 3
  looping : bit v 0 = true → fld v 10 8 ≠ 0 → fld v 10 8 = fld old 10 8 → bit old 0 = true → m'.linkState l = m.linkState l
  leaves : bit v 0 = true → fld v 10 8 = 0 → fld old 10 8 ≠ 0 → m'.linkState l = 1
  retrains : bit v 0 = true → fld v 10 8 = 0 → fld old 10 8 = 0 → bit v 1 = true →
    (m.linkState l = 2 → m'.linkState l = (if (m.lrt l).worn m.rc = true then 4 else 1) ∧
      ((m.lrt l).worn m.rc = false → (m'.lrt l).keep = true ∧ (m'.lrt l).replay = (m.lrt l).replay ∧ (m'.lrt l).queue = (m.lrt l).queue ∧
        (m'.lrt l).tx = (m.lrt l).tx)) ∧
    (m.linkState l = 1 → (m.lrt l).keep = true → m'.linkState l = 1 ∧ m'.linkRt = m.linkRt) ∧
    (m.linkState l ≠ 2 → ¬ (m.linkState l = 1 ∧ (m.lrt l).keep = true) → m'.linkState l = 1) ∧
    (¬ (m.linkState l = 1 ∧ (m.lrt l).keep = true) →
      m'.obj (0x4840 + l) 0xA = min (m.obj (0x4840 + l) 0xA + 1) (2 ^ 32 - 1))
  enabled : bit v 0 = true → fld v 10 8 = 0 → fld old 10 8 = 0 → bit v 1 = false → bit old 0 = false → m'.linkState l = 1
  stays : bit v 0 = true → fld v 10 8 = 0 → fld old 10 8 = 0 → bit v 1 = false → bit old 0 = true → m'.linkState l = m.linkState l

section
variable {m : Mach} {l v old : Nat}

theorem linkCommand_disable (hoff : bit v 0 = false) (hwas : bit old 0 = true) : m.linkCommand l v old =
    (m.setLinkState l 0).setLrt l { m.lrt l with queue := [], replay := [], rxPart := [], keep := false, farLoop := false, loopAsk := false } := by
  simp only [Mach.linkCommand, hoff, hwas, Bool.not_false, if_true]

variable (hon : bit v 0 = true)
include hon

/-- A loop-back that is under way goes on. -/
theorem linkCommand_looping (hloop : fld v 10 8 ≠ 0) (hsame : fld v 10 8 = fld old 10 8) (hwas : bit old 0 = true) : m.linkCommand l v old = m := by
  have hloop' : fld old 10 8 ≠ 0 := hsame ▸ hloop
  simp only [Mach.linkCommand, hon, hloop', hsame, hwas, Bool.not_true, Bool.false_eq_true, ne_eq, not_false_eq_true, decide_true, Bool.and_self,
    if_false, if_true]

/-- A loop-back is entered; the far end is asked for its own (R311, R312). -/
theorem linkState_linkCommand_loops (hloop : fld v 10 8 ≠ 0) (hnew : fld v 10 8 ≠ fld old 10 8 ∨ bit old 0 = false) :
    (m.linkCommand l v old).linkState l = 3 := by
  have hcond : ¬ (decide (fld v 10 8 = fld old 10 8) && bit old 0) = true := by
    rw [Bool.and_eq_true, decide_eq_true_eq, not_and_or, Bool.not_eq_true]
    exact hnew
  unfold Mach.linkCommand
  rw [if_neg (by simp [hon]), if_pos hloop, if_neg hcond]
  split
  · rw [Mach.linkState_emit, Mach.linkState_enterLoop]
  · exact Mach.linkState_enterLoop ..

variable (hloop : fld v 10 8 = 0)
include hloop

/-- A link that leaves a loop-back trains (R311). -/
theorem linkCommand_leaves (hwas : fld old 10 8 ≠ 0) :
    m.linkCommand l v old = (if fld old 10 8 = 4 then m.emit (.flit l 5 2) else m).trainLink l := by
  simp only [Mach.linkCommand, hon, hloop, hwas, Bool.not_true, Bool.false_eq_true, ne_eq, not_true_eq_false, not_false_eq_true, if_false, if_true]

variable (hwas : fld old 10 8 = 0)
include hwas

/-- RETRAIN, by the link's state (R290). -/
theorem linkCommand_retrains (hre : bit v 1 = true) : m.linkCommand l v old =
    if m.linkState l = 2 then m.retrainUp l
    else if m.linkState l = 1 ∧ (m.lrt l).keep = true then m
    else (m.addObj32 (0x4840 + l) 0xA 1).trainLink l := by
  simp only [Mach.linkCommand, hon, hloop, hwas, hre, Bool.not_true, Bool.false_eq_true, ne_eq, not_true_eq_false, if_false, if_true,
    Bool.and_eq_true, decide_eq_true_eq]

variable (hre : bit v 1 = false)
include hre

theorem linkCommand_enables (hoff : bit old 0 = false) : m.linkCommand l v old = m.trainLink l := by
  simp only [Mach.linkCommand, hon, hloop, hwas, hre, hoff, Bool.not_true, Bool.not_false, Bool.false_eq_true, ne_eq, not_true_eq_false, if_false,
    if_true]

theorem linkCommand_stays (hup : bit old 0 = true) : m.linkCommand l v old = m := by
  simp only [Mach.linkCommand, hon, hloop, hwas, hre, hup, Bool.not_true, Bool.false_eq_true, ne_eq, not_true_eq_false, if_false]

end

theorem Mach.obj_trainLink_sub (m : Mach) (l : Nat) {j b : Nat} (hb : b < 256) (h : b ≠ 2) : (m.trainLink l).obj j b = m.obj j b :=
  Mach.obj_setLinkState_sub m l hb h 1

theorem Mach.obj_enterLoop_sub (m : Mach) (l : Nat) (far ask : Bool) {j b : Nat} (hb : b < 256) (h : b ≠ 2) :
    (m.enterLoop l far ask).obj j b = m.obj j b := Mach.obj_setLinkState_sub m l hb h 3

/-- A link retrained by command, in each of its states (R290). -/
theorem Commanded.retrains_of {m : Mach} {l v old : Nat} (hon : bit v 0 = true) (hloop : fld v 10 8 = 0) (hwas : fld old 10 8 = 0)
    (hre : bit v 1 = true) :
    (m.linkState l = 2 → (m.linkCommand l v old).linkState l = (if (m.lrt l).worn m.rc = true then 4 else 1) ∧
      ((m.lrt l).worn m.rc = false → ((m.linkCommand l v old).lrt l).keep = true ∧ ((m.linkCommand l v old).lrt l).replay = (m.lrt l).replay ∧
        ((m.linkCommand l v old).lrt l).queue = (m.lrt l).queue ∧ ((m.linkCommand l v old).lrt l).tx = (m.lrt l).tx)) ∧
    (m.linkState l = 1 → (m.lrt l).keep = true → (m.linkCommand l v old).linkState l = 1 ∧ (m.linkCommand l v old).linkRt = m.linkRt) ∧
    (m.linkState l ≠ 2 → ¬ (m.linkState l = 1 ∧ (m.lrt l).keep = true) → (m.linkCommand l v old).linkState l = 1) ∧
    (¬ (m.linkState l = 1 ∧ (m.lrt l).keep = true) →
      (m.linkCommand l v old).obj (0x4840 + l) 0xA = min (m.obj (0x4840 + l) 0xA + 1) (2 ^ 32 - 1)) := by
  rw [linkCommand_retrains hon hloop hwas hre]
  refine ⟨fun hup => ?_, fun htrain hkeep => ?_, fun hup hnot => ?_, fun hnot => ?_⟩
  · rw [if_pos hup]
    refine ⟨Mach.linkState_retrainUp .., fun hworn => ?_⟩
    rw [Mach.retrainUp_fresh _ _ hworn, Mach.lrt_setLrt_same]
    exact ⟨rfl, rfl, rfl, rfl⟩
  · rw [if_neg (by omega), if_pos ⟨htrain, hkeep⟩]
    exact ⟨htrain, rfl⟩
  · rw [if_neg hup, if_neg hnot, Mach.linkState_trainLink]
  · rw [if_neg hnot]
    split
    · exact Mach.obj_retrainUp ..
    · rw [Mach.obj_trainLink_sub _ _ (by decide) (by decide)]
      exact Mach.obj_setObj_same ..

theorem Commanded.linkCommand (m : Mach) (l v old : Nat) : Commanded m l v old (m.linkCommand l v old) where
  down hoff hwas := by
    rw [linkCommand_disable hoff hwas, Mach.linkState_setLrt, Mach.linkState_setLinkState _ _ (by decide), Mach.lrt_setLrt_same]
    exact ⟨rfl, rfl⟩
  loops hon hloop hnew := linkState_linkCommand_loops hon hloop hnew
  looping hon hloop hsame hwas := by rw [linkCommand_looping hon hloop hsame hwas]
  leaves hon hloop hwas := by rw [linkCommand_leaves hon hloop hwas, Mach.linkState_trainLink]
  retrains hon hloop hwas hre := Commanded.retrains_of hon hloop hwas hre
  enabled hon hloop hwas hre hoff := by rw [linkCommand_enables hon hloop hwas hre hoff, Mach.linkState_trainLink]
  stays hon hloop hwas hre hup := by rw [linkCommand_stays hon hloop hwas hre hup]

/-- A command leaves the link's control and the answer as they were. -/
theorem Mach.linkCommand_control (m : Mach) (l v old : Nat) :
    (m.linkCommand l v old).obj (0x4840 + l) 1 = m.obj (0x4840 + l) 1 ∧ (m.linkCommand l v old).answer = m.answer := by
  unfold Mach.linkCommand
  split
  · split
    · exact ⟨Mach.obj_setLinkState_sub m l (by decide) (by decide) 0, rfl⟩
    · exact ⟨rfl, rfl⟩
  · split
    · split
      · exact ⟨rfl, rfl⟩
      · split
        · exact ⟨Mach.obj_enterLoop_sub m l false true (by decide) (by decide), rfl⟩
        · exact ⟨Mach.obj_enterLoop_sub m l false false (by decide) (by decide), rfl⟩
    · split
      · rw [Mach.obj_trainLink_sub _ _ (by decide) (by decide)]
        split
        · exact ⟨rfl, rfl⟩
        · exact ⟨rfl, rfl⟩
      · split
        · split
          · exact ⟨Mach.obj_retrainUp_sub m l (by decide) (by decide) (by decide), Mach.retrainUp_answer m l⟩
          · split
            · exact ⟨rfl, rfl⟩
            · rw [Mach.obj_trainLink_sub _ _ (by decide) (by decide)]
              exact ⟨Mach.obj_setObj_sub m (by decide) (by decide) (by decide) _, rfl⟩
        · split
          · exact ⟨Mach.obj_trainLink_sub m l (by decide) (by decide), rfl⟩
          · exact ⟨rfl, rfl⟩

/-! ## A loop-back that ends is counted -/

/-- The module with a loop-back that was under way counted (Table 10-15). -/
def Mach.loopCounted (m : Mach) (l kind errors : Nat) : Mach :=
  if kind = 2 && m.linkState l = 3 && m.field (0x4840 + l) 1 10 8 ≠ 0 then m.addObj (0x4840 + l) 0xB errors else m

section
variable (m : Mach) (l kind errors : Nat)

theorem Mach.loopCounted_only : m.loopCounted l kind errors = { m with objs := (m.loopCounted l kind errors).objs } := by
  unfold Mach.loopCounted
  split <;> rfl

theorem Mach.obj_loopCounted_sub {j b : Nat} (hb : b < 256) (h : b ≠ 0xB) : (m.loopCounted l kind errors).obj j b = m.obj j b := by
  unfold Mach.loopCounted
  split
  · exact Mach.obj_addObj_sub m (by decide) hb h.symm _
  · rfl

theorem Mach.linkState_loopCounted (k : Nat) : (m.loopCounted l kind errors).linkState k = m.linkState k := by
  simp only [Mach.linkState, Mach.field, Mach.obj_loopCounted_sub m l kind errors (show 2 < 256 by decide) (by decide)]

@[simp] theorem Mach.loopCounted_linkRt : (m.loopCounted l kind errors).linkRt = m.linkRt := by rw [Mach.loopCounted_only]

@[simp] theorem Mach.loopCounted_rc : (m.loopCounted l kind errors).rc = m.rc := by rw [Mach.loopCounted_only]

/-- The count tells nothing of what the link may take. -/
theorem Mach.ctlFree_loopCounted (v : Nat) : (m.loopCounted l kind errors).ctlFree l v ↔ m.ctlFree l v := by
  have hone : ∀ j, (m.loopCounted l kind errors).obj j 1 = m.obj j 1 := fun j => Mach.obj_loopCounted_sub m l kind errors (by decide) (by decide)
  have hex : (m.loopCounted l kind errors).linkExists l = m.linkExists l := by rw [Mach.loopCounted_only]; rfl
  have hjob : (m.loopCounted l kind errors).anyJob = m.anyJob := by rw [Mach.loopCounted_only]; rfl
  simp only [Mach.ctlFree, Mach.inBundle, hone, hex, hjob]

end

/-- A write that is served reaches the link's control. -/
theorem doLinkWrite_eq {m : Mach} {l v kind : Nat} (hl : l < 64) (hkind : m.linkWriteKind l v = kind) (seen : LoopSeen) :
    doLinkWrite l v kind seen m = (m.loopCounted l kind seen.errors).writeLinkCtl l v := by
  unfold doLinkWrite
  exact if_neg (by simp [hkind, hl])

/-- Which of the three commands a write is, and what it gives. -/
theorem gives_linkWrite {s : State} {path : Path} {l : Nat} (v : Nat) (seen : LoopSeen) (hrun : s.mach.phase = .running)
    (hserves : s.mach.serves path = true) (hl : l < 64) :
    ∃ errors, Gives (if s.mach.linkWriteKind l v = 2 then .linkLoopBack path l v seen
      else if s.mach.linkWriteKind l v = 1 then .linkRetrainCommand path l v else .linkEnable path l v) s
        ((s.mach.loopCounted l (s.mach.linkWriteKind l v) errors).writeLinkCtl l v) := by
  have row : ∀ (c : Instr) (kind : Nat) (seen : LoopSeen), exec c s = s.step (fun m => m.byPath path (doLinkWrite l v kind seen)) →
      s.mach.linkWriteKind l v = kind → Gives c s ((s.mach.loopCounted l kind seen.errors).writeLinkCtl l v) := fun c kind seen hrow hkind => by
    have hg := gives_step c s _ hrow hrun
    rwa [Mach.byPath, if_pos hserves, doLinkWrite_eq hl hkind] at hg
  split
  next h => exact ⟨seen.errors, h.symm ▸ row _ 2 seen rfl h⟩
  next h₂ =>
    split
    next h => exact ⟨0, h.symm ▸ row _ 1 ⟨0, 0, false⟩ rfl h⟩
    next h₁ =>
      have h : s.mach.linkWriteKind l v = 0 := by
        unfold Mach.linkWriteKind at h₁ h₂ ⊢
        split_ifs at h₁ h₂ ⊢ <;> trivial
      exact ⟨0, h.symm ▸ row _ 0 ⟨0, 0, false⟩ rfl h⟩

/-- What a command leaves rests on the link, the time and the count of retrains. -/
theorem Commanded.congr {m m' a : Mach} {l v old : Nat} (hstate : m'.linkState l = m.linkState l) (hlinks : m'.linkRt = m.linkRt)
    (hrc : m'.rc = m.rc) (hcount : m'.obj (0x4840 + l) 0xA = m.obj (0x4840 + l) 0xA) (h : Commanded m' l v old a) : Commanded m l v old a := by
  have hlrt : m'.lrt l = m.lrt l := by simp only [Mach.lrt, hlinks]
  obtain ⟨hdown, hloops, hlooping, hleaves, hretrains, henabled, hstays⟩ := h
  rw [hstate] at hlooping hstays
  rw [hstate, hlrt, hrc, hcount, hlinks] at hretrains
  exact ⟨hdown, hloops, hlooping, hleaves, hretrains, henabled, hstays⟩

/-- A value that the link may take is kept, answered and carried out. -/
theorem Commanded.writeLinkCtl (m : Mach) {l v : Nat} (kind errors : Nat) (hgood : ctlGood v) (hfree : m.ctlFree l v) :
    let m' := (m.loopCounted l kind errors).writeLinkCtl l v
    m'.answer = ⟨0, []⟩ ∧ m'.obj (0x4840 + l) 1 = linkCtlKept v ∧ Commanded m l v (m.obj (0x4840 + l) 1) m' := by
  intro m'
  have hm' : m' = ((m.loopCounted l kind errors).ctlKept l v).linkCommand l v (m.obj (0x4840 + l) 1) := by
    rw [← m.obj_loopCounted_sub l kind errors (j := 0x4840 + l) (show 1 < 256 by decide) (by decide)]
    exact writeLinkCtl_free hgood ((m.ctlFree_loopCounted l kind errors v).mpr hfree)
  clear_value m'
  subst hm'
  obtain ⟨hctl, hanswer⟩ := ((m.loopCounted l kind errors).ctlKept l v).linkCommand_control l v (m.obj (0x4840 + l) 1)
  refine ⟨hanswer, ?_, Commanded.congr ?_ ?_ ?_ ?_ (Commanded.linkCommand ((m.loopCounted l kind errors).ctlKept l v) l v _)⟩
  · rw [hctl, Mach.ctlKept, Mach.obj_reply, Mach.obj_setObj_same]
  · rw [Mach.ctlKept, Mach.linkState_reply, Mach.linkState_setObj_sub _ _ (by decide) (by decide), Mach.linkState_loopCounted]
  · rw [Mach.ctlKept_linkRt, Mach.loopCounted_linkRt]
  · rw [Mach.ctlKept_rc, Mach.loopCounted_rc]
  · rw [Mach.ctlKept, Mach.obj_reply, Mach.obj_setObj_sub _ (by decide) (by decide) (by decide),
      Mach.obj_loopCounted_sub _ _ _ _ (by decide) (by decide)]

/-! ## The fabric address -/

/-- HELLOs that leave in turn are behind what has been sent, and start the links' HELLOs over (R293). -/
theorem Mach.foldl_hello (m : Mach) (arg : Nat) (ls : List Nat) :
    ∃ links, ls.foldl (fun (a : Mach) l => (a.setLrt l { a.lrt l with hellos := [] }).emit (.flit l 1 arg)) m = { m with
      linkRt := links
      outbox := m.outbox ++ ls.map (fun l => .flit l 1 arg) } := by
  induction ls generalizing m with
  | nil => exact ⟨m.linkRt, by simp⟩
  | cons l ls ih =>
    obtain ⟨links, hfold⟩ := ih ((m.setLrt l { m.lrt l with hellos := [] }).emit (.flit l 1 arg))
    refine ⟨links, ?_⟩
    rw [List.foldl_cons, hfold]
    simp only [Mach.emit, Mach.setLrt, List.map_cons, List.append_assoc, List.singleton_append]

theorem writeFabricAddress_busy {m : Mach} (v : Nat) (h : m.anyJob = true) : m.writeFabricAddress v = m.reply abortState := if_pos h

/-- An address that is kept: every up link says HELLO again (R293). -/
theorem writeFabricAddress_kept {m : Mach} (v : Nat) (h : m.anyJob = false) :
    (m.writeFabricAddress v).answer = ⟨0, []⟩ ∧ (m.writeFabricAddress v).obj 0x4800 2 = v % 4096 + 2 ^ 15 * fld v 15 15 ∧
      SameObjs [okey 0x4800 2] m (m.writeFabricAddress v) ∧ (m.writeFabricAddress v).outbox =
        m.outbox ++ ((List.range 64).filter (fun l => m.linkState l = 2)).map (fun l => .flit l 1 (v % 65536)) := by
  have hstate : ∀ l, ((m.setObj 0x4800 2 (v % 4096 + 2 ^ 15 * fld v 15 15)).reply 0).linkState l = m.linkState l := fun l => by
    rw [Mach.linkState_reply]
    simp only [Mach.linkState, Mach.field]
    rw [Mach.obj_setObj_other _ (by simp only [okey]; omega)]
  have hkept : SameObjs [okey 0x4800 2] m (m.setObj 0x4800 2 (v % 4096 + 2 ^ 15 * fld v 15 15)) := SameObjs.setObj m _ _ _ (by simp)
  have hshown : (m.setObj 0x4800 2 (v % 4096 + 2 ^ 15 * fld v 15 15)).obj 0x4800 2 = v % 4096 + 2 ^ 15 * fld v 15 15 := Mach.obj_setObj_same ..
  have hsent : (m.setObj 0x4800 2 (v % 4096 + 2 ^ 15 * fld v 15 15)).outbox = m.outbox := Mach.setObj_outbox ..
  unfold Mach.writeFabricAddress
  rw [if_neg (Bool.eq_false_iff.mp h)]
  simp only [hstate]
  generalize m.setObj 0x4800 2 (v % 4096 + 2 ^ 15 * fld v 15 15) = kept at hkept hshown hsent ⊢
  obtain ⟨links, hfold⟩ := (kept.reply 0).foldl_hello (v % 65536) ((List.range 64).filter fun l => m.linkState l = 2)
  rw [hfold]
  exact ⟨rfl, hshown, hkept, by rw [← hsent]; rfl⟩

theorem gives_fabricAddressWrite {s : State} {path : Path} (v : Nat) (hrun : s.mach.phase = .running) (hserves : s.mach.serves path = true) :
    Gives (.fabricAddressWrite path v) s (s.mach.writeFabricAddress v) := by
  have hg := gives_step (.fabricAddressWrite path v) s (fun m => m.byPath path (fun m => m.writeFabricAddress v)) rfl hrun
  rwa [Mach.byPath, if_pos hserves] at hg

/-- Settles O35: a value out of range or of a busy link is refused, any other kept and carried out; a new fabric address goes out on every up link. -/
theorem linkCommandsAndAddress : Obligations.LinkCommandsAndAddress := by
  constructor
  · intro s path l v seen hrun hserves hl old loop r kind row good free
    obtain ⟨errors, hg⟩ := gives_linkWrite v seen hrun hserves hl
    have hctl := s.mach.obj_loopCounted_sub l kind errors (j := 0x4840 + l) (show 1 < 256 by decide) (by decide)
    have hlinks := s.mach.loopCounted_linkRt l kind errors
    refine ⟨fun hbad => ?_, fun hgood hbusy => ?_, fun hgood hfree => ?_⟩
    · rw [writeLinkCtl_range hbad] at hg
      exact ⟨_, hg, rfl, hlinks, hctl⟩
    · rw [writeLinkCtl_busy hgood (mt (s.mach.ctlFree_loopCounted l kind errors v).mp hbusy)] at hg
      exact ⟨_, hg, rfl, hlinks, hctl⟩
    · obtain ⟨hanswer, hkept, hdown, hloops, hlooping, hleaves, hretrains, henabled, hstays⟩ :=
        Commanded.writeLinkCtl s.mach kind errors hgood hfree
      exact ⟨_, hg, hanswer, hkept, hdown, hloops, hlooping, hleaves, hretrains, henabled, hstays⟩
  · intro s path v hrun hserves
    have hg := gives_fabricAddressWrite v hrun hserves
    refine ⟨fun hbusy => ?_, fun hidle => ?_⟩
    · rwa [writeFabricAddress_busy v hbusy] at hg
    · exact ⟨_, hg, writeFabricAddress_kept v hidle⟩

end Sys2Proof.Machine
end

section
/-! SUPPORT. Proofs: retrains, loop-backs with the far end, and lost links (R136, R290, R307, R311, R312, Table 17-6). -/

namespace Sys2Proof.Machine

/-! ## Retrains (R290) -/

section
variable {m : Mach} {l : Nat}

theorem doLinkRetrain_up (hex : m.linkExists l = true) (hup : m.linkState l = 2) : doLinkRetrain m l = m.retrainUp l := by
  simp [doLinkRetrain, hex, hup]

theorem doRetrainTimeout_late (htrain : m.linkState l = 1) (hkeep : (m.lrt l).keep = true) (hlate : 25000000 ≤ m.rc - (m.lrt l).t0) :
    doRetrainTimeout m l = m.failLink l 8 := by
  simp only [doRetrainTimeout, htrain, hkeep, hlate, decide_true, Bool.and_self, if_true]

theorem doRetrainTimeout_early (h : m.rc - (m.lrt l).t0 < 25000000) : doRetrainTimeout m l = m := by
  simp only [doRetrainTimeout, decide_eq_false (Nat.not_le.mpr h), ge_iff_le, Bool.and_false, Bool.false_eq_true, if_false]

end

theorem gives_linkRetrain {s : State} (l : Nat) (hrun : s.mach.phase = .running) : Gives (.linkRetrain l) s (doLinkRetrain s.mach l) :=
  gives_step _ s (fun m => doLinkRetrain m l) rfl hrun

theorem gives_retrainTimeout {s : State} (l : Nat) (hrun : s.mach.phase = .running) : Gives (.retrainTimeout l) s (doRetrainTimeout s.mach l) :=
  gives_step _ s (fun m => doRetrainTimeout m l) rfl hrun

/-! ## Loop-backs with the far end (R311, R312) -/

section
variable {m : Mach} {l : Nat}

theorem doLoopReq_accepted (hex : m.linkExists l = true) (hup : m.linkState l = 2) (hfree : m.objBit (0x4840 + l) 1 2 = true) :
    doLoopReq m l true = (m.enterLoop l true false).emit (.flit l 6 0) := by
  simp [doLoopReq, hex, hup, hfree]

theorem doLoopReq_refused (hex : m.linkExists l = true) (h : m.linkState l ≠ 2 ∨ m.objBit (0x4840 + l) 1 2 = false) :
    doLoopReq m l true = m.emit (.flit l 6 1) := by
  have hnot : ¬ (m.linkState l = 2 ∧ m.objBit (0x4840 + l) 1 2 = true) := by
    rintro ⟨hup, hfree⟩
    exact h.elim (· hup) fun hf => Bool.false_ne_true (hf.symm.trans hfree)
  simp [doLoopReq, hex, hnot]

theorem doLoopReq_left (hex : m.linkExists l = true) (hloop : m.linkState l = 3) (hfar : (m.lrt l).farLoop = true) :
    doLoopReq m l false = (m.trainLink l).emit (.flit l 6 0) := by
  simp [doLoopReq, hex, hloop, hfar]

/-- A far end that refuses, or does not answer, shows as FAR_REFUSED, and the link trains (R312). -/
theorem Mach.farRefused_effect (m : Mach) (l : Nat) : (m.farRefused l).linkState l = 1 ∧ (m.farRefused l).field (0x4840 + l) 2 15 12 = 9 ∧
    (m.farRefused l).field (0x4840 + l) 1 10 8 = 0 := by
  unfold Mach.farRefused
  refine ⟨?_, ?_, ?_⟩
  · rw [Mach.linkState_setReason, Mach.linkState_trainLink]
  · rw [Mach.field_setField_same _ _ _ _ _ _ (by decide)]
    rfl
  · rw [Mach.field_setField_other _ (okey_ne_of_sub _ _ (by decide) (by decide) (by decide)), Mach.field,
      Mach.obj_trainLink_sub _ _ (by decide) (by decide)]
    exact (Mach.field_setField_same m _ _ _ _ _ (by decide)).trans (Nat.zero_mod _)

theorem doLoopAck_asked (ok : Bool) (hloop : m.linkState l = 3) (hask : (m.lrt l).loopAsk = true) :
    doLoopAck m l ok = if ok then m.setLrt l { m.lrt l with loopAsk := false } else m.farRefused l := by
  simp only [doLoopAck, hloop, hask, decide_true, Bool.and_self, if_true]

/-- The far end leaves its loop-back after 60 s (R312). -/
theorem doFarLoopTimeout_far (hloop : m.linkState l = 3) (hfar : (m.lrt l).farLoop = true) (hlate : 1500000000 ≤ m.rc - (m.lrt l).t0) :
    doFarLoopTimeout m l = m.trainLink l := by
  simp only [doFarLoopTimeout, hloop, hfar, hlate, ge_iff_le, ne_eq, not_true_eq_false, decide_true, Bool.and_self, if_false, if_true]

/-- A requesting end waits 1 ms for its answer (R312). -/
theorem doFarLoopTimeout_asked (hloop : m.linkState l = 3) (hask : (m.lrt l).loopAsk = true) (hfar : (m.lrt l).farLoop = false)
    (hlate : 25000 ≤ m.rc - (m.lrt l).t0) : doFarLoopTimeout m l = m.farRefused l := by
  simp only [doFarLoopTimeout, hloop, hask, hfar, hlate, ge_iff_le, ne_eq, not_true_eq_false, decide_true, Bool.and_self, Bool.false_and,
    Bool.false_eq_true, if_false, if_true]

end

theorem gives_loopReq {s : State} (l : Nat) (enter : Bool) (hrun : s.mach.phase = .running) :
    Gives (.loopReq l enter) s (doLoopReq s.mach l enter) := gives_step _ s (fun m => doLoopReq m l enter) rfl hrun

theorem gives_loopAck {s : State} (l : Nat) (ok : Bool) (hrun : s.mach.phase = .running) : Gives (.loopAck l ok) s (doLoopAck s.mach l ok) :=
  gives_step _ s (fun m => doLoopAck m l ok) rfl hrun

theorem gives_farLoopTimeout {s : State} (l : Nat) (hrun : s.mach.phase = .running) :
    Gives (.farLoopTimeout l) s (doFarLoopTimeout s.mach l) := gives_step _ s (fun m => doFarLoopTimeout m l) rfl hrun

/-! ## Folds -/

/-- Of a fold whose steps each bring about their own fact and keep the others', every fact holds at its end. -/
theorem foldl_brings {α β : Type} {f : β → α → β} {P : α → β → Prop} (xs : List α) (b : β) (hbrings : ∀ b, ∀ x ∈ xs, P x (f b x))
    (hkeeps : ∀ b x y, P y b → P y (f b x)) : ∀ x ∈ xs, P x (xs.foldl f b) := by
  induction xs generalizing b with
  | nil => exact fun x hx => absurd hx List.not_mem_nil
  | cons y ys ih =>
    obtain ⟨hy, hys⟩ := List.forall_mem_cons.mp (fun x hx b => hbrings b x hx : ∀ x ∈ y :: ys, ∀ b, P x (f b x))
    refine List.forall_mem_cons.mpr ⟨?_, ih (f b y) fun b x hx => hys x hx b⟩
    exact List.foldlRecOn (motive := P y) ys f (hy b) fun b hb x _ => hkeeps b x y hb

/-! ## What a lost link ends -/

/-- No flow and no lifeline of a partition changes. -/
structure FlowsKept (m m' : Mach) : Prop where
  flows : ∀ p, (m'.part p).flows = (m.part p).flows
  life : ∀ p, (m'.part p).life = (m.part p).life

theorem FlowsKept.of_parts {m m' : Mach} (h : m'.parts = m.parts) : FlowsKept m m' :=
  ⟨fun p => by simp only [Mach.part, h], fun p => by simp only [Mach.part, h]⟩

theorem FlowsKept.trans {a b c : Mach} (h : FlowsKept a b) (h' : FlowsKept b c) : FlowsKept a c :=
  ⟨fun p => (h'.flows p).trans (h.flows p), fun p => (h'.life p).trans (h.life p)⟩

theorem FlowsKept.modPart (m : Mach) (p : Nat) {f : Part → Part} (hflows : ∀ q, (f q).flows = q.flows) (hlife : ∀ q, (f q).life = q.life) :
    FlowsKept m (m.modPart p f) := by
  refine ⟨fun q => ?_, fun q => ?_⟩ <;> rw [Mach.modPart, Mach.part_setPart] <;> split
  next h => exact h ▸ hflows _
  next => rfl
  next h => exact h ▸ hlife _
  next => rfl

theorem FlowsKept.stopRounds (m : Mach) (p : Nat) : FlowsKept m (m.stopRounds p) := by
  unfold Mach.stopRounds
  dsimp only
  split
  · exact FlowsKept.trans (FlowsKept.of_parts (Mach.setBit_parts ..)) (FlowsKept.modPart _ p (fun _ => rfl) fun _ => rfl)
  · exact FlowsKept.modPart m p (fun _ => rfl) fun _ => rfl

theorem FlowsKept.stopJob (m : Mach) (j : Job) (guest : Bool) (status detail : Nat) : FlowsKept m (m.stopJob j guest status detail) := by
  have hstopped : FlowsKept m ((m.modJob j (fun x => { x with st := .stopping status detail })).stopCores j.part guest) :=
    FlowsKept.of_parts (Mach.stopCores_parts ..)
  unfold Mach.stopJob
  dsimp only
  split
  · exact hstopped
  · exact FlowsKept.trans hstopped (FlowsKept.stopRounds ..)

/-- A fault of a job leaves what arrives for its partition, and its lifelines (R152). -/
theorem FlowsKept.jobFault (m : Mach) (p : Nat) (guest : Bool) (code : Nat) (record : Job → List Byte) :
    FlowsKept m (m.jobFault p guest code record) := by
  unfold Mach.jobFault
  cases m.jobOf p guest with
  | none => exact FlowsKept.of_parts rfl
  | some j =>
    have hcounted : (if guest then m else m.addObj (0x6280 + p) 3 1).parts = m.parts := by split <;> rfl
    dsimp only
    generalize (if guest then m else m.addObj (0x6280 + p) 3 1) = counted at hcounted
    refine FlowsKept.trans (FlowsKept.of_parts hcounted) ?_
    split
    · refine FlowsKept.trans ?_ (FlowsKept.of_parts (Mach.raise_parts ..))
      have hset : ((counted.setObj (faultIdx p guest).1 (faultIdx p guest).2 (leNat (record j))).modJob j
          (fun x => { x with faulted := true })).parts = counted.parts := (Mach.modJob_parts ..).trans (Mach.setObj_parts ..)
      generalize ((counted.setObj (faultIdx p guest).1 (faultIdx p guest).2 (leNat (record j))).modJob j
          (fun x => { x with faulted := true })) = recorded at hset
      split
      · exact FlowsKept.trans (FlowsKept.of_parts hset) (FlowsKept.stopJob ..)
      · exact FlowsKept.of_parts hset
    · refine FlowsKept.of_parts ?_
      simp only [Mach.parts_ite, Mach.setObj_parts, Mach.addObj32_parts, ite_self]

/-- What the end of sends over a lost link leaves: the memory, the links, the objects below 3000h, what arrives for the partitions and their
lifelines; and no data movement becomes outstanding. -/
structure LossOnly (m m' : Mach) : Prop where
  mem : m'.mem = m.mem
  linkRt : m'.linkRt = m.linkRt
  low : ∀ i a, okey i a < okey 0x3000 0 → m'.obj i a = m.obj i a
  kept : FlowsKept m m'
  dma : ∀ c, ∀ e ∈ (m'.core c).host.dma, e ∈ (m.core c).host.dma

theorem LossOnly.refl (m : Mach) : LossOnly m m := ⟨rfl, rfl, fun _ _ _ => rfl, FlowsKept.of_parts rfl, fun _ _ he => he⟩

theorem LossOnly.trans {a b c : Mach} (h : LossOnly a b) (h' : LossOnly b c) : LossOnly a c :=
  ⟨h'.mem.trans h.mem, h'.linkRt.trans h.linkRt, fun i n hi => (h'.low i n hi).trans (h.low i n hi), h.kept.trans h'.kept,
    fun k e he => h.dma k e (h'.dma k e he)⟩

/-- What changes partitions alone, and no flow or lifeline. -/
theorem LossOnly.modPart (m : Mach) (p : Nat) {f : Part → Part} (hflows : ∀ q, (f q).flows = q.flows) (hlife : ∀ q, (f q).life = q.life) :
    LossOnly m (m.modPart p f) := ⟨rfl, rfl, fun _ _ _ => rfl, FlowsKept.modPart m p hflows hlife, fun _ _ he => he⟩

theorem not_mem_faultKeys_of_low {i a : Nat} (p : Nat) (h : okey i a < okey 0x3000 0) : okey i a ∉ faultKeys p := by
  simp only [faultKeys, okey, pix, List.mem_cons, List.not_mem_nil, or_false, not_or] at h ⊢
  omega

theorem LossOnly.jobFault (m : Mach) (p : Nat) (guest : Bool) (code : Nat) (record : Job → List Byte) :
    LossOnly m (m.jobFault p guest code record) := by
  have honly := FaultsOnly.jobFault m p guest code record
  refine ⟨Mach.jobFault_mem .., ?_, fun i a hi => SameObjs.jobFault m p guest code record i a (not_mem_faultKeys_of_low p hi),
    FlowsKept.jobFault .., fun c e he => ?_⟩
  · rw [honly.fields]
  · exact (honly.dma c false) ▸ he

theorem LossOnly.fault (m : Mach) (p core : Nat) (guest : Bool) (code opc pc info : Nat) :
    LossOnly m (m.fault p core guest code opc pc info) := by
  have honly := FaultsOnly.fault m p core guest code opc pc info
  refine ⟨Mach.fault_mem .., ?_, fun i a hi => SameObjs.fault m p core guest code opc pc info i a (not_mem_faultKeys_of_low p hi), ?_,
    fun c e he => ?_⟩
  · rw [honly.fields]
  · rw [Mach.fault_eq]
    refine FlowsKept.trans (FlowsKept.of_parts ?_) (FlowsKept.jobFault ..)
    unfold Mach.faultStopped
    dsimp only
    split <;> rfl
  · exact (honly.dma c false) ▸ he

/-- The objects of counters from 3000h on are none below. -/
theorem LossOnly.addObj (m : Mach) (i a n : Nat) (h : 0x3000 ≤ i) : LossOnly m (m.addObj i a n) := by
  refine ⟨rfl, rfl, fun j b hj => Mach.obj_setObj_other m ?_ _, FlowsKept.of_parts rfl, fun _ _ he => he⟩
  simp only [okey] at hj ⊢
  omega

/-- The operations that a core no longer has outstanding were so before. -/
theorem LossOnly.filterDma (m : Mach) (core : Nat) (keep : DmaEntry → Bool) :
    LossOnly m (m.modCtx core false fun c => { c with dma := c.dma.filter keep }) := by
  refine ⟨rfl, rfl, fun _ _ _ => rfl, FlowsKept.of_parts rfl, fun c e he => ?_⟩
  rw [Mach.modCtx, Mach.core_setCore] at he
  split at he
  next h => exact h ▸ (List.mem_filter.mp he).1
  next => exact he

theorem LossOnly.dropRemote (m : Mach) (core mid : Nat) : LossOnly m (m.dropRemote core mid) := by
  refine LossOnly.trans (LossOnly.filterDma m core fun e => !isRemote mid e) (LossOnly.modPart _ _ ?_ ?_)
  · exact fun _ => rfl
  · exact fun _ => rfl

theorem LossOnly.rdmaLost (m : Mach) (p core pc peer code : Nat) : LossOnly m (m.rdmaLost p core pc peer code) :=
  LossOnly.trans (LossOnly.fault ..) (LossOnly.addObj _ _ _ _ (by omega))

/-! ### RDMAs (R307) -/

/-- The operation waits for an answer whose first hop is the link. -/
def DmaEntry.over (l : Nat) (d : DmaEntry) : Bool := match d.plan with | .remote _ _ k _ => k = l | _ => false

theorem DmaEntry.over_of_plan {l pe mid t : Nat} {d : DmaEntry} (h : d.plan = .remote pe mid l t) : d.over l = true := by
  simp only [DmaEntry.over, h, decide_true]

/-- An RDMA whose link is lost completes with FDh (R307). -/
def Mach.loseRdma (m : Mach) (core : Nat) (d : DmaEntry) : Mach :=
  match d.plan with
  | .remote peer mid _ _ => (m.dropRemote core mid).rdmaLost ((m.partOf (core / 16)).getD 0) core d.pc peer 0xFD
  | _ => m

/-- The RDMAs of a core over a link are lost. -/
def Mach.loseRdmas (m : Mach) (core l : Nat) : Mach := ((m.core core).host.dma.filter (DmaEntry.over l)).foldl (fun (b : Mach) d => b.loseRdma core d) m

theorem Mach.dropRdmas_eq (m : Mach) (l : Nat) : m.dropRdmas l = m.cores.foldl (fun (a : Mach) e => a.loseRdmas e.1 l) m := rfl

/-- No operation of a core waits for an answer over the link. -/
def NoneOver (l core : Nat) (m : Mach) : Prop := ∀ d ∈ (m.core core).host.dma, d.over l = false

theorem NoneOver.mono {l core : Nat} {m m' : Mach} (h : LossOnly m m') (hm : NoneOver l core m) : NoneOver l core m' :=
  fun d hd => hm d (h.dma core d hd)

theorem LossOnly.loseRdma (m : Mach) (core : Nat) (d : DmaEntry) : LossOnly m (m.loseRdma core d) := by
  unfold Mach.loseRdma
  split
  · exact LossOnly.trans (LossOnly.dropRemote ..) (LossOnly.rdmaLost ..)
  · exact LossOnly.refl m

theorem LossOnly.loseRdmas (m : Mach) (core l : Nat) : LossOnly m (m.loseRdmas core l) :=
  List.foldlRecOn (motive := fun b : Mach => LossOnly m b) _ _ (LossOnly.refl m) fun _ hb d _ => hb.trans (LossOnly.loseRdma _ core d)

theorem LossOnly.dropRdmas (m : Mach) (l : Nat) : LossOnly m (m.dropRdmas l) := by
  rw [Mach.dropRdmas_eq]
  exact List.foldlRecOn (motive := fun b : Mach => LossOnly m b) _ _ (LossOnly.refl m) fun _ hb e _ => hb.trans (LossOnly.loseRdmas _ e.1 l)

/-- An RDMA that is lost is outstanding no longer. -/
theorem Mach.not_mem_loseRdma (m : Mach) (core : Nat) {l : Nat} {d : DmaEntry} (h : d.over l = true) :
    d ∉ ((m.loseRdma core d).core core).host.dma := by
  intro hd
  unfold Mach.loseRdma at hd
  split at hd
  next peer mid k t hplan =>
    rw [Mach.rdmaLost_dma] at hd
    have hnot := not_isRemote_dropRemote m core mid d hd
    simp [isRemote, hplan] at hnot
  next hnone =>
    unfold DmaEntry.over at h
    split at h
    next peer mid k t hplan => exact hnone peer mid k t hplan
    next => cases h

theorem NoneOver.loseRdmas (m : Mach) (core l : Nat) : NoneOver l core (m.loseRdmas core l) := by
  intro d hd
  rw [Bool.eq_false_iff]
  intro hover
  have hgone := foldl_brings (P := fun (d : DmaEntry) (b : Mach) => d ∉ (b.core core).host.dma)
    (f := fun (b : Mach) d => b.loseRdma core d) ((m.core core).host.dma.filter (DmaEntry.over l)) m
    (fun b x hx => b.not_mem_loseRdma core (List.mem_filter.mp hx).2)
    (fun b x y hy hmem => hy ((LossOnly.loseRdma b core x).dma core y hmem))
  exact hgone d (List.mem_filter.mpr ⟨(LossOnly.loseRdmas m core l).dma core d hd, hover⟩) hd

/-- An entry that a table does not list reads the default. -/
theorem AMap.get_of_unlisted {α : Type} (d : α) {k : Nat} {t : AMap α} (h : ∀ e ∈ t, e.1 ≠ k) : AMap.get d k t = d := by
  induction t with
  | nil => rfl
  | cons e t ih =>
    obtain ⟨he, ht⟩ := List.forall_mem_cons.mp h
    rw [AMap.get, if_neg he, ih ht]

/-- After a loss no RDMA waits for an answer over the link. -/
theorem NoneOver.dropRdmas (m : Mach) (l c : Nat) : NoneOver l c (m.dropRdmas l) := by
  by_cases hlisted : ∃ e ∈ m.cores, e.1 = c
  · obtain ⟨e, he, rfl⟩ := hlisted
    rw [Mach.dropRdmas_eq]
    exact foldl_brings (P := fun (e : Nat × Core) (b : Mach) => NoneOver l e.1 b) m.cores m (fun b x _ => NoneOver.loseRdmas b x.1 l)
      (fun b x y hy => NoneOver.mono (LossOnly.loseRdmas b x.1 l) hy) e he
  · have hidle : m.core c = Core.init (c % 16) := AMap.get_of_unlisted _ fun e he hec => hlisted ⟨e, he, hec⟩
    intro d hd
    have hbefore := (LossOnly.dropRdmas m l).dma c d hd
    rw [hidle] at hbefore
    cases hbefore

/-! ### Contributions, and what saved jobs wait for (R282, Table 14-9) -/

theorem LossOnly.engineFault (m : Mach) (p id tile code : Nat) : LossOnly m (m.engineFault p id tile code) := by
  unfold Mach.engineFault
  dsimp only
  split
  · exact LossOnly.trans (b := { m with hwWait := m.hwWait ++ [(code, p, 0xFFFF)] })
      ⟨rfl, rfl, fun _ _ _ => rfl, FlowsKept.of_parts rfl, fun _ _ he => he⟩ (LossOnly.jobFault ..)
  · exact LossOnly.jobFault ..

theorem LossOnly.dropFwds (m : Mach) (l : Nat) : LossOnly m (m.dropFwds l) := by
  refine List.foldlRecOn (motive := fun b : Mach => LossOnly m b) _ _ (LossOnly.refl m) fun a ha e _ => ?_
  refine List.foldlRecOn (motive := fun b : Mach => LossOnly m b) _ _ ha fun b hb r _ => ?_
  refine List.foldlRecOn (motive := fun b : Mach => LossOnly m b) _ _ hb fun c hc u _ => ?_
  split
  · exact hc.trans (LossOnly.engineFault ..)
  · exact hc

theorem LossOnly.dropSaved (m : Mach) (l : Nat) : LossOnly m (m.dropSaved l) := by
  refine List.foldlRecOn (motive := fun b : Mach => LossOnly m b) _ _ (LossOnly.refl m) fun a ha e _ => ha.trans (LossOnly.modPart _ _ ?_ ?_)
  · exact fun _ => rfl
  · exact fun _ => rfl

/-- The sends that a lost link carried have ended. -/
def Mach.sendsEnded (m : Mach) (l : Nat) : Mach := ((m.dropRdmas l).dropFwds l).dropSaved l

theorem LossOnly.sendsEnded (m : Mach) (l : Nat) : LossOnly m (m.sendsEnded l) :=
  ((LossOnly.dropRdmas m l).trans (LossOnly.dropFwds ..)).trans (LossOnly.dropSaved ..)

theorem NoneOver.sendsEnded (m : Mach) (l c : Nat) : NoneOver l c (m.sendsEnded l) :=
  NoneOver.mono ((LossOnly.dropFwds ..).trans (LossOnly.dropSaved ..)) (NoneOver.dropRdmas m l c)

/-! ### Flows (R136) -/

/-- The byte lies in the destination of no write that the link brought. -/
def OutsideFlows (m : Mach) (l a : Nat) : Prop := ∀ p, ∀ f ∈ (m.part p).flows, f.link = l → ¬ (f.dst ≤ a ∧ a < f.dst + f.len)

/-- What cutting the flows of a link changes: the flows, and the bytes of their destinations. -/
structure FlowsCut (l : Nat) (m m' : Mach) : Prop where
  objs : m'.objs = m.objs
  linkRt : m'.linkRt = m.linkRt
  cores : m'.cores = m.cores
  life : ∀ p, (m'.part p).life = (m.part p).life
  flows : ∀ p, (m'.part p).flows ⊆ (m.part p).flows
  wf : Memory.wf m → Memory.wf m'
  outside : Memory.wf m → ∀ a, OutsideFlows m l a → m'.rd a 1 = m.rd a 1

theorem FlowsCut.refl (l : Nat) (m : Mach) : FlowsCut l m m := ⟨rfl, rfl, rfl, fun _ => rfl, fun _ _ hf => hf, fun hm => hm, fun _ _ _ => rfl⟩

theorem Mach.cutFlow_linkRt (m : Mach) (p : Nat) (f : Flow) : (m.cutFlow p f).linkRt = m.linkRt := by
  unfold Mach.cutFlow
  dsimp only
  split <;> rfl

theorem Mach.cutFlow_cores (m : Mach) (p : Nat) (f : Flow) : (m.cutFlow p f).cores = m.cores := by
  unfold Mach.cutFlow
  dsimp only
  split <;> rfl

/-- A flow that is cut, of those that the link brought. -/
theorem FlowsCut.cutFlow {l p : Nat} {m b : Mach} {f : Flow} (h : FlowsCut l m b) (hf : f ∈ (m.part p).flows) (hl : f.link = l) :
    FlowsCut l m (b.cutFlow p f) := by
  have hparts : (b.cutFlow p f).parts = (b.modPart p (fun q => { q with flows := q.flows.filter (fun g => g ≠ f) })).parts := by
    unfold Mach.cutFlow
    dsimp only
    split <;> rfl
  have hpart : ∀ q, (b.cutFlow p f).part q = (b.modPart p (fun q => { q with flows := q.flows.filter (fun g => g ≠ f) })).part q :=
    fun q => by simp only [Mach.part, hparts]
  refine ⟨(Mach.cutFlow_objs ..).trans h.objs, ?_, ?_, fun q => ?_, fun q => ?_, fun hm => Memory.wf_cutFlow (h.wf hm) p f, fun hm a ha => ?_⟩
  · rw [← h.linkRt, Mach.cutFlow_linkRt]
  · rw [← h.cores, Mach.cutFlow_cores]
  · rw [hpart, Mach.modPart, Mach.part_setPart]
    split
    next hpq => exact hpq ▸ h.life p
    next => exact h.life q
  · rw [hpart, Mach.modPart, Mach.part_setPart]
    split
    next hpq => exact hpq ▸ fun g hg => h.flows p (List.mem_filter.mp hg).1
    next => exact h.flows q
  · rw [SameOutside.cutFlow (h.wf hm) p f a fun w hw => ?_, h.outside hm a ha]
    obtain rfl := List.mem_singleton.mp hw
    exact ha p f hf hl

theorem FlowsCut.cutFlows (m : Mach) (l : Nat) : FlowsCut l m (m.cutFlows l) := by
  refine List.foldlRecOn (motive := fun b : Mach => FlowsCut l m b) _ _ (FlowsCut.refl l m) fun a ha e _ => ?_
  refine List.foldlRecOn (motive := fun b : Mach => FlowsCut l m b) _ _ ha fun b hb f hf => ?_
  obtain ⟨hmem, hlink⟩ := List.mem_filter.mp hf
  exact hb.cutFlow (ha.flows e.1 hmem) (of_decide_eq_true hlink)

/-- A link that brought no write cuts none. -/
theorem Mach.cutFlows_none {m : Mach} {l : Nat} (h : ∀ p, ∀ f ∈ (m.part p).flows, f.link ≠ l) : m.cutFlows l = m := by
  have hnone : ∀ e : Nat × Part, (m.part e.1).flows.filter (fun f => f.link = l) = [] := fun e =>
    List.filter_eq_nil_iff.mpr fun f hf => by simpa using h e.1 f hf
  refine List.foldlRecOn (motive := fun b : Mach => b = m) _ _ rfl fun a ha e _ => ?_
  rw [ha, hnone]
  rfl

/-! ### Lifelines (Table 17-6) -/

theorem Mach.life_mirrorFail (m : Mach) (p q : Nat) : (m.mirrorFail p).life q =
    if p = q then { m.life p with stream := none, ready := none, hop := 64 } else m.life q := by
  unfold Mach.mirrorFail Mach.setBit Mach.setField
  rw [Mach.life, Mach.part_setObj, Mach.part_setObj, Mach.setLife, Mach.modPart, Mach.part_setPart]
  split <;> rfl

theorem Mach.mirrorFail_linkRt (m : Mach) (p : Nat) : (m.mirrorFail p).linkRt = m.linkRt := by
  simp only [Mach.mirrorFail, Mach.setLife, Mach.modPart, Mach.setBit, Mach.setField, Mach.setObj_linkRt, Mach.setPart_linkRt]

theorem Mach.mirrorFail_cores (m : Mach) (p : Nat) : (m.mirrorFail p).cores = m.cores := by
  simp only [Mach.mirrorFail, Mach.setLife, Mach.modPart, Mach.setBit, Mach.setField, Mach.setObj_cores, Mach.setPart_cores]

/-- What failed streams change: the lifelines, and the objects that show them. -/
structure StreamsFailed (m m' : Mach) : Prop where
  mem : m'.mem = m.mem
  linkRt : m'.linkRt = m.linkRt
  cores : m'.cores = m.cores
  low : ∀ i a, okey i a < okey 0x3000 0 → m'.obj i a = m.obj i a
  life : ∀ p, (m'.life p).stream = none ∨ m'.life p = m.life p

theorem StreamsFailed.mirrorFail {m b : Mach} (h : StreamsFailed m b) (p : Nat) : StreamsFailed m (b.mirrorFail p) := by
  refine ⟨(Mach.mirrorFail_mem ..).trans h.mem, ?_, ?_, fun i a hi => ?_, fun q => ?_⟩
  · rw [← h.linkRt, Mach.mirrorFail_linkRt]
  · rw [← h.cores, Mach.mirrorFail_cores]
  · have hkey : okey (0x7200 + p) 7 ≠ okey i a := by simp only [okey] at hi ⊢; omega
    rw [← h.low i a hi, Mach.mirrorFail, Mach.setBit, Mach.setBit, Mach.obj_setField_other _ hkey, Mach.obj_setField_other _ hkey]
    rfl
  · rw [Mach.life_mirrorFail]
    split
    next => exact .inl rfl
    next => exact h.life q

theorem StreamsFailed.refl (m : Mach) : StreamsFailed m m := ⟨rfl, rfl, rfl, fun _ _ _ => rfl, fun _ => .inr rfl⟩

/-- The streams of a lost link fail. -/
def Mach.mirrorsFailed (m : Mach) (l : Nat) : Mach :=
  ((List.range 64).filter (fun p => (m.life p).stream.isSome && (m.life p).hop = l)).foldl (fun (a : Mach) p => a.mirrorFail p) m

theorem StreamsFailed.mirrorsFailed (m : Mach) (l : Nat) : StreamsFailed m (m.mirrorsFailed l) :=
  List.foldlRecOn (motive := fun b : Mach => StreamsFailed m b) _ _ (StreamsFailed.refl m) fun _ hb p _ => hb.mirrorFail p

/-- No lifeline streams over the link any longer. -/
theorem Mach.hop_mirrorsFailed (m : Mach) {l p : Nat} (hp : p < 64) (hstream : ((m.mirrorsFailed l).life p).stream ≠ none) :
    ((m.mirrorsFailed l).life p).hop ≠ l := by
  intro hhop
  have hlife := ((StreamsFailed.mirrorsFailed m l).life p).resolve_left hstream
  have hfailed := foldl_brings (P := fun (q : Nat) (b : Mach) => (b.life q).stream = none) (f := fun (b : Mach) q => b.mirrorFail q)
    ((List.range 64).filter (fun p => (m.life p).stream.isSome && (m.life p).hop = l)) m
    (fun b q _ => by rw [Mach.life_mirrorFail, if_pos rfl]) fun b x y hy => by
      rw [Mach.life_mirrorFail]
      split
      next => rfl
      next => exact hy
  refine hstream (hfailed p (List.mem_filter.mpr ⟨List.mem_range.mpr hp, ?_⟩))
  rw [← hlife]
  exact Bool.and_eq_true_iff.mpr ⟨Option.isSome_iff_ne_none.mpr hstream, decide_eq_true hhop⟩

/-! ## LINK_LOSS -/

/-- The module with the loss reported: LINK_LOST in 2007h, and a health event (R290, R443). -/
def Mach.lossReported (m : Mach) (l : Nat) : Mach := ((m.setLrt l { m.lrt l with reported := true }).warn 8).health

section
variable (m : Mach) (l : Nat)

theorem Mach.lossReported_effect : ((m.lossReported l).lrt l).reported = true ∧ (m.lossReported l).objBit 0x2007 0 8 = true ∧
    (m.lossReported l).obj 0x200A 0 = min (m.obj 0x200A 0 + 1) (2 ^ 32 - 1) ∧ (m.lossReported l).mem = m.mem ∧
    (m.lossReported l).parts = m.parts := by
  have hwarned : ((m.setLrt l { m.lrt l with reported := true }).warn 8).obj 0x200A 0 = m.obj 0x200A 0 := by
    rw [Mach.warn, Mach.setBit, Mach.obj_setField_other _ (by decide), Mach.obj_setLrt]
  refine ⟨?_, ?_, ?_, ?_, ?_⟩
  · rw [Mach.lossReported, Mach.lrt_health, Mach.warn, Mach.setBit, Mach.lrt_setField, Mach.lrt_setLrt_same]
  · rw [Mach.lossReported, Mach.objBit, Mach.obj_health _ (by decide)]
    exact Mach.objBit_setBit_same ..
  · rw [Mach.lossReported, Mach.health, Mach.obj_eq_of_objs (Mach.raise_objs ..), ← hwarned]
    exact Mach.obj_setObj_same ..
  · rw [Mach.lossReported, Mach.health_mem, Mach.warn, Mach.setBit_mem, Mach.setLrt_mem]
  · rw [Mach.lossReported, Mach.health_parts, Mach.warn, Mach.setBit_parts, Mach.setLrt_parts]

variable {m l}

theorem doLinkLoss_again (h : (m.lrt l).reported = true) : doLinkLoss m l = m := by
  unfold doLinkLoss
  exact if_pos (by simp [h])

/-- The loss of a failed link: it is reported, its sends end, its flows are cut, and its streams fail. -/
theorem doLinkLoss_reports (hl : l < 64) (hfailed : m.linkState l = 4) (h : (m.lrt l).reported = false) :
    doLinkLoss m l = (((m.lossReported l).sendsEnded l).cutFlows l).mirrorsFailed l := by
  unfold doLinkLoss
  exact if_neg (by simp [hl, hfailed, h])

end

theorem gives_linkLoss {s : State} (l : Nat) (hrun : s.mach.phase = .running) : Gives (.linkLoss l) s (doLinkLoss s.mach l) :=
  gives_step _ s (fun m => doLinkLoss m l) rfl hrun

/-- What the end of sends, cut flows and failed streams leave of a module whose loss has been reported (R136, R290, R307). -/
structure LossLeaves (l : Nat) (m m' : Mach) : Prop where
  linkRt : m'.linkRt = m.linkRt
  low : ∀ i a, okey i a < okey 0x3000 0 → m'.obj i a = m.obj i a
  mem : (∀ p, ∀ f ∈ (m.part p).flows, f.link ≠ l) → m'.mem = m.mem
  outside : Memory.wf m → ∀ a, OutsideFlows m l a → m'.rd a 1 = m.rd a 1
  answered : ∀ c, NoneOver l c m'
  hop : ∀ p, p < 64 → (m'.life p).stream ≠ none → (m'.life p).hop ≠ l

theorem LossLeaves.dropOver (m : Mach) (l : Nat) : LossLeaves l m (((m.sendsEnded l).cutFlows l).mirrorsFailed l) := by
  have hends := LossOnly.sendsEnded m l
  have hnone := NoneOver.sendsEnded m l
  generalize m.sendsEnded l = ended at hends hnone
  have hcut := FlowsCut.cutFlows ended l
  have hfailed := StreamsFailed.mirrorsFailed (ended.cutFlows l) l
  have hflows : ∀ p, (ended.part p).flows = (m.part p).flows := hends.kept.flows
  refine ⟨?_, fun i a hi => ?_, fun hother => ?_, fun hm a ha => ?_, fun c d hd => hnone c d ?_, fun p hp => Mach.hop_mirrorsFailed _ hp⟩
  · rw [hfailed.linkRt, hcut.linkRt, hends.linkRt]
  · rw [hfailed.low i a hi, Mach.obj_eq_of_objs hcut.objs, hends.low i a hi]
  · have huncut : ended.cutFlows l = ended := Mach.cutFlows_none fun p f hf => hother p f (hflows p ▸ hf)
    rw [hfailed.mem, huncut, hends.mem]
  · rw [Mach.rd_eq_of_mem hfailed.mem, hcut.outside (Memory.wf_of_mem hends.mem hm) a fun p f hf => ha p f (hflows p ▸ hf),
      Mach.rd_eq_of_mem hends.mem]
  · simpa only [Mach.core, hfailed.cores, hcut.cores] using hd

/-- Settles O34: retrains and loop-backs take their branches; a lost link is reported once, and what went over it ends. -/
theorem linkFailures : Obligations.LinkFailures := by
  refine ⟨?_, ?_, ?_⟩
  · intro s l hrun r failed
    have hg := gives_linkRetrain l hrun
    have hlate := gives_retrainTimeout l hrun
    refine ⟨fun hex hup hworn => ?_, fun hex hup hworn => ?_, fun htrain hkeep htime => ?_, fun htime => ?_⟩
    · rw [doLinkRetrain_up hex hup] at hg
      refine ⟨_, hg, ?_⟩
      rw [Mach.linkState_retrainUp, if_neg (Bool.eq_false_iff.mp hworn), Mach.obj_retrainUp, Mach.retrainUp_fresh _ _ hworn, Mach.lrt_setLrt_same]
      exact ⟨rfl, rfl, rfl, rfl, rfl, rfl, rfl⟩
    · rw [doLinkRetrain_up hex hup, Mach.retrainUp_worn _ _ hworn] at hg
      obtain ⟨hstate, hwhy, -, hqueue, -⟩ := TrainFails.failLink (s.mach.addObj32 (0x4840 + l) 0xA 1) l 8
      exact ⟨_, hg, hstate, hwhy, hqueue⟩
    · rw [doRetrainTimeout_late htrain hkeep htime] at hlate
      obtain ⟨hstate, hwhy, -, hqueue, -⟩ := TrainFails.failLink s.mach l 8
      exact ⟨_, hlate, hstate, hwhy, hqueue⟩
    · rwa [doRetrainTimeout_early htime] at hlate
  · intro s l hrun r
    have hask := gives_loopReq l true hrun
    have hleave := gives_loopReq l false hrun
    have hok := gives_loopAck l true hrun
    have hno := gives_loopAck l false hrun
    have htimeout := gives_farLoopTimeout l hrun
    refine ⟨fun hex => ⟨fun hup hfree => ?_, fun hbusy => ?_, fun hloop hfar => ?_⟩, fun hloop hasked => ⟨?_, ?_, fun htime hfar => ?_⟩,
      fun hloop hfar htime => ?_⟩
    · rw [doLoopReq_accepted hex hup hfree] at hask
      refine ⟨_, hask, ?_, ?_, rfl⟩
      · rw [Mach.linkState_emit, Mach.linkState_enterLoop]
      · rw [Mach.lrt_emit, Mach.lrt_enterLoop]
    · rwa [doLoopReq_refused hex hbusy] at hask
    · rw [doLoopReq_left hex hloop hfar] at hleave
      refine ⟨_, hleave, ?_, rfl⟩
      rw [Mach.linkState_emit, Mach.linkState_trainLink]
    · rw [doLoopAck_asked true hloop hasked, if_pos rfl] at hok
      exact ⟨_, hok, by rw [Mach.lrt_setLrt_same], hloop, rfl⟩
    · rw [doLoopAck_asked false hloop hasked, if_neg Bool.false_ne_true] at hno
      exact ⟨_, hno, Mach.farRefused_effect ..⟩
    · rw [doFarLoopTimeout_asked hloop hasked hfar htime] at htimeout
      obtain ⟨hstate, hwhy, -⟩ := s.mach.farRefused_effect l
      exact ⟨_, htimeout, hstate, hwhy⟩
    · rw [doFarLoopTimeout_far hloop hfar htime] at htimeout
      exact ⟨_, htimeout, Mach.linkState_trainLink ..⟩
  · intro s l hrun hl hfailed
    have hg := gives_linkLoss l hrun
    refine ⟨fun hagain => ?_, fun hnew => ?_⟩
    · rwa [doLinkLoss_again hagain] at hg
    · rw [doLinkLoss_reports hl hfailed hnew] at hg
      obtain ⟨hreported, hbit, hcount, hmem, hparts⟩ := s.mach.lossReported_effect l
      obtain ⟨hlinks, hlow, hkept, houtside, hnone, hhop⟩ := LossLeaves.dropOver (s.mach.lossReported l) l
      have hpart : ∀ p, (s.mach.lossReported l).part p = s.mach.part p := fun p => by simp only [Mach.part, hparts]
      refine ⟨_, hg, ?_, ?_, ?_, fun hother => ?_, fun hm a ha => ?_, fun c d hd pe mid t hplan => ?_, hhop⟩
      · rw [← hreported, Mach.lrt, hlinks, Mach.lrt]
      · rw [Mach.objBit, hlow _ _ (by decide)]
        exact hbit
      · rw [hlow _ _ (by decide), hcount]
      · rw [hkept fun p f hf => hother p f (hpart p ▸ hf), hmem]
      · rw [houtside (Memory.wf_of_mem hmem hm) a fun p f hf => ha p f (hpart p ▸ hf), Mach.rd_eq_of_mem hmem]
      · exact Bool.false_ne_true ((hnone c d hd).symm.trans (DmaEntry.over_of_plan hplan))

end Sys2Proof.Machine
end

section
/-! SUPPORT. Proofs: what a stack's controller reports of a correction, of an uncorrectable half and of an exhausted retry (R326 to R330), and
what the alarms of a lost unit change (R333, R433, R503). -/

namespace Sys2Proof.Machine

/-! ## Commands that a path brings -/

/-- A command that a served path brings has its effect. -/
theorem gives_byPath {c : Instr} {s : State} {path : Path} {f : Mach → Mach} (h : exec c s = s.step (fun m => m.byPath path f))
    (hrun : s.mach.phase = .running) (hserves : s.mach.serves path = true) : Gives c s (f s.mach) := by
  have hg := gives_step c s (fun m => m.byPath path f) h hrun
  rwa [Mach.byPath, if_pos hserves] at hg

/-! ## Reports -/

section
variable (m : Mach)

@[simp] theorem Mach.addObj_answer (i a k : Nat) : (m.addObj i a k).answer = m.answer := rfl
@[simp] theorem Mach.addObj_bad (i a k : Nat) : (m.addObj i a k).bad = m.bad := rfl
@[simp] theorem Mach.spoil_answer (key : Nat) : (m.spoil key).answer = m.answer := rfl
@[simp] theorem Mach.errorRecord_answer (kind addr cls : Nat) : (m.errorRecord kind addr cls).answer = m.answer := rfl
@[simp] theorem Mach.errorRecord_bad (kind addr cls : Nat) : (m.errorRecord kind addr cls).bad = m.bad := rfl
@[simp] theorem Mach.setChan_objs (n : Nat) (c : Chan) : (m.setChan n c).objs = m.objs := rfl
@[simp] theorem Mach.setChan_bad (n : Nat) (c : Chan) : (m.setChan n c).bad = m.bad := rfl
@[simp] theorem Mach.setChan_answer (n : Nat) (c : Chan) : (m.setChan n c).answer = m.answer := rfl

end

section
variable (m : Mach) (s row kind addr cls : Nat)

/-- A candidate is an entry of the supervisors' stores: nothing else. -/
theorem Mach.candidate_only : m.candidate s row = { m with flash := (m.candidate s row).flash } := by
  unfold Mach.candidate
  dsimp only
  split
  · rfl
  · split <;> rfl

/-- A correction in a row is kept with its stack, and may make the row a candidate: nothing else. -/
theorem Mach.rowFixed_only : m.rowFixed s row = { m with
    stackRt := (m.rowFixed s row).stackRt
    flash := (m.rowFixed s row).flash } := by
  unfold Mach.rowFixed
  extract_lets x w n m'
  split
  · rw [Mach.candidate_only]
    rfl
  · rfl

@[simp] theorem Mach.candidate_objs : (m.candidate s row).objs = m.objs := by rw [Mach.candidate_only]
@[simp] theorem Mach.candidate_bad : (m.candidate s row).bad = m.bad := by rw [Mach.candidate_only]
@[simp] theorem Mach.candidate_answer : (m.candidate s row).answer = m.answer := by rw [Mach.candidate_only]
@[simp] theorem Mach.health_answer : m.health.answer = m.answer := by rw [ReportsOnly.health m]
@[simp] theorem Mach.rowFixed_objs : (m.rowFixed s row).objs = m.objs := by rw [Mach.rowFixed_only]
@[simp] theorem Mach.health_bad : m.health.bad = m.bad := by rw [Mach.health, Mach.raise_only]; rfl

theorem Mach.obj_errorRecord {b : Nat} (hb : b < 256) (h : b ≠ 0xB) (i : Nat) : (m.errorRecord kind addr cls).obj i b = m.obj i b :=
  Mach.obj_setObj_sub m (by decide) hb h.symm _

theorem Mach.bad_subset_spoil (key : Nat) : m.bad ⊆ (m.spoil key).bad := by
  unfold Mach.spoil
  dsimp only
  split
  · exact List.Subset.refl _
  · exact List.subset_append_left ..

theorem ReportsOnly.eccLost : ReportsOnly m (m.eccLost kind addr cls) := by
  have hrecord : ReportsOnly m (((m.spoil addr).addObj (0x4100 + (dramAt addr).stack) 4 1).errorRecord kind addr cls) := rfl
  exact ReportsOnly.trans (ReportsOnly.trans hrecord (ReportsOnly.health _)) (ReportsOnly.candidate ..)

/-- An uncorrectable read makes its half uncorrectable (R328). -/
theorem Mach.mem_bad_eccLost : addr / 32 ∈ (m.eccLost kind addr cls).bad := by
  unfold Mach.eccLost
  rw [Mach.candidate_bad, Mach.health_bad]
  exact m.mem_bad_spoil addr

/-- It is counted in 4100h + s.04 of its stack. -/
theorem Mach.obj_eccLost_count : (m.eccLost kind addr cls).obj (0x4100 + addr / 2 ^ 35) 4 =
    min (m.obj (0x4100 + addr / 2 ^ 35) 4 + 1) (2 ^ 64 - 1) := by
  unfold Mach.eccLost
  rw [Mach.obj_eq_of_objs (Mach.candidate_objs ..), Mach.obj_health _ (okey_ne_of_sub _ _ (by decide) (by decide) (by decide)),
    Mach.obj_errorRecord _ _ _ _ (by decide) (by decide)]
  exact Mach.obj_addObj_same ..

/-- A corrected half is counted in 4100h + s.03; no byte, no half and no job changes. -/
theorem Mach.eccCorrected_effect : (m.eccCorrected addr cls).obj (0x4100 + addr / 2 ^ 35) 3 =
      min (m.obj (0x4100 + addr / 2 ^ 35) 3 + 1) (2 ^ 64 - 1) ∧ (m.eccCorrected addr cls).bad = m.bad ∧
    (m.eccCorrected addr cls).jobs = m.jobs ∧ (m.eccCorrected addr cls).hwWait = m.hwWait := by
  have hcount : (m.eccCorrected addr cls).obj (0x4100 + addr / 2 ^ 35) 3 = min (m.obj (0x4100 + addr / 2 ^ 35) 3 + 1) (2 ^ 64 - 1) := by
    unfold Mach.eccCorrected
    rw [Mach.obj_eq_of_objs (Mach.rowFixed_objs ..), Mach.obj_errorRecord _ _ _ _ (by decide) (by decide)]
    exact Mach.obj_addObj_same ..
  refine ⟨hcount, ?_, ?_, ?_⟩ <;>
  · unfold Mach.eccCorrected
    rw [Mach.rowFixed_only]
    rfl

/-! ## An exhausted retry -/

@[simp] theorem Mach.retryLostRead_answer (n : Nat) : (m.retryLostRead n addr cls).answer = m.answer := by
  simp [Mach.retryLostRead, Mach.retryLost]

/-- Both halves of the unit become uncorrectable. -/
theorem Mach.mem_bad_retryLostRead (n : Nat) :
    addr / 64 * 2 ∈ (m.retryLostRead n addr cls).bad ∧ addr / 64 * 2 + 1 ∈ (m.retryLostRead n addr cls).bad := by
  have hbad : (m.retryLostRead n addr cls).bad = ((m.spoil (addr / 64 * 64)).spoil (addr / 64 * 64 + 32)).bad := by
    simp [Mach.retryLostRead, Mach.retryLost]
  have hlow := m.mem_bad_spoil (addr / 64 * 64)
  have hhigh := (m.spoil (addr / 64 * 64)).mem_bad_spoil (addr / 64 * 64 + 32)
  rw [show addr / 64 * 64 / 32 = addr / 64 * 2 by omega] at hlow
  rw [show (addr / 64 * 64 + 32) / 32 = addr / 64 * 2 + 1 by omega] at hhigh
  rw [hbad]
  exact ⟨Mach.bad_subset_spoil _ _ hlow, hhigh⟩

/-- It is counted as exhausted, in 4100h + s.07, and as uncorrectable, in 4100h + s.04. -/
theorem Mach.obj_retryLostRead_counts (n : Nat) :
    (m.retryLostRead n addr cls).obj (0x4100 + n / 4) 7 = min (m.obj (0x4100 + n / 4) 7 + 1) (2 ^ 64 - 1) ∧
    (m.retryLostRead n addr cls).obj (0x4100 + n / 4) 4 = min (m.obj (0x4100 + n / 4) 4 + 1) (2 ^ 64 - 1) := by
  have hobj : ∀ b, b < 256 → b ≠ 0 → b ≠ 0xB → (m.retryLostRead n addr cls).obj (0x4100 + n / 4) b =
      ((m.addObj (0x4100 + n / 4) 7 1).addObj (0x4100 + n / 4) 4 1).obj (0x4100 + n / 4) b := fun b hb h0 hB => by
    rw [Mach.retryLostRead, Mach.obj_eq_of_objs (Mach.candidate_objs ..), Mach.retryLost, Mach.obj_eq_of_objs (Mach.setChan_objs ..),
      Mach.obj_health _ (okey_ne_of_sub _ _ (by decide) hb h0.symm), Mach.obj_errorRecord _ _ _ _ hb hB]
    rfl
  refine ⟨?_, ?_⟩
  · rw [hobj 7 (by decide) (by decide) (by decide), Mach.obj_addObj_sub _ (by decide) (by decide) (by decide), Mach.obj_addObj_same]
  · rw [hobj 4 (by decide) (by decide) (by decide), Mach.obj_addObj_same, Mach.obj_addObj_sub _ (by decide) (by decide) (by decide)]

end

/-! ## Alarms -/

/-- The objects that an EMCY condition writes: 200Ah, 200Bh, the count of frames discarded and the history (R433). -/
def emcyKeys : List Nat := [okey 0x200A 0, okey 0x200B 0, okey 0x2101 6] ++ (List.range 9).map (okey 0x1003)

/-- What an EMCY condition changes: its objects, the CAN port and what is sent; nothing else. -/
structure AlarmsOnly (m m' : Mach) : Prop where
  fields : m' = { m with
    objs := m'.objs
    can := m'.can
    outbox := m'.outbox
    hosts := m'.hosts }
  objs : SameObjs emcyKeys m m'

theorem AlarmsOnly.refl (m : Mach) : AlarmsOnly m m := ⟨rfl, SameObjs.refl m _⟩

theorem AlarmsOnly.trans {a b c : Mach} (h : AlarmsOnly a b) (h' : AlarmsOnly b c) : AlarmsOnly a c := by
  obtain ⟨hfields, hobjs⟩ := h
  obtain ⟨hfields', hobjs'⟩ := h'
  refine ⟨?_, SameObjs.trans hobjs hobjs'⟩
  rw [hfields] at hfields'
  exact hfields'

section
variable (m : Mach)

/-- A change of the CAN port and of what is sent. -/
theorem AlarmsOnly.of_objs {m m' : Mach} (h : m' = { m with
    can := m'.can
    outbox := m'.outbox
    hosts := m'.hosts }) : AlarmsOnly m m' := by
  have hobjs : m'.objs = m.objs := by rw [h]
  exact ⟨h.trans (by rw [hobjs]), SameObjs.of_objs _ hobjs⟩

theorem AlarmsOnly.setObj (i a v : Nat) (h : okey i a ∈ emcyKeys) : AlarmsOnly m (m.setObj i a v) := ⟨rfl, SameObjs.setObj m i a v h⟩

theorem AlarmsOnly.health : AlarmsOnly m m.health := by
  refine AlarmsOnly.trans (AlarmsOnly.setObj m 0x200A 0 (min (m.obj 0x200A 0 + 1) (2 ^ 32 - 1)) (by decide)) (AlarmsOnly.of_objs ?_)
  unfold Mach.health
  rw [Mach.raise_only]
  rfl

theorem AlarmsOnly.queueEmcy (code detail : Nat) : AlarmsOnly m (m.queueEmcy code detail) := by
  unfold Mach.queueEmcy
  dsimp only
  split
  · exact AlarmsOnly.trans (AlarmsOnly.of_objs rfl) (AlarmsOnly.setObj _ 0x2101 6 _ (by decide))
  · exact AlarmsOnly.of_objs rfl

theorem AlarmsOnly.enterHistory (code detail : Nat) : AlarmsOnly m (m.enterHistory code detail) := by
  have hkey : ∀ i, i < 9 → okey 0x1003 i ∈ emcyKeys := by decide
  unfold Mach.enterHistory
  refine AlarmsOnly.trans (b := List.foldl _ m _) ?_ (AlarmsOnly.setObj _ _ _ _ (hkey 0 (by decide)))
  refine List.foldlRecOn (motive := AlarmsOnly m) _ _ (AlarmsOnly.refl m) fun a ha e he => ?_
  refine AlarmsOnly.trans ha (AlarmsOnly.setObj a _ _ _ (hkey _ ?_))
  obtain ⟨-, hlt, -⟩ := List.mem_zipIdx he
  simp only [List.length_cons, List.length_map, List.length_range] at hlt
  omega

theorem AlarmsOnly.sendEmcy : AlarmsOnly m m.sendEmcy := by
  unfold Mach.sendEmcy
  split
  · exact AlarmsOnly.refl m
  next code detail rest _ =>
    extract_lets wait frame src sent entered ev
    have hentered : AlarmsOnly m entered := AlarmsOnly.trans (AlarmsOnly.of_objs rfl) (AlarmsOnly.enterHistory sent code detail)
    clear_value entered ev
    split
    · exact AlarmsOnly.refl m
    · cases ev with
      | none => exact hentered
      | some c =>
        dsimp only
        split
        · exact hentered
        · have hcleared : ∀ act, AlarmsOnly m { entered with can := { entered.can with active := act } } := fun _ =>
            AlarmsOnly.trans hentered (AlarmsOnly.of_objs rfl)
          split
          · exact AlarmsOnly.trans (hcleared _) (AlarmsOnly.queueEmcy ..)
          · exact hcleared _

theorem AlarmsOnly.emcySet (c : EmcyCond) (detail : Nat) : AlarmsOnly m (m.emcySet c detail) := by
  unfold Mach.emcySet
  extract_lets event src listed shown
  have hshown : AlarmsOnly m shown := AlarmsOnly.trans (AlarmsOnly.trans (b := listed) (AlarmsOnly.of_objs rfl) (AlarmsOnly.health listed))
    (AlarmsOnly.setObj _ 0x200B 0 _ (by decide))
  split
  · exact AlarmsOnly.refl m
  · split
    · exact hshown
    · exact AlarmsOnly.trans (AlarmsOnly.trans hshown (AlarmsOnly.queueEmcy ..)) (AlarmsOnly.sendEmcy _)

/-- The module with a reason of the replacement request and its warning shown, and nothing told yet (R503). -/
def Mach.replacementShown (m : Mach) (reason : Nat) : Mach := ((m.setBit 0x7000 2 reason true).setObj 0x7000 1 1).warn 5

/-- A replacement request is told once: while its reason stands nothing happens, else it is shown and an alarm goes out. -/
theorem Mach.replacement_tells (reason : Nat) : (m.objBit 0x7000 2 reason = true ∧ m.replacement reason = m) ∨
    AlarmsOnly (m.replacementShown reason) (m.replacement reason) := by
  unfold Mach.replacement
  by_cases h : m.objBit 0x7000 2 reason = true
  · exact .inl ⟨h, if_pos h⟩
  · rw [if_neg h]
    refine .inr ?_
    change AlarmsOnly _ (if (m.replacementShown reason).can.active.contains .replacement then _ else _)
    split
    · exact AlarmsOnly.health _
    · exact AlarmsOnly.emcySet ..

theorem AlarmsOnly.objBit {m m' : Mach} (h : AlarmsOnly m m') {i a : Nat} (hk : okey i a ∉ emcyKeys) (b : Nat) :
    m'.objBit i a b = m.objBit i a b := by
  rw [Mach.objBit, h.objs i a hk, Mach.objBit]

/-- A replacement request shows its reason, and leaves every other warning, the objects of the units, and the stacks bound off. -/
theorem Mach.replacement_effect (reason : Nat) : (m.replacement reason).objBit 0x7000 2 reason = true ∧
    (∀ i, i ≠ 5 → (m.replacement reason).objBit 0x2007 0 i = m.objBit 0x2007 0 i) ∧
    (∀ s a, s < 48 → a < 256 → (m.replacement reason).obj (0x4100 + s) a = m.obj (0x4100 + s) a) ∧
    (m.replacement reason).offStacks = m.offStacks := by
  rcases m.replacement_tells reason with ⟨hstands, hsame⟩ | htells
  · rw [hsame]
    exact ⟨hstands, fun _ _ => rfl, fun _ _ _ _ => rfl, rfl⟩
  · refine ⟨?_, fun i hi => ?_, fun s a hs ha => ?_, ?_⟩
    · rw [htells.objBit (by decide), Mach.replacementShown, Mach.objBit, Mach.warn, Mach.setBit, Mach.obj_setField_other _ (by decide),
        Mach.obj_setObj_other _ (by decide)]
      exact Mach.objBit_setBit_same ..
    · rw [htells.objBit (by decide), Mach.replacementShown, Mach.objBit, Mach.warn, Mach.setBit, Mach.obj_setField_same]
      have hother := bit_setBit_other (((m.setBit 0x7000 2 reason true).setObj 0x7000 1 1).obj 0x2007 0) 5 i true hi.symm
      rw [Machine.setBit] at hother
      rw [hother, Mach.obj_setObj_other _ (by decide), Mach.setBit, Mach.obj_setField_other _ (by decide), Mach.objBit]
    · have hkey : okey (0x4100 + s) a ∉ emcyKeys := by
        simp only [emcyKeys, List.mem_append, List.mem_cons, List.mem_map, List.mem_range, List.not_mem_nil, okey, or_false, not_or, not_exists]
        exact ⟨by omega, fun _ => by omega⟩
      have hne : ∀ i b, i < 0x4000 ∨ 0x5000 ≤ i → b < 256 → okey i b ≠ okey (0x4100 + s) a := fun i b hi hb he => by
        obtain ⟨hidx, -⟩ := (okey_inj hb ha).mp he
        omega
      rw [htells.objs _ _ hkey, Mach.replacementShown, Mach.warn, Mach.setBit, Mach.obj_setField_other _ (hne _ _ (by decide) (by decide)),
        Mach.obj_setObj_other _ (hne _ _ (by decide) (by decide)), Mach.setBit, Mach.obj_setField_other _ (hne _ _ (by decide) (by decide))]
    · rw [htells.fields]
      rfl

end

end Sys2Proof.Machine
end

section
/-! SUPPORT. Proofs: a data slot of a channel, its training, and the patrol scrub (R318, R324, R326 to R329, R333). -/

namespace Sys2Proof.Machine

/-! ## Where an uncorrectable half lies -/

theorem firstBad_unit {bad : List Nat} {u h : Nat} (hb : firstBad bad (u * 64) 64 = some h) : u * 64 ≤ h ∧ h < u * 64 + 64 := by
  obtain ⟨x, hx, rfl⟩ := Option.map_eq_some_iff.mp hb
  have hin := (List.mem_filter.mp (List.min?_mem hx)).2
  simp only [halfIn, Bool.and_eq_true, decide_eq_true_eq] at hin
  omega

theorem Mach.lostAt_range {m : Mach} {a n h : Nat} (hl : m.lostAt a n = some h) : a ≤ h ∧ h < a + n := by
  unfold Mach.lostAt at hl
  split at hl
  · cases hl
  next hn =>
    obtain ⟨s, -, hs⟩ := List.mem_filterMap.mp (List.min?_mem hl)
    obtain ⟨hc, hmax⟩ := Option.ite_none_right_eq_some.mp hs
    have hmax := Option.some.inj hmax
    simp only [Bool.or_eq_true, decide_eq_true_eq, not_or] at hn
    omega

/-- The uncorrectable half that a read of a unit meets lies in that unit. -/
theorem Mach.firstBad_in_unit {m : Mach} {u h : Nat} (hf : m.firstBad (u * 64) 64 = some h) : u * 64 ≤ h ∧ h < u * 64 + 64 := by
  unfold Mach.firstBad at hf
  split at hf
  next x y hx hy =>
    obtain ⟨hxl, hxh⟩ := firstBad_unit hx
    obtain ⟨hyl, hyh⟩ := Mach.lostAt_range hy
    obtain rfl := Option.some.inj hf
    omega
  next x hx hy =>
    obtain rfl := Option.some.inj hf
    exact firstBad_unit hx
  next y hx =>
    exact Mach.lostAt_range hf

/-! ## The grant of a slot -/

@[simp] theorem served_nil (g : Option Nat) : served g [] = none := by cases g <;> rfl

/-- With credit, class 1 is granted the slot for five of it (R324). -/
theorem Chan.grant_of_credit {c : Chan} {classes : List Nat} (w : List Nat) (h1 : 1 ∈ classes) (hk : 3 ≤ c.k1) :
    c.grant w classes = (none, { c with k1 := min (c.k1 + 2) 512 - 5 }) := by
  have hcredit : 5 ≤ min (c.k1 + 2) 512 := by omega
  simp [Chan.grant, h1, hcredit]

theorem Chan.grant_nil_k1 (c : Chan) (w : List Nat) : (c.grant w []).2.k1 = min (c.k1 + 2) 512 := by simp [Chan.grant]

/-- The only request that waits is served, whatever its class. -/
theorem served_singleton (c : Chan) (w : List Nat) {r : MemReq} (hlo : 1 ≤ r.cls) (hhi : r.cls ≤ 4) :
    served (c.grant w [r.cls]).1 [r] = some r := by
  obtain h | h | h | h : r.cls = 1 ∨ r.cls = 2 ∨ r.cls = 3 ∨ r.cls = 4 := by omega
  · by_cases hk : 5 ≤ min (c.k1 + 2) 512 <;> simp [Chan.grant, served, h, hk]
  all_goals simp [Chan.grant, served, h]

/-! ## MEMORY_ACCESS -/

/-- A request that reaches a channel is one of its stack, which is in service, and of a class of R324. -/
theorem Mach.fields_of_reaches {m : Mach} {n : Nat} {r : MemReq} (h : m.reaches n r = true) :
    n < 192 ∧ m.inService (n / 4) = true ∧ r.addr / 2 ^ 35 = n / 4 ∧ 1 ≤ r.cls ∧ r.cls ≤ 4 := by
  simp only [Mach.reaches, dramAt, Bool.and_eq_true, decide_eq_true_eq] at h
  obtain ⟨⟨⟨⟨⟨hn, -⟩, hs⟩, hlo⟩, hhi⟩, -⟩ := h
  have hchan := of_decide_eq_true hn
  have hstack : r.addr / 2 ^ 35 = n / 4 := by omega
  have hlt : r.addr / 2 ^ 35 < 48 := by
    simp only [Mach.inService, Bool.and_eq_true, decide_eq_true_eq] at hs
    exact hs.1
  rw [hstack] at hs
  exact ⟨by omega, hs, hstack, hlo, hhi⟩

/-- The module whose slot of channel `n` has been granted among requests, with its stack awake. -/
def Mach.slotGranted (m : Mach) (n : Nat) (rs : List MemReq) : Mach :=
  (m.setChan n ((m.chan n).grant m.weights (rs.map (fun r => r.cls))).2).touchStack (n / 4)

section
variable {m : Mach} {n : Nat} {reqs : List MemReq}

theorem doAccess_off (h : 192 ≤ n ∨ m.inService (n / 4) = false) : doAccess m n reqs = m := if_pos (by simpa using h)

theorem doAccess_empty (hn : n < 192) (hs : m.inService (n / 4) = true) (h : reqs.filter (m.reaches n) = []) :
    doAccess m n reqs = m.setChan n ((m.chan n).grant m.weights []).2 := by
  simp only [doAccess, h, served_nil, List.map_nil]
  exact if_neg (by simp [hn, hs])

theorem doAccess_serves {rs : List MemReq} {r : MemReq} (hn : n < 192) (hs : m.inService (n / 4) = true) (h : reqs.filter (m.reaches n) = rs)
    (hr : served ((m.chan n).grant m.weights (rs.map (fun r => r.cls))).1 rs = some r) :
    doAccess m n reqs = if r.write then (m.slotGranted n rs).serveWrite n r else (m.slotGranted n rs).serveRead n r := by
  simp only [doAccess, h, hr]
  exact if_neg (by simp [hn, hs])

/-- The only request that reaches a channel is one of its stack. -/
theorem stack_of_single {r : MemReq} (h : reqs.filter (m.reaches n) = [r]) : r.addr / 2 ^ 35 = n / 4 := by
  have hr : r ∈ reqs.filter (m.reaches n) := by simp [h]
  obtain ⟨-, -, hstack, -, -⟩ := Mach.fields_of_reaches (List.mem_filter.mp hr).2
  exact hstack

/-- The only request that reaches a channel is served. -/
theorem doAccess_single {r : MemReq} (h : reqs.filter (m.reaches n) = [r]) :
    doAccess m n reqs = if r.write then (m.slotGranted n [r]).serveWrite n r else (m.slotGranted n [r]).serveRead n r := by
  have hr : r ∈ reqs.filter (m.reaches n) := by simp [h]
  obtain ⟨hn, hs, -, hlo, hhi⟩ := Mach.fields_of_reaches (List.mem_filter.mp hr).2
  exact doAccess_serves hn hs h (served_singleton _ _ hlo hhi)

end

section
variable (m : Mach) (n : Nat) (rs : List MemReq)

/-- The grant of a slot changes the channel and its stack's time and state: nothing else. -/
theorem Mach.slotGranted_only : m.slotGranted n rs = { m with
    chans := (m.slotGranted n rs).chans
    stackRt := (m.slotGranted n rs).stackRt
    objs := (m.slotGranted n rs).objs } := by
  unfold Mach.slotGranted
  rw [Mach.touchStack_only]
  rfl

theorem Mach.chan_slotGranted : (m.slotGranted n rs).chan n = ((m.chan n).grant m.weights (rs.map (fun r => r.cls))).2 := by
  have hchan : (m.slotGranted n rs).chan n = (m.setChan n ((m.chan n).grant m.weights (rs.map (fun r => r.cls))).2).chan n := by
    rw [Mach.slotGranted, Mach.touchStack_only]
    rfl
  rw [hchan, Mach.chan_setChan, if_pos rfl]

theorem Mach.obj_slotGranted {a : Nat} (ha : a < 256) (h : a ≠ 2) (i : Nat) : (m.slotGranted n rs).obj i a = m.obj i a :=
  SameObjs.touchStack (m.setChan n _) (n / 4) i a (by simpa using okey_ne_of_sub _ _ ha (by decide) h)

theorem Mach.firstBad_slotGranted (a k : Nat) : (m.slotGranted n rs).firstBad a k = m.firstBad a k := by
  rw [Mach.slotGranted_only]
  rfl

@[simp] theorem Mach.slotGranted_mem : (m.slotGranted n rs).mem = m.mem := by rw [Mach.slotGranted_only]
@[simp] theorem Mach.slotGranted_bad : (m.slotGranted n rs).bad = m.bad := by rw [Mach.slotGranted_only]
@[simp] theorem Mach.slotGranted_jobs : (m.slotGranted n rs).jobs = m.jobs := by rw [Mach.slotGranted_only]
@[simp] theorem Mach.slotGranted_answer : (m.slotGranted n rs).answer = m.answer := by rw [Mach.slotGranted_only]

end

section
variable {m : Mach} {n : Nat} {r : MemReq}

theorem Mach.serveRead_meets {h : Nat} (hbad : m.firstBad (r.addr / 64 * 64) 64 = some h) : m.serveRead n r = m.eccLost 3 h r.cls := by
  simp only [Mach.serveRead, hbad]

theorem Mach.serveRead_clean (hgood : m.firstBad (r.addr / 64 * 64) 64 = none) (hseen : r.seen = .clean) :
    m.serveRead n r = { m with answer := ⟨0, m.rd (r.addr / 64 * 64) 64⟩ } := by
  simp only [Mach.serveRead, hgood, hseen]

theorem Mach.serveRead_uncorrectable (hgood : m.firstBad (r.addr / 64 * 64) 64 = none) (hseen : r.seen = .uncorrectable) :
    m.serveRead n r = m.eccLost 3 r.addr r.cls := by
  simp only [Mach.serveRead, hgood, hseen]

theorem Mach.serveRead_exhausted {k : Nat} (hgood : m.firstBad (r.addr / 64 * 64) 64 = none) (hseen : r.seen = .retried k) (hk : 4 < k) :
    m.serveRead n r = m.retryLostRead n r.addr r.cls := by
  simp only [Mach.serveRead, hgood, hseen, if_neg (Nat.not_le.mpr hk)]

theorem Mach.serveWrite_clean (hseen : r.seen = .clean) : m.serveWrite n r = m.wr r.addr r.data := by
  simp only [Mach.serveWrite, hseen]

end

/-! ## CHANNEL_RETRAIN -/

theorem Mach.stackState_setStackState (m : Mach) (s : Nat) {st : Nat} (h : st < 16) : (m.setStackState s st).stackState s = st :=
  (Mach.field_setField_same m _ _ _ _ _ (by decide)).trans (Nat.mod_eq_of_lt h)

section
variable {m : Mach} {n : Nat}

theorem doRetrain_unworn (ok : Bool) (h : (m.chan n).worn m.rc = false) : doRetrain m n ok = m := if_neg (by simp [h])

theorem doRetrain_worn (ok : Bool) (hn : n < 192) (hs : m.inService (n / 4) = true) (h : (m.chan n).worn m.rc = true) :
    doRetrain m n ok = if ok then (m.setChan n { m.chan n with fails := [] }).setStackState (n / 4) 1 else
      (m.setChan n { m.chan n with fails := [] }).loseStack (n / 4) 2 0 := if_pos (by simp [hn, hs, h])

end

/-- A stack that is lost is in state 5 with its reason and bound off; 2007h and the replacement request show it (R333). -/
theorem Mach.loseStack_effect {m : Mach} {t reason : Nat} (code : Nat) (ht : t < 48) (hon : t ∉ m.offStacks) (hr : reason < 16) :
    (m.loseStack t reason code).stackState t = 5 ∧ t ∈ (m.loseStack t reason code).offStacks ∧
    (m.loseStack t reason code).field (0x4100 + t) 2 11 8 = reason ∧ (m.loseStack t reason code).objBit 0x2007 0 7 = true ∧
    (m.loseStack t reason code).objBit 0x7000 2 1 = true := by
  have hlost : m.loseStack t reason code = (({ (m.setStackState t 5).setField (0x4100 + t) 2 11 8 reason with
      offStacks := m.offStacks ++ [t] }.repair 4 (t / 6) 0 t code).warn 7).replacement 1 := if_neg (by simpa using hon)
  generalize hw : ({ (m.setStackState t 5).setField (0x4100 + t) 2 11 8 reason with
      offStacks := m.offStacks ++ [t] }.repair 4 (t / 6) 0 t code).warn 7 = warned at hlost
  obtain ⟨hreason, hwarnings, hunits, hoff⟩ := warned.replacement_effect 1
  rw [← hlost] at hreason hwarnings hunits hoff
  have hstatus : (m.loseStack t reason code).obj (0x4100 + t) 2 = setFld (setFld (m.obj (0x4100 + t) 2) 3 0 5) 11 8 reason := by
    have hkey : okey 0x2007 0 ≠ okey (0x4100 + t) 2 := okey_ne_of_sub _ _ (by decide) (by decide) (by decide)
    rw [hunits t 2 ht (by decide), ← hw, Mach.warn, Mach.setBit, Mach.obj_setField_other _ hkey]
    have hset : ((m.setStackState t 5).setField (0x4100 + t) 2 11 8 reason).obj (0x4100 + t) 2 =
        setFld (setFld (m.obj (0x4100 + t) 2) 3 0 5) 11 8 reason := by
      rw [Mach.obj_setField_same, Mach.setStackState, Mach.obj_setField_same]
    exact hset
  refine ⟨?_, ?_, ?_, ?_, hreason⟩
  · rw [Mach.stackState, Mach.field, hstatus, fld_setFld_apart _ _ _ _ _ _ (by decide) (by decide), fld_setFld_same _ _ _ _ (by decide)]
    rfl
  · rw [hoff, ← hw]
    exact List.mem_append_right _ (List.mem_singleton.mpr rfl)
  · rw [Mach.field, hstatus, fld_setFld_same _ _ _ _ (by decide)]
    exact Nat.mod_eq_of_lt hr
  · rw [hwarnings 7 (by decide), ← hw, Mach.warn]
    exact Mach.objBit_setBit_same ..

/-! ## SCRUB_READ -/

theorem doScrub_clean {m : Mach} {addr : Nat} (hgood : firstBad m.bad (addr / 64 * 64) 64 = none) : doScrub m addr .clean = m := by
  simp only [doScrub, hgood]
  exact ite_self _

/-- The scrub reads a unit of a stack in service whose scrub is on and which no destructive swatch has. -/
theorem doScrub_finds {m : Mach} {addr : Nat} (hs : addr / 2 ^ 35 < 48) (hstate : m.stackState (addr / 2 ^ 35) = 1)
    (hin : addr % 2 ^ 35 < stackUsable) (hon : m.objBit (0x4100 + addr / 2 ^ 35) 1 1 = true) (hsw : m.swatchOn (addr / 2 ^ 35) = false)
    (hgood : firstBad m.bad (addr / 64 * 64) 64 = none) :
    doScrub m addr .corrected = m.eccCorrected addr 4 ∧ doScrub m addr .uncorrectable = m.eccLost 5 addr 4 := by
  simp only [doScrub, hgood, hstate, hon, hsw, ge_iff_le, Nat.not_le.mpr hs, Nat.not_le.mpr hin, ne_eq, not_true, decide_false, Bool.not_true,
    Bool.or_false, Bool.false_eq_true, if_false, and_self]

/-! ## The rows -/

section
variable {s : State} (hrun : s.mach.phase = .running)
include hrun

theorem gives_memoryAccess (n : Nat) (reqs : List MemReq) : Gives (.memoryAccess n reqs) s (doAccess s.mach n reqs) :=
  gives_step _ s (fun m => doAccess m n reqs) rfl hrun

theorem gives_channelRetrain (n : Nat) (ok : Bool) : Gives (.channelRetrain n ok) s (doRetrain s.mach n ok) :=
  gives_step _ s (fun m => doRetrain m n ok) rfl hrun

theorem gives_scrubRead (addr : Nat) (err : EccSeen) : Gives (.scrubRead addr err) s (doScrub s.mach addr err) :=
  gives_step _ s (fun m => doScrub m addr err) rfl hrun

end

/-- An uncorrectable read of the stack in its slot is counted; it changes no byte and answers nothing. -/
theorem Mach.slotGranted_eccLost (m : Mach) {n a : Nat} (rs : List MemReq) (kind cls : Nat) (ha : a / 2 ^ 35 = n / 4) :
    ((m.slotGranted n rs).eccLost kind a cls).mem = m.mem ∧ ((m.slotGranted n rs).eccLost kind a cls).answer = m.answer ∧
    ((m.slotGranted n rs).eccLost kind a cls).obj (0x4100 + n / 4) 4 = min (m.obj (0x4100 + n / 4) 4 + 1) (2 ^ 64 - 1) := by
  have hcount := (m.slotGranted n rs).obj_eccLost_count kind a cls
  rw [ha, Mach.obj_slotGranted _ _ _ (by decide) (by decide)] at hcount
  refine ⟨(Mach.eccLost_mem ..).trans (Mach.slotGranted_mem ..), ?_, hcount⟩
  rw [ReportsOnly.eccLost _ kind a cls, Mach.slotGranted_answer]

section
variable {s : State} {n : Nat} {reqs : List MemReq} {r : MemReq} (hrun : s.mach.phase = .running) (h : reqs.filter (s.mach.reaches n) = [r])
include hrun h

theorem memoryAccess_write (hwrite : r.write = true) (hseen : r.seen = .clean) :
    ∃ m, Gives (.memoryAccess n reqs) s m ∧ Stores [(r.addr, r.data)] s.mach m ∧ m.answer = s.mach.answer := by
  have hg := gives_memoryAccess hrun n reqs
  rw [doAccess_single h, if_pos hwrite, Mach.serveWrite_clean hseen] at hg
  exact ⟨_, hg, Stores.of_mem (Mach.wrAll_mem_congr (s.mach.slotGranted_mem n [r]) [(r.addr, r.data)]), s.mach.slotGranted_answer n [r]⟩

variable (hread : r.write = false)
include hread

/-- The only request that reaches a channel, a read, is served. -/
theorem gives_memoryAccess_read : Gives (.memoryAccess n reqs) s ((s.mach.slotGranted n [r]).serveRead n r) := by
  have hg := gives_memoryAccess hrun n reqs
  rwa [doAccess_single h, if_neg (by simp [hread])] at hg

/-- A read that meets an uncorrectable half: it lies in the unit that is read, and so in the channel's stack. -/
theorem memoryAccess_read_meets {b : Nat} (hbad : s.mach.firstBad (r.addr / 64 * 64) 64 = some b) : ∃ m, Gives (.memoryAccess n reqs) s m ∧
    m.mem = s.mach.mem ∧ m.answer = s.mach.answer ∧ m.obj (0x4100 + n / 4) 4 = min (s.mach.obj (0x4100 + n / 4) 4 + 1) (2 ^ 64 - 1) := by
  have hstack := stack_of_single h
  obtain ⟨hlo, hhi⟩ := Mach.firstBad_in_unit hbad
  have hg := gives_memoryAccess_read hrun h hread
  rw [Mach.serveRead_meets ((Mach.firstBad_slotGranted ..).trans hbad)] at hg
  exact ⟨_, hg, s.mach.slotGranted_eccLost [r] _ _ (by omega)⟩

variable (hgood : s.mach.firstBad (r.addr / 64 * 64) 64 = none)
include hgood

theorem memoryAccess_read_clean (hseen : r.seen = .clean) : ∃ m, Gives (.memoryAccess n reqs) s m ∧
    m.answer = ⟨0, s.mach.rd (r.addr / 64 * 64) 64⟩ ∧ m.mem = s.mach.mem ∧ m.bad = s.mach.bad ∧ m.jobs = s.mach.jobs := by
  have hg := gives_memoryAccess_read hrun h hread
  have hmem := s.mach.slotGranted_mem n [r]
  rw [Mach.serveRead_clean ((Mach.firstBad_slotGranted ..).trans hgood) hseen] at hg
  exact ⟨_, hg, by rw [Mach.rd_eq_of_mem hmem], hmem, s.mach.slotGranted_bad n [r], s.mach.slotGranted_jobs n [r]⟩

theorem memoryAccess_read_uncorrectable (hseen : r.seen = .uncorrectable) : ∃ m, Gives (.memoryAccess n reqs) s m ∧
    r.addr / 32 ∈ m.bad ∧ m.mem = s.mach.mem ∧ m.answer = s.mach.answer ∧
    m.obj (0x4100 + n / 4) 4 = min (s.mach.obj (0x4100 + n / 4) 4 + 1) (2 ^ 64 - 1) := by
  have hg := gives_memoryAccess_read hrun h hread
  rw [Mach.serveRead_uncorrectable ((Mach.firstBad_slotGranted ..).trans hgood) hseen] at hg
  exact ⟨_, hg, Mach.mem_bad_eccLost .., s.mach.slotGranted_eccLost [r] _ _ (stack_of_single h)⟩

theorem memoryAccess_read_exhausted {k : Nat} (hk : 4 < k) (hseen : r.seen = .retried k) : ∃ m, Gives (.memoryAccess n reqs) s m ∧
    r.addr / 64 * 2 ∈ m.bad ∧ r.addr / 64 * 2 + 1 ∈ m.bad ∧ m.mem = s.mach.mem ∧ m.answer = s.mach.answer ∧
    m.obj (0x4100 + n / 4) 7 = min (s.mach.obj (0x4100 + n / 4) 7 + 1) (2 ^ 64 - 1) ∧
    m.obj (0x4100 + n / 4) 4 = min (s.mach.obj (0x4100 + n / 4) 4 + 1) (2 ^ 64 - 1) := by
  have hg := gives_memoryAccess_read hrun h hread
  rw [Mach.serveRead_exhausted ((Mach.firstBad_slotGranted ..).trans hgood) hseen hk] at hg
  obtain ⟨hlow, hhigh⟩ := (s.mach.slotGranted n [r]).mem_bad_retryLostRead r.addr r.cls n
  obtain ⟨hexhausted, hcount⟩ := (s.mach.slotGranted n [r]).obj_retryLostRead_counts r.addr r.cls n
  rw [Mach.obj_slotGranted _ _ _ (by decide) (by decide)] at hexhausted hcount
  exact ⟨_, hg, hlow, hhigh, (Mach.retryLostRead_mem ..).trans (Mach.slotGranted_mem ..),
    (Mach.retryLostRead_answer ..).trans (Mach.slotGranted_answer ..), hexhausted, hcount⟩

end

/-- Clean reads: with credit for class 1, its oldest is answered first. -/
theorem memoryAccess_class1 {s : State} {n : Nat} (hrun : s.mach.phase = .running) {reqs : List MemReq} {r : MemReq}
    (hall : ∀ q ∈ reqs, s.mach.reaches n q = true ∧ q.write = false ∧ q.seen = .clean ∧ s.mach.firstBad (q.addr / 64 * 64) 64 = none)
    (holdest : reqs.find? (fun q => decide (q.cls = 1)) = some r) (hk : 3 ≤ (s.mach.chan n).k1) :
    ∃ m, Gives (.memoryAccess n reqs) s m ∧ m.answer = ⟨0, s.mach.rd (r.addr / 64 * 64) 64⟩ ∧
      (m.chan n).k1 = min ((s.mach.chan n).k1 + 2) 512 - 5 := by
  have hr := List.mem_of_find?_eq_some holdest
  have hcls : r.cls = 1 := by simpa using List.find?_some holdest
  obtain ⟨hreach, hread, hseen, hf⟩ := hall r hr
  obtain ⟨hn, hs, -, -, -⟩ := Mach.fields_of_reaches hreach
  have hgrant := Chan.grant_of_credit (c := s.mach.chan n) s.mach.weights (List.mem_map.mpr ⟨r, hr, hcls⟩) hk
  have hg := gives_memoryAccess hrun n reqs
  rw [doAccess_serves hn hs (List.filter_eq_self.mpr fun q hq => (hall q hq).1) (by rw [hgrant]; exact holdest), if_neg (by simp [hread]),
    Mach.serveRead_clean ((Mach.firstBad_slotGranted ..).trans hf) hseen] at hg
  refine ⟨_, hg, by rw [Mach.rd_eq_of_mem (Mach.slotGranted_mem ..)], ?_⟩
  have hchan := s.mach.chan_slotGranted n reqs
  rw [hgrant] at hchan
  exact congrArg Chan.k1 hchan

/-- A slot that no request waits for raises the credit of class 1 at its channel, and changes nothing else. -/
theorem memoryAccess_empty {s : State} {n : Nat} (hrun : s.mach.phase = .running) {reqs : List MemReq} (h : reqs.filter (s.mach.reaches n) = []) :
    (n < 192 → s.mach.inService (n / 4) = true → ∃ m, Gives (.memoryAccess n reqs) s m ∧ m = { s.mach with chans := m.chans } ∧
      (m.chan n).k1 = min ((s.mach.chan n).k1 + 2) 512 ∧ (∀ c, c ≠ n → m.chan c = s.mach.chan c)) ∧
    (192 ≤ n ∨ s.mach.inService (n / 4) = false → Gives (.memoryAccess n reqs) s s.mach) := by
  have hg := gives_memoryAccess hrun n reqs
  refine ⟨fun hn hs => ?_, fun hoff => ?_⟩
  · rw [doAccess_empty hn hs h] at hg
    refine ⟨_, hg, rfl, ?_, fun c hc => ?_⟩
    · rw [Mach.chan_setChan, if_pos rfl, Chan.grant_nil_k1]
    · rw [Mach.chan_setChan, if_neg hc.symm]
  · rwa [doAccess_off hoff] at hg

/-- A channel that has failed three times in 1 s is repaired by its training, or its stack is lost. -/
theorem channelRetrain_row {s : State} {n : Nat} (hrun : s.mach.phase = .running) (hn : n < 192) (hs : s.mach.inService (n / 4) = true) :
    ((s.mach.chan n).worn s.mach.rc = false → ∀ ok, Gives (.channelRetrain n ok) s s.mach) ∧
    ((s.mach.chan n).worn s.mach.rc = true →
      (∃ m, Gives (.channelRetrain n true) s m ∧ (m.chan n).fails = [] ∧ m.stackState (n / 4) = 1 ∧ m.offStacks = s.mach.offStacks) ∧
      (n / 4 ∉ s.mach.offStacks → ∃ m, Gives (.channelRetrain n false) s m ∧ m.stackState (n / 4) = 5 ∧ n / 4 ∈ m.offStacks ∧
        m.field (0x4100 + n / 4) 2 11 8 = 2 ∧ m.objBit 0x2007 0 7 = true ∧ m.objBit 0x7000 2 1 = true)) := by
  have hg := gives_channelRetrain hrun n
  refine ⟨fun hworn ok => ?_, fun hworn => ⟨?_, fun hon => ?_⟩⟩
  · have hgok := hg ok
    rwa [doRetrain_unworn ok hworn] at hgok
  · refine ⟨_, hg true, ?_⟩
    rw [doRetrain_worn true hn hs hworn, if_pos rfl]
    refine ⟨?_, Mach.stackState_setStackState _ _ (by decide), rfl⟩
    have hchan := s.mach.chan_setChan n n { s.mach.chan n with fails := [] }
    rw [if_pos rfl] at hchan
    exact congrArg Chan.fails hchan
  · refine ⟨_, hg false, ?_⟩
    rw [doRetrain_worn false hn hs hworn, if_neg Bool.false_ne_true]
    exact Mach.loseStack_effect 0 (by omega) hon (by decide)

/-- The scrub counts what it corrects and what it cannot correct, and faults no job. -/
theorem scrubRead_row {s : State} {addr : Nat} (hrun : s.mach.phase = .running) (hs : addr / 2 ^ 35 < 48)
    (hstate : s.mach.stackState (addr / 2 ^ 35) = 1) (hin : addr % 2 ^ 35 < stackUsable)
    (hon : s.mach.objBit (0x4100 + addr / 2 ^ 35) 1 1 = true) (hsw : s.mach.swatchOn (addr / 2 ^ 35) = false)
    (hgood : firstBad s.mach.bad (addr / 64 * 64) 64 = none) :
    let i := 0x4100 + addr / 2 ^ 35
    Gives (.scrubRead addr .clean) s s.mach ∧
    (∃ m, Gives (.scrubRead addr .corrected) s m ∧ m.obj i 3 = min (s.mach.obj i 3 + 1) (2 ^ 64 - 1) ∧ m.bad = s.mach.bad ∧ m.mem = s.mach.mem ∧
      m.jobs = s.mach.jobs ∧ m.hwWait = s.mach.hwWait) ∧
    (∃ m, Gives (.scrubRead addr .uncorrectable) s m ∧ m.obj i 4 = min (s.mach.obj i 4 + 1) (2 ^ 64 - 1) ∧ addr / 32 ∈ m.bad ∧
      m.mem = s.mach.mem ∧ m.jobs = s.mach.jobs ∧ m.cores = s.mach.cores ∧ m.hwWait = s.mach.hwWait) := by
  have hg := gives_scrubRead hrun addr
  have hclean := hg .clean
  have hcorrected := hg .corrected
  have hlost := hg .uncorrectable
  obtain ⟨hfixed, hfound⟩ := doScrub_finds hs hstate hin hon hsw hgood
  rw [doScrub_clean hgood] at hclean
  rw [hfixed] at hcorrected
  rw [hfound] at hlost
  obtain ⟨hcount, hbad, hjobs, hwait⟩ := s.mach.eccCorrected_effect addr 4
  have honly := ReportsOnly.eccLost s.mach 5 addr 4
  refine ⟨hclean, ⟨_, hcorrected, hcount, hbad, Mach.eccCorrected_mem .., hjobs, hwait⟩,
    ⟨_, hlost, Mach.obj_eccLost_count .., Mach.mem_bad_eccLost .., Mach.eccLost_mem .., ?_, ?_, ?_⟩⟩ <;>
  rw [honly]

end Sys2Proof.Machine
end

section
/-! SUPPORT. Proofs: refresh, self-refresh and the swatch of a channel (R325, R334 to R336, Table 11-7). -/

namespace Sys2Proof.Machine

/-! ## Refresh -/

/-- The channel after a refresh of a bank ran, or was put off for a request of class 1 (R325). -/
def Chan.refreshed (c : Chan) (bank : Nat) (class1 : Bool) : Chan := { c with
  late := if class1 && c.late.get 0 bank < 4 then c.late.put bank (c.late.get 0 bank + 1) else c.late.del bank }

/-- The stack with the rate that a die of channel `n` has reported. -/
def StackRt.reported (x : StackRt) (n bank rate : Nat) : StackRt := { x with rates := x.rates.put (n % 4 + 4 * (bank / 16)) (rate % 256) }

theorem Chan.late_refreshed (c : Chan) (bank : Nat) (class1 : Bool) : (c.refreshed bank class1).late.get 0 bank =
    if class1 = true ∧ c.late.get 0 bank < 4 then c.late.get 0 bank + 1 else 0 := by
  unfold Chan.refreshed
  by_cases h : class1 = true ∧ c.late.get 0 bank < 4
  · rw [if_pos h, if_pos (by simp [h.1, h.2]), AMap.get_put_same]
  · rw [if_neg h, if_neg (by simpa using h), AMap.get_eq, AMap.get?_del_same]
    rfl

section
variable {m : Mach} {n : Nat}

theorem doRefresh_runs {bank : Nat} (b : Bool) (rate : Nat) (hn : n < 192) (hbank : bank < 32) (hstate : m.stackState (n / 4) = 1) :
    doRefresh m n bank b rate = ((m.setSrt (n / 4) ((m.srt (n / 4)).reported n bank rate)).setObj (0x4100 + n / 4) 0xC
      ((m.srt (n / 4)).reported n bank rate).rate).setChan n ((m.chan n).refreshed bank b) := by
  unfold doRefresh
  rw [if_neg (by simp [hn, hbank, hstate])]
  unfold Chan.refreshed StackRt.reported
  dsimp only
  split <;> rfl

/-! ## Self-refresh -/

theorem doSleep_early {t : Nat} (h : m.rc < (m.srt t).last + 25 * m.obj 0x4000 5) : doSleep m t = m :=
  if_neg (by simp [Nat.not_le.mpr h])

theorem doSleep_due {t : Nat} (ht : t < 48) (hstate : m.stackState t = 1) (hon : m.obj 0x4000 5 ≠ 0)
    (h : (m.srt t).last + 25 * m.obj 0x4000 5 ≤ m.rc) (hsw : ∀ c, c < 4 → m.swatchRuns (4 * t + c) = false) :
    doSleep m t = m.setStackState t 2 := by
  have hbusy : m.swatchBusy t = false := List.any_eq_false.mpr fun c hc => by simp [hsw c (List.mem_range.mp hc)]
  exact if_pos (by simp [ht, hstate, hon, h, hbusy])

theorem doAwake_asleep {t : Nat} (ht : t < 48) (hstate : m.stackState t = 2) : doAwake m t = m.setStackState t 1 :=
  if_pos (by simp [ht, hstate])

end

/-- A change of a stack's state changes the object that shows it: nothing else (Table 11-9). -/
theorem Mach.setStackState_effect (m : Mach) (t : Nat) {st : Nat} (h : st < 16) : (m.setStackState t st).stackState t = st ∧
    m.setStackState t st = { m with objs := (m.setStackState t st).objs } ∧ SameObjs [okey (0x4100 + t) 2] m (m.setStackState t st) :=
  ⟨Mach.stackState_setStackState m t h, rfl, SameObjs.setField m _ _ _ _ _ (by simp)⟩

/-! ## What a run writes -/

/-- The 64 bytes of SEED repeated, as a march leaves them (R335). -/
def seedWord (seed ctl : Nat) : List Byte :=
  if fld ctl 12 10 = 4 then ((List.range 64).map (fun j => BitVec.ofNat 8 (seed / 2 ^ (8 * (j % 4))))).map (fun b => ~~~b)
  else (List.range 64).map (fun j => BitVec.ofNat 8 (seed / 2 ^ (8 * (j % 4))))

@[simp] theorem length_seedWord (seed ctl : Nat) : (seedWord seed ctl).length = 64 := by
  unfold seedWord
  split <;> simp

/-- What a run that writes SEED stores: a unit for each data burst, in its order. -/
def Mach.seedPieces (m : Mach) (n ctl : Nat) : List (Nat × List Byte) :=
  ((m.swBursts n ctl).filterMap id).map (fun a => (a, seedWord (m.obj (0x4400 + n) 4) ctl))

theorem swBurst_seed {ctl : Nat} (h : fld ctl 9 7 = 0) (seed free k s : Nat) :
    swBurst ctl seed free k s = ((List.range 64).map (fun i => BitVec.ofNat 8 (seed / 2 ^ (8 * (i % 4)))), s) := by
  simp only [swBurst, h, if_true]

/-- A run that writes changes the memory, the halves known to be bad and the counter of free values: nothing else. -/
theorem Mach.swSpoil_only (m : Mach) (n ctl : Nat) : m.swSpoil n ctl = { m with
    mem := (m.swSpoil n ctl).mem
    bad := (m.swSpoil n ctl).bad
    free := (m.swSpoil n ctl).free } := by
  unfold Mach.swSpoil
  extract_lets seed free bursts raw written
  have hwritten : written = { m with mem := written.mem, bad := written.bad } := by
    refine List.foldlRecOn (motive := fun a : (Nat × Nat) × Mach => a.2 = { m with mem := a.2.mem, bad := a.2.bad }) _ _ rfl fun a ha x _ => ?_
    dsimp only
    split
    · exact ha
    · split <;> split <;> rw [ha] <;> rfl
  rw [hwritten]

/-- A fold over bursts that writes the same word for each data burst, and no byte for a check burst, stores the word in each unit. -/
theorem foldl_bursts_mem {β : Type} {f : β × Mach → Option Nat → β × Mach} {word : List Byte} (hcheck : ∀ a, (f a none).2.mem = a.2.mem)
    (hdata : ∀ a k, (f a (some k)).2.mem = Mem.write a.2.mem k word) (xs : List (Option Nat)) (a : β × Mach) :
    (xs.foldl f a).2.mem = (a.2.wrAll ((xs.filterMap id).map (fun k => (k, word)))).mem := by
  rw [Mach.wrAll_mem]
  induction xs generalizing a with
  | nil => rfl
  | cons x xs ih =>
    rw [List.foldl_cons, ih]
    cases x with
    | none => rw [hcheck]; rfl
    | some k => rw [hdata]; rfl

/-- A run that writes SEED stores its pieces. -/
theorem Mach.swSpoil_mem_seed (m : Mach) (n : Nat) {ctl : Nat} (h : fld ctl 9 7 = 0) :
    (m.swSpoil n ctl).mem = (m.wrAll (m.seedPieces n ctl)).mem := by
  unfold Mach.swSpoil
  extract_lets seed free bursts raw written
  refine foldl_bursts_mem (fun a => rfl) (fun a k => ?_) bursts _
  simp only [swBurst_seed h]
  split <;> split <;> rfl

/-- The units of a channel are 64 bytes each: no two share a byte. -/
theorem unitAddr_aligned (s ch p u : Nat) : unitAddr s ch p u % 64 = 0 := by
  simp only [unitAddr]
  omega

/-- The data bursts of a run are those to the units of its pages, in either order. -/
theorem Mach.mem_swBursts {m : Mach} {n ctl a : Nat} :
    some a ∈ m.swBursts n ctl ↔ ∃ p ∈ m.swPages n, ∃ u < 30, unitAddr (n / 4) (n % 4) p u = a := by
  have hcheck : some a ∉ (if bit ctl 26 then [none, none] else [] : List (Option Nat)) := by split <;> simp
  have hup : some a ∈ (m.swPages n).flatMap (fun p =>
      (List.range 30).map (fun u => some (unitAddr (n / 4) (n % 4) p u)) ++ if bit ctl 26 then [none, none] else []) ↔
      ∃ p ∈ m.swPages n, ∃ u < 30, unitAddr (n / 4) (n % 4) p u = a := by
    simp only [List.mem_flatMap, List.mem_append, hcheck, or_false, List.mem_map, List.mem_range, Option.some.injEq]
  rw [← hup, Mach.swBursts]
  split
  · exact List.mem_reverse
  · exact Iff.rfl

/-- The pieces of a run that writes SEED are the same or lie apart. -/
theorem Mach.seedPieces_apart (m : Mach) {n ctl s ch p u : Nat} {v : Nat × List Byte} (hv : v ∈ m.seedPieces n ctl) :
    v = (unitAddr s ch p u, seedWord (m.obj (0x4400 + n) 4) ctl) ∨
      unitAddr s ch p u + (seedWord (m.obj (0x4400 + n) 4) ctl).length ≤ v.1 ∨ v.1 + v.2.length ≤ unitAddr s ch p u := by
  obtain ⟨a, ha, rfl⟩ := List.mem_map.mp hv
  obtain ⟨x, hx, hxa⟩ := List.mem_filterMap.mp ha
  obtain rfl : x = some a := hxa
  obtain ⟨q, -, w, -, rfl⟩ := Mach.mem_swBursts.mp hx
  have haligned := unitAddr_aligned (n / 4) (n % 4) q w
  have hunit := unitAddr_aligned s ch p u
  by_cases h : unitAddr (n / 4) (n % 4) q w = unitAddr s ch p u
  · exact .inl (by rw [h])
  · simp only [length_seedWord]
    omega

/-- Every unit of the pages of a run that writes SEED reads it afterwards. -/
theorem Mach.rd_seedPieces {m : Mach} (hm : Memory.wf m) {n ctl pg u : Nat} (hpg : pg ∈ m.swPages n) (hu : u < 30) :
    (m.wrAll (m.seedPieces n ctl)).rd (unitAddr (n / 4) (n % 4) pg u) 64 = seedWord (m.obj (0x4400 + n) 4) ctl := by
  have hburst : some (unitAddr (n / 4) (n % 4) pg u) ∈ m.swBursts n ctl := Mach.mem_swBursts.mpr ⟨pg, hpg, u, hu, rfl⟩
  have hmem : (unitAddr (n / 4) (n % 4) pg u, seedWord (m.obj (0x4400 + n) 4) ctl) ∈ m.seedPieces n ctl :=
    List.mem_map.mpr ⟨_, List.mem_filterMap.mpr ⟨_, hburst, rfl⟩, rfl⟩
  have hread := Mach.rd_wrAll_of_mem hm hmem fun v hv => m.seedPieces_apart hv
  rwa [length_seedWord] at hread

/-! ## SWATCH_START, SWATCH_STOP, SWATCH_DONE -/

/-- The module with a run of channel `n` begun, and nothing written yet. -/
def Mach.swStarted (m : Mach) (n v : Nat) : Mach :=
  ((((m.setObj (0x4400 + n) 1 (swKept v)).setField (0x4400 + n) 5 3 0 1).reply 0).setChan n { m.chan n with
    swatch := v
    stopping := false }).touchStack (n / 4)

section
variable {m : Mach} {n v : Nat}

theorem doSwStart_range (hn : n < 192) (hv : bit v 0 = true) (h : swRefused v = true) : doSwStart n v m = m.reply abortRange := by
  unfold doSwStart
  rw [if_neg (by simp [hn, hv]), if_pos h]

theorem doSwStart_state (hn : n < 192) (hv : bit v 0 = true) (hr : swRefused v = false) (h : m.swReady (n / 4) = false ∨ m.swatchRuns n = true) :
    doSwStart n v m = m.reply abortState := by
  unfold doSwStart
  rw [if_neg (by simp [hn, hv]), if_neg (by simp [hr])]
  rcases h with h | h
  · rw [if_pos (by simp [h])]
  · rw [if_pos h, ite_self]

section
variable (hn : n < 192) (hv : bit v 0 = true) (hr : swRefused v = false) (hready : m.swReady (n / 4) = true) (hruns : m.swatchRuns n = false)
include hn hv hr hready hruns

theorem doSwStart_held (hd : swDestructive v = true) (hf : m.swFree n (fld v 28 27) = false) :
    doSwStart n v m = (m.setBit (0x4400 + n) 5 3 true).reply abortState := by
  unfold doSwStart
  rw [if_neg (by simp [hn, hv]), if_neg (by simp [hr]), if_neg (by simp [hready]), if_neg (by simp [hruns]), if_pos (by simp [hd, hf])]
  rfl

theorem doSwStart_starts (h : swDestructive v = false ∨ m.swFree n (fld v 28 27) = true) :
    doSwStart n v m = if swWrites v then (m.swStarted n v).swSpoil n v else m.swStarted n v := by
  unfold doSwStart
  rw [if_neg (by simp [hn, hv]), if_neg (by simp [hr]), if_neg (by simp [hready]), if_neg (by simp [hruns]),
    if_neg (by rcases h with h | h <;> simp [h])]
  rfl

end

theorem doSwStop_takes (hn : n < 192) (hstart : bit v 0 = false) (hstop : bit v 1 = true) (hr : swRefused v = false)
    (hon : n / 4 ∉ m.offStacks) : doSwStop n v m = if m.swatchRuns n then
      ((m.setObj (0x4400 + n) 1 (swKept v)).reply 0).setChan n { m.chan n with stopping := true }
    else (m.setObj (0x4400 + n) 1 (swKept v)).reply 0 := by
  have hruns : ((m.setObj (0x4400 + n) 1 (swKept v)).reply 0).swatchRuns n = m.swatchRuns n := by
    rw [Mach.swatchRuns, Mach.objBit, Mach.obj_reply, Mach.obj_setObj_sub m (by decide) (by decide) (by decide)]
    rfl
  unfold doSwStop
  rw [if_neg (by simp [hn, hstart, hstop]), if_neg (by simp [hr]), if_neg (by simpa using hon)]
  dsimp only
  rw [hruns]
  rfl

theorem doSwDone_goes_on {x : SwatchSeen} (h : m.swatchRuns n = false ∨ (fld (m.chan n).swatch 23 16 = 0 ∧ (m.chan n).stopping = false)) :
    doSwDone m n x = m := if_pos (by rcases h with h | ⟨h, h'⟩ <;> simp [*])

end

/-- What a run has met joins the counts of its channel (4400h + n.06 to .08). -/
def Mach.swCounted (m : Mach) (n : Nat) (x : SwatchSeen) : Mach :=
  (((((m.setChan n { m.chan n with stopping := false }).touchStack (n / 4)).addObj (0x4400 + n) 6 x.bursts).addObj (0x4400 + n) 7 x.errBursts).addObj
    (0x4400 + n) 8 x.errBits)

theorem doSwDone_ends {m : Mach} {n : Nat} {x : SwatchSeen} (hn : n < 192) (hruns : m.swatchRuns n = true)
    (h : fld (m.chan n).swatch 23 16 ≠ 0 ∨ (m.chan n).stopping = true) : doSwDone m n x =
      if x.errBursts = 0 then (m.swCounted n x).setField (0x4400 + n) 5 2 0 2
      else ((m.swCounted n x).setField (0x4400 + n) 5 2 0 4).setObj (0x4400 + n) 9 (leNat (padTo 16 (x.first.take 12))) :=
  if_neg (by rcases h with h | h <;> simp [hn, hruns, h])

section
variable (m : Mach) (n : Nat)

/-- A request to a stack leaves the objects of the channels. -/
theorem Mach.obj_touchStack_chan (t b : Nat) (ht : t < 48) (hb : b < 256) : (m.touchStack t).obj (0x4400 + n) b = m.obj (0x4400 + n) b :=
  SameObjs.touchStack m t _ _ (by
    rw [List.mem_singleton, okey_inj hb (by decide)]
    omega)

theorem Mach.chan_touchStack (t c : Nat) : (m.touchStack t).chan c = m.chan c := by
  rw [Mach.touchStack_only]
  rfl

@[simp] theorem Mach.touchStack_bad (t : Nat) : (m.touchStack t).bad = m.bad := by rw [Mach.touchStack_only]
@[simp] theorem Mach.touchStack_answer (t : Nat) : (m.touchStack t).answer = m.answer := by rw [Mach.touchStack_only]

/-- A stack in self-refresh is in service again with the next request to it (R334). -/
theorem Mach.stackState_touchStack (t : Nat) (h : m.stackState t = 2) : (m.touchStack t).stackState t = 1 := by
  unfold Mach.touchStack
  dsimp only
  split
  · exact Mach.stackState_setStackState _ _ (by decide)
  next hawake => exact absurd h hawake

/-- The objects of a channel whose run has begun: its control and its status have changed. -/
theorem Mach.obj_swStarted (v b : Nat) (hn : n < 192) (hb : b < 256) : (m.swStarted n v).obj (0x4400 + n) b =
    if b = 1 then swKept v else if b = 5 then setFld (m.obj (0x4400 + n) 5) 3 0 1 else m.obj (0x4400 + n) b := by
  have hobj : (m.swStarted n v).obj (0x4400 + n) b =
      ((m.setObj (0x4400 + n) 1 (swKept v)).setField (0x4400 + n) 5 3 0 1).obj (0x4400 + n) b :=
    Mach.obj_touchStack_chan _ n (n / 4) b (by omega) hb
  rw [hobj]
  by_cases h5 : b = 5
  · subst h5
    rw [Mach.obj_setField_same, Mach.obj_setObj_sub m (by decide) (by decide) (by decide)]
    rfl
  · rw [Mach.obj_setField_other _ (okey_ne_of_sub _ _ (by decide) hb (Ne.symm h5)), Mach.obj_setObj, if_neg h5]
    simp only [okey_inj (show 1 < 256 by decide) hb, true_and, eq_comm]

theorem Mach.chan_swStarted (v : Nat) : (m.swStarted n v).chan n = { m.chan n with swatch := v, stopping := false } := by
  rw [Mach.swStarted, Mach.chan_touchStack, Mach.chan_setChan, if_pos rfl]

theorem Mach.stackState_swStarted (v : Nat) (h : m.stackState (n / 4) = 2) : (m.swStarted n v).stackState (n / 4) = 1 := by
  refine Mach.stackState_touchStack _ _ ?_
  have hstatus : ((m.setObj (0x4400 + n) 1 (swKept v)).setField (0x4400 + n) 5 3 0 1).obj (0x4100 + n / 4) 2 = m.obj (0x4100 + n / 4) 2 := by
    rw [Mach.obj_setField_other _ (okey_ne_of_sub _ _ (by decide) (by decide) (by decide)),
      Mach.obj_setObj_sub _ (by decide) (by decide) (by decide)]
  exact (congrArg (fun w => fld w 3 0) hstatus).trans h

/-- The pages of a run are those that its channel's objects name. -/
theorem Mach.swPages_congr {m m' : Mach} {n : Nat} (h2 : m'.obj (0x4400 + n) 2 = m.obj (0x4400 + n) 2)
    (h3 : m'.obj (0x4400 + n) 3 = m.obj (0x4400 + n) 3) : m'.swPages n = m.swPages n := by
  simp only [Mach.swPages, h2, h3]

theorem Mach.chan_swCounted (x : SwatchSeen) : ((m.swCounted n x).chan n).stopping = false := by
  have hchan : (m.swCounted n x).chan n = ((m.setChan n { m.chan n with stopping := false }).touchStack (n / 4)).chan n := by
    simp only [Mach.chan, Mach.swCounted, Mach.addObj, Mach.setObj_chans]
  rw [hchan, Mach.chan_touchStack, Mach.chan_setChan, if_pos rfl]

/-- The counts of a channel after a run. -/
theorem Mach.obj_swCounted (x : SwatchSeen) (hn : n < 192) :
    (m.swCounted n x).obj (0x4400 + n) 6 = min (m.obj (0x4400 + n) 6 + x.bursts) (2 ^ 64 - 1) ∧
    (m.swCounted n x).obj (0x4400 + n) 7 = min (m.obj (0x4400 + n) 7 + x.errBursts) (2 ^ 64 - 1) ∧
    (m.swCounted n x).obj (0x4400 + n) 8 = min (m.obj (0x4400 + n) 8 + x.errBits) (2 ^ 64 - 1) := by
  have hbegan : ∀ b, b < 256 → ((m.setChan n { m.chan n with stopping := false }).touchStack (n / 4)).obj (0x4400 + n) b = m.obj (0x4400 + n) b :=
    fun b hb => Mach.obj_touchStack_chan _ n (n / 4) b (by omega) hb
  refine ⟨?_, ?_, ?_⟩
  · rw [Mach.swCounted, Mach.obj_addObj_sub _ (by decide) (by decide) (by decide), Mach.obj_addObj_sub _ (by decide) (by decide) (by decide),
      Mach.obj_addObj_same, hbegan 6 (by decide)]
  · rw [Mach.swCounted, Mach.obj_addObj_sub _ (by decide) (by decide) (by decide), Mach.obj_addObj_same,
      Mach.obj_addObj_sub _ (by decide) (by decide) (by decide), hbegan 7 (by decide)]
  · rw [Mach.swCounted, Mach.obj_addObj_same, Mach.obj_addObj_sub _ (by decide) (by decide) (by decide),
      Mach.obj_addObj_sub _ (by decide) (by decide) (by decide), hbegan 8 (by decide)]

end

/-! ## The rows -/

section
variable {s : State} {n : Nat} (hrun : s.mach.phase = .running)
include hrun

theorem gives_perBankRefresh (bank : Nat) (b : Bool) (rate : Nat) : Gives (.perBankRefresh n bank b rate) s (doRefresh s.mach n bank b rate) :=
  gives_step _ s (fun m => doRefresh m n bank b rate) rfl hrun

theorem gives_selfRefreshEntry (t : Nat) : Gives (.selfRefreshEntry t) s (doSleep s.mach t) := gives_step _ s (fun m => doSleep m t) rfl hrun

theorem gives_selfRefreshExit (t : Nat) : Gives (.selfRefreshExit t) s (doAwake s.mach t) := gives_step _ s (fun m => doAwake m t) rfl hrun

theorem gives_swatchDone (x : SwatchSeen) : Gives (.swatchDone n x) s (doSwDone s.mach n x) :=
  gives_step _ s (fun m => doSwDone m n x) rfl hrun

variable {path : Path} (v : Nat) (hserves : s.mach.serves path = true)
include hserves

theorem gives_swatchStart : Gives (.swatchStart path n v) s (doSwStart n v s.mach) := gives_byPath rfl hrun hserves

theorem gives_swatchStop : Gives (.swatchStop path n v) s (doSwStop n v s.mach) := gives_byPath rfl hrun hserves

end

/-- A refresh runs or is put off; the stack shows the highest rate that its dies ask for. -/
theorem perBankRefresh_row {s : State} {n bank : Nat} (rate : Nat) (b : Bool) (hrun : s.mach.phase = .running) (hn : n < 192) (hbank : bank < 32)
    (hstate : s.mach.stackState (n / 4) = 1) : ∃ m, Gives (.perBankRefresh n bank b rate) s m ∧
      m.srt (n / 4) = (s.mach.srt (n / 4)).reported n bank rate ∧ m.obj (0x4100 + n / 4) 0xC = (m.srt (n / 4)).rate ∧
      SameObjs [okey (0x4100 + n / 4) 0xC] s.mach m ∧ m.mem = s.mach.mem ∧
      (m.chan n).late.get 0 bank = if b = true ∧ (s.mach.chan n).late.get 0 bank < 4 then (s.mach.chan n).late.get 0 bank + 1 else 0 := by
  have hg := gives_perBankRefresh (n := n) hrun bank b rate
  rw [doRefresh_runs b rate hn hbank hstate] at hg
  generalize hx : (s.mach.srt (n / 4)).reported n bank rate = x at hg
  have hsrt : (((s.mach.setSrt (n / 4) x).setObj (0x4100 + n / 4) 0xC x.rate).setChan n ((s.mach.chan n).refreshed bank b)).srt (n / 4) = x := by
    have hset := s.mach.srt_setSrt (n / 4) (n / 4) x
    rwa [if_pos rfl] at hset
  refine ⟨_, hg, hsrt, ?_, ?_, rfl, ?_⟩
  · rw [hsrt]
    exact Mach.obj_setObj_same ..
  · exact SameObjs.trans (SameObjs.of_objs (b := s.mach.setSrt (n / 4) x) _ rfl)
      (SameObjs.trans (SameObjs.setObj _ _ _ _ (by simp)) (SameObjs.of_objs _ rfl))
  · rw [Mach.chan_setChan, if_pos rfl, Chan.late_refreshed]

/-- A run that may start is on: its control and its channel say so, and its stack is awake; one that does not write changes no byte, and one that
writes SEED leaves it in every unit of its pages. -/
theorem swatchStart_starts {s : State} {path : Path} {n v : Nat} (hrun : s.mach.phase = .running) (hn : n < 192)
    (hserves : s.mach.serves path = true) (hv : bit v 0 = true) (hr : swRefused v = false) (hready : s.mach.swReady (n / 4) = true)
    (hruns : s.mach.swatchRuns n = false) (hfree : swDestructive v = false ∨ s.mach.swFree n (fld v 28 27) = true) :
    ∃ m, Gives (.swatchStart path n v) s m ∧ m.answer = ⟨0, []⟩ ∧ m.swatchRuns n = true ∧ m.obj (0x4400 + n) 1 = swKept v ∧
      (m.chan n).swatch = v ∧ (m.chan n).stopping = false ∧ (s.mach.stackState (n / 4) = 2 → m.stackState (n / 4) = 1) ∧
      (swWrites v = false → m.mem = s.mach.mem ∧ m.bad = s.mach.bad) ∧
      (swWrites v = true → fld v 9 7 = 0 → Memory.wf s.mach → ∀ pg ∈ s.mach.swPages n, ∀ u, u < 30 →
        m.rd (unitAddr (n / 4) (n % 4) pg u) 64 = seedWord (s.mach.obj (0x4400 + n) 4) v) := by
  have hg := gives_swatchStart hrun v hserves (n := n)
  rw [doSwStart_starts hn hv hr hready hruns hfree] at hg
  have hobj : ∀ b, b < 256 → (s.mach.swStarted n v).obj (0x4400 + n) b =
      if b = 1 then swKept v else if b = 5 then setFld (s.mach.obj (0x4400 + n) 5) 3 0 1 else s.mach.obj (0x4400 + n) b :=
    fun b hb => s.mach.obj_swStarted n v b hn hb
  have hchan := s.mach.chan_swStarted n v
  have hmem : (s.mach.swStarted n v).mem = s.mach.mem := Mach.touchStack_mem ..
  have hbad : (s.mach.swStarted n v).bad = s.mach.bad := Mach.touchStack_bad ..
  have hanswer : (s.mach.swStarted n v).answer = ⟨0, []⟩ := Mach.touchStack_answer ..
  have hwakes : s.mach.stackState (n / 4) = 2 → (s.mach.swStarted n v).stackState (n / 4) = 1 := s.mach.stackState_swStarted n v
  generalize s.mach.swStarted n v = started at *
  have hshows : started.swatchRuns n = true := by
    rw [Mach.swatchRuns, Mach.objBit, hobj 5 (by decide), if_neg (by decide), if_pos rfl, bit_eq_testBit, testBit_setFld _ _ _ _ _ (by decide)]
    rfl
  cases hw : swWrites v
  · rw [hw, if_neg Bool.false_ne_true] at hg
    exact ⟨_, hg, hanswer, hshows, hobj 1 (by decide), congrArg Chan.swatch hchan, congrArg Chan.stopping hchan, hwakes,
      fun _ => ⟨hmem, hbad⟩, fun h => absurd h Bool.false_ne_true⟩
  · rw [hw, if_pos rfl] at hg
    have honly := started.swSpoil_only n v
    have hobjs : (started.swSpoil n v).objs = started.objs := by rw [honly]
    have hchans : (started.swSpoil n v).chan n = started.chan n := by rw [honly]; rfl
    refine ⟨_, hg, ?_, ?_, ?_, ?_, ?_, fun hsleeps => ?_, fun h => absurd h.symm Bool.false_ne_true, fun _ hseed hwf pg hpg u hu => ?_⟩
    · rw [honly, hanswer]
    · rwa [Mach.swatchRuns, Mach.objBit, Mach.obj_eq_of_objs hobjs]
    · rw [Mach.obj_eq_of_objs hobjs, hobj 1 (by decide), if_pos rfl]
    · rw [hchans, hchan]
    · rw [hchans, hchan]
    · rw [Mach.stackState, Mach.field, Mach.obj_eq_of_objs hobjs]
      exact hwakes hsleeps
    · have hpages : started.swPages n = s.mach.swPages n := Mach.swPages_congr (hobj 2 (by decide)) (hobj 3 (by decide))
      rw [Mach.rd_eq_of_mem (started.swSpoil_mem_seed n hseed), Mach.rd_seedPieces (Memory.wf_of_mem hmem hwf) (hpages ▸ hpg) hu,
        hobj 4 (by decide)]
      rfl

/-- A run that is to stop keeps what the command's value keeps, and its channel remembers. -/
theorem swatchStop_row {s : State} {path : Path} {n v : Nat} (hrun : s.mach.phase = .running) (hn : n < 192) (hserves : s.mach.serves path = true)
    (hstart : bit v 0 = false) (hstop : bit v 1 = true) (hr : swRefused v = false) (hon : n / 4 ∉ s.mach.offStacks) :
    ∃ m, Gives (.swatchStop path n v) s m ∧ m.answer = ⟨0, []⟩ ∧ m.obj (0x4400 + n) 1 = swKept v ∧ m.mem = s.mach.mem ∧
      SameObjs [okey (0x4400 + n) 1] s.mach m ∧ (s.mach.swatchRuns n = true → (m.chan n).stopping = true) := by
  have hg := gives_swatchStop hrun v hserves (n := n)
  rw [doSwStop_takes hn hstart hstop hr hon] at hg
  have hsame : SameObjs [okey (0x4400 + n) 1] s.mach (s.mach.setObj (0x4400 + n) 1 (swKept v)) := SameObjs.setObj _ _ _ _ (by simp)
  cases hruns : s.mach.swatchRuns n
  · rw [hruns, if_neg Bool.false_ne_true] at hg
    exact ⟨_, hg, rfl, Mach.obj_setObj_same .., rfl, SameObjs.trans hsame (SameObjs.of_objs _ rfl), fun h => absurd h Bool.false_ne_true⟩
  · rw [hruns, if_pos rfl] at hg
    refine ⟨_, hg, rfl, Mach.obj_setObj_same .., rfl, SameObjs.trans hsame (SameObjs.of_objs _ rfl), fun _ => ?_⟩
    rw [Mach.chan_setChan, if_pos rfl]

/-- A run ends DONE or FAIL with its counts. -/
theorem swatchDone_ends {s : State} {n : Nat} (x : SwatchSeen) (hrun : s.mach.phase = .running) (hn : n < 192) (hruns : s.mach.swatchRuns n = true)
    (h : fld (s.mach.chan n).swatch 23 16 ≠ 0 ∨ (s.mach.chan n).stopping = true) :
    ∃ m, Gives (.swatchDone n x) s m ∧ (m.chan n).stopping = false ∧ m.field (0x4400 + n) 5 2 0 = (if x.errBursts = 0 then 2 else 4) ∧
      m.obj (0x4400 + n) 6 = min (s.mach.obj (0x4400 + n) 6 + x.bursts) (2 ^ 64 - 1) ∧
      m.obj (0x4400 + n) 7 = min (s.mach.obj (0x4400 + n) 7 + x.errBursts) (2 ^ 64 - 1) ∧
      m.obj (0x4400 + n) 8 = min (s.mach.obj (0x4400 + n) 8 + x.errBits) (2 ^ 64 - 1) ∧ m.mem = s.mach.mem := by
  have hg := gives_swatchDone (n := n) hrun x
  have hmem : (doSwDone s.mach n x).mem = s.mach.mem := doSwDone_mem ..
  rw [doSwDone_ends hn hruns h] at hg hmem
  obtain ⟨h6, h7, h8⟩ := s.mach.obj_swCounted n x hn
  have hchan := s.mach.chan_swCounted n x
  generalize s.mach.swCounted n x = counted at *
  have hother : ∀ hi lo w b, b < 256 → b ≠ 5 → (counted.setField (0x4400 + n) 5 hi lo w).obj (0x4400 + n) b = counted.obj (0x4400 + n) b :=
    fun hi lo w b hb h5 => Mach.obj_setField_other _ (okey_ne_of_sub _ _ (by decide) hb h5.symm) hi lo w
  by_cases hclean : x.errBursts = 0
  · rw [if_pos hclean] at hg hmem ⊢
    refine ⟨_, hg, hchan, Mach.field_setField_same _ _ _ _ _ _ (by decide), ?_, ?_, ?_, hmem⟩
    · rw [hother _ _ _ 6 (by decide) (by decide), h6]
    · rw [hother _ _ _ 7 (by decide) (by decide), h7]
    · rw [hother _ _ _ 8 (by decide) (by decide), h8]
  · rw [if_neg hclean] at hg hmem ⊢
    refine ⟨_, hg, hchan, ?_, ?_, ?_, ?_, hmem⟩
    · rw [Mach.field, Mach.obj_setObj_sub _ (by decide) (by decide) (by decide)]
      exact Mach.field_setField_same _ _ _ _ _ _ (by decide)
    · rw [Mach.obj_setObj_sub _ (by decide) (by decide) (by decide), hother _ _ _ 6 (by decide) (by decide), h6]
    · rw [Mach.obj_setObj_sub _ (by decide) (by decide) (by decide), hother _ _ _ 7 (by decide) (by decide), h7]
    · rw [Mach.obj_setObj_sub _ (by decide) (by decide) (by decide), hother _ _ _ 8 (by decide) (by decide), h8]

/-- Settles O47: a slot serves its request, a worn channel is repaired or its stack lost, the scrub counts; refresh, self-refresh and the swatch. -/
theorem deviceMemory : Obligations.DeviceMemory := by
  constructor
  · intro s n hrun
    exact ⟨fun reqs r h => ⟨fun hread hseen hgood => memoryAccess_read_clean hrun h hread hgood hseen, memoryAccess_write hrun h,
        fun hread hseen hgood => memoryAccess_read_uncorrectable hrun h hread hgood hseen, fun b hread hbad => memoryAccess_read_meets hrun h hread hbad,
        fun k hk hread hseen hgood => memoryAccess_read_exhausted hrun h hread hgood hk hseen⟩,
      fun reqs r hall hr hk => memoryAccess_class1 hrun hall hr hk,
      fun reqs h => memoryAccess_empty hrun h, fun hn hs => channelRetrain_row hrun hn hs,
      fun addr hs hstate hin hon hsw hgood => scrubRead_row hrun hs hstate hin hon hsw hgood⟩
  · intro s n hrun hn t i
    have ht : t < 48 := by omega
    refine ⟨fun bank rate b hbank hstate => perBankRefresh_row rate b hrun hn hbank hstate, fun hearly => ?_, fun hstate hon hdue hsw => ?_,
      fun hstate => ?_, fun path v hserves => ⟨fun hv => ⟨fun hr => ?_, fun hr hstate => ?_, fun hr hready hruns hd hf => ?_,
        fun hr hready hruns hfree => swatchStart_starts hrun hn hserves hv hr hready hruns hfree⟩,
        fun hstart hstop hr hon => swatchStop_row hrun hn hserves hstart hstop hr hon⟩,
      fun x hgoes => ?_, fun x hruns hends => swatchDone_ends x hrun hn hruns hends⟩
    · have hg := gives_selfRefreshEntry hrun t
      rwa [doSleep_early hearly] at hg
    · have hg := gives_selfRefreshEntry hrun t
      rw [doSleep_due ht hstate hon hdue hsw] at hg
      exact ⟨_, hg, Mach.setStackState_effect _ _ (by decide)⟩
    · have hg := gives_selfRefreshExit hrun t
      rw [doAwake_asleep ht hstate] at hg
      exact ⟨_, hg, Mach.setStackState_effect _ _ (by decide)⟩
    · have hg := gives_swatchStart hrun v hserves (n := n)
      rwa [doSwStart_range hn hv hr] at hg
    · have hg := gives_swatchStart hrun v hserves (n := n)
      rwa [doSwStart_state hn hv hr hstate] at hg
    · have hg := gives_swatchStart hrun v hserves (n := n)
      rw [doSwStart_held hn hv hr hready hruns hd hf] at hg
      exact ⟨_, hg, rfl, s.mach.objBit_setBit_same (0x4400 + n) 5 3 true, rfl,
        SameObjs.trans (SameObjs.setBit _ _ _ _ _ (List.mem_singleton.mpr rfl)) (SameObjs.of_objs _ rfl)⟩
    · have hg := gives_swatchDone (n := n) hrun x
      rwa [doSwDone_goes_on hgoes] at hg

end Sys2Proof.Machine
end

section
/-! SUPPORT. Proofs: what a media engine changes while it works on a command, and how the command finishes (R350, R356, R357, R359). -/

namespace Sys2Proof.Machine

/-! ## The checks of a command -/

section
variable {m m' : Mach} {p e : Nat} {b : List Byte}

theorem Mach.stacks_of_obj (h : m'.obj (pix p) 4 = m.obj (pix p) 4) : m'.stacks p = m.stacks p := by simp only [Mach.stacks, h]

theorem Mach.holds_congr (h : m'.stacks p = m.stacks p) (a n : Nat) : m'.holds p a n = m.holds p a n := by simp only [Mach.holds, h]

/-- The checks rest on the engine's FAILED state, the stacks of the partition, the bytes and the streams. -/
theorem Mach.medRefusal_congr (hfailed : (m'.med e).failed = (m.med e).failed) (hstacks : m'.stacks p = m.stacks p) (hmem : m'.mem = m.mem)
    (hstreams : m'.streams = m.streams) : m'.medRefusal p e b = m.medRefusal p e b := by
  have hrd : m'.rd = m.rd := funext fun a => funext fun n => Mach.rd_eq_of_mem hmem a n
  have hholds : m'.holds p = m.holds p := funext fun a => funext fun n => Mach.holds_congr hstacks a n
  have h11 : m'.medBad11 p e b = m.medBad11 p e b := by
    unfold Mach.medBad11
    rw [hrd, hholds]
  have h12 : m'.medBad12 p e b = m.medBad12 p e b := by simp only [Mach.medBad12, hstreams]
  have h13 : m'.medBad13 e b = m.medBad13 e b := by simp only [Mach.medBad13, hrd]
  unfold Mach.medRefusal
  rw [hfailed, h11, h12, h13]

theorem Mach.medRefusal_eq_none_iff : m.medRefusal p e b = none ↔
    (m.med e).failed = false ∧ medBad10 e b = false ∧ m.medBad11 p e b = false ∧ m.medBad12 p e b = false ∧ m.medBad13 e b = false := by
  have hcheck : ∀ (c : Bool) (n : Nat) (x : Option Nat), (if c then some n else x) = none ↔ c = false ∧ x = none :=
    fun c n x => by cases c <;> simp
  simp only [Mach.medRefusal, hcheck, and_true]

/-- A command that no check refuses has a MOP of its engine's class (Table 12-4). -/
theorem Mach.mopFits_of_accepted (h : m.medRefusal p e b = none) : mopFits (mcMop b) (engClass e) = true := by
  obtain ⟨-, h10, -⟩ := Mach.medRefusal_eq_none_iff.mp h
  simp only [medBad10, Bool.or_eq_false_iff, Bool.not_eq_false'] at h10
  simp only [h10]

/-- A command but OPEN that no check refuses has an open stream, at an engine with streams. -/
theorem Mach.stream_of_accepted (h : m.medRefusal p e b = none) (hmop : mcMop b ≠ 1) (h2 : engClass e ≠ 2) (h4 : engClass e ≠ 4) :
    ∃ st, m.streams.get? (streamKey e (mcStream b)) = some st := by
  obtain ⟨-, -, -, h12, -⟩ := Mach.medRefusal_eq_none_iff.mp h
  cases hst : m.streams.get? (streamKey e (mcStream b)) with
  | some st => exact ⟨st, rfl⟩
  | none => simp [Mach.medBad12, hst, hmop, h2, h4] at h12

end

/-! ## An engine at work -/

/-- What engine `e` may change while it works on a command: the context it holds, the stream of key `k`, the bytes in `ws`, and the objects of
sub-indexes 1, 2 and 6 (its own status, the states of the stacks, its count of unsupported inputs). -/
structure MedWorks (e k : Nat) (ws : List (Nat × Nat)) (m m' : Mach) : Prop where
  fields : m' = { m with
    objs := m'.objs
    stackRt := m'.stackRt
    mem := m'.mem
    bad := m'.bad
    free := m'.free
    streams := m'.streams
    media := m'.media }
  engine : ∃ ctx, m'.med e = { m.med e with ctx := ctx }
  others : ∀ d, d ≠ e → m'.med d = m.med d
  streams : ∀ j, j ≠ k → m'.streams.get? j = m.streams.get? j
  objs : ∀ i a, a < 256 → a ∉ [1, 2, 6] → m'.obj i a = m.obj i a
  bytes : Memory.wf m → Memory.wf m' ∧ SameOutside ws m m'

section
variable {e k : Nat} {ws : List (Nat × Nat)} {m m' : Mach}

theorem MedWorks.trans {a b c : Mach} (h : MedWorks e k ws a b) (h' : MedWorks e k ws b c) : MedWorks e k ws a c where
  fields := by
    have hc := h'.fields
    rw [h.fields] at hc
    exact hc
  engine := by
    obtain ⟨x, hx⟩ := h.engine
    obtain ⟨y, hy⟩ := h'.engine
    exact ⟨y, by rw [hy, hx]⟩
  others d hd := (h'.others d hd).trans (h.others d hd)
  streams j hj := (h'.streams j hj).trans (h.streams j hj)
  objs i n hn hs := (h'.objs i n hn hs).trans (h.objs i n hn hs)
  bytes hm := by
    obtain ⟨hb, hab⟩ := h.bytes hm
    obtain ⟨hc, hbc⟩ := h'.bytes hb
    exact ⟨hc, SameOutside.trans hab hbc⟩

/-- A change of free numbers, requests to the stacks and objects that an engine may write. -/
theorem MedWorks.of_mem (h : m' = { m with
    objs := m'.objs
    stackRt := m'.stackRt
    free := m'.free }) (hobjs : ∀ i a, a < 256 → a ∉ [1, 2, 6] → m'.obj i a = m.obj i a) : MedWorks e k ws m m' := by
  have hmedia : m'.media = m.media := by rw [h]
  have hmem : m'.mem = m.mem := by rw [h]
  have hstreams : m'.streams = m.streams := by rw [h]
  have hmed : ∀ d, m'.med d = m.med d := fun d => by simp only [Mach.med, hmedia]
  refine ⟨?_, ⟨_, hmed e⟩, fun d _ => hmed d, fun j _ => by rw [hstreams], hobjs,
    fun hm => ⟨Memory.wf_of_mem hmem hm, SameOutside.of_mem _ hmem⟩⟩
  rw [h]

theorem MedWorks.refl (m : Mach) : MedWorks e k ws m m := MedWorks.of_mem rfl fun _ _ _ _ => rfl

theorem MedWorks.run (h : MedWorks e k ws m m') : (m'.med e).run = (m.med e).run := by
  obtain ⟨x, hx⟩ := h.engine
  rw [hx]

theorem MedWorks.queue (h : MedWorks e k ws m m') : (m'.med e).queue = (m.med e).queue := by
  obtain ⟨x, hx⟩ := h.engine
  rw [hx]

theorem MedWorks.failed (h : MedWorks e k ws m m') : (m'.med e).failed = (m.med e).failed := by
  obtain ⟨x, hx⟩ := h.engine
  rw [hx]

theorem MedWorks.jobs (h : MedWorks e k ws m m') : m'.jobs = m.jobs := by rw [h.fields]
theorem MedWorks.cores (h : MedWorks e k ws m m') : m'.cores = m.cores := by rw [h.fields]

/-- No object that an engine writes tells of the stacks of a partition. -/
theorem MedWorks.stacks (h : MedWorks e k ws m m') (p : Nat) : m'.stacks p = m.stacks p := Mach.stacks_of_obj (h.objs _ 4 (by decide) (by decide))

theorem MedWorks.setObj (m : Mach) (i : Nat) {a : Nat} (ha : a ∈ [1, 2, 6]) (v : Nat) : MedWorks e k ws m (m.setObj i a v) := by
  refine MedWorks.of_mem rfl fun j c hc hn => Mach.obj_setObj_sub m ?_ hc (fun h => hn (h ▸ ha)) v
  simp only [List.mem_cons, List.not_mem_nil, or_false] at ha
  omega

theorem MedWorks.touch (m : Mach) (rs : List (Nat × Nat)) : MedWorks e k ws m (m.touch rs) := by
  refine MedWorks.of_mem ?_ fun i a ha hn => SameObjs.touch m rs i a fun hk => ?_
  · rw [Mach.touch_only]
  · obtain ⟨s, -, hs⟩ := List.mem_map.mp hk
    exact okey_ne_of_sub _ _ (by decide) ha (fun h => hn (h ▸ by decide)) hs

theorem MedWorks.medWork (m : Mach) (b : List Byte) : MedWorks e k ws m (m.medWork e b) := by
  have hctx : MedWorks e k ws m (m.setMed e { m.med e with ctx := (medCtx e b).or (m.med e).ctx }) :=
    ⟨rfl, ⟨_, by rw [Mach.med_setMed, if_pos rfl]⟩, fun d hd => by rw [Mach.med_setMed, if_neg hd.symm], fun _ _ => rfl, fun _ _ _ _ => rfl,
      fun hm => ⟨hm, SameOutside.of_mem _ rfl⟩⟩
  unfold Mach.medWork
  dsimp only
  split
  · exact hctx
  · exact hctx.trans (MedWorks.setObj _ _ (by decide) _)

theorem MedWorks.medCut (m : Mach) (wd : Bool) : MedWorks e k ws m (m.medCut wd).2 := by
  unfold Mach.medCut
  split
  · exact MedWorks.of_mem rfl fun _ _ _ _ => rfl
  · exact MedWorks.refl m

/-- A write of bytes that lie in `ws`. -/
theorem MedWorks.of_write {a : Nat} {bs : List Byte} (h : m' = { m with
    mem := Mem.write m.mem a bs
    bad := m'.bad
    free := m'.free }) {n : Nat} (hin : (a, n) ∈ ws) (hlen : bs.length ≤ n) : MedWorks e k ws m m' := by
  have hmem : m'.mem = (m.wr a bs).mem := by rw [h]; rfl
  have hmed : ∀ d, m'.med d = m.med d := fun d => by rw [h]; rfl
  refine ⟨?_, ⟨_, hmed e⟩, fun d _ => hmed d, fun j _ => by rw [h], fun i c _ _ => by rw [h]; rfl, fun hm => ⟨?_, ?_⟩⟩
  · rw [h]
  · exact Memory.wf_of_mem hmem (Memory.wf_wr hm a bs)
  · have hsub : [(a, n)] ⊆ ws := by simpa using hin
    refine SameOutside.mono hsub (SameOutside.widen (SameOutside.trans (SameOutside.wr hm a bs) (SameOutside.of_mem _ hmem)) fun w hw => ?_)
    obtain rfl := List.mem_singleton.mp hw
    exact ⟨le_refl _, by dsimp only; omega⟩

theorem MedWorks.scribble (m : Mach) {a n : Nat} (hin : (a, n) ∈ ws) : MedWorks e k ws m (m.scribble a n) :=
  MedWorks.of_write (bs := m.freeBytes n) rfl hin (by simp [Mach.freeBytes])

theorem MedWorks.put (m : Mach) {a n : Nat} {bs : List Byte} (hin : (a, n) ∈ ws) (hlen : bs.length ≤ n) : MedWorks e k ws m (m.put a bs) :=
  MedWorks.trans (MedWorks.touch m [(a, bs.length)]) (MedWorks.of_write (bs := bs) rfl hin hlen)

/-- A change of the stream of key `k`. -/
theorem MedWorks.of_streams (h : m' = { m with streams := m'.streams }) (hstreams : ∀ j, j ≠ k → m'.streams.get? j = m.streams.get? j) :
    MedWorks e k ws m m' := by
  have hmem : m'.mem = m.mem := by rw [h]
  have hmed : ∀ d, m'.med d = m.med d := fun d => by rw [h]; rfl
  refine ⟨?_, ⟨_, hmed e⟩, fun d _ => hmed d, hstreams, fun i a _ _ => by rw [h]; rfl,
    fun hm => ⟨Memory.wf_of_mem hmem hm, SameOutside.of_mem _ hmem⟩⟩
  rw [h]

theorem MedWorks.modStr (m : Mach) (f : MedStr → MedStr) : MedWorks e k ws m (m.modStr k f) := by
  unfold Mach.modStr
  split
  · exact MedWorks.of_streams rfl fun j hj => AMap.get?_put_other hj.symm _ _
  · exact MedWorks.refl m

end

/-! ## Results -/

/-- The status leads the result record (Table 12-9). -/
theorem MedOut.leAt_record (o : MedOut) (b : List Byte) : leAt (o.record b) 0 1 = o.status % 256 := by
  simp [MedOut.record, leAt, leBytes, leNat]

/-- The output buffer and the error map of a command. -/
def medOutputs (b : List Byte) : List (Nat × Nat) := [(mcDbase b, mcDsize b), (mcEbase b, if mcEbase b = 0 then 0 else mcEsize b)]

/-- The module with an output and a map stored, each cut to its region (R357). -/
def Mach.medStored (m : Mach) (b out map : List Byte) : Mach :=
  let m' := m.put (mcDbase b) (out.take (mcDsize b))
  if mcEbase b = 0 then m' else m'.put (mcEbase b) (map.take (mcEsize b))

section
variable (m : Mach) {e : Nat} (b out map : List Byte) (o : MedOut)

theorem MedWorks.medStored {k : Nat} {ws : List (Nat × Nat)} (hws : medOutputs b ⊆ ws) : MedWorks e k ws m (m.medStored b out map) := by
  have hout : MedWorks e k ws m (m.put (mcDbase b) (out.take (mcDsize b))) := MedWorks.put m (hws (by simp [medOutputs])) (List.length_take_le ..)
  unfold Mach.medStored
  dsimp only
  split
  · exact hout
  next h => exact hout.trans (MedWorks.put _ (n := mcEsize b) (hws (by simp [medOutputs, h])) (List.length_take_le ..))

/-- Storing an output and a map changes bytes, the halves known to be bad, and the state of stacks: nothing else. -/
theorem Mach.medStored_only : m.medStored b out map = { m with
    objs := (m.medStored b out map).objs
    stackRt := (m.medStored b out map).stackRt
    mem := (m.medStored b out map).mem
    bad := (m.medStored b out map).bad } := by
  have hput : ∀ (x : Mach) a bs, x.put a bs = { x with
      objs := (x.put a bs).objs
      stackRt := (x.put a bs).stackRt
      mem := (x.put a bs).mem
      bad := (x.put a bs).bad } := fun x a bs => by
    unfold Mach.put
    rw [Mach.touch_only]
    rfl
  unfold Mach.medStored
  dsimp only
  split
  · exact hput ..
  · rw [hput (m.put _ _), hput m]

/-- Only the states of stacks change among the objects. -/
theorem Mach.obj_medStored {a : Nat} (ha : a < 256) (h : a ≠ 2) (i : Nat) : (m.medStored b out map).obj i a = m.obj i a := by
  have hput : ∀ (x : Mach) c bs, (x.put c bs).obj i a = x.obj i a := fun x c bs =>
    SameObjs.put x c bs i a (by simpa using okey_ne_of_sub _ _ ha (by decide) h)
  unfold Mach.medStored
  dsimp only
  split
  · exact hput ..
  · rw [hput, hput]

/-- A command finishes with its output and map stored, and with a status that is at least TRUNCATED when output was lost. -/
theorem Mach.medFinish_eq : ∃ o' : MedOut, m.medFinish e b out map o = (m.medStored b out map).medDone e o' ∧
    (o'.status = o.status ∨ o'.status = max 4 o.status) := by
  unfold Mach.medFinish Mach.medStored Mach.medWrite
  dsimp only
  by_cases h : mcEbase b = 0
  · rw [if_pos h, if_pos h]
    exact ⟨_, rfl, by dsimp only; split <;> simp⟩
  · rw [if_neg h, if_neg h]
    exact ⟨_, rfl, by dsimp only; split <;> simp⟩

end

section
variable {m : Mach} {e : Nat} {r : MedRun}

theorem Mach.medDone_run (hrun : (m.med e).run = some r) (o : MedOut) :
    m.medDone e o = m.setMed e { m.med e with run := some { r with result := some (o.record r.cmd.bytes) } } := by
  simp only [Mach.medDone, hrun]

theorem Mach.med_medDone (hrun : (m.med e).run = some r) (o : MedOut) :
    (m.medDone e o).med e = { m.med e with run := some { r with result := some (o.record r.cmd.bytes) } } := by
  rw [Mach.medDone_run hrun, Mach.med_setMed, if_pos rfl]

theorem Mach.medDone_only (m : Mach) (e : Nat) (o : MedOut) : m.medDone e o = { m with media := (m.medDone e o).media } := by
  unfold Mach.medDone
  dsimp only
  split <;> rfl

@[simp] theorem Mach.medDone_streams (m : Mach) (e : Nat) (o : MedOut) : (m.medDone e o).streams = m.streams := by rw [Mach.medDone_only]
@[simp] theorem Mach.medDone_hwWait (m : Mach) (e : Nat) (o : MedOut) : (m.medDone e o).hwWait = m.hwWait := by rw [Mach.medDone_only]
@[simp] theorem Mach.medDone_objs (m : Mach) (e : Nat) (o : MedOut) : (m.medDone e o).objs = m.objs := by rw [Mach.medDone_only]

end

/-- The command in hand, `r` in `m`, ends in `m'` with a result record; no queue, job or core changes. -/
def MedEnds (e : Nat) (r : MedRun) (m m' : Mach) (record : List Byte) : Prop :=
  (m'.med e).run = some { r with result := some record } ∧ (m'.med e).queue = (m.med e).queue ∧ m'.jobs = m.jobs ∧ m'.cores = m.cores

theorem MedWorks.ends {e k : Nat} {ws : List (Nat × Nat)} {m m' : Mach} {r : MedRun} (h : MedWorks e k ws m m') (hrun : (m.med e).run = some r)
    (o : MedOut) : MedEnds e r m (m'.medDone e o) (o.record r.cmd.bytes) := by
  have hmed := Mach.med_medDone (h.run.trans hrun) o
  rw [MedEnds, hmed, Mach.medDone_only]
  exact ⟨rfl, h.queue, h.jobs, h.cores⟩

/-! ## Pictures, packet lists and files -/

/-- The engine works on command `b` within `ws` and finishes it; one that the watchdog has ended finishes WATCHDOG, TRUNCATED or NO_OUTPUT
(R356). -/
def MedFinishes (e : Nat) (b : List Byte) (ws : List (Nat × Nat)) (wd : Bool) (m m' : Mach) : Prop :=
  ∃ (x : Mach) (o : MedOut), m' = x.medDone e o ∧ MedWorks e (streamKey e (mcStream b)) ws m x ∧ (wd = true → o.status ∈ [3, 4, 5])

section
variable {e : Nat} {b : List Byte} {ws : List (Nat × Nat)} {wd : Bool} {m m' : Mach}

/-- Work that ends with an output and a map, and a status that the watchdog allows. -/
theorem MedWorks.finishes (h : MedWorks e (streamKey e (mcStream b)) ws m m') (hws : medOutputs b ⊆ ws) (out map : List Byte) (o : MedOut)
    (hwd : wd = true → o.status ∈ [3, 5]) : MedFinishes e b ws wd m (m'.medFinish e b out map o) := by
  obtain ⟨o', heq, hst⟩ := m'.medFinish_eq (e := e) b out map o
  refine ⟨_, o', heq, h.trans (MedWorks.medStored m' b out map hws), fun hw => ?_⟩
  have hw := hwd hw
  simp only [List.mem_cons, List.not_mem_nil, or_false] at hw ⊢
  omega

/-- A picture that the watchdog has ended counts as concealed or not, and is WATCHDOG either way. -/
theorem watchdog_status (c : Bool) : max 3 (b2n c) = 3 := by cases c <;> rfl

theorem vdPicture_finishes (m : Mach) (s : MedStr) (hws : medOutputs b ⊆ ws) (hdpb : openBuf 0 s.block ∈ ws) :
    MedFinishes e b ws wd m (m.vdPicture e b s wd) := by
  unfold Mach.vdPicture
  extract_lets k o input
  split
  next cut m₁ hcut =>
    extract_lets x m₂ c out
    have hstored : MedWorks e k ws m m₂ := by
      have hcutw : MedWorks e k ws m (m.medCut wd).2 := MedWorks.medCut m wd
      rw [hcut] at hcutw
      exact (hcutw.trans (MedWorks.scribble _ hdpb)).trans (MedWorks.modStr _ _)
    split
    · refine (hstored.trans (MedWorks.setObj _ _ (by decide) _)).finishes hws _ _ _ fun hw => ?_
      simp [hw]
    · refine hstored.finishes hws _ _ _ fun hw => ?_
      by_cases hshown : x.shown = true <;> simp [hw, hshown, watchdog_status]

theorem auList_finishes (m : Mach) (s : MedStr) (hws : medOutputs b ⊆ ws) : MedFinishes e b ws wd m (m.auList e b s wd) := by
  unfold Mach.auList
  extract_lets k o input pks
  split
  next cut m₁ hcut =>
    extract_lets +onlyGivenNames gone outs m₂
    have hkept : MedWorks e k ws m m₂ := by
      have hcutw : MedWorks e k ws m (m.medCut wd).2 := MedWorks.medCut m wd
      rw [hcut] at hcutw
      exact hcutw.trans (MedWorks.modStr _ _)
    split
    · refine (hkept.trans (MedWorks.setObj _ _ (by decide) _)).finishes hws _ _ _ fun hw => ?_
      simp +zetaDelta [hw, MedOut.plain]
    · refine hkept.finishes hws _ _ _ fun hw => ?_
      simp [hw, MedOut.plain, watchdog_status]

theorem vePicture_finishes (m : Mach) (s : MedStr) (hws : medOutputs b ⊆ ws) (href : openBuf 1 s.block ∈ ws) :
    MedFinishes e b ws false m (m.vePicture e b s) :=
  ((MedWorks.scribble m href).trans (MedWorks.modStr _ _)).finishes hws _ _ _ nofun

theorem jpegFile_finishes (m : Mach) (hws : medOutputs b ⊆ ws) : MedFinishes e b ws wd m (m.jpegFile e b wd) := by
  unfold Mach.jpegFile
  extract_lets +onlyGivenNames input q x used
  split
  · refine (MedWorks.setObj m _ (by decide) _).finishes hws _ _ _ fun hw => ?_
    simp [hw, MedOut.plain]
  · have hcut : MedWorks e (streamKey e (mcStream b)) ws m (m.medCut wd).2 := MedWorks.medCut m wd
    split
    next cut m₁ heq =>
      rw [heq] at hcut
      refine hcut.finishes hws _ _ _ fun hw => ?_
      simp [hw, MedOut.plain, watchdog_status]

theorem voxelFile_finishes (m : Mach) (hws : medOutputs b ⊆ ws) : MedFinishes e b ws false m (m.voxelFile e b) := by
  unfold Mach.voxelFile
  extract_lets o f
  split
  · exact (MedWorks.setObj m _ (by decide) _).finishes hws _ _ _ nofun
  · exact (MedWorks.refl m).finishes hws _ _ _ nofun

theorem doDecode_finishes {st : MedStr} (hst : m.streams.get? (streamKey e (mcStream b)) = some st) (hws : medOutputs b ⊆ ws)
    (hdpb : openBuf (engClass e) st.block ∈ ws) (p : Nat) : MedFinishes e b ws wd m (doDecode e wd m p b) := by
  simp only [doDecode, hst]
  split
  next h => exact vdPicture_finishes m st hws (h ▸ hdpb)
  · exact auList_finishes m st hws

end

end Sys2Proof.Machine
end

section
/-! SUPPORT. Proofs: the command an engine has in hand, by its MOP: refused, run, or ended by a fault or the watchdog (R345, R350, R351, R356, R357,
R359). -/

namespace Sys2Proof.Machine

/-! ## HW_FAULT (R359) -/

theorem ReportsOnly.lostAny (m : Mach) (cls : Nat) (key : Option Nat) : ReportsOnly m (m.lostAny cls key) := by
  cases key with
  | none => rfl
  | some k => exact ReportsOnly.lostRead m cls k

/-- The module with a command's HW_FAULT entered and its stream closed. -/
def Mach.medAbandoned (m : Mach) (p e : Nat) (b : List Byte) : Mach :=
  let m := { m with hwWait := m.hwWait ++ [(0x14, p, 0xFFFF)] }
  if engClass e = 2 || engClass e = 4 then m else m.medClose (streamKey e (mcStream b))

/-- The module with an engine FAILED. -/
def Mach.engineFails (m : Mach) (e : Nat) : Mach := ((m.setMed e { m.med e with failed := true }).setField (0x5100 + e) 1 2 0 4).health

section
variable (m : Mach) (p e : Nat) (b : List Byte) (engine : Bool)

/-- After HW_FAULT what the command stores is stored, with the engine FAILED by a fault of its own. -/
theorem Mach.medHw_eq : ∃ out o, m.medHw p e b engine =
    (if engine then (m.medAbandoned p e b).engineFails e else m.medAbandoned p e b).medFinish e b out [] o ∧ o.status = 0x14 := by
  unfold Mach.medHw
  dsimp only
  split
  · exact ⟨_, _, rfl, rfl⟩
  · exact ⟨_, _, rfl, rfl⟩

theorem Mach.medAbandoned_only : m.medAbandoned p e b = { m with
    hwWait := m.hwWait ++ [(0x14, p, 0xFFFF)]
    streams := (m.medAbandoned p e b).streams } := by
  unfold Mach.medAbandoned
  dsimp only
  split <;> rfl

theorem Mach.engineFails_hwWait : (m.engineFails e).hwWait = m.hwWait := by
  rw [Mach.engineFails, ReportsOnly.health]
  rfl

theorem Mach.med_engineFails : (m.engineFails e).med e = { m.med e with failed := true } := by
  rw [Mach.engineFails, ReportsOnly.health]
  exact (Mach.med_setMed ..).trans (if_pos rfl)

/-- An engine that has FAILED shows STATE 4 (Table 12-12). -/
theorem Mach.objBit_engineFails : (m.engineFails e).objBit (0x5100 + e) 1 2 = true := by
  rw [Mach.engineFails, Mach.objBit, Mach.obj_health _ (okey_ne_of_sub _ _ (by decide) (by decide) (by decide)), Mach.obj_setField_same]
  simp only [setFld, bit, decide_eq_true_eq, Nat.shiftRight_eq_div_pow, Nat.shiftLeft_eq]
  omega

end

/-- A command that a fault ends finishes HW_FAULT, and the recovery path has work. -/
theorem Mach.medHw_effect {m : Mach} {e : Nat} {r : MedRun} (hrun : (m.med e).run = some r) (p : Nat) (b : List Byte) (engine : Bool) :
    ∃ record, ((m.medHw p e b engine).med e).run = some { r with result := some record } ∧ leAt record 0 1 = 0x14 ∧
      ((m.medHw p e b engine).med e).failed = ((m.med e).failed || engine) ∧ (0x14, p, 0xFFFF) ∈ (m.medHw p e b engine).hwWait ∧
      (engine = true → (m.medHw p e b engine).objBit (0x5100 + e) 1 2 = true) := by
  obtain ⟨out, o, heq, ho⟩ := m.medHw_eq p e b engine
  generalize hfailing : (if engine then (m.medAbandoned p e b).engineFails e else m.medAbandoned p e b) = failing at heq
  have hmed : failing.med e = { m.med e with failed := (m.med e).failed || engine } := by
    subst hfailing
    cases engine with
    | false => rw [if_neg Bool.false_ne_true, Mach.medAbandoned_only, Bool.or_false]; rfl
    | true => rw [if_pos rfl, Mach.med_engineFails, Mach.medAbandoned_only, Bool.or_true]; rfl
  have hwait : failing.hwWait = m.hwWait ++ [(0x14, p, 0xFFFF)] := by
    subst hfailing
    cases engine with
    | false => rw [if_neg Bool.false_ne_true, Mach.medAbandoned_only]
    | true => rw [if_pos rfl, Mach.engineFails_hwWait, Mach.medAbandoned_only]
  obtain ⟨o', hfin, ho'⟩ := failing.medFinish_eq (e := e) b out [] o
  have hstored : (failing.medStored b out []).med e = failing.med e := by rw [Mach.medStored_only]; rfl
  have hwaits : (failing.medStored b out []).hwWait = failing.hwWait := by rw [Mach.medStored_only]
  rw [heq, hfin, Mach.med_medDone (by rw [hstored, hmed]; exact hrun), hstored, hmed, Mach.medDone_hwWait, hwaits, hwait]
  refine ⟨_, rfl, ?_, rfl, by simp, fun hengine => ?_⟩
  · rw [MedOut.leAt_record]
    rcases ho' with h | h
    · rw [h, ho]
    · rw [h, ho]
      rfl
  · rw [Mach.objBit, Mach.obj_eq_of_objs (Mach.medDone_objs ..), Mach.obj_medStored _ _ _ _ (by decide) (by decide), ← hfailing,
      if_pos hengine]
    exact Mach.objBit_engineFails _ e

/-! ## The command in hand -/

/-- The module with an engine at work on a command that no check refuses, its input requested. -/
def Mach.medBegun (m : Mach) (e : Nat) (b : List Byte) : Mach := (m.medWork e b).touch (medReads b)

section
variable (m : Mach) (e : Nat) (b : List Byte)

theorem MedWorks.medBegun {k : Nat} {ws : List (Nat × Nat)} : MedWorks e k ws m (m.medBegun e b) :=
  (MedWorks.medWork m b).trans (MedWorks.touch _ _)

theorem Mach.medWork_only : m.medWork e b = { m with
    media := (m.medWork e b).media
    objs := (m.medWork e b).objs } := by
  unfold Mach.medWork
  dsimp only
  split <;> rfl

theorem Mach.medBegun_only : m.medBegun e b = { m with
    media := (m.medBegun e b).media
    stackRt := (m.medBegun e b).stackRt
    objs := (m.medBegun e b).objs } := by
  unfold Mach.medBegun
  rw [Mach.touch_only, Mach.medWork_only]

@[simp] theorem Mach.medWork_streams : (m.medWork e b).streams = m.streams := by rw [Mach.medWork_only]
@[simp] theorem Mach.medBegun_streams : (m.medBegun e b).streams = m.streams := by rw [Mach.medBegun_only]
@[simp] theorem Mach.medBegun_mem : (m.medBegun e b).mem = m.mem := by rw [Mach.medBegun_only]

theorem Mach.medRefusal_medWork (p : Nat) : (m.medWork e b).medRefusal p e b = m.medRefusal p e b := by
  have hworks : MedWorks e 0 [] m (m.medWork e b) := MedWorks.medWork m b
  exact Mach.medRefusal_congr hworks.failed (hworks.stacks p) (Mach.medWork_mem ..) (Mach.medWork_streams ..)

/-- What an engine reads is bad or not, whether or not it has begun. -/
theorem Mach.medBadRead_medBegun : (m.medBegun e b).medBadRead e b = m.medBadRead e b := by
  rw [Mach.medBegun_only]
  rfl

end

section
variable {m : Mach} {e : Nat} {r : MedRun} {sel : Nat → Bool} {fault : Bool} {f : Mach → Nat → List Byte → Mach}

theorem Mach.medRun_eq_some (hrun : (m.med e).run = some r) (hres : r.result = none) : m.medRun e = some r := by
  simp [Mach.medRun, hrun, hres]

variable (hrun : (m.med e).run = some r) (hres : r.result = none) (hio : m.ioUp (engAgg e - 8) = true) (hsel : sel (mcMop r.cmd.bytes) = true)
include hrun hres hio hsel

theorem doMedia_refused {c : Nat} (h : m.medRefusal r.cmd.part e r.cmd.bytes = some c) :
    doMedia m e sel fault f = (m.medWork e r.cmd.bytes).medDone e (.plain c) := by
  simp [doMedia, Mach.medRun_eq_some hrun hres, hio, hsel, Mach.medRefusal_medWork, h]

theorem doMedia_accepted (h : m.medRefusal r.cmd.part e r.cmd.bytes = none) :
    doMedia m e sel fault f = if fault || (m.medBadRead e r.cmd.bytes).isSome then
      ((m.medBegun e r.cmd.bytes).lostAny 2 (m.medBadRead e r.cmd.bytes)).medHw r.cmd.part e r.cmd.bytes fault
    else f (m.medBegun e r.cmd.bytes) r.cmd.part r.cmd.bytes := by
  rw [← Mach.medBadRead_medBegun]
  simp [doMedia, Mach.medRun_eq_some hrun hres, hio, hsel, Mach.medRefusal_medWork, h, Mach.medBegun]

end

/-! ## The rows of the MOPs (Table 12-4) -/

/-- The row that takes a command of engine `e`, by its MOP: the other MOPs are refused under MEDIA_OPEN. -/
def mediaRow (e mop : Nat) (fault : Bool) : Instr :=
  match mop with
  | 2 => .mediaClose e
  | 3 => .decode e fault
  | 4 => .encode e fault
  | 5 => .jpeg e fault
  | 6 => .voxel e fault
  | _ => .mediaOpen e

/-- Its effect on a command that no check refuses. -/
def mediaEffect (e mop : Nat) : Mach → Nat → List Byte → Mach :=
  match mop with
  | 2 => doClose e
  | 3 => doDecode e false
  | 4 => doEncode e
  | 5 => fun m _ b => m.jpegFile e b false
  | 6 => fun m _ b => m.voxelFile e b
  | _ => doOpen e

/-- The MOPs it takes. -/
def mediaSel (mop : Nat) : Nat → Bool :=
  match mop with
  | 2 => (· = 2)
  | 3 => (· = 3)
  | 4 => (· = 4)
  | 5 => (· = 5)
  | 6 => (· = 6)
  | _ => fun x => x = 1 || x = 0 || x > 6

/-- Streams open and close without an engine fault. -/
def mediaFault (mop : Nat) (fault : Bool) : Bool :=
  match mop with
  | 3 => fault
  | 4 => fault
  | 5 => fault
  | 6 => fault
  | _ => false

theorem mediaSel_self (mop : Nat) : mediaSel mop mop = true := by
  match mop with
  | 0 | 1 | 2 | 3 | 4 | 5 | 6 => rfl
  | n + 7 => simp [mediaSel]

theorem exec_mediaRow (s : State) (e mop : Nat) (fault : Bool) : exec (mediaRow e mop fault) s =
    s.step (fun m => doMedia m e (mediaSel mop) (mediaFault mop fault) (mediaEffect e mop)) := by
  match mop with
  | 0 | 1 | 2 | 3 | 4 | 5 | 6 => rfl
  | n + 7 => rfl

theorem gives_mediaRow {s : State} (hphase : s.mach.phase = .running) (e mop : Nat) (fault : Bool) :
    Gives (mediaRow e mop fault) s (doMedia s.mach e (mediaSel mop) (mediaFault mop fault) (mediaEffect e mop)) :=
  gives_step _ s _ (exec_mediaRow s e mop fault) hphase

section
variable {s : State} {e : Nat} {r : MedRun} (hphase : s.mach.phase = .running) (hrun : (s.mach.med e).run = some r) (hres : r.result = none)
  (hio : s.mach.ioUp (engAgg e - 8) = true)
include hphase hrun hres hio

/-- A refused command ends with its status, and no byte and no stream changes (R345). -/
theorem mediaRow_refused {c : Nat} (h : s.mach.medRefusal r.cmd.part e r.cmd.bytes = some c) (fault : Bool) :
    ∃ m, Gives (mediaRow e (mcMop r.cmd.bytes) fault) s m ∧ MedEnds e r s.mach m ((MedOut.plain c).record r.cmd.bytes) ∧
      m.streams = s.mach.streams ∧ m.mem = s.mach.mem := by
  have hg := gives_mediaRow hphase e (mcMop r.cmd.bytes) fault
  rw [doMedia_refused hrun hres hio (mediaSel_self _) h] at hg
  have hworks : MedWorks e 0 [] s.mach (s.mach.medWork e r.cmd.bytes) := MedWorks.medWork _ _
  exact ⟨_, hg, hworks.ends hrun _, by simp, by simp⟩

variable (haccepted : s.mach.medRefusal r.cmd.part e r.cmd.bytes = none)
include haccepted

/-- An accepted command with good input has its row's effect. -/
theorem mediaRow_runs (hgood : s.mach.medBadRead e r.cmd.bytes = none) : Gives (mediaRow e (mcMop r.cmd.bytes) false) s
    (mediaEffect e (mcMop r.cmd.bytes) (s.mach.medBegun e r.cmd.bytes) r.cmd.part r.cmd.bytes) := by
  have hg := gives_mediaRow hphase e (mcMop r.cmd.bytes) false
  have hfault : mediaFault (mcMop r.cmd.bytes) false = false := by
    unfold mediaFault
    split <;> rfl
  rwa [hfault, doMedia_accepted hrun hres hio (mediaSel_self _) haccepted, hgood] at hg

/-- An engine fault, or an uncorrectable half in what is read, ends the command HW_FAULT; only the former fails the engine (R359). -/
theorem mediaRow_faults {fault : Bool} (hlo : 3 ≤ mcMop r.cmd.bytes) (hhi : mcMop r.cmd.bytes ≤ 6)
    (hbad : fault = true ∨ (s.mach.medBadRead e r.cmd.bytes).isSome = true) :
    ∃ m record, Gives (mediaRow e (mcMop r.cmd.bytes) fault) s m ∧ (m.med e).run = some { r with result := some record } ∧
      leAt record 0 1 = 0x14 ∧ (m.med e).failed = fault ∧ (0x14, r.cmd.part, 0xFFFF) ∈ m.hwWait ∧
      (fault = true → m.objBit (0x5100 + e) 1 2 = true) := by
  have hg := gives_mediaRow hphase e (mcMop r.cmd.bytes) fault
  have hfault : mediaFault (mcMop r.cmd.bytes) fault = fault := by
    obtain h | h | h | h : mcMop r.cmd.bytes = 3 ∨ mcMop r.cmd.bytes = 4 ∨ mcMop r.cmd.bytes = 5 ∨ mcMop r.cmd.bytes = 6 := by omega
    all_goals rw [h]; rfl
  rw [hfault, doMedia_accepted hrun hres hio (mediaSel_self _) haccepted, if_pos (by simpa using hbad)] at hg
  generalize hlost : (s.mach.medBegun e r.cmd.bytes).lostAny 2 (s.mach.medBadRead e r.cmd.bytes) = lost at hg
  have hbegun : MedWorks e 0 [] s.mach (s.mach.medBegun e r.cmd.bytes) := MedWorks.medBegun _ _ _
  have hmed : lost.med e = (s.mach.medBegun e r.cmd.bytes).med e := by rw [← hlost, ReportsOnly.lostAny]; rfl
  obtain ⟨hfailed, -⟩ := Mach.medRefusal_eq_none_iff.mp haccepted
  obtain ⟨record, hrun', hst, hfail, hwait, hbit⟩ :=
    Mach.medHw_effect (m := lost) (by rw [hmed]; exact hbegun.run.trans hrun) r.cmd.part r.cmd.bytes fault
  refine ⟨_, record, hg, hrun', hst, ?_, hwait, hbit⟩
  rw [hfail, hmed, hbegun.failed, hfailed, Bool.false_or]

end

/-! ## What the rows do -/

section
variable {m : Mach} {p e : Nat} {b : List Byte}

/-- The frame store of a command's stream, where it has one. -/
def Mach.medStore (m : Mach) (e : Nat) (b : List Byte) : Nat × Nat :=
  match m.streams.get? (streamKey e (mcStream b)) with
  | some t => openBuf (engClass e) t.block
  | none => (0, 0)

theorem Mach.medStore_of_stream {st : MedStr} (h : m.streams.get? (streamKey e (mcStream b)) = some st) :
    m.medStore e b = openBuf (engClass e) st.block := by simp only [Mach.medStore, h]

theorem medOutputs_subset (b : List Byte) (store : Nat × Nat) : medOutputs b ⊆ medOutputs b ++ [store] := List.subset_append_left ..

/-- DECODE, ENCODE, JPEG and VOXEL finish their command, and store into its output, its map and the frame store of its stream. -/
theorem mediaEffect_finishes (haccepted : m.medRefusal p e b = none) (hlo : 3 ≤ mcMop b) (hhi : mcMop b ≤ 6) (q : Nat) :
    MedFinishes e b (medOutputs b ++ [m.medStore e b]) false (m.medBegun e b) (mediaEffect e (mcMop b) (m.medBegun e b) q b) := by
  have hfits := Mach.mopFits_of_accepted haccepted
  have hws := medOutputs_subset b (m.medStore e b)
  have hstream : mcMop b ≠ 1 → engClass e ≠ 2 → engClass e ≠ 4 →
      ∃ st, (m.medBegun e b).streams.get? (streamKey e (mcStream b)) = some st ∧ openBuf (engClass e) st.block ∈ medOutputs b ++ [m.medStore e b] :=
    fun h1 h2 h4 => by
    obtain ⟨st, hst⟩ := Mach.stream_of_accepted haccepted h1 h2 h4
    exact ⟨st, by rwa [Mach.medBegun_streams], by simp [Mach.medStore_of_stream hst]⟩
  obtain h | h | h | h : mcMop b = 3 ∨ mcMop b = 4 ∨ mcMop b = 5 ∨ mcMop b = 6 := by omega
  · simp only [h, mopFits, Bool.or_eq_true, decide_eq_true_eq] at hfits
    obtain ⟨st, hst, hin⟩ := hstream (by omega) (by omega) (by omega)
    simp only [h, mediaEffect]
    exact doDecode_finishes hst hws hin q
  · simp only [h, mopFits, decide_eq_true_eq] at hfits
    obtain ⟨st, hst, hin⟩ := hstream (by omega) (by omega) (by omega)
    rw [hfits] at hin
    simp only [h, mediaEffect, doEncode, hst]
    exact vePicture_finishes _ st hws hin
  · simp only [h, mediaEffect]
    exact jpegFile_finishes _ hws
  · simp only [h, mediaEffect]
    exact voxelFile_finishes _ hws

end

section
variable {e : Nat} {r : MedRun} {m m' : Mach} {ws : List (Nat × Nat)} {wd : Bool}

/-- An engine that has begun a command and finishes it ends it, and stores within its regions. -/
theorem MedFinishes.ends {b : List Byte} (h : MedFinishes e b ws wd (m.medBegun e b) m') (hrun : (m.med e).run = some r) (hb : r.cmd.bytes = b) :
    ∃ o : MedOut, MedEnds e r m m' (o.record b) ∧ (∀ j, j ≠ streamKey e (mcStream b) → m'.streams.get? j = m.streams.get? j) ∧
      (Memory.wf m → SameOutside ws m m') := by
  obtain ⟨x, o, rfl, hworks, -⟩ := h
  have hall := (MedWorks.medBegun m e b).trans hworks
  subst hb
  refine ⟨o, hall.ends hrun o, fun j hj => ?_, fun hm => ?_⟩
  · rw [Mach.medDone_streams]
    exact hall.streams j hj
  · exact SameOutside.trans (hall.bytes hm).2 (SameOutside.of_mem _ (Mach.medDone_mem ..))

end

/-! ## MEDIA_WATCHDOG (R356) -/

/-- Only JPEG files and the DECODE of video and audio have a limit. -/
theorem Mach.medLimit_cases {m : Mach} {e n : Nat} {b : List Byte} (h : m.medLimit e b = some n) :
    mcMop b = 5 ∨ mcMop b = 3 ∧ (engClass e = 3 ∨ engClass e = 0) := by
  simp only [Mach.medLimit, Bool.and_eq_true, decide_eq_true_eq] at h
  split at h
  next hjpeg => exact .inl hjpeg.1
  next =>
    split at h
    next haudio => exact .inr ⟨haudio.1, .inl haudio.2⟩
    next =>
      split at h
      next hvideo => exact .inr ⟨hvideo.1, .inr hvideo.2⟩
      next => cases h

/-- The module with a picture of an engine past its limit, and counted. -/
def Mach.medExpired (m : Mach) (e : Nat) (b : List Byte) : Mach := ((m.touch (medReads b)).medWork e b).addObj32 (0x5100 + e) 4 1

theorem Mach.medExpired_streams (m : Mach) (e : Nat) (b : List Byte) : (m.medExpired e b).streams = m.streams := by
  simp only [Mach.medExpired, Mach.addObj32, Mach.setObj_streams, Mach.medWork_streams]
  rw [Mach.touch_only]

/-- An engine's picture that is past its limit is still in hand, and counted in 5100h + e.04. -/
theorem Mach.medExpired_effect (m : Mach) (e : Nat) (b : List Byte) : ((m.medExpired e b).med e).run = (m.med e).run ∧
    ((m.medExpired e b).med e).queue = (m.med e).queue ∧ (m.medExpired e b).jobs = m.jobs ∧ (m.medExpired e b).cores = m.cores ∧
    (m.medExpired e b).obj (0x5100 + e) 4 = min (m.obj (0x5100 + e) 4 + 1) (2 ^ 32 - 1) := by
  have hworks : MedWorks e 0 [] m ((m.touch (medReads b)).medWork e b) := (MedWorks.touch _ _).trans (MedWorks.medWork _ _)
  unfold Mach.medExpired
  generalize (m.touch (medReads b)).medWork e b = begun at *
  have hmed : (begun.addObj32 (0x5100 + e) 4 1).med e = begun.med e := by simp only [Mach.med, Mach.addObj32, Mach.setObj_media]
  rw [hmed, Mach.addObj32, Mach.setObj_jobs, Mach.setObj_cores, Mach.obj_setObj_same, hworks.objs _ 4 (by decide) (by decide)]
  exact ⟨hworks.run, hworks.queue, hworks.jobs, hworks.cores, rfl⟩

section
variable {m : Mach} {e n : Nat} {r : MedRun} (hrun : (m.med e).run = some r) (hres : r.result = none)
  (hlimit : m.medLimit e r.cmd.bytes = some n)
include hrun hres hlimit

theorem doWatchdog_early (h : m.rc < r.t0 + n) : doWatchdog m e = m := by
  simp [doWatchdog, Mach.medRun_eq_some hrun hres, hlimit, h]

variable (hio : m.ioUp (engAgg e - 8) = true) (haccepted : m.medRefusal r.cmd.part e r.cmd.bytes = none)
  (hgood : m.medBadRead e r.cmd.bytes = none) (hdue : r.t0 + n ≤ m.rc)
include hio haccepted hgood hdue

theorem doWatchdog_due : doWatchdog m e = if mcMop r.cmd.bytes = 5 then (m.medExpired e r.cmd.bytes).jpegFile e r.cmd.bytes true
    else doDecode e true (m.medExpired e r.cmd.bytes) r.cmd.part r.cmd.bytes := by
  simp [doWatchdog, Mach.medRun_eq_some hrun hres, hlimit, haccepted, Nat.not_lt.mpr hdue, hio, hgood, Mach.medExpired]

/-- A picture past its limit finishes within its regions. -/
theorem doWatchdog_finishes : MedFinishes e r.cmd.bytes (medOutputs r.cmd.bytes ++ [m.medStore e r.cmd.bytes]) true (m.medExpired e r.cmd.bytes)
    (doWatchdog m e) := by
  have hws := medOutputs_subset r.cmd.bytes (m.medStore e r.cmd.bytes)
  rw [doWatchdog_due hrun hres hlimit hio haccepted hgood hdue]
  by_cases h5 : mcMop r.cmd.bytes = 5
  · rw [if_pos h5]
    exact jpegFile_finishes _ hws
  · rw [if_neg h5]
    obtain ⟨hmop, hcls⟩ := (Mach.medLimit_cases hlimit).resolve_left h5
    obtain ⟨st, hst⟩ := Mach.stream_of_accepted haccepted (by omega) (by omega) (by omega)
    exact doDecode_finishes (by rw [Mach.medExpired_streams, hst]) hws (by simp [Mach.medStore_of_stream hst]) _

end

end Sys2Proof.Machine
end

section
/-! SUPPORT. Proofs: the scheduler of a media engine, finished commands, and the statement about the engines as a whole (R345, R346, R350, R351,
R356, R357, R359). -/

namespace Sys2Proof.Machine

/-! ## MEDIA_SCHEDULE (R346) -/

/-- The priority of a command in an engine's queue. -/
def MedEng.pri (x : MedEng) (i : Nat) : Nat :=
  match x.queue[i]? with
  | some c => mcPri c.bytes
  | none => 0

/-- The places of the commands that may run. -/
def Mach.medReady (m : Mach) (e : Nat) : List Nat := (List.range (m.med e).queue.length).filter (m.medFree e (m.med e).queue)

theorem Mach.medPick_eq (m : Mach) (e : Nat) : m.medPick e =
    if !((m.medReady e).filter (fun i => (m.med e).pri i = 0)).isEmpty && decide ((m.med e).batchRc m.rc * 100 < m.obj 0x5000 3 * 2500000) then
      ((m.medReady e).filter (fun i => (m.med e).pri i = 0)).head?
    else (m.medReady e).find? (fun i => (m.med e).pri i = (m.medReady e).foldl (fun a i => max a ((m.med e).pri i)) 0) := rfl

/-- A fold of maxima is at least each of its terms. -/
theorem le_foldl_max (f : Nat → Nat) (l : List Nat) (a : Nat) :
    a ≤ l.foldl (fun a i => max a (f i)) a ∧ ∀ i ∈ l, f i ≤ l.foldl (fun a i => max a (f i)) a := by
  induction l generalizing a with
  | nil => exact ⟨le_refl a, nofun⟩
  | cons j t ih =>
    obtain ⟨hstart, hall⟩ := ih (max a (f j))
    refine ⟨(Nat.le_max_left ..).trans hstart, fun i hi => ?_⟩
    rcases List.mem_cons.mp hi with rfl | hi
    · exact (Nat.le_max_right ..).trans hstart
    · exact hall i hi

section
variable {m : Mach} {e i : Nat}

theorem Mach.mem_medReady {j : Nat} : j ∈ m.medReady e ↔ j < (m.med e).queue.length ∧ m.medFree e (m.med e).queue j = true := by
  simp [Mach.medReady]

/-- The scheduler picks a command that may run. -/
theorem Mach.medFree_of_pick (h : m.medPick e = some i) : m.medFree e (m.med e).queue i = true := by
  rw [Mach.medPick_eq] at h
  have hready : i ∈ m.medReady e := by
    split at h
    · exact (List.mem_filter.mp (List.mem_of_mem_head? h)).1
    · exact List.mem_of_find?_eq_some h
  exact (Mach.mem_medReady.mp hready).2

/-- Unless a batch command is owed its share, none that may run has a higher priority. -/
theorem Mach.pri_le_of_pick (h : m.medPick e = some i) (hshare : m.obj 0x5000 3 * 2500000 ≤ (m.med e).batchRc m.rc * 100) {j : Nat}
    (hj : j < (m.med e).queue.length) (hfree : m.medFree e (m.med e).queue j = true) : (m.med e).pri j ≤ (m.med e).pri i := by
  rw [Mach.medPick_eq, if_neg (by simp [Nat.not_lt.mpr hshare])] at h
  have htop := List.find?_some h
  rw [of_decide_eq_true htop]
  exact (le_foldl_max (m.med e).pri _ 0).2 j (Mach.mem_medReady.mpr ⟨hj, hfree⟩)

/-- The module with command `c` at place `i` of an engine's queue in hand, and the engine's island awake (R360). -/
def Mach.medTaken (m : Mach) (e i : Nat) (c : MedCmd) : Mach :=
  let x := m.med e
  let m' := m.setMed e { x with queue := x.queue.eraseIdx i, run := some { cmd := c, t0 := m.rc, result := none } }
  m'.setIsland (164 + e) { (m'.island (164 + e)).ungate m.rc with gst := 0 }

theorem Mach.medTaken_effect (m : Mach) (e i : Nat) (c : MedCmd) :
    ((m.medTaken e i c).med e).queue = (m.med e).queue.eraseIdx i ∧ ((m.medTaken e i c).med e).run = some ⟨c, m.rc, none⟩ ∧
    ((m.medTaken e i c).island (164 + e)).gst = 0 ∧ ((m.medTaken e i c).island (164 + e)).gated = false ∧
    (∀ d, d ≠ e → (m.medTaken e i c).med d = m.med d) := by
  have hmed : ∀ d, (m.medTaken e i c).med d =
      if e = d then { m.med e with queue := (m.med e).queue.eraseIdx i, run := some ⟨c, m.rc, none⟩ } else m.med d :=
    fun d => Mach.med_setMed m e d _
  rw [hmed, if_pos rfl]
  refine ⟨rfl, rfl, ?_, ?_, fun d hd => by rw [hmed, if_neg hd.symm]⟩
  · rw [Mach.medTaken, Mach.island_setIsland, if_pos rfl]
  · rw [Mach.medTaken, Mach.island_setIsland, if_pos rfl]
    unfold Island.ungate
    split
    · rfl
    next h => exact Bool.eq_false_iff.mpr h

theorem doMedSchedule_busy (h : (m.med e).run ≠ none) : doMedSchedule m e = m := by
  simp [doMedSchedule, Option.isSome_iff_ne_none.mpr h]

/-- The engine takes the command and loads its stream's context, or works on it at once. -/
theorem doMedSchedule_takes {c : MedCmd} (he : e < 10) (hidle : (m.med e).run = none) (hio : m.ioUp (engAgg e - 8) = true)
    (hpick : m.medPick e = some i) (hc : (m.med e).queue[i]? = some c) :
    MedWorks e 0 [] (m.medTaken e i c) (doMedSchedule m e) := by
  have htakes : ∃ load : Bool, doMedSchedule m e =
      if load then (m.medTaken e i c).setField (0x5100 + e) 1 2 0 3 else (m.medTaken e i c).medWork e c.bytes := by
    simp only [doMedSchedule, hidle, hio, hpick, hc, Option.isSome_none, ge_iff_le, Nat.not_le.mpr he, decide_false, Bool.not_true, Bool.or_false,
      Bool.false_eq_true, if_false]
    exact ⟨_, rfl⟩
  obtain ⟨load, heq⟩ := htakes
  rw [heq]
  split
  · exact MedWorks.setObj _ _ (by decide) _
  · exact MedWorks.medWork _ _

end

/-! ## MEDIA_COMPLETE (R359) -/

/-- What the end of a command may change beside its record: the engine, counts, jobs and their partitions, and the messages to markers. -/
def MedCounts (m m' : Mach) : Prop := m' = { m with
  ports := m'.ports
  objs := m'.objs
  jobs := m'.jobs
  parts := m'.parts
  media := m'.media }

theorem MedCounts.trans {a b c : Mach} (h : MedCounts a b) (h' : MedCounts b c) : MedCounts a c := by
  unfold MedCounts at h h' ⊢
  rw [h] at h'
  exact h'

theorem MedCounts.addObj (m : Mach) (i a n : Nat) : MedCounts m (m.addObj i a n) := rfl

/-- The module with a command counted to its job: its jobs and their partitions change. -/
theorem Mach.jobCommandDone_only (m : Mach) (client seq status : Nat) : m.jobCommandDone client seq status = { m with
    jobs := (m.jobCommandDone client seq status).jobs
    parts := (m.jobCommandDone client seq status).parts } := by
  unfold Mach.jobCommandDone
  split
  · rfl
  · dsimp only
    split
    · rfl
    · split
      · rfl
      · split <;> rfl
      · rfl

theorem MedCounts.jobCommandDone (m : Mach) (client seq status : Nat) : MedCounts m (m.jobCommandDone client seq status) := by
  rw [MedCounts, Mach.jobCommandDone_only]

/-- The module with the record of a command stored at RBASE, where its partition holds the place. -/
def Mach.medRecorded (m : Mach) (c : MedCmd) (record : List Byte) : Mach :=
  if m.holds c.part (mcRbase c.bytes) 64 then m.put (mcRbase c.bytes) (putAt record 40 (leBytes 8 m.rc)) else m

/-- The module with the marker of a command signalled, where its partition has it. -/
def Mach.medSignalled (m : Mach) (e : Nat) (c : MedCmd) : Mach :=
  if mcMk c.bytes = 0xFFFF || mcMk c.bytes ≥ 512 * (m.clusters c.part).length then m else m.signal (engAgg e) (m.absMk c.part (mcMk c.bytes)) 1

section
variable (m : Mach) (e : Nat) (c : MedCmd) (record : List Byte)

theorem Mach.medReport_eq : m.medReport e c record = ((((m.medRecorded c record).medSignalled e c).addObj (0x5100 + e) 2 1).addObj (0x5100 + e) 3
    (b2n (leAt record 0 1 = 1 || leAt record 0 1 = 3))).jobCommandDone c.client c.seq (leAt record 0 1) := rfl

theorem Mach.medSignalled_only : m.medSignalled e c = { m with ports := (m.medSignalled e c).ports } := by
  unfold Mach.medSignalled
  split <;> rfl

/-- Only the states of stacks change among the objects. -/
theorem Mach.obj_medRecorded (a : Nat) : (m.medRecorded c record).obj (0x5100 + e) a = m.obj (0x5100 + e) a := by
  have htouch : ∀ rs, (m.touch rs).obj (0x5100 + e) a = m.obj (0x5100 + e) a := fun rs => by
    refine SameObjs.touch m rs _ _ fun hk => ?_
    obtain ⟨s, hs, hkey⟩ := List.mem_map.mp hk
    have hlt := List.mem_range.mp hs
    simp only [okey] at hkey
    omega
  unfold Mach.medRecorded Mach.put
  split
  · rw [Mach.obj_eq_of_objs (Mach.wr_objs ..), htouch]
  · rfl

theorem Mach.medRecorded_works : MedWorks e 0 [(mcRbase c.bytes, (putAt record 40 (leBytes 8 m.rc)).length)] m (m.medRecorded c record) := by
  unfold Mach.medRecorded
  split
  · exact MedWorks.put m (List.mem_singleton.mpr rfl) (le_refl _)
  · exact MedWorks.refl m

/-- Once the record is stored, the command is signalled and counted, and may end its job. -/
theorem MedCounts.medReport : MedCounts (m.medRecorded c record) (m.medReport e c record) := by
  have hsignal : MedCounts (m.medRecorded c record) ((m.medRecorded c record).medSignalled e c) := by
    rw [MedCounts, Mach.medSignalled_only]
  rw [Mach.medReport_eq]
  exact MedCounts.trans (MedCounts.trans (MedCounts.trans hsignal (MedCounts.addObj ..)) (MedCounts.addObj ..)) (MedCounts.jobCommandDone ..)

/-- The report leaves the engine as it is. -/
theorem Mach.medReport_media : (m.medReport e c record).media = (m.medRecorded c record).media := by
  have hjob : ∀ x : Mach, (x.jobCommandDone c.client c.seq (leAt record 0 1)).media = x.media := fun x => by rw [Mach.jobCommandDone_only]
  rw [Mach.medReport_eq, hjob]
  simp only [Mach.addObj, Mach.setObj_media]
  rw [Mach.medSignalled_only]

theorem Mach.obj_medReport_count : (m.medReport e c record).obj (0x5100 + e) 2 = min (m.obj (0x5100 + e) 2 + 1) (2 ^ 64 - 1) := by
  have hsignal : ((m.medRecorded c record).medSignalled e c).objs = (m.medRecorded c record).objs := by rw [Mach.medSignalled_only]
  have hjob : ∀ x : Mach, (x.jobCommandDone c.client c.seq (leAt record 0 1)).objs = x.objs := fun x => by rw [Mach.jobCommandDone_only]
  rw [Mach.medReport_eq, Mach.obj_eq_of_objs (hjob _), Mach.obj_addObj_sub _ (by decide) (by decide) (by decide), Mach.obj_addObj_same,
    Mach.obj_eq_of_objs hsignal, Mach.obj_medRecorded]

end

/-- An engine whose command is finished is idle, and remembers when it worked (R346). -/
def Mach.medStopped (m : Mach) (e : Nat) (r : MedRun) : Mach :=
  let x := m.med e
  m.setMed e { x with
    run := none
    spans := x.spans.filter (fun s => m.rc ≤ s.2.1 + 2500000) ++ [(r.t0, m.rc, decide (mcPri r.cmd.bytes = 0))] }

/-- It shows its STATE, unless it has FAILED. -/
def Mach.medIdle (m : Mach) (e : Nat) (r : MedRun) : Mach :=
  if (m.med e).failed then m.medStopped e r else (m.medStopped e r).setField (0x5100 + e) 1 2 0 0

/-- The module with an engine at a picture boundary and its finished command counted; the record is yet to be written. -/
def Mach.medBoundary (m : Mach) (e : Nat) (r : MedRun) (record : List Byte) : Mach :=
  (((m.medIdle e r).addObj (0x5100 + e) 5 (leAt record 20 4)).addObj (0x5100 + e) 7 (((m.medIdle e r).rc - r.t0) / 25)).addObj (0x5100 + e) 8
    (workDone e record)

section
variable {m : Mach} {e : Nat} {r : MedRun} {record : List Byte}

theorem doMedComplete_unfinished (hrun : (m.med e).run = some r) (h : r.result = none) : doMedComplete m e = m := by
  simp only [doMedComplete, hrun, h]

theorem doMedComplete_finished (hrun : (m.med e).run = some r) (h : r.result = some record) :
    doMedComplete m e = (m.medBoundary e r record).medReport e r.cmd record := by
  simp only [doMedComplete, hrun, h, Mach.medBoundary, Mach.medIdle, Mach.medStopped]

variable (m e r record)

theorem MedCounts.medIdle : MedCounts m (m.medIdle e r) := by
  unfold Mach.medIdle
  split <;> rfl

theorem MedCounts.medBoundary : MedCounts m (m.medBoundary e r record) :=
  MedCounts.trans (MedCounts.trans (MedCounts.trans (MedCounts.medIdle m e r) (MedCounts.addObj ..)) (MedCounts.addObj ..)) (MedCounts.addObj ..)

theorem Mach.medBoundary_media : (m.medBoundary e r record).media = (m.medStopped e r).media := by
  simp only [Mach.medBoundary, Mach.addObj, Mach.setObj_media]
  unfold Mach.medIdle
  split <;> rfl

theorem Mach.med_medBoundary :
    ((m.medBoundary e r record).med e).run = none ∧ ((m.medBoundary e r record).med e).queue = (m.med e).queue := by
  have hmed : (m.medBoundary e r record).med e = (m.medStopped e r).med e := by simp only [Mach.med, Mach.medBoundary_media]
  rw [hmed, Mach.medStopped, Mach.med_setMed, if_pos rfl]
  exact ⟨rfl, rfl⟩

/-- The counts of a finished command lie at sub-indexes 5, 7 and 8, and the status at 1. -/
theorem Mach.obj_medBoundary {a : Nat} (ha : a < 256) (h : a ∉ [1, 5, 7, 8]) (i : Nat) : (m.medBoundary e r record).obj i a = m.obj i a := by
  simp only [List.mem_cons, List.not_mem_nil, or_false, not_or] at h
  obtain ⟨h1, h5, h7, h8⟩ := h
  rw [Mach.medBoundary, Mach.obj_addObj_sub _ (by decide) ha (Ne.symm h8), Mach.obj_addObj_sub _ (by decide) ha (Ne.symm h7),
    Mach.obj_addObj_sub _ (by decide) ha (Ne.symm h5)]
  unfold Mach.medIdle
  split
  · rfl
  · exact Mach.obj_setField_other _ (okey_ne_of_sub _ _ (by decide) ha (Ne.symm h1)) ..

end

section
variable {s : State} {e : Nat} {r : MedRun} {record : List Byte}

/-- The record of a finished command becomes visible at RBASE where its partition holds the place, and the engine is idle. -/
theorem mediaComplete_finished (hphase : s.mach.phase = .running) (hrun : (s.mach.med e).run = some r) (hres : r.result = some record) :
    ∃ m, Gives (.mediaComplete e) s m ∧ (m.med e).run = none ∧ (m.med e).queue = (s.mach.med e).queue ∧
      m.obj (0x5100 + e) 2 = min (s.mach.obj (0x5100 + e) 2 + 1) (2 ^ 64 - 1) ∧ m.streams = s.mach.streams ∧ m.cores = s.mach.cores ∧
      (s.mach.holds r.cmd.part (mcRbase r.cmd.bytes) 64 = true →
        Stores [(mcRbase r.cmd.bytes, putAt record 40 (leBytes 8 s.mach.rc))] s.mach m) ∧
      (s.mach.holds r.cmd.part (mcRbase r.cmd.bytes) 64 = false → m.mem = s.mach.mem) := by
  have hg : Gives (.mediaComplete e) s (doMedComplete s.mach e) := gives_step _ s (fun m => doMedComplete m e) rfl hphase
  rw [doMedComplete_finished hrun hres] at hg
  have hcounts := MedCounts.medBoundary s.mach e r record
  obtain ⟨hidle, hqueue⟩ := s.mach.med_medBoundary e r record
  have hcount := s.mach.obj_medBoundary e r record (a := 2) (by decide) (by decide) (0x5100 + e)
  have hholds : ∀ a n, (s.mach.medBoundary e r record).holds r.cmd.part a n = s.mach.holds r.cmd.part a n :=
    Mach.holds_congr (Mach.stacks_of_obj (s.mach.obj_medBoundary e r record (by decide) (by decide) _))
  generalize s.mach.medBoundary e r record = idle at *
  have hmem : idle.mem = s.mach.mem := by rw [hcounts]
  have hrc : idle.rc = s.mach.rc := by rw [hcounts]
  have hrec := idle.medRecorded_works e r.cmd record
  have hreport := MedCounts.medReport idle e r.cmd record
  have hstored : (idle.medReport e r.cmd record).mem = (idle.medRecorded r.cmd record).mem := by rw [hreport]
  have hmed : (idle.medReport e r.cmd record).med e = (idle.medRecorded r.cmd record).med e := by simp only [Mach.med, Mach.medReport_media]
  refine ⟨_, hg, ?_, ?_, ?_, ?_, ?_, fun hin => ?_, fun hout => ?_⟩
  · rw [hmed, hrec.run, hidle]
  · rw [hmed, hrec.queue, hqueue]
  · rw [Mach.obj_medReport_count, hcount]
  · have hstreams : (idle.medRecorded r.cmd record).streams = idle.streams := by
      unfold Mach.medRecorded Mach.put
      split
      · rw [Mach.touch_only]
        rfl
      · rfl
    rw [hreport, hstreams, hcounts]
  · rw [hreport, hrec.cores, hcounts]
  · refine Stores.of_mem ?_
    rw [hstored, Mach.medRecorded, if_pos (by rw [hholds, hin]), hrc, Mach.put_mem]
    simp only [Mach.wr_mem, Mach.wrAll, List.foldl_cons, List.foldl_nil, hmem]
  · rw [hstored, Mach.medRecorded, if_neg (by rw [hholds, hout]; exact Bool.false_ne_true), hmem]

end

/-! ## Streams that open and close (R345, R351) -/

/-- The stream that an OPEN enters. -/
def Mach.newStream (m : Mach) (e p : Nat) (b : List Byte) : MedStr :=
  { part := p, block := m.rd (mcSrc b) 64, hist := [], budget := if engClass e = 1 then veB0 (m.rd (mcSrc b) 64) else 0, pics := [], rasl := false,
    count := 0 }

/-- The module with that stream open. -/
def Mach.medOpened (m : Mach) (e p : Nat) (b : List Byte) : Mach :=
  { m with streams := m.streams.put (streamKey e (mcStream b)) (m.newStream e p b) }

section
variable (m : Mach) (e p : Nat) (b : List Byte)

theorem doOpen_eq : doOpen e m p b = (m.medOpened e p b).medDone e { MedOut.plain 0 with bytesIn := 64 } := rfl

theorem Mach.medOpened_mem : (m.medOpened e p b).mem = m.mem := rfl

theorem MedWorks.medOpened {ws : List (Nat × Nat)} : MedWorks e (streamKey e (mcStream b)) ws m (m.medOpened e p b) :=
  MedWorks.of_streams rfl fun _ hj => AMap.get?_put_other hj.symm _ _

theorem MedWorks.medClose {e : Nat} {ws : List (Nat × Nat)} (m : Mach) (k : Nat) : MedWorks e k ws m (m.medClose k) :=
  MedWorks.of_streams rfl fun _ hj => AMap.get?_del_other hj.symm _

end

/-! ## The rows of the statement -/

section
variable {s : State} {e : Nat} (hphase : s.mach.phase = .running)
include hphase

theorem gives_mediaSchedule : Gives (.mediaSchedule e) s (doMedSchedule s.mach e) := gives_step _ s (fun m => doMedSchedule m e) rfl hphase

theorem gives_mediaComplete : Gives (.mediaComplete e) s (doMedComplete s.mach e) := gives_step _ s (fun m => doMedComplete m e) rfl hphase

theorem gives_mediaWatchdog : Gives (.mediaWatchdog e) s (doWatchdog s.mach e) := gives_step _ s (fun m => doWatchdog m e) rfl hphase

theorem mediaSchedule_takes {i : Nat} {c : MedCmd} (he : e < 10) (hidle : (s.mach.med e).run = none) (hio : s.mach.ioUp (engAgg e - 8) = true)
    (hpick : s.mach.medPick e = some i) (hc : (s.mach.med e).queue[i]? = some c) :
    ∃ m, Gives (.mediaSchedule e) s m ∧ (m.med e).queue = (s.mach.med e).queue.eraseIdx i ∧ (m.med e).run = some ⟨c, s.mach.rc, none⟩ ∧
      (m.island (164 + e)).gst = 0 ∧ (m.island (164 + e)).gated = false ∧ (∀ d, d ≠ e → m.med d = s.mach.med d) ∧ m.mem = s.mach.mem ∧
      m.jobs = s.mach.jobs := by
  have hworks := doMedSchedule_takes he hidle hio hpick hc
  obtain ⟨hqueue, hrun, hgst, hgated, hothers⟩ := s.mach.medTaken_effect e i c
  have hisland : (doMedSchedule s.mach e).island (164 + e) = (s.mach.medTaken e i c).island (164 + e) := by rw [hworks.fields]; rfl
  refine ⟨_, gives_mediaSchedule hphase, by rw [hworks.queue, hqueue], by rw [hworks.run, hrun], by rw [hisland, hgst], by rw [hisland, hgated],
    fun d hd => ?_, doMedSchedule_mem .., hworks.jobs⟩
  rw [hworks.others d hd, hothers d hd]

end

section
variable {s : State} {e : Nat} {r : MedRun} (hphase : s.mach.phase = .running) (hrun : (s.mach.med e).run = some r) (hres : r.result = none)
  (hio : s.mach.ioUp (engAgg e - 8) = true) (haccepted : s.mach.medRefusal r.cmd.part e r.cmd.bytes = none)
  (hgood : s.mach.medBadRead e r.cmd.bytes = none)
include hphase hrun hres hio haccepted hgood

/-- OPEN enters its stream. -/
theorem mediaOpen_opens (hmop : mcMop r.cmd.bytes = 1) : ∃ m st, Gives (.mediaOpen e) s m ∧
    MedEnds e r s.mach m ({ MedOut.plain 0 with bytesIn := 64 }.record r.cmd.bytes) ∧ m.mem = s.mach.mem ∧
    m.streams.get? (streamKey e (mcStream r.cmd.bytes)) = some st ∧ st.part = r.cmd.part ∧ st.block = s.mach.rd (mcSrc r.cmd.bytes) 64 ∧
    st.hist = [] := by
  have hg := mediaRow_runs hphase hrun hres hio haccepted hgood
  rw [hmop] at hg
  have hg : Gives (.mediaOpen e) s (doOpen e (s.mach.medBegun e r.cmd.bytes) r.cmd.part r.cmd.bytes) := hg
  rw [doOpen_eq] at hg
  refine ⟨_, (s.mach.medBegun e r.cmd.bytes).newStream e r.cmd.part r.cmd.bytes, hg,
    ((MedWorks.medBegun s.mach e r.cmd.bytes).trans (MedWorks.medOpened (ws := []) ..)).ends hrun _, ?_, ?_, rfl,
    Mach.rd_eq_of_mem (Mach.medBegun_mem ..) _ _, rfl⟩
  · rw [Mach.medDone_mem, Mach.medOpened_mem, Mach.medBegun_mem]
  · rw [Mach.medDone_streams]
    exact AMap.get?_put_same ..

/-- CLOSE takes its stream out. -/
theorem mediaClose_closes (hmop : mcMop r.cmd.bytes = 2) : ∃ m, Gives (.mediaClose e) s m ∧
    MedEnds e r s.mach m ((MedOut.plain 0).record r.cmd.bytes) ∧ m.mem = s.mach.mem ∧
    m.streams.get? (streamKey e (mcStream r.cmd.bytes)) = none ∧
    ∀ j, j ≠ streamKey e (mcStream r.cmd.bytes) → m.streams.get? j = s.mach.streams.get? j := by
  have hg := mediaRow_runs hphase hrun hres hio haccepted hgood
  rw [hmop] at hg
  have hg : Gives (.mediaClose e) s (doClose e (s.mach.medBegun e r.cmd.bytes) r.cmd.part r.cmd.bytes) := hg
  rw [doClose] at hg
  have hall := (MedWorks.medBegun s.mach e r.cmd.bytes).trans (MedWorks.medClose (ws := []) _ (streamKey e (mcStream r.cmd.bytes)))
  refine ⟨_, hg, hall.ends hrun _, ?_, ?_, fun j hj => ?_⟩
  · rw [Mach.medDone_mem, Mach.medClose_mem, Mach.medBegun_mem]
  · rw [Mach.medDone_streams]
    exact AMap.get?_del_same ..
  · rw [Mach.medDone_streams]
    exact hall.streams j hj

/-- A picture past its limit ends WATCHDOG, TRUNCATED or NO_OUTPUT, and is counted (R356). -/
theorem mediaWatchdog_due {n : Nat} (hlimit : s.mach.medLimit e r.cmd.bytes = some n) (hdue : r.t0 + n ≤ s.mach.rc) :
    ∃ m record, Gives (.mediaWatchdog e) s m ∧ MedEnds e r s.mach m record ∧ leAt record 0 1 ∈ [3, 4, 5] ∧
      m.obj (0x5100 + e) 4 = min (s.mach.obj (0x5100 + e) 4 + 1) (2 ^ 32 - 1) := by
  obtain ⟨x, o, heq, hworks, hst⟩ := doWatchdog_finishes hrun hres hlimit hio haccepted hgood hdue
  obtain ⟨hinHand, hqueue, hjobs, hcores, hcount⟩ := s.mach.medExpired_effect e r.cmd.bytes
  have hg := gives_mediaWatchdog (e := e) hphase
  rw [heq] at hg
  obtain ⟨hrun', hqueue', hjobs', hcores'⟩ := hworks.ends (hinHand.trans hrun) o
  refine ⟨_, _, hg, ⟨hrun', hqueue'.trans hqueue, hjobs'.trans hjobs, hcores'.trans hcores⟩, ?_, ?_⟩
  · rw [MedOut.leAt_record]
    have hst := hst rfl
    simp only [List.mem_cons, List.not_mem_nil, or_false] at hst ⊢
    omega
  · rw [Mach.obj_eq_of_objs (Mach.medDone_objs ..), hworks.objs _ 4 (by decide) (by decide), hcount]

end

/-- Settles O48: the scheduler and the report of an engine, and its command in hand by MOP, by what an engine may change while it works. -/
theorem media : Obligations.Media := by
  refine ⟨fun s e hphase he => ?_, fun s e r hphase hrun hres hio => ?_⟩
  · refine ⟨fun i c hidle hio hpick hc => ⟨Mach.medFree_of_pick hpick, fun hshare j hj hfree => Mach.pri_le_of_pick hpick hshare hj hfree,
      mediaSchedule_takes hphase he hidle hio hpick hc⟩, fun hbusy => ?_, fun r hrun hres => ?_, fun r record hrun hres => ?_⟩
    · have hg := gives_mediaSchedule (e := e) hphase
      rwa [doMedSchedule_busy hbusy] at hg
    · have hg := gives_mediaComplete (e := e) hphase
      rwa [doMedComplete_unfinished hrun hres] at hg
    · exact mediaComplete_finished hphase hrun hres
  · refine ⟨fun c hc fault => mediaRow_refused hphase hrun hres hio hc fault, fun haccepted hgood =>
      ⟨mediaOpen_opens hphase hrun hres hio haccepted hgood, mediaClose_closes hphase hrun hres hio haccepted hgood, fun hlo hhi => ⟨?_, ?_⟩⟩,
      fun h hlo hhi haccepted hbad => ?_, fun n hlimit haccepted hgood => ⟨fun hearly => ?_, fun hdue => ?_⟩⟩
    · obtain ⟨o, hends, hstreams, hbytes⟩ := (mediaEffect_finishes haccepted hlo hhi r.cmd.part).ends hrun rfl
      exact ⟨_, o, mediaRow_runs hphase hrun hres hio haccepted hgood, hends, hstreams, hbytes⟩
    · obtain ⟨m, record, hg, hrun', hst, hfailed, hwait, hbit⟩ :=
        mediaRow_faults hphase hrun hres hio haccepted (fault := true) hlo hhi (.inl rfl)
      exact ⟨m, record, hg, hrun', hst, hfailed, hwait, hbit rfl⟩
    · obtain ⟨m, record, hg, hrun', hst, hfailed, hwait, -⟩ :=
        mediaRow_faults hphase hrun hres hio haccepted (fault := false) hlo hhi (.inr (by rw [hbad]; rfl))
      exact ⟨m, record, hg, hrun', hst, hfailed, hwait⟩
    · have hg := gives_mediaWatchdog (e := e) hphase
      rwa [doWatchdog_early hrun hres hlimit hearly] at hg
    · exact mediaWatchdog_due hphase hrun hres hio haccepted hgood hlimit hdue

end Sys2Proof.Machine
end

section
/-! SUPPORT. Proofs: the queue's law, that every command answers a next state, and the control words (Tables 4-10 and 4-11). -/

namespace Sys2Proof.Machine

/-! ## Every command -/

/-- Settles O1: a step looks at the front of the queue, and the command there meets the rest of it. -/
theorem stepTakesFront : Obligations.StepTakesFront := fun _ _ _ => rfl

/-- Every row gives its command a meaning on the module alone, in whatever phase it acts. -/
theorem exec_eq_always (c : Instr) (s : State) : ∃ f : Mach → Mach, exec c s = s.always f := by
  unfold exec
  cases c <;> exact ⟨_, rfl⟩

/-- Settles O3: a command is what its row does to the module, behind which the queue stays. -/
theorem everyCommandCompletes : Obligations.EveryCommandCompletes := by
  intro c s
  obtain ⟨f, hf⟩ := exec_eq_always c s
  exact ⟨f s.mach, gives_always c s f hf⟩

/-! ## Control words -/

theorem fld_lt (w hi lo : Nat) : fld w hi lo < 2 ^ (hi + 1 - lo) := Nat.mod_lt _ (Nat.two_pow_pos _)

/-- A word of a row of one opcode that issues has the row's effect. -/
theorem gives_word {c : Instr} {s : State} {core o : Nat} {x : Wx} {checks : Mach → Wx → List (Nat × Nat)} {stall : Mach → Wx → Bool}
    {act : Mach → Wx → Mach} (hrow : exec c s = s.step (fun m => issue m core (selOpc o) checks stall act)) (h : Issues s core x checks stall)
    (hopc : opcOf x.w = o) {m : Mach} (hact : act s.mach x = m) : Gives c s m := by
  have hg := gives_step c s _ hrow h.up
  rwa [issue_issues h (selOpc_eq s.mach hopc), hact] at hg

/-- The row of SET and ADD, whose words name a register that is there. -/
theorem set_sound {m : Mach} {x : Wx} (h : pickFault (checksSet m x) = none) : x.f 119 115 ≠ 16 := by
  have hnil : checksSet m x = [] := pickFault_eq_none h
  intro hreg
  simp [checksSet, badField, hreg] at hnil

/-- A DBNZ that issues names a counter. -/
theorem dbnz_sound {m : Mach} {x : Wx} (h : pickFault (checksDbnz m x) = none) : x.f 119 115 < 16 := by
  have hnil : checksDbnz m x = [] := pickFault_eq_none h
  by_contra hreg
  simp [checksDbnz, badField, Nat.not_lt.mp hreg] at hnil

/-- An immediate of 32 bits is written whole. -/
theorem Ctx.putReg_imm (c : Ctx) (x : Wx) (r : Nat) : c.putReg r (x.f 114 83) =
    if r < 16 then { c with c := c.c.set r (x.f 114 83) } else { c with ix := c.ix.set (r - 16) (x.f 114 83) } := by
  have himm : x.f 114 83 % 2 ^ 32 = x.f 114 83 := Nat.mod_eq_of_lt (fld_lt x.w 114 83)
  simp only [Ctx.putReg, himm]

theorem doSet_eq {m : Mach} {core : Nat} {x : Wx} (hcore : x.core = core) : doSet m x = m.modCtx core x.guest (fun c =>
    if x.f 119 115 < 16 then { c with c := c.c.set (x.f 119 115) (x.f 114 83), pc := c.pc + 1 }
    else { c with ix := c.ix.set (x.f 119 115 - 16) (x.f 114 83), pc := c.pc + 1 }) := by
  subst hcore
  unfold doSet
  refine congrArg (m.modCtx x.core x.guest) (funext fun c => ?_)
  rw [Ctx.putReg_imm]
  split <;> rfl

theorem doAdd_eq {m : Mach} {core : Nat} {x : Wx} (hcore : x.core = core) : doAdd m x = m.modCtx core x.guest (fun c =>
    if x.f 119 115 < 16 then
      { c with c := c.c.set (x.f 119 115) ((c.c.getD (x.f 119 115) 0 + x.f 114 83) % 2 ^ 32), pc := c.pc + 1 }
    else
      { c with ix := c.ix.set (x.f 119 115 - 16) ((c.ix.getD (x.f 119 115 - 16) 0 + x.f 114 83) % 2 ^ 32), pc := c.pc + 1 }) := by
  subst hcore
  unfold doAdd
  refine congrArg (m.modCtx x.core x.guest) (funext fun c => ?_)
  simp only [Ctx.putReg, Ctx.getReg]
  split <;> rfl

theorem doDbnz_eq {m : Mach} {core : Nat} {x : Wx} (hcore : x.core = core) (hreg : x.f 119 115 < 16) :
    doDbnz m x = m.modCtx core x.guest (fun c =>
      let v := (c.c.getD (x.f 119 115) 0 + (2 ^ 32 - 1)) % 2 ^ 32
      { c with
        c := c.c.set (x.f 119 115) v
        pc := if v = 0 then c.pc + 1 else x.f 114 95
        fetch := if v = 0 then c.fetch else !inBuffer c.pc (x.f 114 95) }) := by
  subst hcore
  unfold doDbnz
  refine congrArg (m.modCtx x.core x.guest) (funext fun c => ?_)
  simp only [Ctx.putReg, Ctx.getReg, if_pos hreg, Nat.mod_mod]
  generalize (c.c.getD (x.f 119 115) 0 + (2 ^ 32 - 1)) % 2 ^ 32 = v
  cases v <;> rfl

/-- BCMP branches where its comparison holds, and goes on elsewhere. -/
theorem doBcmp_eq {m : Mach} {core : Nat} {x : Wx} (hcore : x.core = core) {holds : Ctx → Bool}
    (hholds : ∀ c : Ctx, bcmpHolds (x.f 119 115) (c.getReg (x.f 119 115)) (x.f 114 113) (x.f 112 81) = holds c) :
    doBcmp m x = m.modCtx core x.guest (fun c => { c with
      pc := if holds c then x.f 80 61 else c.pc + 1
      fetch := if holds c then !inBuffer c.pc (x.f 80 61) else c.fetch }) := by
  subst hcore
  unfold doBcmp
  refine congrArg (m.modCtx x.core x.guest) (funext fun c => ?_)
  dsimp only
  rw [hholds]
  cases holds c <;> rfl

/-- A counter is compared as it is, an index register as a signed number. -/
theorem Ctx.compared_eq (c : Ctx) (r : Nat) :
    (if r < 16 then (c.getReg r : Int) else toSigned 32 (c.getReg r)) =
      if r < 16 then (c.c.getD r 0 : Int) else toSigned 32 (c.ix.getD (r - 16) 0) := by
  unfold Ctx.getReg
  split <;> rfl

/-- Settles O4: each control word issues, and does to its context what its row of Table 4-10 or 4-11 says. -/
theorem controlWords : Obligations.ControlWords := by
  intro s core x
  refine ⟨fun h hopc => ?_, fun h hopc => ⟨set_sound h.sound, ?_⟩, fun h hopc => ?_, fun h hopc => ⟨dbnz_sound h.sound, ?_⟩, fun h hopc => ?_,
    fun h hopc => ?_, fun h hopc => ?_⟩
  · exact gives_word (c := .nop core) rfl h hopc (by rw [doNop, Mach.advance, h.core_eq])
  · exact gives_word (c := .set core) rfl h hopc (doSet_eq h.core_eq)
  · exact gives_word (c := .add core) rfl h hopc (doAdd_eq h.core_eq)
  · exact gives_word (c := .dbnz core) rfl h hopc (doDbnz_eq h.core_eq (dbnz_sound h.sound))
  · refine gives_word (c := .bcmp core) rfl h hopc (doBcmp_eq h.core_eq fun c => ?_)
    have hcond : x.f 114 113 < 4 := fld_lt x.w 114 113
    rw [← Ctx.compared_eq]
    generalize x.f 114 113 = cond at hcond
    match cond, hcond with
    | 0, _ | 1, _ | 2, _ | 3, _ => rfl
  · exact gives_word (c := .rctx core) rfl h hopc (by rw [doRctx, h.core_eq])
  · exact gives_word (c := .ax core) rfl h hopc (by rw [doAx, h.core_eq])

end Sys2Proof.Machine
end

section
/-! SUPPORT. Proofs: the test access port (R530 to R532). -/

namespace Sys2Proof.Machine

/-! ## The pins given back and taken -/

section
variable (m : Mach)

@[simp] theorem Mach.trainLink_jobs (l : Nat) : (m.trainLink l).jobs = m.jobs := rfl
@[simp] theorem Mach.failLink_jobs (l reason : Nat) : (m.failLink l reason).jobs = m.jobs := rfl
@[simp] theorem Mach.sendEmcy_jobs : m.sendEmcy.jobs = m.jobs := by rw [(AlarmsOnly.sendEmcy m).fields]

@[simp] theorem doBusOff_jobs : (doBusOff m).jobs = m.jobs := by
  unfold doBusOff
  dsimp only
  split
  · rfl
  · rw [Mach.sendEmcy_jobs]
    rfl

@[simp] theorem Mach.releasePins_jobs : m.releasePins.jobs = m.jobs := by
  unfold Mach.releasePins
  dsimp only
  split
  · rfl
  · split
    · rfl
    · rw [doBusOff_jobs]
      exact Mach.foldl_same Mach.jobs (fun a l => a.trainLink_jobs l) _ _

theorem SameObjs.failLink (l reason : Nat) : SameObjs [okey (0x4840 + l) 2] m (m.failLink l reason) :=
  SameObjs.trans (SameObjs.setLinkState m l 4) (SameObjs.setField (m.setLinkState l 4) (0x4840 + l) 2 15 12 reason (by simp))

/-- Taking the pins loses links and ports, which leaves the jobs and the objects of the port itself (R532). -/
theorem Mach.takePins_effect : m.takePins.jobs = m.jobs ∧ m.takePins.obj 0xA000 2 = m.obj 0xA000 2 := by
  unfold Mach.takePins
  dsimp only
  split
  · exact ⟨rfl, rfl⟩
  · refine ⟨Mach.foldl_same Mach.jobs (fun a l => a.failLink_jobs l 1) _ _, ?_⟩
    refine List.foldlRecOn (motive := fun a : Mach => a.obj 0xA000 2 = m.obj 0xA000 2) _ _ rfl fun a ha l hl => ?_
    have hlow : l < 64 := List.mem_range.mp (List.mem_filter.mp hl).1
    exact (SameObjs.failLink a l 1 0xA000 2 (by simp only [List.mem_singleton, okey]; omega)).trans ha

/-! ## The port out of power, and what each instruction does to it -/

variable {m} (code data : Nat)

theorem doTapPins_off (hoff : m.tapOn = false) : doTapPins code data m = m := by rw [doTapPins, hoff]; rfl
theorem doTapPlain_off (hoff : m.tapOn = false) : doTapPlain code data m = m := by rw [doTapPlain, hoff]; rfl
theorem doTapReset_off (hoff : m.tapOn = false) : doTapReset m = m := by rw [doTapReset, hoff]; rfl
theorem doSample_off (hoff : m.tapOn = false) : doSample data m = m := by rw [doSample, hoff]; rfl

variable (hon : m.tapOn = true)
include hon

theorem doTapPins_free (hfree : m.pinsFree = true) :
    doTapPins code data m = { m.takePins with tap := { instr := code, data := data, pins := true } } := by
  rw [doTapPins, hon, hfree]; rfl

theorem doTapPins_held (hheld : m.pinsFree = false) :
    doTapPins code data m = { m.addObj32 0xA000 2 1 with tap := { instr := code, data := data, pins := false } } := by
  rw [doTapPins, hon, hheld]; rfl

theorem doTapPlain_on :
    doTapPlain code data m = { m.releasePins.emit (.tap data) with tap := { instr := code, data := data, pins := false } } := by
  rw [doTapPlain, hon]; rfl

theorem doTapReset_on : doTapReset m = { m.releasePins with tap := Tap.init } := by rw [doTapReset, hon]; rfl

theorem doSample_on : doSample data m = { m.releasePins.emit (.tap (Config.freeNat m.releasePins.free 0)) with
    free := m.releasePins.free + 1, tap := { instr := 2, data := data, pins := false } } := by
  rw [doSample, hon]; rfl

end

/-! ## The rows of the port -/

/-- The rows whose instruction takes the pins, with its code (R532). -/
theorem gives_pinRow {data : Nat} {r : Instr × Nat}
    (hr : r ∈ [(Instr.extest data, 3), (.clamp data, 4), (.highz data, 5), (.extestPulse data, 6), (.extestTrain data, 7)]) (s : State) :
    Gives r.1 s (doTapPins r.2 data s.mach) := by
  simp only [List.mem_cons, List.not_mem_nil, or_false] at hr
  rcases hr with rfl | rfl | rfl | rfl | rfl <;> rfl

/-- The rows whose instruction leaves the pins with the logic, with its code and what it shows (R531). -/
theorem gives_plainRow {data : Nat} {r : Instr × Nat × Nat} (hr : r ∈ [(Instr.idcode, 1, 0x26402C55), (.bypass data, 0xFF, data % 2)])
    (s : State) : Gives r.1 s (doTapPlain r.2.1 r.2.2 s.mach) := by
  simp only [List.mem_cons, List.not_mem_nil, or_false] at hr
  rcases hr with rfl | rfl <;> rfl

/-- Settles O55: without power no instruction acts; with it each is shown, takes the pins where it may, and gives them back else. -/
theorem testAccess : Obligations.TestAccess := by
  intro s data
  refine ⟨fun hoff => ⟨fun r hr => ?_, fun r hr => ?_, ?_, ?_⟩, fun hon => ⟨fun r hr hfree => ?_, fun r hr hheld => ?_, fun r hr => ?_, ?_, ?_⟩⟩
  · have hg := gives_pinRow hr s
    rwa [doTapPins_off _ _ hoff] at hg
  · have hg := gives_plainRow hr s
    rwa [doTapPlain_off _ _ hoff] at hg
  · exact (gives_always .tapReset s doTapReset rfl).trans (by rw [doTapReset_off hoff])
  · exact (gives_always (.samplePreload data) s (doSample data) rfl).trans (by rw [doSample_off _ hoff])
  · obtain ⟨hjobs, hcount⟩ := s.mach.takePins_effect
    refine ⟨_, gives_pinRow hr s, ?_⟩
    rw [doTapPins_free _ _ hon hfree]
    exact ⟨rfl, hcount, Mach.takePins_mem _, hjobs⟩
  · refine ⟨_, gives_pinRow hr s, ?_⟩
    rw [doTapPins_held _ _ hon hheld]
    exact ⟨rfl, Mach.obj_setObj_same .., rfl⟩
  · refine ⟨_, gives_plainRow hr s, ?_⟩
    rw [doTapPlain_on _ _ hon]
    exact ⟨rfl, List.getLast?_concat, Mach.releasePins_mem _, Mach.releasePins_jobs _⟩
  · refine ⟨_, gives_always .tapReset s doTapReset rfl, ?_⟩
    rw [doTapReset_on hon]
    exact ⟨rfl, Mach.releasePins_mem _, Mach.releasePins_jobs _⟩
  · refine ⟨_, gives_always (.samplePreload data) s (doSample data) rfl, ?_⟩
    rw [doSample_on _ hon]
    exact ⟨rfl, Mach.releasePins_mem _, Mach.releasePins_jobs _⟩

end Sys2Proof.Machine
end

section
/-! SUPPORT. Proofs: changes of the register file alone. -/

namespace Sys2Proof.Machine

/-- What changes is the register file. -/
def ObjsOnly (m m' : Mach) : Prop := m' = { m with objs := m'.objs }

theorem ObjsOnly.refl (m : Mach) : ObjsOnly m m := rfl

theorem ObjsOnly.trans {a b c : Mach} (h : ObjsOnly a b) (h' : ObjsOnly b c) : ObjsOnly a c := by
  unfold ObjsOnly at h h' ⊢
  rw [h] at h'
  exact h'

theorem ObjsOnly.foldl {α : Type} {f : Mach → α → Mach} (hf : ∀ m a, ObjsOnly m (f m a)) (l : List α) (m : Mach) : ObjsOnly m (l.foldl f m) :=
  List.foldlRecOn (motive := ObjsOnly m) l f (ObjsOnly.refl m) fun a ha x _ => ObjsOnly.trans ha (hf a x)

/-- What a part of the module that is not in the register file reads. -/
theorem ObjsOnly.keeps {m m' : Mach} {β : Type} (h : ObjsOnly m m') (g : Mach → β) (hg : ∀ o, g { m with objs := o } = g m) : g m' = g m := by
  unfold ObjsOnly at h
  rw [h]
  exact hg _

section
variable (m : Mach) (i a : Nat)

theorem ObjsOnly.setObj (v : Nat) : ObjsOnly m (m.setObj i a v) := rfl
theorem ObjsOnly.addObj (n : Nat) : ObjsOnly m (m.addObj i a n) := rfl
theorem ObjsOnly.addObj32 (n : Nat) : ObjsOnly m (m.addObj32 i a n) := rfl
theorem ObjsOnly.setField (hi lo v : Nat) : ObjsOnly m (m.setField i a hi lo v) := rfl
theorem ObjsOnly.setBit (b : Nat) (v : Bool) : ObjsOnly m (m.setBit i a b v) := rfl
theorem ObjsOnly.cmdDone (ok : Bool) : ObjsOnly m (m.cmdDone i a ok) := rfl

theorem Mach.obj_addObj32_same (n : Nat) : (m.addObj32 i a n).obj i a = min (m.obj i a + n) (2 ^ 32 - 1) := Mach.obj_setObj_same ..

theorem Mach.field_reply (c hi lo : Nat) : (m.reply c).field i a hi lo = m.field i a hi lo := rfl

end

/-- Objects of one index have different keys. -/
theorem okey_right (i a b : Nat) : okey i a = okey i b ↔ a = b := by unfold okey; omega

end Sys2Proof.Machine
end

section
/-! SUPPORT. Proofs: what EMCY conditions leave of the CAN port, and which of them are active (R433). -/

namespace Sys2Proof.Machine

/-! ## The CAN port -/

/-- A condition that stays active until it clears: the others are events, which their frame ends (Table 15-7). -/
def emcyStays (c : EmcyCond) : Bool := c ≠ .hw && c ≠ .takeover

/-- What sending EMCY frames leaves of the CAN port: all but its queue, the time of the last frame and the events it clears. -/
structure EmcySends (m m' : Mach) : Prop where
  can : m'.can = { m.can with
    queue := m'.can.queue
    lastEmcy := m'.can.lastEmcy
    active := m'.can.active }
  stays : ∀ c : EmcyCond, emcyStays c = true → (c ∈ m'.can.active ↔ c ∈ m.can.active)

theorem EmcySends.refl (m : Mach) : EmcySends m m := ⟨rfl, fun _ _ => Iff.rfl⟩

theorem EmcySends.trans {a b c : Mach} (h : EmcySends a b) (h' : EmcySends b c) : EmcySends a c := by
  obtain ⟨hcan, hstays⟩ := h
  obtain ⟨hcan', hstays'⟩ := h'
  refine ⟨?_, fun x hx => (hstays' x hx).trans (hstays x hx)⟩
  rw [hcan] at hcan'
  exact hcan'

theorem EmcySends.of_can {m m' : Mach} (h : m'.can = m.can) : EmcySends m m' := ⟨by rw [h], fun _ _ => by rw [h]⟩

section
variable (m : Mach)

@[simp] theorem Mach.health_can : m.health.can = m.can := by rw [Mach.health, Mach.raise_only]; rfl

theorem Mach.enterHistory_can (code detail : Nat) : (m.enterHistory code detail).can = m.can := by
  unfold Mach.enterHistory
  exact Mach.foldl_same Mach.can (fun a (e : Nat × Nat) => Mach.setObj_can a 0x1003 (e.2 + 1) e.1) _ m

theorem EmcySends.queueEmcy (code detail : Nat) : EmcySends m (m.queueEmcy code detail) := by
  unfold Mach.queueEmcy
  dsimp only
  split <;> exact ⟨rfl, fun _ _ => Iff.rfl⟩

/-- A frame clears its event and no condition that stays. -/
theorem EmcySends.sendEmcy : EmcySends m m.sendEmcy := by
  unfold Mach.sendEmcy
  split
  · exact EmcySends.refl m
  next code detail rest _ =>
    extract_lets wait frame src sent entered ev
    have hentered : EmcySends m entered :=
      EmcySends.trans (b := sent) ⟨rfl, fun _ _ => Iff.rfl⟩ (EmcySends.of_can (sent.enterHistory_can code detail))
    have hevent : ∀ c, ev = some c → emcyStays c = false := by
      intro c hc
      unfold ev at hc
      split at hc
      · cases hc; rfl
      · split at hc <;> cases hc
        rfl
    clear_value entered ev
    split
    · exact EmcySends.refl m
    · cases ev with
      | none => exact hentered
      | some c =>
        dsimp only
        split
        · exact hentered
        · have hcleared : EmcySends entered { entered with can := { entered.can with active := entered.can.active.filter (fun x => x ≠ c) } } :=
            ⟨rfl, fun x hx => by
              have hne : x ≠ c := fun he => by rw [he, hevent c rfl] at hx; cases hx
              simp [hne]⟩
          split
          · exact EmcySends.trans (EmcySends.trans hentered hcleared) (EmcySends.queueEmcy ..)
          · exact EmcySends.trans hentered hcleared

/-! ## Conditions set and cleared -/

/-- A condition set leaves of the CAN port all but its queue, its last frame and its conditions; it is active, and no other one that stays changes. -/
theorem Mach.emcySet_can (c : EmcyCond) (detail : Nat) :
    (m.emcySet c detail).can = { m.can with
      queue := (m.emcySet c detail).can.queue
      lastEmcy := (m.emcySet c detail).can.lastEmcy
      active := (m.emcySet c detail).can.active } ∧
    ∀ x : EmcyCond, emcyStays x = true → (x ∈ (m.emcySet c detail).can.active ↔ x = c ∨ x ∈ m.can.active) := by
  unfold Mach.emcySet
  extract_lets event src listed shown
  have hlisted : ∀ x, x ∈ listed.can.active ↔ x = c ∨ x ∈ m.can.active := by
    intro x
    change x ∈ (if m.can.active.contains c then m.can.active else m.can.active ++ [c]) ↔ _
    split
    next hc => exact ⟨.inr, fun h => h.elim (fun he => he ▸ List.contains_iff_mem.mp hc) id⟩
    next => rw [List.mem_append, List.mem_singleton, or_comm]
  have hshown : shown.can = listed.can := listed.health_can
  split
  next hactive =>
    obtain ⟨hc, -⟩ := Bool.and_eq_true_iff.mp hactive
    exact ⟨rfl, fun x _ => ⟨.inr, fun h => h.elim (fun he => he ▸ List.contains_iff_mem.mp hc) id⟩⟩
  next =>
    have hsends : EmcySends shown (if shown.can.listen = true then shown else (shown.queueEmcy (emcyCode c) detail).sendEmcy) := by
      split
      · exact EmcySends.refl _
      · exact EmcySends.trans (EmcySends.queueEmcy ..) (EmcySends.sendEmcy _)
    obtain ⟨hcan, hstays⟩ := hsends
    refine ⟨hcan.trans (by rw [hshown]), fun x hx => (hstays x hx).trans (by rw [hshown]; exact hlisted x)⟩

/-- A condition cleared is no longer active, and no other one that stays changes. -/
theorem Mach.mem_emcyClear (c x : EmcyCond) (hx : emcyStays x = true) : x ∈ (m.emcyClear c).can.active ↔ x ≠ c ∧ x ∈ m.can.active := by
  unfold Mach.emcyClear
  extract_lets act src cleared
  have hact : x ∈ cleared.can.active ↔ x ≠ c ∧ x ∈ m.can.active := by
    change x ∈ m.can.active.filter (fun y => y ≠ c) ↔ _
    simp [and_comm]
  split
  next hc =>
    refine ⟨fun h => ⟨fun he => ?_, h⟩, And.right⟩
    rw [← he, List.contains_iff_mem.mpr h] at hc
    cases hc
  next =>
    split
    · have hsends : EmcySends cleared (cleared.queueEmcy 0 0).sendEmcy := EmcySends.trans (EmcySends.queueEmcy ..) (EmcySends.sendEmcy _)
      exact (hsends.stays x hx).trans hact
    · exact hact

theorem AlarmsOnly.emcyClear (c : EmcyCond) : AlarmsOnly m (m.emcyClear c) := by
  unfold Mach.emcyClear
  extract_lets act src cleared
  have hcleared : AlarmsOnly m cleared := AlarmsOnly.of_objs rfl
  split
  · exact AlarmsOnly.refl m
  · split
    · exact AlarmsOnly.trans (AlarmsOnly.trans hcleared (AlarmsOnly.queueEmcy ..)) (AlarmsOnly.sendEmcy _)
    · exact hcleared

/-- The objects that no alarm writes. -/
theorem AlarmsOnly.obj {m m' : Mach} (h : AlarmsOnly m m') {i a : Nat} (hk : okey i a ∉ emcyKeys) : m'.obj i a = m.obj i a := h.objs i a hk

end

end Sys2Proof.Machine
end

section
/-! SUPPORT. Proofs: the bindings of clients (R390, R391). -/

namespace Sys2Proof.Machine

/-! ## What a binding write is refused for -/

/-- A ring object is given a ring that is aligned, and that lies in the stacks of a bound client's partition (R391). -/
def Mach.RingGood (m : Mach) (n sub v : Nat) : Prop :=
  (sub = 2 → v % 8192 = 0) ∧ (sub = 3 → v % 2048 = 0) ∧
  ∀ p, m.clientPart n = some p → m.formed p = true → (sub = 2 → m.holds p v 8192 = true) ∧ (sub = 3 → m.holds p v 2048 = true)

/-- A client with no job and no descriptor to fetch (R390). -/
def Mach.ClientIdle (m : Mach) (n : Nat) : Prop := (∀ j ∈ m.jobs, j.client ≠ n) ∧ m.sqHead n = m.sqTail n

section
variable (m : Mach) (n sub v : Nat)

/-- A ring of `b` bytes that the write of a ring object refuses. -/
def Mach.ringRefused (b : Nat) : Bool :=
  v % b ≠ 0 || (match m.clientPart n with
    | some p => m.formed p && !m.holds p v b
    | none => false)

theorem Mach.ringRefused_eq_false_iff (b : Nat) : m.ringRefused n v b = false ↔
    v % b = 0 ∧ ∀ p, m.clientPart n = some p → m.formed p = true → m.holds p v b = true := by
  unfold Mach.ringRefused
  cases m.clientPart n <;> simp

theorem Mach.ringGood_iff : m.RingGood n sub v ↔
    ((sub = 2 && m.ringRefused n v 8192) || (sub = 3 && m.ringRefused n v 2048)) = false := by
  have h8 := m.ringRefused_eq_false_iff n v 8192
  have h2 := m.ringRefused_eq_false_iff n v 2048
  unfold Mach.RingGood
  by_cases hs2 : sub = 2
  · subst hs2
    simpa using h8.symm
  · by_cases hs3 : sub = 3
    · subst hs3
      simpa using h2.symm
    · simp [hs2, hs3]

theorem Mach.clientIdle_iff : m.ClientIdle n ↔ ¬ ((m.jobs.any (fun j => j.client = n) || m.sqHead n ≠ m.sqTail n) = true) := by
  simp [Mach.ClientIdle]

/-- The module with a client's object written, its heads, tails and counters shown at 0. -/
def Mach.bindingShown : Mach :=
  let m := m.setObj (cix n) sub (if sub = 1 then v % 64 + 32768 * b2n (bit v 15) else v)
  [5, 6, 7, 8].foldl (fun (a : Mach) i => a.setObj (cix n) i 0) (m.setField (cix n) 4 27 0 0)

/-- The module with a client bound (R390). -/
def Mach.bound : Mach := { m.bindingShown n sub v with cqCount := (m.bindingShown n sub v).cqCount.put n 0 }

theorem Mach.bindingShown_only : ObjsOnly m (m.bindingShown n sub v) :=
  ObjsOnly.trans (ObjsOnly.trans (ObjsOnly.setObj ..) (ObjsOnly.setField ..)) (ObjsOnly.foldl (fun a i => ObjsOnly.setObj a (cix n) i 0) _ _)

theorem Mach.bound_only : m.bound n sub v = { m with
    objs := (m.bindingShown n sub v).objs
    cqCount := (m.bound n sub v).cqCount } := by
  have h := m.bindingShown_only n sub v
  unfold Mach.bound
  generalize m.bindingShown n sub v = x at h
  rw [h]

theorem Mach.obj_bound (i a : Nat) : (m.bound n sub v).obj i a = (m.bindingShown n sub v).obj i a :=
  Mach.obj_eq_of_objs (by rw [Mach.bound_only]) i a

variable {m n sub v}

theorem Mach.writeClient_range (h : ¬ m.RingGood n sub v) : m.writeClient n sub v = m.reply abortRange := by
  rw [Mach.ringGood_iff, Bool.not_eq_false] at h
  exact congrArg (fun x : Nat × Mach => x.2.reply x.1) (if_pos h)

theorem Mach.writeClient_busy (h : m.RingGood n sub v) (hbusy : ¬ m.ClientIdle n) : m.writeClient n sub v = m.reply abortState := by
  rw [Mach.ringGood_iff] at h
  rw [Mach.clientIdle_iff, not_not] at hbusy
  exact congrArg (fun x : Nat × Mach => x.2.reply x.1) ((if_neg (by rw [Bool.not_eq_true]; exact h)).trans (if_pos hbusy))

theorem Mach.writeClient_binds (h : m.RingGood n sub v) (hidle : m.ClientIdle n) : m.writeClient n sub v = (m.bound n sub v).reply 0 := by
  rw [Mach.ringGood_iff] at h
  rw [Mach.clientIdle_iff] at hidle
  exact congrArg (fun x : Nat × Mach => x.2.reply x.1) ((if_neg (by rw [Bool.not_eq_true]; exact h)).trans (if_neg hidle))

/-- A binding leaves its object with the value kept of it, and the client's counters at 0. -/
theorem Mach.bound_effect (hsub : sub ≤ 3) :
    (m.bound n sub v).obj (cix n) sub = (if sub = 1 then v % 64 + 32768 * b2n (bit v 15) else v) ∧
    (m.bound n sub v).field (cix n) 4 27 0 = 0 ∧ ∀ i, 5 ≤ i → i ≤ 8 → (m.bound n sub v).obj (cix n) i = 0 := by
  have hobj : ∀ b, (m.bound n sub v).obj (cix n) b = if 5 ≤ b ∧ b ≤ 8 then 0 else
      ((m.setObj (cix n) sub (if sub = 1 then v % 64 + 32768 * b2n (bit v 15) else v)).setField (cix n) 4 27 0 0).obj (cix n) b := by
    intro b
    rw [Mach.obj_bound, Mach.bindingShown]
    simp only [List.foldl_cons, List.foldl_nil, Mach.obj_setObj, okey_right]
    grind
  refine ⟨?_, ?_, fun i h5 h8 => by rw [hobj, if_pos ⟨h5, h8⟩]⟩
  · rw [hobj, if_neg (by omega), Mach.obj_setField_other _ (by simp only [okey]; omega), Mach.obj_setObj_same]
  · rw [Mach.field, hobj, if_neg (by omega), ← Mach.field, Mach.field_setField_same _ _ _ _ _ _ (by decide), Nat.zero_mod]

end

/-- A write of a client's objects that a served path brings (R390). -/
theorem gives_clientBindingWrite {s : State} {path : Path} {n sub v : Nat} (hrun : s.mach.phase = .running) (hserves : s.mach.serves path = true)
    (hn : n < 512) (hlo : 1 ≤ sub) (hhi : sub ≤ 3) (hv : v < 2 ^ 64) : Gives (.clientBindingWrite path n sub v) s (s.mach.writeClient n sub v) := by
  have hg := gives_step (.clientBindingWrite path n sub v) s
    (fun m => if n < 512 && 1 ≤ sub && sub ≤ 3 then m.byPath path (fun m => m.writeClient n sub (v % 2 ^ 64)) else m) rfl hrun
  have hthere : (n < 512 && 1 ≤ sub && sub ≤ 3 : Bool) = true := by simp only [hn, hlo, hhi, decide_true, Bool.and_true]
  rwa [if_pos hthere, Nat.mod_eq_of_lt hv, Mach.byPath, if_pos hserves] at hg

/-- Settles O27: the write of a binding is refused for its ring first, then for the client's work, and is stored else. -/
theorem bindingWrites : Obligations.BindingWrites := by
  intro s path n sub v hrun hserves hn hlo hhi hv lies good idle
  have hg := gives_clientBindingWrite hrun hserves hn hlo hhi hv
  refine ⟨fun hbad => ?_, fun hgood hbusy => ?_, fun hgood hidle => ⟨_, hg, ?_⟩⟩
  · rwa [Mach.writeClient_range hbad] at hg
  · rwa [Mach.writeClient_busy hgood hbusy] at hg
  · rw [Mach.writeClient_binds hgood hidle]
    obtain ⟨hkept, hheads, hcounts⟩ := s.mach.bound_effect (n := n) (v := v) hhi
    have honly := s.mach.bound_only n sub v
    generalize s.mach.bound n sub v = m at hkept hheads hcounts honly
    exact ⟨rfl, hkept, hheads, hcounts, by rw [honly]; rfl, by rw [honly]; rfl⟩

end Sys2Proof.Machine
end

section
/-! SUPPORT. Proofs: the firmware commands, and a supervisor's role handed over (R505 to R507, R510, Table 17-14). -/

namespace Sys2Proof.Machine

/-! ## The role handed over -/

/-- What a handover changes: the active supervisor, the CAN transfer, the ports' transfers, its count and its alarm. -/
structure RoleHanded (m m' : Mach) : Prop where
  fields : m' = { m with
    active := 1 - m.active
    objs := m'.objs
    can := m'.can
    outbox := m'.outbox
    hosts := m'.hosts }
  usdo : m'.can.usdo = none
  counted : m'.obj 0x7000 4 = min (m.obj 0x7000 4 + 1) (2 ^ 32 - 1)

section
variable (m : Mach)

/-- The module with the standby active and every transfer in flight cut, before the takeover is counted and told. -/
def Mach.roleMoved : Mach :=
  let m := if m.can.usdo.isSome then m.emit (.usdo abortStore 0 []) else m
  let m := { m with active := 1 - m.active, can := { m.can with usdo := none } }
  [0, 1].foldl (fun (a : Mach) x => a.setHost x { a.host x with latch := none, part := none }) m

theorem Mach.roleMoved_only : m.roleMoved = { m with
    active := 1 - m.active
    can := { m.can with usdo := none }
    outbox := m.roleMoved.outbox
    hosts := m.roleMoved.hosts } := by
  unfold Mach.roleMoved
  dsimp only
  split <;> rfl

theorem Mach.handRole_effect : RoleHanded m m.handRole := by
  have hmoved := m.roleMoved_only
  have hobjs : m.roleMoved.objs = m.objs := by rw [hmoved]
  generalize hx : m.roleMoved = x at hmoved hobjs
  have heq : m.handRole = ((x.showLinks.addObj32 0x7000 4 1).warn 6).emcySet .takeover x.active := by rw [← hx]; rfl
  have halarm := AlarmsOnly.emcySet ((x.showLinks.addObj32 0x7000 4 1).warn 6) .takeover x.active
  obtain ⟨hcan, -⟩ := Mach.emcySet_can ((x.showLinks.addObj32 0x7000 4 1).warn 6) .takeover x.active
  rw [← heq] at halarm hcan
  refine ⟨?_, ?_, ?_⟩
  · have hfields := halarm.fields
    generalize m.handRole = y at hfields
    rw [hfields, hmoved]
    rfl
  · rw [hcan]
    change x.can.usdo = none
    rw [hmoved]
  · rw [halarm.obj (by decide), Mach.warn, Mach.setBit, Mach.obj_setField_other _ (by decide), Mach.addObj32, Mach.obj_setObj_same,
      Mach.showLinks, Mach.obj_setObj_other _ (by decide), Mach.obj_eq_of_objs hobjs]

/-! ## The course of a firmware command -/

/-- A value written to 7300h + s.07 that has the form of OP `op` (Table 17-14). -/
structure FwForm (v op : Nat) : Prop where
  names : fld v 18 16 = op
  spare : v / 2 ^ 19 = 0
  zero : fld v 15 8 = 0
  bank : op = 1 ∨ op = 2 → fld v 7 0 ≤ 1

variable {m} {y v op : Nat} {f : Mach → Option Mach}

theorem Mach.fwCommand_eq (hform : FwForm v op) (hy : y ≤ 1) (hidle : m.objBit (0x7300 + y) 8 0 = false) : m.fwCommand y v op f =
    if !m.alive y || (op ≠ 5 && y = m.active) then (m.reply 0).cmdDone (0x7300 + y) 8 false
    else match f (m.reply 0) with
      | some m' => (m'.showSup y).cmdDone (0x7300 + y) 8 true
      | none => (m.reply 0).cmdDone (0x7300 + y) 8 false := by
  obtain ⟨hnames, hspare, hzero, hbank⟩ := hform
  have hnamed : ¬ ((y > 1 || fld v 18 16 ≠ op : Bool) = true) := by simp [hnames, hy]
  have hgood : ¬ ((v / 2 ^ 19 ≠ 0 || fld v 15 8 ≠ 0 || ((op = 1 || op = 2) && fld v 7 0 > 1) : Bool) = true) := by
    simp only [hspare, hzero, ne_eq, not_true, decide_false, Bool.false_or, Bool.and_eq_true, Bool.or_eq_true, decide_eq_true_eq, not_and, not_lt]
    exact hbank
  unfold Mach.fwCommand
  rw [if_neg hnamed, if_neg hgood, if_neg (by rw [hidle]; exact Bool.false_ne_true)]
  rfl

/-- A command that is carried out shows DONE and what the supervisor's objects now read. -/
theorem Mach.fwCommand_runs {m' : Mach} (hform : FwForm v op) (hy : y ≤ 1) (hidle : m.objBit (0x7300 + y) 8 0 = false)
    (halive : m.alive y = true) (hstandby : y ≠ m.active) (hf : f (m.reply 0) = some m') :
    m.fwCommand y v op f = (m'.showSup y).cmdDone (0x7300 + y) 8 true := by
  rw [Mach.fwCommand_eq hform hy hidle, if_neg (by simp [halive, hstandby]), hf]

/-- A command that finds nothing it can do shows ERROR. -/
theorem Mach.fwCommand_fails (hform : FwForm v op) (hy : y ≤ 1) (hidle : m.objBit (0x7300 + y) 8 0 = false)
    (halive : m.alive y = true) (hstandby : y ≠ m.active) (hf : f (m.reply 0) = none) :
    m.fwCommand y v op f = (m.reply 0).cmdDone (0x7300 + y) 8 false := by
  rw [Mach.fwCommand_eq hform hy hidle, if_neg (by simp [halive, hstandby]), hf]

/-- The active supervisor takes no command but HANDOVER. -/
theorem Mach.fwCommand_active (hform : FwForm v op) (hop : op ≠ 5) (hy : y ≤ 1) (hidle : m.objBit (0x7300 + y) 8 0 = false)
    (hactive : y = m.active) : m.fwCommand y v op f = (m.reply 0).cmdDone (0x7300 + y) 8 false := by
  rw [Mach.fwCommand_eq hform hy hidle, if_pos (by simp [hop, hactive])]

end

/-! ## What a command leaves shown -/

section
variable (m : Mach) (y : Nat)

/-- The module after a command that was carried out. -/
def Mach.fwShown : Mach := (m.showSup y).cmdDone (0x7300 + y) 8 true

theorem Mach.fwShown_only : ObjsOnly m (m.fwShown y) :=
  ObjsOnly.trans (ObjsOnly.trans (ObjsOnly.trans (ObjsOnly.setField ..) (ObjsOnly.setBit ..)) (ObjsOnly.setObj ..)) (ObjsOnly.cmdDone ..)

theorem Mach.fwShown_done : (m.fwShown y).field (0x7300 + y) 8 2 0 = 2 := Mach.field_cmdDone ..

/-- What a supervisor shows touches its own objects alone. -/
theorem Mach.obj_fwShown {i a : Nat} (h5 : okey (0x7300 + y) 5 ≠ okey i a) (h8 : okey (0x7300 + y) 8 ≠ okey i a) :
    (m.fwShown y).obj i a = m.obj i a := by
  rw [Mach.fwShown, Mach.cmdDone, Mach.obj_setField_other _ h8, Mach.showSup, Mach.obj_setObj_other _ h5, Mach.setBit,
    Mach.obj_setField_other _ h8, Mach.obj_setField_other _ h8]

theorem Mach.sup_setSup (x : SupFlash) : (m.setSup y x).sup y = x := AMap.get_put_same ..

/-- A valid image whose settings can be read is booted. -/
theorem Mach.bootBank_good {b r : Nat} (hvalid : ((m.sup y).bank b).valid = true) (hread : (m.flash.store y).unread ((m.sup y).bank b) = false) :
    m.bootBank y b r = (b, r) := by
  unfold Mach.bootBank
  simp only [hvalid, if_true, hread, Bool.false_and]
  rfl

/-- A boot from a marked bank that is good runs it and takes the mark (R507). -/
theorem Mach.bootSup_trial {t : Nat} (htrial : (m.sup y).trial = some t) (hvalid : ((m.sup y).bank t).valid = true)
    (hread : (m.flash.store y).unread ((m.sup y).bank t) = false) :
    (m.bootSup y).runBank y = t ∧ ((m.bootSup y).sup y).trial = none := by
  unfold Mach.bootSup
  simp only [htrial, Mach.bootBank_good m y hvalid hread]
  refine ⟨AMap.get_put_same .., ?_⟩
  change (Mach.sup (m.setSup y _) y).trial = none
  rw [Mach.sup_setSup]

end

/-! ## The rows -/

theorem fwForm_bank {b op : Nat} (hb : b < 2) (hop : op < 5) : FwForm (0x10000 * op + b) op := by
  have hkey : ∀ o, o < 5 → ∀ c, c < 2 → fld (0x10000 * o + c) 18 16 = o ∧ (0x10000 * o + c) / 2 ^ 19 = 0 ∧ fld (0x10000 * o + c) 15 8 = 0 ∧
      fld (0x10000 * o + c) 7 0 ≤ 1 := by decide
  obtain ⟨hnames, hspare, hzero, hbank⟩ := hkey op hop b hb
  exact ⟨hnames, hspare, hzero, fun _ => hbank⟩

/-- A command that the standby has carried out, as the statement asks it to end. -/
def FwDone (c : Instr) (s : State) (y : Nat) (m : Mach) : Prop := Gives c s m ∧ m.answer = ⟨0, []⟩ ∧ m.field (0x7300 + y) 8 2 0 = 2

/-- The standby carries a command out: its outcome shows DONE over what the command does. -/
theorem FwDone.of_command {c : Instr} {s : State} {y v op : Nat} {f : Mach → Option Mach} {m' : Mach} (hg : Gives c s (s.mach.fwCommand y v op f))
    (hform : FwForm v op) (hy : y ≤ 1) (hidle : s.mach.objBit (0x7300 + y) 8 0 = false) (halive : s.mach.alive y = true)
    (hstandby : y ≠ s.mach.active) (hf : f (s.mach.reply 0) = some m') (hans : m'.answer = ⟨0, []⟩) : FwDone c s y (m'.fwShown y) := by
  rw [Mach.fwCommand_runs hform hy hidle halive hstandby hf] at hg
  exact ⟨hg, ((m'.fwShown_only y).keeps Mach.answer fun _ => rfl).trans hans, m'.fwShown_done y⟩

/-- What the supervisor's flash, its banks, its role and the jobs are after a command, the command itself has made them. -/
theorem Mach.fwShown_keeps (m : Mach) (y : Nat) : (m.fwShown y).sup y = m.sup y ∧ (m.fwShown y).runBank y = m.runBank y ∧
    (m.fwShown y).active = m.active ∧ (m.fwShown y).jobs = m.jobs :=
  have honly := m.fwShown_only y
  ⟨honly.keeps (fun x => x.sup y) fun _ => rfl, honly.keeps (fun x => x.runBank y) fun _ => rfl, honly.keeps Mach.active fun _ => rfl,
    honly.keeps Mach.jobs fun _ => rfl⟩

/-- A command that shows ERROR leaves the flash alone. -/
theorem Mach.fwError_effect (m : Mach) (y : Nat) : ((m.reply 0).cmdDone (0x7300 + y) 8 false).field (0x7300 + y) 8 2 0 = 4 ∧
    ((m.reply 0).cmdDone (0x7300 + y) 8 false).flash = m.flash := ⟨Mach.field_cmdDone .., rfl⟩

section
variable {s : State} {path : Path} {b y : Nat} (hrun : s.mach.phase = .running) (hserves : s.mach.serves path = true)
  (hy : y ≤ 1) (hidle : s.mach.objBit (0x7300 + y) 8 0 = false) (halive : s.mach.alive y = true) (hstandby : y ≠ s.mach.active)
include hrun hserves hy hidle halive hstandby

/-- WRITE puts the image in the bank that does not run. -/
theorem firmwareWrite_writes (hb : b < 2) (hbank : b ≠ s.mach.runBank y) (haligned : s.mach.obj (0x7300 + y) 6 % 4096 = 0) :
    ∃ m, FwDone (.firmwareWrite path y (0x10000 + b)) s y m ∧
      m.sup y = { s.mach.sup y with banks := (s.mach.sup y).banks.set b s.mach.imageBank.2 } := by
  have hbyte : (0x10000 + b) % 256 = b := by omega
  have hf : ¬ ((0x10000 + b) % 256 = (s.mach.reply 0).runBank y || (s.mach.reply 0).obj (0x7300 + y) 6 % 4096 ≠ 0 : Bool) = true := by
    rw [hbyte, Mach.obj_reply, haligned, Bool.or_eq_true, decide_eq_true_eq]
    exact fun h => h.elim hbank (by decide)
  refine ⟨_, FwDone.of_command (gives_byPath (c := .firmwareWrite path y (0x10000 + b)) rfl hrun hserves)
    (fwForm_bank (op := 1) hb (by decide)) hy hidle halive hstandby (if_neg hf) rfl, ?_⟩
  rw [(Mach.fwShown_keeps _ y).1, Mach.sup_setSup, hbyte]
  rfl

/-- WRITE of the bank that runs, or of an image that is not aligned, ends in ERROR. -/
theorem firmwareWrite_fails (hb : b < 2) (hbad : b = s.mach.runBank y ∨ s.mach.obj (0x7300 + y) 6 % 4096 ≠ 0) :
    ∃ m, Gives (.firmwareWrite path y (0x10000 + b)) s m ∧ m.field (0x7300 + y) 8 2 0 = 4 ∧ m.flash = s.mach.flash := by
  have hbyte : (0x10000 + b) % 256 = b := by omega
  have hf : ((0x10000 + b) % 256 = (s.mach.reply 0).runBank y || (s.mach.reply 0).obj (0x7300 + y) 6 % 4096 ≠ 0 : Bool) = true := by
    rw [hbyte, Mach.obj_reply, Bool.or_eq_true, decide_eq_true_eq, decide_eq_true_eq]
    exact hbad
  have hg := gives_byPath (c := .firmwareWrite path y (0x10000 + b)) rfl hrun hserves
  rw [doFwWrite, Mach.fwCommand_fails (fwForm_bank (op := 1) hb (by decide)) hy hidle halive hstandby
    (if_pos hf)] at hg
  exact ⟨_, hg, s.mach.fwError_effect y⟩

/-- TRIAL marks the bank for one boot. -/
theorem trial_marks (hb : b < 2) :
    ∃ m, FwDone (.trial path y (0x20000 + b)) s y m ∧ m.sup y = { s.mach.sup y with trial := some b } := by
  have hbyte : (0x20000 + b) % 256 = b := by omega
  refine ⟨_, FwDone.of_command (gives_byPath (c := .trial path y (0x20000 + b)) rfl hrun hserves)
    (fwForm_bank (op := 2) hb (by decide)) hy hidle halive hstandby rfl rfl, ?_⟩
  rw [(Mach.fwShown_keeps _ y).1, Mach.sup_setSup, hbyte]
  rfl

/-- REBOOT boots the marked bank when its image is valid and reads the settings. -/
theorem reboot_boots {t : Nat} (htrial : (s.mach.sup y).trial = some t) (hvalid : ((s.mach.sup y).bank t).valid = true)
    (hread : (s.mach.flash.store y).unread ((s.mach.sup y).bank t) = false) :
    ∃ m, FwDone (.reboot path y 0x30000) s y m ∧ m.runBank y = t ∧ (m.sup y).trial = none ∧ m.active = s.mach.active ∧ m.jobs = s.mach.jobs := by
  refine ⟨_, FwDone.of_command (gives_byPath (c := .reboot path y 0x30000) rfl hrun hserves)
    (fwForm_bank (op := 3) (b := 0) (by decide) (by decide)) hy hidle halive hstandby rfl rfl, ?_⟩
  obtain ⟨hsup, hbank, hactive, hjobs⟩ := Mach.fwShown_keeps { (s.mach.reply 0).bootSup y with
    beats := (s.mach.reply 0).beats.put y (s.mach.reply 0).rc } y
  rw [hsup, hbank, hactive, hjobs]
  obtain ⟨hruns, hmark⟩ := Mach.bootSup_trial (s.mach.reply 0) y htrial hvalid hread
  exact ⟨hruns, hmark, rfl, rfl⟩

/-- CONFIRM makes the bank that runs the default. -/
theorem confirm_confirms : ∃ m, FwDone (.confirm path y 0x40000) s y m ∧ (m.sup y).dflt = s.mach.runBank y := by
  refine ⟨_, FwDone.of_command (gives_byPath (c := .confirm path y 0x40000) rfl hrun hserves)
    (fwForm_bank (op := 4) (b := 0) (by decide) (by decide)) hy hidle halive hstandby rfl rfl, ?_⟩
  rw [(Mach.fwShown_keeps _ y).1, Mach.sup_setSup]
  rfl

/-- HANDOVER makes the standby active. -/
theorem handover_hands (hother : y = 1 - s.mach.active) : ∃ m, FwDone (.handover path y 0x50000) s y m ∧ m.active = y ∧
    m.obj 0x7000 4 = min (s.mach.obj 0x7000 4 + 1) (2 ^ 32 - 1) := by
  obtain ⟨hfields, -, hcounted⟩ := (s.mach.reply 0).handRole_effect
  refine ⟨_, FwDone.of_command (gives_byPath (c := .handover path y 0x50000) rfl hrun hserves)
    ⟨by decide, by decide, by decide, by decide⟩ hy hidle halive hstandby (if_pos (hother ▸ halive)) (by rw [hfields]; rfl), ?_, ?_⟩
  · rw [(Mach.fwShown_keeps _ y).2.2.1, hfields, hother]
    rfl
  · rw [Mach.obj_fwShown _ _ (by simp only [okey]; omega) (by simp only [okey]; omega), hcounted]
    rfl

end

/-- The active supervisor refuses every command but HANDOVER (R510). -/
theorem active_refuses {s : State} {path : Path} {b : Nat} (hrun : s.mach.phase = .running) (hserves : s.mach.serves path = true)
    (hactive : s.mach.active < 2) (hb : b < 2) (hidle : s.mach.objBit (0x7300 + s.mach.active) 8 0 = false) {c : Instr}
    (hc : c ∈ [Instr.firmwareWrite path s.mach.active (0x10000 + b), .trial path s.mach.active (0x20000 + b), .reboot path s.mach.active 0x30000,
      .confirm path s.mach.active 0x40000]) :
    ∃ m, Gives c s m ∧ m.field (0x7300 + s.mach.active) 8 2 0 = 4 ∧ m.flash = s.mach.flash := by
  have hrefused : ∀ {v op : Nat} {f : Mach → Option Mach}, FwForm v op → op ≠ 5 → Gives c s (s.mach.fwCommand s.mach.active v op f) →
      ∃ m, Gives c s m ∧ m.field (0x7300 + s.mach.active) 8 2 0 = 4 ∧ m.flash = s.mach.flash := by
    intro v op f hform hop hg
    rw [Mach.fwCommand_active hform hop (Nat.le_of_lt_succ hactive) hidle rfl] at hg
    exact ⟨_, hg, s.mach.fwError_effect _⟩
  simp only [List.mem_cons, List.not_mem_nil, or_false] at hc
  rcases hc with rfl | rfl | rfl | rfl
  · exact hrefused (fwForm_bank (op := 1) hb (by decide)) (by decide) (gives_byPath (f := doFwWrite _ _) rfl hrun hserves)
  · exact hrefused (fwForm_bank (op := 2) hb (by decide)) (by decide) (gives_byPath (f := doFwTrial _ _) rfl hrun hserves)
  · exact hrefused (fwForm_bank (op := 3) (b := 0) (by decide) (by decide)) (by decide) (gives_byPath (f := doFwReboot _ _) rfl hrun hserves)
  · exact hrefused (fwForm_bank (op := 4) (b := 0) (by decide) (by decide)) (by decide) (gives_byPath (f := doFwConfirm _ _) rfl hrun hserves)

/-- Settles O42: the standby carries each command out and shows DONE; at the active supervisor, all but HANDOVER show ERROR. -/
theorem firmwareCommands : Obligations.FirmwareCommands := by
  intro s path b hrun hserves hactive hb a y done
  have hy : y ≤ 1 := by omega
  have hstandby : y ≠ s.mach.active := by omega
  refine ⟨fun halive hidle => ⟨?_, ?_, ?_, ?_, ?_, ?_⟩, fun _ hidle c hc => active_refuses hrun hserves hactive hb hidle hc⟩
  · exact firmwareWrite_writes hrun hserves hy hidle halive hstandby hb
  · exact firmwareWrite_fails hrun hserves hy hidle halive hstandby hb
  · exact trial_marks hrun hserves hy hidle halive hstandby hb
  · exact fun _ => reboot_boots hrun hserves hy hidle halive hstandby
  · exact confirm_confirms hrun hserves hy hidle halive hstandby
  · exact handover_hands hrun hserves hy hidle halive hstandby rfl

end Sys2Proof.Machine
end

section
/-! SUPPORT. Proofs: writes of the object dictionary (R418 to R421, R442). -/

namespace Sys2Proof.Machine

/-! ## The course of a write -/

section
variable {m : Mach} {path : Path} {idx sub u : Nat} {row : ObjRow} {data : List Byte} {commits : Bool}

theorem Mach.writeObj_missing (h : (objFind idx sub).1 ≠ 0) : m.writeObj path idx sub data commits = m.reply (objFind idx sub).1 := by
  unfold Mach.writeObj
  generalize objFind idx sub = f at h
  obtain ⟨_ | code, row, u⟩ := f
  · exact absurd rfl h
  · rfl

variable (hfind : objFind idx sub = (0, row, u))
include hfind

theorem Mach.writeObj_readOnly (hacc : row.acc = .const ∨ row.acc = .ro) :
    m.writeObj path idx sub data commits = m.reply abortReadOnly := by
  simp only [Mach.writeObj, hfind]
  exact if_pos (by simpa using hacc)

theorem Mach.writeObj_length (hconst : row.acc ≠ .const) (hro : row.acc ≠ .ro) (hlen : data.length ≠ row.size) :
    m.writeObj path idx sub data commits = m.reply abortLength := by
  simp only [Mach.writeObj, hfind]
  rw [if_neg (by simp [hconst, hro]), if_pos hlen]

/-- The write of a register whose value has its length: it is in range, then its target takes it, then it is stored. -/
theorem Mach.writeObj_register (hconst : row.acc ≠ .const) (hro : row.acc ≠ .ro) (hlen : data.length = row.size)
    (hreg : m.writeSpecial path row u (leNat data) = none) : m.writeObj path idx sub data commits =
      if outOfBounds row (leNat data) || m.refusedValue row u (leNat data) then m.reply abortRange
      else if !m.targetTakes row u then m.reply abortState
      else m.storeObj idx row u (leNat data) commits := by
  simp only [Mach.writeObj, hfind]
  rw [if_neg (by simp [hconst, hro]), if_neg (not_not.mpr hlen), hreg]

end

/-- A value in range whose target takes it is stored. -/
theorem Mach.writeObj_stores {m : Mach} {path : Path} {idx sub u : Nat} {row : ObjRow} {data : List Byte} (hfind : objFind idx sub = (0, row, u))
    (hconst : row.acc ≠ .const) (hro : row.acc ≠ .ro) (hlen : data.length = row.size)
    (hreg : m.writeSpecial path row u (leNat data) = none)
    (hgood : (outOfBounds row (leNat data) || m.refusedValue row u (leNat data)) = false) (htakes : m.targetTakes row u = true)
    (commits : Bool) : m.writeObj path idx sub data commits = m.storeObj idx row u (leNat data) commits := by
  rw [Mach.writeObj_register hfind hconst hro hlen hreg, hgood, htakes]
  rfl

/-! ## What a register is left with -/

section
variable {m : Mach} {idx u v : Nat} {row : ObjRow} (hselect : m.writeSelected row u (m.keptValue idx row v) = none)
include hselect

/-- A register that is no setting takes what its field map keeps of the value. -/
theorem Mach.storeObj_register (hacc : row.acc ≠ .rwp) (commits : Bool) :
    m.storeObj idx row u v commits = (m.setObj idx row.sub (m.keptValue idx row v)).reply 0 := by
  have hno : ¬ ((row.acc = .rwp && !commits : Bool) = true) := by simp [hacc]
  simp only [Mach.storeObj]
  rw [if_neg hno, hselect, if_neg hacc]

/-- A setting is committed as well. -/
theorem Mach.storeObj_setting (hacc : row.acc = .rwp) :
    m.storeObj idx row u v true =
      ((m.commit (okey idx row.sub) (m.keptValue idx row v)).setObj idx row.sub (m.keptValue idx row v)).reply 0 := by
  have hno : ¬ ((row.acc = .rwp && !true : Bool) = true) := by simp
  simp only [Mach.storeObj]
  rw [if_neg hno, hselect, if_pos hacc]

omit hselect in
/-- A commit that fails is the answer, and changes nothing. -/
theorem Mach.storeObj_uncommitted (hacc : row.acc = .rwp) : m.storeObj idx row u v false = m.reply abortStore :=
  if_pos (by simp [hacc])

end

/-- A commit reaches the stores alone. -/
theorem Mach.commit_only (m : Mach) (key v : Nat) : m.commit key v = { m with flash := (m.commit key v).flash } := rfl

theorem Mach.setting_sameObjs (m : Mach) (key v i a : Nat) : SameObjs [okey i a] m (((m.commit key v).setObj i a v).reply 0) :=
  SameObjs.trans (SameObjs.of_objs _ (by rw [Mach.commit_only])) (SameObjs.trans (SameObjs.setObj (m.commit key v) i a v (by simp)) (SameObjs.of_objs _ rfl))

/-- The history is cleared, and no other object. -/
theorem Mach.clearHistory_effect (m : Mach) : ObjsOnly m m.clearHistory ∧ (∀ i, i < 9 → m.clearHistory.obj 0x1003 i = 0) ∧
    SameObjs ((List.range 9).map (okey 0x1003)) m m.clearHistory := by
  have hchain : m.clearHistory = ((((((((m.setObj 0x1003 0 0).setObj 0x1003 1 0).setObj 0x1003 2 0).setObj 0x1003 3 0).setObj 0x1003 4 0).setObj
      0x1003 5 0).setObj 0x1003 6 0).setObj 0x1003 7 0).setObj 0x1003 8 0 := rfl
  refine ⟨ObjsOnly.foldl (fun a i => ObjsOnly.setObj a 0x1003 i 0) _ _, fun i hi => ?_, ?_⟩
  · simp only [hchain, Mach.obj_setObj, okey_right]
    grind
  · refine List.foldlRecOn (motive := SameObjs _ m) _ _ (SameObjs.refl m _) fun a ha i hi => ?_
    exact SameObjs.trans ha (SameObjs.setObj a _ _ _ (List.mem_map_of_mem hi))

/-! ## The rows -/

section
variable {s : State} {path : Path} (hrun : s.mach.phase = .running) (hserves : s.mach.serves path = true)
include hrun hserves

theorem gives_objectWrite (idx sub : Nat) (data : List Byte) :
    Gives (.objectWrite path idx sub data) s (s.mach.writeObj path idx sub data true) :=
  gives_byPath (f := fun m => m.writeObj path idx sub data true) rfl hrun hserves

/-- RWP_WRITE takes the settings. -/
theorem gives_rwpWrite {idx sub u : Nat} {row : ObjRow} (hfind : objFind idx sub = (0, row, u)) (hacc : row.acc = .rwp) (data : List Byte)
    (commits : Bool) : Gives (.rwpWrite path idx sub data commits) s (s.mach.writeObj path idx sub data commits) := by
  have hsetting : isSetting idx sub = true := by simp [isSetting, hfind, hacc]
  refine gives_byPath (c := .rwpWrite path idx sub data commits) (f := fun m => m.writeObj path idx sub data commits) ?_ hrun hserves
  change s.step (fun m => if isSetting idx sub then m.byPath path (fun m => m.writeObj path idx sub data commits) else m) = _
  simp only [hsetting, if_true]

theorem gives_restoreDefaults (v : Nat) : Gives (.restoreDefaults path v) s (s.mach.writeRestore v) :=
  gives_byPath (f := fun m => m.writeRestore v) rfl hrun hserves

theorem gives_errorHistoryClear (v : Nat) : Gives (.errorHistoryClear path v) s (s.mach.writeHistory v) :=
  gives_byPath (f := fun m => m.writeHistory v) rfl hrun hserves

/-- The signature marks the store of every supervisor that lives (R421). -/
theorem restoreDefaults_marks : ∃ m, Gives (.restoreDefaults path 0x64616F6C) s m ∧ m = { s.mach with
      answer := ⟨0, []⟩
      flash := m.flash } ∧ (∀ x, x < 2 → m.flash.store x =
        if s.mach.alive x = true then { s.mach.flash.store x with restore := true } else s.mach.flash.store x) := by
  have hg := gives_restoreDefaults hrun hserves 0x64616F6C
  rw [Mach.writeRestore, if_pos rfl] at hg
  refine ⟨_, hg, rfl, fun x hx => ?_⟩
  rw [Mach.store_eachStore]
  simp only [hx, true_and]
  rfl

end

/-- Settles O50: a write is answered by the first refusal that applies, and a register or setting in range takes its value; the two command objects
take their one value. -/
theorem objectWrites : Obligations.ObjectWrites := by
  intro s path idx sub data hrun hserves f row u v answers w
  have hw := gives_objectWrite hrun hserves idx sub data
  have hfind : f.1 = 0 → objFind idx sub = (0, row, u) := fun h => by rw [← h]
  refine ⟨fun h => ?_, fun h hacc => ?_, fun h hconst hro hlen => ?_, fun h hconst hro hlen hreg => ?_,
    restoreDefaults_marks hrun hserves, fun n hn => ?_, ?_, fun n hn => ?_⟩
  · rwa [Mach.writeObj_missing h] at hw
  · rwa [Mach.writeObj_readOnly (hfind h) hacc] at hw
  · rwa [Mach.writeObj_length (hfind h) hconst hro hlen] at hw
  · intro wrong kept
    refine ⟨fun hwrong => ?_, fun hgood hidle => ?_, fun hgood htakes hselect => ⟨fun hacc => ?_, fun hacc => ⟨?_, ?_⟩⟩⟩
    · rwa [Mach.writeObj_register (hfind h) hconst hro hlen hreg, if_pos hwrong] at hw
    · rw [Mach.writeObj_register (hfind h) hconst hro hlen hreg, if_neg (by rw [Bool.not_eq_true]; exact hgood), hidle] at hw
      exact hw
    · rw [Mach.writeObj_stores (hfind h) hconst hro hlen hreg hgood htakes, Mach.storeObj_register hselect hacc] at hw
      exact ⟨_, hw, rfl, Mach.obj_setObj_same .., SameObjs.setObj s.mach _ _ _ (by simp)⟩
    · have hg := gives_rwpWrite hrun hserves (hfind h) hacc data true
      rw [Mach.writeObj_stores (hfind h) hconst hro hlen hreg hgood htakes, Mach.storeObj_setting hselect hacc] at hg
      exact ⟨_, hg, rfl, by rw [Mach.obj_reply, Mach.obj_setObj_same], Mach.setting_sameObjs s.mach _ _ _ _, rfl, rfl, rfl⟩
    · have hg := gives_rwpWrite hrun hserves (hfind h) hacc data false
      rwa [Mach.writeObj_stores (hfind h) hconst hro hlen hreg hgood htakes, Mach.storeObj_uncommitted hacc] at hg
  · have hg := gives_restoreDefaults hrun hserves n
    rwa [Mach.writeRestore, if_neg hn] at hg
  · obtain ⟨honly, hzero, hsame⟩ := s.mach.clearHistory_effect
    have hg := gives_errorHistoryClear hrun hserves 0
    rw [Mach.writeHistory, if_pos rfl] at hg
    exact ⟨_, hg, rfl, fun i hi => (Mach.obj_reply ..).trans (hzero i hi), SameObjs.trans hsame (SameObjs.of_objs _ rfl)⟩
  · have hg := gives_errorHistoryClear hrun hserves n
    rwa [Mach.writeHistory, if_neg hn] at hg

end Sys2Proof.Machine
end

section
/-! SUPPORT. Proofs: the mailbox of a host port (R424, R437, Table 15-12). -/

namespace Sys2Proof.Machine

/-! ## The doorbell -/

@[simp] theorem Mach.host_setHost_same (m : Mach) (x : Nat) (h : Port) : (m.setHost x h).host x = h := by simp [Mach.host_setHost]

theorem Mach.host_setHost_other (m : Mach) {x y : Nat} (hne : x ≠ y) (h : Port) : (m.setHost x h).host y = m.host y := by
  rw [Mach.host_setHost, if_neg hne]


section
variable {m : Mach} {port : Nat} {q : MbReq} {f : Mach → Mach} (hport : port < 2) (hup : (m.host port).up = true)
include hport hup

theorem Mach.doorbell_eq : m.doorbell port f =
    if (m.host port).busy then m.setHost port { m.host port with overrun := true }
    else if !m.online then m.setHost port { m.host port with busy := true }
    else f m := by
  have hthere : ¬ ((port > 1 || !(m.host port).up : Bool) = true) := by simp [hup, Nat.le_of_lt_succ hport]
  exact if_neg hthere

theorem Mach.doorbell_busy (hbusy : (m.host port).busy = true) : m.doorbell port f = m.setHost port { m.host port with overrun := true } := by
  rw [Mach.doorbell_eq hport hup, if_pos hbusy]

theorem Mach.doorbell_lost (hbusy : (m.host port).busy = false) (hoff : m.online = false) :
    m.doorbell port f = m.setHost port { m.host port with busy := true } := by
  rw [Mach.doorbell_eq hport hup, hbusy, hoff]
  rfl

theorem Mach.doorbell_taken (hbusy : (m.host port).busy = false) (hon : m.online = true) : m.doorbell port f = f m := by
  rw [Mach.doorbell_eq hport hup, hbusy, hon]
  rfl

end

/-! ## The request -/

/-- What a request that is taken does, by its CMD. -/
def Mach.mbTaken (m : Mach) (port : Nat) (q : MbReq) : Mach :=
  if q.cmd = 2 then m.mbWrite port q else if q.cmd = 1 then m.mbRead port q else m.mbAnswer port q abortSpecifier 0 []

section
variable {m : Mach} {port : Nat} {q : MbReq}

theorem Mach.mbTaken_write (h : q.cmd = 2) : m.mbTaken port q = m.mbWrite port q := if_pos h
theorem Mach.mbTaken_read (h : q.cmd = 1) : m.mbTaken port q = m.mbRead port q := (if_neg (by rw [h]; decide)).trans (if_pos h)
theorem Mach.mbTaken_other (h1 : q.cmd ≠ 1) (h2 : q.cmd ≠ 2) : m.mbTaken port q = m.mbAnswer port q abortSpecifier 0 [] :=
  (if_neg h2).trans (if_neg h1)

end

/-- The row of a request rings the doorbell with it. -/
theorem gives_mailbox {s : State} (hrun : s.mach.phase = .running) (port : Nat) (q : MbReq) :
    Gives (if q.cmd = 2 then .mailboxWrite port q else .mailboxRead port q) s (s.mach.doorbell port (fun m => m.mbTaken port q)) := by
  by_cases hcmd : q.cmd = 2
  · have hg := gives_step (.mailboxWrite port q) s (fun m => if q.cmd ≠ 2 then m else m.doorbell port (fun m => m.mbWrite port q)) rfl hrun
    simp only [Mach.mbTaken, if_pos hcmd]
    rwa [if_neg (not_not.mpr hcmd)] at hg
  · have hg := gives_step (.mailboxRead port q) s (fun m => if q.cmd = 2 then m else
      m.doorbell port (fun m => if q.cmd = 1 then m.mbRead port q else m.mbAnswer port q abortSpecifier 0 [])) rfl hrun
    simp only [Mach.mbTaken, if_neg hcmd]
    rwa [if_neg hcmd] at hg

section
variable (m : Mach) (port : Nat) (q : MbReq)

/-- A response carries its answer and the SEQ of its command, and leaves what the host does not see. -/
theorem Mach.mbAnswer_effect (abort total : Nat) (data : List Byte) :
    ((m.mbAnswer port q abort total data).host port).doneSeq = q.seq % 65536 ∧
    ((m.mbAnswer port q abort total data).host port).resp = ⟨abort, total, q.seq % 65536, data⟩ ∧
    (m.mbAnswer port q abort total data).answer = ⟨abort, data⟩ ∧
    ((m.mbAnswer port q abort total data).host port).latch = (m.host port).latch ∧
    m.mbAnswer port q abort total data = { m with
      hosts := (m.mbAnswer port q abort total data).hosts
      answer := ⟨abort, data⟩ } := by
  have hport : (m.mbAnswer port q abort total data).host port = { m.host port with
      doneSeq := q.seq % 65536
      resp := ⟨abort, total, q.seq % 65536, data⟩ } := AMap.get_put_same ..
  rw [hport]
  exact ⟨rfl, rfl, rfl, rfl, rfl⟩

/-- A latch may ungate an island's clock: nothing else (R423). -/
theorem Mach.latch_only (r : ObjRow) (u : Nat) : m.latch r u = { m with islands := (m.latch r u).islands } := by
  unfold Mach.latch
  split
  · split <;> rfl
  · rfl

/-- The module after a read of an object (R71, R422). -/
def Mach.readTaken (r : ObjRow) (u sub : Nat) : Mach :=
  let x := { m.latch r u with free := m.free + 1 }
  if r.base = 0x6100 && sub = 8 && x.pstate u ≠ 0 then x.readSelected u else x

/-- A read leaves the register file and the memory. -/
theorem Mach.readTaken_keeps (r : ObjRow) (u sub : Nat) : (m.readTaken r u sub).objs = m.objs ∧ (m.readTaken r u sub).mem = m.mem := by
  have hlatched : ∀ x : Mach, x = { m.latch r u with free := m.free + 1 } → x.objs = m.objs ∧ x.mem = m.mem := by
    rintro x rfl
    rw [Mach.latch_only]
    exact ⟨rfl, rfl⟩
  unfold Mach.readTaken
  generalize hx : ({ m.latch r u with free := m.free + 1 } : Mach) = x
  obtain ⟨-, hmem, hobjs, -⟩ := x.readSelected_effect u
  dsimp only
  split
  · rw [hobjs, hmem]
    exact hlatched x hx.symm
  · exact hlatched x hx.symm

variable {m q}

theorem Mach.readObj_found {idx sub u : Nat} {row : ObjRow} (hfind : objFind idx sub = (0, row, u)) (hacc : row.acc ≠ .wo) :
    m.readObj idx sub = (0, leBytes row.size (m.live idx row u), m.readTaken row u sub) := by
  simp only [Mach.readObj, hfind, if_neg hacc]
  rfl

/-! ## Reads and writes of a whole value or a part -/

variable {port : Nat}

theorem Mach.mbRead_missing (h : (objFind q.idx q.sub).1 ≠ 0) : m.mbRead port q = m.mbAnswer port q (objFind q.idx q.sub).1 0 [] := by
  unfold Mach.mbRead
  generalize objFind q.idx q.sub = f at h
  obtain ⟨_ | code, row, u⟩ := f
  · exact absurd rfl h
  · rfl

variable {u : Nat} {row : ObjRow} (hfind : objFind q.idx q.sub = (0, row, u))
include hfind

theorem Mach.mbRead_writeOnly (hacc : row.acc = .wo) : m.mbRead port q = m.mbAnswer port q abortWriteOnly 0 [] := by
  simp only [Mach.mbRead, hfind, if_pos hacc]

/-- The module with the value of a read latched at the port. -/
def Mach.mbLatched (m : Mach) (port : Nat) (q : MbReq) (row : ObjRow) (u : Nat) : Mach :=
  let x := m.readTaken row u q.sub
  x.setHost port { x.host port with latch := some (q.idx, q.sub, leBytes row.size (m.live q.idx row u)) }

/-- A read from the start answers the value, which is latched. -/
theorem Mach.mbRead_whole (hacc : row.acc ≠ .wo) (hseg : q.seg = 0) : m.mbRead port q = (m.mbLatched port q row u).mbAnswer port q 0 row.size
    ((leBytes row.size (m.live q.idx row u)).take 4080) := by
  simp only [Mach.mbRead, hfind, if_neg hacc, if_pos hseg, Mach.readObj_found hfind hacc, length_leBytes]
  rfl

/-- A later part comes from the latch. -/
theorem Mach.mbRead_part {bs : List Byte} (hacc : row.acc ≠ .wo) (hty : row.ty = .domain) (hseg : 0 < q.seg) (hin : q.seg < bs.length)
    (hlatch : (m.host port).latch = some (q.idx, q.sub, bs)) :
    m.mbRead port q = m.mbAnswer port q 0 bs.length ((bs.drop q.seg).take 4080) := by
  simp only [Mach.mbRead, hfind, if_neg hacc, if_neg (Nat.pos_iff_ne_zero.mp hseg), hty, hlatch]
  rw [if_neg (by simp), if_neg (by simp), if_neg (Nat.not_le.mpr hin)]

/-- A whole value is written as the dictionary writes it. -/
theorem Mach.mbWrite_whole (hconst : row.acc ≠ .const) (hro : row.acc ≠ .ro) (hty : row.ty ≠ .domain) (hseg : q.seg = 0)
    (hlen : q.len = row.size) (hpos : 0 < q.len) (hmax : q.len ≤ 4080) : m.mbWrite port q = m.mbApply port q (padTo q.len q.data) := by
  simp only [Mach.mbWrite, hfind]
  rw [if_neg (by simp [hconst, hro]), if_neg (by simp [Nat.pos_iff_ne_zero.mp hpos, hmax]), if_pos hty, if_neg (not_not.mpr hlen),
    if_neg (not_not.mpr hseg)]

end

/-! ## The rows -/

/-- A response as the statement asks for it. -/
def MbTells (c : Instr) (s : State) (port : Nat) (q : MbReq) (m : Mach) (abort total : Nat) (data : List Byte) : Prop :=
  Gives c s m ∧ (m.host port).doneSeq = q.seq % 65536 ∧ (m.host port).resp = ⟨abort, total, q.seq % 65536, data⟩ ∧ m.answer = ⟨abort, data⟩

/-- A command whose outcome is an answer tells it, over the module it answers for. -/
theorem MbTells.of_answer {c : Instr} {s : State} {port : Nat} {q : MbReq} {x : Mach} {abort total : Nat} {data : List Byte}
    (hg : Gives c s (x.mbAnswer port q abort total data)) : ∃ m, MbTells c s port q m abort total data ∧ m.objs = x.objs ∧ m.mem = x.mem ∧
      m.flash = x.flash ∧ m.jobs = x.jobs ∧ (m.host port).latch = (x.host port).latch := by
  obtain ⟨hseq, hresp, hanswer, hlatch, hfields⟩ := x.mbAnswer_effect port q abort total data
  refine ⟨_, ⟨hg, hseq, hresp, hanswer⟩, ?_, ?_, ?_, ?_, hlatch⟩ <;> rw [hfields]

/-- Settles O51: the doorbell takes a request when it is free and served, and the response answers it with its SEQ. -/
theorem mailboxes : Obligations.Mailboxes := by
  intro s port q hrun hport hup x row f tells
  have hg := gives_mailbox hrun port q
  have hfind : f.1 = 0 → objFind q.idx q.sub = (0, f.2.1, f.2.2) := fun h => by rw [← h]
  refine ⟨fun hbusy => ?_, fun hbusy hoff => ?_, fun hbusy hon => ?_⟩
  · rwa [Mach.doorbell_busy hport hup hbusy] at hg
  · rwa [Mach.doorbell_lost hport hup hbusy hoff] at hg
  · rw [Mach.doorbell_taken hport hup hbusy hon] at hg
    refine ⟨fun h1 h2 => ?_, fun h1 h => ?_, fun h1 h hacc => ?_, fun h1 h hacc hseg => ?_, fun bs h1 h hacc hty hseg hin hlatch => ?_,
      fun h2 h hconst hro hty hseg hlen hpos hmax => ?_⟩
    · rw [Mach.mbTaken_other h1 h2] at hg
      obtain ⟨m, htells, hobjs, -⟩ := MbTells.of_answer hg
      exact ⟨m, htells, hobjs⟩
    · rw [Mach.mbTaken_read h1, Mach.mbRead_missing h] at hg
      obtain ⟨m, htells, hobjs, -⟩ := MbTells.of_answer hg
      exact ⟨m, htells, hobjs⟩
    · rw [Mach.mbTaken_read h1, Mach.mbRead_writeOnly (hfind h) hacc] at hg
      obtain ⟨m, htells, hobjs, -⟩ := MbTells.of_answer hg
      exact ⟨m, htells, hobjs⟩
    · rw [Mach.mbTaken_read h1, Mach.mbRead_whole (hfind h) hacc hseg] at hg
      obtain ⟨m, htells, hobjs, hmem, -, -, hlatch⟩ := MbTells.of_answer hg
      obtain ⟨hobjs', hmem'⟩ := s.mach.readTaken_keeps f.2.1 f.2.2 q.sub
      exact ⟨m, htells, hlatch.trans (by rw [Mach.mbLatched, Mach.host_setHost_same]), hobjs.trans hobjs', hmem.trans hmem'⟩
    · rw [Mach.mbTaken_read h1, Mach.mbRead_part (hfind h) hacc hty hseg hin hlatch] at hg
      obtain ⟨m, htells, hobjs, -⟩ := MbTells.of_answer hg
      exact ⟨m, htells, hobjs⟩
    · rw [Mach.mbTaken_write h2, Mach.mbWrite_whole (hfind h) hconst hro hty hseg hlen hpos hmax, Mach.mbApply] at hg
      obtain ⟨m, htells, hobjs, hmem, hflash, hjobs, -⟩ := MbTells.of_answer hg
      exact ⟨m, htells, hobjs, hflash, hmem, hjobs⟩

end Sys2Proof.Machine
end

section
/-! SUPPORT. Proofs: the count of a BAR2 write in a state whose counter lies above its top (R319). -/

namespace Sys2Proof.Machine

/-- A module after reset whose count of uncorrectable reads of stack 0, 4100h.04, stands at 2^64, one above the top at which counters stop. -/
def overCounted : State := { State.reset with
  mach := { State.reset.mach with objs := (okey 0x4100 4, 2 ^ 64) :: resetObjs } }

/-- A write of one byte at the start of the BAR2 window. -/
def firstByteWrite : BarAcc := ⟨true, false, 0, 1, []⟩

/-- The byte lies in stack 0, which is in service, and no half of it is bad. -/
theorem overCounted_takes : overCounted.mach.unsupported 0 firstByteWrite = false ∧ overCounted.mach.stackState 0 = 1 ∧
    (halves 0 (padTo 1 [])).any (fun w => (overCounted.mach.badWrite [w]).isSome) = false := by decide

/-- With no bad half nothing is counted, and the counter stays where it is. -/
theorem overCounted_kept : (doBar2 0 firstByteWrite overCounted.mach).obj 0x4100 4 = 2 ^ 64 := by decide

/-- An access in service has one effect, that of `doBar2`. -/
theorem eq_doBar2_of_gives {s : State} {m : Mach} {x : Nat} {a : BarAcc} (hrun : s.mach.phase = .running) (h : Gives (.bar2Access x a) s m) :
    m = doBar2 x a s.mach := by
  have he := gives_step (.bar2Access x a) s (doBar2 x a) rfl hrun
  unfold Gives at h he
  rw [he] at h
  simpa using h.symm

/-- Refutes O53: from `overCounted` the write of one byte without a bad half leaves 4100h.04 at 2^64, and the clause on BAR2 writes asks for
min (2^64 + 0) (2^64 - 1). -/
theorem not_hostPorts : ¬ Obligations.HostPorts := by
  unfold Obligations.HostPorts
  intro h
  obtain ⟨hup, -⟩ := h.2 overCounted 0 rfl (by decide)
  obtain ⟨htakes, hstack, hgood⟩ := overCounted_takes
  obtain ⟨-, -, -, -, hwrite, -⟩ := (hup (by decide)).1 firstByteWrite
  obtain ⟨m, hm, -, -, hcount⟩ := hwrite htakes rfl rfl (by decide)
  have hkept := hcount (by decide) (by decide)
  rw [eq_doBar2_of_gives rfl hm] at hkept
  have hmin : (doBar2 0 firstByteWrite overCounted.mach).obj 0x4100 4 = 2 ^ 64 - 1 := hkept.trans (by decide)
  rw [overCounted_kept] at hmin
  exact absurd hmin (by decide)

end Sys2Proof.Machine
end

section
/-! SUPPORT. Proofs: what every step of a cast-on keeps, and how a cast-on ends (R448, R514 to R516, R521, R526). -/

namespace Sys2Proof.Machine

/-! ## The history a cast-on keeps: jobs, rc, phase, the supervisors that live and the cast-ons counted -/

/-- The jobs, the rc counter, the phase, the lost supervisors and the cast-ons that each store has counted. -/
def Mach.history (m : Mach) : List Job × Nat × Phase × List Nat × (Nat → Nat) :=
  (m.jobs, m.rc, m.phase, m.supLost, fun x => (m.flash.store x).castOns)

theorem Mach.history_eq {m m' : Mach} (h : m'.history = m.history) : m'.jobs = m.jobs ∧ m'.rc = m.rc ∧ m'.phase = m.phase ∧
    m'.supLost = m.supLost ∧ ∀ x, (m'.flash.store x).castOns = (m.flash.store x).castOns := by
  simp only [Mach.history, Prod.mk.injEq] at h
  obtain ⟨hjobs, hrc, hphase, hlost, hons⟩ := h
  exact ⟨hjobs, hrc, hphase, hlost, congrFun hons⟩

@[simp] theorem Mach.history_ite (c : Prop) [Decidable c] (a b : Mach) : (if c then a else b).history = if c then a.history else b.history :=
  apply_ite _ _ _ _

theorem Mach.foldl_history {α : Type} {f : Mach → α → Mach} (hf : ∀ m a, (f m a).history = m.history) (l : List α) (m : Mach) :
    (l.foldl f m).history = m.history :=
  Mach.foldl_same Mach.history hf l m

theorem AlarmsOnly.history {m m' : Mach} (h : AlarmsOnly m m') : m'.history = m.history := by
  rw [h.fields]
  rfl

/-- Stores rewritten each with the cast-ons it had keep the history. -/
theorem Mach.eachStore_history (m : Mach) {f : Nat → Store → Store} (hf : ∀ s x, (f s x).castOns = x.castOns) :
    (m.eachStore f).history = m.history := by
  have hons : (fun x => ((m.eachStore f).flash.store x).castOns) = fun x => (m.flash.store x).castOns := by
    funext x
    rw [Mach.store_eachStore]
    split
    · exact hf _ _
    · rfl
  simp only [Mach.history, hons]
  rw [Mach.eachStore_only]

theorem Store.enter_castOns (x : Store) (e : RepEntry) : (x.enter e).castOns = x.castOns := by
  unfold Store.enter
  split <;> rfl

section
variable (m : Mach)

@[simp] theorem Mach.setObj_history (i a v : Nat) : (m.setObj i a v).history = m.history := rfl
@[simp] theorem Mach.addObj_history (i a n : Nat) : (m.addObj i a n).history = m.history := rfl
@[simp] theorem Mach.addObj32_history (i a n : Nat) : (m.addObj32 i a n).history = m.history := rfl
@[simp] theorem Mach.setField_history (i a hi lo v : Nat) : (m.setField i a hi lo v).history = m.history := rfl
@[simp] theorem Mach.setBit_history (i a n : Nat) (b : Bool) : (m.setBit i a n b).history = m.history := rfl
@[simp] theorem Mach.emit_history (o : Out) : (m.emit o).history = m.history := rfl
@[simp] theorem Mach.setLrt_history (l : Nat) (r : LinkRt) : (m.setLrt l r).history = m.history := rfl
@[simp] theorem Mach.setLinkState_history (l st : Nat) : (m.setLinkState l st).history = m.history := rfl
@[simp] theorem Mach.setStackState_history (s st : Nat) : (m.setStackState s st).history = m.history := rfl
@[simp] theorem Mach.setSrt_history (s : Nat) (x : StackRt) : (m.setSrt s x).history = m.history := rfl
@[simp] theorem Mach.setIsland_history (i : Nat) (x : Island) : (m.setIsland i x).history = m.history := rfl
@[simp] theorem Mach.setCore_history (c : Nat) (x : Core) : (m.setCore c x).history = m.history := rfl
@[simp] theorem Mach.setMed_history (e : Nat) (x : MedEng) : (m.setMed e x).history = m.history := rfl
@[simp] theorem Mach.setSup_history (s : Nat) (x : SupFlash) : (m.setSup s x).history = m.history := rfl
@[simp] theorem Mach.rowLost_history (s row : Nat) : (m.rowLost s row).history = m.history := rfl
@[simp] theorem Mach.showSup_history (s : Nat) : (m.showSup s).history = m.history := rfl
@[simp] theorem Mach.setNmt_history (st : Nat) : (m.setNmt st).history = m.history := rfl

@[simp] theorem Mach.setRows_history (s : Nat) (r : RowStore) : (m.setRows s r).history = m.history := m.eachStore_history fun _ _ => rfl
@[simp] theorem Mach.logFault_history (bs : List Byte) : (m.logFault bs).history = m.history := m.eachStore_history fun _ _ => rfl
@[simp] theorem Mach.repair_history (level die clus unit code : Nat) : (m.repair level die clus unit code).history = m.history :=
  m.eachStore_history fun _ _ => Store.enter_castOns ..
@[simp] theorem Mach.castBad_history (level die clus unit : Nat) (loc : Option (Nat × Nat × Nat)) :
    (m.castBad level die clus unit loc).history = m.history := by simp [Mach.castBad]
@[simp] theorem Mach.candidate_history (s row : Nat) : (m.candidate s row).history = m.history := by simp [Mach.candidate]

@[simp] theorem Mach.stackOff_history (s reason : Nat) : (m.stackOff s reason).history = m.history := by
  unfold Mach.stackOff
  split <;> rfl

@[simp] theorem Mach.castLose_history (s reason : Nat) : (m.castLose s reason).history = m.history := by simp [Mach.castLose]

@[simp] theorem Mach.bootSup_history (s : Nat) : (m.bootSup s).history = m.history := by
  unfold Mach.bootSup
  rfl

@[simp] theorem Mach.bootOther_history (s : Nat) : (m.bootOther s).history = m.history := rfl

@[simp] theorem Mach.replacement_history (reason : Nat) : (m.replacement reason).history = m.history := by
  unfold Mach.replacement
  extract_lets asked
  have hasked : asked.history = m.history := rfl
  clear_value asked
  split
  · rfl
  · split
    · exact (AlarmsOnly.health asked).history.trans hasked
    · exact (AlarmsOnly.emcySet asked .replacement 0).history.trans hasked

@[simp] theorem Mach.replan_history : m.replan.history = m.history := by
  unfold Mach.replan
  extract_lets +onlyGivenNames x fixed m₁ m₂ m₃ m₄ m₅
  have h₁ : m₁.history = m.history := by
    refine Mach.foldl_history (fun a k => ?_) _ _
    rfl
  clear_value m₁
  have h₂ : m₂.history = m₁.history := by
    refine Mach.foldl_history (fun a k => ?_) _ _
    rfl
  clear_value m₂
  have h₃ : m₃.history = m₂.history := by
    refine Mach.foldl_history (fun a k => ?_) _ _
    rfl
  clear_value m₃
  have h₅ : m₅.history = m.history := (show m₅.history = m₃.history from rfl).trans (h₃.trans (h₂.trans h₁))
  clear_value m₅
  split
  · exact (m₅.replacement_history 3).trans h₅
  · exact h₅

@[simp] theorem Mach.bootUp_history : m.bootUp.history = m.history := by
  unfold Mach.bootUp
  split
  · rfl
  · exact (AlarmsOnly.sendEmcy _).history

@[simp] theorem Mach.autostart_history : m.autostart.history = m.history := by simp [Mach.autostart]

/-! ## Links -/

@[simp] theorem Mach.pump_history (l fuel : Nat) : (m.pump l fuel).history = m.history := by
  induction fuel generalizing m with
  | zero => rfl
  | succ fuel ih =>
    unfold Mach.pump
    split
    · rfl
    · split
      · rfl
      · simp [ih]

@[simp] theorem Mach.failLink_history (l reason : Nat) : (m.failLink l reason).history = m.history := rfl

/-- A link with nothing queued has nothing to stop as it resumes. -/
theorem Mach.resumeLink_history {l : Nat} (h : (m.lrt l).queue = []) : (m.resumeLink l).history = m.history := by
  unfold Mach.resumeLink
  simp only [h, List.filter_nil, List.foldl_nil, Mach.setLrt_history]
  exact Mach.foldl_history (fun _ _ => by simp) _ m

/-- A link with nothing queued stops no message as its training ends (R292). -/
theorem Mach.finishTraining_history {l : Nat} (h : (m.lrt l).queue = []) (env : LinkEnv) : (m.finishTraining l env).history = m.history := by
  unfold Mach.finishTraining
  extract_lets +onlyGivenNames ver lat ident r changed st m₁ m₂
  have h₁ : m₁.history = m.history := rfl
  clear_value m₁
  have h₂ : m₂.history = m₁.history := by
    have hqueue : ((m₁.setLrt l { r with keep := false, ident := some ident, probes := [], hellos := [] }).lrt l).queue = [] := by
      rw [Mach.lrt_setLrt, if_pos rfl]
      exact h
    exact (Mach.pump_history ..).trans (Mach.resumeLink_history _ hqueue)
  clear_value m₂
  split
  · rfl
  · split
    · rfl
    · split
      · rfl
      · split
        · exact (AlarmsOnly.health m₂).history.trans (h₂.trans h₁)
        · exact h₂.trans h₁

end

/-! ## The steps of cast-on -/

section
variable (m : Mach) (e : CastEnv)

@[simp] theorem Mach.castDies_history : (m.castDies e).history = m.history := by
  unfold Mach.castDies
  extract_lets +onlyGivenNames known m₁ dead m₂ off
  have h₁ : m₁.history = m.history := Mach.foldl_history (fun _ _ => by simp) _ _
  clear_value m₁
  have h₂ : m₂.history = m₁.history := Mach.foldl_history (fun _ _ => by simp) _ _
  clear_value m₂
  refine (Mach.foldl_history (fun a d => ?_) _ _).trans (Eq.trans (b := m₂.history) rfl (h₂.trans h₁))
  extract_lets +onlyGivenNames a₁ a₂ a₃ a₄
  have ha₁ : a₁.history = a.history := rfl
  clear_value a₁
  have ha₂ : a₂.history = a₁.history := Mach.foldl_history (fun _ _ => by simp) _ _
  clear_value a₂
  have ha₃ : a₃.history = a₂.history := Mach.foldl_history (fun _ _ => by simp) _ _
  clear_value a₃
  have ha₄ : a₄.history = a₃.history := rfl
  exact (Mach.setIsland_history ..).trans (ha₄.trans (ha₃.trans (ha₂.trans ha₁)))

@[simp] theorem Mach.hardRepair_history (s : Nat) : (m.hardRepair s).history = m.history :=
  Mach.foldl_history (fun _ _ => by simp) _ _

@[simp] theorem Mach.castStacks_history : (m.castStacks e).history = m.history := by
  unfold Mach.castStacks
  rw [Mach.foldl_history, Mach.foldl_history, Mach.foldl_history]
  · simp
  · simp
  · simp

@[simp] theorem Mach.castCores_history : (m.castCores e).history = m.history := by
  unfold Mach.castCores
  extract_lets +onlyGivenNames m₁ m₂
  have h₁ : m₁.history = m.history := Mach.foldl_history (fun _ _ => by simp) _ _
  have h₂ : m₂.history = m₁.history := Mach.foldl_history (fun _ _ => by simp) _ _
  clear_value m₂
  refine (Mach.foldl_history (fun a g => ?_) _ _).trans (h₂.trans h₁)
  split
  · rfl
  · extract_lets +onlyGivenNames dead low off
    clear_value low
    split
    · rfl
    · split
      · exact Eq.trans (b := (a.repair 2 (g / 16) (g % 16) 0 0).history) rfl (Mach.repair_history ..)
      · split <;> rfl

@[simp] theorem Mach.castMemories_history : (m.castMemories e).history = m.history := by
  unfold Mach.castMemories
  rw [Mach.foldl_history, Mach.foldl_history, Mach.foldl_history]
  · simp
  · simp
  · simp

@[simp] theorem Mach.castLinks_history : (m.castLinks e).history = m.history := by
  unfold Mach.castLinks
  refine (Mach.foldl_history (fun a l => ?_) _ _).trans rfl
  have hqueue : ((a.trainLink l).lrt l).queue = [] := by
    rw [Mach.trainLink, Mach.lrt_setLrt, if_pos rfl]
    rfl
  split
  · rfl
  · exact (Mach.setLrt_history ..).trans ((Mach.finishTraining_history _ hqueue _).trans rfl)

@[simp] theorem Mach.castPorts_history : (m.castPorts e).history = m.history := rfl

/-- The last step puts the module into service and keeps the rest of its history. -/
theorem Mach.castService_history : m.castService.history = ({ m with phase := .running } : Mach).history := by
  unfold Mach.castService
  extract_lets +onlyGivenNames src m₁ m₂
  have h₂ : m₂.history = ({ m with phase := .running } : Mach).history := by
    have h₁ : m₁.history = ({ m with phase := .running } : Mach).history := rfl
    clear_value m₁
    simp only [m₂, Mach.history_ite, Mach.autostart_history, Mach.bootUp_history, Mach.replan_history, h₁, ite_self]
  clear_value m₂
  split
  · exact h₂
  · rw [Mach.replacement_history, Mach.foldl_history, h₂]
    simp

/-- With a lock the masters leave the history as it is. -/
theorem Mach.castMasters_locked (h : e.maLock = true ∨ e.mbLock = true) : (m.castMasters e).history = m.history := by
  have hnone : ¬ ((!e.maLock && !e.mbLock) = true) := by
    obtain h | h := h <;> simp [h]
  unfold Mach.castMasters
  extract_lets +onlyGivenNames m₁ src
  have h₁ : m₁.history = m.history := rfl
  clear_value m₁
  rw [if_neg hnone]
  split
  · exact h₁
  · exact (Mach.foldl_history (fun _ _ => by simp) _ _).trans h₁

/-- Without a lock the masters halt cast-on at step 4. -/
theorem Mach.castMasters_unlocked (h : ¬ (e.maLock = true ∨ e.mbLock = true)) :
    (m.castMasters e).history = ({ m with phase := .halted 4 } : Mach).history := by
  have hnone : (!e.maLock && !e.mbLock) = true := by
    obtain ⟨ha, hb⟩ := not_or.mp h
    simp [ha, hb]
  unfold Mach.castMasters
  extract_lets +onlyGivenNames m₁ src
  rw [if_pos hnone]
  rfl

/-- Steps 4 to 11 from rc 0: into service with a lock, halted at step 4 without one. -/
theorem Mach.castRest_history (hwait : m.phase = .waiting) : (m.castRest e).history = ({ m with
    rc := 0
    phase := if e.maLock = true ∨ e.mbLock = true then .running else .halted 4 } : Mach).history := by
  have hon : (m.castRest e).history = if ({ m with rc := 0 }.castMasters e).phase ≠ .waiting then ({ m with rc := 0 }.castMasters e).history
      else ({ ({ m with rc := 0 }.castMasters e) with phase := .running } : Mach).history := by
    unfold Mach.castRest
    generalize ({ m with rc := 0 } : Mach).castMasters e = m₁
    dsimp only
    split
    · rfl
    · have hsteps : ((((((m₁.castDies e).castStacks e).castCores e).castMemories e).castLinks e).castPorts e).history = m₁.history := by simp
      rw [Mach.castService_history]
      obtain ⟨hjobs, hrc, -, hlost, hons⟩ := Mach.history_eq hsteps
      simp only [Mach.history, hjobs, hrc, hlost, hons]
  rw [hon]
  by_cases hlock : e.maLock = true ∨ e.mbLock = true
  · obtain ⟨hjobs, hrc, hphase, hlost, hons⟩ := Mach.history_eq (({ m with rc := 0 } : Mach).castMasters_locked e hlock)
    rw [if_neg (not_not.mpr (hphase.trans hwait)), if_pos hlock]
    simp only [Mach.history, hjobs, hrc, hlost, hons]
  · have hhalt := ({ m with rc := 0 } : Mach).castMasters_unlocked e hlock
    have hphase : (({ m with rc := 0 } : Mach).castMasters e).phase = .halted 4 := (Mach.history_eq hhalt).2.2.1
    rw [if_pos (by rw [hphase]; decide), if_neg hlock, hhalt]

end

/-! ## Step 2: the stores are read and the cast-on is counted -/

/-- The most cast-ons that a store of the listed supervisors has counted. -/
def mostCastOns (f : Flash) (live : List Nat) : Nat := (live.map (fun x => (f.store x).castOns)).foldl max 0

/-- A greatest value of a list is one of it, or the value it starts from. -/
theorem foldl_max_mem (l : List Nat) (a : Nat) : l.foldl max a = a ∨ l.foldl max a ∈ l := by
  induction l generalizing a with
  | nil => exact .inl rfl
  | cons x xs ih =>
    obtain h | h := ih (max a x)
    · obtain hx | hx := max_choice a x
      · exact .inl (h.trans hx)
      · exact .inr (List.mem_cons.mpr (.inl (h.trans hx)))
    · exact .inr (List.mem_cons_of_mem _ h)

/-- A list that holds something holds its greatest value. -/
theorem foldl_max_zero_mem {l : List Nat} (h : l ≠ []) : l.foldl max 0 ∈ l := by
  obtain hzero | hmem := foldl_max_mem l 0
  · obtain ⟨x, hx⟩ := List.exists_mem_of_ne_nil l h
    have hle : x ≤ l.foldl max 0 := (le_foldl_max id l 0).2 x hx
    rw [hzero] at hle ⊢
    exact Nat.le_zero.mp hle ▸ hx
  · exact hmem

/-- Every store of a supervisor that lives counts one cast-on more than the one that has seen most (R523). -/
theorem Mach.joinStores_castOns (m : Mach) {x : Nat} (hx : x < 2) (hlive : m.alive x = true) :
    (m.joinStores.flash.store x).castOns = mostCastOns m.flash ([0, 1].filter m.alive) + 1 := by
  have hmem : x ∈ [0, 1].filter m.alive := by
    rw [List.mem_filter]
    exact ⟨by simp only [List.mem_cons, List.not_mem_nil, or_false]; omega, hlive⟩
  have hmost : mostCastOns m.flash ([0, 1].filter m.alive) = ((([0, 1].filter m.alive).map m.flash.store).map Store.castOns).foldl max 0 := by
    rw [List.map_map]
    rfl
  have hseen : (((([0, 1].filter m.alive).map m.flash.store).map Store.castOns).foldl max 0) ∈
      (([0, 1].filter m.alive).map m.flash.store).map Store.castOns := by
    refine foldl_max_zero_mem fun h => ?_
    rw [List.map_eq_nil_iff, List.map_eq_nil_iff] at h
    rw [h] at hmem
    exact List.not_mem_nil hmem
  obtain ⟨y, hy, hyons⟩ := List.mem_map.mp hseen
  rw [hmost]
  unfold Mach.joinStores
  dsimp only
  split
  · next hnone => exact absurd hyons (by simpa using List.find?_eq_none.mp hnone y hy)
  · rw [Mach.store_eachStore, if_pos ⟨hx, hlive⟩]

theorem Mach.joinStores_only (m : Mach) : m.joinStores = { m with flash := m.joinStores.flash } := by
  unfold Mach.joinStores
  dsimp only
  split
  · rfl
  · rw [Mach.eachStore_only]

/-- The supervisors that live at a cast-on. -/
def livingAt (e : CastEnv) : List Nat := [0, 1].filter (fun x => decide (x ∉ e.deadSup))

theorem mem_livingAt {e : CastEnv} {x : Nat} : x ∈ livingAt e ↔ x < 2 ∧ x ∉ e.deadSup := by
  simp only [livingAt, List.mem_filter, List.mem_cons, List.not_mem_nil, or_false, decide_eq_true_eq]
  exact and_congr_left fun _ => by omega

/-- The supervisors that live once those found dead at cast-on are lost. -/
theorem filter_alive_lost (e : CastEnv) {m : Mach} (h : m.supLost = [0, 1].filter e.deadSup.contains) : [0, 1].filter m.alive = livingAt e := by
  refine List.filter_congr fun x hx => ?_
  rw [Mach.alive, h, Bool.eq_iff_iff]
  simp only [Bool.not_eq_true', List.contains_eq_mem, decide_eq_false_iff_not, decide_eq_true_eq, List.mem_filter, not_and]
  exact ⟨fun hall => hall hx, fun hno _ => hno⟩

/-- Step 2 keeps the jobs, counts the cast-on in every store that is read, and waits for REFCLK, or halts without a supervisor (R518, R521). -/
theorem Mach.castSup_effect (m : Mach) (e : CastEnv) : (m.castSup e).jobs = m.jobs ∧
    (m.castSup e).phase = (if (livingAt e).isEmpty then .halted 2 else .waiting) ∧
    ∀ x ∈ livingAt e, ((m.castSup e).flash.store x).castOns = mostCastOns m.flash (livingAt e) + 1 := by
  unfold Mach.castSup
  extract_lets +onlyGivenNames boot m₁ m₂ live m₃ m₄ m₅ sets m₆ m₇
  have hlost : m₂.supLost = [0, 1].filter e.deadSup.contains := rfl
  have hlive : live = livingAt e := filter_alive_lost e hlost
  have hflash : m₂.flash = m.flash := rfl
  have hjobs : m₂.jobs = m.jobs := rfl
  clear_value m₂
  have h₃ : m₃.jobs = m.jobs ∧ ∀ x ∈ livingAt e, (m₃.flash.store x).castOns = mostCastOns m.flash (livingAt e) + 1 := by
    refine ⟨(congrArg Mach.jobs (Mach.joinStores_only _)).trans hjobs, fun x hx => ?_⟩
    have halive : m₂.alive x = true := by
      rw [← filter_alive_lost e hlost] at hx
      exact (List.mem_filter.mp hx).2
    have hons := Mach.joinStores_castOns { m₂ with active := live.headD 0 } (mem_livingAt.mp hx).1 halive
    have hsame : [0, 1].filter (Mach.alive { m₂ with active := live.headD 0 }) = livingAt e := filter_alive_lost e hlost
    rw [hsame] at hons
    rw [← hflash]
    exact hons
  clear_value m₃
  have h₄ : m₄.history = m₃.history := by
    refine Mach.foldl_history (fun a s => ?_) _ _
    split
    · exact (Mach.showSup_history ..).trans (Mach.bootOther_history ..)
    · exact (Mach.showSup_history ..).trans (Mach.bootSup_history ..)
  clear_value m₄
  have h₅ : m₅.history = m₄.history := by
    have hstores := m₄.eachStore_history (f := fun _ x => if x.restore then { x with sets := [], restore := false } else x)
      fun _ x => by split <;> rfl
    simp only [m₅, Mach.history_ite, hstores, ite_self]
  clear_value m₅
  have h₆ : m₆.history = m₅.history := by
    refine Mach.foldl_history (fun a s => ?_) _ _
    rfl
  clear_value m₆
  have h₇ : m₇.history = m₆.history := rfl
  clear_value m₇
  obtain ⟨hjobs₇, -, -, -, hons⟩ := Mach.history_eq (h₇.trans (h₆.trans (h₅.trans h₄)))
  exact ⟨hjobs₇.trans h₃.1, by rw [← hlive], fun x hx => (hons x).trans (h₃.2 x hx)⟩

/-! ## A cast-on -/

theorem Mach.cleared_flash (m : Mach) (power : Bool) (ph : Phase) : (m.cleared power ph).flash = m.flash := by
  unfold Mach.cleared
  dsimp only
  split <;> rfl

theorem Mach.cleared_jobs (m : Mach) (power : Bool) (ph : Phase) : (m.cleared power ph).jobs = [] := by
  unfold Mach.cleared
  dsimp only
  split <;> rfl

theorem Mach.cleared_mem (m : Mach) (power : Bool) (ph : Phase) : (m.cleared power ph).mem = [] := by
  unfold Mach.cleared
  dsimp only
  split <;> rfl

theorem Mach.castOn_mem (m : Mach) (power : Bool) (e : CastEnv) : (m.castOn power e).mem = [] := by
  unfold Mach.castOn
  dsimp only
  split <;> simp [Mach.cleared_mem]

/-- The ways a cast-on ends: in service from rc 0, waiting for REFCLK, or halted at step 2 or 4 (R448, R521). -/
structure Mach.CastEnds (m m' : Mach) (e : CastEnv) : Prop where
  mem : m'.mem = []
  jobs : m'.jobs = []
  parts : m'.parts = []
  counted : ∀ x ∈ livingAt e, (m'.flash.store x).castOns = mostCastOns m.flash (livingAt e) + 1
  dead : livingAt e = [] → m'.phase = .halted 2
  waits : livingAt e ≠ [] → e.refclk = false → m'.phase = .waiting
  unlocked : livingAt e ≠ [] → e.refclk = true → ¬ (e.maLock = true ∨ e.mbLock = true) → m'.phase = .halted 4
  serves : livingAt e ≠ [] → e.refclk = true → e.maLock = true ∨ e.mbLock = true → m'.phase = .running ∧ m'.rc = 0

theorem Mach.castOn_ends (m : Mach) (power : Bool) (e : CastEnv) : m.CastEnds (m.castOn power e) e := by
  have hparts := m.castOn_parts power e
  have hmem := m.castOn_mem power e
  unfold Mach.castOn at hparts hmem ⊢
  extract_lets +onlyGivenNames cleared src started at hparts hmem ⊢
  obtain ⟨hjobs, hphase, hons⟩ : started.jobs = [] ∧ started.phase = (if (livingAt e).isEmpty then .halted 2 else .waiting) ∧
      ∀ x ∈ livingAt e, (started.flash.store x).castOns = mostCastOns m.flash (livingAt e) + 1 := by
    obtain ⟨hjobs, hphase, hons⟩ := Mach.castSup_effect { cleared with tap := { cleared.tap with pins := false } } e
    have hflash : cleared.flash = m.flash := m.cleared_flash power .waiting
    refine ⟨hjobs.trans (m.cleared_jobs power .waiting), hphase, fun x hx => ?_⟩
    rw [← hflash]
    exact hons x hx
  clear_value started
  by_cases hdead : livingAt e = []
  · have hhalt : started.phase = .halted 2 := by simp [hphase, hdead]
    have hstop : ¬ ((started.phase = .waiting && e.refclk) = true) := by simp [hhalt]
    rw [if_neg hstop] at hparts hmem ⊢
    exact ⟨hmem, hjobs, hparts, hons, fun _ => hhalt, fun h => absurd hdead h, fun h => absurd hdead h, fun h => absurd hdead h⟩
  · have hwait : started.phase = .waiting := by simp [hphase, hdead]
    by_cases hclk : e.refclk = true
    · have hgo : (started.phase = .waiting && e.refclk) = true := by simp [hwait, hclk]
      rw [if_pos hgo] at hparts hmem ⊢
      obtain ⟨hjobs', hrc, hphase', -, hons'⟩ := Mach.history_eq (started.castRest_history e hwait)
      refine ⟨hmem, hjobs'.trans hjobs, hparts, fun x hx => (hons' x).trans (hons x hx), fun h => absurd h hdead,
        fun _ h => absurd hclk (by simp [h]), fun _ _ hlock => hphase'.trans (if_neg hlock), fun _ _ hlock => ⟨hphase'.trans (if_pos hlock), hrc⟩⟩
    · have hstop : ¬ ((started.phase = .waiting && e.refclk) = true) := by simp [hclk]
      rw [if_neg hstop] at hparts hmem ⊢
      exact ⟨hmem, hjobs, hparts, hons, fun h => absurd h hdead, fun _ _ => hwait, fun _ h => absurd h hclk, fun _ h => absurd h hclk⟩

/-- What an end of service leaves: the flash and the PERST lines. -/
theorem Mach.cleared_leaves (m : Mach) (power : Bool) (ph : Phase) : (m.cleared power ph).phase = ph ∧ (m.cleared power ph).flash = m.flash ∧
    (m.cleared power ph).mem = [] ∧ (m.cleared power ph).jobs = [] ∧ (m.cleared power ph).parts = [] ∧ (m.cleared power ph).cores = [] ∧
    ((m.cleared power ph).host 0).perst = (m.host 0).perst ∧ ((m.cleared power ph).host 1).perst = (m.host 1).perst := by
  unfold Mach.cleared
  dsimp only
  split <;> exact ⟨rfl, rfl, rfl, rfl, rfl, rfl, rfl, rfl⟩

theorem exists_living {e : CastEnv} : (∃ x, x < 2 ∧ x ∉ e.deadSup) ↔ livingAt e ≠ [] :=
  ⟨fun ⟨_, hx⟩ hnone => List.not_mem_nil (hnone ▸ mem_livingAt.mpr hx),
   fun h => (List.exists_mem_of_ne_nil _ h).imp fun _ hx => mem_livingAt.mp hx⟩

/-- Settles O54: a cast-on from the cleared state by `Mach.castOn_ends`, the wait for REFCLK by `Mach.castRest_history`, and the ends of service by
`Mach.cleared_leaves`. -/
theorem castOns : Obligations.CastOns := by
  intro s e sup seen lock starts down
  have hstarts : ∀ (c : Instr) (power : Bool), Gives c s (s.mach.castOn power e) → starts c := by
    intro c power hgives
    have hends := s.mach.castOn_ends power e
    refine ⟨_, hgives, hends.mem, hends.jobs, hends.parts, fun x hx hlive => hends.counted x (mem_livingAt.mpr ⟨hx, hlive⟩), fun hdead => ?_,
      fun hsup => hends.waits (exists_living.mp hsup), fun hsup => hends.unlocked (exists_living.mp hsup),
      fun hsup => hends.serves (exists_living.mp hsup)⟩
    exact hends.dead (not_not.mp fun h => hdead (exists_living.mpr h))
  have hdown : ∀ (c : Instr) (power : Bool) (ph : Phase), Gives c s (s.mach.cleared power ph) → down c ph := by
    intro c power ph hgives
    exact ⟨_, hgives, s.mach.cleared_leaves power ph⟩
  have hcast : Gives (.castOn e) s (doCastOn e s.mach) := gives_always (.castOn e) s (doCastOn e) rfl
  have hrst : Gives .modRstAssert s (doModRst s.mach) := gives_always .modRstAssert s doModRst rfl
  have hqualify : Gives (.refclkQualify e) s (doQualify e s.mach) := gives_always (.refclkQualify e) s (doQualify e) rfl
  have hout : ∀ v, Gives (.vinOutOfRange v) s (doVinOut v s.mach) := fun v => gives_always (.vinOutOfRange v) s (doVinOut v) rfl
  have hback : ∀ v, Gives (.vinReturn v e) s (doVinBack v e s.mach) := fun v => gives_always (.vinReturn v e) s (doVinBack v e) rfl
  refine ⟨fun hoff => ⟨fun hvin => hstarts _ false ?_, fun hvin => ?_, ?_⟩, fun hheld => hstarts _ true ?_,
    fun hrun => ⟨?_, ?_, hdown _ true .held ?_, fun v hlow hhigh => ?_⟩, fun hwait => ?_, fun v hlow => ⟨fun hvin => hstarts _ false ?_, fun hvin => ?_⟩,
    hdown _ false .off (gives_always .shutdown s doShutdown rfl), fun v hoff hrange => hdown _ false .lowVin ?_⟩
  · rwa [doCastOn, hoff, hvin] at hcast
  · rwa [doCastOn, hoff, hvin] at hcast
  · rwa [doModRst, hoff] at hrst
  · rwa [doCastOn, hheld] at hcast
  · rwa [doCastOn, hrun] at hcast
  · rwa [doQualify, hrun] at hqualify
  · rwa [doModRst, hrun] at hrst
  · have hstay : (decide (s.mach.phase = .off) || (decide (3800 ≤ v) && decide (v ≤ 6200))) = true := by simp [hlow, hhigh]
    have h := hout v
    rwa [doVinOut, if_pos hstay] at h
  · rw [doQualify, if_pos hwait] at hqualify
    obtain ⟨hjobs, hrc, hphase, -, -⟩ := Mach.history_eq (s.mach.castRest_history e hwait)
    exact ⟨_, hqualify, hrc, Mach.castRest_mem .., hjobs, fun hlock => hphase.trans (if_pos hlock), fun hlock => hphase.trans (if_neg hlock)⟩
  · rw [← doVinBack_of_good hlow hvin]
    exact hback v
  · have hstay : ¬ ((decide (s.mach.phase = .lowVin) && vinGood v) = true) := by simp [hvin]
    have h := hback v
    rwa [doVinBack, if_neg hstay] at h
  · have hfall : ¬ ((decide (s.mach.phase = .off) || (decide (3800 ≤ v) && decide (v ≤ 6200))) = true) := by
      simp only [hoff, decide_false, Bool.false_or, Bool.and_eq_true, decide_eq_true_eq, not_and]
      omega
    have h := hout v
    rwa [doVinOut, if_neg hfall] at h

end Sys2Proof.Machine
end

section
/-! SUPPORT. Proofs: masters, islands and held partitions (R449, R450, R455 to R458). -/

namespace Sys2Proof.Machine

/-! ## A health event -/

section
variable (m : Mach)

theorem Mach.health_only : m.health = { m with
    objs := m.health.objs
    outbox := m.health.outbox
    hosts := m.health.hosts } := by
  unfold Mach.health
  rw [Mach.raise_only]
  rfl

theorem Mach.obj_health_count : m.health.obj 0x200A 0 = min (m.obj 0x200A 0 + 1) (2 ^ 32 - 1) := by
  unfold Mach.health
  exact (Mach.obj_eq_of_objs (Mach.raise_objs ..) _ _).trans (Mach.obj_addObj32_same ..)

theorem SameObjs.health : SameObjs [okey 0x200A 0] m m.health :=
  SameObjs.trans (SameObjs.setObj m _ _ _ (List.mem_singleton.mpr rfl)) (SameObjs.of_objs _ (Mach.raise_objs ..))

theorem Mach.objBit_setBit_other (i a : Nat) {n k : Nat} (h : n ≠ k) (b : Bool) : (m.setBit i a n b).objBit i a k = m.objBit i a k := by
  have hword : (m.setBit i a n b).obj i a = Machine.setBit (m.obj i a) n b := Mach.obj_setObj_same ..
  rw [Mach.objBit, hword, bit_setBit_other _ _ _ _ h, Mach.objBit]

theorem Mach.objBit_of_obj {m' : Mach} {i a : Nat} (h : m'.obj i a = m.obj i a) (n : Nat) : m'.objBit i a n = m.objBit i a n :=
  congrArg (bit · n) h

/-! ## Islands that switch -/

/-- An island after a switch to a source (Table 16-2). -/
def Island.taken (x : Island) (src : Nat) : Island := { x with
  src := src
  pend := none
  swerr := false
  switches := x.switches + 1 }

theorem Mach.island_switchTo (i src j : Nat) : (m.switchTo i src).island j = if i = j then Island.taken (m.island i) src else m.island j :=
  Mach.island_setIsland ..

/-- Islands listed once each change once; the others stay as they are. -/
theorem Mach.island_mapAll (f : Island → Island) {is : List Nat} (hnodup : is.Nodup) (j : Nat) :
    (is.foldl (fun (a : Mach) i => a.setIsland i (f (a.island i))) m).island j = if j ∈ is then f (m.island j) else m.island j := by
  induction is generalizing m with
  | nil => rfl
  | cons i t ih =>
    obtain ⟨hi, ht⟩ := List.nodup_cons.mp hnodup
    rw [List.foldl_cons, ih _ ht, Mach.island_setIsland]
    by_cases hij : i = j
    · subst hij
      simp [hi]
    · have hji : j ≠ i := fun e => hij e.symm
      simp [hij, hji]

theorem Mach.mapAll_only (f : Island → Island) (is : List Nat) : is.foldl (fun (a : Mach) i => a.setIsland i (f (a.island i))) m =
    { m with islands := (is.foldl (fun (a : Mach) i => a.setIsland i (f (a.island i))) m).islands } := by
  refine List.foldlRecOn (motive := fun a : Mach => a = { m with islands := a.islands }) is _ rfl fun a ha i _ => ?_
  rw [ha]
  rfl

theorem Mach.island_switchAll (src : Nat) {is : List Nat} (hnodup : is.Nodup) (j : Nat) :
    (is.foldl (fun (a : Mach) i => a.switchTo i src) m).island j = if j ∈ is then Island.taken (m.island j) src else m.island j :=
  m.island_mapAll (Island.taken · src) hnodup j

theorem Mach.switchAll_only (src : Nat) (is : List Nat) : is.foldl (fun (a : Mach) i => a.switchTo i src) m =
    { m with islands := (is.foldl (fun (a : Mach) i => a.switchTo i src) m).islands } := m.mapAll_only (Island.taken · src) is

end

/-! ## Contexts that are held where they stand -/

/-- A core whose contexts have stopped, with no data movement under way. -/
structure Core.Held (k : Core) : Prop where
  hostDma : k.host.dma = []
  guestDma : k.guest.dma = []
  hostRun : k.host.run = k.host.stop.run
  guestRun : k.guest.run = k.guest.stop.run

/-- A core stops no further than a stop brings it, and what is held stays held. -/
structure Core.Stops (k k' : Core) : Prop where
  host : k'.host.stop.run = k.host.stop.run
  guest : k'.guest.stop.run = k.guest.stop.run
  held : k.Held → k'.Held

theorem Core.Stops.refl (k : Core) : k.Stops k := ⟨rfl, rfl, id⟩

theorem Core.Stops.trans {a b c : Core} (h : a.Stops b) (h' : b.Stops c) : a.Stops c :=
  ⟨h'.host.trans h.host, h'.guest.trans h.guest, fun hheld => h'.held (h.held hheld)⟩

theorem Ctx.stop_stop_run (x : Ctx) : x.stop.stop.run = x.stop.run := by
  cases hx : x.run <;> simp [Ctx.stop, hx]

theorem Ctx.cut_stop_run (x : Ctx) (rc : Nat) : (x.cut rc).stop.run = x.stop.run := by
  cases hx : x.run <;> cases hf : x.fetch <;> simp [Ctx.stop, Ctx.cut, hx, hf]

/-- A context that is cut stops, and the other one of its core goes on. -/
theorem Core.Stops.cut (k : Core) (guest : Bool) (rc : Nat) (arr : Arr) :
    k.Stops { (k.setCtx guest ((k.ctx guest).cut rc)) with arr := arr } := by
  cases guest with
  | false =>
    refine ⟨Ctx.cut_stop_run .., rfl, fun h => ⟨h.hostDma, h.guestDma, ?_, h.guestRun⟩⟩
    exact (Ctx.run_cut_of_stopped rc h.hostRun).trans (Ctx.cut_stop_run ..).symm
  | true =>
    refine ⟨rfl, Ctx.cut_stop_run .., fun h => ⟨h.hostDma, h.guestDma, h.hostRun, ?_⟩⟩
    exact (Ctx.run_cut_of_stopped rc h.guestRun).trans (Ctx.cut_stop_run ..).symm

/-- A core as `Mach.hold` leaves it. -/
def Core.held (k : Core) (ctl : Nat) : Core :=
  { k with host := { k.host.stop with dma := [] }, guest := { k.guest.stop with dma := [] }, arr := { k.arr.stop ctl with drains := [] } }

theorem Core.held_held (k : Core) (ctl : Nat) : (k.held ctl).Held :=
  ⟨rfl, rfl, (Ctx.stop_stop_run k.host).symm, (Ctx.stop_stop_run k.guest).symm⟩

theorem Core.Stops.hold (k : Core) (ctl : Nat) : k.Stops (k.held ctl) :=
  ⟨Ctx.stop_stop_run k.host, Ctx.stop_stop_run k.guest, fun _ => k.held_held ctl⟩

/-- Every core of a module stops no further than a stop brings it. -/
def CoresStop (m m' : Mach) : Prop := ∀ c, (m.core c).Stops (m'.core c)

theorem CoresStop.refl (m : Mach) : CoresStop m m := fun c => Core.Stops.refl (m.core c)

theorem CoresStop.trans {a b c : Mach} (h : CoresStop a b) (h' : CoresStop b c) : CoresStop a c := fun x => (h x).trans (h' x)

theorem CoresStop.setCore {m : Mach} {c : Nat} {k : Core} (h : (m.core c).Stops k) : CoresStop m (m.setCore c k) := by
  intro d
  rw [Mach.core_setCore]
  split
  · next heq => exact heq ▸ h
  · exact Core.Stops.refl _

section
variable (m : Mach) (p : Nat)

theorem Mach.core_dropWaits (c : Nat) (g : Bool) (d : Nat) : (m.dropWaits c g).core d = m.core d := rfl

theorem CoresStop.stopCores (guest : Bool) : CoresStop m (m.stopCores p guest) := by
  unfold Mach.stopCores
  refine List.foldlRecOn (motive := fun a : Mach => CoresStop m a) _ _ (CoresStop.refl m) fun a ha c _ => CoresStop.trans ha ?_
  intro d
  dsimp only
  rw [Mach.core_setCore, Mach.core_dropWaits]
  split
  · next heq => exact heq ▸ Core.Stops.cut _ _ _ _
  · exact Core.Stops.refl _

/-- The cores listed are held one after the other. -/
def Mach.holdCores (cs : List Nat) : Mach := cs.foldl (fun (a : Mach) c => a.setCore c ((a.core c).held (a.obj (0x6180 + p) 1))) m

theorem Mach.holdCores_stops (cs : List Nat) : CoresStop m (m.holdCores p cs) ∧ ∀ c ∈ cs, ((m.holdCores p cs).core c).Held := by
  induction cs generalizing m with
  | nil => exact ⟨CoresStop.refl m, nofun⟩
  | cons x t ih =>
    obtain ⟨hstops, hheld⟩ := ih (m.setCore x ((m.core x).held (m.obj (0x6180 + p) 1)))
    refine ⟨CoresStop.trans (CoresStop.setCore (Core.Stops.hold _ _)) hstops, fun c hc => ?_⟩
    rcases List.mem_cons.mp hc with rfl | hc
    · refine (hstops c).held ?_
      rw [Mach.core_setCore_same]
      exact Core.held_held _ _
    · exact hheld c hc

theorem Mach.hold_eq : m.hold p = ((m.stopCores p false).stopCores p true).holdCores p (((m.stopCores p false).stopCores p true).coresOf p) := rfl

theorem Mach.coresOf_of_objs {m' : Mach} (h : m'.objs = m.objs) : m'.coresOf p = m.coresOf p := by
  simp only [Mach.coresOf, Mach.clusters, Mach.obj_eq_of_objs h]

/-- A partition that is held: its cores are, and no core of another one starts. -/
theorem Mach.hold_stops : CoresStop m (m.hold p) ∧ ∀ c ∈ m.coresOf p, ((m.hold p).core c).Held := by
  rw [Mach.hold_eq]
  obtain ⟨hstops, hheld⟩ := ((m.stopCores p false).stopCores p true).holdCores_stops p (((m.stopCores p false).stopCores p true).coresOf p)
  refine ⟨CoresStop.trans (CoresStop.trans (CoresStop.stopCores m p false) (CoresStop.stopCores _ p true)) hstops, fun c hc => hheld c ?_⟩
  rwa [Mach.coresOf_of_objs (m.stopCores p false) p (Mach.stopCores_objs ..), Mach.coresOf_of_objs m p (Mach.stopCores_objs ..)]

theorem Mach.holdCores_only (cs : List Nat) : m.holdCores p cs = { m with
    cores := (m.holdCores p cs).cores
    acts := (m.holdCores p cs).acts } := by
  unfold Mach.holdCores
  refine List.foldlRecOn (motive := fun a : Mach => a = { m with cores := a.cores, acts := a.acts }) _ _ rfl fun a ha c _ => ?_
  rw [ha]
  rfl

/-- What holding partitions changes: cores and their waits. -/
def HoldsOnly (m m' : Mach) : Prop := m' = { m with
  cores := m'.cores
  acts := m'.acts
  waits := m'.waits
  ports := m'.ports }

theorem HoldsOnly.trans {a b c : Mach} (h : HoldsOnly a b) (h' : HoldsOnly b c) : HoldsOnly a c := by
  unfold HoldsOnly at h h' ⊢
  rw [h] at h'
  exact h'

theorem HoldsOnly.hold : HoldsOnly m (m.hold p) := by
  rw [Mach.hold_eq]
  generalize hstopped : (m.stopCores p false).stopCores p true = m₁
  have h₁ : HoldsOnly m m₁ := hstopped ▸ HoldsOnly.trans (Mach.stopCores_only ..) (Mach.stopCores_only ..)
  refine HoldsOnly.trans h₁ ?_
  have h := m₁.holdCores_only p (m₁.coresOf p)
  unfold HoldsOnly
  rw [h]

theorem HoldsOnly.objs {m m' : Mach} (h : HoldsOnly m m') : m'.objs = m.objs := by
  unfold HoldsOnly at h
  rw [h]

/-- Partitions held one after the other. -/
theorem Mach.holdAll_stops (ps : List Nat) : HoldsOnly m (ps.foldl Mach.hold m) ∧ CoresStop m (ps.foldl Mach.hold m) ∧
    ∀ p ∈ ps, ∀ c ∈ m.coresOf p, ((ps.foldl Mach.hold m).core c).Held := by
  induction ps generalizing m with
  | nil => exact ⟨rfl, CoresStop.refl m, nofun⟩
  | cons q t ih =>
    obtain ⟨honly, hstops, hheld⟩ := ih (m.hold q)
    obtain ⟨hfirst, hcores⟩ := m.hold_stops q
    rw [List.foldl_cons]
    refine ⟨HoldsOnly.trans (HoldsOnly.hold m q) honly, CoresStop.trans hfirst hstops, fun p hp c hc => ?_⟩
    rcases List.mem_cons.mp hp with rfl | hp
    · exact (hstops c).held (hcores c hc)
    · have hsame : (m.hold q).coresOf p = m.coresOf p := Mach.coresOf_of_objs m p (HoldsOnly.hold m q).objs
      exact hheld p hp c (by rwa [hsame])

end

end Sys2Proof.Machine
end

section
/-! SUPPORT. Proofs: a master that loses its lock (R450). -/

namespace Sys2Proof.Machine

section
variable (m : Mach)

/-- The module with a master's lock and its holdover gone, and the health event told. -/
def Mach.lockLost (which : Nat) : Mach := ((m.setBit 0x2210 1 (2 + which) false).setBit 0x2210 1 (4 + which) false).health

theorem Mach.lockLost_only (which : Nat) : m.lockLost which = { m with
    objs := (m.lockLost which).objs
    outbox := (m.lockLost which).outbox
    hosts := (m.lockLost which).hosts } := Mach.health_only _

theorem SameObjs.lockLost (which : Nat) : SameObjs [okey 0x2210 1, okey 0x200A 0] m (m.lockLost which) :=
  SameObjs.trans (SameObjs.trans (SameObjs.setBit _ _ _ _ _ (by simp)) (SameObjs.setBit _ _ _ _ _ (by simp)))
    (SameObjs.mono (by simp) (SameObjs.health _))

theorem Mach.objBit_lockLost (which n : Nat) : (m.lockLost which).objBit 0x2210 1 n =
    if n = 2 + which ∨ n = 4 + which then false else m.objBit 0x2210 1 n := by
  have hhealth : (m.lockLost which).objBit 0x2210 1 n =
      ((m.setBit 0x2210 1 (2 + which) false).setBit 0x2210 1 (4 + which) false).objBit 0x2210 1 n :=
    Mach.objBit_of_obj _ (Mach.obj_health _ (by decide)) n
  rw [hhealth]
  by_cases h4 : 4 + which = n
  · rw [← h4, Mach.objBit_setBit_same, if_pos (.inr rfl)]
  · rw [Mach.objBit_setBit_other _ _ _ h4]
    by_cases h2 : 2 + which = n
    · rw [← h2, Mach.objBit_setBit_same, if_pos (.inl rfl)]
    · rw [Mach.objBit_setBit_other _ _ _ h2, if_neg (by omega)]

/-- The other master keeps its lock. -/
theorem Mach.srcReady_lockLost {which : Nat} (h : which ≤ 1) : (m.lockLost which).srcReady (2 - which) = m.srcReady (2 - which) := by
  have hcases : which = 0 ∨ which = 1 := by omega
  obtain rfl | rfl := hcases <;> simp [Mach.srcReady, Mach.objBit_lockLost]

/-! ## Both masters lost -/

/-- Links taken down. -/
def Mach.linksDown (ls : List Nat) : Mach := ls.foldl (fun (a : Mach) l => a.setLinkState l 0) m

theorem ObjsOnly.linksDown (ls : List Nat) : ObjsOnly m (m.linksDown ls) := ObjsOnly.foldl (fun a l => ObjsOnly.setField a (0x4840 + l) 2 6 4 0) ls m

theorem Mach.obj_linksDown (ls : List Nat) {i b : Nat} (h : ∀ l ∈ ls, okey (0x4840 + l) 2 ≠ okey i b) : (m.linksDown ls).obj i b = m.obj i b := by
  unfold Mach.linksDown
  refine List.foldlRecOn (motive := fun a : Mach => a.obj i b = m.obj i b) ls _ rfl fun a ha l hl => ?_
  exact (Mach.obj_setField_other a (h l hl) ..).trans ha

theorem Mach.linkState_linksDown (ls : List Nat) (l : Nat) : (m.linksDown ls).linkState l = if l ∈ ls then 0 else m.linkState l := by
  induction ls generalizing m with
  | nil => rfl
  | cons k t ih =>
    have hstep : (m.linksDown (k :: t)).linkState l = if l ∈ t then 0 else (m.setLinkState k 0).linkState l := ih (m.setLinkState k 0)
    rw [hstep]
    by_cases hlk : l = k
    · subst hlk
      have hsame : (m.setLinkState l 0).linkState l = 0 := Mach.linkState_setLinkState m l (by decide)
      simp [hsame]
    · have hother : (m.setLinkState k 0).linkState l = m.linkState l :=
        Mach.field_setField_other m (by simp only [okey]; omega) _ _ _ _ _
      simp [hother, hlk]

/-- Host ports and the CAN port out of use. -/
def Mach.portsDown : Mach :=
  let m := (m.setHost 0 { m.host 0 with up := false }).setHost 1 { m.host 1 with up := false }
  { m with can := { m.can with nmt := 0, usdo := none } }

theorem Mach.portsDown_only : m.portsDown = { m with
    hosts := m.portsDown.hosts
    can := m.portsDown.can } := rfl

theorem Mach.portsDown_up : (m.portsDown.host 0).up = false ∧ (m.portsDown.host 1).up = false := by
  have hhosts : m.portsDown.hosts = ((m.setHost 0 { m.host 0 with up := false }).setHost 1 { m.host 1 with up := false }).hosts := rfl
  have hport : ∀ x, m.portsDown.host x = ((m.setHost 0 { m.host 0 with up := false }).setHost 1 { m.host 1 with up := false }).host x :=
    fun x => congrArg (fun a : AMap Port => a.get (Port.init true) x) hhosts
  simp [hport, Mach.host_setHost]

/-- Every island on its ring oscillator, links and ports down and partitions held. -/
def Mach.clocksLost : Mach :=
  let m := ((List.range 180).filter (fun i => (m.island i).src ≠ 3)).foldl (fun (a : Mach) i => a.switchTo i 3) m
  let m := m.linksDown ((List.range 64).filter (fun l => m.linkState l ≠ 4))
  let m := m.portsDown
  ((List.range 64).filter m.formed).foldl Mach.hold m

theorem doMasterLoss_eq {which : Nat} (hw : which ≤ 1) (h : m.srcReady (which + 1) = true) : doMasterLoss m which =
    if m.srcReady (2 - which) = true then
      ((List.range 180).filter (fun i => ((m.lockLost which).island i).src = which + 1)).foldl (fun (a : Mach) i => a.switchTo i (2 - which)) (m.lockLost which)
    else (m.lockLost which).clocksLost := by
  have hno : ¬ ((decide (which > 1) || !m.srcReady (which + 1)) = true) := by simp [h, hw]
  have hother : 3 - (which + 1) = 2 - which := by omega
  unfold doMasterLoss
  dsimp only
  rw [if_neg hno, hother]
  change (if (m.lockLost which).srcReady (2 - which) = true then _ else _) = _
  rw [Mach.srcReady_lockLost m hw]
  rfl

/-- What the loss of both masters leaves. -/
structure Mach.Stilled (m m' : Mach) : Prop where
  islands : ∀ i, i < 180 → (m'.island i).src = 3
  links : ∀ l, l < 64 → m.linkState l ≠ 4 → m'.linkState l = 0
  ports : (m'.host 0).up = false ∧ (m'.host 1).up = false
  can : m'.can.nmt = 0
  cores : ∀ p c, m.formed p = true → c ∈ m.coresOf p → (m'.core c).Held ∧ (m.core c).Stops (m'.core c)
  jobs : m'.jobs = m.jobs
  mem : m'.mem = m.mem

theorem Mach.clocksLost_stilled : m.Stilled m.clocksLost := by
  unfold Mach.clocksLost
  extract_lets +onlyGivenNames m₁ m₃ m₂
  have hnodup : ((List.range 180).filter (fun i => decide ((m.island i).src ≠ 3))).Nodup := List.nodup_range.filter _
  have hisland : ∀ i, i < 180 → (m₁.island i).src = 3 := by
    intro i hi
    have hi₁ : m₁.island i = _ := m.island_switchAll 3 hnodup i
    rw [hi₁]
    split
    · rfl
    · next hno => exact not_not.mp fun h => hno (List.mem_filter.mpr ⟨List.mem_range.mpr hi, decide_eq_true h⟩)
  have honly₁ : m₁ = { m with islands := m₁.islands } := m.switchAll_only 3 _
  clear_value m₁
  obtain ⟨hobjs₁, hcores₁, hjobs₁, hmem₁⟩ : m₁.objs = m.objs ∧ m₁.cores = m.cores ∧ m₁.jobs = m.jobs ∧ m₁.mem = m.mem := by
    rw [honly₁]
    exact ⟨rfl, rfl, rfl, rfl⟩
  have hlinks : ∀ l, m₁.linkState l = m.linkState l := fun l => congrArg (fld · 6 4) (Mach.obj_eq_of_objs hobjs₁ _ _)
  have hdown : m₁.linksDown ((List.range 64).filter (fun l => decide (m₁.linkState l ≠ 4))) = m₃ := rfl
  have hlink₃ : ∀ l, l < 64 → m.linkState l ≠ 4 → m₃.linkState l = 0 := by
    intro l hl h4
    rw [← hdown, Mach.linkState_linksDown, if_pos]
    exact List.mem_filter.mpr ⟨List.mem_range.mpr hl, decide_eq_true (hlinks l ▸ h4)⟩
  have hparts₃ : ∀ p, p < 64 → m₃.obj (pix p) 2 = m.obj (pix p) 2 ∧ m₃.obj (pix p) 3 = m.obj (pix p) 3 := by
    intro p hp
    rw [← hdown, ← Mach.obj_eq_of_objs hobjs₁, ← Mach.obj_eq_of_objs hobjs₁]
    constructor <;>
    · refine Mach.obj_linksDown _ _ fun l _ => ?_
      simp only [okey, pix]
      omega
  have honly₃ : ObjsOnly m₁ m₃ := hdown ▸ ObjsOnly.linksDown ..
  clear hdown
  clear_value m₃
  obtain ⟨hislands₃, hcores₃, hjobs₃, hmem₃⟩ : m₃.islands = m₁.islands ∧ m₃.cores = m₁.cores ∧ m₃.jobs = m₁.jobs ∧ m₃.mem = m₁.mem := by
    unfold ObjsOnly at honly₃
    rw [honly₃]
    exact ⟨rfl, rfl, rfl, rfl⟩
  obtain ⟨hislands₂, hobjs₂, hcores₂, hjobs₂, hmem₂⟩ : m₂.islands = m₁.islands ∧ m₂.objs = m₃.objs ∧ m₂.cores = m.cores ∧ m₂.jobs = m.jobs ∧
      m₂.mem = m.mem := ⟨hislands₃, rfl, hcores₃.trans hcores₁, hjobs₃.trans hjobs₁, hmem₃.trans hmem₁⟩
  have hup : (m₂.host 0).up = false ∧ (m₂.host 1).up = false := m₃.portsDown_up
  have hcan : m₂.can.nmt = 0 := rfl
  clear_value m₂
  obtain ⟨honly, hstops, hheld⟩ := m₂.holdAll_stops ((List.range 64).filter m₂.formed)
  generalize ((List.range 64).filter m₂.formed).foldl Mach.hold m₂ = m₄ at honly hstops hheld
  obtain ⟨hislands, hobjs, hhosts, hcan₄, hjobs, hmem⟩ : m₄.islands = m₂.islands ∧ m₄.objs = m₂.objs ∧ m₄.hosts = m₂.hosts ∧ m₄.can = m₂.can ∧
      m₄.jobs = m₂.jobs ∧ m₄.mem = m₂.mem := by
    unfold HoldsOnly at honly
    rw [honly]
    exact ⟨rfl, rfl, rfl, rfl, rfl, rfl⟩
  have hcore : ∀ c, m₂.core c = m.core c := fun c => congrArg (fun a : AMap Core => a.get (Core.init (c % 16)) c) hcores₂
  refine ⟨fun i hi => ?_, fun l hl h4 => ?_, ?_, hcan₄ ▸ hcan, fun p c hp hc => ⟨?_, hcore c ▸ hstops c⟩, hjobs.trans hjobs₂, hmem.trans hmem₂⟩
  · have hsame : m₄.island i = m₁.island i := congrArg (fun a : AMap Island => a.get (Island.init i) i) (hislands.trans hislands₂)
    rw [hsame]
    exact hisland i hi
  · exact (congrArg (fld · 6 4) (Mach.obj_eq_of_objs (hobjs.trans hobjs₂) _ _)).trans (hlink₃ l hl h4)
  · have hport : ∀ x, m₄.host x = m₂.host x := fun x => congrArg (fun a : AMap Port => a.get (Port.init true) x) hhosts
    rw [hport, hport]
    exact hup
  · have h64 : p < 64 := by
      simp only [Mach.formed, Bool.and_eq_true, decide_eq_true_eq] at hp
      exact hp.1
    obtain ⟨hstate, hmap⟩ := hparts₃ p h64
    have hstate₂ : m₂.formed p = m.formed p := by
      have hpstate : m₂.pstate p = m.pstate p := congrArg (fld · 4 3) ((Mach.obj_eq_of_objs hobjs₂ _ _).trans hstate)
      rw [Mach.formed, Mach.formed, hpstate]
    have hcores : m₂.coresOf p = m.coresOf p := by
      simp only [Mach.coresOf, Mach.clusters, Mach.obj_eq_of_objs hobjs₂, hmap]
    exact hheld p (List.mem_filter.mpr ⟨List.mem_range.mpr h64, hstate₂.trans hp⟩) c (hcores ▸ hc)

end

end Sys2Proof.Machine
end

section
/-! SUPPORT. Proofs: the clock sources (R449, R450, R455 to R458). -/

namespace Sys2Proof.Machine

section
variable (m : Mach)

/-- The masters that are locked or hold. -/
def Mach.masters : Nat := fld (m.obj 0x2210 1) 3 2 ||| fld (m.obj 0x2210 1) 5 4

theorem Mach.masters_lt : m.masters < 4 := Nat.or_lt_two_pow (n := 2) (fld_lt _ 3 2) (fld_lt _ 5 4)

/-- The word of 2210h.01 with its masters in holdover or locked. -/
def heldWord (v : Nat) (hold : Bool) : Nat :=
  setFld (setFld v 3 2 (if hold then 0 else fld v 3 2 ||| fld v 5 4)) 5 4 (if hold then fld v 3 2 ||| fld v 5 4 else 0)

theorem fld_heldWord (v : Nat) (hold : Bool) : fld (heldWord v hold) 3 2 = (if hold then 0 else fld v 3 2 ||| fld v 5 4) ∧
    fld (heldWord v hold) 5 4 = if hold then fld v 3 2 ||| fld v 5 4 else 0 := by
  have hlt : fld v 3 2 ||| fld v 5 4 < 2 ^ 2 := Nat.or_lt_two_pow (fld_lt v 3 2) (fld_lt v 5 4)
  unfold heldWord
  rw [fld_setFld_apart _ _ _ _ _ _ (by decide) (by decide), fld_setFld_same _ _ _ _ (by decide), fld_setFld_same _ _ _ _ (by decide)]
  cases hold
  · exact ⟨Nat.mod_eq_of_lt hlt, rfl⟩
  · exact ⟨rfl, Nat.mod_eq_of_lt hlt⟩

/-- The masters change between lock and holdover as REFCLK goes and comes, and 1:0 shows which. -/
def Mach.refclkWord (hold : Bool) (v : Nat) : Mach := (m.setHold hold).setField 0x2210 1 1 0 v

theorem Mach.refclkWord_only (hold : Bool) (v : Nat) : ObjsOnly m (m.refclkWord hold v) := rfl

theorem SameObjs.refclkWord (hold : Bool) (v : Nat) : SameObjs [okey 0x2210 1] m (m.refclkWord hold v) :=
  SameObjs.trans (SameObjs.setObj m _ _ _ (List.mem_singleton.mpr rfl)) (SameObjs.setField _ _ _ _ _ _ (List.mem_singleton.mpr rfl))

theorem Mach.refclkWord_fields (hold : Bool) {v : Nat} (hv : v < 4) : fld ((m.refclkWord hold v).obj 0x2210 1) 1 0 = v ∧
    fld ((m.refclkWord hold v).obj 0x2210 1) 3 2 = (if hold then 0 else m.masters) ∧
    fld ((m.refclkWord hold v).obj 0x2210 1) 5 4 = if hold then m.masters else 0 := by
  have hword : (m.refclkWord hold v).obj 0x2210 1 = setFld (heldWord (m.obj 0x2210 1) hold) 1 0 v := by
    have hheld : (m.setHold hold).obj 0x2210 1 = heldWord (m.obj 0x2210 1) hold := Mach.obj_setObj_same ..
    rw [← hheld]
    exact Mach.obj_setObj_same ..
  rw [hword, fld_setFld_same _ _ _ _ (by decide), fld_setFld_apart _ _ _ _ _ _ (by decide) (by decide),
    fld_setFld_apart _ _ _ _ _ _ (by decide) (by decide)]
  exact ⟨Nat.mod_eq_of_lt hv, fld_heldWord _ hold⟩

/-- What a source switch that is accepted makes of the island (R455, R456). -/
def Mach.switched (i src : Nat) : Island :=
  if src = (m.island i).src then { m.island i with pend := none }
  else if m.srcReady src = true then (m.island i).taken src
  else { m.island i with
    pend := some (src, m.rc)
    swerr := false }

theorem Mach.setIsland_others {i j : Nat} (h : j ≠ i) (x : Island) : (m.setIsland i x).island j = m.island j := by
  rw [Mach.island_setIsland, if_neg (Ne.symm h)]

theorem Mach.srcReady_of_obj {m' : Mach} (h : m'.obj 0x2210 1 = m.obj 0x2210 1) (src : Nat) : m'.srcReady src = m.srcReady src := by
  simp only [Mach.srcReady, Mach.objBit_of_obj m h]

/-- A source switch that is accepted. -/
theorem doSourceSwitch_accepted {i v : Nat} (hi : i < 180) (hthere : m.islandThere i = true)
    (hready : m.obj 0x2210 2 ≠ 1 ∨ m.srcReady (if v % 4 = 0 then islandSource i else v % 4) = true) :
    doSourceSwitch i v m = ((m.setObj (0x2400 + i) 1 (v % 4)).reply 0).setIsland i (m.switched i (if v % 4 = 0 then islandSource i else v % 4)) := by
  unfold doSourceSwitch
  rw [if_neg (by omega : ¬ i ≥ 180), if_neg (by simp [hthere])]
  dsimp only
  generalize hsrc : (if v % 4 = 0 then islandSource i else v % 4) = src at hready ⊢
  have hgo : ¬ ((decide (m.obj 0x2210 2 = 1) && !m.srcReady src) = true) := by
    obtain h | h := hready <;> simp [h]
  rw [if_neg hgo]
  have hobj : ((m.setObj (0x2400 + i) 1 (v % 4)).reply 0).obj 0x2210 1 = m.obj 0x2210 1 :=
    Mach.obj_setObj_other m (by simp only [okey]; omega) _
  rw [Mach.srcReady_of_obj m hobj]
  unfold Mach.switched
  split
  · rfl
  · split
    · rfl
    · rfl

theorem doSwitchTimeout_eq {i k t0 : Nat} (h : (m.island i).pend = some (k, t0)) : doSwitchTimeout m i =
    if m.srcReady k = false ∧ t0 + 25000 ≤ m.rc then m.setIsland i { m.island i with
      pend := none
      swerr := true } else m := by
  unfold doSwitchTimeout
  rw [h]
  dsimp only
  exact if_congr (by simp [and_comm]) rfl rfl

theorem doPendingStart_eq {i k t0 : Nat} (h : (m.island i).pend = some (k, t0)) : doPendingStart m i =
    if m.srcReady k = true then m.switchTo i k else m := by
  unfold doPendingStart
  rw [h]

end

end Sys2Proof.Machine
end

section
/-! SUPPORT. Proofs: the commands of the clock sources settled (R449, R450, R455 to R458). -/

namespace Sys2Proof.Machine

section
variable {s : State} (hrun : s.mach.phase = .running)
include hrun

/-- REFCLK_LOSS with REFCLK there: both masters hold, and the loss is counted and told. -/
theorem gives_refclkLoss (h : s.mach.objBit 0x2210 1 1 = false) :
    Gives .refclkLoss s (((s.mach.refclkWord true 2).addObj32 0x2210 4 1).health) := by
  have hg := gives_step .refclkLoss s doRefclkLoss rfl hrun
  rwa [doRefclkLoss, h] at hg

theorem gives_refclkReturn (h : s.mach.objBit 0x2210 1 1 = true) : Gives .refclkReturn s (s.mach.refclkWord false 1) := by
  have hg := gives_step .refclkReturn s doRefclkReturn rfl hrun
  rwa [doRefclkReturn, h] at hg

theorem gives_masterLoss {which : Nat} (hw : which ≤ 1) (h : s.mach.srcReady (which + 1) = true) :
    Gives (.masterLockLoss which) s (if s.mach.srcReady (2 - which) = true then
      ((List.range 180).filter (fun i => ((s.mach.lockLost which).island i).src = which + 1)).foldl (fun (a : Mach) i => a.switchTo i (2 - which))
        (s.mach.lockLost which)
    else (s.mach.lockLost which).clocksLost) := by
  rw [← doMasterLoss_eq s.mach hw h]
  exact gives_step (.masterLockLoss which) s (fun m => doMasterLoss m which) rfl hrun

theorem gives_synthLoss {i : Nat} (hthere : s.mach.islandThere i = true) (h : (s.mach.island i).src ≠ 3) :
    Gives (.synthLockLoss i) s (s.mach.switchTo i 3).health := by
  have hg := gives_step (.synthLockLoss i) s (fun m => doSynthLoss m i) rfl hrun
  rwa [doSynthLoss, if_neg (by simp [hthere, h])] at hg

/-- What a master's islands, cores, jobs and memory are after its lock is lost while the other one has one. -/
theorem masterLoss_moves {which : Nat} (hw : which ≤ 1) (h : s.mach.srcReady (which + 1) = true) (hother : s.mach.srcReady (2 - which) = true) :
    ∃ m, Gives (.masterLockLoss which) s m ∧ m.objBit 0x2210 1 (2 + which) = false ∧ m.objBit 0x2210 1 (4 + which) = false ∧
      (∀ i, i < 180 → (s.mach.island i).src = which + 1 → m.island i = (s.mach.island i).taken (2 - which)) ∧
      (∀ i, (s.mach.island i).src ≠ which + 1 → m.island i = s.mach.island i) ∧ m.cores = s.mach.cores ∧ m.jobs = s.mach.jobs ∧
      m.mem = s.mach.mem := by
  have hg := gives_masterLoss hrun hw h
  rw [if_pos hother] at hg
  have hbits := fun n => s.mach.objBit_lockLost which n
  obtain ⟨hislands, hcores, hjobs, hmem⟩ : (s.mach.lockLost which).islands = s.mach.islands ∧ (s.mach.lockLost which).cores = s.mach.cores ∧
      (s.mach.lockLost which).jobs = s.mach.jobs ∧ (s.mach.lockLost which).mem = s.mach.mem := by
    rw [s.mach.lockLost_only which]
    exact ⟨rfl, rfl, rfl, rfl⟩
  generalize s.mach.lockLost which = m₁ at hg hbits hislands hcores hjobs hmem
  have hisland : ∀ i, m₁.island i = s.mach.island i := fun i => congrArg (fun a : AMap Island => a.get (Island.init i) i) hislands
  have hswitched : ∀ i, _ = _ := fun i =>
    m₁.island_switchAll (2 - which) (is := (List.range 180).filter (fun i => decide ((m₁.island i).src = which + 1))) (List.nodup_range.filter _) i
  have honly := m₁.switchAll_only (2 - which) ((List.range 180).filter (fun i => decide ((m₁.island i).src = which + 1)))
  generalize ((List.range 180).filter (fun i => decide ((m₁.island i).src = which + 1))).foldl (fun (a : Mach) i => a.switchTo i (2 - which)) m₁ = m₂
    at hg hswitched honly
  obtain ⟨hobjs₂, hcores₂, hjobs₂, hmem₂⟩ : m₂.objs = m₁.objs ∧ m₂.cores = m₁.cores ∧ m₂.jobs = m₁.jobs ∧ m₂.mem = m₁.mem := by
    rw [honly]
    exact ⟨rfl, rfl, rfl, rfl⟩
  have hbit : ∀ n, m₂.objBit 0x2210 1 n = m₁.objBit 0x2210 1 n := fun n => Mach.objBit_of_obj m₁ (Mach.obj_eq_of_objs hobjs₂ _ _) n
  refine ⟨m₂, hg, ?_, ?_, fun i hi hsrc => ?_, fun i hsrc => ?_, hcores₂.trans hcores, hjobs₂.trans hjobs, hmem₂.trans hmem⟩
  · rw [hbit, hbits, if_pos (.inl rfl)]
  · rw [hbit, hbits, if_pos (.inr rfl)]
  · rw [hswitched, if_pos (List.mem_filter.mpr ⟨List.mem_range.mpr hi, decide_eq_true (hisland i ▸ hsrc)⟩), hisland]
  · rw [hswitched, if_neg, hisland]
    exact fun hmem => hsrc (hisland i ▸ of_decide_eq_true (List.mem_filter.mp hmem).2)

/-- With no master left the module is stilled. -/
theorem masterLoss_stills {which : Nat} (hw : which ≤ 1) (h : s.mach.srcReady (which + 1) = true) (hother : s.mach.srcReady (2 - which) = false) :
    ∃ m, Gives (.masterLockLoss which) s m ∧ s.mach.Stilled m := by
  have hg := gives_masterLoss hrun hw h
  rw [if_neg (by simp [hother])] at hg
  obtain ⟨hislands, hlinks, hports, hcan, hcores, hjobs, hmem⟩ := (s.mach.lockLost which).clocksLost_stilled
  have hobjs := SameObjs.lockLost s.mach which
  obtain ⟨hcores₁, hjobs₁, hmem₁⟩ : (s.mach.lockLost which).cores = s.mach.cores ∧ (s.mach.lockLost which).jobs = s.mach.jobs ∧
      (s.mach.lockLost which).mem = s.mach.mem := by
    rw [s.mach.lockLost_only which]
    exact ⟨rfl, rfl, rfl⟩
  generalize s.mach.lockLost which = m₁ at *
  have hcore : ∀ c, m₁.core c = s.mach.core c := fun c => congrArg (fun a : AMap Core => a.get (Core.init (c % 16)) c) hcores₁
  refine ⟨_, hg, hislands, fun l hl h4 => hlinks l hl ?_, hports, hcan, fun p c hp hc => ?_, hjobs.trans hjobs₁, hmem.trans hmem₁⟩
  · have hkey : okey (0x4840 + l) 2 ∉ [okey 0x2210 1, okey 0x200A 0] := by simp only [okey, List.mem_cons, List.not_mem_nil, or_false]; omega
    have hstate : m₁.linkState l = s.mach.linkState l := congrArg (fld · 6 4) (hobjs _ _ hkey)
    rwa [hstate]
  · have h64 : p < 64 := by
      simp only [Mach.formed, Bool.and_eq_true, decide_eq_true_eq] at hp
      exact hp.1
    have hkey : ∀ b, b = 2 ∨ b = 3 → okey (pix p) b ∉ [okey 0x2210 1, okey 0x200A 0] := by
      intro b hb
      simp only [okey, pix, List.mem_cons, List.not_mem_nil, or_false]
      omega
    have hpstate : m₁.pstate p = s.mach.pstate p := congrArg (fld · 4 3) (hobjs _ _ (hkey 2 (.inl rfl)))
    have hformed : m₁.formed p = s.mach.formed p := by rw [Mach.formed, Mach.formed, hpstate]
    have hcoresOf : m₁.coresOf p = s.mach.coresOf p := by simp only [Mach.coresOf, Mach.clusters, hobjs _ _ (hkey 3 (.inr rfl))]
    rw [← hcore]
    exact hcores p c (hformed.trans hp) (hcoresOf ▸ hc)

end

/-- Settles O43: the words of REFCLK by `Mach.refclkWord_fields`, the masters by `masterLoss_moves` and `masterLoss_stills`, the switches of an
island by `doSourceSwitch_accepted` and what a switch makes of it. -/
theorem clockSources : Obligations.ClockSources := by
  constructor
  · intro s hrun v masters moved
    refine ⟨fun hv => ?_, fun hv => ?_, fun hv => ?_, fun hv => ?_, fun which hw hready => ⟨fun hother => ?_, fun hother => ?_⟩,
      fun i hthere hsrc => ?_, fun i hthere hon => ⟨fun hgate => ?_, fun hgate => ?_⟩⟩
    · obtain ⟨h10, h32, h54⟩ := s.mach.refclkWord_fields true (v := 2) (by decide)
      have hobjs := SameObjs.refclkWord s.mach true 2
      have honly := s.mach.refclkWord_only true 2
      have hgives := gives_refclkLoss hrun hv
      generalize s.mach.refclkWord true 2 = m₁ at *
      have hkept : ((m₁.addObj32 0x2210 4 1).health).obj 0x2210 1 = m₁.obj 0x2210 1 :=
        (Mach.obj_health _ (by decide)).trans (Mach.obj_setObj_other m₁ (by decide) _)
      refine ⟨_, hgives, ?_, ?_, ?_, ?_, ?_, ?_, ?_⟩
      · rw [hkept, h10]
      · rw [hkept, h32, if_pos rfl]
      · rw [hkept, h54]
        rfl
      · rw [Mach.obj_health _ (by decide), Mach.obj_addObj32_same, hobjs _ _ (by decide)]
      · have hcount : (m₁.addObj32 0x2210 4 1).obj 0x200A 0 = s.mach.obj 0x200A 0 :=
          (Mach.obj_setObj_other m₁ (by decide) _).trans (hobjs _ _ (by decide))
        rw [Mach.obj_health_count, hcount]
      · exact SameObjs.trans (SameObjs.trans (SameObjs.mono (by simp) hobjs) (SameObjs.setObj m₁ _ _ _ (by simp)))
          (SameObjs.mono (by simp) (SameObjs.health _))
      · rw [Mach.health_only]
        unfold ObjsOnly at honly
        rw [honly]
        exact ⟨rfl, rfl, rfl, rfl⟩
    · have hg := gives_step .refclkLoss s doRefclkLoss rfl hrun
      rwa [doRefclkLoss, Mach.objBit, if_pos hv] at hg
    · obtain ⟨h10, h32, h54⟩ := s.mach.refclkWord_fields false (v := 1) (by decide)
      exact ⟨_, gives_refclkReturn hrun hv, h10, h32, h54, s.mach.refclkWord_only false 1, SameObjs.refclkWord s.mach false 1⟩
    · have hg := gives_step .refclkReturn s doRefclkReturn rfl hrun
      have hv' : s.mach.objBit 0x2210 1 1 = false := hv
      rwa [doRefclkReturn, hv'] at hg
    · exact masterLoss_moves hrun hw hready hother
    · obtain ⟨m, hg, hislands, hlinks, ⟨hport0, hport1⟩, hcan, hcores, hjobs, hmem⟩ := masterLoss_stills hrun hw hready hother
      refine ⟨m, hg, hislands, hlinks, hport0, hport1, hcan, fun p c hp hc => ?_, hjobs, hmem⟩
      obtain ⟨⟨hostDma, guestDma, hostRun, guestRun⟩, hstops⟩ := hcores p c hp hc
      exact ⟨hostDma, guestDma, hostRun.trans hstops.host, guestRun.trans hstops.guest⟩
    · have hisland : ∀ j, (s.mach.switchTo i 3).health.island j = (s.mach.switchTo i 3).island j := by
        intro j
        rw [Mach.health_only]
        rfl
      refine ⟨_, gives_synthLoss hrun hthere hsrc, ?_, fun j hj => ?_, Mach.obj_health_count _,
        SameObjs.trans (SameObjs.of_objs _ rfl) (SameObjs.health _)⟩
      · show (s.mach.switchTo i 3).health.island i = (s.mach.island i).taken 3
        rw [hisland, Mach.island_switchTo, if_pos rfl]
      · rw [hisland, Mach.island_switchTo, if_neg (Ne.symm hj)]
    · have hg := gives_step (.clockGate i) s (fun m => doGate m i) rfl hrun
      simpa only [doGate, hthere, hon, hgate, Bool.not_false, Bool.and_self, if_true] using hg
    · have hg := gives_step (.clockGate i) s (fun m => doGate m i) rfl hrun
      simpa only [doGate, hthere, hon, hgate, Bool.not_true, Bool.and_false, Bool.false_eq_true, if_false] using hg
  · intro s path i v hrun hi src x taken
    refine ⟨fun hserves => ⟨fun hthere => ?_, fun hthere hcompat hready => ?_, fun hthere hready => ?_⟩, fun hserves => ?_,
      fun k t0 hpend => ⟨fun hready => ?_, fun hready => ?_⟩⟩
    · have hg := gives_byPath (c := .sourceSwitch path i v) (f := doSourceSwitch i v) rfl hrun hserves
      rwa [doSourceSwitch, if_neg (by omega : ¬ i ≥ 180), hthere] at hg
    · have hg := gives_byPath (c := .sourceSwitch path i v) (f := doSourceSwitch i v) rfl hrun hserves
      have hrefused : doSourceSwitch i v s.mach = s.mach.reply abortState := by
        unfold doSourceSwitch
        rw [if_neg (by omega : ¬ i ≥ 180), if_neg (by simp [hthere])]
        exact if_pos (by simpa [hcompat] using hready)
      rwa [hrefused] at hg
    · have hg := gives_byPath (c := .sourceSwitch path i v) (f := doSourceSwitch i v) rfl hrun hserves
      rw [doSourceSwitch_accepted s.mach hi hthere hready] at hg
      refine ⟨_, hg, rfl, ?_, ?_, fun j hj => ?_, rfl, fun hsame => ?_, fun hdiff hok => ?_, fun hdiff hno => ?_⟩
      · exact (Mach.obj_eq_of_objs (Mach.setIsland_objs ..) _ _).trans (Mach.obj_setObj_same s.mach (0x2400 + i) 1 (v % 4))
      · exact SameObjs.trans (SameObjs.setObj s.mach _ _ _ (List.mem_singleton.mpr rfl)) (SameObjs.of_objs _ rfl)
      · exact Mach.setIsland_others _ hj _
      · exact (Mach.island_setIsland ..).trans ((if_pos rfl).trans (if_pos hsame))
      · exact (Mach.island_setIsland ..).trans ((if_pos rfl).trans ((if_neg hdiff).trans (if_pos hok)))
      · have hwait : ¬ s.mach.srcReady src = true := by simp [hno]
        exact (Mach.island_setIsland ..).trans ((if_pos rfl).trans ((if_neg hdiff).trans (if_neg hwait)))
    · have hg := gives_step (.sourceSwitch path i v) s (fun m => m.byPath path (doSourceSwitch i v)) rfl hrun
      rwa [Mach.byPath, hserves] at hg
    · have hstart := gives_step (.pendingSwitchStart i) s (fun m => doPendingStart m i) rfl hrun
      have hlate := gives_step (.switchTimeout i) s (fun m => doSwitchTimeout m i) rfl hrun
      rw [doPendingStart_eq s.mach hpend, if_pos hready] at hstart
      rw [doSwitchTimeout_eq s.mach hpend, if_neg (by simp [hready])] at hlate
      exact ⟨hstart, hlate⟩
    · have hstart := gives_step (.pendingSwitchStart i) s (fun m => doPendingStart m i) rfl hrun
      have hlate := gives_step (.switchTimeout i) s (fun m => doSwitchTimeout m i) rfl hrun
      rw [doPendingStart_eq s.mach hpend, if_neg (by simp [hready])] at hstart
      rw [doSwitchTimeout_eq s.mach hpend] at hlate
      refine ⟨hstart, fun hdue => ?_, fun hearly => ?_⟩
      · rwa [if_pos ⟨hready, hdue⟩] at hlate
      · rwa [if_neg (by omega)] at hlate

end Sys2Proof.Machine
end

section
/-! SUPPORT. Proofs: the grants of the power limiter (R468). -/

namespace Sys2Proof.Machine

/-! ## Grants lie within the requests -/

/-- What a table made of a list reads at the key of an entry, where no two entries share one. -/
theorem AMap.get_map_of_nodup {α β : Type} (key : α → Nat) (f : α → β) (d : β) {xs : List α} (h : (xs.map key).Nodup) {x : α} (hx : x ∈ xs) :
    AMap.get d (key x) (xs.map (fun y => (key y, f y))) = f x := by
  induction xs with
  | nil => exact absurd hx List.not_mem_nil
  | cons y t ih =>
    rw [List.map_cons, List.nodup_cons] at h
    obtain ⟨hy, ht⟩ := h
    rw [List.map_cons, AMap.get]
    rcases List.mem_cons.mp hx with rfl | hxt
    · exact if_pos rfl
    · have hne : key y ≠ key x := fun he => hy (he ▸ List.mem_map_of_mem hxt)
      rw [if_neg hne]
      exact ih ht hxt

theorem Load.share_le (x : Load) (left : Int) (total : Nat) : x.share left total ≤ x.req := by
  unfold Load.share
  cases h : (List.range (x.req + 1)).reverse.find? (fun k => x.fits left total k) with
  | none => exact Nat.zero_le _
  | some k =>
    have hk := List.mem_of_find?_eq_some h
    rw [List.mem_reverse, List.mem_range] at hk
    exact Nat.le_of_lt_succ hk

theorem Load.spend_le (x : Load) (n : Nat) {k : Nat} (h : k ≤ x.req) (left : Int) : (x.spend n k left).1 ≤ x.req := by
  induction n generalizing k left with
  | zero => exact h
  | succ n ih =>
    unfold Load.spend
    dsimp only
    split
    · next hgo => exact ih (Nat.succ_le_of_lt hgo.1) _
    · exact h

theorem waterFill_sublist (n : Nat) (left : Int) (xs : List Load) : (waterFill n left xs).2.Sublist xs := by
  induction n generalizing left xs with
  | zero => exact List.Sublist.refl xs
  | succ n ih =>
    unfold waterFill
    dsimp only
    split
    · exact List.Sublist.refl xs
    · exact (ih _ _).trans List.filter_sublist

theorem Load.eq_of_p {xs : List Load} (h : (xs.map Load.p).Nodup) {x y : Load} (hx : x ∈ xs) (hy : y ∈ xs) (he : x.p = y.p) : x = y :=
  List.inj_on_of_nodup_map h hx hy he

/-- What is granted is what is asked for where the requests fit, and no more than that where they do not. -/
theorem grants_spec (avail : Int) {xs : List Load} (h : (xs.map Load.p).Nodup) {x : Load} (hx : x ∈ xs) :
    AMap.get x.req x.p (grants avail xs) ≤ x.req ∧
    (xs.foldl (fun a y => a + y.at' y.req) 0 ≤ avail → AMap.get x.req x.p (grants avail xs) = x.req) := by
  unfold grants
  split
  · next hfits =>
    rw [AMap.get_map_of_nodup Load.p Load.req x.req h hx]
    exact ⟨Nat.le_refl _, fun _ => rfl⟩
  · next hover =>
    refine ⟨?_, fun hfits => absurd hfits hover⟩
    have hsub := waterFill_sublist (xs.length + 1) avail xs
    generalize waterFill (xs.length + 1) avail xs = filled at hsub
    obtain ⟨left, op⟩ := filled
    dsimp only
    generalize hbase : op.map (fun y => (y, y.share left (wSum op))) = base
    have hmem : ∀ e ∈ base, e.1 ∈ xs ∧ e.2 ≤ e.1.req := by
      intro e he
      rw [← hbase] at he
      obtain ⟨y, hy, rfl⟩ := List.mem_map.mp he
      exact ⟨hsub.subset hy, Load.share_le ..⟩
    rw [AMap.get_map_of_nodup Load.p _ x.req h hx]
    refine List.foldlRecOn (motive := fun acc : AMap Nat × Int => AMap.get x.req x.p acc.1 ≤ x.req) base _ (Nat.le_refl _) fun acc hacc e he => ?_
    obtain ⟨hin, hle⟩ := hmem e he
    dsimp only
    rw [AMap.get_put]
    split
    · next heq => exact Load.eq_of_p h hin hx heq ▸ Load.spend_le e.1 8 hle acc.2
    · exact hacc

/-! ## The objects the limiter writes -/

/-- The objects of the power of partitions that the limiter writes, and the warnings. -/
def limitKeys : List Nat := okey 0x2007 0 :: (List.range 64).flatMap (fun p => [okey (0x2500 + p) 2, okey (0x2500 + p) 7])

theorem mem_limitKeys {k : Nat} : k ∈ limitKeys ↔ k = okey 0x2007 0 ∨ ∃ p, p < 64 ∧ (k = okey (0x2500 + p) 2 ∨ k = okey (0x2500 + p) 7) := by
  simp [limitKeys]

/-- The highest point that the caps of a partition's islands allow (R463, R466). -/
def Mach.opCap (m : Mach) (p : Nat) : Nat := (m.clusters p).foldl (fun c g => min c (min (m.island g).cap (m.droopCap g))) 7

section
variable {m m' : Mach} (hobjs : SameObjs limitKeys m m') (honly : ObjsOnly m m')
include hobjs

theorem obj_limit {i b : Nat} (hi : i < 0x2500 ∨ 0x2540 ≤ i) (hb : b < 256) (h : i ≠ 0x2007) : m'.obj i b = m.obj i b := by
  refine hobjs i b fun hmem => ?_
  obtain hmem | ⟨p, hp, hmem | hmem⟩ := mem_limitKeys.mp hmem
  · exact h ((okey_inj hb (by decide)).mp hmem).1
  · obtain ⟨hi', -⟩ := (okey_inj hb (by decide)).mp hmem
    omega
  · obtain ⟨hi', -⟩ := (okey_inj hb (by decide)).mp hmem
    omega

theorem partOf_limit (g : Nat) : m'.partOf g = m.partOf g := by
  unfold Mach.partOf
  refine congrArg (fun f => List.find? f (List.range 64)) (funext fun p => ?_)
  have hpix : pix p < 0x2500 ∨ 0x2540 ≤ pix p := .inr (by unfold pix; omega)
  have hne : pix p ≠ 0x2007 := by unfold pix; omega
  have hstate : m'.pstate p = m.pstate p := congrArg (fld · 4 3) (obj_limit hobjs hpix (by decide) hne)
  rw [hstate, obj_limit hobjs hpix (by decide) hne]

include honly

theorem droopCap_limit (g : Nat) : m'.droopCap g = m.droopCap g := by
  have hdroop : m'.droop g = m.droop g := by
    unfold Mach.droop
    rw [partOf_limit hobjs]
    cases m.partOf g with
    | none => rfl
    | some p => simp only [Mach.objBit, obj_limit hobjs (i := 0x6180 + p) (b := 1) (.inr (by omega)) (by decide) (by omega)]
  have hgauge : m'.gauge g = m.gauge g := honly.keeps (fun m => m.gauge g) fun _ => rfl
  have hmv : ∀ k ∈ (List.range 8).reverse, m'.islandMv g k = m.islandMv g k := by
    intro k hk
    rw [List.mem_reverse, List.mem_range] at hk
    simp only [Mach.islandMv, hgauge, Mach.shipMv, Mach.field, obj_limit hobjs (i := 0x2201) (b := k + 1) (.inl (by decide)) (by omega) (by decide)]
  unfold Mach.droopCap
  rw [hdroop]
  refine congrArg (fun o : Nat => if (!m.droop g) = true then 7 else o) (congrArg (fun o : Option Nat => o.getD 0) ?_)
  refine List.find?_congr fun k hk => ?_
  rw [hmv k hk]

theorem opCap_limit (p : Nat) : m'.opCap p = m.opCap p := by
  have hclusters : m'.clusters p = m.clusters p :=
    Mach.clusters_of_obj (obj_limit hobjs (.inr (by unfold pix; omega)) (by decide) (by unfold pix; omega))
  have hisland : ∀ g, m'.island g = m.island g := fun g => honly.keeps (fun m => m.island g) fun _ => rfl
  unfold Mach.opCap
  rw [hclusters]
  refine congrArg (fun f => List.foldl f 7 (m.clusters p)) (funext fun c => funext fun g => ?_)
  rw [hisland, droopCap_limit hobjs honly]

end

/-- One partition is granted its point, and one below its request is counted and warned of. -/
def Mach.grantOne (gs : AMap Nat) (a : Mach) (x : Load) : Mach :=
  let g := min (gs.get x.req x.p) (a.opCap x.p)
  let b := a.setObj (0x2500 + x.p) 2 g
  if g < x.req then (b.addObj32 (0x2500 + x.p) 7 1).warn 4 else b

section
variable (gs : AMap Nat) (a : Mach) (x : Load)

theorem ObjsOnly.grantOne : ObjsOnly a (a.grantOne gs x) := by
  unfold Mach.grantOne
  dsimp only
  split
  · exact ObjsOnly.trans (ObjsOnly.trans (ObjsOnly.setObj ..) (ObjsOnly.addObj32 ..)) (ObjsOnly.setBit ..)
  · exact ObjsOnly.setObj ..

theorem SameObjs.grantOne : SameObjs [okey 0x2007 0, okey (0x2500 + x.p) 2, okey (0x2500 + x.p) 7] a (a.grantOne gs x) := by
  unfold Mach.grantOne
  dsimp only
  split
  · exact SameObjs.trans (SameObjs.trans (SameObjs.setObj _ _ _ _ (by simp)) (SameObjs.setObj _ _ _ _ (by simp))) (SameObjs.setBit _ _ _ _ _ (by simp))
  · exact SameObjs.setObj _ _ _ _ (by simp)

theorem Mach.grantOne_grant (hp : x.p < 64) : (a.grantOne gs x).obj (0x2500 + x.p) 2 = min (gs.get x.req x.p) (a.opCap x.p) ∧
    (a.grantOne gs x).obj (0x2500 + x.p) 7 = if min (gs.get x.req x.p) (a.opCap x.p) < x.req then
      min (a.obj (0x2500 + x.p) 7 + 1) (2 ^ 32 - 1) else a.obj (0x2500 + x.p) 7 := by
  have hwarn : ∀ b, b < 256 → okey 0x2007 0 ≠ okey (0x2500 + x.p) b := by
    intro b hb
    simp only [okey]
    omega
  have h27 : okey (0x2500 + x.p) 2 ≠ okey (0x2500 + x.p) 7 := by simp only [okey]; omega
  unfold Mach.grantOne
  dsimp only
  generalize min (gs.get x.req x.p) (a.opCap x.p) = g
  have hset : (a.setObj (0x2500 + x.p) 2 g).obj (0x2500 + x.p) 7 = a.obj (0x2500 + x.p) 7 := Mach.obj_setObj_other _ h27 _
  split
  · constructor
    · exact (Mach.obj_setField_other _ (hwarn 2 (by decide)) ..).trans
        ((Mach.obj_setObj_other _ (Ne.symm h27) _).trans (Mach.obj_setObj_same ..))
    · refine (Mach.obj_setField_other _ (hwarn 7 (by decide)) ..).trans ?_
      rw [Mach.obj_addObj32_same, hset]
  · exact ⟨Mach.obj_setObj_same .., hset⟩

end

/-- What granting a list of partitions comes to: each its point under its caps. -/
theorem Mach.grantAll_spec (m : Mach) (gs : AMap Nat) (xs : List Load) (hnodup : (xs.map Load.p).Nodup) (hp : ∀ x ∈ xs, x.p < 64) :
    let a := xs.foldl (Mach.grantOne gs) m
    ObjsOnly m a ∧ SameObjs limitKeys m a ∧
    (∀ i b, okey i b ≠ okey 0x2007 0 → (∀ x ∈ xs, okey i b ≠ okey (0x2500 + x.p) 2 ∧ okey i b ≠ okey (0x2500 + x.p) 7) → a.obj i b = m.obj i b) ∧
    ∀ x ∈ xs, a.obj (0x2500 + x.p) 2 = min (gs.get x.req x.p) (m.opCap x.p) ∧
      a.obj (0x2500 + x.p) 7 = if min (gs.get x.req x.p) (m.opCap x.p) < x.req then
        min (m.obj (0x2500 + x.p) 7 + 1) (2 ^ 32 - 1) else m.obj (0x2500 + x.p) 7 := by
  induction xs generalizing m with
  | nil => exact ⟨ObjsOnly.refl m, SameObjs.refl m _, fun _ _ _ _ => rfl, nofun⟩
  | cons x t ih =>
    intro a
    rw [List.map_cons, List.nodup_cons] at hnodup
    obtain ⟨hx, ht⟩ := hnodup
    obtain ⟨hx64, ht64⟩ := List.forall_mem_cons.mp hp
    obtain ⟨honly, hobjs, hother, hgrant⟩ := ih (m.grantOne gs x) ht ht64
    have hfirst := SameObjs.grantOne gs m x
    have hkeys : SameObjs limitKeys m (m.grantOne gs x) := by
      refine SameObjs.mono (fun k hk => mem_limitKeys.mpr ?_) hfirst
      simp only [List.mem_cons, List.not_mem_nil, or_false] at hk
      obtain hk | hk | hk := hk
      · exact .inl hk
      · exact .inr ⟨x.p, hx64, .inl hk⟩
      · exact .inr ⟨x.p, hx64, .inr hk⟩
    have hcap : ∀ p, (m.grantOne gs x).opCap p = m.opCap p := opCap_limit hkeys (ObjsOnly.grantOne gs m x)
    obtain ⟨hgrant₂, hgrant₇⟩ := m.grantOne_grant gs x hx64
    have hapart : ∀ y ∈ t, ∀ b c, b < 256 → c < 256 → okey (0x2500 + x.p) b ≠ okey (0x2500 + y.p) c := by
      intro y hy b c hb hc he
      obtain ⟨hi, -⟩ := (okey_inj hb hc).mp he
      exact hx ((by omega : y.p = x.p) ▸ List.mem_map_of_mem hy)
    have hwarn : ∀ y : Load, y.p < 64 → ∀ b, b < 256 → okey (0x2500 + y.p) b ≠ okey 0x2007 0 := by
      intro y hy b hb
      simp only [okey]
      omega
    refine ⟨ObjsOnly.trans (ObjsOnly.grantOne gs m x) honly, SameObjs.trans hkeys hobjs, fun i b hw hk => ?_, fun y hy => ?_⟩
    · obtain ⟨hkx, hkt⟩ := List.forall_mem_cons.mp hk
      refine (hother i b hw hkt).trans (hfirst i b ?_)
      simp only [List.mem_cons, List.not_mem_nil, or_false, not_or]
      exact ⟨hw, hkx⟩
    · rcases List.mem_cons.mp hy with rfl | hyt
      · have hkept : ∀ b, b < 256 → a.obj (0x2500 + y.p) b = (m.grantOne gs y).obj (0x2500 + y.p) b := fun b hb =>
          hother _ _ (hwarn y hx64 b hb) fun z hz => ⟨hapart z hz b 2 hb (by decide), hapart z hz b 7 hb (by decide)⟩
        rw [hkept 2 (by decide), hkept 7 (by decide)]
        exact ⟨hgrant₂, hgrant₇⟩
      · have hkept : (m.grantOne gs x).obj (0x2500 + y.p) 7 = m.obj (0x2500 + y.p) 7 := by
          refine hfirst _ _ ?_
          simp only [List.mem_cons, List.not_mem_nil, or_false, not_or]
          exact ⟨hwarn y (ht64 y hyt) 7 (by decide), (hapart y hyt 2 7 (by decide) (by decide)).symm, (hapart y hyt 7 7 (by decide) (by decide)).symm⟩
        obtain ⟨h₂, h₇⟩ := hgrant y hyt
        rw [hcap] at h₂ h₇
        rw [hkept] at h₇
        exact ⟨h₂, h₇⟩

/-! ## LIMITER_COMPUTE -/

/-- A formed partition as the limiter sees it. -/
def Mach.loadOf (m : Mach) (env : LimitEnv) (p : Nat) : Load :=
  { p := p, req := m.obj (0x2500 + p) 1, w := m.obj (0x2500 + p) 3, est := env.est.getD p [] }

/-- The power beside that of the partitions, by the estimates of their grants. -/
def Mach.otherPower (m : Mach) (env : LimitEnv) (xs : List Load) : Int :=
  xs.foldl (fun (a : Int) x => a - x.at' (m.obj (0x2500 + x.p) 2)) env.power

/-- 2280h.02 and .04 as the limiter shows them: whether a grant is below its request, and the other power. -/
def Mach.limitShown (m : Mach) (low : Bool) (other : Int) : Mach :=
  (m.setField 0x2280 2 1 0 (b2n low)).setObj 0x2280 4 (min 65535 (other / 1000).toNat)

theorem Mach.obj_limitShown (m : Mach) (low : Bool) (other : Int) {i : Nat} (h : i ≠ 0x2280) {b : Nat} (hb : b < 256) :
    (m.limitShown low other).obj i b = m.obj i b := by
  have hkey : ∀ c, c < 256 → okey 0x2280 c ≠ okey i b := fun c hc he => h ((okey_inj hc hb).mp he).1.symm
  exact (Mach.obj_setObj_other _ (hkey 4 (by decide)) _).trans (Mach.obj_setField_other _ (hkey 2 (by decide)) ..)

theorem Mach.objBit_limitShown (m : Mach) (low : Bool) (other : Int) : (m.limitShown low other).objBit 0x2280 2 0 = low := by
  have hfield : fld ((m.limitShown low other).obj 0x2280 2) 1 0 = b2n low := by
    have hobj : (m.limitShown low other).obj 0x2280 2 = (m.setField 0x2280 2 1 0 (b2n low)).obj 0x2280 2 := Mach.obj_setObj_other _ (by decide) _
    rw [hobj]
    refine (Mach.field_setField_same m 0x2280 2 1 0 (b2n low) (by decide)).trans ?_
    cases low <;> rfl
  rw [Mach.objBit]
  generalize (m.limitShown low other).obj 0x2280 2 = v at hfield ⊢
  have hbit : bit v 0 = decide (fld v 1 0 % 2 = 1) := by
    simp [bit, fld]
  rw [hbit, hfield]
  cases low <;> rfl

/-- The grants given, and 2280h with them. -/
def Mach.limited (m : Mach) (env : LimitEnv) (xs : List Load) : Mach :=
  let a := xs.foldl (Mach.grantOne (grants (1000 * m.obj 0x2280 1 - m.otherPower env xs) xs)) m
  a.limitShown (((List.range 64).filter m.formed).any (fun p => a.obj (0x2500 + p) 2 < a.obj (0x2500 + p) 1)) (m.otherPower env xs)

theorem doLimiter_eq {m : Mach} (env : LimitEnv) (htrip : m.tripped = false) (hon : m.online = true) :
    doLimiter m env = m.limited env (((List.range 64).filter m.formed).map (m.loadOf env)) := by
  unfold doLimiter
  rw [if_neg (by simp [htrip, hon])]
  rfl

/-- What the limiter leaves: only the objects of grants, their counts, the warnings and the limiting bit with the other power change; each formed
partition has its grant within its caps, and 2280h.02 shows whether one is below its request. -/
theorem Mach.limited_spec (m : Mach) (env : LimitEnv) {xs : List Load} (hxs : xs = ((List.range 64).filter m.formed).map (m.loadOf env)) :
    let gs := grants (1000 * m.obj 0x2280 1 - m.otherPower env xs) xs
    ObjsOnly m (m.limited env xs) ∧
    (∀ p ∈ (List.range 64).filter m.formed,
      (m.limited env xs).obj (0x2500 + p) 2 = min (gs.get (m.obj (0x2500 + p) 1) p) (m.opCap p) ∧
      (m.limited env xs).obj (0x2500 + p) 7 = if (m.limited env xs).obj (0x2500 + p) 2 < m.obj (0x2500 + p) 1 then
        min (m.obj (0x2500 + p) 7 + 1) (2 ^ 32 - 1) else m.obj (0x2500 + p) 7) ∧
    (m.limited env xs).objBit 0x2280 2 0 =
      ((List.range 64).filter m.formed).any (fun p => (m.limited env xs).obj (0x2500 + p) 2 < m.obj (0x2500 + p) 1) := by
  intro gs
  have hkeys : xs.map Load.p = (List.range 64).filter m.formed := by
    rw [hxs, List.map_map]
    exact List.map_id _
  have h64 : ∀ p ∈ (List.range 64).filter m.formed, p < 64 := fun p hp => List.mem_range.mp (List.mem_filter.mp hp).1
  have hx64 : ∀ x ∈ xs, x.p < 64 := fun x hx => h64 x.p (hkeys ▸ List.mem_map_of_mem hx)
  obtain ⟨honly, -, hother, hgrant⟩ := m.grantAll_spec gs xs (hkeys ▸ List.nodup_range.filter _) hx64
  unfold Mach.limited
  generalize xs.foldl (Mach.grantOne gs) m = a at honly hother hgrant
  have hgranted : ∀ p ∈ (List.range 64).filter m.formed, a.obj (0x2500 + p) 2 = min (gs.get (m.obj (0x2500 + p) 1) p) (m.opCap p) ∧
      a.obj (0x2500 + p) 7 = if a.obj (0x2500 + p) 2 < m.obj (0x2500 + p) 1 then
        min (m.obj (0x2500 + p) 7 + 1) (2 ^ 32 - 1) else m.obj (0x2500 + p) 7 := by
    intro p hp
    obtain ⟨h₂, h₇⟩ := hgrant (m.loadOf env p) (hxs ▸ List.mem_map_of_mem hp)
    have hgrantOf : a.obj (0x2500 + p) 2 = min (gs.get (m.obj (0x2500 + p) 1) p) (m.opCap p) := h₂
    rw [hgrantOf]
    exact ⟨rfl, h₇⟩
  have hreq : ∀ p ∈ (List.range 64).filter m.formed, a.obj (0x2500 + p) 1 = m.obj (0x2500 + p) 1 := by
    intro p hp
    refine hother _ _ (by simp only [okey]; omega) fun x _ => ?_
    exact ⟨okey_ne_of_sub _ _ (by decide) (by decide) (by decide), okey_ne_of_sub _ _ (by decide) (by decide) (by decide)⟩
  have hlow : ((List.range 64).filter m.formed).any (fun p => a.obj (0x2500 + p) 2 < a.obj (0x2500 + p) 1) =
      ((List.range 64).filter m.formed).any (fun p => a.obj (0x2500 + p) 2 < m.obj (0x2500 + p) 1) := by
    rw [Bool.eq_iff_iff, List.any_eq_true, List.any_eq_true]
    exact exists_congr fun p => and_congr_right fun hp => by rw [hreq p hp]
  suffices hshown : ∀ low : Bool, low = ((List.range 64).filter m.formed).any (fun p => a.obj (0x2500 + p) 2 < m.obj (0x2500 + p) 1) →
      ObjsOnly m (a.limitShown low (m.otherPower env xs)) ∧
      (∀ p ∈ (List.range 64).filter m.formed,
        (a.limitShown low (m.otherPower env xs)).obj (0x2500 + p) 2 = min (gs.get (m.obj (0x2500 + p) 1) p) (m.opCap p) ∧
        (a.limitShown low (m.otherPower env xs)).obj (0x2500 + p) 7 =
          if (a.limitShown low (m.otherPower env xs)).obj (0x2500 + p) 2 < m.obj (0x2500 + p) 1 then
            min (m.obj (0x2500 + p) 7 + 1) (2 ^ 32 - 1) else m.obj (0x2500 + p) 7) ∧
      (a.limitShown low (m.otherPower env xs)).objBit 0x2280 2 0 =
        ((List.range 64).filter m.formed).any (fun p => (a.limitShown low (m.otherPower env xs)).obj (0x2500 + p) 2 < m.obj (0x2500 + p) 1) from
    hshown _ hlow
  intro low hlow
  have hkept : ∀ p ∈ (List.range 64).filter m.formed, ∀ b, b < 256 → (a.limitShown low (m.otherPower env xs)).obj (0x2500 + p) b = a.obj (0x2500 + p) b :=
    fun p hp b hb => a.obj_limitShown low _ (by have := h64 p hp; omega) hb
  refine ⟨ObjsOnly.trans honly (ObjsOnly.trans (ObjsOnly.setField ..) (ObjsOnly.setObj ..)), fun p hp => ?_, ?_⟩
  · rw [hkept p hp 2 (by decide), hkept p hp 7 (by decide)]
    exact hgranted p hp
  · refine (Mach.objBit_limitShown ..).trans (hlow.trans ?_)
    rw [Bool.eq_iff_iff, List.any_eq_true, List.any_eq_true]
    exact exists_congr fun p => and_congr_right fun hp => by rw [hkept p hp 2 (by decide)]

end Sys2Proof.Machine
end

section
/-! SUPPORT. Proofs: operating points, sheds, thermal rules and energy windows (R464 to R471). -/

namespace Sys2Proof.Machine

section
variable (m : Mach)

/-! ## An operating point moves (R465, R466, R482) -/

/-- An island whose move up is not confirmed: capped where it is, with a replan asked for. -/
def Mach.gaugeFailed (i : Nat) : Mach := { m.setIsland i { m.island i with
  gaugeFail := true
  cap := (m.island i).op } with wantReplan := true }

theorem doOpMove_failed {i : Nat} {slack : Int} (hi : i < 136) (hthere : m.islandThere i = true) (hpow : m.powered i = true)
    (hup : (m.island i).op < m.opTarget i) (hslack : slack < 10) : ObjsOnly (m.gaugeFailed i) (doOpMove m i slack) := by
  have hmoves : ¬ ((decide (i ≥ 136) || !m.islandThere i || !m.powered i || decide ((m.island i).op = m.opTarget i)) = true) := by
    simp [hthere, hpow]
    omega
  have hno : ¬ ((decide (m.opTarget i < (m.island i).op) || decide (slack ≥ 10)) = true) := by
    simp
    omega
  unfold doOpMove
  dsimp only
  rw [if_neg hmoves, if_neg hno]
  change ObjsOnly (m.gaugeFailed i) (match (m.gaugeFailed i).partOf i with
    | some p => if i < 128 then (m.gaugeFailed i).setObj (0x2500 + p) 2 _ else m.gaugeFailed i
    | none => m.gaugeFailed i)
  generalize m.gaugeFailed i = a
  split
  · split
    · exact ObjsOnly.setObj ..
    · exact ObjsOnly.refl a
  · exact ObjsOnly.refl a

theorem doOpMove_moved {i : Nat} {slack : Int} (hi : i < 136) (hthere : m.islandThere i = true) (hpow : m.powered i = true)
    (h : m.opTarget i < (m.island i).op ∨ ((m.island i).op < m.opTarget i ∧ 10 ≤ slack)) :
    doOpMove m i slack = m.setIsland i { m.island i with op := m.opTarget i } := by
  have hmoves : ¬ ((decide (i ≥ 136) || !m.islandThere i || !m.powered i || decide ((m.island i).op = m.opTarget i)) = true) := by
    simp [hthere, hpow]
    omega
  have hgo : (decide (m.opTarget i < (m.island i).op) || decide (slack ≥ 10)) = true := by
    simp
    omega
  unfold doOpMove
  dsimp only
  rw [if_neg hmoves, if_pos hgo]

/-! ## The compute islands -/

/-- The compute islands that run depend on the islands, the clusters that are off and the states of stacks and links alone. -/
theorem Mach.computeIslands_congr {m' : Mach} (hobj : ∀ i b, 0x4100 ≤ i → m'.obj i b = m.obj i b) (hislands : m'.islands = m.islands)
    (hoff : m'.offClusters = m.offClusters) : m'.computeIslands = m.computeIslands := by
  have hisland : ∀ i, m'.island i = m.island i := fun i => congrArg (fun a : AMap Island => a.get (Island.init i) i) hislands
  have hthere : ∀ i, m'.islandThere i = m.islandThere i := fun i => by simp only [Mach.islandThere, hoff]
  have hstack : ∀ s, m'.inService s = m.inService s := fun s => by
    have hstate : m'.stackState s = m.stackState s := congrArg (fld · 3 0) (hobj (0x4100 + s) 2 (by omega))
    rw [Mach.inService, Mach.inService, hstate]
  have hlink : ∀ l, m'.linkState l = m.linkState l := fun l => congrArg (fld · 6 4) (hobj (0x4840 + l) 2 (by omega))
  have hpow : ∀ i, m'.powered i = m.powered i := fun i => by
    have hen : ∀ l, m'.objBit (0x4840 + l) 1 0 = m.objBit (0x4840 + l) 1 0 := fun l => congrArg (bit · 0) (hobj (0x4840 + l) 1 (by omega))
    simp only [Mach.powered, hisland, hstack, hlink, hen]
  simp only [Mach.computeIslands, hthere, hpow]

theorem Mach.nodup_computeIslands : m.computeIslands.Nodup := List.nodup_range.filter _

/-- Compute islands moved to another operating point. -/
def Mach.moveAll (is : List Nat) (f : Nat → Nat) : Mach :=
  is.foldl (fun (a : Mach) i => a.setIsland i { a.island i with op := f (a.island i).op }) m

theorem Mach.moveAll_only (is : List Nat) (f : Nat → Nat) : m.moveAll is f = { m with islands := (m.moveAll is f).islands } :=
  m.mapAll_only (fun x => { x with op := f x.op }) is

theorem Mach.island_moveAll (f : Nat → Nat) (j : Nat) : (m.moveAll m.computeIslands f).island j =
    if j ∈ m.computeIslands then { m.island j with op := f (m.island j).op } else m.island j :=
  m.island_mapAll (fun x => { x with op := f x.op }) m.nodup_computeIslands j

/-! ## FAST_SHED (R469) -/

/-- A shed told: 2280h.02 shows it and 2280h.03 counts it. -/
def Mach.shedShown : Mach := (m.setBit 0x2280 2 1 true).addObj32 0x2280 3 1

theorem ObjsOnly.shedShown : ObjsOnly m m.shedShown := ObjsOnly.trans (ObjsOnly.setBit m 0x2280 2 1 true) (ObjsOnly.addObj32 ..)

theorem Mach.shedShown_objs : m.shedShown.objBit 0x2280 2 1 = true ∧ m.shedShown.obj 0x2280 3 = min (m.obj 0x2280 3 + 1) (2 ^ 32 - 1) ∧
    SameObjs [okey 0x2280 2, okey 0x2280 3] m m.shedShown := by
  refine ⟨?_, ?_, SameObjs.trans (SameObjs.setBit m _ _ _ _ (by simp)) (SameObjs.setObj _ _ _ _ (by simp))⟩
  · exact (Mach.objBit_of_obj _ (Mach.obj_setObj_other _ (by decide) _) 1).trans (Mach.objBit_setBit_same ..)
  · refine (Mach.obj_addObj32_same ..).trans ?_
    have hkept : (m.setBit 0x2280 2 1 true).obj 0x2280 3 = m.obj 0x2280 3 := Mach.obj_setObj_other _ (by decide) _
    rw [hkept]

theorem doShed_over {watts : Nat} (hon : m.online = true) (h : 105 * m.obj 0x2280 1 < 100 * watts) :
    doShed m watts = (m.moveAll m.computeIslands (· - 1)).shedShown := by
  unfold doShed
  rw [if_neg (by simp [hon]), if_neg (by omega)]
  rfl

theorem doShed_within {watts : Nat} (hon : m.online = true) (h : 100 * watts ≤ 105 * m.obj 0x2280 1) : doShed m watts = m.setBit 0x2280 2 1 false := by
  unfold doShed
  rw [if_neg (by simp [hon]), if_pos h]

/-! ## THERMAL_CAP (R470) -/

/-- The highest operating point of a die's clusters. -/
def Mach.dieTop (d : Nat) : Nat := (List.range 16).foldl (fun x c => max x (m.island (16 * d + c)).op) 0

/-- The word of a die's cap, capped lower while the die is hot and let up as it has cooled. -/
def capWord (old : Nat) (top : Nat) (t thr : Int) : Nat :=
  if t > thr ∨ (old % 2 = 1 ∧ t > thr - 20) then 2 * (min (old / 2) top - 1) + 1 else if old / 2 < 7 then 2 * (old / 2 + 1) else old

/-- The cap of a die after a sample. -/
def Mach.capDie (temps : List Int) (thr : Int) (d : Nat) : Mach :=
  { m with dieCap :=
    if temps.getD d 0 > thr ∨ ((m.dieLimit d).2 ∧ temps.getD d 0 > thr - 20) then m.dieCap.put d (2 * (min (m.dieLimit d).1 (m.dieTop d) - 1) + 1)
    else if (m.dieLimit d).1 < 7 then m.dieCap.put d (2 * ((m.dieLimit d).1 + 1)) else m.dieCap }

theorem Mach.get_capDie (temps : List Int) (thr : Int) (d e : Nat) : (m.capDie temps thr d).dieCap.get 14 e =
    if d = e then capWord (m.dieCap.get 14 e) (m.dieTop e) (temps.getD e 0) thr else m.dieCap.get 14 e := by
  by_cases hde : d = e
  · subst hde
    have hfalls : (m.dieLimit d).2 = true ↔ m.dieCap.get 14 d % 2 = 1 := decide_eq_true_iff
    have hcap : (m.dieLimit d).1 = m.dieCap.get 14 d / 2 := rfl
    rw [if_pos rfl]
    unfold Mach.capDie capWord
    dsimp only
    by_cases hhot : temps.getD d 0 > thr ∨ (m.dieCap.get 14 d % 2 = 1 ∧ temps.getD d 0 > thr - 20)
    · rw [if_pos hhot, if_pos (hhot.imp_right fun h => ⟨hfalls.mpr h.1, h.2⟩), AMap.get_put, if_pos rfl, hcap]
    · rw [if_neg hhot, if_neg (fun h => hhot (h.imp_right fun h => ⟨hfalls.mp h.1, h.2⟩))]
      by_cases hlow : m.dieCap.get 14 d / 2 < 7
      · rw [if_pos hlow, if_pos (hcap ▸ hlow), AMap.get_put, if_pos rfl, hcap]
      · rw [if_neg hlow, if_neg (hcap ▸ hlow)]
  · rw [if_neg hde]
    simp only [Mach.capDie]
    split
    · rw [AMap.get_put, if_neg hde]
    · split
      · rw [AMap.get_put, if_neg hde]
      · rfl

/-- The caps of the dies listed, each by its own temperature. -/
def Mach.capDies (temps : List Int) (thr : Int) (ds : List Nat) : Mach := ds.foldl (fun (a : Mach) d => a.capDie temps thr d) m

theorem Mach.capDies_only (temps : List Int) (thr : Int) (ds : List Nat) :
    m.capDies temps thr ds = { m with dieCap := (m.capDies temps thr ds).dieCap } := by
  unfold Mach.capDies
  refine List.foldlRecOn (motive := fun a : Mach => a = { m with dieCap := a.dieCap }) ds _ rfl fun a ha d _ => ?_
  rw [ha]
  rfl

theorem Mach.get_capDies (temps : List Int) (thr : Int) {ds : List Nat} (hnodup : ds.Nodup) (e : Nat) :
    (m.capDies temps thr ds).dieCap.get 14 e =
      if e ∈ ds then capWord (m.dieCap.get 14 e) (m.dieTop e) (temps.getD e 0) thr else m.dieCap.get 14 e := by
  induction ds generalizing m with
  | nil => rfl
  | cons d t ih =>
    obtain ⟨hd, ht⟩ := List.nodup_cons.mp hnodup
    have hstep : (m.capDies temps thr (d :: t)).dieCap.get 14 e = _ := ih (m.capDie temps thr d) ht
    have htop : (m.capDie temps thr d).dieTop e = m.dieTop e := rfl
    rw [hstep, htop, Mach.get_capDie]
    by_cases hde : d = e
    · subst hde
      simp [hd]
    · have hed : e ≠ d := fun h => hde h.symm
      simp [hde, hed]

theorem doThermalCap_eq (temps : List Int) (hon : m.online = true) : doThermalCap m temps =
    (m.capDies temps (toSigned 16 (m.obj 0x2006 1)) (List.range 8)).setBit 0x2280 2 2
      ((List.range 8).any (fun d => ((m.capDies temps (toSigned 16 (m.obj 0x2006 1)) (List.range 8)).dieLimit d).1 < 7)) := by
  have hstep : ∀ (a : Mach) (thr : Int) (d : Nat), (if temps.getD d 0 > thr ∨ ((a.dieLimit d).2 ∧ temps.getD d 0 > thr - 20) then
      { a with dieCap := a.dieCap.put d (2 * (min (a.dieLimit d).1 (a.dieTop d) - 1) + 1) }
      else if (a.dieLimit d).1 < 7 then { a with dieCap := a.dieCap.put d (2 * ((a.dieLimit d).1 + 1)) } else a) = a.capDie temps thr d := by
    intro a thr d
    unfold Mach.capDie
    split
    · rfl
    · split <;> rfl
  have hfold : ∀ thr, (List.range 8).foldl (fun (a : Mach) d =>
      if temps.getD d 0 > thr ∨ ((a.dieLimit d).2 ∧ temps.getD d 0 > thr - 20) then
        { a with dieCap := a.dieCap.put d (2 * (min (a.dieLimit d).1 (a.dieTop d) - 1) + 1) }
      else if (a.dieLimit d).1 < 7 then { a with dieCap := a.dieCap.put d (2 * ((a.dieLimit d).1 + 1)) } else a) m = m.capDies temps thr (List.range 8) :=
    fun thr => congrArg (fun f => List.foldl f m (List.range 8)) (funext fun a => funext fun d => hstep a thr d)
  rw [← hfold]
  unfold doThermalCap
  rw [if_neg (by simp [hon])]
  rfl

/-! ## The trip (R470) -/

/-- A trip told: 2280h.02 and the warnings show it, and its condition is active. -/
def Mach.tripShown (temps : List Int) : Mach := ((m.setBit 0x2280 2 3 true).warn 3).emcySet .trip (tempDetail (hottest temps))

theorem Mach.tripShown_spec (temps : List Int) : AlarmsOnly ((m.setBit 0x2280 2 3 true).warn 3) (m.tripShown temps) ∧
    (m.tripShown temps).tripped = true ∧ (m.tripShown temps).objBit 0x2007 0 3 = true ∧ EmcyCond.trip ∈ (m.tripShown temps).can.active := by
  have halarms : AlarmsOnly ((m.setBit 0x2280 2 3 true).warn 3) (m.tripShown temps) := AlarmsOnly.emcySet _ _ _
  refine ⟨halarms, ?_, ?_, ((Mach.emcySet_can _ _ _).2 _ rfl).mpr (.inl rfl)⟩
  · refine (halarms.objBit (by decide) 3).trans ?_
    exact (Mach.objBit_of_obj _ (Mach.obj_setField_other _ (by decide) ..) 3).trans (Mach.objBit_setBit_same ..)
  · exact (halarms.objBit (by decide) 3).trans (Mach.objBit_setBit_same ..)

theorem doTrip_asserted {temps : List Int} (htrip : m.tripped = false) (h : ∃ t ∈ temps, 1050 ≤ t) :
    doTrip m temps = (m.tripShown temps).moveAll (m.tripShown temps).computeIslands (fun _ => 0) := by
  have hhot : temps.any (fun t => decide (t ≥ 1050)) = true := by simpa using h
  unfold doTrip
  rw [if_neg (by simp [htrip, hhot])]
  rfl

/-- The alarms of a trip leave the compute islands as they are. -/
theorem Mach.computeIslands_tripShown (temps : List Int) : (m.tripShown temps).computeIslands = m.computeIslands := by
  obtain ⟨halarms, -⟩ := m.tripShown_spec temps
  obtain ⟨hislands, hoff⟩ : (m.tripShown temps).islands = m.islands ∧ (m.tripShown temps).offClusters = m.offClusters := by
    rw [halarms.fields]
    exact ⟨rfl, rfl⟩
  refine m.computeIslands_congr (fun i b hi => ?_) hislands hoff
  have hemcy : okey i b ∉ emcyKeys := by
    simp only [emcyKeys, List.mem_append, List.mem_cons, List.not_mem_nil, or_false, List.mem_map, List.mem_range, okey]
    rintro (h | ⟨k, hk, h⟩) <;> omega
  refine (halarms.obj hemcy).trans ?_
  exact (Mach.obj_setField_other _ (by simp only [okey]; omega) ..).trans (Mach.obj_setField_other _ (by simp only [okey]; omega) ..)

end

end Sys2Proof.Machine
end

section
/-! SUPPORT. Proofs: energy windows, and the power obligation settled (R465 to R471). -/

namespace Sys2Proof.Machine

/-! ## ENERGY_WINDOW (R471) -/

section
variable (m : Mach)

/-- The energy, the work, the quotient and the count of a window that ends. -/
def Mach.windowCounted (mJ n q : Nat) : Mach := (((m.setObj 0x2300 2 mJ).setObj 0x2300 3 n).setObj 0x2300 4 q).addObj32 0x2300 5 1

theorem ObjsOnly.windowCounted (mJ n q : Nat) : ObjsOnly m (m.windowCounted mJ n q) :=
  ObjsOnly.trans (ObjsOnly.trans (ObjsOnly.trans (ObjsOnly.setObj m 0x2300 2 mJ) (ObjsOnly.setObj _ 0x2300 3 n)) (ObjsOnly.setObj _ 0x2300 4 q))
    (ObjsOnly.addObj32 ..)

/-- The objects of a window that ends, its validity among them. -/
def Mach.windowShown (mJ n q : Nat) : Mach :=
  (m.windowCounted mJ n q).setObj 0x2300 6 (b2n (mJ ≥ 500 * (m.windowCounted mJ n q).winLen))

theorem ObjsOnly.windowShown (mJ n q : Nat) : ObjsOnly m (m.windowShown mJ n q) :=
  ObjsOnly.trans (ObjsOnly.windowCounted m mJ n q) (ObjsOnly.setObj ..)

theorem Mach.obj_windowShown (mJ n q : Nat) : (m.windowShown mJ n q).obj 0x2300 1 = m.obj 0x2300 1 ∧ (m.windowShown mJ n q).obj 0x2300 2 = mJ ∧
    (m.windowShown mJ n q).obj 0x2300 3 = n ∧ (m.windowShown mJ n q).obj 0x2300 4 = q ∧
    (m.windowShown mJ n q).obj 0x2300 5 = min (m.obj 0x2300 5 + 1) (2 ^ 32 - 1) ∧
    (m.windowShown mJ n q).obj 0x2300 6 = b2n (500 * m.winLen ≤ mJ) := by
  have hlen : (m.windowCounted mJ n q).winLen = m.winLen := (ObjsOnly.windowCounted m mJ n q).keeps Mach.winLen fun _ => rfl
  unfold Mach.windowShown
  rw [hlen]
  unfold Mach.windowCounted
  have hset : ∀ (a : Mach) (b c v : Nat), b ≠ c → (a.setObj 0x2300 b v).obj 0x2300 c = a.obj 0x2300 c :=
    fun a b c v h => Mach.obj_setObj_other a (fun he => h ((okey_right ..).mp he)) v
  have hadd : ∀ (a : Mach) (c : Nat), 5 ≠ c → (a.addObj32 0x2300 5 1).obj 0x2300 c = a.obj 0x2300 c := fun a c h => hset a 5 c _ h
  refine ⟨?_, ?_, ?_, ?_, ?_, Mach.obj_setObj_same ..⟩
  · rw [hset _ 6 1 _ (by decide), hadd _ 1 (by decide), hset _ 4 1 _ (by decide), hset _ 3 1 _ (by decide), hset _ 2 1 _ (by decide)]
  · rw [hset _ 6 2 _ (by decide), hadd _ 2 (by decide), hset _ 4 2 _ (by decide), hset _ 3 2 _ (by decide), Mach.obj_setObj_same]
  · rw [hset _ 6 3 _ (by decide), hadd _ 3 (by decide), hset _ 4 3 _ (by decide), Mach.obj_setObj_same]
  · rw [hset _ 6 4 _ (by decide), hadd _ 4 (by decide), Mach.obj_setObj_same]
  · rw [hset _ 6 5 _ (by decide), Mach.obj_addObj32_same, hset _ 4 5 _ (by decide), hset _ 3 5 _ (by decide), hset _ 2 5 _ (by decide)]

/-- The next window begins where this one ended. -/
def Mach.nextWindow (edge : Nat) : Mach := { m with
  winT0 := edge
  winLen := m.obj 0x2300 1
  winWork := m.workSum }

/-- The quotient of a window: of its work, or a free value. -/
def Mach.windowPj (mJ : Nat) : Nat :=
  if m.workSum - m.winWork = 0 then Config.freeNat m.free 0 % 2 ^ 32
  else rne32 (div32 (.ofInt (mJ * 10 ^ 9)) (.ofInt ((m.workSum - m.winWork : Nat) : Int)))

/-- A window that ends is published, behind a draw of a free value where it had no work. -/
theorem doWindow_due {mJ : Nat} (h : m.winT0 + 25000 * m.winLen ≤ m.rc) : ∃ a, (a = m ∨ a = m.fresh.2) ∧ doWindow m mJ =
    (a.windowShown mJ (m.workSum - m.winWork) (m.windowPj mJ)).nextWindow (m.winT0 + 25000 * m.winLen) := by
  unfold doWindow Mach.windowPj
  dsimp only
  rw [if_neg (by omega)]
  by_cases hn : m.workSum - m.winWork = 0
  · refine ⟨m.fresh.2, .inr rfl, ?_⟩
    rw [if_pos hn, if_pos hn]
    rfl
  · refine ⟨m, .inl rfl, ?_⟩
    rw [if_neg hn, if_neg hn]
    rfl

end

section
variable {s : State} (hrun : s.mach.phase = .running)
include hrun

/-! ## The commands -/

theorem gives_opMove (i : Nat) (slack : Int) : Gives (.opMove i slack) s (doOpMove s.mach i slack) :=
  gives_step (.opMove i slack) s (fun m => doOpMove m i slack) rfl hrun

/-- A timed command before its period has passed. -/
theorem gives_every_early {c : Instr} {k period : Nat} {f : Mach → Mach} (hexec : exec c s = s.step (fun m => m.every k period f))
    (h : s.mach.rc < s.mach.timers.get 0 k + period) : Gives c s s.mach := by
  have hg := gives_step c s (fun m => m.every k period f) hexec hrun
  rwa [Mach.every_early _ _ h] at hg

/-- A timed command once its period has passed. -/
theorem gives_every_due {c : Instr} {k period : Nat} {f : Mach → Mach} (hexec : exec c s = s.step (fun m => m.every k period f))
    (h : s.mach.timers.get 0 k + period ≤ s.mach.rc) : Gives c s (f { s.mach with timers := s.mach.timers.put k s.mach.rc }) := by
  have hg := gives_step c s (fun m => m.every k period f) hexec hrun
  rwa [Mach.every_due _ _ h] at hg

end

/-- An operating point that moves, up or down, or stays. -/
theorem opMoves {s : State} (hrun : s.mach.phase = .running) {i : Nat} {slack : Int} (hi : i < 136) (hthere : s.mach.islandThere i = true)
    (hpow : s.mach.powered i = true) :
    let x := s.mach.island i
    let b := s.mach.opTarget i
    (x.op = b → Gives (.opMove i slack) s s.mach) ∧
    (b < x.op ∨ (x.op < b ∧ 10 ≤ slack) → Gives (.opMove i slack) s (s.mach.setIsland i { x with op := b })) ∧
    (x.op < b → slack < 10 → ∃ m, Gives (.opMove i slack) s m ∧ m.wantReplan = true ∧ m.mem = s.mach.mem ∧ m.cores = s.mach.cores ∧
      m.island i = { x with
        gaugeFail := true
        cap := x.op } ∧ ∀ j, j ≠ i → m.island j = s.mach.island j) := by
  intro x b
  have hg := gives_opMove hrun i slack
  refine ⟨fun hsame => ?_, fun hmove => ?_, fun hup hslack => ?_⟩
  · have hstay : doOpMove s.mach i slack = s.mach := by
      unfold doOpMove
      have hx : (s.mach.island i).op = s.mach.opTarget i := hsame
      simp [hx]
    rwa [hstay] at hg
  · rwa [doOpMove_moved s.mach hi hthere hpow hmove] at hg
  · have honly := doOpMove_failed s.mach hi hthere hpow hup hslack
    have hisland : ∀ j, (doOpMove s.mach i slack).island j = (s.mach.gaugeFailed i).island j := fun j => honly.keeps (fun m => m.island j) fun _ => rfl
    refine ⟨_, hg, honly.keeps Mach.wantReplan fun _ => rfl, honly.keeps Mach.mem fun _ => rfl, honly.keeps Mach.cores fun _ => rfl, ?_, fun j hj => ?_⟩
    · rw [hisland]
      exact (Mach.island_setIsland ..).trans (if_pos rfl)
    · rw [hisland]
      exact Mach.setIsland_others s.mach hj _

/-- The limiter's grants, once a millisecond while no trip is asserted. -/
theorem limits {s : State} (hrun : s.mach.phase = .running) (env : LimitEnv) :
    let start : Mach := { s.mach with timers := s.mach.timers.put everyLimiter s.mach.rc }
    s.mach.timers.get 0 everyLimiter + 25000 ≤ s.mach.rc → s.mach.tripped = false → s.mach.online = true →
    ∃ m, Gives (.limiterCompute env) s m ∧ m = { start with objs := m.objs } ∧
      let est (p k : Nat) : Int := ((env.est.getD p []).getD k 0 : Nat)
      let ps := (List.range 64).filter start.formed
      let req (p : Nat) : Nat := s.mach.obj (0x2500 + p) 1
      let other : Int := ps.foldl (fun a p => a - est p (s.mach.obj (0x2500 + p) 2)) env.power
      let cap (p : Nat) : Nat := (start.clusters p).foldl (fun c g => min c (min (start.island g).cap (start.droopCap g))) 7
      (∀ p ∈ ps, m.obj (0x2500 + p) 2 ≤ req p ∧ m.obj (0x2500 + p) 2 ≤ cap p) ∧
      (ps.foldl (fun (a : Int) p => a + est p (req p)) 0 ≤ 1000 * s.mach.obj 0x2280 1 - other →
        ∀ p ∈ ps, m.obj (0x2500 + p) 2 = min (req p) (cap p)) ∧
      (∀ p ∈ ps, m.obj (0x2500 + p) 7 = if m.obj (0x2500 + p) 2 < req p then min (s.mach.obj (0x2500 + p) 7 + 1) (2 ^ 32 - 1)
        else s.mach.obj (0x2500 + p) 7) ∧
      m.objBit 0x2280 2 0 = ps.any (fun p => m.obj (0x2500 + p) 2 < req p) := by
  intro start hdue htrip hon
  have hg := gives_every_due hrun (c := .limiterCompute env) (f := fun m => doLimiter m env) rfl hdue
  have hlimited : doLimiter start env = _ := doLimiter_eq (m := start) env htrip hon
  rw [hlimited] at hg
  obtain ⟨honly, hgrants, hlow⟩ := start.limited_spec env rfl
  refine ⟨_, hg, honly, ?_⟩
  intro est ps req other cap
  have hnodup : ((ps.map (start.loadOf env)).map Load.p).Nodup := by
    rw [List.map_map]
    exact (List.map_id ps).symm ▸ List.nodup_range.filter _
  have hother : start.otherPower env (ps.map (start.loadOf env)) = other := List.foldl_map
  have hasked : (ps.map (start.loadOf env)).foldl (fun (a : Int) y => a + y.at' y.req) 0 = ps.foldl (fun (a : Int) p => a + est p (req p)) 0 :=
    List.foldl_map
  generalize start.limited env (ps.map (start.loadOf env)) = m at *
  have hspec : ∀ p ∈ ps, _ := fun p hp =>
    grants_spec (1000 * start.obj 0x2280 1 - start.otherPower env (ps.map (start.loadOf env))) hnodup (List.mem_map_of_mem (f := start.loadOf env) hp)
  have hgrant : ∀ p ∈ ps, m.obj (0x2500 + p) 2 = min (AMap.get (req p) p
      (grants (1000 * start.obj 0x2280 1 - start.otherPower env (ps.map (start.loadOf env))) (ps.map (start.loadOf env)))) (cap p) :=
    fun p hp => (hgrants p hp).1
  refine ⟨fun p hp => ?_, fun hfits p hp => ?_, fun p hp => (hgrants p hp).2, hlow⟩
  · rw [hgrant p hp]
    exact ⟨(Nat.min_le_left ..).trans (hspec p hp).1, Nat.min_le_right ..⟩
  · have hfull := (hspec p hp).2 (by rw [hasked, hother]; exact hfits)
    rw [hgrant p hp]
    exact congrArg (min · (cap p)) hfull

/-- A shed of a module whose input power is over its limit by more than 5%. -/
theorem sheds {s : State} (hrun : s.mach.phase = .running) {watts : Nat} (hon : s.mach.online = true)
    (hdue : s.mach.timers.get 0 everyShed + 500 ≤ s.mach.rc) (hover : 105 * s.mach.obj 0x2280 1 < 100 * watts) :
    ∃ m, Gives (.fastShed watts) s m ∧
      (∀ i, m.island i = if i ∈ s.mach.computeIslands then { s.mach.island i with op := (s.mach.island i).op - 1 } else s.mach.island i) ∧
      m.objBit 0x2280 2 1 = true ∧ m.obj 0x2280 3 = min (s.mach.obj 0x2280 3 + 1) (2 ^ 32 - 1) ∧ SameObjs [okey 0x2280 2, okey 0x2280 3] s.mach m := by
  have hg := gives_every_due hrun (c := .fastShed watts) (f := fun m => doShed m watts) rfl hdue
  have hshed := doShed_over { s.mach with timers := s.mach.timers.put everyShed s.mach.rc } hon hover
  have hisland := Mach.island_moveAll { s.mach with timers := s.mach.timers.put everyShed s.mach.rc } (· - 1)
  have honly := Mach.moveAll_only { s.mach with timers := s.mach.timers.put everyShed s.mach.rc }
    (Mach.computeIslands { s.mach with timers := s.mach.timers.put everyShed s.mach.rc }) (· - 1)
  rw [hshed] at hg
  generalize Mach.moveAll _ _ _ = a at hg hisland honly
  have hobjs : a.objs = s.mach.objs := by rw [honly]
  obtain ⟨hbit, hcount, hsame⟩ := a.shedShown_objs
  refine ⟨_, hg, fun i => ?_, hbit, hcount.trans (by rw [Mach.obj_eq_of_objs hobjs]), SameObjs.trans (SameObjs.of_objs _ hobjs) hsame⟩
  exact ((ObjsOnly.shedShown a).keeps (fun m => m.island i) fun _ => rfl).trans (hisland i)

/-- The caps of the dies, every 10 ms. -/
theorem caps {s : State} (hrun : s.mach.phase = .running) (temps : List Int) (hon : s.mach.online = true)
    (hdue : s.mach.timers.get 0 everyCap + 250000 ≤ s.mach.rc) :
    ∃ m, Gives (.thermalCap temps) s m ∧ SameObjs [okey 0x2280 2] s.mach m ∧ m.islands = s.mach.islands ∧
      m.objBit 0x2280 2 2 = (List.range 8).any (fun d => (m.dieLimit d).1 < 7) ∧
      ∀ d, d < 8 → m.dieCap.get 14 d = capWord (s.mach.dieCap.get 14 d) (s.mach.dieTop d) (temps.getD d 0) (toSigned 16 (s.mach.obj 0x2006 1)) := by
  have hg := gives_every_due hrun (c := .thermalCap temps) (f := fun m => doThermalCap m temps) rfl hdue
  have hcap := doThermalCap_eq { s.mach with timers := s.mach.timers.put everyCap s.mach.rc } temps hon
  have hget := Mach.get_capDies { s.mach with timers := s.mach.timers.put everyCap s.mach.rc } temps (toSigned 16 (s.mach.obj 0x2006 1)) List.nodup_range
    (ds := List.range 8)
  have honly := Mach.capDies_only { s.mach with timers := s.mach.timers.put everyCap s.mach.rc } temps (toSigned 16 (s.mach.obj 0x2006 1)) (List.range 8)
  rw [hcap] at hg
  change Gives _ _ ((Mach.capDies { s.mach with timers := s.mach.timers.put everyCap s.mach.rc } temps (toSigned 16 (s.mach.obj 0x2006 1))
    (List.range 8)).setBit 0x2280 2 2 ((List.range 8).any (fun d => ((Mach.capDies { s.mach with timers := s.mach.timers.put everyCap s.mach.rc } temps
      (toSigned 16 (s.mach.obj 0x2006 1)) (List.range 8)).dieLimit d).1 < 7))) at hg
  generalize Mach.capDies _ _ _ _ = a at hg hget honly
  obtain ⟨hobjs, hislands⟩ : a.objs = s.mach.objs ∧ a.islands = s.mach.islands := by
    rw [honly]
    exact ⟨rfl, rfl⟩
  refine ⟨_, hg, SameObjs.trans (SameObjs.of_objs _ hobjs) (SameObjs.setBit _ _ _ _ _ (by simp)), hislands, Mach.objBit_setBit_same .., fun d hd => ?_⟩
  exact (hget d).trans (if_pos (List.mem_range.mpr hd))

section
variable {m m' : Mach} {d top : Nat} {t thr : Int} (hword : m'.dieCap.get 14 d = capWord (m.dieCap.get 14 d) top t thr)
include hword

/-- A die that is hot, or still falling, is capped one point below its highest. -/
theorem dieLimit_hot (h : thr < t ∨ ((m.dieLimit d).2 = true ∧ thr - 20 < t)) : m'.dieLimit d = (min (m.dieLimit d).1 top - 1, true) := by
  have hhot : t > thr ∨ (m.dieCap.get 14 d % 2 = 1 ∧ t > thr - 20) := h.imp_right fun h => ⟨of_decide_eq_true h.1, h.2⟩
  rw [capWord, if_pos hhot] at hword
  rw [Mach.dieLimit, hword]
  refine Prod.ext ?_ (decide_eq_true ?_)
  · show (2 * (min (m.dieCap.get 14 d / 2) top - 1) + 1) / 2 = min (m.dieCap.get 14 d / 2) top - 1
    omega
  · show (2 * (min (m.dieCap.get 14 d / 2) top - 1) + 1) % 2 = 1
    omega

/-- A die that has cooled is let up one point, up to the highest. -/
theorem dieLimit_cool : (t ≤ thr - 20 ∨ (t ≤ thr ∧ (m.dieLimit d).2 = false) → (m.dieLimit d).1 < 7 → m'.dieLimit d = ((m.dieLimit d).1 + 1, false)) ∧
    (t ≤ thr - 20 ∨ (t ≤ thr ∧ (m.dieLimit d).2 = false) → 7 ≤ (m.dieLimit d).1 → m'.dieLimit d = m.dieLimit d) := by
  have hcold : t ≤ thr - 20 ∨ (t ≤ thr ∧ (m.dieLimit d).2 = false) → ¬ (t > thr ∨ (m.dieCap.get 14 d % 2 = 1 ∧ t > thr - 20)) := by
    have hfalls : (m.dieLimit d).2 = false ↔ ¬ m.dieCap.get 14 d % 2 = 1 := decide_eq_false_iff_not
    rw [hfalls]
    omega
  constructor
  · intro h hlow
    have hlow' : m.dieCap.get 14 d / 2 < 7 := hlow
    rw [capWord, if_neg (hcold h), if_pos hlow'] at hword
    rw [Mach.dieLimit, hword]
    refine Prod.ext ?_ (decide_eq_false ?_)
    · show 2 * (m.dieCap.get 14 d / 2 + 1) / 2 = m.dieCap.get 14 d / 2 + 1
      omega
    · show ¬ 2 * (m.dieCap.get 14 d / 2 + 1) % 2 = 1
      omega
  · intro h htop
    have htop' : 7 ≤ m.dieCap.get 14 d / 2 := htop
    rw [capWord, if_neg (hcold h), if_neg (not_lt.mpr htop')] at hword
    rw [Mach.dieLimit, hword, Mach.dieLimit]

end

/-- A junction at 105.0 °C trips the module. -/
theorem trips {s : State} (hrun : s.mach.phase = .running) {temps : List Int} (htrip : s.mach.tripped = false) (hhot : ∃ t ∈ temps, 1050 ≤ t) :
    ∃ m, Gives (.thermalTrip temps) s m ∧ m.tripped = true ∧
      (∀ i, m.island i = if i ∈ s.mach.computeIslands then { s.mach.island i with op := 0 } else s.mach.island i) ∧
      m.objBit 0x2007 0 3 = true ∧ EmcyCond.trip ∈ m.can.active ∧ m.jobs = s.mach.jobs ∧ m.mem = s.mach.mem ∧ m.cores = s.mach.cores := by
  have hg := gives_step (.thermalTrip temps) s (fun m => doTrip m temps) rfl hrun
  rw [doTrip_asserted s.mach htrip hhot] at hg
  obtain ⟨halarms, htripped, hwarned, hactive⟩ := s.mach.tripShown_spec temps
  have hcompute := s.mach.computeIslands_tripShown temps
  obtain ⟨hislands, hjobs, hmem, hcores⟩ : (s.mach.tripShown temps).islands = s.mach.islands ∧ (s.mach.tripShown temps).jobs = s.mach.jobs ∧
      (s.mach.tripShown temps).mem = s.mach.mem ∧ (s.mach.tripShown temps).cores = s.mach.cores := by
    rw [halarms.fields]
    exact ⟨rfl, rfl, rfl, rfl⟩
  generalize s.mach.tripShown temps = a at hg halarms htripped hwarned hactive hcompute hislands hjobs hmem hcores
  have hsame : ∀ i, a.island i = s.mach.island i := fun i => congrArg (fun a : AMap Island => a.get (Island.init i) i) hislands
  have hisland := a.island_moveAll (fun _ => 0)
  have honly := a.moveAll_only a.computeIslands (fun _ => 0)
  generalize a.moveAll a.computeIslands (fun _ => 0) = b at hg hisland honly
  obtain ⟨hobjs, hcan, hjobs', hmem', hcores'⟩ : b.objs = a.objs ∧ b.can = a.can ∧ b.jobs = a.jobs ∧ b.mem = a.mem ∧ b.cores = a.cores := by
    rw [honly]
    exact ⟨rfl, rfl, rfl, rfl, rfl⟩
  have hbit : ∀ i n k, b.objBit i n k = a.objBit i n k := fun i n k => Mach.objBit_of_obj a (Mach.obj_eq_of_objs hobjs i n) k
  refine ⟨b, hg, (hbit ..).trans htripped, fun i => ?_, (hbit ..).trans hwarned, hcan ▸ hactive, hjobs'.trans hjobs, hmem'.trans hmem, hcores'.trans hcores⟩
  rw [hisland, hcompute, hsame]

/-- The trip is released once every junction is at or below 95.0 °C. -/
theorem releases {s : State} (hrun : s.mach.phase = .running) {temps : List Int} (htrip : s.mach.tripped = true) (hcool : ∀ t ∈ temps, t ≤ 950) :
    ∃ m, Gives (.thermalTripRelease temps) s m ∧ m.tripped = false ∧ EmcyCond.trip ∉ m.can.active ∧ m.islands = s.mach.islands ∧
      m.jobs = s.mach.jobs ∧ m.cores = s.mach.cores := by
  have hg := gives_step (.thermalTripRelease temps) s (fun m => doTripRelease m temps) rfl hrun
  have hgo : (s.mach.tripped && temps.all (fun t => decide (t ≤ 950))) = true := by simpa [htrip] using hcool
  rw [doTripRelease, if_pos hgo] at hg
  have halarms := AlarmsOnly.emcyClear (s.mach.setBit 0x2280 2 3 false) .trip
  have hclear := Mach.mem_emcyClear (s.mach.setBit 0x2280 2 3 false) .trip .trip rfl
  have hbit : (s.mach.setBit 0x2280 2 3 false).objBit 0x2280 2 3 = false := Mach.objBit_setBit_same ..
  have hfields : (s.mach.setBit 0x2280 2 3 false).islands = s.mach.islands ∧ (s.mach.setBit 0x2280 2 3 false).jobs = s.mach.jobs ∧
      (s.mach.setBit 0x2280 2 3 false).cores = s.mach.cores := ⟨rfl, rfl, rfl⟩
  generalize s.mach.setBit 0x2280 2 3 false = a at *
  obtain ⟨hislands, hjobs, hcores⟩ := hfields
  refine ⟨_, hg, (halarms.objBit (by decide) 3).trans hbit, fun h => (hclear.mp h).1 rfl, ?_⟩
  rw [halarms.fields]
  exact ⟨hislands, hjobs, hcores⟩

/-- A window at its boundary. -/
theorem windows {s : State} (hrun : s.mach.phase = .running) {mJ : Nat} (hdue : s.mach.winT0 + 25000 * s.mach.winLen ≤ s.mach.rc) :
    ∃ m, Gives (.energyWindow mJ) s m ∧ m.obj 0x2300 2 = mJ ∧ m.obj 0x2300 3 = s.mach.workSum - s.mach.winWork ∧ m.obj 0x2300 4 = s.mach.windowPj mJ ∧
      m.obj 0x2300 5 = min (s.mach.obj 0x2300 5 + 1) (2 ^ 32 - 1) ∧ m.obj 0x2300 6 = b2n (500 * s.mach.winLen ≤ mJ) ∧
      m.winT0 = s.mach.winT0 + 25000 * s.mach.winLen ∧ m.winLen = s.mach.obj 0x2300 1 ∧ m.winWork = s.mach.workSum ∧ m.cores = s.mach.cores := by
  have hg := gives_step (.energyWindow mJ) s (fun m => doWindow m mJ) rfl hrun
  obtain ⟨a, ha, hwindow⟩ := doWindow_due s.mach (mJ := mJ) hdue
  rw [hwindow] at hg
  obtain ⟨hobjs, hlen, hwork, hcores⟩ : a.objs = s.mach.objs ∧ a.winLen = s.mach.winLen ∧ a.work = s.mach.work ∧ a.cores = s.mach.cores := by
    obtain rfl | rfl := ha <;> exact ⟨rfl, rfl, rfl, rfl⟩
  obtain ⟨h₁, h₂, h₃, h₄, h₅, h₆⟩ := a.obj_windowShown mJ (s.mach.workSum - s.mach.winWork) (s.mach.windowPj mJ)
  have honly := ObjsOnly.windowShown a mJ (s.mach.workSum - s.mach.winWork) (s.mach.windowPj mJ)
  generalize a.windowShown mJ (s.mach.workSum - s.mach.winWork) (s.mach.windowPj mJ) = b at *
  have hsum : b.workSum = s.mach.workSum := by
    have hkept : b.work = s.mach.work := (honly.keeps Mach.work fun _ => rfl).trans hwork
    rw [Mach.workSum, Mach.workSum, hkept]
  rw [Mach.obj_eq_of_objs hobjs] at h₁ h₅
  rw [hlen] at h₆
  exact ⟨_, hg, h₂, h₃, h₄, h₅, h₆, rfl, h₁, hsum, (honly.keeps Mach.cores fun _ => rfl).trans hcores⟩

/-- Settles O45: the moves, the limiter's grants, the sheds, the caps, the trip and the energy windows, each as its own lemma says. -/
theorem powerAndHeat : Obligations.PowerAndHeat := by
  constructor
  · intro s hrun
    refine ⟨fun i slack hi hthere hpow => opMoves hrun hi hthere hpow, fun env => ?_⟩
    intro start due
    refine ⟨fun hearly => gives_every_early hrun rfl (not_le.mp hearly), fun hdue htrip => ?_, limits hrun env⟩
    have hg := gives_every_due hrun (c := .limiterCompute env) (f := fun m => doLimiter m env) rfl hdue
    have hstay : doLimiter start env = start := if_pos (by rw [show start.tripped = true from htrip]; rfl)
    rwa [hstay] at hg
  · intro s hrun every
    refine ⟨fun watts hon => ⟨gives_every_early hrun rfl, fun hdue hwithin => ?_, fun hdue hover => sheds hrun hon hdue hover⟩,
      fun temps => gives_every_early hrun rfl, fun temps hon hdue => ?_, fun temps htrip => ⟨fun hcool => ?_, trips hrun htrip⟩,
      fun temps htrip => ⟨releases hrun htrip, fun hhot => ?_⟩, fun mJ hearly => ?_, fun mJ hdue => ?_⟩
    · have hg := gives_every_due hrun (c := .fastShed watts) (f := fun m => doShed m watts) rfl hdue
      have hshed := doShed_within { s.mach with timers := s.mach.timers.put everyShed s.mach.rc } hon hwithin
      rwa [hshed] at hg
    · obtain ⟨m, hg, hobjs, hislands, hbit, hcaps⟩ := caps hrun temps hon hdue
      refine ⟨m, hg, hobjs, hislands, hbit, fun d hd => ?_⟩
      intro t thr lim top
      have hword : m.dieCap.get 14 d = capWord (s.mach.dieCap.get 14 d) top t thr := hcaps d hd
      exact ⟨dieLimit_hot hword, dieLimit_cool hword⟩
    · have hg := gives_step (.thermalTrip temps) s (fun m => doTrip m temps) rfl hrun
      have hstay : doTrip s.mach temps = s.mach := if_pos (by simpa [htrip] using hcool)
      rwa [hstay] at hg
    · have hg := gives_step (.thermalTripRelease temps) s (fun m => doTripRelease m temps) rfl hrun
      have hstay : doTripRelease s.mach temps = s.mach := if_neg (by simpa [htrip] using hhot)
      rwa [hstay] at hg
    · have hg := gives_step (.energyWindow mJ) s (fun m => doWindow m mJ) rfl hrun
      have hstay : doWindow s.mach mJ = s.mach := if_pos hearly
      rwa [hstay] at hg
    · obtain ⟨m, hg, h₂, h₃, h₄, h₅, h₆, hedge, hlen, hwork, hcores⟩ := windows hrun (mJ := mJ) hdue
      refine ⟨m, hg, h₂, h₃, fun hn => ?_, h₅, h₆, fun hn => ?_, hedge, hlen, hwork, hcores⟩
      · exact h₄.trans (if_neg (by omega))
      · exact h₄.trans (if_pos (by omega))

end Sys2Proof.Machine
end

section
/-! SUPPORT. Proofs: gauge samples and replans (R479 to R487). -/

namespace Sys2Proof.Machine

/-! ## Objects written one by one -/

section
variable (m : Mach) (i : Nat) (sub val : Nat → Nat)

theorem ObjsOnly.setEach (ks : List Nat) : ObjsOnly m (ks.foldl (fun (a : Mach) k => a.setObj i (sub k) (val k)) m) :=
  ObjsOnly.foldl (fun a k => ObjsOnly.setObj a i (sub k) (val k)) ks m

theorem SameObjs.setEach (ks : List Nat) : SameObjs (ks.map (fun k => okey i (sub k))) m (ks.foldl (fun (a : Mach) k => a.setObj i (sub k) (val k)) m) :=
  List.foldlRecOn (motive := fun a : Mach => SameObjs _ m a) ks _ (SameObjs.refl m _) fun _ ha _ hk =>
    SameObjs.trans ha (SameObjs.setObj _ _ _ _ (List.mem_map_of_mem hk))

/-- Objects of one index, each written once. -/
theorem Mach.obj_setEach {ks : List Nat} (hnodup : (ks.map sub).Nodup) {k : Nat} (hk : k ∈ ks) :
    (ks.foldl (fun (a : Mach) k => a.setObj i (sub k) (val k)) m).obj i (sub k) = val k := by
  induction ks generalizing m with
  | nil => exact absurd hk List.not_mem_nil
  | cons j t ih =>
    rw [List.map_cons, List.nodup_cons] at hnodup
    obtain ⟨hj, ht⟩ := hnodup
    rw [List.foldl_cons]
    rcases List.mem_cons.mp hk with rfl | hkt
    · refine (SameObjs.setEach _ i sub val t _ _ fun hmem => ?_).trans (Mach.obj_setObj_same ..)
      obtain ⟨l, hl, he⟩ := List.mem_map.mp hmem
      exact hj ((okey_right ..).mp he ▸ List.mem_map_of_mem hl)
    · exact ih _ ht hkt

end

/-! ## GAUGE_SAMPLE -/

section
variable (m : Mach)

theorem Mach.loadClass_le (i ring : Nat) : m.loadClass i ring ≤ 2 := by
  unfold Mach.loadClass
  extract_lets mhz
  split
  split
  · exact Nat.zero_le 2
  · split
    · exact Nat.le_refl 2
    · exact Nat.le_succ 1

/-- A gauge with a sample of a class added, and those older than 24 h dropped. -/
def Mach.sampled (i : Nat) (slack : Int) (cls : Nat) : Gauge := { m.gauge i with
  samples := { slack := slack, op := (m.island i).op, t := m.rc, cls := cls : Sample } ::
    (m.gauge i).samples.filter (fun y => m.rc ≤ y.t + 86400 * 25000000)
  hot := (m.gauge i).hot || decide (cls = 2) }

/-- The gauge takes its sample, and the first H sample asks for a replan. -/
def Mach.gaugeTaken (i : Nat) (slack : Int) (cls : Nat) : Mach :=
  { m.setGauge i (m.sampled i slack cls) with wantReplan := m.wantReplan || (decide (cls = 2) && !(m.gauge i).hot) }

/-- The objects of a gauge that was sampled. -/
def Mach.gaugeShown (i : Nat) (g : Gauge) (slack : Int) (word : Nat) : Mach :=
  [0, 1, 2].foldl (fun (a : Mach) c => a.setObj (0x7100 + i) (3 + c) (ofSigned 16 (g.least c)))
    ((m.setObj (0x7100 + i) 1 (ofSigned 16 slack)).setObj (0x7100 + i) 2 word)

theorem ObjsOnly.gaugeShown (i : Nat) (g : Gauge) (slack : Int) (word : Nat) : ObjsOnly m (m.gaugeShown i g slack word) :=
  ObjsOnly.trans (ObjsOnly.trans (ObjsOnly.setObj m (0x7100 + i) 1 (ofSigned 16 slack)) (ObjsOnly.setObj _ (0x7100 + i) 2 word)) (ObjsOnly.setEach ..)

theorem Mach.gaugeShown_objs (i : Nat) (g : Gauge) (slack : Int) (word : Nat) :
    (m.gaugeShown i g slack word).obj (0x7100 + i) 1 = ofSigned 16 slack ∧
    (∀ c, c ≤ 2 → (m.gaugeShown i g slack word).obj (0x7100 + i) (3 + c) = ofSigned 16 (g.least c)) ∧
    SameObjs ((List.range' 1 5).map (okey (0x7100 + i))) m (m.gaugeShown i g slack word) := by
  have hkeys : ∀ k, 1 ≤ k → k ≤ 5 → okey (0x7100 + i) k ∈ (List.range' 1 5).map (okey (0x7100 + i)) := by
    intro k h1 h5
    refine List.mem_map_of_mem (List.mem_range'_1.mpr ?_)
    omega
  have hslacks := SameObjs.setEach ((m.setObj (0x7100 + i) 1 (ofSigned 16 slack)).setObj (0x7100 + i) 2 word) (0x7100 + i) (3 + ·)
    (fun c => ofSigned 16 (g.least c)) [0, 1, 2]
  refine ⟨?_, fun c hc => ?_, SameObjs.trans (SameObjs.trans (SameObjs.setObj m _ _ _ (hkeys 1 (by omega) (by omega)))
    (SameObjs.setObj _ _ _ _ (hkeys 2 (by omega) (by omega)))) (SameObjs.mono ?_ hslacks)⟩
  · refine (hslacks _ _ ?_).trans ((Mach.obj_setObj_other _ (fun he => absurd ((okey_right ..).mp he) (by decide)) _).trans (Mach.obj_setObj_same ..))
    intro hmem
    obtain ⟨c, -, he⟩ := List.mem_map.mp hmem
    have := (okey_right ..).mp he
    omega
  · refine Mach.obj_setEach _ _ (3 + ·) (fun c => ofSigned 16 (g.least c)) (by decide) ?_
    simp only [List.mem_cons, List.not_mem_nil, or_false]
    omega
  · intro k hk
    obtain ⟨c, hc, rfl⟩ := List.mem_map.mp hk
    simp only [List.mem_cons, List.not_mem_nil, or_false] at hc
    exact hkeys _ (by omega) (by omega)

theorem doGauge_due {i : Nat} (slack : Int) (ring : Nat) (hthere : m.islandThere i = true) (hpow : m.powered i = true)
    (hdue : ∀ y ∈ (m.gauge i).samples, y.t + 250000000 ≤ m.rc) : ∃ word, doGauge m i slack ring =
      (m.gaugeTaken i slack (m.loadClass i ring)).gaugeShown i (m.sampled i slack (m.loadClass i ring)) slack word := by
  have hno : ¬ ((!m.islandThere i || !m.powered i || (m.gauge i).samples.any (fun x => decide (m.rc < x.t + 250000000))) = true) := by
    simp only [hthere, hpow, Bool.not_true, Bool.false_or, List.any_eq_true, decide_eq_true_eq, not_exists, not_and, not_lt]
    exact hdue
  unfold doGauge
  dsimp only
  rw [if_neg hno]
  exact ⟨_, rfl⟩

theorem Mach.gauge_gaugeTaken (i : Nat) (slack : Int) (cls j : Nat) :
    (m.gaugeTaken i slack cls).gauge j = if i = j then m.sampled i slack cls else m.gauge j := by
  have hgauges : (m.gaugeTaken i slack cls).gauges = m.gauges.put i (m.sampled i slack cls) := rfl
  rw [Mach.gauge, hgauges, AMap.get_put, Mach.gauge]

end

/-! ## REPLAN -/

/-- The frequencies are settled, and the plan is that of the frequencies. -/
theorem Mach.settlePlan_planWith (m : Mach) (n : Nat) (freq : List Nat) : ∃ f, m.settlePlan n freq = m.planWith f := by
  induction n generalizing freq with
  | zero => exact ⟨freq, rfl⟩
  | succ n ih =>
    unfold Mach.settlePlan
    extract_lets x
    split
    · exact ih _
    · split
      · exact ih _
      · exact ⟨freq, rfl⟩

/-- What a replan changes beside what a replacement request tells. -/
def PlansOnly (m m' : Mach) : Prop := m' = { m with
  objs := m'.objs
  gauges := m'.gauges
  islands := m'.islands
  wantReplan := m'.wantReplan }

theorem PlansOnly.trans {a b c : Mach} (h : PlansOnly a b) (h' : PlansOnly b c) : PlansOnly a c := by
  unfold PlansOnly at h h' ⊢
  rw [h] at h'
  exact h'

theorem PlansOnly.of_objs {a b : Mach} (h : ObjsOnly a b) : PlansOnly a b := by
  unfold ObjsOnly at h
  unfold PlansOnly
  rw [h]

section
variable (m : Mach)

/-- One compute island is replanned: its margins, its cap cleared and its objects. -/
def Mach.replanIsland (freq : List Nat) (i : Nat) : Mach :=
  let g := m.gauge i
  let mg := g.margins freq
  let a := m.setGauge i { g with margin := mg, prov := !g.hot }
  let a := a.setIsland i { a.island i with gaugeFail := false, cap := 7 }
  (a.setObj (0x7100 + i) 6 (min 255 (mg.getD 5 0))).setObj (0x7100 + i) 7 (b2n (!g.hot))

theorem PlansOnly.replanIsland (freq : List Nat) (i : Nat) : PlansOnly m (m.replanIsland freq i) := rfl

theorem Mach.island_replanIsland (freq : List Nat) (i j : Nat) : (m.replanIsland freq i).island j = if i = j then { m.island i with
    gaugeFail := false
    cap := 7 } else m.island j := Mach.island_setIsland ..

theorem Mach.obj_replanIsland (freq : List Nat) (k : Nat) {i b : Nat} (hi : i < 0x7100) (hb : b < 256) : (m.replanIsland freq k).obj i b = m.obj i b := by
  have hkey : ∀ c, c < 256 → okey (0x7100 + k) c ≠ okey i b := by
    intro c hc he
    have := ((okey_inj hc hb).mp he).1
    omega
  exact (Mach.obj_setObj_other _ (hkey 7 (by decide)) _).trans (Mach.obj_setObj_other _ (hkey 6 (by decide)) _)

/-- One fixed-clock island is replanned. -/
def Mach.replanFixed (i margin : Nat) : Mach :=
  (m.setGauge i { m.gauge i with margin := [margin], prov := !(m.gauge i).hot }).setObj (0x7100 + i) 7 (b2n (!(m.gauge i).hot))

theorem PlansOnly.replanFixed (i margin : Nat) : PlansOnly m (m.replanFixed i margin) := rfl

theorem Mach.obj_replanFixed (k margin : Nat) {i b : Nat} (hi : i < 0x7100) (hb : b < 256) : (m.replanFixed k margin).obj i b = m.obj i b := by
  refine Mach.obj_setObj_other _ (fun he => ?_) _
  have := ((okey_inj (by decide) hb).mp he).1
  omega

/-- What replanning islands leaves: every island its point, the listed ones uncapped, and the objects below 7100h. -/
structure Replans (m m' : Mach) (is : List Nat) : Prop where
  only : PlansOnly m m'
  objs : ∀ i b, i < 0x7100 → b < 256 → m'.obj i b = m.obj i b
  op : ∀ i, (m'.island i).op = (m.island i).op
  uncapped : ∀ i, i ∈ is ∨ ((m.island i).gaugeFail = false ∧ (m.island i).cap = 7) → (m'.island i).gaugeFail = false ∧ (m'.island i).cap = 7

theorem Replans.islands (freq : List Nat) (es : List (Nat × List Nat)) :
    Replans m (es.foldl (fun (a : Mach) e => a.replanIsland freq e.1) m) (es.map Prod.fst) := by
  induction es generalizing m with
  | nil => exact ⟨rfl, fun _ _ _ _ => rfl, fun _ => rfl, fun _ h => h.resolve_left List.not_mem_nil⟩
  | cons e t ih =>
    obtain ⟨honly, hobjs, hop, huncapped⟩ := ih (m.replanIsland freq e.1)
    rw [List.foldl_cons]
    refine ⟨PlansOnly.trans (PlansOnly.replanIsland m freq e.1) honly, fun i b hi hb => (hobjs i b hi hb).trans (m.obj_replanIsland freq _ hi hb),
      fun i => (hop i).trans ?_, fun i h => huncapped i ?_⟩
    · rw [Mach.island_replanIsland]
      split
      · next heq => rw [heq]
      · rfl
    · rw [Mach.island_replanIsland]
      by_cases heq : e.1 = i
      · exact .inr (by rw [if_pos heq]; exact ⟨rfl, rfl⟩)
      · rw [if_neg heq]
        refine h.imp_left fun hmem => ?_
        rw [List.map_cons] at hmem
        exact (List.mem_cons.mp hmem).resolve_left (Ne.symm heq)

theorem PlansOnly.fixed (es : List (Nat × Nat × Nat)) : PlansOnly m (es.foldl (fun (a : Mach) e => a.replanFixed e.1 e.2.1) m) :=
  List.foldlRecOn (motive := fun a : Mach => PlansOnly m a) es _ rfl fun a ha e _ => PlansOnly.trans ha (PlansOnly.replanFixed a e.1 e.2.1)

theorem Mach.fixed_objs (es : List (Nat × Nat × Nat)) {i b : Nat} (hi : i < 0x7100) (hb : b < 256) :
    (es.foldl (fun (a : Mach) e => a.replanFixed e.1 e.2.1) m).obj i b = m.obj i b :=
  List.foldlRecOn (motive := fun a : Mach => a.obj i b = m.obj i b) es _ rfl fun a ha e _ => (a.obj_replanFixed e.1 e.2.1 hi hb).trans ha

theorem Mach.fixed_islands (es : List (Nat × Nat × Nat)) : (es.foldl (fun (a : Mach) e => a.replanFixed e.1 e.2.1) m).islands = m.islands :=
  List.foldlRecOn (motive := fun a : Mach => a.islands = m.islands) es _ rfl fun _ ha _ _ => ha

end

end Sys2Proof.Machine
end

section
/-! SUPPORT. Proofs: replans, health samples, and the gauges settled (R443, R479 to R487). -/

namespace Sys2Proof.Machine

/-! ## A replan -/

section
variable (m : Mach)

/-- The margins of the fixed-clock islands, with what a provisional margin adds. -/
def Mach.fixedMargins : List (Nat × Nat × Nat) := (List.range' 136 44).map (fun i =>
  (i, (match (m.gauge i).worst with | some s => 5 * cdiv (30 - s.slack).toNat 4 | none => 0), if (m.gauge i).hot then 0 else 20))

/-- The running table of a plan. -/
def Mach.tableRun (x : Plan) : Mach := (List.range 8).foldl (fun (a : Mach) k => a.setObj 0x2200 (k + 1) (2 ^ 16 * x.freq.getD k 0 + x.top k)) m

/-- A plan taken, before a replacement is asked for. -/
def Mach.planned (x : Plan) (fixed : List (Nat × Nat × Nat)) : Mach :=
  let a := m.tableRun x
  let a := x.volt.foldl (fun (a : Mach) e => a.replanIsland x.freq e.1) a
  let a := fixed.foldl (fun (a : Mach) e => a.replanFixed e.1 e.2.1) a
  let a := (a.setObj 0x7020 4 (x.used / (100 * 562500)).toNat).addObj32 0x7020 5 1
  { a with wantReplan := false }

/-- The plan of a replan. -/
def Mach.plan : Plan := m.settlePlan 64 ((List.range 8).map m.opMhz)

theorem Mach.replan_eq : m.replan = if (decide (m.plan.freq.getD 5 0 < 1100) || m.fixedMargins.any (fun e => decide (e.2.1 + e.2.2 > 60))) = true then
    (m.planned m.plan m.fixedMargins).replacement 3 else m.planned m.plan m.fixedMargins := rfl

/-- What a plan taken shows. -/
structure Mach.PlanTaken (m m' : Mach) (x : Plan) : Prop where
  only : PlansOnly m m'
  want : m'.wantReplan = false
  table : ∀ k, k < 8 → m'.obj 0x2200 (k + 1) = 2 ^ 16 * x.freq.getD k 0 + x.top k
  uncapped : ∀ i ∈ x.volt.map Prod.fst, (m'.island i).gaugeFail = false ∧ (m'.island i).cap = 7
  op : ∀ i, (m'.island i).op = (m.island i).op
  counted : m'.obj 0x7020 5 = min (m.obj 0x7020 5 + 1) (2 ^ 32 - 1)

/-- 7020h shows the reserve used and counts the replan. -/
def Mach.planCounted (used : Nat) : Mach := (m.setObj 0x7020 4 used).addObj32 0x7020 5 1

theorem ObjsOnly.planCounted (used : Nat) : ObjsOnly m (m.planCounted used) := ObjsOnly.trans (ObjsOnly.setObj m 0x7020 4 used) (ObjsOnly.addObj32 ..)

theorem Mach.planned_taken (x : Plan) (fixed : List (Nat × Nat × Nat)) : m.PlanTaken (m.planned x fixed) x := by
  unfold Mach.planned
  extract_lets +onlyGivenNames a₁ a₂ a₃ a₄
  have htable : ∀ k, k < 8 → a₁.obj 0x2200 (k + 1) = 2 ^ 16 * x.freq.getD k 0 + x.top k := fun k hk =>
    m.obj_setEach 0x2200 (· + 1) (fun k => 2 ^ 16 * x.freq.getD k 0 + x.top k) (by decide) (List.mem_range.mpr hk)
  have honly₁ : ObjsOnly m a₁ := ObjsOnly.setEach m 0x2200 (· + 1) (fun k => 2 ^ 16 * x.freq.getD k 0 + x.top k) (List.range 8)
  have hcount₁ : a₁.obj 0x7020 5 = m.obj 0x7020 5 :=
    SameObjs.setEach m 0x2200 (· + 1) (fun k => 2 ^ 16 * x.freq.getD k 0 + x.top k) (List.range 8) _ _ (by decide)
  have hislands₁ : ∀ i, a₁.island i = m.island i := fun i => honly₁.keeps (fun m => m.island i) fun _ => rfl
  clear_value a₁
  obtain ⟨honly₂, hobjs₂, hop₂, huncapped₂⟩ : Replans a₁ a₂ (x.volt.map Prod.fst) := Replans.islands a₁ x.freq x.volt
  clear_value a₂
  have honly₃ : PlansOnly a₂ a₃ := PlansOnly.fixed a₂ fixed
  have hobjs₃ : ∀ i b, i < 0x7100 → b < 256 → a₃.obj i b = a₂.obj i b := fun i b hi hb => a₂.fixed_objs fixed hi hb
  have hislands₃ : ∀ i, a₃.island i = a₂.island i := fun i => congrArg (fun a : AMap Island => a.get (Island.init i) i) (a₂.fixed_islands fixed)
  clear_value a₃
  have honly₄ : ObjsOnly a₃ a₄ := ObjsOnly.planCounted a₃ _
  have htable₄ : ∀ k, k < 256 → a₄.obj 0x2200 k = a₃.obj 0x2200 k := fun k hk =>
    (Mach.obj_setObj_other _ (by simp only [okey]; omega) _).trans (Mach.obj_setObj_other _ (by simp only [okey]; omega) _)
  have hcount₄ : a₄.obj 0x7020 5 = min (a₃.obj 0x7020 5 + 1) (2 ^ 32 - 1) := by
    have hkept : (a₃.setObj 0x7020 4 (x.used / (100 * 562500)).toNat).obj 0x7020 5 = a₃.obj 0x7020 5 := Mach.obj_setObj_other _ (by decide) _
    rw [← hkept]
    exact Mach.obj_addObj32_same ..
  have hislands₄ : ∀ i, a₄.island i = a₃.island i := fun i => honly₄.keeps (fun m => m.island i) fun _ => rfl
  clear_value a₄
  have hsame : ∀ i, (a₄.island i).op = (m.island i).op := fun i => by rw [hislands₄, hislands₃, hop₂, hislands₁]
  refine ⟨PlansOnly.trans (PlansOnly.trans (PlansOnly.trans (PlansOnly.trans (PlansOnly.of_objs honly₁) honly₂) honly₃) (PlansOnly.of_objs honly₄)) rfl,
    rfl, fun k hk => ?_, fun i hi => ?_, hsame, ?_⟩
  · exact (htable₄ _ (by omega)).trans ((hobjs₃ _ _ (by decide) (by omega)).trans ((hobjs₂ _ _ (by decide) (by omega)).trans (htable k hk)))
  · show (a₄.island i).gaugeFail = false ∧ (a₄.island i).cap = 7
    rw [hislands₄, hislands₃]
    exact huncapped₂ i (.inl hi)
  · refine hcount₄.trans ?_
    rw [hobjs₃ _ _ (by decide) (by decide), hobjs₂ _ _ (by decide) (by decide), hcount₁]

/-- A replacement request leaves all but its alarms, its objects and the warnings. -/
theorem Mach.replacement_leaves (reason : Nat) : (∃ a, ObjsOnly m a ∧ AlarmsOnly a (m.replacement reason)) ∧
    SameObjs (okey 0x7000 1 :: okey 0x7000 2 :: okey 0x2007 0 :: emcyKeys) m (m.replacement reason) := by
  rcases m.replacement_tells reason with ⟨-, hsame⟩ | htells
  · rw [hsame]
    exact ⟨⟨m, ObjsOnly.refl m, AlarmsOnly.refl m⟩, SameObjs.refl m _⟩
  · refine ⟨⟨_, ?_, htells⟩, SameObjs.trans (b := m.replacementShown reason) ?_ (SameObjs.mono ?_ htells.objs)⟩
    · exact ObjsOnly.trans (ObjsOnly.trans (ObjsOnly.setBit m 0x7000 2 reason true) (ObjsOnly.setObj _ 0x7000 1 1)) (ObjsOnly.setBit ..)
    · exact SameObjs.trans (SameObjs.trans (SameObjs.setBit m _ _ _ _ (by simp)) (SameObjs.setObj _ _ _ _ (by simp))) (SameObjs.setBit _ _ _ _ _ (by simp))
    · exact fun k hk => List.mem_cons_of_mem _ (List.mem_cons_of_mem _ (List.mem_cons_of_mem _ hk))

/-- What a replan comes to. -/
theorem Mach.replan_spec : m.replan.wantReplan = false ∧
    (∀ k, k < 8 → m.replan.obj 0x2200 (k + 1) = 2 ^ 16 * m.plan.freq.getD k 0 + m.plan.top k) ∧
    (∀ i, i < 136 → m.islandThere i = true → (m.replan.island i).gaugeFail = false ∧ (m.replan.island i).cap = 7 ∧
      (m.replan.island i).op = (m.island i).op) ∧
    m.replan.obj 0x7020 5 = min (m.obj 0x7020 5 + 1) (2 ^ 32 - 1) ∧ (m.plan.freq.getD 5 0 < 1100 → m.replan.objBit 0x7000 2 3 = true) ∧
    m.replan.jobs = m.jobs ∧ m.replan.cores = m.cores ∧ m.replan.mem = m.mem := by
  have hvolt : ∀ i, i < 136 → m.islandThere i = true → i ∈ m.plan.volt.map Prod.fst := by
    intro i hi hthere
    obtain ⟨f, hf⟩ := m.settlePlan_planWith 64 ((List.range 8).map m.opMhz)
    have hplan : m.plan.volt.map Prod.fst = (List.range 136).filter m.islandThere := by
      rw [Mach.plan, hf, Mach.planWith, List.map_map]
      exact List.map_id _
    rw [hplan]
    exact List.mem_filter.mpr ⟨List.mem_range.mpr hi, hthere⟩
  obtain ⟨honly, hwant, htable, huncapped, hop, hcount⟩ := m.planned_taken m.plan m.fixedMargins
  rw [Mach.replan_eq]
  generalize m.planned m.plan m.fixedMargins = a at *
  have hkept : a.jobs = m.jobs ∧ a.cores = m.cores ∧ a.mem = m.mem := by
    unfold PlansOnly at honly
    rw [honly]
    exact ⟨rfl, rfl, rfl⟩
  have hislands : ∀ i, i < 136 → m.islandThere i = true → (a.island i).gaugeFail = false ∧ (a.island i).cap = 7 ∧ (a.island i).op = (m.island i).op :=
    fun i hi hthere => ⟨(huncapped i (hvolt i hi hthere)).1, (huncapped i (hvolt i hi hthere)).2, hop i⟩
  split
  · obtain ⟨⟨b, hb, halarms⟩, hobjs⟩ := a.replacement_leaves 3
    have hfields : (a.replacement 3).wantReplan = a.wantReplan ∧ (a.replacement 3).islands = a.islands ∧ (a.replacement 3).jobs = a.jobs ∧
        (a.replacement 3).cores = a.cores ∧ (a.replacement 3).mem = a.mem := by
      unfold ObjsOnly at hb
      rw [halarms.fields, hb]
      exact ⟨rfl, rfl, rfl, rfl, rfl⟩
    obtain ⟨hwant', hislands', hjobs, hcores, hmem⟩ := hfields
    have hisland : ∀ i, (a.replacement 3).island i = a.island i := fun i => congrArg (fun a : AMap Island => a.get (Island.init i) i) hislands'
    refine ⟨hwant'.trans hwant, fun k hk => (hobjs _ _ ?_).trans (htable k hk), fun i hi hthere => hisland i ▸ hislands i hi hthere,
      (hobjs _ _ (by decide)).trans hcount, fun _ => (a.replacement_effect 3).1, hjobs.trans hkept.1, hcores.trans hkept.2.1, hmem.trans hkept.2.2⟩
    simp only [emcyKeys, okey, List.mem_cons, List.mem_append, List.not_mem_nil, or_false, List.mem_map, List.mem_range]
    rintro (h | h | h | h | ⟨n, hn, h⟩) <;> omega
  · next hno =>
    exact ⟨hwant, htable, hislands, hcount, fun hlow => absurd ((Bool.or_eq_true ..).mpr (.inl (decide_eq_true hlow))) hno, hkept⟩

/-! ## HEALTH_SAMPLE (R443) -/

/-- The sampled objects and the energy. -/
def Mach.healthRead (e : HealthEnv) : Mach :=
  let a := (List.range 10).foldl (fun (a : Mach) d => a.setObj 0x2005 (d + 1) (ofSigned 16 (e.temps.getD d 0))) m
  let a := (((a.setObj 0x2001 0 (ofSigned 16 (hottest e.temps).2)).setObj 0x2002 0 (e.tenMv % 65536)).setObj 0x2003 0 (e.watts % 65536)).setObj 0x2004 0
    (e.tenMa % 65536)
  { a with energy := a.energy + e.watts }

/-- A warning that holds. -/
def Mach.warnIf (i : Nat) (b : Bool) : Mach := if b then m.warn i else m

theorem ObjsOnly.warnIf (i : Nat) (b : Bool) : ObjsOnly m (m.warnIf i b) := by
  unfold Mach.warnIf
  split
  · exact ObjsOnly.setBit ..
  · exact ObjsOnly.refl m

theorem SameObjs.warnIf (i : Nat) (b : Bool) : SameObjs [okey 0x2007 0] m (m.warnIf i b) := by
  unfold Mach.warnIf
  split
  · exact SameObjs.setBit _ _ _ _ _ (by simp)
  · exact SameObjs.refl m _

theorem Mach.objBit_warnIf_same (i : Nat) (b : Bool) : (m.warnIf i b).objBit 0x2007 0 i = (m.objBit 0x2007 0 i || b) := by
  unfold Mach.warnIf
  cases b
  · simp
  · exact (Mach.objBit_setBit_same ..).trans (Bool.or_true _).symm

theorem Mach.objBit_warnIf_other {i k : Nat} (h : i ≠ k) (b : Bool) : (m.warnIf i b).objBit 0x2007 0 k = m.objBit 0x2007 0 k := by
  unfold Mach.warnIf
  split
  · exact Mach.objBit_setBit_other _ _ _ h _
  · rfl

/-- The warnings of a sample. -/
def Mach.healthWarned (e : HealthEnv) (hot : Bool) : Mach :=
  (((((m.warnIf 5 (m.obj 0x7000 1 = 1)).warnIf 4 (m.objBit 0x2280 2 0)).warnIf 3 m.tripped).warnIf 2 hot).warnIf 1 (e.tenMv > 5800)).warnIf 0
    (e.tenMv < 4200)

/-- A condition that follows what is sampled. -/
def Mach.follow (c : EmcyCond) (b : Bool) (detail : Nat) : Mach := if b then m.emcySet c detail else m.emcyClear c

theorem AlarmsOnly.follow (c : EmcyCond) (b : Bool) (detail : Nat) : AlarmsOnly m (m.follow c b detail) := by
  unfold Mach.follow
  split
  · exact AlarmsOnly.emcySet ..
  · exact AlarmsOnly.emcyClear ..

theorem Mach.mem_follow_same {c : EmcyCond} (hc : emcyStays c = true) (b : Bool) (detail : Nat) : c ∈ (m.follow c b detail).can.active ↔ b = true := by
  unfold Mach.follow
  cases b
  · exact (Mach.mem_emcyClear m c c hc).trans (by simp)
  · exact ((m.emcySet_can c detail).2 c hc).trans (by simp)

theorem Mach.mem_follow_other {c x : EmcyCond} (hx : emcyStays x = true) (hne : x ≠ c) (b : Bool) (detail : Nat) :
    x ∈ (m.follow c b detail).can.active ↔ x ∈ m.can.active := by
  unfold Mach.follow
  cases b
  · exact (Mach.mem_emcyClear m c x hx).trans (by simp [hne])
  · exact ((m.emcySet_can c detail).2 x hx).trans (by simp [hne])

/-- The highest temperature is over the threshold 2006h.01. -/
def Mach.tooHot (e : HealthEnv) : Bool := (hottest e.temps).2 > toSigned 16 (m.obj 0x2006 1)

/-- VIN_48 is out of its range. -/
def vinOut (e : HealthEnv) : Bool := e.tenMv < 4000 || e.tenMv > 6000

theorem doHealth_eq (e : HealthEnv) : doHealth m e = ((((m.healthRead e).healthWarned e ((m.healthRead e).tooHot e)).follow .vin (vinOut e) e.tenMv).follow
    .junction ((m.healthRead e).tooHot e) (tempDetail (hottest e.temps))) := rfl

/-- What a sample reads. -/
structure Mach.HealthShown (m m' : Mach) (e : HealthEnv) : Prop where
  only : m' = { m with
    objs := m'.objs
    energy := m'.energy }
  energy : m'.energy = m.energy + e.watts
  temps : ∀ d, d < 10 → m'.obj 0x2005 (d + 1) = ofSigned 16 (e.temps.getD d 0)
  hottest : m'.obj 0x2001 0 = ofSigned 16 (Machine.hottest e.temps).2
  volts : m'.obj 0x2002 0 = e.tenMv % 65536
  watts : m'.obj 0x2003 0 = e.watts % 65536
  amps : m'.obj 0x2004 0 = e.tenMa % 65536
  warned : m'.obj 0x2007 0 = m.obj 0x2007 0
  limit : m'.obj 0x2006 1 = m.obj 0x2006 1

theorem Mach.healthRead_shown (e : HealthEnv) : m.HealthShown (m.healthRead e) e := by
  unfold Mach.healthRead
  extract_lets +onlyGivenNames a₁ a₂
  have htemps : ∀ d, d < 10 → a₁.obj 0x2005 (d + 1) = ofSigned 16 (e.temps.getD d 0) := fun d hd =>
    m.obj_setEach 0x2005 (· + 1) (fun d => ofSigned 16 (e.temps.getD d 0)) (by decide) (List.mem_range.mpr hd)
  have honly₁ : ObjsOnly m a₁ := ObjsOnly.setEach m 0x2005 (· + 1) (fun d => ofSigned 16 (e.temps.getD d 0)) (List.range 10)
  have hobjs₁ := SameObjs.setEach m 0x2005 (· + 1) (fun d => ofSigned 16 (e.temps.getD d 0)) (List.range 10)
  change SameObjs _ m a₁ at hobjs₁
  clear_value a₁
  have honly₂ : ObjsOnly a₁ a₂ := ObjsOnly.trans (ObjsOnly.trans (ObjsOnly.trans (ObjsOnly.setObj a₁ 0x2001 0 _) (ObjsOnly.setObj _ 0x2002 0 _))
    (ObjsOnly.setObj _ 0x2003 0 _)) (ObjsOnly.setObj ..)
  have hobjs₂ : SameObjs [okey 0x2001 0, okey 0x2002 0, okey 0x2003 0, okey 0x2004 0] a₁ a₂ :=
    SameObjs.trans (SameObjs.trans (SameObjs.trans (SameObjs.setObj a₁ _ _ _ (by simp)) (SameObjs.setObj _ _ _ _ (by simp)))
      (SameObjs.setObj _ _ _ _ (by simp))) (SameObjs.setObj _ _ _ _ (by simp))
  have hhottest : a₂.obj 0x2001 0 = ofSigned 16 (Machine.hottest e.temps).2 :=
    (Mach.obj_setObj_other _ (by decide) _).trans ((Mach.obj_setObj_other _ (by decide) _).trans
      ((Mach.obj_setObj_other _ (by decide) _).trans (Mach.obj_setObj_same ..)))
  have hvolts : a₂.obj 0x2002 0 = e.tenMv % 65536 :=
    (Mach.obj_setObj_other _ (by decide) _).trans ((Mach.obj_setObj_other _ (by decide) _).trans (Mach.obj_setObj_same ..))
  have hwatts : a₂.obj 0x2003 0 = e.watts % 65536 := (Mach.obj_setObj_other _ (by decide) _).trans (Mach.obj_setObj_same ..)
  have hamps : a₂.obj 0x2004 0 = e.tenMa % 65536 := Mach.obj_setObj_same ..
  clear_value a₂
  have honly : ObjsOnly m a₂ := ObjsOnly.trans honly₁ honly₂
  refine ⟨?_, congrArg (· + e.watts) (honly.keeps Mach.energy fun _ => rfl), fun d hd => (hobjs₂ _ _ ?_).trans (htemps d hd), hhottest, hvolts, hwatts,
    hamps, (hobjs₂ _ _ (by decide)).trans (hobjs₁ _ _ (by decide)), (hobjs₂ _ _ (by decide)).trans (hobjs₁ _ _ (by decide))⟩
  · unfold ObjsOnly at honly
    rw [honly]
  · simp only [okey, List.mem_cons, List.not_mem_nil, or_false]
    omega

/-- What the warnings of a sample come to. -/
theorem Mach.healthWarned_spec (e : HealthEnv) (hot : Bool) : ObjsOnly m (m.healthWarned e hot) ∧ SameObjs [okey 0x2007 0] m (m.healthWarned e hot) ∧
    (m.healthWarned e hot).objBit 0x2007 0 0 = (m.objBit 0x2007 0 0 || decide (e.tenMv < 4200)) ∧
    (m.healthWarned e hot).objBit 0x2007 0 1 = (m.objBit 0x2007 0 1 || decide (5800 < e.tenMv)) ∧
    (m.healthWarned e hot).objBit 0x2007 0 2 = (m.objBit 0x2007 0 2 || hot) := by
  unfold Mach.healthWarned
  generalize decide (m.obj 0x7000 1 = 1) = b₅
  generalize m.objBit 0x2280 2 0 = b₄
  generalize m.tripped = b₃
  refine ⟨?_, ?_, ?_, ?_, ?_⟩
  · exact ObjsOnly.trans (ObjsOnly.trans (ObjsOnly.trans (ObjsOnly.trans (ObjsOnly.trans (ObjsOnly.warnIf ..) (ObjsOnly.warnIf ..)) (ObjsOnly.warnIf ..))
      (ObjsOnly.warnIf ..)) (ObjsOnly.warnIf ..)) (ObjsOnly.warnIf ..)
  · exact SameObjs.trans (SameObjs.trans (SameObjs.trans (SameObjs.trans (SameObjs.trans (SameObjs.warnIf _ _ _) (SameObjs.warnIf _ _ _)) (SameObjs.warnIf _ _ _))
      (SameObjs.warnIf _ _ _)) (SameObjs.warnIf _ _ _)) (SameObjs.warnIf _ _ _)
  · rw [Mach.objBit_warnIf_same, Mach.objBit_warnIf_other _ (by decide), Mach.objBit_warnIf_other _ (by decide), Mach.objBit_warnIf_other _ (by decide),
      Mach.objBit_warnIf_other _ (by decide), Mach.objBit_warnIf_other _ (by decide)]
  · rw [Mach.objBit_warnIf_other _ (by decide), Mach.objBit_warnIf_same, Mach.objBit_warnIf_other _ (by decide), Mach.objBit_warnIf_other _ (by decide),
      Mach.objBit_warnIf_other _ (by decide), Mach.objBit_warnIf_other _ (by decide)]
  · rw [Mach.objBit_warnIf_other _ (by decide), Mach.objBit_warnIf_other _ (by decide), Mach.objBit_warnIf_same, Mach.objBit_warnIf_other _ (by decide),
      Mach.objBit_warnIf_other _ (by decide), Mach.objBit_warnIf_other _ (by decide)]

end

/-- Settles O46: samples by `Mach.gaugeShown_objs`, replans by `Mach.replan_spec`, health samples by `Mach.healthRead_shown`, `Mach.healthWarned_spec`
and what the conditions 3100h and 4200h follow. -/
theorem gaugesAndHealth : Obligations.GaugesAndHealth := by
  intro s hrun
  refine ⟨fun i slack ring hthere hpow hrecent => ?_, fun i slack ring hthere hpow hdue => ?_, fun hon hwant hearly => ?_, fun hon hdue => ?_,
    fun path v hserves => ?_, fun e => gives_every_early hrun rfl, fun e hdue => ?_⟩
  · have hg := gives_step (.gaugeSample i slack ring) s (fun m => doGauge m i slack ring) rfl hrun
    have hstay : doGauge s.mach i slack ring = s.mach := by
      obtain ⟨y, hy, hlt⟩ := hrecent
      refine if_pos ((Bool.or_eq_true ..).mpr (.inr (List.any_eq_true.mpr ⟨y, hy, decide_eq_true hlt⟩)))
    rwa [hstay] at hg
  · intro cls x
    have hg := gives_step (.gaugeSample i slack ring) s (fun m => doGauge m i slack ring) rfl hrun
    obtain ⟨word, hsampled⟩ := doGauge_due s.mach slack ring hthere hpow hdue
    rw [hsampled] at hg
    obtain ⟨hslack, hleast, hobjs⟩ := (s.mach.gaugeTaken i slack cls).gaugeShown_objs i (s.mach.sampled i slack cls) slack word
    have honly := ObjsOnly.gaugeShown (s.mach.gaugeTaken i slack cls) i (s.mach.sampled i slack cls) slack word
    change Gives _ _ ((s.mach.gaugeTaken i slack cls).gaugeShown i (s.mach.sampled i slack cls) slack word) at hg
    generalize (s.mach.gaugeTaken i slack cls).gaugeShown i (s.mach.sampled i slack cls) slack word = m at *
    have hgauge : ∀ j, m.gauge j = if i = j then s.mach.sampled i slack cls else s.mach.gauge j := fun j =>
      (honly.keeps (fun m => m.gauge j) fun _ => rfl).trans (Mach.gauge_gaugeTaken ..)
    have hmine : m.gauge i = s.mach.sampled i slack cls := (hgauge i).trans (if_pos rfl)
    refine ⟨m, Mach.loadClass_le .., hg, ?_, congrArg Gauge.samples hmine, (congrArg Gauge.margin hmine).trans rfl,
      fun j hj => (hgauge j).trans (if_neg (Ne.symm hj)),
      honly.keeps Mach.wantReplan fun _ => rfl, hslack, fun c hc => (hleast c hc).trans (by rw [hmine]), hobjs⟩
    unfold ObjsOnly at honly
    rw [honly]
    rfl
  · have hg := gives_step .replan s doReplan rfl hrun
    have hstay : doReplan s.mach = s.mach := by
      unfold doReplan
      rw [if_neg (by simp [hon]), if_neg (by simp [hwant])]
      exact Mach.every_early _ _ hearly
    rwa [hstay] at hg
  · intro start plan
    have hg := gives_step .replan s doReplan rfl hrun
    have hstart : doReplan s.mach = start.replan := by
      unfold doReplan
      rw [if_neg (by simp [hon])]
      split
      · rfl
      · next hno => exact Mach.every_due _ _ (hdue.resolve_left hno)
    rw [hstart] at hg
    exact ⟨_, hg, start.replan_spec⟩
  · have hg := gives_byPath (c := .replanNow path v) (f := doReplanNow v) rfl hrun hserves
    exact hg
  · have hg := gives_every_due hrun (c := .healthSample e) (f := fun m => doHealth m e) rfl hdue
    rw [doHealth_eq] at hg
    obtain ⟨honly, henergy, htemps, hhottest, hvolts, hwatts, hamps, hwarned, hlimit⟩ :=
      Mach.healthRead_shown { s.mach with timers := s.mach.timers.put everyHealth s.mach.rc } e
    have hhot : (Mach.healthRead { s.mach with timers := s.mach.timers.put everyHealth s.mach.rc } e).tooHot e =
        decide (toSigned 16 (s.mach.obj 0x2006 1) < (hottest e.temps).2) := by
      unfold Mach.tooHot
      rw [hlimit]
      rfl
    rw [hhot] at hg
    generalize Mach.healthRead _ e = a at *
    generalize hlevel : decide (toSigned 16 (s.mach.obj 0x2006 1) < (hottest e.temps).2) = hot at hg
    obtain ⟨honly₁, hobjs₁, hbit0, hbit1, hbit2⟩ := a.healthWarned_spec e hot
    generalize a.healthWarned e hot = b at *
    have hvin := Mach.mem_follow_same b (c := .vin) rfl (vinOut e) e.tenMv
    have halarms₂ := AlarmsOnly.follow b .vin (vinOut e) e.tenMv
    generalize b.follow .vin (vinOut e) e.tenMv = c at *
    have hjunction := Mach.mem_follow_same c (c := .junction) rfl hot (tempDetail (hottest e.temps))
    have hvin' := (Mach.mem_follow_other c (c := .junction) (x := .vin) rfl (by decide) hot (tempDetail (hottest e.temps))).trans hvin
    have halarms := AlarmsOnly.trans halarms₂ (AlarmsOnly.follow c .junction hot (tempDetail (hottest e.temps)))
    generalize c.follow .junction hot (tempDetail (hottest e.temps)) = m at *
    have hread : ∀ i b', i < 0x2006 → 0x2000 < i → b' < 256 → m.obj i b' = a.obj i b' := by
      intro i b' hi hi' hb
      refine (halarms.obj ?_).trans (hobjs₁ _ _ ?_)
      · simp only [emcyKeys, okey, List.mem_cons, List.mem_append, List.not_mem_nil, or_false, List.mem_map, List.mem_range]
        rintro ((h | h | h) | ⟨n, hn, h⟩) <;> omega
      · simp only [okey, List.mem_singleton]
        omega
    have hwarnings : ∀ n, m.objBit 0x2007 0 n = b.objBit 0x2007 0 n := fun n => halarms.objBit (by decide) n
    have hbefore : ∀ n, a.objBit 0x2007 0 n = s.mach.objBit 0x2007 0 n := fun n => Mach.objBit_of_obj s.mach hwarned n
    have hkept : m.energy = a.energy ∧ m.jobs = s.mach.jobs ∧ m.mem = s.mach.mem ∧ m.cores = s.mach.cores := by
      unfold ObjsOnly at honly₁
      rw [halarms.fields, honly₁]
      exact ⟨rfl, by rw [honly], by rw [honly], by rw [honly]⟩
    obtain ⟨henergy', hjobs, hmem, hcores⟩ := hkept
    refine ⟨m, hg, fun d hd => (hread _ _ (by decide) (by decide) (by omega)).trans (htemps d hd), (hread _ _ (by decide) (by decide) (by decide)).trans hhottest,
      (hread _ _ (by decide) (by decide) (by decide)).trans hvolts, (hread _ _ (by decide) (by decide) (by decide)).trans hwatts,
      (hread _ _ (by decide) (by decide) (by decide)).trans hamps, henergy'.trans henergy, ?_, ?_, ?_, ?_, ?_, hjobs, hmem, hcores⟩
    · rw [hwarnings, hbit0, hbefore]
    · rw [hwarnings, hbit1, hbefore]
    · rw [hwarnings, hbit2, hbefore]
    · refine hvin'.trans ?_
      simp [vinOut]
    · rw [hjunction, ← hlevel, decide_eq_true_iff]

end Sys2Proof.Machine
end

section
/-! SUPPORT. Proofs: what winding jobs down leaves as it is, and what it makes of the jobs (R389, R392, R402, R496). -/

namespace Sys2Proof.Machine

/-! ## Jobs that are wound down -/

/-- A job that has ended or stops. -/
def stOver : JobSt → Bool
  | .done _ _ _ => true
  | .stopping _ _ => true
  | _ => false

/-- Each job is one that there was before, and its state is the one it had, or it has ended or stops. -/
def JobsWind (m m' : Mach) : Prop := ∀ k' ∈ m'.jobs, ∃ k ∈ m.jobs, k'.part = k.part ∧ k'.client = k.client ∧ k'.seq = k.seq ∧
  (k'.st = k.st ∨ stOver k'.st = true)

theorem JobsWind.of_jobs {m m' : Mach} (h : m'.jobs = m.jobs) : JobsWind m m' := fun k' hk => ⟨k', h ▸ hk, rfl, rfl, rfl, .inl rfl⟩

theorem JobsWind.trans {a b c : Mach} (h : JobsWind a b) (h' : JobsWind b c) : JobsWind a c := by
  intro k'' hk''
  obtain ⟨k', hk', hpart', hclient', hseq', hst'⟩ := h' k'' hk''
  obtain ⟨k, hk, hpart, hclient, hseq, hst⟩ := h k' hk'
  refine ⟨k, hk, hpart'.trans hpart, hclient'.trans hclient, hseq'.trans hseq, ?_⟩
  obtain hst' | hover := hst'
  · rw [hst']
    exact hst
  · exact .inr hover

/-- A job changed: each job of its name is one of it that keeps its state or is over. -/
theorem JobsWind.modJob (m : Mach) (j : Job) (f : Job → Job)
    (hf : ∀ x ∈ m.jobs, x.same j = true → ∃ k ∈ m.jobs, (f x).part = k.part ∧ (f x).client = k.client ∧ (f x).seq = k.seq ∧
      ((f x).st = k.st ∨ stOver (f x).st = true)) : JobsWind m (m.modJob j f) := by
  intro k' hk'
  rw [Mach.modJob_jobs] at hk'
  obtain ⟨x, hx, rfl⟩ := List.mem_map.mp hk'
  by_cases hsame : x.same j = true
  · rw [if_pos hsame]
    exact hf x hx hsame
  · rw [if_neg hsame]
    exact ⟨x, hx, rfl, rfl, rfl, .inl rfl⟩

/-! ## What winding down keeps -/

/-- An object that winding jobs down does not write: neither the count of recoveries nor a word of a partition's state. -/
def quietKey (k : Nat) : Prop := k ≠ okey 0x7000 3 ∧ ∀ p, p < 64 → k ≠ okey (pix p) 2

theorem quietKey_of {i b : Nat} (hi : 0x4000 ≤ i) (hb : b < 256) (h : i ≠ 0x7000 ∨ b ≠ 3) : quietKey (okey i b) := by
  refine ⟨fun he => ?_, fun p hp he => ?_⟩
  · have := (okey_inj hb (by decide)).mp he
    omega
  · have := (okey_inj hb (by decide)).mp he
    unfold pix at this
    omega

/-- What winding jobs down leaves: the flash, the supervisors that live, the count of recoveries and the BUSY of every partition; its jobs wind
down. -/
structure Winds (m m' : Mach) : Prop where
  flash : m'.flash = m.flash
  lost : m'.supLost = m.supLost
  count : m'.obj 0x7000 3 = m.obj 0x7000 3
  busy : ∀ p, p < 64 → m'.objBit (pix p) 2 0 = m.objBit (pix p) 2 0
  jobs : JobsWind m m'

theorem Winds.refl (m : Mach) : Winds m m := ⟨rfl, rfl, rfl, fun _ _ => rfl, JobsWind.of_jobs rfl⟩

theorem Winds.trans {a b c : Mach} (h : Winds a b) (h' : Winds b c) : Winds a c :=
  ⟨h'.flash.trans h.flash, h'.lost.trans h.lost, h'.count.trans h.count, fun p hp => (h'.busy p hp).trans (h.busy p hp), h.jobs.trans h'.jobs⟩

theorem Winds.foldl {α : Type} {f : Mach → α → Mach} {l : List α} (hf : ∀ m, ∀ x ∈ l, Winds m (f m x)) (m : Mach) : Winds m (l.foldl f m) :=
  List.foldlRecOn (motive := fun a : Mach => Winds m a) l f (Winds.refl m) fun a ha x hx => Winds.trans ha (hf a x hx)

/-- Beside objects that winding down does not write, a change of anything but the flash, the supervisors and the jobs. -/
theorem Winds.of_objs {m m' : Mach} (hflash : m'.flash = m.flash) (hlost : m'.supLost = m.supLost) (hjobs : JobsWind m m') {ks : List Nat}
    (hobjs : SameObjs ks m m') (hks : ∀ k ∈ ks, quietKey k) : Winds m m' := by
  refine ⟨hflash, hlost, hobjs _ _ fun hmem => (hks _ hmem).1 rfl, fun p hp => ?_, hjobs⟩
  exact Mach.objBit_of_obj m (hobjs _ _ fun hmem => (hks _ hmem).2 p hp rfl) 0

/-- A change of neither the objects nor the flash, the supervisors and the jobs. -/
theorem Winds.of_eq {m m' : Mach} (hflash : m'.flash = m.flash) (hlost : m'.supLost = m.supLost) (hobjs : m'.objs = m.objs) (hjobs : m'.jobs = m.jobs) :
    Winds m m' := Winds.of_objs hflash hlost (JobsWind.of_jobs hjobs) (SameObjs.of_objs [] hobjs) nofun

theorem Winds.of_jobs {m m' : Mach} (hflash : m'.flash = m.flash) (hlost : m'.supLost = m.supLost) (hobjs : m'.objs = m.objs) (hjobs : JobsWind m m') :
    Winds m m' := Winds.of_objs hflash hlost hjobs (SameObjs.of_objs [] hobjs) nofun

/-- Objects alone that winding down does not watch. -/
theorem Winds.of_objsOnly {m m' : Mach} (h : ObjsOnly m m') {ks : List Nat} (hobjs : SameObjs ks m m') (hks : ∀ k ∈ ks, quietKey k) : Winds m m' := by
  have hfields : m'.flash = m.flash ∧ m'.supLost = m.supLost ∧ m'.jobs = m.jobs := by
    unfold ObjsOnly at h
    rw [h]
    exact ⟨rfl, rfl, rfl⟩
  exact Winds.of_objs hfields.1 hfields.2.1 (JobsWind.of_jobs hfields.2.2) hobjs hks

section
variable (m : Mach)

theorem Winds.setObj {i b : Nat} (h : quietKey (okey i b)) (v : Nat) : Winds m (m.setObj i b v) :=
  Winds.of_objsOnly (ObjsOnly.setObj m i b v) (SameObjs.setObj m i b v (List.mem_singleton.mpr rfl)) fun _ hk => List.mem_singleton.mp hk ▸ h

theorem Winds.setBit {i b : Nat} (h : quietKey (okey i b)) (n : Nat) (v : Bool) : Winds m (m.setBit i b n v) := Winds.setObj m h _

/-- A bit of a partition's state other than BUSY. -/
theorem Winds.setStateBit (p : Nat) {n : Nat} (hn : n ≠ 0) (v : Bool) (hp : p < 64) : Winds m (m.setBit (pix p) 2 n v) := by
  refine ⟨rfl, rfl, Mach.obj_setField_other m (by simp only [okey, pix]; omega) .., fun q hq => ?_, JobsWind.of_jobs rfl⟩
  by_cases hpq : p = q
  · subst hpq
    exact Mach.objBit_setBit_other m _ _ hn v
  · refine Mach.objBit_of_obj m (Mach.obj_setField_other m (fun he => hpq ?_) ..) 0
    have := ((okey_inj (by decide) (by decide)).mp he).1
    unfold pix at this
    omega

theorem Winds.modPart (p : Nat) (f : Part → Part) : Winds m (m.modPart p f) := Winds.of_eq rfl rfl rfl rfl
theorem Winds.modCtx (c : Nat) (guest : Bool) (f : Ctx → Ctx) : Winds m (m.modCtx c guest f) := Winds.of_eq rfl rfl rfl rfl
theorem Winds.setCore (c : Nat) (k : Core) : Winds m (m.setCore c k) := Winds.of_eq rfl rfl rfl rfl
theorem Winds.setMed (e : Nat) (x : MedEng) : Winds m (m.setMed e x) := Winds.of_eq rfl rfl rfl rfl
theorem Winds.signal (d k n : Nat) : Winds m (m.signal d k n) := Winds.of_eq rfl rfl rfl rfl

theorem Winds.touch (rs : List (Nat × Nat)) : Winds m (m.touch rs) := by
  refine Winds.of_objs ?_ ?_ (JobsWind.of_jobs (Mach.touch_jobs ..)) (SameObjs.touch m rs) fun k hk => ?_
  · rw [Mach.touch_only]
  · rw [Mach.touch_only]
  · obtain ⟨s, hs, rfl⟩ := List.mem_map.mp hk
    exact quietKey_of (by omega) (by decide) (.inr (by decide))

theorem Winds.wr (a : Nat) (bs : List Byte) : Winds m (m.wr a bs) := Winds.of_eq rfl rfl rfl rfl

theorem Winds.put (a : Nat) (bs : List Byte) : Winds m (m.put a bs) := Winds.trans (Winds.touch m _) (Winds.wr _ a bs)

theorem Winds.setFlags (p fl : Nat) : Winds m (m.setFlags p fl) := by
  refine Winds.of_objsOnly (Mach.setFlags_only m p fl) (SameObjs.setFlags m p fl) fun k hk => List.mem_singleton.mp hk ▸ ?_
  exact quietKey_of (by omega) (by decide) (.inr (by decide))

theorem Winds.wrAll (ws : List (Nat × List Byte)) : Winds m (m.wrAll ws) := by
  refine Winds.of_eq ?_ ?_ (Mach.wrAll_objs ..) ?_ <;> rw [Mach.wrAll_only]

theorem Winds.countMoved {p : Nat} (hp : p < 64) (pl : DmaPlan) (mv : Moved) : Winds m (m.countMoved p pl mv) := by
  obtain ⟨honly, hobjs⟩ := m.countMoved_only p pl mv
  refine Winds.of_objsOnly honly hobjs fun k hk => ?_
  obtain ⟨b, hb, rfl⟩ := List.mem_map.mp hk
  simp only [List.mem_cons, List.not_mem_nil, or_false] at hb
  exact quietKey_of (by omega) (by omega) (.inl (by omega))

/-! ## Jobs end, stop and count their commands -/

theorem Winds.endJob (j : Job) (st d : Nat) : Winds m (m.endJob j st d) := by
  refine Winds.of_jobs rfl rfl rfl ?_
  refine JobsWind.trans (JobsWind.modJob m j (fun x => { x with st := .done st d m.doneSeq }) fun x hx _ => ?_) (JobsWind.of_jobs rfl)
  exact ⟨x, hx, rfl, rfl, rfl, .inr rfl⟩

theorem Winds.stopping (j : Job) (st d : Nat) : Winds m (m.modJob j (fun x => { x with st := .stopping st d })) :=
  Winds.of_jobs rfl rfl rfl (JobsWind.modJob m j _ fun x hx _ => ⟨x, hx, rfl, rfl, rfl, .inr rfl⟩)

theorem Winds.endRun (j : Job) (st d : Nat) : Winds m (m.endRun j st d) := by
  have hunpin : Winds m (m.unpinJob j) := by
    refine Winds.of_eq ?_ ?_ ?_ ?_ <;> rw [PinsOnly.unpinJob]
  exact Winds.trans hunpin (Winds.endJob _ j st d)

theorem Winds.settle (p : Nat) : Winds m (m.settle p) := by
  unfold Mach.settle
  split
  · split
    · exact Winds.endRun m _ _ _
    · exact Winds.refl m
  · exact Winds.refl m

theorem Winds.stopRounds (p : Nat) : Winds m (m.stopRounds p) := by
  have hopen : Winds m (if m.inRound p = true then m.setBit (0x6480 + p) 0xF 8 true else m) := by
    split
    · exact Winds.setBit m (quietKey_of (by omega) (by decide) (.inr (by decide))) _ _
    · exact Winds.refl m
  unfold Mach.stopRounds
  exact Winds.trans hopen (Winds.modPart ..)

theorem Winds.stopCores (p : Nat) (guest : Bool) : Winds m (m.stopCores p guest) := by
  refine Winds.of_eq ?_ ?_ (Mach.stopCores_objs ..) (Mach.stopCores_jobs ..) <;> rw [Mach.stopCores_only]

theorem Winds.stopJob (j : Job) (guest : Bool) (st d : Nat) : Winds m (m.stopJob j guest st d) := by
  have hstop : Winds m ((m.modJob j (fun x => { x with st := .stopping st d })).stopCores j.part guest) :=
    Winds.trans (Winds.stopping m j st d) (Winds.stopCores _ j.part guest)
  unfold Mach.stopJob
  dsimp only
  split
  · exact hstop
  · exact Winds.trans hstop (Winds.stopRounds _ j.part)

/-- A command counted to its job changes what is left of it, and ends it with the last. -/
theorem Winds.jobCommandDone (client seq status : Nat) : Winds m (m.jobCommandDone client seq status) := by
  unfold Mach.jobCommandDone
  split
  · exact Winds.refl m
  · next j hj =>
    have hmem : j ∈ m.jobs := List.mem_of_find?_eq_some hj
    extract_lets j' counted
    have hcounted : Winds m counted := Winds.of_jobs rfl rfl rfl (JobsWind.modJob m j _ fun _ _ _ => ⟨j, hmem, rfl, rfl, rfl, .inl rfl⟩)
    split
    · exact hcounted
    · split
      · exact Winds.trans hcounted (Winds.endJob ..)
      · split
        · exact Winds.trans hcounted (Winds.endJob ..)
        · exact Winds.trans hcounted (Winds.endJob ..)
      · exact hcounted

/-! ## Data movements -/

theorem Mach.partOf_lt {g p : Nat} (h : m.partOf g = some p) : p < 64 := List.mem_range.mp (List.mem_of_find?_eq_some h)

theorem Winds.doDmaComplete (core n : Nat) : Winds m (doDmaComplete m core n) := by
  unfold Machine.doDmaComplete
  split
  · next p guest i e hp hdma =>
    have hpart : p < 64 := m.partOf_lt hp
    have hmove : ∀ pl : DmaPlan, Winds m (if (m.badPieceOf (pl.moved m)).isSome = true then m else
        Mach.settle (match e.marker with
          | some k => (((((m.touch (pl.moved m).spans).wrAll (pl.moved m).writes).countMoved p pl (pl.moved m)).setFlags p (pl.moved m).flags).dropDma
              core guest i).signal (core / 256) k 1
          | none => ((((m.touch (pl.moved m).spans).wrAll (pl.moved m).writes).countMoved p pl (pl.moved m)).setFlags p (pl.moved m).flags).dropDma
              core guest i) p) := by
      intro pl
      split
      · exact Winds.refl m
      · have hmoved : Winds m (((((m.touch (pl.moved m).spans).wrAll (pl.moved m).writes).countMoved p pl (pl.moved m)).setFlags p
            (pl.moved m).flags).dropDma core guest i) :=
          Winds.trans (Winds.trans (Winds.trans (Winds.trans (Winds.touch m _) (Winds.wrAll _ _)) (Winds.countMoved _ hpart _ _)) (Winds.setFlags _ p _))
            (Winds.modCtx ..)
        refine Winds.trans ?_ (Winds.settle _ p)
        split
        · exact Winds.trans hmoved (Winds.signal ..)
        · exact hmoved
    split
    · exact Winds.refl m
    · exact Winds.refl m
    · exact hmove e.plan
  · exact Winds.refl m

theorem Winds.endDma (p : Nat) (guest : Bool) : Winds m (m.endDma p guest) :=
  Winds.foldl (fun a c _ => Winds.trans (Winds.foldl (fun b _ _ => Winds.doDmaComplete b c _) a) (Winds.modCtx ..)) m

/-! ## Engines and streams -/

theorem Winds.medReport {e : Nat} (he : e < 10) (c : MedCmd) (record : List Byte) : Winds m (m.medReport e c record) := by
  have hkey : ∀ b, b < 256 → quietKey (okey (0x5100 + e) b) := fun b hb => quietKey_of (by omega) hb (.inl (by omega))
  have hrecord : Winds m (m.medRecorded c record) := by
    unfold Mach.medRecorded
    split
    · exact Winds.put ..
    · exact Winds.refl m
  have hsignal : ∀ a : Mach, Winds a (a.medSignalled e c) := by
    intro a
    unfold Mach.medSignalled
    split
    · exact Winds.refl a
    · exact Winds.signal ..
  rw [Mach.medReport_eq]
  exact Winds.trans (Winds.trans (Winds.trans (Winds.trans hrecord (hsignal _)) (Winds.setObj _ (hkey 2 (by decide)) _))
    (Winds.setObj _ (hkey 3 (by decide)) _)) (Winds.jobCommandDone ..)

theorem Winds.medWithdraw (sel : MedCmd → Bool) : Winds m (m.medWithdraw sel) :=
  Winds.foldl (fun a e he => Winds.trans (Winds.setMed a e _) (Winds.foldl (fun b c _ => Winds.medReport b (List.mem_range.mp he) c _) _)) m

theorem Winds.inDone (p : Nat) (c : InCmd) (record : List Byte) : Winds m (m.inDone p c record) := by
  unfold Mach.inDone
  extract_lets left stored
  have hleft : Winds m left := Winds.modPart ..
  refine Winds.trans (Winds.trans hleft ?_) (Winds.jobCommandDone ..)
  unfold stored
  split
  · exact Winds.put ..
  · exact Winds.refl _

theorem Winds.inStop (p st : Nat) : Winds m (m.inStop p st) := by
  unfold Mach.inStop
  split
  · exact Winds.refl m
  · split
    · exact Winds.refl m
    · exact Winds.trans (Winds.trans (Winds.modPart m p _) (Winds.setBit _ (quietKey_of (by omega) (by decide) (.inr (by decide))) _ _)) (Winds.inDone ..)

theorem Winds.inWithdraw (p : Nat) (sel : InCmd → Bool) : Winds m (m.inWithdraw p sel) := by
  unfold Mach.inWithdraw
  extract_lets stopped out keep
  have hstopped : Winds m stopped := by
    unfold stopped
    split
    · split
      · split
        · exact Winds.inStop ..
        · exact Winds.refl m
      · exact Winds.refl m
    · exact Winds.refl m
  refine Winds.trans hstopped (Winds.trans (Winds.modPart _ p _) (Winds.foldl (fun a c _ => ?_) _))
  dsimp only
  refine Winds.trans ?_ (Winds.jobCommandDone ..)
  split
  · exact Winds.put ..
  · exact Winds.refl a

/-- The module with what a MEDIA or INPUT job has not started withdrawn (R402). -/
def Mach.listWithdrawn (j : Job) : Mach :=
  if j.kind = 4 then
    (List.range (j.arg2 - j.fed)).foldl (fun (a : Mach) i =>
      let b := a.rd (j.arg0 + 64 * (j.fed + i)) 64
      a.medReport (if mcEng b < 10 then mcEng b else 9) ⟨j.part, j.client, j.seq, b⟩ ((MedOut.plain 6).record b))
      (m.medWithdraw (fun c => c.client = j.client && c.seq = j.seq))
  else m.inWithdraw j.part (fun c => c.client = j.client && c.seq = j.seq)

theorem Mach.stopList_eq (j : Job) (status : Nat) :
    m.stopList j status = (m.modJob j (fun x => { x with st := .stopping status 0 })).listWithdrawn j := rfl

theorem Winds.listWithdrawn (j : Job) : Winds m (m.listWithdrawn j) := by
  unfold Mach.listWithdrawn
  split
  · refine Winds.trans (Winds.medWithdraw ..) (Winds.foldl (fun a i _ => Winds.medReport a ?_ _ _) _)
    split
    · assumption
    · decide
  · exact Winds.inWithdraw ..

/-- A list whose commands are withdrawn. -/
theorem Winds.stopList (j : Job) (status : Nat) : Winds m (m.stopList j status) :=
  Winds.trans (Winds.stopping m j status 0) (Winds.listWithdrawn _ j)

theorem Winds.medClose (k : Nat) : Winds m (m.medClose k) := Winds.of_eq rfl rfl rfl rfl

theorem Winds.inClose (p : Nat) : Winds m (m.inClose p) := by
  unfold Mach.inClose
  split
  · exact Winds.refl m
  · exact Winds.trans (Winds.trans (Winds.foldl (fun a k _ => Winds.medClose a k) m) (Winds.modPart _ p _))
      (Winds.setObj _ (quietKey_of (by omega) (by decide) (.inr (by decide))) _)

theorem Winds.medCloseAll (p : Nat) : Winds m (m.medCloseAll p) := Winds.of_eq rfl rfl rfl rfl

theorem Winds.closeStreams (p : Nat) : Winds m (m.closeStreams p) := by
  have hmedia : Winds m ((m.medWithdraw (fun c => c.part = p)).medCloseAll p) := Winds.trans (Winds.medWithdraw ..) (Winds.medCloseAll ..)
  unfold Mach.closeStreams
  exact Winds.trans (Winds.trans hmedia (Winds.inWithdraw ..)) (Winds.inClose ..)

/-! ## Saves, lifelines and frogs -/

theorem Winds.openSave (p slot : Nat) : Winds m (m.openSave p slot) := by
  unfold Mach.openSave
  split
  · split
    · exact Winds.setBit m (quietKey_of (by omega) (by decide) (.inr (by decide))) _ _
    · exact Winds.refl m
  · exact Winds.refl m

theorem Winds.dropSave (j : Job) : Winds m (m.dropSave j) := by
  unfold Mach.dropSave
  split
  · exact Winds.trans (Winds.openSave ..) (Winds.modPart ..)
  · exact Winds.refl m

theorem Winds.dropStream (p : Nat) : Winds m (m.dropStream p) := by
  have hkey : quietKey (okey (0x7200 + p) 7) := quietKey_of (by omega) (by decide) (.inr (by decide))
  unfold Mach.dropStream
  split
  · exact Winds.trans (Winds.trans (Winds.modPart m p _) (Winds.setBit _ hkey _ _)) (Winds.setBit _ hkey _ _)
  · exact Winds.modPart ..

theorem Winds.frogFail (p fail st : Nat) : Winds m (m.frogFail p fail st) := by
  have hkey : quietKey (okey (0x7200 + p) 0x10) := quietKey_of (by omega) (by decide) (.inr (by decide))
  unfold Mach.frogFail
  refine Winds.trans ?_ (Winds.setObj _ hkey _)
  refine Winds.trans ?_ (Winds.setObj _ hkey _)
  exact Winds.trans (Winds.modPart ..) (Winds.setObj _ hkey _)

/-- The job that runs is stopped where it runs, its data movements are dropped and it ends. -/
theorem Winds.endStopped (p : Nat) (j : Job) (guest : Bool) (st d : Nat) :
    Winds m (((if j.st = JobSt.running then m.stopJob j guest 3 0 else m).endDma p guest).endRun j st d) := by
  refine Winds.trans (Winds.trans ?_ (Winds.endDma _ p guest)) (Winds.endRun ..)
  split
  · exact Winds.stopJob ..
  · exact Winds.refl m

theorem Winds.stopForRecovery (p : Nat) : Winds m (m.stopForRecovery p) := by
  unfold Mach.stopForRecovery
  extract_lets js fin lists saved left
  have hfin : ∀ guest a, Winds a (fin guest a) := by
    intro guest a
    unfold fin
    split
    · exact Winds.endStopped ..
    · exact Winds.refl a
  have hlists : Winds m lists := Winds.foldl (fun a j _ => Winds.stopList a j 3) m
  have hsaved : Winds lists saved := Winds.trans (hfin false lists)
    (Winds.foldl (fun a j _ => Winds.trans (Winds.dropSave a j) (Winds.endRun ..)) _)
  have hleft : Winds m left := Winds.trans (Winds.trans hlists hsaved) (Winds.trans (hfin true saved) (Winds.dropStream ..))
  split
  · exact Winds.trans hleft (Winds.frogFail ..)
  · exact hleft

end

end Sys2Proof.Machine
end

section
/-! SUPPORT. Proofs: hardware faults, bridge failures and supervisors (R27, R33, R496, R497, R503, R505, R506). -/

namespace Sys2Proof.Machine

/-! ## What a test and its binding keep -/

/-- The fault log of every supervisor, the count of recoveries and the BUSY of every partition are kept. -/
structure RecoveryKept (m m' : Mach) : Prop where
  log : ∀ x, (m'.flash.store x).log = (m.flash.store x).log
  count : m'.obj 0x7000 3 = m.obj 0x7000 3
  busy : ∀ p, p < 64 → m'.objBit (pix p) 2 0 = m.objBit (pix p) 2 0

theorem RecoveryKept.refl (m : Mach) : RecoveryKept m m := ⟨fun _ => rfl, rfl, fun _ _ => rfl⟩

theorem RecoveryKept.trans {a b c : Mach} (h : RecoveryKept a b) (h' : RecoveryKept b c) : RecoveryKept a c :=
  ⟨fun x => (h'.log x).trans (h.log x), h'.count.trans h.count, fun p hp => (h'.busy p hp).trans (h.busy p hp)⟩

theorem Winds.recoveryKept {m m' : Mach} (h : Winds m m') : RecoveryKept m m' := ⟨fun x => by rw [h.flash], h.count, h.busy⟩

/-- A change that leaves the logs, and beside objects that it does not watch none. -/
theorem RecoveryKept.of_objs {m m' : Mach} (hlog : ∀ x, (m'.flash.store x).log = (m.flash.store x).log) {ks : List Nat} (hobjs : SameObjs ks m m')
    (hks : ∀ k ∈ ks, quietKey k) : RecoveryKept m m' := by
  refine ⟨hlog, hobjs _ _ fun hmem => (hks _ hmem).1 rfl, fun p hp => ?_⟩
  exact Mach.objBit_of_obj m (hobjs _ _ fun hmem => (hks _ hmem).2 p hp rfl) 0

theorem quietKey_alarm {k : Nat} (h : k ∈ emcyKeys ∨ k = okey 0x7000 1 ∨ k = okey 0x7000 2 ∨ k = okey 0x2007 0) : quietKey k := by
  have hlow : ∀ i b, i < 0x3000 → b < 256 → quietKey (okey i b) := by
    intro i b hi hb
    refine ⟨fun he => ?_, fun p hp he => ?_⟩
    · have := (okey_inj hb (by decide)).mp he
      omega
    · have := (okey_inj hb (by decide)).mp he
      unfold pix at this
      omega
  obtain h | rfl | rfl | rfl := h
  · simp only [emcyKeys, List.mem_append, List.mem_cons, List.not_mem_nil, or_false, List.mem_map, List.mem_range] at h
    obtain (rfl | rfl | rfl) | ⟨n, hn, rfl⟩ := h
    · exact hlow _ _ (by decide) (by decide)
    · exact hlow _ _ (by decide) (by decide)
    · exact hlow _ _ (by decide) (by decide)
    · exact hlow _ _ (by decide) (by omega)
  · exact quietKey_of (by decide) (by decide) (.inr (by decide))
  · exact quietKey_of (by decide) (by decide) (.inr (by decide))
  · exact hlow _ _ (by decide) (by decide)

theorem AlarmsOnly.flash {m m' : Mach} (h : AlarmsOnly m m') : m'.flash = m.flash := by rw [h.fields]

theorem AlarmsOnly.recoveryKept {m m' : Mach} (h : AlarmsOnly m m') : RecoveryKept m m' :=
  RecoveryKept.of_objs (fun _ => by rw [h.flash]) h.objs fun _ hk => quietKey_alarm (.inl hk)

section
variable (m : Mach)

theorem RecoveryKept.eachStore {f : Nat → Store → Store} (hf : ∀ s x, (f s x).log = x.log) : RecoveryKept m (m.eachStore f) := by
  refine RecoveryKept.of_objs (fun x => ?_) (SameObjs.of_objs [] ?_) nofun
  · rw [Mach.store_eachStore]
    split
    · exact hf _ _
    · rfl
  · rw [Mach.eachStore_only]

theorem Store.enter_log (x : Store) (e : RepEntry) : (x.enter e).log = x.log := by
  unfold Store.enter
  split <;> rfl

theorem RecoveryKept.repair (level die clus unit code : Nat) : RecoveryKept m (m.repair level die clus unit code) :=
  RecoveryKept.eachStore m fun _ _ => Store.enter_log ..

theorem RecoveryKept.setRows (s : Nat) (r : RowStore) : RecoveryKept m (m.setRows s r) := RecoveryKept.eachStore m fun _ _ => rfl

theorem RecoveryKept.candidate (s row : Nat) : RecoveryKept m (m.candidate s row) := by
  unfold Mach.candidate
  extract_lets r
  split
  · exact RecoveryKept.refl m
  · split <;> exact RecoveryKept.setRows m s _

theorem RecoveryKept.setObj {i b : Nat} (h : quietKey (okey i b)) (v : Nat) : RecoveryKept m (m.setObj i b v) := (Winds.setObj m h v).recoveryKept

/-- A change of what is neither flash nor an object. -/
theorem RecoveryKept.of_eq {m m' : Mach} (hflash : m'.flash = m.flash) (hobjs : m'.objs = m.objs) : RecoveryKept m m' :=
  RecoveryKept.of_objs (fun _ => by rw [hflash]) (SameObjs.of_objs [] hobjs) nofun

theorem RecoveryKept.warn (n : Nat) : RecoveryKept m (m.warn n) := RecoveryKept.setObj m (quietKey_alarm (.inr (.inr (.inr rfl)))) _

theorem RecoveryKept.replacement (reason : Nat) : RecoveryKept m (m.replacement reason) := by
  obtain ⟨⟨a, hobjs, halarms⟩, hkeys⟩ := m.replacement_leaves reason
  refine RecoveryKept.of_objs (fun x => ?_) hkeys fun k hk => quietKey_alarm ?_
  · rw [halarms.flash, hobjs.keeps Mach.flash fun _ => rfl]
  · simp only [List.mem_cons] at hk
    obtain h | h | h | h := hk
    · exact .inr (.inl h)
    · exact .inr (.inr (.inl h))
    · exact .inr (.inr (.inr h))
    · exact .inl h

theorem RecoveryKept.bindOffCluster (g code : Nat) : RecoveryKept m (m.bindOffCluster g code) := by
  unfold Mach.bindOffCluster
  split
  · exact RecoveryKept.refl m
  · extract_lets off src
    have hoff : RecoveryKept m off := RecoveryKept.trans (b := { m with offClusters := m.offClusters ++ [g] }) (RecoveryKept.of_eq rfl rfl)
      (RecoveryKept.repair ..)
    clear_value off
    have hisland : RecoveryKept off (off.setIsland g { src with on := false }) := RecoveryKept.of_eq rfl rfl
    exact RecoveryKept.trans (RecoveryKept.trans hoff hisland) (RecoveryKept.replacement ..)

theorem RecoveryKept.bindOffSlot (g k code : Nat) : RecoveryKept m (m.bindOffSlot g k code) := by
  unfold Mach.bindOffSlot
  extract_lets entered dead low
  have hentered : RecoveryKept m entered := RecoveryKept.repair ..
  clear_value entered low
  split
  · exact RecoveryKept.trans hentered (RecoveryKept.bindOffCluster ..)
  · split
    · exact RecoveryKept.trans hentered (RecoveryKept.of_eq rfl rfl)
    · exact hentered

theorem quietKey_stack (s : Nat) {b : Nat} (hb : b < 256) (h : b ≠ 3) : quietKey (okey (0x4100 + s) b) := quietKey_of (by omega) hb (.inr h)

theorem RecoveryKept.loseStack (s reason code : Nat) : RecoveryKept m (m.loseStack s reason code) := by
  unfold Mach.loseStack
  split
  · exact RecoveryKept.refl m
  · extract_lets shown
    have hshown : RecoveryKept m shown := RecoveryKept.trans (RecoveryKept.setObj m (quietKey_stack s (b := 2) (by decide) (by decide)) _)
      (RecoveryKept.setObj _ (quietKey_stack s (b := 2) (by decide) (by decide)) _)
    clear_value shown
    have hoff : RecoveryKept shown { shown with offStacks := shown.offStacks ++ [s] } := RecoveryKept.of_eq rfl rfl
    exact RecoveryKept.trans (RecoveryKept.trans (RecoveryKept.trans (RecoveryKept.trans hshown hoff) (RecoveryKept.repair ..)) (RecoveryKept.warn ..))
      (RecoveryKept.replacement ..)

theorem RecoveryKept.rowLost (s row : Nat) : RecoveryKept m (m.rowLost s row) :=
  RecoveryKept.setObj m (quietKey_stack _ (b := 0xB) (by decide) (by decide)) _

theorem RecoveryKept.eccLost (kind addr cls : Nat) : RecoveryKept m (m.eccLost kind addr cls) := by
  unfold Mach.eccLost
  extract_lets d
  have hspoiled : RecoveryKept m (m.spoil addr) := RecoveryKept.of_eq rfl rfl
  have hcounted : RecoveryKept (m.spoil addr) ((m.spoil addr).addObj (0x4100 + d.stack) 4 1) :=
    RecoveryKept.setObj _ (quietKey_stack d.stack (b := 4) (by decide) (by decide)) _
  have hrecord : ∀ a : Mach, RecoveryKept a (a.errorRecord kind addr cls) := fun a =>
    RecoveryKept.setObj a (quietKey_stack _ (b := 0xB) (by decide) (by decide)) _
  exact RecoveryKept.trans (RecoveryKept.trans (RecoveryKept.trans (RecoveryKept.trans hspoiled hcounted) (hrecord _)) (AlarmsOnly.health _).recoveryKept)
    (RecoveryKept.candidate ..)

theorem RecoveryKept.softRepair (s row : Nat) : RecoveryKept m (m.softRepair s row) := by
  unfold Mach.softRepair
  extract_lets x lost
  have hlost : RecoveryKept m lost :=
    List.foldlRecOn (motive := fun a : Mach => RecoveryKept m a) _ _ (RecoveryKept.refl m) fun a ha h _ => RecoveryKept.trans ha (RecoveryKept.eccLost a 3 h 4)
  clear_value lost
  split
  · exact RecoveryKept.refl m
  · exact RecoveryKept.trans hlost (RecoveryKept.of_eq rfl rfl)

/-- The test and binding of a unit. -/
theorem RecoveryKept.testUnit (c : HwCause) (code : Nat) : RecoveryKept m (m.testUnit c code) := by
  unfold Mach.testUnit
  cases c with
  | slot g k fails =>
    dsimp only
    split
    · exact RecoveryKept.bindOffSlot ..
    · exact RecoveryKept.refl m
  | cluster g fails =>
    dsimp only
    split
    · exact RecoveryKept.bindOffCluster ..
    · exact RecoveryKept.refl m
  | row s row mends =>
    dsimp only
    split
    · exact RecoveryKept.refl m
    · have hcandidate := RecoveryKept.candidate m s row
      split
      · exact RecoveryKept.trans (RecoveryKept.trans hcandidate (RecoveryKept.loseStack ..)) (RecoveryKept.rowLost ..)
      · split
        · exact hcandidate
        · exact RecoveryKept.trans hcandidate (RecoveryKept.softRepair ..)
  | link l fails =>
    dsimp only
    split
    · have hoff : RecoveryKept m { m with offLinks := m.offLinks ++ [l] } := RecoveryKept.of_eq rfl rfl
      exact RecoveryKept.trans (RecoveryKept.trans hoff (RecoveryKept.repair ..)) (RecoveryKept.replacement ..)
    · exact RecoveryKept.refl m
  | engine e fails =>
    dsimp only
    split
    · exact RecoveryKept.trans (b := m.setMed e { m.med e with failed := true }) (RecoveryKept.of_eq rfl rfl)
        (RecoveryKept.setObj _ (quietKey_of (b := 1) (by omega) (by decide) (.inr (by decide))) _)
    · exact RecoveryKept.refl m

/-! ## A partition dissolved -/

section
variable {p : Nat} (hp : p < 64)
include hp

theorem Winds.unloadGuest : Winds m (m.unloadGuest p) := by
  have hkey : ∀ b, b < 256 → quietKey (okey (0x6300 + p) b) := fun b hb => quietKey_of (by omega) hb (.inl (by omega))
  unfold Mach.unloadGuest
  exact Winds.trans (Winds.trans (Winds.modPart ..) (Winds.setObj _ (hkey 3 (by decide)) _)) (Winds.setObj _ (hkey 4 (by decide)) _)

theorem Winds.unloadResident : Winds m (m.unloadResident p) := by
  have hkey : ∀ b, b < 256 → quietKey (okey (0x6300 + p) b) := fun b hb => quietKey_of (by omega) hb (.inl (by omega))
  unfold Mach.unloadResident
  exact Winds.trans (Winds.trans (Winds.trans (Winds.modPart ..) (Winds.setObj _ (quietKey_of (by omega) (by decide) (.inr (by decide))) _))
    (Winds.setObj _ (hkey 1 (by decide)) _)) (Winds.setObj _ (hkey 2 (by decide)) _)

theorem Winds.endJobs : Winds m (m.endJobs p) := by
  unfold Mach.endJobs
  extract_lets js ended lists resident saved guests
  have hended : Winds m ended := Winds.foldl (fun a j _ => Winds.endJob a j 2 0) m
  have hlists : Winds ended lists := Winds.foldl (fun a j _ => Winds.stopList a j 3) ended
  have hresident : Winds lists resident := by
    unfold resident
    split
    · exact Winds.endStopped ..
    · exact Winds.refl lists
  have hsaved : Winds resident saved := Winds.foldl (fun a j _ => Winds.trans (Winds.dropSave a j) (Winds.endRun ..)) resident
  have hguests : Winds saved guests := by
    unfold guests
    split
    · refine Winds.trans (Winds.trans ?_ (Winds.endDma _ p true)) (Winds.endJob ..)
      split
      · exact Winds.stopJob ..
      · exact Winds.refl saved
    · exact Winds.refl saved
  exact Winds.trans (Winds.trans (Winds.trans (Winds.trans (Winds.trans hended hlists) hresident) hsaved) hguests) (Winds.setStateBit _ p (by decide) _ hp)

omit hp in
theorem Winds.freshCores : Winds m (m.freshCores p) := Winds.foldl (fun a _ _ => Winds.setCore a _ _) m

omit hp in
theorem Winds.forget : Winds m (m.forget p) := by
  have hfresh := Winds.freshCores m (p := p)
  unfold Mach.forget
  exact Winds.trans hfresh (Winds.of_eq rfl rfl rfl rfl)

omit hp in
theorem Winds.powerClusters (on : Bool) : Winds m (m.powerClusters p on) :=
  Winds.foldl (fun a g _ => Winds.of_eq (m' := a.setIsland g _) rfl rfl rfl rfl) m

omit hp in
theorem Winds.setPart (x : Part) : Winds m (m.setPart p x) := Winds.of_eq rfl rfl rfl rfl

/-- A partition before its last words are written as it is dissolved. -/
def Mach.dissolving (p : Nat) : Mach :=
  (((((((m.endJobs p).unloadGuest p).unloadResident p).closeStreams p).forget p).powerClusters p false).setPart p Part.empty)

theorem Winds.dissolving : Winds m (m.dissolving p) := by
  unfold Mach.dissolving
  exact Winds.trans (Winds.trans (Winds.trans (Winds.trans (Winds.trans (Winds.trans (Winds.endJobs m hp) (Winds.unloadGuest _ hp)) (Winds.unloadResident _ hp))
    (Winds.closeStreams ..)) (Winds.forget ..)) (Winds.powerClusters ..)) (Winds.setPart ..)

omit hp in
theorem Mach.dissolve_eq : m.dissolve p = ((m.dissolving p).setField (pix p) 2 31 0 0).setField (pix p) 2 2 0 2 := rfl

end

end

end Sys2Proof.Machine
end

section
/-! SUPPORT. Proofs: recovery settled (R27, R33, R496, R497, R503, R505, R506). -/

namespace Sys2Proof.Machine

/-! ## HARDWARE_FAULT -/

section
variable (m : Mach)

/-- The module with the jobs of the partition that holds the unit stopped and its recovery state shown. -/
def Mach.recoveryStopped (p : Option Nat) (code : Nat) : Mach :=
  let m := match m.hwEntry code with | some e => { m with hwWait := m.hwWait.erase e } | none => m
  match p with
  | some q => ((m.stopForRecovery q).setField (0x7200 + q) 0x10 23 16 (code % 256)).setRecState q 1
  | none => m

/-- The module with the fault logged, told and counted. -/
def Mach.faultLogged (record : List Byte) (detail : Nat) : Mach := ((m.logFault record).emcySet .hw detail).addObj32 0x7000 3 1

/-- A partition has lost a cluster or a stack. -/
def Mach.hasLost (q : Nat) : Bool := (m.clusters q).any (fun g => m.offClusters.contains g) || (m.stacks q).any (fun s => m.offStacks.contains s)

theorem doHardwareFault_eq (c : HwCause) (code : Nat) (h : m.supLost.length < 2) : doHardwareFault m c code =
    match m.holder c with
    | none => (((m.recoveryStopped (m.holder c) code).faultLogged (m.recoveryRecord c code ((m.holder c).getD 0xFF))
        (code % 256 + 256 * ((m.holder c).getD 0xFF % 256))).testUnit c code)
    | some q => ((((m.recoveryStopped (m.holder c) code).faultLogged (m.recoveryRecord c code ((m.holder c).getD 0xFF))
        (code % 256 + 256 * ((m.holder c).getD 0xFF % 256))).testUnit c code).setRecState q
          (if (((m.recoveryStopped (m.holder c) code).faultLogged (m.recoveryRecord c code ((m.holder c).getD 0xFF))
            (code % 256 + 256 * ((m.holder c).getD 0xFF % 256))).testUnit c code).hasLost q || decide (m.recState q = 4) then 4 else 3)).endSave q := by
  unfold doHardwareFault
  rw [if_neg (not_le.mpr h)]
  cases hentry : m.hwEntry code <;> cases hp : m.holder c <;> simp only [Mach.recoveryStopped, hentry] <;> rfl

theorem Winds.recoveryStopped (p : Option Nat) (code : Nat) : Winds m (m.recoveryStopped p code) := by
  unfold Mach.recoveryStopped
  extract_lets taken
  have htaken : Winds m taken := by
    unfold taken
    split
    · exact Winds.of_eq rfl rfl rfl rfl
    · exact Winds.refl m
  clear_value taken
  cases p with
  | none => exact htaken
  | some q =>
    have hkey : quietKey (okey (0x7200 + q) 0x10) := quietKey_of (by omega) (by decide) (.inr (by decide))
    exact Winds.trans (Winds.trans (Winds.trans htaken (Winds.stopForRecovery ..)) (Winds.setObj _ hkey _)) (Winds.setObj _ hkey _)

/-- A fault logged is in every fault log, counted, and leaves BUSY. -/
theorem Mach.faultLogged_spec (record : List Byte) (detail : Nat) :
    (∀ x, x < 2 → m.alive x = true → record ∈ ((m.faultLogged record detail).flash.store x).log) ∧
    (m.faultLogged record detail).obj 0x7000 3 = min (m.obj 0x7000 3 + 1) (2 ^ 32 - 1) ∧
    ∀ p, p < 64 → (m.faultLogged record detail).objBit (pix p) 2 0 = m.objBit (pix p) 2 0 := by
  have halarms : AlarmsOnly (m.logFault record) ((m.logFault record).emcySet .hw detail) := AlarmsOnly.emcySet ..
  have hkept := halarms.recoveryKept
  have hflash := halarms.flash
  have hlogged : (m.logFault record).objs = m.objs := by
    unfold Mach.logFault
    rw [Mach.eachStore_only]
  unfold Mach.faultLogged
  generalize (m.logFault record).emcySet .hw detail = a at *
  refine ⟨fun x hx halive => ?_, ?_, fun p hp => ?_⟩
  · have hstore : (a.addObj32 0x7000 3 1).flash.store x = (m.logFault record).flash.store x := congrArg (·.store x) hflash
    rw [hstore, Mach.logFault, Mach.store_eachStore, if_pos ⟨hx, halive⟩]
    exact List.mem_cons_self
  · rw [Mach.obj_addObj32_same, hkept.count, Mach.obj_eq_of_objs hlogged]
  · refine (Mach.objBit_of_obj a (Mach.obj_setObj_other a (by simp only [okey, pix]; omega) _) 0).trans ((hkept.busy p hp).trans ?_)
    exact Mach.objBit_of_obj m (Mach.obj_eq_of_objs hlogged _ _) 0

/-- The logs and the count of recoveries of a module. -/
def LogsKept (m m' : Mach) : Prop := (∀ x, (m'.flash.store x).log = (m.flash.store x).log) ∧ m'.obj 0x7000 3 = m.obj 0x7000 3

theorem LogsKept.trans {a b c : Mach} (h : LogsKept a b) (h' : LogsKept b c) : LogsKept a c := ⟨fun x => (h'.1 x).trans (h.1 x), h'.2.trans h.2⟩

theorem RecoveryKept.logsKept {m m' : Mach} (h : RecoveryKept m m') : LogsKept m m' := ⟨h.log, h.count⟩

theorem LogsKept.setState {p : Nat} (hp : p < 64) (hi lo v : Nat) : LogsKept m (m.setField (pix p) 2 hi lo v) :=
  ⟨fun _ => rfl, Mach.obj_setField_other m (by simp only [okey, pix]; omega) ..⟩

/-- The end of a save, with the dissolve that waits for it, keeps the logs. -/
theorem LogsKept.endSave {p : Nat} (hp : p < 64) : LogsKept m (m.endSave p) := by
  have hclear : LogsKept m (m.setBit (pix p) 2 6 false) := LogsKept.setState m hp ..
  unfold Mach.endSave
  dsimp only
  split
  · rw [Mach.dissolve_eq]
    exact LogsKept.trans (LogsKept.trans (LogsKept.trans hclear (Winds.dissolving _ hp).recoveryKept.logsKept) (LogsKept.setState _ hp ..))
      (LogsKept.setState _ hp ..)
  · exact hclear

/-- The end of a save of a partition that is not BUSY only clears SWITCHING. -/
theorem Mach.endSave_idle {p : Nat} (h : m.objBit (pix p) 2 0 = false) : m.endSave p = m.setBit (pix p) 2 6 false := by
  have hbit : (m.setBit (pix p) 2 6 false).objBit (pix p) 2 0 = false := (Mach.objBit_setBit_other m _ _ (by decide) _).trans h
  unfold Mach.endSave
  simp [hbit]

theorem Mach.holder_lt {c : HwCause} {p : Nat} (h : m.holder c = some p) : p < 64 := List.mem_range.mp (List.mem_of_find?_eq_some h)

/-- The recovery state set as the last thing but the end of the save. -/
theorem Mach.recState_left {q st : Nat} (hst : st < 16) (hidle : m.objBit (pix q) 2 0 = false) :
    let m' := (m.setRecState q st).endSave q
    m'.recState q = st ∧ m'.hasLost q = m.hasLost q := by
  intro m'
  have hkey : ∀ b, b < 256 → okey (0x7200 + q) 0x10 ≠ okey (pix q) b := by
    intro b hb
    simp only [okey, pix]
    omega
  have hidle' : (m.setRecState q st).objBit (pix q) 2 0 = false := (Mach.objBit_of_obj m (Mach.obj_setField_other m (hkey 2 (by decide)) ..) 0).trans hidle
  have hleft : m' = (m.setRecState q st).setBit (pix q) 2 6 false := Mach.endSave_idle _ hidle'
  rw [hleft]
  constructor
  · exact (Mach.field_setField_other _ (hkey 2 (by decide)).symm ..).trans
      ((Mach.field_setField_same m _ _ _ _ _ (by decide)).trans (Nat.mod_eq_of_lt hst))
  · have hobj : ∀ b, b = 3 ∨ b = 4 → ((m.setRecState q st).setBit (pix q) 2 6 false).obj (pix q) b = m.obj (pix q) b := by
      intro b hb
      exact (Mach.obj_setField_other _ (fun he => by have := (okey_right ..).mp he; omega) ..).trans (Mach.obj_setField_other m (hkey b (by omega)) ..)
    have hclusters : ((m.setRecState q st).setBit (pix q) 2 6 false).clusters q = m.clusters q := congrArg (bitsOf 128) (hobj 3 (.inl rfl))
    have hstacks : ((m.setRecState q st).setBit (pix q) 2 6 false).stacks q = m.stacks q := congrArg (bitsOf 48) (hobj 4 (.inr rfl))
    rw [Mach.hasLost, hclusters, hstacks]
    rfl

end

/-- A hardware fault: logged, counted, and the partition of the unit READY or in REFORM. -/
theorem hardwareFaults {s : State} (hrun : s.mach.phase = .running) (c : HwCause) (code : Nat) (hon : s.mach.supLost.length < 2) :
    ∃ m, Gives (.hardwareFault c code) s m ∧
      (∀ x, x < 2 → s.mach.alive x = true → s.mach.recoveryRecord c code ((s.mach.holder c).getD 0xFF) ∈ (m.flash.store x).log) ∧
      m.obj 0x7000 3 = min (s.mach.obj 0x7000 3 + 1) (2 ^ 32 - 1) ∧
      ∀ p, s.mach.holder c = some p → s.mach.objBit (pix p) 2 0 = false →
        m.recState p = if m.hasLost p || decide (s.mach.recState p = 4) then 4 else 3 := by
  have hg := gives_step (.hardwareFault c code) s (fun m => doHardwareFault m c code) rfl hrun
  rw [doHardwareFault_eq s.mach c code hon] at hg
  have hstopped := Winds.recoveryStopped s.mach (s.mach.holder c) code
  generalize s.mach.recoveryStopped (s.mach.holder c) code = a at hg hstopped
  obtain ⟨hlog, hcount, hbusy⟩ := a.faultLogged_spec (s.mach.recoveryRecord c code ((s.mach.holder c).getD 0xFF))
    (code % 256 + 256 * ((s.mach.holder c).getD 0xFF % 256))
  generalize a.faultLogged _ _ = b at hg hlog hcount hbusy
  have htested := RecoveryKept.testUnit b c code
  generalize b.testUnit c code = t at hg htested
  have halive : ∀ x, a.alive x = s.mach.alive x := fun x => by rw [Mach.alive, hstopped.lost, Mach.alive]
  have hspec : ∀ m, LogsKept t m →
      (∀ x, x < 2 → s.mach.alive x = true → s.mach.recoveryRecord c code ((s.mach.holder c).getD 0xFF) ∈ (m.flash.store x).log) ∧
      m.obj 0x7000 3 = min (s.mach.obj 0x7000 3 + 1) (2 ^ 32 - 1) := by
    intro m hm
    refine ⟨fun x hx hx' => ?_, ?_⟩
    · rw [hm.1, htested.log]
      exact hlog x hx ((halive x).trans hx')
    · rw [hm.2, htested.count, hcount, hstopped.count]
  cases hholder : s.mach.holder c with
  | none =>
    rw [hholder] at hg hspec
    obtain ⟨hlogs, hcounted⟩ := hspec t ⟨fun _ => rfl, rfl⟩
    exact ⟨t, hg, hlogs, hcounted, nofun⟩
  | some q =>
    have hq := s.mach.holder_lt hholder
    rw [hholder] at hg hspec
    have hstate : LogsKept t (t.setRecState q (if t.hasLost q || decide (s.mach.recState q = 4) then 4 else 3)) :=
      (RecoveryKept.setObj t (quietKey_of (by omega) (by decide) (.inr (by decide))) _).logsKept
    obtain ⟨hlogs, hcounted⟩ := hspec _ (LogsKept.trans hstate (LogsKept.endSave _ hq))
    refine ⟨_, hg, hlogs, hcounted, fun p hp hidle => ?_⟩
    obtain rfl : q = p := Option.some.inj hp
    have hidle' : t.objBit (pix q) 2 0 = false := (htested.busy q hq).trans ((hbusy q hq).trans ((hstopped.busy q hq).trans hidle))
    obtain ⟨hrec, hlost⟩ := t.recState_left (st := if t.hasLost q || decide (s.mach.recState q = 4) then 4 else 3) (by split <;> decide) hidle'
    rw [hrec, hlost]

/-! ## Bridges and supervisors -/

section
variable (m : Mach)

/-- An entry of the repair map that is entered is there, where the map has room. -/
theorem Store.exists_mem_enter (x : Store) (e : RepEntry) (h : x.repair.length < 1024) :
    ∃ y ∈ (x.enter e).repair, y.level = e.level ∧ y.die = e.die ∧ y.clus = e.clus ∧ y.unit = e.unit := by
  unfold Store.enter
  split
  · next hany =>
    obtain ⟨y, hy, hsame⟩ := List.any_eq_true.mp hany
    refine ⟨y, hy, ?_⟩
    simpa [and_assoc] using hsame
  · refine ⟨e, ?_, rfl, rfl, rfl, rfl⟩
    have hall : (x.repair ++ [e]).take 1024 = x.repair ++ [e] := List.take_of_length_le (by rw [List.length_append, List.length_singleton]; omega)
    show e ∈ (x.repair ++ [e]).take 1024
    rw [hall]
    exact List.mem_append_right _ (List.mem_singleton.mpr rfl)

theorem Mach.replacement_kept (reason : Nat) : (m.replacement reason).flash = m.flash ∧ (m.replacement reason).mem = m.mem ∧
    (m.replacement reason).jobs = m.jobs ∧ (m.replacement reason).cores = m.cores ∧ (m.replacement reason).supLost = m.supLost ∧
    (m.replacement reason).active = m.active := by
  obtain ⟨⟨a, hobjs, halarms⟩, -⟩ := m.replacement_leaves reason
  unfold ObjsOnly at hobjs
  rw [halarms.fields, hobjs]
  exact ⟨rfl, rfl, rfl, rfl, rfl, rfl⟩

theorem Mach.replacement_usdo (reason : Nat) : (m.replacement reason).can.usdo = m.can.usdo := by
  unfold Mach.replacement
  extract_lets shown
  have hshown : shown.can = m.can := rfl
  clear_value shown
  split
  · rfl
  · split
    · rw [Mach.health_can, hshown]
    · rw [(shown.emcySet_can .replacement 0).1, hshown]

/-- The replacement request leaves the other objects of 7000h. -/
theorem Mach.obj_replacement (reason : Nat) {b : Nat} (hb : b < 256) (h1 : b ≠ 1) (h2 : b ≠ 2) : (m.replacement reason).obj 0x7000 b = m.obj 0x7000 b := by
  refine (m.replacement_leaves reason).2 _ _ ?_
  simp only [emcyKeys, okey, List.mem_cons, List.mem_append, List.not_mem_nil, or_false, List.mem_map, List.mem_range]
  rintro (h | h | h | (h | h | h) | ⟨n, hn, h⟩) <;> omega

/-- A bridge that has failed: logged, told, counted and in the repair map, before the replacement request. -/
def Mach.bridgeLost (b : Nat) : Mach := (m.faultLogged (m.unitRecord 0 0xFF 0xFFFF none) 0xFF00).repair 3 0 0 b 0

theorem doBridgeFailure_eq {b : Nat} (hb : b < 10) (hon : m.supLost.length < 2) : doBridgeFailure m b = (m.bridgeLost b).replacement 5 := by
  have hgo : ¬ ((decide (b ≥ 10) || decide (m.supLost.length ≥ 2)) = true) := by
    simp
    omega
  exact if_neg hgo

/-- What a fault that is logged changes: the flash, the count and the alarms. -/
theorem Mach.faultLogged_fields (record : List Byte) (detail : Nat) : m.faultLogged record detail = { m with
    flash := (m.logFault record).flash
    objs := (m.faultLogged record detail).objs
    can := (m.faultLogged record detail).can
    outbox := (m.faultLogged record detail).outbox
    hosts := (m.faultLogged record detail).hosts } := by
  have hfields := (AlarmsOnly.emcySet (m.logFault record) .hw detail).fields
  have hlog : m.logFault record = { m with flash := (m.logFault record).flash } := Mach.eachStore_only ..
  unfold Mach.faultLogged
  generalize (m.logFault record).emcySet .hw detail = a at *
  generalize m.logFault record = l at *
  rw [hfields, hlog]
  rfl

theorem Mach.bridgeLost_fields (b : Nat) : m.bridgeLost b = { m with
    flash := (m.bridgeLost b).flash
    objs := (m.bridgeLost b).objs
    can := (m.bridgeLost b).can
    outbox := (m.bridgeLost b).outbox
    hosts := (m.bridgeLost b).hosts } := by
  have hfields := m.faultLogged_fields (m.unitRecord 0 0xFF 0xFFFF none) 0xFF00
  unfold Mach.bridgeLost
  generalize m.faultLogged (m.unitRecord 0 0xFF 0xFFFF none) 0xFF00 = a at *
  rw [Mach.repair, Mach.eachStore_only, hfields]

/-- The store of a supervisor after a bridge has failed. -/
theorem Mach.store_bridgeLost (b x : Nat) : (m.bridgeLost b).flash.store x = if x < 2 ∧ m.alive x = true then
    Store.enter { m.flash.store x with
      log := (m.unitRecord 0 0xFF 0xFFFF none :: (m.flash.store x).log).take 256
      logged := min ((m.flash.store x).logged + 1) (2 ^ 32 - 1) } ⟨3, 0, 0, b, (m.flash.store x).castOns, 0⟩
    else m.flash.store x := by
  have hfields := m.faultLogged_fields (m.unitRecord 0 0xFF 0xFFFF none) 0xFF00
  unfold Mach.bridgeLost
  generalize m.faultLogged (m.unitRecord 0 0xFF 0xFFFF none) 0xFF00 = a at *
  have hflash : a.flash = (m.logFault (m.unitRecord 0 0xFF 0xFFFF none)).flash := by rw [hfields]
  have halive : a.alive x = m.alive x := by
    rw [hfields]
    rfl
  rw [Mach.repair, Mach.store_eachStore, halive, hflash, Mach.logFault, Mach.store_eachStore]
  split
  · rfl
  · rfl

end

end Sys2Proof.Machine
end

section
/-! SUPPORT. Proofs: bridges and supervisors lost (R27, R33, R503, R505, R506). -/

namespace Sys2Proof.Machine

section
variable {s : State} (hrun : s.mach.phase = .running)
include hrun

/-- A bridge that fails: logged and in the repair map of every supervisor that lives, counted, and a replacement asked for. -/
theorem bridgeFailures {b : Nat} (hb : b < 10) (hon : s.mach.supLost.length < 2) :
    ∃ m, Gives (.bridgeFailure b) s m ∧ m.objBit 0x7000 2 5 = true ∧
      (∀ x, x < 2 → s.mach.alive x = true →
        (m.flash.store x).log = (s.mach.unitRecord 0 0xFF 0xFFFF none :: (s.mach.flash.store x).log).take 256 ∧
        ((s.mach.flash.store x).repair.length < 1024 →
          ∃ e ∈ (m.flash.store x).repair, e.level = 3 ∧ e.die = 0 ∧ e.clus = 0 ∧ e.unit = b)) ∧
      (∀ x, x < 2 → s.mach.alive x = false → m.flash.store x = s.mach.flash.store x) ∧
      m.obj 0x7000 3 = min (s.mach.obj 0x7000 3 + 1) (2 ^ 32 - 1) ∧ m.mem = s.mach.mem ∧ m.jobs = s.mach.jobs ∧ m.cores = s.mach.cores := by
  have hg : Gives (.bridgeFailure b) s (doBridgeFailure s.mach b) := gives_step (.bridgeFailure b) s (fun m => doBridgeFailure m b) rfl hrun
  rw [doBridgeFailure_eq s.mach hb hon] at hg
  have hstore := fun x => s.mach.store_bridgeLost b x
  have hfields := s.mach.bridgeLost_fields b
  have hcount : (s.mach.bridgeLost b).obj 0x7000 3 = min (s.mach.obj 0x7000 3 + 1) (2 ^ 32 - 1) :=
    (RecoveryKept.repair ..).count.trans (s.mach.faultLogged_spec _ _).2.1
  generalize s.mach.bridgeLost b = l at hg hstore hfields hcount
  obtain ⟨hflash, hmem, hjobs, hcores, -, -⟩ := l.replacement_kept 5
  refine ⟨l.replacement 5, hg, (l.replacement_effect 5).1, fun x hx halive => ?_, fun x _ hdead => ?_, ?_, ?_, ?_, ?_⟩
  · rw [hflash, hstore, if_pos ⟨hx, halive⟩]
    exact ⟨Store.enter_log .., fun hroom => Store.exists_mem_enter _ _ hroom⟩
  · rw [hflash, hstore, if_neg (by simp [hdead])]
  · rw [l.obj_replacement 5 (by decide) (by decide) (by decide), hcount]
  · rw [hmem, hfields]
  · rw [hjobs, hfields]
  · rw [hcores, hfields]

/-- A heartbeat of a supervisor that lives is noted. -/
theorem heartbeats {x : Nat} (hx : x < 2) (halive : s.mach.alive x = true) :
    Gives (.supervisorHeartbeat x) s { s.mach with beats := s.mach.beats.put x s.mach.rc } := by
  have hg : Gives (.supervisorHeartbeat x) s (doBeat s.mach x) := gives_step (.supervisorHeartbeat x) s (fun m => doBeat m x) rfl hrun
  rwa [doBeat, if_pos (by simp [hx, halive])] at hg

omit hrun in
/-- A supervisor lost is another one's loss alone. -/
theorem Mach.alive_lost_other (m : Mach) {x y : Nat} (h : x ≠ y) : ({ m with supLost := m.supLost ++ [y] } : Mach).alive x = m.alive x := by
  simp [Mach.alive, h]

omit hrun in
/-- The module after the standby has taken over and a replacement is asked for. -/
theorem Mach.takenOver_spec (m : Mach) : let m' := ((m.emcySet .supLost m.active).handRole).replacement 4
    m'.supLost = m.supLost ∧ m'.jobs = m.jobs ∧ m'.mem = m.mem ∧ m'.cores = m.cores ∧ m'.active = 1 - m.active ∧ m'.can.usdo = none ∧
    m'.obj 0x7000 4 = min (m.obj 0x7000 4 + 1) (2 ^ 32 - 1) ∧ m'.objBit 0x7000 2 4 = true := by
  have halarm : AlarmsOnly m (m.emcySet .supLost m.active) := AlarmsOnly.emcySet ..
  have htold := halarm.fields
  have hcount : (m.emcySet .supLost m.active).obj 0x7000 4 = m.obj 0x7000 4 := halarm.obj (by decide)
  generalize m.emcySet .supLost m.active = t at *
  have hhanded := t.handRole_effect
  have hfields := hhanded.fields
  generalize t.handRole = h at *
  obtain ⟨-, hmem, hjobs, hcores, hlost, hactive⟩ := h.replacement_kept 4
  intro m'
  refine ⟨?_, ?_, ?_, ?_, ?_, (h.replacement_usdo 4).trans hhanded.usdo, ?_, (h.replacement_effect 4).1⟩
  · rw [hlost, hfields, htold]
  · rw [hjobs, hfields, htold]
  · rw [hmem, hfields, htold]
  · rw [hcores, hfields, htold]
  · rw [hactive, hfields, htold]
  · rw [h.obj_replacement 4 (by decide) (by decide) (by decide), hhanded.counted, hcount]

/-- The standby takes over from an active supervisor whose heartbeats are missing; jobs go on. -/
theorem takeovers (halive : s.mach.alive s.mach.active = true) (hmissing : s.mach.beats.get 0 s.mach.active + 500000 ≤ s.mach.rc) :
    ∃ m, Gives .takeover s m ∧ m.supLost = s.mach.supLost ++ [s.mach.active] ∧ m.jobs = s.mach.jobs ∧ m.mem = s.mach.mem ∧
      m.cores = s.mach.cores ∧
      (s.mach.active < 2 → s.mach.alive (1 - s.mach.active) = true → m.active = 1 - s.mach.active ∧ m.can.usdo = none ∧
        m.obj 0x7000 4 = min (s.mach.obj 0x7000 4 + 1) (2 ^ 32 - 1) ∧ m.objBit 0x7000 2 4 = true) := by
  have hg : Gives .takeover s (doTakeover s.mach) := gives_step .takeover s doTakeover rfl hrun
  have hsilent : s.mach.silent s.mach.active = true := by simp [Mach.silent, halive, hmissing]
  have hother : s.mach.active < 2 → ({ s.mach with supLost := s.mach.supLost ++ [s.mach.active] } : Mach).alive (1 - s.mach.active) =
      s.mach.alive (1 - s.mach.active) := fun hlt => s.mach.alive_lost_other (by omega)
  refine ⟨_, hg, ?_⟩
  unfold doTakeover
  rw [if_neg (by simp [hsilent])]
  dsimp only
  split
  · next hboth =>
    refine ⟨rfl, rfl, rfl, rfl, fun hlt hstandby => ?_⟩
    rw [hother hlt, hstandby] at hboth
    cases hboth
  · obtain ⟨hlost, hjobs, hmem, hcores, hactive, husdo, hcount, hreason⟩ :=
      ({ s.mach with supLost := s.mach.supLost ++ [s.mach.active] } : Mach).takenOver_spec
    exact ⟨hlost, hjobs, hmem, hcores, fun _ _ => ⟨hactive, husdo, hcount, hreason⟩⟩

/-- The heartbeats of the active supervisor are not missing. -/
theorem takeovers_early (h : s.mach.rc < s.mach.beats.get 0 s.mach.active + 500000) : Gives .takeover s s.mach := by
  have hg : Gives .takeover s (doTakeover s.mach) := gives_step .takeover s doTakeover rfl hrun
  have hsilent : s.mach.silent s.mach.active = false := by simp [Mach.silent, Nat.not_le.mpr h]
  rwa [doTakeover, if_pos (by simp [hsilent])] at hg

/-- The standby is lost; jobs go on. -/
theorem standbyLosses (hactive : s.mach.alive s.mach.active = true) (hstandby : s.mach.alive (1 - s.mach.active) = true)
    (hmissing : s.mach.beats.get 0 (1 - s.mach.active) + 500000 ≤ s.mach.rc) :
    ∃ m, Gives .supervisorLost s m ∧ m.supLost = s.mach.supLost ++ [1 - s.mach.active] ∧ m.active = s.mach.active ∧
      m.objBit 0x7000 2 4 = true ∧ m.jobs = s.mach.jobs ∧ m.mem = s.mach.mem := by
  have hg : Gives .supervisorLost s (doSupervisorLost s.mach) := gives_step .supervisorLost s doSupervisorLost rfl hrun
  have hsilent : s.mach.silent (1 - s.mach.active) = true := by simp [Mach.silent, hstandby, hmissing]
  rw [doSupervisorLost] at hg
  rw [if_neg (by simp [hactive, hsilent])] at hg
  have htold := (AlarmsOnly.emcySet { s.mach with supLost := s.mach.supLost ++ [1 - s.mach.active] } .supLost (1 - s.mach.active)).fields
  generalize Mach.emcySet { s.mach with supLost := s.mach.supLost ++ [1 - s.mach.active] } .supLost (1 - s.mach.active) = t at hg htold
  obtain ⟨-, hmem, hjobs, -, hlost, hrole⟩ := t.replacement_kept 4
  refine ⟨_, hg, ?_, ?_, (t.replacement_effect 4).1, ?_, ?_⟩
  · rw [hlost, htold]
  · rw [hrole, htold]
  · rw [hjobs, htold]
  · rw [hmem, htold]

end

/-- Settles O41: a fault is logged and counted before the recovery state is left, and a takeover leaves jobs and memory. -/
theorem hardwareRecovery : Obligations.HardwareRecovery := by
  unfold Obligations.HardwareRecovery
  refine ⟨fun s c code hrun => ⟨fun hoff => ?_, hardwareFaults hrun c code⟩, fun s b hrun hb hon => bridgeFailures hrun hb hon, fun s hrun => ?_⟩
  · have hg := gives_step (.hardwareFault c code) s (fun m => doHardwareFault m c code) rfl hrun
    rwa [doHardwareFault, if_pos hoff] at hg
  · exact ⟨fun _ hx halive => heartbeats hrun hx halive, takeovers hrun, takeovers_early hrun, standbyLosses hrun⟩

end Sys2Proof.Machine
end

section
/-! SUPPORT. Proofs: a partition formed or dissolved by its command (R386, R387, R389). -/

namespace Sys2Proof.Machine

/-! ## The command object -/

section
variable {s : State} {p v op : Nat} {c : Instr} {f : Mach → Mach}

/-- What a write that names the command `op` meets (R386). -/
theorem Mach.partCommand_eq {m : Mach} (hp : p < 64) (hon : m.online = true) (hop : fld v 19 16 = op) : m.partCommand p v op f =
    if decide (v / 2 ^ 20 ≠ 0) || decide (v % 2 ^ 16 ≠ 0) then m.reply abortRange
    else if m.objBit (pix p) 2 0 then m.reply abortState
    else f (m.reply 0) := if_neg (by simp [Nat.not_le.mpr hp, hon, hop])

section
variable (hexec : exec c s = s.step (fun m => m.partCommand p v op f)) (hrun : s.mach.phase = .running) (hp : p < 64) (hon : s.mach.online = true)
  (hop : fld v 19 16 = op)
include hexec hrun hp hon hop

/-- Reserved bits refuse the write. -/
theorem gives_partCommand_reserved (hbad : v / 2 ^ 20 ≠ 0 ∨ v % 2 ^ 16 ≠ 0) : Gives c s (s.mach.reply abortRange) := by
  have hg := gives_step c s _ hexec hrun
  rwa [Mach.partCommand_eq hp hon hop, if_pos ((Bool.or_eq_true ..).mpr (hbad.imp (decide_eq_true ·) (decide_eq_true ·)))] at hg

variable (hhigh : v / 2 ^ 20 = 0) (hlow : v % 2 ^ 16 = 0)
include hhigh hlow

/-- A command under way refuses the write. -/
theorem gives_partCommand_busy (hbusy : s.mach.objBit (pix p) 2 0 = true) : Gives c s (s.mach.reply abortState) := by
  have hg := gives_step c s _ hexec hrun
  rwa [Mach.partCommand_eq hp hon hop, if_neg (by rw [hhigh, hlow]; decide), if_pos hbusy] at hg

/-- A command that has its form reaches an idle command object. -/
theorem gives_partCommand (hidle : s.mach.objBit (pix p) 2 0 = false) : Gives c s (f (s.mach.reply 0)) := by
  have hg := gives_step c s _ hexec hrun
  rwa [Mach.partCommand_eq hp hon hop, if_neg (by rw [hhigh, hlow]; decide), if_neg (by simp [hidle])] at hg

end

end

section
variable (m : Mach)

/-- A refused command: ERROR and its reason, the state as it was, and only the state object written (R386). -/
theorem Mach.refusePart_spec (p : Nat) (reason : Nat) : ObjsOnly m (m.refusePart p reason) ∧ SameObjs [okey (pix p) 2] m (m.refusePart p reason) ∧
    (m.refusePart p reason).pstate p = m.pstate p ∧ (m.refusePart p reason).field (pix p) 2 2 0 = 4 ∧
    (m.refusePart p reason).field (pix p) 2 23 16 = reason % 256 := by
  refine ⟨ObjsOnly.trans (ObjsOnly.setField ..) (ObjsOnly.setField ..),
    SameObjs.trans (SameObjs.setField _ _ _ _ _ _ (by simp)) (SameObjs.setField _ _ _ _ _ _ (by simp)),
    ?_, ?_, ?_⟩
  · rw [Mach.pstate, Mach.refusePart, Mach.field_setField_apart _ _ _ _ _ _ _ _ (by decide) (.inr (by decide)), Mach.cmdDone,
      Mach.field_setField_apart _ _ _ _ _ _ _ _ (by decide) (.inl (by decide)), Mach.pstate]
  · rw [Mach.refusePart, Mach.field_setField_apart _ _ _ _ _ _ _ _ (by decide) (.inr (by decide)), Mach.cmdDone,
      Mach.field_setField_same _ _ _ _ _ _ (by decide)]
    rfl
  · exact Mach.field_setField_same _ _ _ _ _ _ (by decide)

/-! ## DISSOLVE -/

/-- Jobs that are over stay over as others are wound down. -/
theorem JobsWind.over {m m' : Mach} (h : JobsWind m m') {j : Job} (hover : ∀ k ∈ m.jobs, k.same j = true → stOver k.st = true) :
    ∀ k ∈ m'.jobs, k.same j = true → stOver k.st = true := by
  intro k' hk' hsame
  obtain ⟨k, hk, -, hclient, hseq, hst⟩ := h k' hk'
  have hkept : k.same j = true := by
    unfold Job.same at hsame ⊢
    rwa [← hclient, ← hseq]
  rcases hst with hst | hst
  · rw [hst]
    exact hover k hk hkept
  · exact hst

/-- Steps that each end the job they are given leave every one of the list over. -/
theorem Winds.foldl_over {f : Mach → Job → Mach} (hwinds : ∀ a j, Winds a (f a j))
    (hends : ∀ a j, ∀ k ∈ (f a j).jobs, k.same j = true → stOver k.st = true) (l : List Job) (m : Mach) :
    ∀ j ∈ l, ∀ k ∈ (l.foldl f m).jobs, k.same j = true → stOver k.st = true := by
  induction l generalizing m with
  | nil => exact nofun
  | cons x l ih =>
    intro j hj
    rcases List.mem_cons.mp hj with rfl | hj
    · exact (Winds.foldl (fun a y _ => hwinds a y) (f m j)).jobs.over (hends m j)
    · exact ih (f m x) j hj

theorem Mach.endJob_over (j : Job) (st d : Nat) : ∀ k ∈ (m.endJob j st d).jobs, k.same j = true → stOver k.st = true := by
  intro k hk hsame
  obtain ⟨q, hq⟩ := m.jobs_endJob j st d k hk hsame
  rw [hq]
  rfl

/-- A job that is ready, waits on a fence or is saved. -/
def stIdle (j : Job) : Bool := decide (j.st = .queued) || decide (j.st = .fenced) || j.isSaved

theorem stIdle_of_over {j : Job} (h : stOver j.st = true) : stIdle j = false := by
  cases hst : j.st <;> simp_all [stOver, stIdle, Job.isSaved]

theorem stOver_of_done {j : Job} (h : j.isDone = true) : stOver j.st = true := by
  cases hst : j.st <;> simp_all [stOver, Job.isDone]

/-- Where every job of a partition that was idle before is over, no job of it is idle. -/
theorem JobsWind.none_idle {m m' : Mach} (h : JobsWind m m') {p : Nat}
    (hover : ∀ j ∈ m.jobs, j.part = p → stIdle j = true → ∀ k ∈ m'.jobs, k.same j = true → stOver k.st = true) :
    ∀ k ∈ m'.jobs, k.part = p → stIdle k = false := by
  intro k' hk' hpart'
  obtain ⟨k, hk, hpart, hclient, hseq, hst⟩ := h k' hk'
  rcases hst with hst | hst
  · by_contra hidle
    have hkidle : stIdle k = true := by
      unfold stIdle Job.isSaved at hidle ⊢
      rw [← hst]
      exact (Bool.not_eq_false _).mp hidle
    have hsame : k'.same k = true := by simp [Job.same, hclient, hseq]
    exact hidle (stIdle_of_over (hover k hk (hpart.symm.trans hpart') hkidle k' hk' hsame))
  · exact stIdle_of_over hst

/-- Once the jobs of a partition have come to their end, none of it is ready, fenced or saved (R389). -/
theorem Mach.endJobs_none_idle {p : Nat} (hp : p < 64) : ∀ k ∈ (m.endJobs p).jobs, k.part = p → stIdle k = false := by
  refine (Winds.endJobs m hp).jobs.none_idle fun j hj hpart hidle => ?_
  have hopen : j.isDone = false := by
    by_contra hdone
    rw [stIdle_of_over (stOver_of_done ((Bool.not_eq_false _).mp hdone))] at hidle
    cases hidle
  unfold Mach.endJobs
  extract_lets js ended lists resident saved guests
  have hjs : j ∈ js := List.mem_filter.mpr ⟨hj, by simp [hpart, hopen]⟩
  clear_value js
  have hended : ∀ x ∈ js.filter (fun j => decide (j.st = .queued) || decide (j.st = .fenced)), ∀ k ∈ ended.jobs, k.same x = true → stOver k.st = true :=
    Winds.foldl_over (fun a x => Winds.endJob a x 2 0) (fun a x => a.endJob_over x 2 0) _ m
  have hlists : Winds ended lists := Winds.foldl (fun a j _ => Winds.stopList a j 3) ended
  have hresident : Winds lists resident := by
    unfold resident
    split
    · exact Winds.endStopped ..
    · exact Winds.refl lists
  have hdrop : ∀ a x, Winds a ((a.dropSave x).endRun x 3 0) := fun a x => Winds.trans (Winds.dropSave a x) (Winds.endRun ..)
  have hsaved : Winds resident saved := Winds.foldl (fun a j _ => hdrop a j) resident
  have hgone : ∀ x ∈ js.filter Job.isSaved, ∀ k ∈ saved.jobs, k.same x = true → stOver k.st = true :=
    Winds.foldl_over hdrop (fun a x => Mach.endJob_over _ x 3 0) _ resident
  have hguests : Winds saved guests := by
    unfold guests
    split
    · refine Winds.trans (Winds.trans ?_ (Winds.endDma _ p true)) (Winds.endJob ..)
      split
      · exact Winds.stopJob ..
      · exact Winds.refl saved
    · exact Winds.refl saved
  have hlast : Winds guests (guests.setBit (pix p) 2 6 false) := Winds.setStateBit guests p (by decide) false hp
  rcases Bool.or_eq_true .. |>.mp hidle with hwaits | hsave
  · exact (Winds.trans (Winds.trans (Winds.trans (Winds.trans hlists hresident) hsaved) hguests) hlast).jobs.over
      (hended j (List.mem_filter.mpr ⟨hjs, hwaits⟩))
  · exact (Winds.trans hguests hlast).jobs.over (hgone j (List.mem_filter.mpr ⟨hjs, hsave⟩))

/-- A partition that is dissolved is free, and nothing of it is left (R389). -/
theorem Mach.dissolve_spec {p : Nat} (hp : p < 64) : (m.dissolve p).pstate p = 0 ∧ (m.dissolve p).field (pix p) 2 2 0 = 2 ∧
    (m.dissolve p).part p = Part.empty ∧ ∀ k ∈ (m.dissolve p).jobs, k.part = p → stIdle k = false := by
  rw [Mach.dissolve_eq]
  have hpart : (m.dissolving p).part p = Part.empty := Mach.part_setPart_same ..
  have hjobs : ∀ k ∈ (m.dissolving p).jobs, k.part = p → stIdle k = false := by
    unfold Mach.dissolving
    have hrest := Winds.trans (Winds.trans (Winds.trans (Winds.trans (Winds.trans (Winds.unloadGuest (m.endJobs p) hp) (Winds.unloadResident _ hp))
      (Winds.closeStreams _ p)) (Winds.forget _ (p := p))) (Winds.powerClusters _ (p := p) false)) (Winds.setPart _ (p := p) Part.empty)
    refine hrest.jobs.none_idle fun j hj hjpart hidle => ?_
    rw [m.endJobs_none_idle hp j hj hjpart] at hidle
    cases hidle
  generalize m.dissolving p = d at hpart hjobs
  refine ⟨?_, Mach.field_setField_same _ _ _ _ _ _ (by decide), hpart, hjobs⟩
  rw [Mach.pstate, Mach.field_setField_apart _ _ _ _ _ _ _ _ (by decide) (.inl (by decide)), Mach.field, Mach.setField, Mach.obj_setObj_same]
  refine (fld_eq_of_testBit (w' := 0) fun i _ hi => ?_).trans rfl
  rw [testBit_setFld _ _ _ _ _ (by decide), if_pos (by omega), Nat.zero_testBit, Nat.zero_testBit]

end

/-- DISSOLVE: refused before the formation, deferred during a save, and else carried out (R389, R413). -/
theorem dissolves {s : State} {p : Nat} (hrun : s.mach.phase = .running) (hp : p < 64) (hon : s.mach.online = true)
    (hidle : s.mach.objBit (pix p) 2 0 = false) :
    (s.mach.pstate p ≠ 2 → ∃ m, Gives (.dissolve p 0x20000) s m ∧ SameObjs [okey (pix p) 2] s.mach m ∧ m.field (pix p) 2 2 0 = 4 ∧
      m.field (pix p) 2 23 16 = 6 ∧ m.pstate p = s.mach.pstate p ∧ m = { s.mach with
        answer := ⟨0, []⟩
        objs := m.objs }) ∧
    (s.mach.pstate p = 2 → s.mach.saving p = false → ∃ m, Gives (.dissolve p 0x20000) s m ∧ m.pstate p = 0 ∧ m.field (pix p) 2 2 0 = 2 ∧
      (m.part p).resident = none ∧ (m.part p).guest = none ∧ (m.part p).saves = [] ∧
      (∀ k ∈ m.jobs, k.part = p → k.st ≠ .queued ∧ k.st ≠ .fenced ∧ k.isSaved = false)) ∧
    (s.mach.pstate p = 2 → s.mach.saving p = true → ∃ m, Gives (.dissolve p 0x20000) s m ∧ m.field (pix p) 2 2 0 = 1 ∧ m.pstate p = 2 ∧
      m.jobs = s.mach.jobs ∧ m.parts = s.mach.parts) := by
  have hg : Gives (.dissolve p 0x20000) s (doDissolve p (s.mach.reply 0)) :=
    gives_partCommand rfl hrun hp hon (by decide) (by decide) (by decide) hidle
  have hstate : (s.mach.reply 0).pstate p = s.mach.pstate p := rfl
  have hsaving : (s.mach.reply 0).saving p = s.mach.saving p := rfl
  rw [doDissolve, hstate, hsaving] at hg
  refine ⟨fun hno => ?_, fun hst hnot => ?_, fun hst hsave => ?_⟩
  · rw [if_pos hno] at hg
    obtain ⟨honly, hobjs, hkept, herror, hreason⟩ := (s.mach.reply 0).refusePart_spec p 6
    exact ⟨_, hg, hobjs, herror, hreason, hkept, honly⟩
  · rw [if_neg (not_not.mpr hst), if_neg (by simp [hnot])] at hg
    obtain ⟨hfree, hdone, hpart, hjobs⟩ := (s.mach.reply 0).dissolve_spec hp
    refine ⟨_, hg, hfree, hdone, by rw [hpart]; rfl, by rw [hpart]; rfl, by rw [hpart]; rfl, fun k hk hkpart => ?_⟩
    simpa [stIdle, and_assoc] using hjobs k hk hkpart
  · rw [if_neg (not_not.mpr hst), if_pos hsave] at hg
    refine ⟨_, hg, Mach.field_setField_same _ _ _ _ _ _ (by decide), ?_, rfl, rfl⟩
    exact (Mach.field_setField_apart _ _ _ _ _ _ _ _ (by decide) (.inl (by decide))).trans hst

/-! ## FORM -/

/-- FORM: refused by its form, by a command under way, in TEST mode or for a reason of Table 14-1; else the partition forms (R386, R387). -/
theorem forms {s : State} {p v : Nat} (hrun : s.mach.phase = .running) (hp : p < 64) (hon : s.mach.online = true) (hop : fld v 19 16 = 1) :
    (v / 2 ^ 20 ≠ 0 ∨ v % 2 ^ 16 ≠ 0 → Gives (.form p v) s { s.mach with answer := ⟨0x06090030, []⟩ }) ∧
    (v / 2 ^ 20 = 0 → v % 2 ^ 16 = 0 → s.mach.objBit (pix p) 2 0 = true → Gives (.form p v) s { s.mach with answer := ⟨0x08000022, []⟩ }) ∧
    (v / 2 ^ 20 = 0 → v % 2 ^ 16 = 0 → s.mach.objBit (pix p) 2 0 = false → s.mach.testMode = true →
      Gives (.form p v) s { s.mach with answer := ⟨0x08000022, []⟩ }) ∧
    (v / 2 ^ 20 = 0 → v % 2 ^ 16 = 0 → s.mach.objBit (pix p) 2 0 = false → s.mach.testMode = false → ∃ m, Gives (.form p v) s m ∧
      m = { s.mach with
        answer := ⟨0, []⟩
        objs := m.objs } ∧ SameObjs [okey (pix p) 2] s.mach m ∧
      (s.mach.formReason p = 0 → m.pstate p = 1 ∧ m.field (pix p) 2 2 0 = 1) ∧
      (s.mach.formReason p ≠ 0 → m.pstate p = s.mach.pstate p ∧ m.field (pix p) 2 2 0 = 4 ∧ m.field (pix p) 2 23 16 = s.mach.formReason p % 256)) := by
  refine ⟨gives_partCommand_reserved rfl hrun hp hon hop, gives_partCommand_busy rfl hrun hp hon hop, fun hhigh hlow hidle htest => ?_,
    fun hhigh hlow hidle htest => ?_⟩
  all_goals have hg : Gives (.form p v) s (doForm p (s.mach.reply 0)) := gives_partCommand rfl hrun hp hon hop hhigh hlow hidle
  · have htest' : (s.mach.reply 0).testMode = true := htest
    rwa [doForm, if_pos htest'] at hg
  · have htest' : ¬ (s.mach.reply 0).testMode = true := fun h => by
      rw [show (s.mach.reply 0).testMode = s.mach.testMode from rfl, htest] at h
      cases h
    have hreason : (s.mach.reply 0).formReason p = s.mach.formReason p := rfl
    rw [doForm, if_neg htest', hreason] at hg
    dsimp only at hg
    by_cases hok : s.mach.formReason p = 0
    · rw [if_neg (not_not.mpr hok)] at hg
      refine ⟨_, hg, rfl, SameObjs.trans (SameObjs.setField (s.mach.reply 0) _ _ _ _ _ (by simp)) (SameObjs.setField _ _ _ _ _ _ (by simp)),
        fun _ => ⟨Mach.field_setField_same _ _ _ _ _ _ (by decide), ?_⟩, fun h => absurd hok h⟩
      exact (Mach.field_setField_apart _ _ _ _ _ _ _ _ (by decide) (.inr (by decide))).trans (Mach.field_setField_same _ _ _ _ _ _ (by decide))
    · rw [if_pos hok] at hg
      obtain ⟨honly, hobjs, hkept, herror, hshown⟩ := (s.mach.reply 0).refusePart_spec p (s.mach.formReason p)
      exact ⟨_, hg, honly, hobjs, fun h => absurd h hok, fun _ => ⟨hkept, herror, hshown⟩⟩

end Sys2Proof.Machine
end

section
/-! SUPPORT. Proofs: what a partition is once it is formed (R297, R387). -/

namespace Sys2Proof.Machine

/-! ## Its memories -/

section
variable (m : Mach)

/-- The module with `n` bytes from a key of each of the list 0. -/
def Mach.wipes (l : List Nat) (key : Nat → Nat) (n : Nat) : Mach := l.foldl (fun (a : Mach) c => a.wipe (key c) n) m

/-- The module with every byte of a partition's local memories, cluster memories and stacks 0. -/
def Mach.wiped (p : Nat) : Mach :=
  let m := m.wipes (m.coresOf p) (localKey · 0) 524288
  let m := m.wipes (m.clusters p) (clusterKey · 0) 8388608
  m.wipes (m.stacks p) stackBase stackUsable

theorem Mach.wipes_only (l : List Nat) (key : Nat → Nat) (n : Nat) : m.wipes l key n = { m with
    mem := (m.wipes l key n).mem
    bad := (m.wipes l key n).bad } :=
  List.foldlRecOn (motive := fun a : Mach => a = { m with
    mem := a.mem
    bad := a.bad }) l _ rfl fun a ha c _ => by
    rw [ha]
    rfl

/-- Bytes that are wiped read 0, and those that read 0 before do so after. -/
theorem Mach.wipes_zero (l : List Nat) (key : Nat → Nat) (n : Nat) (hm : Memory.wf m) : Memory.wf (m.wipes l key n) ∧
    ∀ x, Mem.read1 m.mem x = 0 ∨ (∃ c ∈ l, key c ≤ x ∧ x < key c + n) → Mem.read1 (m.wipes l key n).mem x = 0 := by
  induction l generalizing m with
  | nil => exact ⟨hm, fun x hx => hx.resolve_right nofun⟩
  | cons c l ih =>
    obtain ⟨hwf, hzero⟩ := ih (m.wipe (key c) n) (Memory.wf_wipe hm (key c) n)
    refine ⟨hwf, fun x hx => hzero x ?_⟩
    rw [Mach.wipe_mem, Mem.read1_zero hm]
    rcases hx with hx | ⟨d, hd, hin⟩
    · exact .inl (by rw [hx, ite_self])
    · rcases List.mem_cons.mp hd with rfl | hd
      · exact .inl (if_pos hin)
      · exact .inr ⟨d, hd, hin⟩

theorem Mach.wipes_objs (l : List Nat) (key : Nat → Nat) (n : Nat) : (m.wipes l key n).objs = m.objs :=
  Mach.foldl_same (f := fun (a : Mach) c => a.wipe (key c) n) Mach.objs (fun _ _ => rfl) l m

theorem Mach.wiped_only (p : Nat) : m.wiped p = { m with
    mem := (m.wiped p).mem
    bad := (m.wiped p).bad } := by
  unfold Mach.wiped
  extract_lets a b
  have ha : a = { m with
      mem := a.mem
      bad := a.bad } := m.wipes_only ..
  have hb : b = { a with
      mem := b.mem
      bad := b.bad } := a.wipes_only ..
  clear_value b a
  rw [b.wipes_only, hb, ha]

/-- Every byte of the partition's memories reads 0. -/
theorem Mach.wiped_zero (p : Nat) (hm : Memory.wf m) : Memory.wf (m.wiped p) ∧
    (∀ c ∈ m.coresOf p, ∀ o, o < 524288 → Mem.read1 (m.wiped p).mem (localKey c o) = 0) ∧
    (∀ g ∈ m.clusters p, ∀ o, o < 8388608 → Mem.read1 (m.wiped p).mem (clusterKey g o) = 0) ∧
    (∀ t ∈ m.stacks p, ∀ o, o < stackUsable → Mem.read1 (m.wiped p).mem (stackBase t + o) = 0) := by
  unfold Mach.wiped
  extract_lets a b
  have haobjs : a.objs = m.objs := m.wipes_objs ..
  have hbobjs : b.objs = m.objs := (a.wipes_objs ..).trans haobjs
  have haclusters : a.clusters p = m.clusters p := congrArg (bitsOf 128) (Mach.obj_eq_of_objs haobjs _ _)
  have hbstacks : b.stacks p = m.stacks p := congrArg (bitsOf 48) (Mach.obj_eq_of_objs hbobjs _ _)
  obtain ⟨hawf, hazero⟩ := m.wipes_zero (m.coresOf p) (localKey · 0) 524288 hm
  obtain ⟨hbwf, hbzero⟩ := a.wipes_zero (a.clusters p) (clusterKey · 0) 8388608 hawf
  obtain ⟨hcwf, hczero⟩ := b.wipes_zero (b.stacks p) stackBase stackUsable hbwf
  refine ⟨hcwf, fun c hc o ho => hczero _ (.inl (hbzero _ (.inl (hazero _ (.inr ⟨c, hc, ?_⟩))))),
    fun g hg o ho => hczero _ (.inl (hbzero _ (.inr ⟨g, haclusters ▸ hg, ?_⟩))), fun t ht o ho => hczero _ (.inr ⟨t, hbstacks ▸ ht, ?_⟩)⟩
  · unfold localKey
    omega
  · unfold clusterKey
    omega
  · omega

/-! ## Its units and objects -/

/-- The module with nothing of a partition's units left, and its objects at their defaults but for the formation and lifeline objects. -/
def Mach.formForgot (p : Nat) : Mach := { m.forget p with objs := m.objs.filter (fun e => !formClears p e.1) }

/-- The module with nothing of a partition's state left. -/
def Mach.formBlank (p : Nat) : Mach := (m.formForgot p).setPart p { Part.empty with
  life := { Life.init with t0 := (m.formForgot p).rc }
  jobT0 := (m.formForgot p).rc }

/-- The module with the objects that a formation sets. -/
def Mach.formShown (p : Nat) : Mach :=
  (((((m.setObj (pix p) 0xB (m.saveImg p)).setObj (pix p) 0xC (m.saveArea p)).setObj (0x4880 + p) 1 m.topVer).powerClusters p true).setField
    (pix p) 2 4 3 2).cmdDone (pix p) 2 true

theorem doFormed_eq {p : Nat} (hp : p < 64) (hforming : m.pstate p = 1) : doFormed m p = ((m.wiped p).formBlank p).formShown p :=
  if_neg (by simp [hp, hforming])

theorem Mach.formBlank_objs (p : Nat) : (m.formBlank p).objs = AMap.delIf (formClears p) m.objs := rfl

/-- The objects that a formation does not clear keep their values. -/
theorem Mach.obj_formBlank_kept (p : Nat) {i b : Nat} (h : formClears p (okey i b) = false) : (m.formBlank p).obj i b = m.obj i b := by
  simp only [Mach.obj, Mach.formBlank_objs, AMap.get?_delIf, h, Bool.false_eq_true, if_false]

theorem Mach.obj_formBlank_cleared (p : Nat) {i b : Nat} (h : formClears p (okey i b) = true) : (m.formBlank p).obj i b = objReset (okey i b) :=
  Mach.obj_of_cleared (m.formBlank_objs p) h

/-- The markers of the partition's clusters read 0. -/
theorem Mach.markers_formBlank (p g i : Nat) (hg : g ∈ m.clusters p) (hi : i < 512) : (m.formBlank p).markers.get 0 (512 * g + i) = 0 := by
  have hkey : (512 * g + i) / 512 = g := by omega
  rw [AMap.get_eq]
  have hget : AMap.get? (512 * g + i) (m.formBlank p).markers = none := by
    refine (AMap.get?_delIf (fun k => (m.clusters p).contains (k / 512)) _ m.markers).trans (if_pos ?_)
    simp [hkey, hg]
  rw [hget, Option.getD_none]

theorem Mach.part_formBlank (p q : Nat) : (m.formBlank p).part q = if p = q then { Part.empty with
    life := { Life.init with t0 := (m.formForgot p).rc }
    jobT0 := (m.formForgot p).rc } else m.part q := by
  rw [Mach.formBlank, Mach.part_setPart]
  have hfresh : (m.freshCores p).parts = m.parts := Mach.foldl_parts (f := fun (a : Mach) c => a.setCore c (Core.init (a.core c).slot)) (fun _ _ => rfl) _ m
  simp only [Mach.part, Mach.formForgot, Mach.forget, Mach.censusWipe, hfresh]

theorem Mach.mem_formBlank (p : Nat) : (m.formBlank p).mem = m.mem := by
  rw [Mach.formBlank, Mach.setPart_mem]
  exact m.forget_mem p

theorem SameObjs.formShown (p : Nat) : SameObjs (formedKeys p) m (m.formShown p) :=
  SameObjs.trans (SameObjs.trans (SameObjs.trans (SameObjs.trans (SameObjs.trans (SameObjs.setObj _ _ _ _ (by simp [formedKeys]))
    (SameObjs.setObj _ _ _ _ (by simp [formedKeys]))) (SameObjs.setObj _ _ _ _ (by simp [formedKeys])))
    (SameObjs.of_objs _ (Mach.powerClusters_objs ..))) (SameObjs.setField _ _ _ _ _ _ (by simp [formedKeys])))
    (SameObjs.setField _ _ _ _ _ _ (by simp [formedKeys]))

theorem Mach.formShown_only (p : Nat) : m.formShown p = { m with
    objs := (m.formShown p).objs
    islands := (m.formShown p).islands } := by
  have hpower : ∀ a : Mach, a.powerClusters p true = { a with islands := (a.powerClusters p true).islands } := fun a =>
    List.foldlRecOn (motive := fun b : Mach => b = { a with islands := b.islands }) _ _ rfl fun b hb g _ => by
      rw [hb]
      rfl
  have hset : ObjsOnly m (((m.setObj (pix p) 0xB (m.saveImg p)).setObj (pix p) 0xC (m.saveArea p)).setObj (0x4880 + p) 1 m.topVer) := rfl
  unfold Mach.formShown
  generalize ((m.setObj (pix p) 0xB (m.saveImg p)).setObj (pix p) 0xC (m.saveArea p)).setObj (0x4880 + p) 1 m.topVer = a at hset
  have ha := hpower a
  generalize a.powerClusters p true = b at ha
  unfold ObjsOnly at hset
  rw [ha, hset]
  rfl

/-- The state shown: formed, with the command DONE. -/
theorem Mach.formShown_state (p : Nat) : (m.formShown p).pstate p = 2 ∧ (m.formShown p).field (pix p) 2 2 0 = 2 :=
  ⟨(Mach.field_setField_apart _ _ _ _ _ _ _ _ (by decide) (.inl (by decide))).trans (Mach.field_setField_same _ _ _ _ _ _ (by decide)),
    Mach.field_setField_same _ _ _ _ _ _ (by decide)⟩

/-- PCAP is the highest link version (R297). -/
theorem Mach.formShown_pcap {p : Nat} (hp : p < 64) : (m.formShown p).obj (0x4880 + p) 1 = m.topVer := by
  have hstate : okey (pix p) 2 ≠ okey (0x4880 + p) 1 := by
    simp only [okey, pix]
    omega
  unfold Mach.formShown
  rw [Mach.cmdDone, Mach.obj_setField_other _ hstate, Mach.obj_setField_other _ hstate, Mach.obj_eq_of_objs (Mach.powerClusters_objs ..), Mach.obj_setObj_same]

end

/-! ## FORMATION_DONE -/

/-- The objects of a partition at base + p lie below or above those of its state. -/
theorem partBases_range {b : Nat} (hb : b ∈ partBases) : b = 0x4880 ∨ b ≠ 0x4880 ∧ (b = 0x2500 ∨ 0x5000 ≤ b) := by
  simp only [partBases, List.mem_cons, List.not_mem_nil, or_false] at hb
  omega

theorem formClears_form {p sub : Nat} (hp : p < 64) (h3 : 3 ≤ sub) (hA : sub ≤ 0xA) : formClears p (okey (pix p) sub) = false := by
  have hidx : okey (pix p) sub / 256 = pix p := by
    unfold okey
    omega
  have hsub : okey (pix p) sub % 256 = sub := by
    unfold okey
    omega
  have hnone : partBases.any (fun b => decide (pix p = b + p)) = false := by
    refine List.any_eq_false.mpr fun b hb => ?_
    have := partBases_range hb
    rw [decide_eq_true_eq, pix]
    omega
  simp [formClears, hidx, hsub, hnone, h3, hA]

theorem formClears_life {p sub : Nat} (hp : p < 64) (h2 : 2 ≤ sub) (h5 : sub ≤ 5) : formClears p (okey (0x7200 + p) sub) = false := by
  have hidx : okey (0x7200 + p) sub / 256 = 0x7200 + p := by
    unfold okey
    omega
  have hsub : okey (0x7200 + p) sub % 256 = sub := by
    unfold okey
    omega
  have hform : 0x7200 + p ≠ pix p := by
    unfold pix
    omega
  simp [formClears, hidx, hsub, hform, h2, h5]

theorem formClears_links {p : Nat} (hp : p < 64) : formClears p (okey 0x4800 1) = false := by
  have hnone : partBases.any (fun b => decide (okey 0x4800 1 / 256 = b + p)) = false := by
    refine List.any_eq_false.mpr fun b hb => ?_
    have := partBases_range hb
    rw [decide_eq_true_eq, okey]
    omega
  have hform : okey 0x4800 1 / 256 ≠ pix p := by
    unfold pix okey
    omega
  simp [formClears, hform, hnone]

theorem formClears_rest {p b sub : Nat} (hb : b ∈ partBases) (hsub : sub < 256) (hlife : ¬ (b = 0x7200 ∧ 2 ≤ sub ∧ sub ≤ 5)) :
    formClears p (okey (b + p) sub) = true := by
  have hidx : okey (b + p) sub / 256 = b + p := by
    unfold okey
    omega
  have hrest : okey (b + p) sub % 256 = sub := by
    unfold okey
    omega
  have hany : partBases.any (fun x => decide (b + p = x + p)) = true := List.any_eq_true.mpr ⟨b, hb, decide_eq_true rfl⟩
  have hkept : (decide (b + p = 0x7200 + p) && decide (2 ≤ sub) && decide (sub ≤ 5)) = false := by
    simp
    omega
  simp only [formClears, hidx, hrest, hany, hkept]
  simp

/-- No object of a partition at base + p but PCAP is among those that a formation sets. -/
theorem partBases_notMem_formedKeys {p b sub : Nat} (hp : p < 64) (hb : b ∈ partBases) (hsub : sub < 256) (hcap : ¬ (b = 0x4880 ∧ sub = 1)) :
    okey (b + p) sub ∉ formedKeys p := by
  have := partBases_range hb
  simp only [formedKeys, okey, pix, List.mem_cons, List.not_mem_nil, or_false]
  omega

/-- FORMATION_DONE: the partition is formed, its memories and units read 0, and its objects are at their defaults but for those that formation and
lifelines keep (R297, R387). -/
theorem formationsDone {s : State} {p : Nat} (hrun : s.mach.phase = .running) (hp : p < 64) (hforming : s.mach.pstate p = 1)
    (hm : Memory.wf s.mach) :
    ∃ m, Gives (.formationDone p) s m ∧ m.pstate p = 2 ∧ m.field (pix p) 2 2 0 = 2 ∧
      (∀ c ∈ s.mach.coresOf p, ∀ o, o < 524288 → m.rd (localKey c o) 1 = zeros 1) ∧
      (∀ g ∈ s.mach.clusters p, ∀ o, o < 8388608 → m.rd (clusterKey g o) 1 = zeros 1) ∧
      (∀ t ∈ s.mach.stacks p, ∀ o, o < stackUsable → m.rd (stackBase t + o) 1 = zeros 1) ∧
      (∀ g i, g ∈ s.mach.clusters p → i < 512 → m.markers.get 0 (512 * g + i) = 0) ∧
      (∀ sub, 3 ≤ sub → sub ≤ 0xA → m.obj (pix p) sub = s.mach.obj (pix p) sub) ∧
      (∀ sub, 2 ≤ sub → sub ≤ 5 → m.obj (0x7200 + p) sub = s.mach.obj (0x7200 + p) sub) ∧
      m.obj (0x4880 + p) 1 = (if s.mach.objBit 0x4800 1 1 then 2 else 1) ∧
      (∀ b ∈ partBases, ∀ sub, sub < 256 → ¬ (b = 0x7200 ∧ 2 ≤ sub ∧ sub ≤ 5) → ¬ (b = 0x4880 ∧ sub = 1) →
        m.obj (b + p) sub = objReset (okey (b + p) sub)) ∧
      (m.part p).resident = none ∧ (m.part p).guest = none ∧ (∀ q, q ≠ p → m.part q = s.mach.part q) := by
  have hg := gives_step (.formationDone p) s (fun m => doFormed m p) rfl hrun
  rw [doFormed_eq s.mach hp hforming] at hg
  have hwiped := s.mach.wiped_only p
  obtain ⟨hwf, hlocal, hcluster, hstack⟩ := s.mach.wiped_zero p hm
  have hobj : ∀ i b, (s.mach.wiped p).obj i b = s.mach.obj i b := fun i b => Mach.obj_eq_of_objs (by rw [hwiped]) i b
  have hclusters : (s.mach.wiped p).clusters p = s.mach.clusters p := congrArg (bitsOf 128) (hobj _ _)
  have hparts : (s.mach.wiped p).parts = s.mach.parts := by rw [hwiped]
  generalize s.mach.wiped p = w at *
  have hmarkers := fun g i => w.markers_formBlank p g i
  have hmem := w.mem_formBlank p
  have hpart := fun q => w.part_formBlank p q
  have hkept := fun {i b : Nat} => w.obj_formBlank_kept p (i := i) (b := b)
  have hcleared := fun {i b : Nat} => w.obj_formBlank_cleared p (i := i) (b := b)
  generalize w.formBlank p = a at *
  have hobjs := SameObjs.formShown a p
  have hcap := a.formShown_pcap hp
  obtain ⟨hstate, hdone⟩ := a.formShown_state p
  have hfields := a.formShown_only p
  generalize a.formShown p = m at *
  have hmmem : m.mem = w.mem := by rw [hfields, hmem]
  have hrd : ∀ x, Mem.read1 w.mem x = 0 → m.rd x 1 = zeros 1 := fun x hx => by
    rw [Mach.rd1 (Memory.wf_of_mem hmmem hwf), hmmem, hx]
    rfl
  have hmparts : ∀ q, m.part q = a.part q := fun q => by
    rw [hfields]
    rfl
  refine ⟨m, hg, hstate, hdone, fun c hc o ho => hrd _ (hlocal c hc o ho), fun g hg o ho => hrd _ (hcluster g hg o ho),
    fun t ht o ho => hrd _ (hstack t ht o ho), fun g i hg hi => ?_, fun sub h3 hA => ?_, fun sub h2 h5 => ?_, ?_,
    fun b hb sub hsub hlife hnotcap => ?_, ?_, ?_, fun q hq => ?_⟩
  · rw [hfields]
    exact hmarkers g i (hclusters ▸ hg) hi
  · have hnot : okey (pix p) sub ∉ formedKeys p := by
      simp only [formedKeys, okey, pix, List.mem_cons, List.not_mem_nil, or_false]
      omega
    rw [hobjs _ _ hnot, hkept (formClears_form hp h3 hA), hobj]
  · have hnot : okey (0x7200 + p) sub ∉ formedKeys p :=
      partBases_notMem_formedKeys (b := 0x7200) hp (by decide) (by omega) (by omega)
    rw [hobjs _ _ hnot, hkept (formClears_life hp h2 h5), hobj]
  · have hver : a.objBit 0x4800 1 1 = s.mach.objBit 0x4800 1 1 :=
      Mach.objBit_of_obj s.mach ((hkept (formClears_links hp)).trans (hobj _ _)) 1
    rw [hcap, Mach.topVer, hver]
  · rw [hobjs _ _ (partBases_notMem_formedKeys hp hb hsub hnotcap), hcleared (formClears_rest hb hsub hlife)]
  · rw [hmparts, hpart, if_pos rfl]
    rfl
  · rw [hmparts, hpart, if_pos rfl]
    rfl
  · rw [hmparts, hpart, if_neg (Ne.symm hq)]
    exact congrArg (AMap.get Part.empty q) hparts

/-- Settles O25: a partition forms by wipes that leave no byte of it, and what a dissolve ends stays ended as the rest is wound down. -/
theorem partitionCommands : Obligations.PartitionCommands := by
  unfold Obligations.PartitionCommands
  exact ⟨fun s p v hrun hp hon hop => forms hrun hp hon hop, fun s p hrun hp hforming hm => formationsDone hrun hp hforming hm,
    fun s p hrun hp hon hidle => dissolves hrun hp hon hidle⟩

end Sys2Proof.Machine
end

section
/-! SUPPORT. Proofs: the doorbells of a client's rings (R392, R393, R415). -/

namespace Sys2Proof.Machine

/-! ## What admitting a job changes -/

/-- Where a job comes from: its client, partition, ring slot, sequence number and descriptor. -/
def jobOrigin (j : Job) : Nat × Nat × Nat × Nat × List Byte := (j.client, j.part, j.sqidx, j.seq, j.desc)

/-- Only states of jobs change, and the times at which a partition lost one. -/
structure AdmitsOnly (m m' : Mach) : Prop where
  fields : m' = { m with
    jobs := m'.jobs
    parts := m'.parts }
  origins : m'.jobs.map jobOrigin = m.jobs.map jobOrigin

section
variable (m : Mach)

theorem AdmitsOnly.refl : AdmitsOnly m m := ⟨rfl, rfl⟩

variable {m} in
theorem AdmitsOnly.trans {a b : Mach} (h : AdmitsOnly m a) (h' : AdmitsOnly a b) : AdmitsOnly m b := by
  refine ⟨?_, h'.origins.trans h.origins⟩
  rw [h'.fields, h.fields]

theorem AdmitsOnly.modJob (j : Job) {f : Job → Job} (hf : ∀ x, jobOrigin (f x) = jobOrigin x) : AdmitsOnly m (m.modJob j f) := by
  refine ⟨rfl, ?_⟩
  rw [Mach.modJob_jobs, List.map_map]
  refine List.map_congr_left fun x _ => ?_
  rw [Function.comp_apply]
  split
  · exact hf x
  · rfl

theorem AdmitsOnly.endJob (j : Job) (st d : Nat) : AdmitsOnly m (m.endJob j st d) :=
  AdmitsOnly.trans (AdmitsOnly.modJob m j (f := fun x => { x with st := .done st d m.doneSeq }) fun _ => rfl) ⟨rfl, rfl⟩

theorem AdmitsOnly.admitJob (j : Job) : AdmitsOnly m (m.admitJob j) := by
  unfold Mach.admitJob
  split
  · exact AdmitsOnly.endJob ..
  · exact AdmitsOnly.modJob m j fun _ => rfl

theorem AdmitsOnly.releaseFences (n : Nat) : AdmitsOnly m (m.releaseFences n) := by
  unfold Mach.releaseFences
  refine List.foldlRecOn (motive := fun a : Mach => AdmitsOnly m a) _ _ (AdmitsOnly.refl m) fun a ha j _ => AdmitsOnly.trans ha ?_
  split
  · exact AdmitsOnly.refl a
  · exact AdmitsOnly.admitJob a j

/-! ## A descriptor that cannot be read -/

/-- The half that a read meets first is known to be bad, or lies in a stack out of service. -/
theorem Mach.firstBad_known {a n k : Nat} (h : m.firstBad a n = some k) : k / 32 ∈ m.bad ∨ k / 2 ^ 35 ∈ m.offStacks := by
  have hhalf : ∀ x, Machine.firstBad m.bad a n = some x → x / 32 ∈ m.bad := by
    intro x hx
    obtain ⟨y, hy, rfl⟩ := Option.map_eq_some_iff.mp hx
    have hmem := (List.mem_filter.mp (List.min?_mem hy)).1
    rwa [Nat.mul_div_cancel y (by decide)]
  have hlost : ∀ y, m.lostAt a n = some y → y / 2 ^ 35 ∈ m.offStacks := by
    intro y hy
    unfold Mach.lostAt at hy
    split at hy
    · cases hy
    · obtain ⟨t, ht, hsome⟩ := List.mem_filterMap.mp (List.min?_mem hy)
      split at hsome
      · next hin =>
        obtain rfl := Option.some.inj hsome
        have hstack : max a (t * 2 ^ 35) / 2 ^ 35 = t := by
          have hle := le_max_right a (t * 2 ^ 35)
          have hlt : max a (t * 2 ^ 35) < (t + 1) * 2 ^ 35 := max_lt hin.1 (by omega)
          omega
        rwa [hstack]
      · cases hsome
  unfold Mach.firstBad at h
  split at h
  · next x y hx hy =>
    obtain rfl := Option.some.inj h
    rcases min_choice x y with hmin | hmin <;> rw [hmin]
    · exact .inl (hhalf x hx)
    · exact .inr (hlost y hy)
  · next x hx _ =>
    obtain rfl := Option.some.inj h
    exact .inl (hhalf x hx)
  · exact .inr (hlost k h)

/-- The report of a half that is known to be bad, or lies in a stack out of service, makes no half bad. -/
theorem Mach.bad_lostRead (cls : Nat) {k : Nat} (h : k / 32 ∈ m.bad ∨ k / 2 ^ 35 ∈ m.offStacks) : (m.lostRead cls k).bad = m.bad := by
  unfold Mach.lostRead
  split
  · next hin =>
    simp only [Bool.and_eq_true, Bool.not_eq_true', List.contains_eq_mem, decide_eq_false_iff_not] at hin
    have hbad : (k / 32 * 32) / 32 ∈ m.bad := by
      rw [Nat.mul_div_cancel _ (by decide)]
      exact h.resolve_right hin.2
    unfold Mach.eccLost
    rw [Mach.candidate_bad, Mach.health_bad]
    exact if_pos (List.contains_iff_mem.mpr hbad)
  · rfl

theorem Mach.bad_lostAny (cls : Nat) {rs : List (Nat × Nat)} {k : Option Nat} (h : m.badRead rs = k) : (m.lostAny cls k).bad = m.bad := by
  cases k with
  | none => rfl
  | some k =>
    obtain ⟨r, -, hr⟩ := List.exists_of_findSome?_eq_some h
    exact m.bad_lostRead cls (m.firstBad_known hr)

/-- The report writes no object below the stacks but the count of health events. -/
theorem Mach.obj_lostAny (cls : Nat) (k : Option Nat) {i b : Nat} (hi : 0x3000 ≤ i) (hlow : i < 0x4100) (hb : b < 256) :
    (m.lostAny cls k).obj i b = m.obj i b := by
  have hrecord : ∀ (a : Mach) kind addr cls, (a.errorRecord kind addr cls).obj i b = a.obj i b := fun a _ _ _ =>
    Mach.obj_setObj_other a (fun he => by have := (okey_inj (by decide) hb).mp he; omega) _
  cases k with
  | none => rfl
  | some k =>
    change (m.lostRead cls k).obj i b = m.obj i b
    unfold Mach.lostRead
    split
    · unfold Mach.eccLost
      rw [Mach.obj_eq_of_objs (Mach.candidate_objs ..), Mach.obj_health _ (fun he => by have := (okey_inj (by decide) hb).mp he; omega), hrecord]
      exact Mach.obj_setObj_other _ (fun he => by have := (okey_inj (by decide) hb).mp he; omega) _
    · rfl

end

/-! ## Descriptors fetched -/

section
variable (m : Mach) (n p : Nat)

/-- The descriptor a client's ring holds in a slot: zeros where it cannot be read. -/
def Mach.descAt (slot : Nat) : List Byte :=
  if (m.badRead [(m.obj (cix n) 2 + 128 * slot, 128)]).isSome then zeros 128 else m.rd (m.obj (cix n) 2 + 128 * slot) 128

/-- `k` descriptors of a client are fetched in ring order: each is a job of its own behind those there were, and SQ_HEAD passes it. -/
structure Fetched (k : Nat) (m m' : Mach) : Prop where
  mem : m'.mem = m.mem
  cores : m'.cores = m.cores
  bad : m'.bad = m.bad
  offStacks : m'.offStacks = m.offStacks
  ring : m'.obj (cix n) 2 = m.obj (cix n) 2
  sqTail : m'.sqTail n = m.sqTail n
  cqHead : m'.cqHead n = m.cqHead n
  cqTail : m'.cqTail n = m.cqTail n
  sqHead : m'.sqHead n = (m.sqHead n + k) % 64
  jobSeq : m'.jobSeq = m.jobSeq + k
  jobs : m'.jobs.map jobOrigin = m.jobs.map jobOrigin ++ (List.range k).map (fun i =>
    (n, p, (m.sqHead n + i) % 64, m.jobSeq + i, m.descAt n ((m.sqHead n + i) % 64)))

theorem Mach.sqHead_lt : m.sqHead n < 64 := fld_lt ..

variable {n p}

theorem Fetched.descAt {k : Nat} {a b : Mach} (h : Fetched n p k a b) (slot : Nat) : b.descAt n slot = a.descAt n slot := by
  have hbad : ∀ rs, b.badRead rs = a.badRead rs := fun rs => by
    simp only [Mach.badRead, Mach.firstBad, Mach.lostAt, h.bad, h.offStacks]
  simp only [Mach.descAt, hbad, Mach.rd, h.mem, h.ring]

theorem Fetched.zero : Fetched n p 0 m m := by
  refine ⟨rfl, rfl, rfl, rfl, rfl, rfl, rfl, rfl, ?_, rfl, ?_⟩
  · exact (Nat.mod_eq_of_lt (m.sqHead_lt n)).symm
  · simp

/-- One more descriptor is fetched. -/
theorem Fetched.succ {k : Nat} {a b c : Mach} (h : Fetched n p k a b) (h' : Fetched n p 1 b c) : Fetched n p (k + 1) a c := by
  refine ⟨h'.mem.trans h.mem, h'.cores.trans h.cores, h'.bad.trans h.bad, h'.offStacks.trans h.offStacks, h'.ring.trans h.ring,
    h'.sqTail.trans h.sqTail, h'.cqHead.trans h.cqHead, h'.cqTail.trans h.cqTail, ?_, ?_, ?_⟩
  · rw [h'.sqHead, h.sqHead]
    omega
  · rw [h'.jobSeq, h.jobSeq]
    rfl
  · have hslot : b.sqHead n % 64 = (a.sqHead n + k) % 64 := by
      rw [h.sqHead]
      omega
    rw [h'.jobs, h.jobs, List.range_succ (n := k), List.map_append, List.append_assoc]
    simp only [List.range_one, List.map_cons, List.map_nil, hslot, h.jobSeq, h.descAt, Nat.add_zero]

/-- The objects of a client lie below those of the stacks. -/
theorem cix_range (hn : n < 512) : 0x3000 ≤ cix n ∧ cix n < 0x4100 := by
  unfold cix
  omega

/-- Only states of jobs change after a descriptor has been taken. -/
theorem Fetched.admits {k : Nat} {a b c : Mach} (h : Fetched n p k a b) (h' : AdmitsOnly b c) : Fetched n p k a c := by
  have hobj : ∀ i x, c.obj i x = b.obj i x := fun i x => Mach.obj_eq_of_objs (by rw [h'.fields]) i x
  have hfield : ∀ hi lo, c.field (cix n) 4 hi lo = b.field (cix n) 4 hi lo := fun hi lo => congrArg (fld · hi lo) (hobj _ _)
  refine ⟨?_, ?_, ?_, ?_, (hobj _ _).trans h.ring, (hfield _ _).trans h.sqTail, (hfield _ _).trans h.cqHead, (hfield _ _).trans h.cqTail,
    (hfield _ _).trans h.sqHead, ?_, h'.origins.trans h.jobs⟩
  · rw [h'.fields, h.mem]
  · rw [h'.fields, h.cores]
  · rw [h'.fields, h.bad]
  · rw [h'.fields, h.offStacks]
  · rw [h'.fields, h.jobSeq]

/-- The report of a descriptor that cannot be read keeps what has been fetched. -/
theorem Fetched.reports (hn : n < 512) {k : Nat} {a b : Mach} (h : Fetched n p k a b) (cls : Nat) {rs : List (Nat × Nat)} {x : Option Nat}
    (hx : b.badRead rs = x) : Fetched n p k a (b.lostAny cls x) := by
  have honly := ReportsOnly.lostAny b cls x
  have hbad := b.bad_lostAny cls hx
  have hobj : ∀ y, y < 256 → (b.lostAny cls x).obj (cix n) y = b.obj (cix n) y := fun y hy =>
    b.obj_lostAny cls x (cix_range hn).1 (cix_range hn).2 hy
  generalize b.lostAny cls x = c at *
  have hfield : ∀ hi lo, c.field (cix n) 4 hi lo = b.field (cix n) 4 hi lo := fun hi lo => congrArg (fld · hi lo) (hobj 4 (by decide))
  unfold ReportsOnly at honly
  refine ⟨?_, ?_, hbad.trans h.bad, ?_, (hobj 2 (by decide)).trans h.ring, (hfield _ _).trans h.sqTail, (hfield _ _).trans h.cqHead,
    (hfield _ _).trans h.cqTail, (hfield _ _).trans h.sqHead, ?_, ?_⟩
  · rw [honly, h.mem]
  · rw [honly, h.cores]
  · rw [honly, h.offStacks]
  · rw [honly, h.jobSeq]
  · rw [honly, h.jobs]

/-- The job of the descriptor at SQ_HEAD. -/
def Mach.fetchedJob (n p : Nat) : Job := jobOfDesc n p (m.sqHead n) m.jobSeq (m.descAt n (m.sqHead n))

/-- The module with the descriptor at SQ_HEAD copied into a job, before that is checked. -/
def Mach.fetchTaken (n p : Nat) : Mach :=
  let m' := ((m.touch [(m.obj (cix n) 2 + 128 * m.sqHead n, 128)]).setField (cix n) 4 5 0 ((m.sqHead n + 1) % 64)).addObj (cix n) 5 1
  { m' with
    jobs := m'.jobs ++ [m.fetchedJob n p]
    jobSeq := m'.jobSeq + 1 }

theorem Mach.fetchOne_eq (n p : Nat) : m.fetchOne n p =
    if (m.badRead [(m.obj (cix n) 2 + 128 * m.sqHead n, 128)]).isSome then
      ((m.fetchTaken n p).lostAny 1 (m.badRead [(m.obj (cix n) 2 + 128 * m.sqHead n, 128)])).endJob (m.fetchedJob n p) 4 5
    else if (m.fetchTaken n p).waitsFence (m.fetchedJob n p) then m.fetchTaken n p else (m.fetchTaken n p).admitJob (m.fetchedJob n p) := rfl

theorem Fetched.taken (hn : n < 512) : Fetched n p 1 m (m.fetchTaken n p) := by
  have hrange := cix_range hn
  have htouched : SameObjs ((List.range 48).map (fun s => okey (0x4100 + s) 2)) m (m.touch [(m.obj (cix n) 2 + 128 * m.sqHead n, 128)]) :=
    SameObjs.touch _ _
  have honly := m.touch_only [(m.obj (cix n) 2 + 128 * m.sqHead n, 128)]
  unfold Mach.fetchTaken
  generalize m.touch [(m.obj (cix n) 2 + 128 * m.sqHead n, 128)] = t at *
  have hobj : ∀ y, y < 256 → t.obj (cix n) y = m.obj (cix n) y := fun y hy => by
    refine htouched _ _ fun hmem => ?_
    obtain ⟨x, hx, he⟩ := List.mem_map.mp hmem
    have := (okey_inj (by decide) hy).mp he
    have := List.mem_range.mp hx
    omega
  have hcounted : ∀ a : Mach, ∀ y, y ≠ 5 → (a.addObj (cix n) 5 1).obj (cix n) y = a.obj (cix n) y := fun a y hy =>
    Mach.obj_setObj_other a (fun he => hy ((okey_right ..).mp he).symm) _
  have hapart : ∀ hi lo, 5 < lo → (t.setField (cix n) 4 5 0 ((m.sqHead n + 1) % 64)).field (cix n) 4 hi lo = m.field (cix n) 4 hi lo := by
    intro hi lo hlo
    rw [Mach.field_setField_apart _ _ _ _ _ _ _ _ (by decide) (.inl hlo)]
    exact congrArg (fld · hi lo) (hobj 4 (by decide))
  have hfield : ∀ hi lo, ((t.setField (cix n) 4 5 0 ((m.sqHead n + 1) % 64)).addObj (cix n) 5 1).field (cix n) 4 hi lo =
      (t.setField (cix n) 4 5 0 ((m.sqHead n + 1) % 64)).field (cix n) 4 hi lo := fun hi lo =>
    congrArg (fld · hi lo) (hcounted _ 4 (by decide))
  refine ⟨?_, ?_, ?_, ?_, ?_, (hfield 13 8).trans (hapart 13 8 (by decide)), (hfield 21 16).trans (hapart 21 16 (by decide)),
    (hfield 27 22).trans (hapart 27 22 (by decide)), (hfield 5 0).trans ?_, ?_, ?_⟩
  · change t.mem = m.mem
    rw [honly]
  · change t.cores = m.cores
    rw [honly]
  · change t.bad = m.bad
    rw [honly]
  · change t.offStacks = m.offStacks
    rw [honly]
  · have hne : okey (cix n) 4 ≠ okey (cix n) 2 := fun he => absurd ((okey_right ..).mp he) (by decide)
    change ((t.setField (cix n) 4 5 0 ((m.sqHead n + 1) % 64)).addObj (cix n) 5 1).obj (cix n) 2 = _
    rw [hcounted _ 2 (by decide), Mach.obj_setField_other t hne, hobj 2 (by decide)]
  · rw [Mach.field_setField_same _ _ _ _ _ _ (by decide)]
    exact Nat.mod_mod ..
  · change t.jobSeq + 1 = m.jobSeq + 1
    rw [honly]
  · change (t.jobs ++ [m.fetchedJob n p]).map jobOrigin = _
    have hjobs : t.jobs = m.jobs := by rw [honly]
    rw [hjobs, List.map_append]
    simp only [List.range_one, List.map_cons, List.map_nil, Nat.add_zero, Nat.mod_eq_of_lt (m.sqHead_lt n)]
    rfl

theorem Fetched.fetchOne (hn : n < 512) : Fetched n p 1 m (m.fetchOne n p) := by
  have htaken := Fetched.taken m (p := p) hn
  rw [Mach.fetchOne_eq]
  split
  · have hsame : (m.fetchTaken n p).badRead [(m.obj (cix n) 2 + 128 * m.sqHead n, 128)] = m.badRead [(m.obj (cix n) 2 + 128 * m.sqHead n, 128)] := by
      simp only [Mach.badRead, Mach.firstBad, Mach.lostAt, htaken.bad, htaken.offStacks]
    exact Fetched.admits (Fetched.reports hn htaken 1 hsame) (AdmitsOnly.endJob ..)
  · split
    · exact htaken
    · exact Fetched.admits htaken (AdmitsOnly.admitJob ..)

/-- Fetched one by one. -/
theorem Fetched.all (hn : n < 512) (k : Nat) : Fetched n p k m ((List.range k).foldl (fun (a : Mach) _ => a.fetchOne n p) m) := by
  induction k with
  | zero => exact Fetched.zero m
  | succ k ih =>
    rw [List.range_succ, List.foldl_append]
    exact Fetched.succ ih (Fetched.fetchOne _ hn)

end

end Sys2Proof.Machine
end

section
/-! SUPPORT. Proofs: the rings of a client served and a job cancelled (R392, R393, R402, R415). -/

namespace Sys2Proof.Machine

/-! ## The doorbells -/

section
variable {s : State} (hrun : s.mach.phase = .running)
include hrun

theorem gives_sqTail (n v : Nat) : Gives (.sqTail n v) s (doSqTail s.mach n v) := gives_step (.sqTail n v) s (fun m => doSqTail m n v) rfl hrun

theorem gives_cqHead (n v : Nat) : Gives (.cqHead n v) s (doCqHead s.mach n v) := gives_step (.cqHead n v) s (fun m => doCqHead m n v) rfl hrun

theorem gives_cancel (n v : Nat) : Gives (.cancel n v) s (doCancel s.mach n v) := gives_step (.cancel n v) s (fun m => doCancel m n v) rfl hrun

/-- Doorbells of a client that is not bound change nothing (R415). -/
theorem unboundDoorbells (n v : Nat) (h : s.mach.clientPart n = none) :
    Gives (.sqTail n v) s s.mach ∧ Gives (.cqHead n v) s s.mach ∧ Gives (.cancel n v) s s.mach := by
  have hsq := gives_sqTail hrun n v
  have hcq := gives_cqHead hrun n v
  have hcancel := gives_cancel hrun n v
  rw [doSqTail, h] at hsq
  rw [doCqHead, h] at hcq
  rw [doCancel, h] at hcancel
  exact ⟨hsq, hcq, hcancel⟩

omit hrun in
theorem Mach.clientPart_lt {m : Mach} {n p : Nat} (h : m.clientPart n = some p) : n < 512 := by
  unfold Mach.clientPart at h
  split at h
  · next hbound => exact of_decide_eq_true (Bool.and_eq_true .. ▸ hbound).1
  · cases h

/-- SQ_TAIL: the descriptors up to the new tail are fetched in ring order (R393). -/
theorem sqTails {n v p : Nat} (h : s.mach.clientPart n = some p) : let k := (v % 64 + 64 - s.mach.sqHead n) % 64
    ∃ m, Gives (.sqTail n v) s m ∧ m.sqHead n = v % 64 ∧ m.sqTail n = v % 64 ∧ m.cqHead n = s.mach.cqHead n ∧ m.cqTail n = s.mach.cqTail n ∧
      m.mem = s.mach.mem ∧ m.cores = s.mach.cores ∧ m.jobSeq = s.mach.jobSeq + k ∧ m.jobs.length = s.mach.jobs.length + k ∧
      (∀ i, i < k → let slot := (s.mach.sqHead n + i) % 64
        s.mach.badRead [(s.mach.obj (cix n) 2 + 128 * slot, 128)] = none →
        (m.jobs[s.mach.jobs.length + i]?).map (fun j => (j.client, j.part, j.sqidx, j.seq, j.desc)) =
          some (n, p, slot, s.mach.jobSeq + i, s.mach.rd (s.mach.obj (cix n) 2 + 128 * slot) 128)) := by
  intro k
  have hn := Mach.clientPart_lt h
  have hg := gives_sqTail hrun n v
  have hapart : ∀ hi lo, 13 < lo ∨ hi < 8 → (s.mach.setField (cix n) 4 13 8 (v % 64)).field (cix n) 4 hi lo = s.mach.field (cix n) 4 hi lo :=
    fun hi lo hne => Mach.field_setField_apart _ _ _ _ _ _ _ _ (by decide) hne
  have hhead : (s.mach.setField (cix n) 4 13 8 (v % 64)).sqHead n = s.mach.sqHead n := hapart 5 0 (.inr (by decide))
  have hcqHead : (s.mach.setField (cix n) 4 13 8 (v % 64)).cqHead n = s.mach.cqHead n := hapart 21 16 (.inl (by decide))
  have hcqTail : (s.mach.setField (cix n) 4 13 8 (v % 64)).cqTail n = s.mach.cqTail n := hapart 27 22 (.inl (by decide))
  have htail : (s.mach.setField (cix n) 4 13 8 (v % 64)).sqTail n = v % 64 :=
    (Mach.field_setField_same _ _ _ _ _ _ (by decide)).trans (Nat.mod_mod ..)
  have hring : (s.mach.setField (cix n) 4 13 8 (v % 64)).obj (cix n) 2 = s.mach.obj (cix n) 2 :=
    Mach.obj_setField_other _ (fun he => absurd ((okey_right ..).mp he) (by decide)) ..
  have hstart : ObjsOnly s.mach (s.mach.setField (cix n) 4 13 8 (v % 64)) := ObjsOnly.setField ..
  rw [doSqTail, h] at hg
  dsimp only at hg
  rw [hhead] at hg
  generalize s.mach.setField (cix n) 4 13 8 (v % 64) = a at *
  have hall := Fetched.all a (p := p) hn k
  have hlt := s.mach.sqHead_lt n
  have horigins := hall.jobs
  have hdesc : ∀ slot, a.descAt n slot = s.mach.descAt n slot := fun slot => by
    unfold Mach.descAt
    rw [hring]
    unfold ObjsOnly at hstart
    rw [hstart]
    rfl
  have hjobs : a.jobs = s.mach.jobs := by rw [hstart]
  have hseq : a.jobSeq = s.mach.jobSeq := by rw [hstart]
  have hlen := congrArg List.length horigins
  rw [List.length_append, List.length_map, List.length_map, List.length_map, List.length_range, hjobs] at hlen
  refine ⟨_, hg, ?_, hall.sqTail.trans htail, hall.cqHead.trans hcqHead, hall.cqTail.trans hcqTail, hall.mem.trans (by rw [hstart]),
    hall.cores.trans (by rw [hstart]), hall.jobSeq.trans (by rw [hseq]), hlen, fun i hi => ?_⟩
  · rw [hall.sqHead, hhead]
    omega
  · intro slot hgood
    have hat := congrArg (·[s.mach.jobs.length + i]?) horigins
    simp only [List.getElem?_map] at hat
    refine hat.trans ?_
    rw [hjobs, List.getElem?_append_right (by rw [List.length_map]; omega), List.length_map, Nat.add_sub_cancel_left, List.getElem?_map,
      List.getElem?_range hi, Option.map_some, hhead, hseq, hdesc, Mach.descAt, if_neg (by rw [hgood]; decide)]

/-- CQ_HEAD takes the new completion head (R392). -/
theorem cqHeads {n v p : Nat} (h : s.mach.clientPart n = some p) :
    ∃ m, Gives (.cqHead n v) s m ∧ m.cqHead n = v % 64 ∧ m.cqTail n = s.mach.cqTail n ∧ m.sqHead n = s.mach.sqHead n ∧
      m.sqTail n = s.mach.sqTail n ∧ SameObjs [okey (cix n) 4] s.mach m ∧ m = { s.mach with objs := m.objs } := by
  have hg := gives_cqHead hrun n v
  rw [doCqHead, h] at hg
  have hapart : ∀ hi lo, 21 < lo ∨ hi < 16 → (s.mach.setField (cix n) 4 21 16 (v % 64)).field (cix n) 4 hi lo = s.mach.field (cix n) 4 hi lo :=
    fun hi lo hne => Mach.field_setField_apart _ _ _ _ _ _ _ _ (by decide) hne
  exact ⟨_, hg, (Mach.field_setField_same _ _ _ _ _ _ (by decide)).trans (Nat.mod_mod ..), hapart 27 22 (.inl (by decide)),
    hapart 5 0 (.inr (by decide)), hapart 13 8 (.inr (by decide)), SameObjs.setField _ _ _ _ _ _ (by simp), rfl⟩

end

/-! ## CANCEL -/

section
variable (m : Mach)

/-- The job a cancel names. -/
def cancelNames (n v : Nat) (j : Job) : Bool := j.client = n && j.tag = fld v 15 0 && j.genr = fld v 23 16 && !j.isDone

/-- A cancel that finds nothing it can act on. -/
theorem doCancel_misses {n v p : Nat} (h : m.clientPart n = some p) (hmiss : fld v 31 24 ≠ 0 ∨ m.jobs.find? (cancelNames n v) = none) :
    doCancel m n v = m.setBit (cix n) 4 29 true := by
  rw [doCancel, h]
  dsimp only
  split
  · rfl
  · next hspare =>
    have hnone : m.jobs.find? (fun j => j.client = n && j.tag = fld v 15 0 && j.genr = fld v 23 16 && !j.isDone) = none :=
      hmiss.resolve_left (not_not.mpr (not_not.mp hspare))
    rw [hnone]

/-- A cancel of a job that can be taken to its end. -/
theorem doCancel_takes {n v p : Nat} {j : Job} {m' : Mach} (h : m.clientPart n = some p) (hspare : fld v 31 24 = 0)
    (hfind : m.jobs.find? (cancelNames n v) = some j) (htaken : m.cancelJob j = some m') : doCancel m n v = m'.setBit (cix n) 4 29 false := by
  have hfind' : m.jobs.find? (fun j => j.client = n && j.tag = fld v 15 0 && j.genr = fld v 23 16 && !j.isDone) = some j := hfind
  rw [doCancel, h]
  dsimp only
  rw [if_neg (not_not.mpr hspare), hfind']
  dsimp only
  rw [htaken]

/-- Every context that is stopped is cut once. -/
theorem Mach.run_stopCores {p c : Nat} (guest : Bool) (h : c ∈ m.coresOf p) :
    (((m.stopCores p guest).core c).ctx guest).run = (((m.core c).ctx guest).cut m.rc).run := by
  have harr : ∀ (k : Core) (r : Arr), { k with arr := r }.ctx guest = k.ctx guest := fun _ _ => by cases guest <;> rfl
  unfold Mach.stopCores
  obtain ⟨-, -, hstopped⟩ := Mach.foldl_cores (m := m) (P := fun a => a.rc = m.rc) (key := fun c => c) (f := fun x c =>
      let k := x.core c
      let x := x.dropWaits c guest
      let arr := if k.arr.queue.any (fun o => o.guest == guest) || k.inGuest == guest then k.arr.stop (x.obj (0x6180 + p) 1) else k.arr
      x.setCore c { (k.setCtx guest ((k.ctx guest).cut x.rc)) with arr := arr })
    (m.coresOf p) (by rw [List.map_id']; exact m.nodup_coresOf p) rfl
    fun x _ a ha _ => ⟨ha, fun d hd => (Mach.core_setCore ..).trans (if_neg (Ne.symm hd))⟩
  obtain ⟨a, hrc, hcore, hend⟩ := hstopped c h
  rw [hend]
  dsimp only
  rw [Mach.core_setCore_same, harr, Core.ctx_setCtx_same, hcore]
  exact congrArg (fun rc => (((m.core c).ctx guest).cut rc).run) hrc

/-- A job brought to a state is in it. -/
theorem Mach.st_modJob (j : Job) {st : JobSt} : ∀ k ∈ (m.modJob j (fun x => { x with st := st })).jobs, k.same j = true → k.st = st := by
  intro k hk hsame
  rw [Mach.modJob_jobs] at hk
  obtain ⟨x, -, rfl⟩ := List.mem_map.mp hk
  by_cases hx : x.same j = true
  · rw [if_pos hx]
  · rw [if_neg hx] at hsame
    exact absurd hsame hx

/-- A job that is stopped stops every context of its partition in its slot, and no memory changes (R152). -/
theorem Mach.stopJob_stops (j : Job) (guest : Bool) (st d : Nat) :
    (∀ k ∈ (m.stopJob j guest st d).jobs, k.same j = true → k.st = .stopping st d) ∧
    ∀ c ∈ m.coresOf j.part, (((m.stopJob j guest st d).core c).ctx guest).run = (((m.core c).ctx guest).cut m.rc).run := by
  refine ⟨fun k hk hsame => ?_, fun c hc => ?_⟩
  · rw [Mach.stopJob_jobs] at hk
    exact m.st_modJob j k hk hsame
  · have hrun := Mach.run_stopCores (m.modJob j (fun x => { x with st := .stopping st d })) (p := j.part) guest hc
    unfold Mach.stopJob
    dsimp only
    split
    · exact hrun
    · rw [Mach.stopRounds_only]
      exact hrun

/-- A MEDIA or INPUT job that is withdrawn runs no longer. -/
theorem Mach.stopList_over (j : Job) (status : Nat) : ∀ k ∈ (m.stopList j status).jobs, k.same j = true → stOver k.st = true := by
  have hstopping : ∀ k ∈ (m.modJob j (fun x => { x with st := .stopping status 0 })).jobs, k.same j = true → stOver k.st = true := by
    intro k hk hsame
    rw [m.st_modJob j k hk hsame]
    rfl
  exact (Winds.listWithdrawn _ j).jobs.over hstopping

/-- The end of a saved job leaves its slot free, and memory where it pins nothing (R402). -/
theorem Mach.endRun_saved {j : Job} {slot o : Nat} (h : j.st = .saved slot o) :
    (∀ k ∈ ((m.dropSave j).endRun j 3 0).jobs, k.same j = true → ∃ q, k.st = .done 3 0 q) ∧
    (((m.dropSave j).endRun j 3 0).part j.part).saves.get? slot = none ∧ (j.pins = [] → ((m.dropSave j).endRun j 3 0).mem = m.mem) := by
  refine ⟨Mach.jobs_endJob _ j 3 0, ?_, fun hpins => ?_⟩
  · rw [Mach.saves_endRun]
    exact Mach.saves_dropSave h
  · have hunpin : (m.dropSave j).unpinJob j = m.dropSave j := if_pos (by rw [hpins]; rfl)
    rw [Mach.endRun, hunpin, Mach.endJob_mem, Mach.dropSave_mem]

end

/-- CANCEL: what finds no job only sets CANCEL_MISS, and a job found comes to its end by the state it is in (R392, R402). -/
theorem cancels {s : State} {n v p : Nat} (hrun : s.mach.phase = .running) (hbound : s.mach.clientPart n = some p) :
    let named (j : Job) : Bool := j.client = n && j.tag = fld v 15 0 && j.genr = fld v 23 16 && !j.isDone
    (fld v 31 24 ≠ 0 ∨ s.mach.jobs.find? named = none → Gives (.cancel n v) s (s.mach.setBit (cix n) 4 29 true)) ∧
    (∀ j, fld v 31 24 = 0 → s.mach.jobs.find? named = some j →
      let ends (st : Nat) (m : Mach) : Prop := Gives (.cancel n v) s m ∧ m.objBit (cix n) 4 29 = false ∧
        (∀ k ∈ m.jobs, k.same j = true → ∃ q, k.st = .done st 0 q)
      let stops (guest : Bool) : Prop := ∃ m, Gives (.cancel n v) s m ∧ m.objBit (cix n) 4 29 = false ∧ m.mem = s.mach.mem ∧
        (∀ k ∈ m.jobs, k.same j = true → k.st = .stopping 3 0) ∧
        (∀ c ∈ s.mach.coresOf j.part, ((m.core c).ctx guest).run = (((s.mach.core c).ctx guest).cut s.mach.rc).run)
      (j.st = .queued ∨ j.st = .fenced → ∃ m, ends 2 m ∧ m.mem = s.mach.mem ∧ m.cores = s.mach.cores) ∧
      (∀ slot o, j.st = .saved slot o → ∃ m, ends 3 m ∧ (m.part j.part).saves.get? slot = none ∧ (j.pins = [] → m.mem = s.mach.mem)) ∧
      (j.st = .running → j.kind = 1 → stops false) ∧
      (j.st = .running → j.kind = 8 → stops true) ∧
      (j.st = .running → j.kind = 4 ∨ j.kind = 5 → ∃ m, Gives (.cancel n v) s m ∧ m.objBit (cix n) 4 29 = false ∧
        ∀ k ∈ m.jobs, k.same j = true → k.st ≠ .running)) := by
  intro named
  have hg := gives_cancel hrun n v
  refine ⟨fun hmiss => ?_, fun j hspare hfind => ?_⟩
  · rwa [doCancel_misses s.mach hbound hmiss] at hg
  · intro ends stops
    have htake : ∀ m, s.mach.cancelJob j = some m → Gives (.cancel n v) s (m.setBit (cix n) 4 29 false) := fun m hm => by
      rwa [doCancel_takes s.mach hbound hspare hfind hm] at hg
    have hshown : ∀ m : Mach, (m.setBit (cix n) 4 29 false).objBit (cix n) 4 29 = false := fun m => Mach.objBit_setBit_same ..
    have hstops : ∀ guest, s.mach.cancelJob j = some (s.mach.stopJob j guest 3 0) → stops guest := fun guest hm => by
      obtain ⟨hjobs, hcores⟩ := s.mach.stopJob_stops j guest 3 0
      exact ⟨_, htake _ hm, hshown _, Mach.stopJob_mem .., hjobs, hcores⟩
    refine ⟨fun hst => ?_, fun slot o hst => ?_, fun hst hkind => ?_, fun hst hkind => ?_, fun hst hkind => ?_⟩
    · have hm : s.mach.cancelJob j = some (s.mach.endJob j 2 0) := by
        rcases hst with hst | hst <;> rw [Mach.cancelJob, hst]
      exact ⟨_, ⟨htake _ hm, hshown _, s.mach.jobs_endJob j 2 0⟩, rfl, rfl⟩
    · have hm : s.mach.cancelJob j = some ((s.mach.dropSave j).endRun j 3 0) := by rw [Mach.cancelJob, hst]
      obtain ⟨hdone, hfree, hmem⟩ := s.mach.endRun_saved hst
      exact ⟨_, ⟨htake _ hm, hshown _, hdone⟩, hfree, hmem⟩
    · exact hstops false (by simp [Mach.cancelJob, hst, hkind])
    · exact hstops true (by simp [Mach.cancelJob, hst, hkind])
    · have hm : s.mach.cancelJob j = some (s.mach.stopList j 3) := by
        rcases hkind with hkind | hkind <;> simp [Mach.cancelJob, hst, hkind]
      refine ⟨_, htake _ hm, hshown _, fun k hk hsame hrunning => ?_⟩
      have hover := s.mach.stopList_over j 3 k hk hsame
      rw [hrunning] at hover
      cases hover

end Sys2Proof.Machine
end

section
/-! SUPPORT. Proofs: the completion record of a job (R400). -/

namespace Sys2Proof.Machine

section
variable (m : Mach)

/-- The module with CQ_TAIL moved to a slot, CQ_FULL clear and the record counted by its status. -/
def Mach.recordShown (n tail status : Nat) : Mach :=
  ((m.setField (cix n) 4 27 22 tail).setBit (cix n) 4 28 false).addObj (cix n) (if status = 0 then 6 else if status = 2 || status = 3 then 7 else 8) 1

/-- The module with the jobs of a name gone and one more record of a client counted. -/
def Mach.recordCounted (n : Nat) (j : Job) : Mach := { m with
  jobs := m.jobs.filter (fun x => !x.same j)
  cqCount := m.cqCount.put n (m.cqCount.get 0 n + 1) }

/-- A completion record is written and its job goes, before fenced jobs that waited for it are looked at. -/
def Mach.recordWritten (n : Nat) (j : Job) (status detail : Nat) : Mach :=
  let m' := ((m.put (m.obj (cix n) 3 + 32 * m.cqTail n) (m.jobRecord j status detail)).recordShown n ((m.cqTail n + 1) % 64) status).recordCounted n j
  if bit j.flags 2 then m'.raise n else m'

variable {m}

theorem doCompletion_of_done {n st d q : Nat} {j : Job} (hnext : m.nextDone n = some j) (hst : j.st = .done st d q) : doCompletion m n =
    if (m.cqTail n + 1) % 64 = m.cqHead n then m.setBit (cix n) 4 28 true else (m.recordWritten n j st d).releaseFences n := by
  rw [doCompletion, hnext]
  dsimp only
  rw [hst]
  rfl

/-- The ring object after a record. -/
theorem Mach.recordShown_spec (n st : Nat) {tail : Nat} (htail : tail < 64) : (m.recordShown n tail st).cqTail n = tail ∧
    (m.recordShown n tail st).objBit (cix n) 4 28 = false ∧ (m.recordShown n tail st).sqHead n = m.sqHead n := by
  have hcounter : okey (cix n) (if st = 0 then 6 else if st = 2 || st = 3 then 7 else 8) ≠ okey (cix n) 4 := by
    intro he
    have := (okey_right ..).mp he
    split_ifs at this
    all_goals omega
  have hword : (m.recordShown n tail st).obj (cix n) 4 = ((m.setField (cix n) 4 27 22 tail).setBit (cix n) 4 28 false).obj (cix n) 4 :=
    Mach.obj_setObj_other _ hcounter _
  have hfield : ∀ hi lo, (m.recordShown n tail st).field (cix n) 4 hi lo =
      ((m.setField (cix n) 4 27 22 tail).setBit (cix n) 4 28 false).field (cix n) 4 hi lo := fun hi lo => congrArg (fld · hi lo) hword
  have hfull : ∀ hi lo, hi < 28 → ((m.setField (cix n) 4 27 22 tail).setBit (cix n) 4 28 false).field (cix n) 4 hi lo =
      (m.setField (cix n) 4 27 22 tail).field (cix n) 4 hi lo := fun hi lo h =>
    Mach.field_setField_apart _ _ _ 28 28 (b2n false) hi lo (by decide) (.inr h)
  refine ⟨?_, ?_, ?_⟩
  · rw [Mach.cqTail, hfield, hfull 27 22 (by decide), Mach.field_setField_same _ _ _ _ _ _ (by decide)]
    exact Nat.mod_eq_of_lt htail
  · exact (Mach.objBit_of_obj _ hword 28).trans (Mach.objBit_setBit_same ..)
  · rw [Mach.sqHead, hfield, hfull 5 0 (by decide), Mach.field_setField_apart _ _ _ _ _ _ _ _ (by decide) (.inr (by decide)), Mach.sqHead]

/-- Bytes stored change memory, what is known of its halves and the stack they are stored in. -/
theorem Mach.put_only (m : Mach) (a : Nat) (bs : List Byte) : m.put a bs = { m with
    mem := (m.wr a bs).mem
    bad := (m.put a bs).bad
    stackRt := (m.put a bs).stackRt
    objs := (m.put a bs).objs } := by
  unfold Mach.put
  rw [Mach.touch_only]
  rfl

/-- They write no object below those of the stacks. -/
theorem Mach.obj_put_below (m : Mach) (a : Nat) (bs : List Byte) {i b : Nat} (hi : i < 0x4100) (hb : b < 256) : (m.put a bs).obj i b = m.obj i b := by
  have hwr : (m.put a bs).objs = (m.touch [(a, bs.length)]).objs := rfl
  rw [Mach.obj_eq_of_objs hwr]
  refine SameObjs.touch m [(a, bs.length)] _ _ fun hmem => ?_
  obtain ⟨x, -, he⟩ := List.mem_map.mp hmem
  have := (okey_inj (by decide) hb).mp he
  omega

/-- What a record written leaves (R400, Table 14-7). -/
theorem Mach.recordWritten_spec {n : Nat} (hn : n < 512) (j : Job) (st d : Nat) :
    (m.recordWritten n j st d).mem = (m.wr (m.obj (cix n) 3 + 32 * m.cqTail n) (m.jobRecord j st d)).mem ∧
    (m.recordWritten n j st d).cqTail n = (m.cqTail n + 1) % 64 ∧ (m.recordWritten n j st d).objBit (cix n) 4 28 = false ∧
    (m.recordWritten n j st d).sqHead n = m.sqHead n ∧ (m.recordWritten n j st d).jobs = m.jobs.filter (fun x => !x.same j) ∧
    (m.recordWritten n j st d).cqCount.get 0 n = m.cqCount.get 0 n + 1 ∧ (m.recordWritten n j st d).cores = m.cores := by
  have hput := m.put_only (m.obj (cix n) 3 + 32 * m.cqTail n) (m.jobRecord j st d)
  have hhead : (m.put (m.obj (cix n) 3 + 32 * m.cqTail n) (m.jobRecord j st d)).sqHead n = m.sqHead n :=
    congrArg (fld · 5 0) (m.obj_put_below _ _ (cix_range hn).2 (by decide))
  have htail : (m.cqTail n + 1) % 64 < 64 := Nat.mod_lt _ (by decide)
  unfold Mach.recordWritten
  dsimp only
  generalize m.put (m.obj (cix n) 3 + 32 * m.cqTail n) (m.jobRecord j st d) = w at *
  generalize m.wr (m.obj (cix n) 3 + 32 * m.cqTail n) (m.jobRecord j st d) = written at *
  obtain ⟨hshown, hfull, hsq⟩ := w.recordShown_spec n st htail
  have honly : ObjsOnly w (w.recordShown n ((m.cqTail n + 1) % 64) st) := rfl
  generalize w.recordShown n ((m.cqTail n + 1) % 64) st = x at *
  have hspec : ∀ a : Mach, a = { x.recordCounted n j with
      outbox := a.outbox
      hosts := a.hosts } → a.mem = written.mem ∧ a.cqTail n = (m.cqTail n + 1) % 64 ∧ a.objBit (cix n) 4 28 = false ∧ a.sqHead n = m.sqHead n ∧
      a.jobs = m.jobs.filter (fun x => !x.same j) ∧ a.cqCount.get 0 n = m.cqCount.get 0 n + 1 ∧ a.cores = m.cores := by
    intro a ha
    unfold ObjsOnly at honly
    rw [ha]
    refine ⟨?_, hshown, hfull, hsq.trans hhead, ?_, ?_, ?_⟩
    · change x.mem = _
      rw [honly, hput]
    · change x.jobs.filter _ = _
      rw [honly, hput]
    · change (x.cqCount.put n (x.cqCount.get 0 n + 1)).get 0 n = _
      rw [AMap.get_put_same, honly, hput]
    · change x.cores = _
      rw [honly, hput]
  split
  · exact hspec _ (Mach.raise_only ..)
  · exact hspec _ rfl

end

/-- COMPLETION_RECORD: the record is stored at CQ_TAIL and its job is gone; in a full ring it waits (R400). -/
theorem completionRecords {s : State} {n st d q : Nat} {j : Job} (hrun : s.mach.phase = .running) (hn : n < 512)
    (hnext : s.mach.nextDone n = some j) (hst : j.st = .done st d q) :
    let t := s.mach.cqTail n
    ((t + 1) % 64 = s.mach.cqHead n → Gives (.completionRecord n) s (s.mach.setBit (cix n) 4 28 true)) ∧
    ((t + 1) % 64 ≠ s.mach.cqHead n → ∃ m, Gives (.completionRecord n) s m ∧
      Stores [(s.mach.obj (cix n) 3 + 32 * t, s.mach.jobRecord j st d)] s.mach m ∧ m.cqTail n = (t + 1) % 64 ∧ m.objBit (cix n) 4 28 = false ∧
      m.sqHead n = s.mach.sqHead n ∧ (∀ k ∈ m.jobs, k.same j = false) ∧ m.jobs.length = (s.mach.jobs.filter (fun k => !k.same j)).length ∧
      m.cqCount.get 0 n = s.mach.cqCount.get 0 n + 1 ∧ m.cores = s.mach.cores) := by
  intro t
  have hg := gives_step (.completionRecord n) s (fun m => doCompletion m n) rfl hrun
  rw [doCompletion_of_done hnext hst] at hg
  refine ⟨fun hfull => by rwa [if_pos hfull] at hg, fun hroom => ?_⟩
  rw [if_neg hroom] at hg
  obtain ⟨hmem, htail, hclear, hhead, hjobs, hcount, hcores⟩ := s.mach.recordWritten_spec hn j st d
  generalize s.mach.recordWritten n j st d = w at *
  have hadmits := AdmitsOnly.releaseFences w n
  have hfields := hadmits.fields
  have horigins := hadmits.origins
  generalize w.releaseFences n = m at *
  have hobjs : ∀ i b, m.obj i b = w.obj i b := fun i b => Mach.obj_eq_of_objs (by rw [hfields]) i b
  refine ⟨m, hg, Stores.of_mem ?_, ?_, ?_, ?_, fun k hk => ?_, ?_, ?_, ?_⟩
  · rw [hfields]
    exact hmem
  · exact (congrArg (fld · 27 22) (hobjs _ _)).trans htail
  · exact (Mach.objBit_of_obj w (hobjs _ _) 28).trans hclear
  · exact (congrArg (fld · 5 0) (hobjs _ _)).trans hhead
  · obtain ⟨x, hx, he⟩ := List.mem_map.mp (horigins ▸ List.mem_map_of_mem hk)
    rw [hjobs] at hx
    have hother := (List.mem_filter.mp hx).2
    simp only [jobOrigin, Prod.mk.injEq] at he
    obtain ⟨hclient, -, -, hseq, -⟩ := he
    rw [Bool.not_eq_true'] at hother
    rwa [Job.same, ← hclient, ← hseq]
  · have hlen := congrArg List.length horigins
    rwa [List.length_map, List.length_map, hjobs] at hlen
  · rw [hfields]
    exact hcount
  · rw [hfields]
    exact hcores

/-- Settles O19: a job that is fetched keeps its origin whatever is made of it later, and one that has ended goes with its record. -/
theorem jobRecords : Obligations.JobRecords := by
  unfold Obligations.JobRecords
  exact ⟨fun s n v hrun => ⟨unboundDoorbells hrun n v, fun p hbound => ⟨sqTails hrun hbound, cqHeads hrun hbound⟩⟩,
    fun s n v p hrun hbound => cancels hrun hbound, fun s n st d q j hrun hn hnext hst => completionRecords hrun hn hnext hst⟩

end Sys2Proof.Machine
end
